-- ==== Sys2Proof/Word.lean ====
section
/-! DEFINITION. The word types of the Pyavapel Time-and-Step System and the sparse table that holds arrays.

The plainest types only; everything a test could show wrong about time arithmetic stands in
`Sys2Proof/Machine/Arith.lean`. -/

namespace Sys2Proof

/-- A Spindle Time value or duration in tu (R15). -/
abbrev St := BitVec 64
/-- A tick index (R20). -/
abbrev Tick := BitVec 50
/-- A step number of a turning (R34). -/
abbrev Step := BitVec 48
/-- A 24-bit node ID (R65). -/
abbrev Node := BitVec 24
/-- A configuration or membership epoch (R39, R40). -/
abbrev Epoch := BitVec 16
/-- One byte of a cell, a record or a memory. -/
abbrev Byte := BitVec 8
/-- A 32-bit word. -/
abbrev W32 := BitVec 32
/-- A 64-bit register or word. -/
abbrev W64 := BitVec 64

/-- A sparse array in one canonical form: keys strictly rising, and no entry equal to what an
unlisted key reads as. -/
abbrev Tab (α : Type) := List (Nat × α)

end Sys2Proof
end

