-- ==== Sys2Proof/Syntax.lean ====
section
/-! DEFINITION. The commands of the block: one constructor of `Instr` per row of the operation table, with the
cells, messages and other operands that they carry.

A command is an event at one of the two modelled parts, the PV-TSU4 (`Part.tsu`) and the PV-D128
(`Part.dist`). Where a row happens at either part its first operand names the part. Cells and messages are
operands field by field, in the layouts of the chapters cited at each structure. -/

namespace Sys2Proof

/-- The two parts of the manual (R1). -/
inductive Part | tsu | dist
deriving DecidableEq, Repr

/-- The two planes of a hall (R51). -/
inductive Plane | a | b
deriving DecidableEq, Repr

/-- The shared status codes of R10, in code order 0x00 to 0x13. -/
inductive Status
  | ok | pending | busy | full | deferred | refused | late | partialResult | unverified | epochStale
  | notMember | quarantined | rolledBack | underflow | overflow | denied | planeDisagree | noTime
  | badCommand | cancelled
deriving DecidableEq, Repr

/-- Who sent a mailbox command: the part that executes it, the mailbox (every command at a distributor counts
as mailbox 0, R390), the TAG and the TXN of its slot (R385). -/
structure Cmd where
  part : Part
  mbx  : Nat
  tag  : BitVec 16
  txn  : W32
deriving DecidableEq, Repr

/-- The header of a traffic cell as it arrives (R106), with the outcome of its CRC (R109). -/
structure Arr where
  port  : Nat
  crcOk : Bool := true
  ctype : BitVec 4
  hver  : BitVec 4 := 1
  slot0 : Bool := false
  slice : Nat
  first : Bool := true
  last  : Bool := true
  ce    : Epoch
  me    : Epoch
  seq   : BitVec 16
deriving DecidableEq, Repr

/-- The MARKER cell: its payload (R129) and the epoch pair of its header (R107). -/
structure Marker where
  ce : Epoch
  me : Epoch
  tickSt : St
  sendOfs : BitVec 16
  dir : Bool
  planeB : Bool
  holding : Bool
  noTime : Bool
  retValid : Bool
  newLeader : BitVec 2
  node : Node
  refState : BitVec 3
  leader : BitVec 2
  cePend : Bool
  mePend : Bool
  leadPend : Bool
  pendCe : Epoch
  pendMe : Epoch
  pendTick : BitVec 16
  rot : BitVec 16
  retTag : BitVec 16
  retDelta : W32
  ownRes : W64
  ofsEst : BitVec 24
  accUnc : BitVec 16
  depth : BitVec 8
  calLane : BitVec 2
  calValid : Bool
  calTx : BitVec 16
  calRx : BitVec 16
  wm : W32
deriving DecidableEq, Repr

/-- What stands in slot 0 (R46): nothing, a cell whose CRC fails, or a marker with a good CRC. -/
inductive Slot0
  | empty
  | badCrc
  | cell (m : Marker)
deriving DecidableEq, Repr

/-- The payload of a TRAIN cell (R115), with the outcome of its CRC. -/
structure Train where
  crcOk : Bool := true
  tkind : Nat
  node : Node
  port : Nat
  phys : BitVec 2
  good : BitVec 8
  cap : BitVec 8
  ckind : Nat
  map : BitVec 6
  ntick : Tick
  orderId : BitVec 16
deriving DecidableEq, Repr

/-- The SIGNAL payload (R233). `op` is 1 ADD, 2 SUB, 3 READ, 4 REPLY. -/
structure SignalCell where
  op : Nat
  replyReq : Bool
  src : Node
  srcCore : Nat
  dst : Node
  counter : Nat
  opId : BitVec 16
  n : W32
  deadline : St
  status : Nat
  value : W32
deriving DecidableEq, Repr

/-- The shared payload of BARRIER_ARRIVE and BARRIER_DONE (R242). -/
structure BarCell where
  group : Nat
  gen : BitVec 16
  src : Node
  part_ : Bool
  deferred : Bool
  sentSt : St
deriving DecidableEq, Repr

/-- The payload of COLLECT_UP and COLLECT_DOWN (R259): DESC, INST and 50 bytes of the record. -/
structure CollectCell where
  desc : Nat
  inst : Nat
  data : List Byte
deriving DecidableEq, Repr

/-- A ledger entry (R284). -/
structure LedgerEntry where
  slice : Nat
  sgroup : Nat
  prio : Nat
  state : Nat
  reason : Nat
  gen : BitVec 16
  slot : Nat
  tokens : W32
  maxLen : W32
  deadline : St
  interval : W32
  lastClose : BitVec 16
  outcome : Nat
  eosSeen : Bool
  dueNone : Bool
  partialToken : Bool
  intervalMiss : Bool
  onePlane : Bool
  pendPause : Bool
  pendCancel : Bool
  arrival : St
  page : W64
  seed : W64
  owner : W32
  ownerDie : Nat
  ownerMbx : Nat
deriving DecidableEq, Repr

/-- A LEDGER message (R288). `op` is 1 SUBMIT, 2 READ, 3 PAUSE, 4 RESUME, 5 CANCEL, 6 RELEASE, 7 REPLY,
8 EVENT, 9 CLOSE. For a CLOSE, `sg`, `step` and `arg` are bytes 20 to 30. -/
structure LedgerMsg where
  op : Nat
  src : Node
  opId : BitVec 16
  req : Nat
  gen : BitVec 16
  status : Nat
  mbx : Nat
  submitSt : St
  entry : LedgerEntry
  sg : Nat
  step : Step
  arg : W32
deriving DecidableEq, Repr

/-- One element of a batch delta record (R300). `join` is KIND 0b01, otherwise LEAVE. -/
structure DeltaElem where
  join : Bool
  slot : Nat
  req : Nat
  gen : BitVec 16
  prio : Nat
  tokens : W32
  maxLen : W32
  seed : W64
  page : W64
deriving DecidableEq, Repr

/-- A BATCH_DELTA record (R300); `check` is the CHECK field of its tail as received. -/
structure DeltaRec where
  sgroup : Nat
  full : Bool
  closeStep : Step
  applyStep : Step
  release : St
  capacity : Nat
  elems : List DeltaElem
  status : Nat
  check : W32
deriving DecidableEq, Repr

/-- One change of a PROPOSE or MEMBER cell (R338). `state` is the new state in the codes of NODE_RECORD
(R516): 0 IN_SERVICE or joined, 2 QUARANTINED, 3 FENCED, 4 DRAINED, and for a die 7 removed;
6 stands for the start of a drain at E1 (R374). -/
structure Change where
  node : Node
  state : Nat
  cause : Nat
deriving DecidableEq, Repr

/-- A REPORT body (R339). -/
structure Report where
  accused : Node
  hard : Bool
  split : Bool
  cause : Nat
  tj : Int
  region : Nat
  freq : Nat
  opref : W32
  p2Slots : Nat
  p1Depth : Nat
  stretch : Nat
  detail : W32
deriving DecidableEq, Repr

/-- The bodies of VOTE cells (R338). -/
inductive VoteBody
  | ref (root : Nat) (state : Nat) (key : BitVec 16) (ePs : Int) (yc : Int) (absErr : Nat)
  | digest (sg : Nat) (step : Step) (crc : W32)
  | report (r : Report)
  | propose (cs : List Change)
  | member (cs : List Change) (newMe : Epoch) (tick : Tick)
  | fenceNotice (node : Node) (me : Epoch)
  | rootLoss (lost : BitVec 3)
  | electOffer (index : Nat) (snapTick : Tick)
  | electAccept (index : Nat)
  | triadSet (members : List (Nat × Node)) (leader : Nat) (tick : Tick)
  | copy (offset : Nat) (data : List Byte)
  | resend (slice : Nat) (id : Nat) (isDelta : Bool) (step : Step)
  | digestReq (slice : Nat) (id : Nat) (step : Step)
  | postDigest (slice : Nat) (id : Nat) (level : Nat) (crc : W32)
deriving DecidableEq, Repr

/-- A VOTE cell (R338): sender, destination, event time and body; the ME stands in the header. -/
structure Vote where
  src : Node
  dst : Node
  me : Epoch
  eventSt : St
  body : VoteBody
deriving DecidableEq, Repr

/-- The fields of a serving group (R281). -/
structure SgFields where
  valid : Bool
  slice : Nat
  group : Nat
  capacity : Nat
  closeOfs : Nat
  tokenOfs : Nat
  deltaLead : Nat
  fullPeriod : Nat
deriving DecidableEq, Repr

/-- A collect descriptor (R253). LEDGER, DONE_CTR and NOTIFY_CORE hold 0x1FF, 0x1FFF and 0x3FF for none. -/
structure Desc where
  valid : Bool
  op : Nat
  type : Nat
  k : Nat
  elems : Nat
  group : Nat
  deadlineOfs : Nat
  releaseOfs : Nat
  ledger : Nat
  wide : Bool
  contribBuf : Nat
  resultBuf : Nat
  doneCtr : Nat
  notifyCore : Nat
deriving DecidableEq, Repr

/-- A part's piece of a hall group (R240, R519): a die's member bit, DIE_ARRIVALS and DONE_CTR, and a
distributor's top flag and port mask. -/
structure HPiece where
  slice : Nat
  member : Bool
  arrivals : Nat
  doneCtr : Nat
  top : Bool
  mask : BitVec 96
deriving DecidableEq, Repr

/-- An index-plate entry: W0, W1 and W2 (R193). -/
structure Entry where
  w0 : W64
  w1 : W64
  w2 : W64
deriving DecidableEq, Repr

/-- A context image (R252): slice and turning, counters, region groups, active plate bank and hall-group
entries. -/
structure CtxImage where
  slice : Nat
  st0 : St
  len : Nat
  step : Step
  counters : List (Nat × W32 × W32)
  groups : List (Nat × BitVec 144)
  plate : List (Nat × Entry)
  hgroups : List (Nat × HPiece × BitVec 16)
deriving DecidableEq, Repr

/-- The header fields of a firmware image that the boot ROM tests (R379), and the initial guard values. -/
structure FwHdr where
  magic : W32
  target : Byte
  keyIndex : Nat
  raiseMin : Bool
  secVersion : W32
  fwVersion : W32
  guards : List W64
deriving DecidableEq, Repr

/-- The outcomes of the tests of R380 that need the verify engine or the DMA path: whether the image was
read, whether the key hash, the signature and the body digest match. -/
structure FwChecks where
  readOk : Bool
  keyHashOk : Bool
  sigOk : Bool
  digestOk : Bool
deriving DecidableEq, Repr

/-- The fields of a JOIN_READY message (R407). -/
structure JoinReady where
  node : Node
  kind : Nat
  accUnc : Nat
  bootCount : W32
  ports : BitVec 128
  digest : W32
deriving DecidableEq, Repr

/-- The state that a joining distributor copies (R372): group masks, slice maps, port weights, turnings and
the collect hop. -/
structure CopyState where
  groups : List (Nat × HPiece)
  maps : List (Nat × BitVec 96)
  weights : List (Nat × Nat)
  turnings : List (Nat × St × Nat × St × Step)
  collectHop : Nat
deriving DecidableEq, Repr

/-- Arguments of a TXN decision (R399, R400). -/
structure Decision where
  commit : Bool
  effect : St
  ce : Epoch
  step : Step
  reason : Status
  node : Node
  detail : Nat
deriving DecidableEq, Repr

/-- The envelope of a management message (R403 to R405): SRC, DST, MSG_ID, key slot, NONCE, and whether its
GCM tag verifies under the key in that slot. -/
structure MgmtEnv where
  src : Node
  dst : Node
  msgId : BitVec 16
  key : Nat
  nonce : W64
  tagOk : Bool
deriving DecidableEq, Repr

/-- The commands that a distributor's Headstock executes from a COMMAND management message (R390, R392,
R507), with their arguments; `other` is an opcode that the tables do not list for a PV-D128. `resync` is the request
for a full delta of R301, for which the manual names no message. -/
inductive RemoteCmd
  | txnBegin (n : Nat)
  | commit (whenStep : Bool) (slice : Nat) (step : Step)
  | rollback
  | txnStatus (txn : W32)
  | turningSet (slice : Nat) (st0 : Option St) (len : Option Nat) (boundary : Option Step)
  | sliceMapWrite (slice : Nat) (mask : BitVec 96)
  | sliceWeight (port slice weight : Nat)
  | hgroupWrite (group : Nat) (piece : HPiece)
  | hgroupFree (group : Nat)
  | sgWrite (sg : Nat) (f : SgFields)
  | ledgerPart (quotas : List Nat)
  | configWrite (index : Nat) (value : W64)
  | sliceReset (slice : Nat)
  | timeMap (step : Int) (utc : Int) (utcSet : Bool)
  | align (scope slice : Nat) (step : Step)
  | drain (node : Node)
  | undrain (node : Node)
  | rejoin (die : Nat)
  | quarantineClear (node : Node)
  | keyLoad (slot : Nat) (tagOk : Bool)
  | keySelect (slot : Nat) (tick : Tick)
  | fwStage (data : List Byte) (dmaOk : Bool)
  | fwActivate (slot : Nat)
  | nop
  | ident
  | status (offset count : Nat) (write : Bool) (wOffset : Nat) (wValue wMask : W64)
  | fwRecover (data : List Byte) (dmaOk : Bool)
  | resync (sg : Nat)
  | other (opcode : Nat)
deriving DecidableEq, Repr

/-- A completion entry (R386); `r0`, `r1` and `r2` are RESULT bytes 8 to 31 as three words. -/
structure Completion where
  tag : BitVec 16
  opcode : Nat
  status : Status
  unverified : Bool := false
  part_ : Bool := false
  late : Bool := false
  deferred : Bool := false
  final : Bool := true
  r0 : W64 := 0
  r1 : W64 := 0
  r2 : W64 := 0
deriving DecidableEq, Repr

/-- The bodies of management messages (R407). -/
inductive MgmtBody
  | command (tag : BitVec 16) (txn : W32) (rc : RemoteCmd)
  | completion (c : Completion)
  | txnJoin (txn : W32) (n : Nat)
  | commitRequest (txn : W32) (whenStep : Bool) (slice : Nat) (step : Step)
  | prepare (txn : W32) (deadline : St) (boundary : St)
  | prepared (txn : W32) (ok : Bool) (reason : Status) (detail : Nat)
  | decide (txn : W32) (d : Decision)
  | txnQuery (txn : W32)
  | joinReady (j : JoinReady)
  | partDone (node : Node) (st : St) (cancelled : Nat)
  | copyReq
  | copyData (c : CopyState) (digest : W32)
  | image (c : CopyState)
  | fwData (offset : Nat) (data : List Byte)
  | removeRequest (node : Node)
deriving DecidableEq, Repr

/-- A message on a PTP port (R74): an event or general message of the selected master, an Announce with its
fields, or a management message. -/
inductive PtpMsg
  | announce (clockClass clockAccuracy : Nat) (identity : W64) (utcOffset : BitVec 16) (utcValid : Bool)
      (arbTimescale : Bool)
  | sync (offsetPs : Int)
  | delayResp
  | management
deriving DecidableEq, Repr

/-- The validity test that an input fails (R77, R78). -/
inductive RefFail
  | ppsMissing | tenMhz | announceTimeout | noSync | noDelayResp | portNotSlave | linkDown | frequency
  | noEsmc | qlDnu | phaseJump
deriving DecidableEq, Repr

/-- SyncE quality levels (R80). -/
inductive Ql
  | prtc | eprtc | prc | eprc | prs | ssuA | st2 | ssuB | st3e | eec1 | eec2 | sec | st3 | dnu | dus
deriving DecidableEq, Repr

/-- The pulse outputs whose phase follows absolute time (R91). -/
inductive PulseOut | pps | tenMhz | pulse0 | pulse1
deriving DecidableEq, Repr

/-- The causes of R333, one per row of its table, coded 0x01 to 0x13 (R339). -/
abbrev Cause := Nat

/-- The commands: one constructor per row of the operation table, in the table's order. -/
inductive Instr
  -- time
  | runStart
  | tickEdge (p : Part) (sendOfs : Nat)
  | markerReceive (p : Part) (port : Nat) (slot : Slot0) (stamp : St)
  | loopWindowEnd (p : Part)
  | holdBudgetExpire (p : Part)
  | mapRecordAccept (p : Part) (port : Nat) (odd : Bool)
  | mapEffect (p : Part)
  | wrapRecordSend
  | timeMap (c : Cmd) (step : Int) (utc : Int) (utcSet : Bool)
  | stNowLoRead (p : Part) (wide : Bool)
  | mapOriginSecRead (p : Part)
  | stepBoundary (p : Part) (slice : Nat)
  | turningStart (p : Part) (slice : Nat)
  | plateBankCopy
  | txnEffect (p : Part) (txn : W32)
  | membershipEffect (p : Part)
  | leaderChangeEffect (p : Part)
  -- references
  | refInputFail (i : Nat) (why : RefFail)
  | wtrExpire (i : Nat)
  | selectionRun
  | voteRefReceive (port : Nat) (v : Vote)
  | ptpMessageReceive (port : Nat) (m : PtpMsg)
  | esmcPduReceive (port : Nat) (ql : Ql)
  | refPresenceWindow (i : Nat) (pps : Bool) (count : Nat) (inTime : Bool)
  | align (c : Cmd) (scope slice : Nat) (step : Step)
  | alignApply (p : Part)
  -- links
  | portEnableWrite (p : Part) (port : Nat) (enable : Bool)
  | portRetrainWrite (p : Part) (port : Nat)
  | signalDetect (p : Part) (port lane : Nat)
  | ts1Receive (p : Part) (port : Nat) (t : Train)
  | ts2Receive (p : Part) (port : Nat) (t : Train)
  | alignMapReceive (p : Part) (port : Nat) (t : Train)
  | alignDoneReceive (p : Part) (port : Nat) (t : Train)
  | trainRetry (p : Part) (port : Nat)
  | alignTimeout (p : Part) (port : Nat)
  | calReceive (p : Part) (port : Nat) (t : Train)
  | timecalComplete (p : Part) (port : Nat)
  | unplannedRetrain (p : Part) (port : Nat)
  | lossOfSignal (p : Part) (port : Nat)
  | laneFail (p : Part) (port lane : Nat)
  | laneWarn (p : Part) (port lane : Nat)
  | spareTrained (p : Part) (port : Nat)
  | changeReqReceive (p : Part) (port : Nat) (t : Train)
  | changeOrderReceive (p : Part) (port : Nat) (t : Train)
  | changeAckReceive (p : Part) (port : Nat) (t : Train)
  | swapCopyStart (p : Part) (port : Nat)
  | linkChangeApply (p : Part) (port : Nat) (matched : Bool)
  | slotTransmit (p : Part) (port slot : Nat)
  | rotationStart (p : Part) (port : Nat)
  | calDwellEnd (p : Part) (port lane : Nat) (tx rx : BitVec 16)
  | calAgeStep (p : Part) (port : Nat)
  -- regions
  | markPathCal (region : Nat) (rt : Option Nat)
  | markCalComplete (tTurn : Nat)
  | markEmit
  | markReceive (region : Nat) (frame : W64) (phi : Nat) (edges : List W32)
  | markMiss (region : Nat) (edges : List W32)
  | markControlWrite (v : Nat)
  | regionClockStop (region : Nat)
  | regionFreqChange (region : Nat) (setting : Nat) (edges : List W32)
  | crossingWordArrive (region port : Nat) (tag : BitVec 22) (word : W64) (edges : List W32)
  | crossingRelease (region port : Nat) (edges : List W32)
  | crossCal (region port : Nat) (d : Nat)
  | crossBudgetWrite (v : Nat)
  -- plate
  | entryArm
  | regionArmReceive (region : Nat) (entry : Nat) (cond : Bool) (t : St) (arg : W32)
  | kernelLaunch (region : Nat) (edges : List W32)
  | firedFrameReceive (region : Nat) (frame : W64)
  | conditionDecide (entry : Nat)
  | regionReleaseReceive (region entry : Nat)
  | regionCancelReceive (region entry : Nat)
  | holdExpire (entry : Nat)
  | ctrAdd (entry : Nat)
  | ctrSub (entry : Nat)
  | collect (entry : Nat)
  | timTrig (entry : Nat)
  | tsOut (entry : Nat)
  | tsOutPulseEnd
  | strobe (entry : Nat)
  | stepClose (entry : Nat)
  | stepFaultClear
  -- counter port
  | add (core : Nat) (ctag : BitVec 16) (counter : Nat) (n : W32)
  | sub (core : Nat) (ctag : BitVec 16) (counter : Nat) (n : W32)
  | read (core : Nat) (ctag : BitVec 16) (counter : Nat)
  | set (core : Nat) (ctag : BitVec 16) (counter : Nat) (v : W32)
  | unknownCounterOpc (core : Nat) (ctag : BitVec 16) (opc : Nat)
  | signal (core : Nat) (ctag : BitVec 16) (target counter op : Nat) (n : W32) (replyReq : Bool)
  | watchReg (core : Nat) (ctag : BitVec 16) (counter : Nat) (eq rearm : Bool) (target : Nat)
      (tag : BitVec 16) (threshold : W32)
  | watchCancel (core : Nat) (ctag : BitVec 16) (watch : Nat)
  | localDefine (core : Nat) (ctag : BitVec 16) (slot group : Nat) (cores : BitVec 4)
  | localArrive (core : Nat) (ctag : BitVec 16) (slot : Nat)
  | hallArrive (core : Nat) (ctag : BitVec 16) (group : Nat)
  | collectStart (core : Nat) (ctag : BitVec 16) (desc : Nat) (tag : W32) (step : Step)
  | coreCreditReturn (core : Nat)
  -- signals and barriers in the fabric
  | signalCellReceive (a : Arr) (c : SignalCell)
  | signalForward (a : Arr) (c : SignalCell)
  | signalReplyReceive (a : Arr) (c : SignalCell)
  | signalDeckleExpire (src : Node) (opId : BitVec 16)
  | replyDeckleExpire (opId : BitVec 16)
  | signalDeadlineExpire (opId : BitVec 16)
  | barrierArriveReceive (a : Arr) (c : BarCell)
  | barrierDoneForward (a : Arr) (c : BarCell)
  | barrierDoneReceive (a : Arr) (c : BarCell)
  | barrierDeckleExpire (group : Nat)
  | barrierWaitExpire (group : Nat)
  | contextSwitch
  | contextPortReopen
  -- collectives
  | collectUpReceive (a : Arr) (c : CollectCell)
  | postDeadlineLimit (slice id : Nat) (plane : Plane)
  | postTornLimit (slice id : Nat) (plane : Plane)
  | collectDownReceive (a : Arr) (c : CollectCell)
  | rootVoteExpire (slice id : Nat)
  | collectResultReceive (a : Arr) (c : CollectCell)
  | collectRelease (desc inst : Nat)
  | collectExpire (desc inst : Nat)
  | resendReceive (port : Nat) (v : Vote)
  | resendWaitExpire (desc inst : Nat)
  | resultKeepExpire (slice id : Nat)
  | digestReqReceive (port : Nat) (v : Vote)
  | postDigestReceive (port : Nat) (v : Vote)
  | digestWaitExpire (slice id : Nat)
  -- ledger
  | ledgerSubmit (c : Cmd) (sgroup prio : Nat) (tokens maxLen : W32) (deadline : St) (interval : W32)
      (page seed : W64) (owner : W32)
  | ledgerRead (c : Cmd) (req : Nat) (gen : BitVec 16)
  | ledgerPause (c : Cmd) (req : Nat) (gen : BitVec 16)
  | ledgerResume (c : Cmd) (req : Nat) (gen : BitVec 16)
  | ledgerCancel (c : Cmd) (req : Nat) (gen : BitVec 16)
  | ledgerRelease (c : Cmd) (req : Nat) (gen : BitVec 16)
  | ledgerCellReceive (a : Arr) (m : LedgerMsg)
  | ledgerCommit
  | ledgerReplyReceive (a : Arr) (m : LedgerMsg)
  | ledgerEventReceive (a : Arr) (m : LedgerMsg)
  | closeReceive (a : Arr) (m : LedgerMsg)
  | samplingResultReceive (sg : Nat) (step : Step) (plane : Plane)
  | ledgerSampleWaitExpire (sg : Nat) (step : Step)
  | closeDecide (sg : Nat)
  | closeMissed (sg : Nat)
  | batchDeltaReceive (a : Arr) (d : DeltaRec)
  | deltaRelease (sg : Nat) (step : Step)
  | retainExpire (req : Nat)
  | ledgerDigestReceive (port : Nat) (v : Vote) (majority : List (Nat × Nat))
  | ldRpWrite (k : Nat) (v : BitVec 16)
  -- slices
  | sliceReset (c : Cmd) (slice : Nat)
  | sliceResetEffect (p : Part) (slice : Nat)
  | sliceMove
  -- faults and membership
  | reportReceive (port : Nat) (v : Vote)
  | proposeReceive (port : Nat) (v : Vote)
  | memberReceive (p : Part) (port : Nat) (v : Vote)
  | fenceNoticeReceive (port : Nat) (v : Vote)
  | fenceWaitExpire (node : Node)
  | suspectClearExpire (node : Node)
  | probationEnd (node : Node)
  | timSelfCheck (p : Part) (channel : Nat) (interpB : Bool) (value : Int)
  | eccUncorrectable (p : Part)
  | watchdogExpire (p : Part) (pc : W32)
  | rootLossReceive (port : Nat) (v : Vote)
  | electOfferReceive (port : Nat) (v : Vote)
  | electAcceptReceive (port : Nat) (v : Vote)
  | electOfferTimeout (index : Nat)
  | triadSetReceive (p : Part) (port : Nat) (v : Vote)
  | triadEffect (p : Part)
  | electLimitExpire
  | copyReceive (port : Nat) (v : Vote)
  | ledgerReplayComplete
  -- power-up, joining, parting, update
  | tsuResetRelease
  | fwGo (addr : W64)
  | bootComplete (p : Part) (hdr : FwHdr) (checks : FwChecks) (hdr2 : FwHdr) (checks2 : FwChecks)
  | truingSlow
  | joinSettleExpire (p : Part)
  | joinReadyRepeat (p : Part)
  | joinReadyReceive (env : MgmtEnv) (j : JoinReady)
  | part (c : Cmd) (step : Step)
  | partBoundary
  | partDrainComplete
  | partLimitExpire
  | partDoneReceive (env : MgmtEnv) (node : Node) (st : St) (cancelled : Nat)
  | rejoin (c : Cmd) (die : Nat)
  | quarantineClear (c : Cmd) (node : Node)
  | drain (c : Cmd) (node : Node)
  | undrain (c : Cmd) (node : Node)
  | drainComplete
  | drainLimitExpire
  | copyReqReceive (port : Nat) (env : MgmtEnv)
  | copyDataReceive (env : MgmtEnv) (cs : CopyState) (digest : W32)
  | imageReceive (env : MgmtEnv) (cs : CopyState)
  | powerOnReset (role : BitVec 2) (planeB rootCapable : Bool) (smbAddr : BitVec 3)
  | nodePositionWrite (v : W64)
  -- Headstock and mailboxes
  | mbDoorbell (mbx : Nat) (v : BitVec 16)
  | mbCplConsWrite (mbx : Nat) (v : BitVec 16)
  | mailboxUnknownOpcode (c : Cmd) (opcode : Nat)
  | txnBegin (c : Cmd) (n : Nat)
  | commit (c : Cmd) (whenStep : Bool) (slice : Nat) (step : Step)
  | rollback (c : Cmd)
  | txnStatus (c : Cmd) (txn : W32)
  | plateWrite (c : Cmd) (entry : Nat) (e : Entry)
  | plateAppend (c : Cmd) (e : Entry)
  | plateLoad (c : Cmd) (first : Nat) (es : List Entry) (dmaOk : Bool)
  | plateClear (c : Cmd)
  | rgroupWrite (c : Cmd) (group : Nat) (mask : BitVec 144)
  | descWrite (c : Cmd) (desc : Nat) (d : Desc)
  | turningSet (c : Cmd) (slice : Nat) (st0 : Option St) (len : Option Nat) (boundary : Option Step)
  | sliceAssign (c : Cmd) (slice : Nat) (valid : Bool)
  | sliceMapWrite (c : Cmd) (slice : Nat) (mask : BitVec 96)
  | sliceWeight (c : Cmd) (port slice weight : Nat)
  | hgroupWrite (c : Cmd) (group : Nat) (piece : HPiece)
  | hgroupFree (c : Cmd) (group : Nat)
  | sgWrite (c : Cmd) (sg : Nat) (f : SgFields)
  | ledgerPart (c : Cmd) (quotas : List Nat)
  | ctxSave (c : Cmd) (addr : W64) (step : Step)
  | ctxRestore (c : Cmd) (img : CtxImage) (dmaOk : Bool) (step : Step)
  | configWrite (c : Cmd) (index : Nat) (value : W64)
  | ctrAlloc (c : Cmd)
  | ctrAllocAt (c : Cmd) (counter : Nat)
  | ctrFree (c : Cmd) (counter : Nat)
  | ctrSet (c : Cmd) (counter : Nat) (v lim : W32)
  | ctrRead (c : Cmd) (counter : Nat)
  | keyLoad (c : Cmd) (slot : Nat) (tagOk : Bool)
  | keySelect (c : Cmd) (slot : Nat) (tick : Tick)
  | keySelectEffect (p : Part)
  | remoteCmd (c : Cmd) (dst : Node) (rc : RemoteCmd) (dmaOk : Bool)
  | fwStage (c : Cmd) (data : List Byte) (dmaOk : Bool)
  | fwActivate (c : Cmd) (slot : Nat)
  | nop (c : Cmd)
  | ident (c : Cmd)
  | status (c : Cmd) (offset count : Nat) (write : Bool) (wOffset : Nat) (wValue wMask : W64) (smbus : Bool)
  | fwRecover (c : Cmd) (data : List Byte) (dmaOk : Bool)
  | commitRequestReceive (env : MgmtEnv) (txn : W32) (whenStep : Bool) (slice : Nat) (step : Step)
  | txnJoinReceive (env : MgmtEnv) (txn : W32) (n : Nat)
  | prepareReceive (p : Part) (env : MgmtEnv) (txn : W32) (deadline boundary : St)
  | preparedReceive (env : MgmtEnv) (txn : W32)
  | prepFailReceive (env : MgmtEnv) (txn : W32) (reason : Status) (detail : Nat)
  | prepareDeadlineExpire (txn : W32)
  | decideReceive (p : Part) (env : MgmtEnv) (txn : W32) (d : Decision)
  | decideWaitExpire (p : Part) (txn : W32)
  | txnQueryReceive (env : MgmtEnv) (txn : W32)
  | mgmtCommandReceive (port : Nat) (env : MgmtEnv) (tag : BitVec 16) (txn : W32) (rc : RemoteCmd)
  | mgmtCompletionReceive (env : MgmtEnv) (cp : Completion)
  | fwDataReceive (env : MgmtEnv) (offset : Nat) (data : List Byte)
  -- measurement and the flight recorder
  | timEvent (p : Part) (channel : Nat) (fall tx : Bool) (tap : Nat)
  | statStart (p : Part) (unit : Nat) (v : W64)
  | intControlWrite (p : Part) (unit : Nat) (v : W64)
  | intLegacyTimeout (p : Part) (unit : Nat)
  | queueRead (p : Part) (offset : Nat)
  | rcRegisterRead (p : Part) (offset : Nat)
  | ledgerEntryRead
  | frArm (p : Part)
  | frDisarm (p : Part)
  | frTrigger (p : Part)
  | missedClr (p : Part)
  | frRearmComplete (p : Part)
  | frFreeze (p : Part)
  | frSoftwareWrite (p : Part) (data : W64)
  -- performance counters and histograms
  | perfSelWrite (p : Part) (n : Nat) (v : W64)
  | perfClear (p : Part) (n : Nat)
  | perfFreeze (p : Part) (freeze : Bool)
  | perfSnap (p : Part)
  | histClear (p : Part) (h : Nat)
  | slicePagePerfAccess (offset : Nat) (write : Bool) (v : W64)
  -- the die boundary, registers and hardware
  | coreReset (core : Nat)
  | coreResetRelease (core : Nat)
  | functionLevelReset
  | alertCauseClear (p : Part) (bits : W64)
  | rw1cWrite (p : Part) (offset : Nat) (bits : W64)
  | lbMaskWrite (word : Nat) (v : W64)
  | registerWrite (p : Part) (offset : Nat) (v : W64)
  | presenceMate
  | presenceBreak
  | removeRequest
  | powerGoodLoss
  | junctionTempChange (p : Part) (tj : Int)
  | jtagExtest
  | moduleInterrupt (bus : Nat) (presence ready : BitVec 8)
  | modulePoll (bus : Nat) (presence ready : BitVec 8)
  | ledgerOpDeadlineExpire (opId : BitVec 16)
  | dllLock (p : Part) (channel : Nat)
  | tsuRstNAssert
  | dResetNAssert
  | refclkRange (p : Part) (outside : Bool)
  | spareNotTrained (p : Part) (port : Nat)
  | regionClockStart (region : Nat)
  | markCalTemp (tj : Int)
  | ppsOutEdge (out : PulseOut) (rising : Bool)
deriving DecidableEq, Repr

end Sys2Proof
end

