-- ==== Sys2Proof/Decode.lean ====
section
/-! DEFINITION. The command that a word spells by the bits of the operation table. The table gives no row any bits: its
rows are operations and events that carry no instruction word. -/

namespace Sys2Proof

/-- No word spells a command: no row of the operation table gives bits. -/
def decodeTableWord (_nbits _w : Nat) : Option Instr := none

end Sys2Proof
end

