-- ==== Sys2Proof/Config.lean ====
section
/-! DEFINITION. What the manual leaves open: constants without a body, of which nothing can be proved. -/

namespace Sys2Proof.Config

/-- Whether a die is in a slice's membership table as the slice's last commit loaded it (R231), given the slice, the
CE of that commit and the die global index. The manual names no command that carries the table. -/
opaque sliceMember : Nat → BitVec 16 → Nat → Bool

/-- The free values drawn by a counter of the state: the output of the reference loops, of which the manual gives the
bandwidth only (R73, R84, R85), in 10^-8 ppb. -/
opaque freeRate : Nat → Int

/-- A free 32-bit word, drawn by a counter of the state. -/
opaque freeWord : Nat → BitVec 32

/-- D_ROOT_CAPABLE of another part of the hall (R53, R352): its strap, which no message carries. -/
opaque rootCapable : BitVec 24 → Bool

/-- A key slot's ciphertext is not modelled; whether two members see one commit-image digest is (R408): the roots'
CRC-32C digest of a distributor's committed state, by node and CE. -/
opaque stateDigest : BitVec 24 → BitVec 16 → BitVec 32

/-- The error in ns that an accuracy code names where neither the manual nor the clockAccuracy table of IEEE 1588 gives
one (R89). -/
opaque keyAccuracy : Nat → Nat

end Sys2Proof.Config
end

