-- ==== Sys2Proof/Machine/Arith.lean ====
section
/-! DEFINITION. Time arithmetic (R15 to R21, R34, R42), CRC-32C (R44), byte order (R7), clamps (R12) and
exact integer helpers. -/

namespace Sys2Proof.Machine

/-- The signed modular difference d(a, b) of two ST values (R17). -/
def stDiff (a b : St) : Int := (a - b).toInt

/-- Time `a` is later than time `b` (R17). -/
def stLater (a b : St) : Bool := decide (0 < stDiff a b)

/-- `a` is at or after `b` (R17). -/
def stGe (a b : St) : Bool := decide (0 ≤ stDiff a b)

/-- The tick index of an ST value (R15, R20). -/
def tickOf (t : St) : Tick := t.extractLsb' 14 50

/-- The ST of a tick edge: N x 16,384 tu (R21). -/
def tickSt (n : Tick) : St := (n.setWidth 64) <<< 14

/-- Signed modular difference of tick indices over 50 bits (R20). -/
def tickDiff (a b : Tick) : Int := (a - b).toInt

/-- Signed modular difference of epochs over 16 bits (R42). -/
def epochDiff (a b : Epoch) : Int := (a - b).toInt

/-- Signed modular difference of step numbers over 48 bits (R34). -/
def stepDiff (a b : Step) : Int := (a - b).toInt

/-- One tick in tu (R20). -/
def tickTu : Nat := 16384

/-- `n` as an ST duration. -/
def tu (n : Nat) : St := BitVec.ofNat 64 n

/-- Microseconds and milliseconds in tu (R15). -/
def usTu (n : Nat) : St := BitVec.ofNat 64 (n * 64000)
def msTu (n : Nat) : St := BitVec.ofNat 64 (n * 64000000)
def sTu (n : Nat) : St := BitVec.ofNat 64 (n * 64000000000)

/-- Clamping under R12. -/
def clampN (lo hi x : Nat) : Nat := if x < lo then lo else if hi < x then hi else x
def clampI (lo hi x : Int) : Int := if x < lo then lo else if hi < x then hi else x

/-- Saturation at `m`. -/
def sat (m x : Nat) : Nat := if m < x then m else x

/-- The integer part of the square root: `k` result bits, from the highest down. -/
def isqrtGo : Nat → Nat → Nat → Nat
  | 0, _, r => r
  | k + 1, n, r => if (r + 2 ^ k) * (r + 2 ^ k) ≤ n then isqrtGo k n (r + 2 ^ k) else isqrtGo k n r

def isqrt (n : Nat) : Nat := isqrtGo (n.log2 / 2 + 1) n 0

/-- Division rounded to nearest, ties away from zero. -/
def divNear (a : Int) (b : Nat) : Int :=
  if 0 ≤ a then (a + (b / 2 : Nat)) / (b : Int) else -((-a + (b / 2 : Nat)) / (b : Int))

/-- The `n` bytes of `v`, most significant first (R7). -/
def beBytes : Nat → Nat → List Byte
  | 0, _ => []
  | n + 1, v => BitVec.ofNat 8 (v >>> (8 * n)) :: beBytes n v

/-- The number that a list of bytes spells, most significant first (R7). -/
def beNat (bs : List Byte) : Nat := bs.foldl (fun a b => a * 256 + b.toNat) 0

/-- The `n` bytes of `v`, least significant first (R7). -/
def leBytes : Nat → Nat → List Byte
  | 0, _ => []
  | n + 1, v => BitVec.ofNat 8 v :: leBytes n (v >>> 8)

/-- The number that a list of bytes spells, least significant first (R7). -/
def leNat : List Byte → Nat
  | [] => 0
  | b :: t => b.toNat + 256 * leNat t

/-- One bit of the reflected CRC-32C: polynomial 0x1EDC6F41, reflected 0x82F63B78 (R44). -/
def crcBit (c : Nat) : Nat := if c % 2 = 1 then (c / 2) ^^^ 0x82F63B78 else c / 2

def crcByte (c : Nat) (b : Byte) : Nat :=
  crcBit (crcBit (crcBit (crcBit (crcBit (crcBit (crcBit (crcBit (c ^^^ b.toNat))))))))

/-- CRC-32C (R44): initial value and final XOR 0xFFFFFFFF, reflected input and output. -/
def crc32c (bs : List Byte) : W32 :=
  BitVec.ofNat 32 ((bs.foldl crcByte 0xFFFFFFFF) ^^^ 0xFFFFFFFF)

/-- A two's complement number of `n` bits, as a natural number. -/
def twos (n : Nat) (x : Int) : Nat := (x % (2 ^ n : Int)).toNat

/-- The signed reading of the low `n` bits of `x`. -/
def signedOf (n x : Nat) : Int :=
  if x % 2 ^ n < 2 ^ (n - 1) then ((x % 2 ^ n : Nat) : Int) else ((x % 2 ^ n : Nat) : Int) - (2 ^ n : Nat)

/-- A Bool as a bit. -/
def bit (b : Bool) : Nat := if b then 1 else 0

/-- Bits [hi:lo] of `x`. -/
def bits (x : Nat) (hi lo : Nat) : Nat := (x >>> lo) % 2 ^ (hi + 1 - lo)

/-- Bit `i` of `x`. -/
def tbit (x i : Nat) : Bool := decide ((x >>> i) % 2 = 1)

/-- The set bits of a mask, in rising order, below `n`. -/
def maskBits (n m : Nat) : List Nat := (List.range n).filter (tbit m)

/-- The number of set bits of a mask below `n`. -/
def popcount (n m : Nat) : Nat := (maskBits n m).length

/-- ST elapsed since `a` at `b`, in tu, 0 when negative (R17). -/
def elapsed (b a : St) : Nat := (stDiff b a).toNat

/-- A host-written ST value held to at most 2^62 tu ahead of `now` (R18). -/
def stClamp62 (now v : St) : St := if stDiff v now > 2 ^ 62 then now + BitVec.ofNat 64 (2 ^ 62) else v

end Sys2Proof.Machine
end

