-- ==== Sys2Proof/Machine/StateCommon.lean ====
section
/-! DEFINITION. The state that both parts hold: time, links, epochs, the time-map record, measurement, the flight
recorder, performance counters, the Headstock and its transactions. Every field's default is its reset value. -/

namespace Sys2Proof.Machine

/-- The counters of the manual. One counter may count per port, slice, region, channel or unit; its index
stands beside it. The registers that show them are in chapters 19 and 20. -/
inductive Ctr
  | clamp | loopSkip | eccCorrected | kernelRstDrop | cplRstDiscard | msgRstDiscard | strobeCollide
  | ledgerEventOrphan | partCancelled
  | cellCrc | cellLost | cellCorrupt | trainRetry | retrain | changeNoack | swapUnmatched | calShift
  | calReject | portLoopSkip | peerDiscard | p1DepthMax | portVoteStale
  | mgmtRateHeld | mgmtRateDrop | mgmtAuthFail | mgmtReplay | guardHit
  | crossDrop | markMiss | stretchDeep | crossLate
  | timDrop | timOverrun | timUnlocked | intExtraStart | intEarlyStop | intOverrun
  | frLost | sampleLost
  | late | armShort | plateCancelled | plateStopped | plateNoTime | launchEventLost
  | ctrFaultLost | signalSingle | signalExpired | msgBackpressure | ctxDiscard | collectExpired
  | ledgerNoRing
  | p2Cells | p2Wait | p2WaitMax | collectBusy | signalBusy | ledgerBusy | epochStale | sliceCancelled
  | barrierDeferred | sliceViolation | p1Overrun | ledgerServed | ledgerDelayed | ledgerRefused | ledgerFull
  | voteStale | joinStale | imageMismatch
  | postStray | collectMismatch | barrierStray | residueFail
  | ledgerLateIn | closeStray | closeMissed | noSample | ledgerEosDisagree | ledgerDiverge
  | ledgerUnchecked | ptpDiscard | planeDisagree
deriving DecidableEq, Repr

/-- The bodies of the cells that a part sends (R107). -/
inductive Body
  | signal (c : SignalCell)
  | barrierArrive (c : BarCell)
  | barrierDone (c : BarCell)
  | collectUp (c : CollectCell)
  | collectDown (c : CollectCell)
  | vote (v : Vote)
  | ledger (m : LedgerMsg)
  | delta (d : DeltaRec)
  | mgmt (dst : Node) (msgId : BitVec 16) (src : Node) (key : Nat) (nonce : W64) (b : MgmtBody)
deriving DecidableEq, Repr

/-- A cell, or a message of several cells, waiting to be sent: its header fields (R106), its body and the ST at
which it was queued (R320). `cells` is the number of cells of the message (R111). -/
structure OutCell where
  slice : Nat
  ce : Epoch
  me : Epoch
  first : Bool := true
  last : Bool := true
  cells : Nat := 1
  at_ : St
  body : Body
deriving DecidableEq, Repr

/-- A link's states (R116), in the codes of PORT_STATUS (R494). -/
inductive LinkState | down | train | align | timecal | up | degraded
deriving DecidableEq, Repr

/-- One physical lane of a port (R98, R119, R141, R494). -/
structure Lane where
  signal : Bool := false
  lock : Bool := false
  warned : Bool := false
  failed : Bool := false
  skew : Bool := false
  calValid : Bool := false
  ownTx : BitVec 16 := 0
  ownRx : BitVec 16 := 0
  nbrValid : Bool := false
  nbrTx : BitVec 16 := 0
  nbrRx : BitVec 16 := 0
  measured : Bool := false
  at_ : W64 := 0                        -- cycle of the last measurement adopted (R146)
  /-- The first of two measurements that R145 asks for. -/
  retest : Option (BitVec 16 × BitVec 16) := none
deriving DecidableEq, Repr

/-- A link change: its kind (R115), MAP, tick N and ORDER_ID (R121). -/
structure Order where
  kind : Nat
  map : BitVec 6
  tick : Tick
  id : BitVec 16
  acked : Bool := false
deriving DecidableEq, Repr

/-- A requested change (R119, R120). -/
structure Request where
  kind : Nat
  map : BitVec 6
deriving DecidableEq, Repr

/-- The link layer of a port (R98 to R128). -/
structure Link where
  enable : Bool := false
  state : LinkState := .down
  wiring : Bool := false
  range : Bool := false
  rxNode : Node := 0
  rxPort : Nat := 0
  map : BitVec 6 := 0x3F
  lanes : Tab Lane := []
  nbrGood : BitVec 8 := 0
  spareHere : Bool := false
  spareThere : Bool := false
  optical : Bool := false
  ts2Rx : Nat := 0
  sendKind : Nat := 0          -- TKIND sent on the lanes in TRAIN and ALIGN (R115); 0 none
  alignMap : Option (BitVec 6) := none
  calCell : Option Order := none
  order : Option Order := none
  later : Option Order := none          -- a revised order that follows the pending one (R126)
  nextId : BitVec 16 := 1
  seenId : BitVec 16 := 0
  request : Option Request := none
  ackTo : Option (BitVec 16) := none
  copying : Bool := false
  rotLeft : Nat := 0
  rotNext : Tick := 0                   -- earliest tick of the next swap of a rotation (R144)
  dwell : Option Nat := none
  calAge : Nat := 0
  since : W64 := 0                      -- cycle of the last state change
  rotAt : W64 := 0                      -- cycle of the last rotation's start (R144)
  outAt : Option W64 := none            -- cycle at which it last left UP and DEGRADED (R348)
  txOn : Bool := false
deriving DecidableEq, Repr

/-- The marker layer of a port: what it sends, and the chain and returns of what it receives (R44 to R46, R129 to
R135). -/
structure Mark where
  txMarker : Option Marker := none
  txWm : W32 := 0
  txSeeded : Bool := false
  sendOfs : List (Tick × Nat) := []     -- SEND_OFS of the last 16 ticks (R134)
  rxWm : W32 := 0
  rxSt : St := 0
  rxAnchored : Bool := false            -- the chain stands on a marker (R46)
  rxSeeded : Bool := false              -- the next good marker is checked against the seed (R45)
  rxMarker : Option Marker := none      -- the last verified marker
  ret : Option (Tick × Int) := none     -- tick and RET_DELTA to return (R134)
  goodRun : Nat := 0                    -- verified markers in a row without NO_TIME or HOLDING (R148)
  badRun : Nat := 0                     -- unverified slots in a row
  noSlot0 : Nat := 0                    -- slots in a row without a good slot 0 cell (R116)
  gaps : List Tick := []                -- ticks of the WM_GAP events of the last 1,024 ticks (R46)
  usable : Bool := false                -- R148
  blocked : Bool := false               -- the plane is fenced or drained (R348, R374)
  mapTick : Option Tick := none         -- effect tick of the last map change (R142)
  blockBytes : List Byte := []          -- bytes of the rotating block in progress (R131)
  blockOk : Bool := false
  txOdd : List Byte := []               -- contents of the odd block being sent (R131)
deriving DecidableEq, Repr

/-- The offset exchange of a port, as taking or giving end (R135, R136, R157). Sums are in half tu. -/
structure Offset where
  sum : Int := 0
  count : Nat := 0
  mean : Int := 0                       -- the last window's mean, in 1/16 tu
  meanValid : Bool := false
  rtt : Nat := 0
  last64 : List Int := []               -- the last 64 samples, in half tu
  lastTheta : Int := 0
  okRun : Nat := 0                      -- samples in a row within DECKLE_TIME (R148)
  rxOfsEst : BitVec 24 := 0
  rxAccUnc : Nat := 0
  rxDepth : Nat := 0
  ofsMiss : Nat := 0                    -- windows in a row with OFS_EST beyond 2 tu (R157)
  lowWindow : Bool := false             -- ACC_UNC lower by 50 ps throughout this window (R149)
deriving DecidableEq, Repr

/-- The sending side of a port (R108, R112, R114, R314 to R320). -/
structure Sender where
  p1 : List OutCell := []
  p2 : Tab (List OutCell) := []
  p3 : List OutCell := []
  votes : List OutCell := []            -- own VOTE cells beyond one per tick (R338)
  voted : Bool := false
  p3Gap : Nat := 3
  deficit : Tab Nat := []
  turn : Nat := 0                       -- slice that DRR visits (R114)
  visiting : Bool := false
  seq : BitVec 16 := 0
  changeSent : Bool := false
  p2Used : Nat := 0                     -- P2 slots of the present tick
  p2Last : Nat := 0                     -- P2 slots of the last tick (R339)
  slotTick : Option Tick := none
  wire : Option OutCell := none         -- the last traffic cell sent
  wireSeq : BitVec 16 := 0
  wireTrain : Option Train := none      -- the last change cell sent
  mgmtCount : Nat := 0                  -- MGMT cells originated in the present 1,024 ticks (R382)
  mgmtHeld : List OutCell := []
  copy : List OutCell := []             -- COPY cells still to send, at most 20 in a tick (R354)
  copyUsed : Nat := 0
deriving DecidableEq, Repr

/-- One time-link port. -/
structure Port where
  link : Link := {}
  mark : Mark := {}
  off : Offset := {}
  tx : Sender := {}
  rxSeq : BitVec 16 := 0                -- next SEQ expected (R108)
  openMsg : List (Nat × Nat) := []      -- open messages: type and operation (R110)
  modPresent : Bool := false
  modReady : Bool := false
  laser : Int := 0                      -- module launch power, 0.01 dBm (R518)
  lasersOn : Bool := false
deriving DecidableEq, Repr

/-- A part's time: master and shadow counts, the phase loop and holdover (R15, R136 to R156, R334). Counts are in
2^-32 tu; the shadow count is a residue modulo (2^61 - 1), in 2^-32 tu. -/
structure TimeState where
  held : Bool := false
  acc : BitVec 96 := 0
  shadow : Nat := 0
  trim : Int := 0                       -- 2^-32 tu per ns
  integ : Int := 0                      -- loop integrator, 2^-44 tu
  trims : List Int := []                -- the trims of the last 16 windows
  first : Bool := false                 -- the one further setting of R137 is still to come
  input : Option Nat := none            -- port followed
  holding : Bool := false
  holdSince : Option St := none
  resid : Nat := 0                      -- |mean offset| at the start of holdover, 1/16 tu
  noTime : Bool := false
  locked : Bool := false
  lockRun : Nat := 0                    -- windows in a row within 8 tu (R139)
  lockSince : Option St := none
  trimAtLimit : Bool := false
  shadowFault : Bool := false
  refclkRange : Bool := false
  disagree : Bool := false
  neither : Bool := false
  agreeRun : Nat := 0                   -- ticks in a row within AGREE_TIME (R152)
  hCount : BitVec 96 := 0               -- H, 2^-32 tu (R151)
  diffs : List Int := []                -- theta A minus theta B of the last 64 ticks, half tu
  framed : Option Tick := none          -- last tick framed (R102)
  onHold : Bool := false                -- runs on H (R152)
  electHold : Bool := false             -- ELECTION_HOLD (R351)
  lastMean : Int := 0                   -- mean offset of the last window, 1/16 tu
  capHi : Option W32 := none            -- upper half captured by a 32-bit read (R48)
  lockLimit : Option St := none         -- entry to TRUING (R360)
  window : Nat := 0                     -- windows of 1,024 ticks that have ended (R136)
  kept : Bool := false                  -- time kept from before TRUING (R360)
  inputAt : Nat := 0                    -- the window in which the present input was taken (R140)
deriving DecidableEq, Repr

/-- Changes of CE, ME and leader that take effect at one tick (R41, R96, R132). -/
structure Pend where
  tick : Tick
  ce : Option Epoch := none
  me : Option Epoch := none
  lead : Option (BitVec 2) := none
deriving DecidableEq, Repr

/-- The epochs and the pending changes announced in markers, earliest first (R39 to R41, R132). `have_` is false until a part that has
reset adopts a pair (R376). -/
structure Epochs where
  have_ : Bool := false
  ce : Epoch := 0
  me : Epoch := 0
  pend : List Pend := []
  leader : BitVec 2 := 3
  hallRef : BitVec 3 := 0
deriving DecidableEq, Repr

/-- A time-map record (R26). -/
structure MapRec where
  originSec : BitVec 48 := 0
  originTu : Nat := 0
  utc : Int := 0
  version : Byte := 0
  effect : Tick := 0
  absValid : Bool := false
deriving DecidableEq, Repr

/-- An ALIGN that waits for its boundary (R92). -/
structure AlignDue where
  scope : Nat
  slice : Nat
  step : Step
  at_ : St
  cmd : Option Cmd
deriving DecidableEq, Repr

/-- The time map at a part (R26 to R32, R91). -/
structure MapState where
  cur : MapRec := {}
  next : Option MapRec := none
  captured : MapRec := {}
  announced : Option (Byte × Tick) := none   -- version and effect tick of a record not yet whole (R28)
  stale : Bool := false
  alignMap : Option MapRec := none      -- the map used at the last ALIGN
  alignAt : St := 0                     -- alignment instant A (R91)
  aligns : List AlignDue := []          -- ALIGN commands taken (R92)
  alignUsed : Nat := 0                  -- ALIGN_STATUS of the last one (R514)
deriving DecidableEq, Repr

/-- A queue entry of a time-interval channel (R414). -/
structure TimEntry where
  st : St
  trig : Bool := false
  fall : Bool := false
  tx : Bool := false
  interpB : Bool := false
  faulty : Bool := false
  region : Nat := 0
  tag : Nat := 0
deriving DecidableEq, Repr

/-- A time-interval channel (R409 to R416). -/
structure Channel where
  edge : Nat := 0
  intSrc : Nat := 0
  queueEn : Bool := true
  div : Nat := 1
  divSet : Bool := false                -- QUEUE_DIV written; else its reset value stands
  queue : List TimEntry := []
  seen : Nat := 0                       -- accepted stamps, modulo QUEUE_DIV
  stamps : Nat := 0                     -- accepted stamps since the last self-check (R413)
  checkDue : Bool := false
  checkB : Bool := false                -- the self-check takes interpolator B next
  nextB : Bool := false                 -- the interpolator that takes the next event
  freeA : St := 0
  freeB : St := 0
  usedA : Bool := false
  usedB : Bool := false
  lock : Bool := false
  fault : Bool := false
  failsA : Nat := 0
  failsB : Nat := 0
  checkValA : Int := 0
  checkValB : Int := 0
  captured : Option TimEntry := none    -- entry captured by a read of the low word (R490)
deriving DecidableEq, Repr

/-- A statistics unit (R417, R418). -/
structure Stat where
  src : Nat := 0
  phaseAlign : Bool := false
  n : Nat := 1
  period : Nat := 16384
  running : Bool := false
  prev : Option St := none
  count : Nat := 0
  sum : Int := 0
  sumSq : Nat := 0
  min : Int := 0
  max : Int := 0
  range : Bool := false
  done : Bool := false
  rMean : Int := 0
  rSd : Nat := 0
  rMin : Int := 0
  rMax : Int := 0
deriving DecidableEq, Repr

/-- A result of an interval unit (R420). -/
structure IntEntry where
  tu : W64
  ns : W32
  fine : Nat
  ovf : Nat
  timeout : Bool
deriving DecidableEq, Repr

/-- An interval unit (R419 to R421). `open_` is the open start: its stamp, the coarse cycle count and its taps. -/
structure IntUnit where
  enable : Bool := false
  start : Nat := 0
  stop : Nat := 0
  timeout : W32 := 0
  open_ : Option (St × Nat × Nat) := none
  queue : List IntEntry := []
  captured : Option IntEntry := none
deriving DecidableEq, Repr

/-- A flight-recorder entry (R423). -/
structure FrEntry where
  st : St
  cls : Nat
  trig : Bool := false
  trigSeen : Bool := false
  seq : BitVec 16
  body : List Byte
deriving DecidableEq, Repr

inductive FrState | idle | armed | triggered | frozen | rearming
deriving DecidableEq, Repr

/-- The flight recorder (R423 to R428). `preDepth` is none until written: P is then 3C/4. -/
structure Recorder where
  state : FrState := .armed
  ring : Tab (Option FrEntry) := []
  wp : Nat := 0
  written : Nat := 0                    -- entries since the last arm
  left : Nat := 0                       -- entries still to come after the trigger
  preCount : Nat := 0
  first : Nat := 0
  preDepth : Option Nat := none
  index : Nat := 0
  classMask : BitVec 11 := 0x7FE
  trigMask : BitVec 27 := 0x14
  trigChannel : Nat := 0
  missed : Nat := 0
  missedFirst : St := 0
  soft : List W64 := [0, 0, 0, 0, 0, 0]
deriving DecidableEq, Repr

/-- A programmable performance counter (R430). -/
structure PerfCtr where
  sel : W64 := 0
  val : Nat := 0
  ovf : Bool := false
  snap : Nat := 0
  cap : W32 := 0
deriving DecidableEq, Repr

/-- A histogram unit (R438, R439). -/
structure Hist where
  ctl : W64 := 0
  bins : Tab Nat := []
  samples : Nat := 0
  max : Nat := 0
  neg : Nat := 0
  drop : Nat := 0
  clock : St := 0                       -- master time of the last sample taken, for the input buffer
  buffered : Nat := 0
deriving DecidableEq, Repr

/-- A sampler record (R440). -/
structure Sample where
  kind : Nat
  mbx : Nat
  index : Nat
  tag : W32
  sched : St
  actual : St
  count : Nat
deriving DecidableEq, Repr

/-- The counters, histograms and sampler of a part (R429 to R440). -/
structure Perf where
  cycles : W64 := 0
  freeze : Bool := false
  snapEn : Bool := false
  snapCh : Nat := 0
  access : Nat := 0
  ctrs : Tab PerfCtr := []
  snapSt : St := 0
  hists : Tab Hist := []
  sEnable : Bool := false
  sOwner : Bool := false
  sSrc : Nat := 0
  sMode : Bool := false
  sN : Nat := 1
  sCount : Nat := 0
  sBuf : List Sample := []
  sCap : Option Sample := none
  lastSnap : Option W64 := none         -- cycle of the last snapshot (R432)
deriving DecidableEq, Repr

/-- The staged writes of a transaction (R392, R394). -/
inductive Staged
  | plate (entry : Nat) (e : Entry)
  | plateAppend (e : Entry)
  | plateClear
  | rgroup (group : Nat) (mask : BitVec 144)
  | desc (d : Nat) (x : Desc)
  | turning (slice : Nat) (st0 : Option St) (len : Option Nat) (boundary : Option Step)
  | assign (slice : Nat) (valid : Bool)
  | sliceMap (slice : Nat) (mask : BitVec 96)
  | weight (port slice w : Nat)
  | hgroup (group : Nat) (p : HPiece)
  | hfree (group : Nat)
  | sg (g : Nat) (f : SgFields)
  | ledgerPart (quotas : List Nat)
  | ctxSave (addr : W64) (step : Step)
  | ctxRestore (img : CtxImage) (step : Step)
  | part (step : Step)
  | config (index : Nat) (value : W64)
deriving DecidableEq, Repr

inductive TxnPhase | open_ | committing | prepared | decided | done | rolledBack
deriving DecidableEq, Repr

/-- A transaction at a participant (R393 to R402). -/
structure Txn where
  id : W32
  n : Nat := 1
  mbx : Nat := 0
  phase : TxnPhase := .open_
  staged : List Staged := []
  cmd : Option Cmd := none              -- the COMMIT that waits (R395)
  rollCmd : Option Cmd := none          -- the ROLLBACK that waits (R401)
  slice : Nat := 0
  step : Step := 0
  deadline : St := 0
  boundary : St := 0
  prepAt : St := 0
  effect : St := 0
  newCe : Epoch := 0
  reason : Status := .ok
  node : Node := 0xFFFFFF
  detail : Nat := 0
  at_ : St := 0
deriving DecidableEq, Repr

/-- A membership decision announced, waiting for its effect tick (R345); `decided` is the tick of the decision. -/
structure MemberDue where
  changes : List Change
  me : Epoch
  tick : Tick
  decided : Tick
deriving DecidableEq, Repr

/-- A new triad, announced with its effect tick (R352): root indices with their nodes, and the leader. -/
structure TriadDue where
  members : List (Nat × Node)
  leader : Nat
  tick : Tick
deriving DecidableEq, Repr

/-- The Headstock of a part: boot, guards, keys and management (R378 to R408). -/
structure Headstock where
  running : Bool := false
  guardLock : Bool := false
  boot : Nat := 0                       -- BOOT_STATUS code (R495)
  fwVersion : W32 := 0
  wdResets : Nat := 0
  fwAddr : W64 := 0
  bootSlot : Nat := 0
  fallback : Bool := false
  slotBooted : Nat := 0
  guards : List W64 := [0, 0, 0, 0, 0]
  guardLast : Tab Nat := []             -- 1 + the 1,024-tick window of the last recorder entry (R383)
  minSec : W32 := 0                     -- OTP MIN_SEC_VERSION
  revoked : BitVec 4 := 0               -- OTP key revocations
  keys : BitVec 4 := 0                  -- slots loaded
  sending : Nat := 0
  pendKey : Option (Nat × Tick) := none
  nonce : Tab Nat := []                 -- next NONCE per key slot (R404)
  accepted : Tab (List (Nat × Bool)) := []   -- accepted NONCEs per (SRC, slot); true: both copies seen (R405)
  msgId : BitVec 16 := 0
  slots : Tab (List Byte) := []         -- firmware images (R381)
  slotBits : Tab (BitVec 64) := []      -- SEC_VERSION and FW_VERSION of a slot that passes R380
  bootCount : Nat := 1
  alert : W64 := 0                      -- ALERT_CAUSE
deriving DecidableEq, Repr

/-- The state that both parts hold. -/
structure Base where
  node : Option Node := none
  t : TimeState := {}
  ports : Tab Port := []
  ep : Epochs := {}
  map : MapState := {}
  chans : Tab Channel := []
  stats : Tab Stat := []
  units : Tab IntUnit := []
  fr : Recorder := {}
  perf : Perf := {}
  hs : Headstock := {}
  txns : List Txn := []
  due : List MemberDue := []
  triadDue : Option TriadDue := none
  cnt : Tab Nat := []
  cfg : Tab W64 := []
  tj : Int := 0
  drawn : Nat := 0                      -- free values taken so far: the model's own field, not the spec's
deriving DecidableEq, Repr

end Sys2Proof.Machine
end

