-- ==== Sys2Proof/Machine/StateTsu.lean ====
section
/-! DEFINITION. The state of the PV-TSU4 beyond what both parts hold: regions and crossings, the index plate, sync
counters, watches, barriers, signals, the core ports, the mailboxes and the die boundary. Every field's default is its
reset value. -/

namespace Sys2Proof.Machine

/-- A word waiting at a crossing port (R181, R186): its tag in 1/4 tu, the word, the edges since its arrival (it is
captured at the first and usable from the second), and whether its step was already marked slipped at arrival
(R187). -/
structure CrossWord where
  tag : BitVec 22
  word : W64
  edges : Nat := 0
  /-- C at the release edge that was due, once that edge has passed with the word not usable (R186). -/
  dueAt : Option (BitVec 80) := none
  slipped : Bool := false
deriving DecidableEq, Repr

/-- A crossing port (R180 to R186): L_cross in 1/4 tu and the waiting words, oldest first. -/
structure Cross where
  lcross : Nat := 0
  calibrated : Bool := false
  waiting : List CrossWord := []
  released : Option W64 := none
deriving DecidableEq, Repr

/-- An entry in a region's armed queue (R203, R208). -/
structure RegArm where
  entry : Nat
  t : St
  arg : W32
  cond : Bool
  released : Bool := false
  late : Bool := false
  short : Bool := false
deriving DecidableEq, Repr

/-- One clock region (R159 to R187). -/
structure Region where
  clockOn : Bool := true
  loaded : Bool := false
  unsync : Bool := false
  copy : BitVec 80 := 0
  lpath : BitVec 18 := 0
  rt : Option Nat := none               -- RT(r) in 1/256 tu, measured (R165)
  err : Int := 0                        -- REGION_ERR, 1/256 tu
  setting : Nat := 0                    -- (f - 1,600 MHz) / 12.5 MHz
  deferred : Option Nat := none         -- a frequency change deferred to after a launch (R207)
  period : W32 := 0                     -- last reported P
  spreadQ : Int := 0
  spreadRem : Int := 0
  spreadLeft : Nat := 0                 -- cycles of the spread still to come (R173)
  okRun : Nat := 0                      -- accepted marks in a row within REGION_ERR_LIMIT (R175)
  missRun : Nat := 0                    -- marks missed in a row (R176)
  stretched : Nat := 0                  -- stretched cycles since the last mark
  deep : Nat := 0
  lastStretched : Nat := 0              -- of the last mark interval
  lastDeep : Nat := 0
  ctrOps : Nat := 0
  lastCtrOps : Nat := 0
  planK : Nat := 0                      -- stretch steps planned for the next cycle (R206)
  lastLaunch : Option (BitVec 80) := none
  armed : List RegArm := []
  go : List (Nat × W32) := []           -- entries and descriptors last presented to the cores (R443)
  fired : List W64 := []                -- FIRED frames last returned (R443)
  cross : Tab Cross := []
deriving DecidableEq, Repr

/-- The mark path and crossing status (R160 to R168, R184, R497). -/
structure MarkPath where
  calDone : Bool := false
  pathFault : Bool := false
  faultRegion : Nat := 255
  calTemp : Bool := false
  tjCal : Int := 0
  tTurn : Nat := 0
  echo : Nat := 255
  loadNext : Bool := false              -- the next mark is a LOAD frame (R177)
  lastMark : Option (BitVec 48) := none
  frame : W64 := 0                      -- the frame last launched
  echoFrame : Option W64 := none        -- the CAL frame of the mark interval (R168)
  crossFault : Bool := false
  crossDone : Bool := false
  crossRegion : Nat := 0
  crossPort : Nat := 0
  crossMax : Nat := 0
  crossBudget : Nat := 192
  lateRegion : Nat := 0
  latePort : Nat := 0
  lateTag : BitVec 22 := 0
  lateTu : Nat := 0
deriving DecidableEq, Repr

/-- How far the condition of an armed entry has come (R208 to R210). -/
inductive CondState
  | none_ | waiting | holding | released | cancelled
deriving DecidableEq, Repr

/-- An entry that the sequencer has armed (R203): its words, step, T, target regions still to fire, and what its
record needs (R212, R213). -/
structure Armed where
  entry : Nat
  e : Entry
  step : Step
  t : St
  nextStart : St
  left : BitVec 144 := 0
  mask : BitVec 144 := 0
  faulted : Nat := 0                    -- target regions recorded as REGION_UNSYNC
  cond : CondState := .none_
  kind : Nat := 0                       -- 2 HELD, 3 HOLD_EXPIRED once so released
  short : Bool := false
  late : Bool := false
  lateCount : Nat := 0
  maxLate : Nat := 0
  maxRegion : Nat := 255
deriving DecidableEq, Repr

/-- A launch record (R213). -/
structure LaunchRec where
  kind : Nat
  entry : Nat
  region : Nat
  count : Nat
  step : W32
  lateness : Nat
deriving DecidableEq, Repr

/-- A turning at a part (R33 to R38): origin, length, present step and its start, and the changes waiting. -/
structure Turning where
  exists_ : Bool := false
  st0 : St := 0
  len : Nat := 0
  started : Bool := false
  start : St := 0
  step : Step := 0
  /-- Idle from B until a written ST0 (R38): the start that comes. -/
  idleUntil : Option St := none
  /-- First start of a turning that has not yet started, and its step number (R36, R37). -/
  first : St := 0
  firstStep : Step := 0
  changes : List (Step × Option St × Option Nat) := []
  resetPending : Bool := false          -- a slice step reset announced (R503)
  restart : Option St := none           -- new ST0 after a slice step reset (R323)
  resetTick : Option Tick := none
  resetCe : Option Epoch := none        -- CE value of the last slice step reset (R324)
deriving DecidableEq, Repr

/-- The index plate and its sequencer (R188 to R218). -/
structure Plate where
  bankA : Tab Entry := []
  bankB : Tab Entry := []
  activeB : Bool := false
  dense : Bool := false
  denseEntry : Nat := 0
  switchAt : Option St := none          -- boundary of a committed plate (R191)
  switchGroups : List (Nat × BitVec 144) := []
  lastSwitch : Option St := none        -- the boundary of the last bank switch
  copyDue : Bool := false
  groups : Tab (BitVec 144) := []
  curStep : Step := 0
  curStart : St := 0
  curPos : Option (Nat × Nat) := none   -- last offset and entry walked in that step
  lastArm : Option W64 := none          -- cycle of the last arming (R203)
  armed : List Armed := []
  stopped : Bool := false
  fault : Bool := false
  faultRegion : Nat := 0
  faultEntry : Nat := 0
  faultStep : W32 := 0
  slipped : Bool := false
  slipCount : Nat := 0
  slipFirst : W32 := 0
  slipLast : Option Step := none
  events : List LaunchRec := []
  evCap : Option LaunchRec := none
  sel : Nat := 0
  selStaged : Bool := false
  rgSel : Nat := 0
deriving DecidableEq, Repr

/-- A sync counter (R219). -/
structure SyncCtr where
  alloc : Bool := false
  value : W32 := 0
  limit : W32 := 0
deriving DecidableEq, Repr

/-- A watch (R226). `held` is whether its condition held after the last operation on its counter. -/
structure Watch where
  counter : Nat
  eq : Bool
  rearm : Bool
  threshold : W32
  target : Nat
  tag : BitVec 16
  held : Bool
deriving DecidableEq, Repr

/-- A counter fault record (R224). -/
structure CtrFault where
  overflow : Bool
  srcKind : Nat
  srcCore : Nat
  srcId : Nat
  counter : Nat
  delivery : Nat
  opId : Nat
  value : W32
  n : W32
  st : St
deriving DecidableEq, Repr

/-- A message to a core (R229, R278); kinds 1 WATCH, 2 LOCAL_DONE, 3 HALL_DONE, 4 SIGNAL_REPLY, 5 COLLECT_DONE,
6 DELTA_DONE as the chapters code them. -/
structure Msg where
  core : Nat
  kind : Nat
  status : Status
  unverified : Bool := false
  part_ : Bool := false
  deferred : Bool := false
  planeB : Bool := false
  late : Bool := false
  disagree : Bool := false
  tag : BitVec 16 := 0
  id : Nat := 0
  count : Nat := 0
  value : W32 := 0
  stLo : W32 := 0
  delayed : Bool := false
  rearm : Bool := false                 -- of a rearm watch that is still registered (R230)
deriving DecidableEq, Repr

/-- A completion on the counter port (R446). -/
structure Cpl where
  ctag : BitVec 16
  status : Status
  value : W32
deriving DecidableEq, Repr

/-- A SIGNAL that awaits a reply (R232, R236). `got` is the first reply, whether from plane B, and
its ST. -/
structure SigOut where
  opId : BitVec 16
  core : Nat
  counter : Nat
  deadline : St
  got : Option (SignalCell × Bool × St) := none
deriving DecidableEq, Repr

/-- A SIGNAL performed here (R235). -/
structure SigIn where
  src : Node
  opId : BitVec 16
  cell : SignalCell
  first : St
  planeB : Bool
  second : Bool := false
  counted : Bool := false
deriving DecidableEq, Repr

/-- A local barrier slot (R238, R239); masks are 576-bit numbers. -/
structure LocalBar where
  mask : Nat := 0
  open_ : Bool := false
  arrived : Nat := 0
  times : List (Nat × St) := []         -- cores arrived and when
deriving DecidableEq, Repr

/-- A hall-barrier generation completed at the die that waits for the second plane's DONE (R246). -/
structure HallDone where
  gen : BitVec 16
  cell : BarCell
  planeB : Bool
  at_ : St
  waiters : List (Nat × St)
deriving DecidableEq, Repr

/-- A die's entry of a hall group (R240) with its open instance (R241, R246, R249). -/
structure HallEntry where
  valid : Bool := false
  slice : Nat := 0
  member : Bool := false
  arrivals : Nat := 0
  doneCtr : Nat := 0x1FFF
  gen : BitVec 16 := 0
  count : Nat := 0
  waiters : List (Nat × St) := []
  opened : St := 0
  waitRaised : Bool := false
  done : List HallDone := []
deriving DecidableEq, Repr

/-- Requests that wait while the counter port is closed (R252, R446). -/
inductive PortReq
  | add (core : Nat) (ctag : BitVec 16) (counter : Nat) (n : W32)
  | sub (core : Nat) (ctag : BitVec 16) (counter : Nat) (n : W32)
  | read (core : Nat) (ctag : BitVec 16) (counter : Nat)
  | set (core : Nat) (ctag : BitVec 16)
  | unknown (core : Nat) (ctag : BitVec 16)
  | signal (core : Nat) (ctag : BitVec 16) (target counter op : Nat) (n : W32) (replyReq : Bool)
  | watchReg (core : Nat) (ctag : BitVec 16) (counter : Nat) (eq rearm : Bool) (target : Nat)
      (tag : BitVec 16) (threshold : W32)
  | watchCancel (core : Nat) (ctag : BitVec 16) (watch : Nat)
  | localDefine (core : Nat) (ctag : BitVec 16) (slot group : Nat) (cores : BitVec 4)
  | localArrive (core : Nat) (ctag : BitVec 16) (slot : Nat)
  | hallArrive (core : Nat) (ctag : BitVec 16) (group : Nat)
  | collectStart (core : Nat) (ctag : BitVec 16) (desc : Nat) (tag : W32) (step : Step)
deriving DecidableEq, Repr

/-- Counters, watches, barriers, signals and the core ports (R219 to R252, R445 to R448). -/
structure Sync where
  ctrs : Tab SyncCtr := []
  watches : Tab (Option Watch) := []
  faults : List CtrFault := []
  faultCap : Option CtrFault := none
  outQ : List Msg := []
  pend : List Msg := []                 -- events that wait for room in the out-queue (R230)
  coreQ : Tab (List Msg) := []
  cpl : Tab (Option Cpl) := []          -- the last completion of each core
  locals : Tab LocalBar := []
  lbSel : Nat := 0
  lbBusy : Bool := false
  hall : Tab HallEntry := []
  opId : BitVec 16 := 0
  sigOut : List SigOut := []
  sigIn : List SigIn := []
  closed : Bool := false
  waiting : List PortReq := []
  ctrSel : Nat := 0
  watchSel : Nat := 0
  coreReset : Nat := 0                  -- cores held in reset, a 576-bit mask
deriving DecidableEq, Repr

/-- A mailbox (R384 to R388, R506). -/
structure Mailbox where
  prod : BitVec 16 := 0
  cons : BitVec 16 := 0
  cplProd : BitVec 16 := 0
  cplCons : BitVec 16 := 0
  ring : Tab (Option Completion) := []
  held : List Completion := []
  overrun : Bool := false
  open_ : List (BitVec 16 × Nat × St) := []   -- commands taken and not final: TAG, OPCODE, ST of the doorbell
  bells : List (BitVec 16 × St) := []   -- doorbell writes not yet used up: producer index and ST (R440)
deriving DecidableEq, Repr

/-- A REMOTE_CMD that awaits its remote completion (R390, R392). -/
structure Remote where
  c : Cmd
  dst : Node
  tag : BitVec 16
deriving DecidableEq, Repr

/-- The die states of R356, coded 0 to 4. -/
inductive DieState | blank | truing | running | parting | parted
deriving DecidableEq, Repr

/-- A context switch that a committed transaction has set (R252). -/
structure CtxSwitch where
  boundary : Step
  save : Option W64
  restore : Option CtxImage
  /-- The switch is under way: the counter port is closed. -/
  active : Bool := false
deriving DecidableEq, Repr

/-- The die's lifecycle, slice and boundary signals. -/
structure Die where
  state : DieState := .blank
  quar : Bool := false
  member : Bool := false
  truingSlow : Bool := false
  suspect : Bool := false
  sliceId : Nat := 0
  sliceValid : Bool := false
  moveDue : Option (Nat × Bool × Step) := none
  moveStaged : List Staged := []        -- what the transaction of a committed move brings at its boundary (R306)
  memberCe : Epoch := 0                 -- CE of the slice's last commit, which loaded its membership table (R231)
  departed : List Nat := []             -- dies that have parted from the slice since (R365)
  planeOff : BitVec 4 := 0              -- fenced or drained (R348, R374): own rack distributors A, B, row distributors A, B
  joinAt : Option St := none            -- when JOIN_READY was last sent (R361)
  partDue : Option Step := none         -- the boundary of a committed part transaction (R365)
  partAt : St := 0
  partDone : Bool := false
  privMask : W64 := 0
  sliceMask : W64 := 0
  msix : Tab Nat := []                  -- messages raised per vector
  pba : BitVec 16 := 0
  msixOn : Bool := true
  msixTab : Tab W64 := []               -- MSI-X table: message address and data per vector (R459, R501)
  msixOpen : BitVec 16 := 0             -- vectors that the table's control word leaves unmasked
  acctThreshold : W64 := 0
  strobes : Tab (W64 × W32) := []       -- per lane: 1 + cycle of the last pulse, and STB_EPOCH
  tsOut : Bool := false
  tsOutFall : St := 0
  alertN : Bool := false                -- TSU_ALERT_N asserted
  ctx : Option CtxSwitch := none
  saved : Option (W64 × CtxImage) := none
  ctxStart : St := 0
  inReset : Bool := false
deriving DecidableEq, Repr

end Sys2Proof.Machine
end

