-- ==== Sys2Proof/Machine/StateFabric.lean ====
section
/-! DEFINITION. Collects and the ledger as the die holds them, and everything that the PV-D128 holds beyond what both
parts hold. Every field's default is its reset value. -/

namespace Sys2Proof.Machine

/-- One plane's copy of a result record at the die (R275): its bytes, whether whole and torn by a lost cell. -/
structure Copy where
  bytes : List Byte := []
  cells : Nat := 0
  whole : Bool := false
  broken : Bool := false
  at_ : St := 0
deriving DecidableEq, Repr

/-- A collect instance in flight at the die (R256 to R258, R275, R330). -/
structure Inst where
  desc : Nat
  d : Desc
  step : Step
  start : St
  deadline : St
  release : St
  opened : St
  started : Bool
  lateStart : Bool := false
  tag : W32 := 0
  a : Copy := {}
  b : Copy := {}
  resent : Option St := none            -- RESEND sent (R330)
  a2 : Copy := {}
  b2 : Copy := {}
deriving DecidableEq, Repr

/-- A batch delta that the die holds for delivery (R301). -/
structure DeltaIn where
  sgroup : Nat
  step : Step
  a : Option (DeltaRec × St) := none
  b : Option (DeltaRec × St) := none
  resent : Option St := none            -- RESEND sent (R330)
  a2 : Option DeltaRec := none
  b2 : Option DeltaRec := none
deriving DecidableEq, Repr

/-- A LEDGER_DIE register set (R504, R505). -/
structure LedgerDie where
  config : W64 := 0
  ring : W64 := 0
  wp : Nat := 0
  resync : Bool := false
  rp : Nat := 0
deriving DecidableEq, Repr

/-- A LEDGER operation that awaits its REPLY (R288, R290, R318). -/
structure LedgerOp where
  opId : BitVec 16
  c : Cmd
  op : Nat
  submitSt : St
  deadline : St
  got : Option (LedgerMsg × Bool × St) := none
deriving DecidableEq, Repr

/-- What the die holds for collects and the ledger (R253, R275, R301, R503, R504). -/
structure DieFabric where
  descs : Tab (Option Desc) := []
  oldDescs : Tab (Option Desc) := []    -- descriptors in force before the last boundary (R253, R280)
  descFrom : Option St := none          -- that boundary
  descDue : List (Nat × Desc) := []
  mem : Tab Byte := []                  -- collect memory, 512 KiB; an unlisted byte reads as 0
  insts : List Inst := []
  done : List (Nat × Step) := []        -- (descriptor, step) started or delivered, kept to refuse a second start
  lateLast : W64 := 0
  deltas : List DeltaIn := []
  dies : Tab LedgerDie := []
  ops : List LedgerOp := []
  events : List (BitVec 16 × LedgerMsg × Bool × St) := []   -- EVENTs received, kept to match the second copy
deriving DecidableEq, Repr

/-- The PV-TSU4. -/
structure Tsu where
  b : Base := {}
  die : Die := {}
  mark : MarkPath := {}
  regions : Tab Region := []
  turn : Turning := {}
  plate : Plate := {}
  sync : Sync := {}
  fab : DieFabric := {}
  mbs : Tab Mailbox := []
  remotes : List Remote := []
deriving DecidableEq, Repr

/-- The roles of a PV-D128 (R53). -/
inductive Role | none_ | rack | row | root
deriving DecidableEq, Repr

/-- The service states of a distributor (R370), coded 0 to 5. -/
inductive DistState | offline | joining | inService | draining | drained | fenced
deriving DecidableEq, Repr

/-- The contribution of one port to a post (R263 to R266, R332): the port its cells came on, its assembled bytes, how
many elements have been checked and the difference of the first whose residue failed. -/
structure PostPort where
  port : Nat := 0
  bytes : List Byte := []
  cells : Nat := 0
  whole : Bool := false
  checked : Nat := 0
  resDiff : Option Nat := none
deriving DecidableEq, Repr

/-- A post (R262 to R267): one instance of one plane in progress. -/
structure Post where
  slice : Nat
  id : Nat
  plane : Plane
  head : List Byte
  ce : Epoch
  me : Epoch
  top : Bool
  mask : BitVec 96
  waiting : List Nat                    -- positions of the waiting set, rising
  opened : St
  ports : Tab PostPort := []
  folded : Nat := 0                     -- elements folded and streamed
  elems : List Nat := []                -- at the top of a SUM_FP32_EXACT, the elements folded
  out : List Byte := []                 -- record bytes not yet cut into cells
  sentCells : Nat := 0
  record : List Byte := []              -- the record sent so far
  flags : Nat := 0
  status : Nat := 0                     -- BUSY or CANCELLED from below (R262)
  done : Bool := false                  -- tail sent
  blocks : Nat := 0
deriving DecidableEq, Repr

/-- A refused instance whose cells are discarded until the head's RELEASE (R262), or a closed key (R264). -/
structure Refused where
  slice : Nat
  id : Nat
  plane : Plane
  until_ : St
  closed : Bool := false
deriving DecidableEq, Repr

/-- One cell of a result from the roots at a row distributor: the copies by uplink (R267). -/
structure VoteCell where
  copies : List (Nat × CollectCell × Bool × Bool) := []   -- port, cell, FIRST, LAST
  first : St
  sent : Bool := false
deriving DecidableEq, Repr

/-- The copies of one instance's COLLECT_DOWN cells from the roots (R267). -/
structure RootVote where
  slice : Nat
  id : Nat
  ce : Epoch
  me : Epoch
  cells : List VoteCell := []
  blocked : Bool := false
  closed : Option St := none            -- kept until then once the tail has been forwarded
  charged : List Nat := []
deriving DecidableEq, Repr

/-- A record being forwarded down, assembled to check its residues (R332). -/
structure Down where
  slice : Nat
  id : Nat
  port : Nat
  bytes : List Byte := []
  checked : Nat := 0
  resDiff : Option Nat := none
deriving DecidableEq, Repr

/-- A record kept for RESULT_KEEP: a result at the top, or a partial's POST_DIGEST (R330, R331). -/
structure Kept where
  slice : Nat
  id : Nat
  plane : Plane
  isTop : Bool
  ce : Epoch
  me : Epoch
  bytes : List Byte
  mask : BitVec 96
  digest : W32
  sent : St
  step : Step
deriving DecidableEq, Repr

/-- A route that a RESEND holds (R330). -/
structure Route where
  slice : Nat
  id : Nat
  port : Nat
  until_ : St
deriving DecidableEq, Repr

/-- A split report in progress at a root (R331). -/
structure Digests where
  slice : Nat
  id : Nat
  step : Step
  sent : St
  reporters : List Node
  answers : List (Node × Nat × W32)
  charged : Bool := false
deriving DecidableEq, Repr

/-- A barrier instance record (R244, R247). -/
structure BarRec where
  group : Nat
  gen : BitVec 16
  plane : Plane
  slice : Nat
  mask : BitVec 96
  arrived : BitVec 96 := 0
  top : Bool
  opened : St
  deferred : Bool := false
  part_ : Bool := false
  def_ : Bool := false
  sent : Bool := false
deriving DecidableEq, Repr

/-- A first copy forwarded down, whose later copies are discarded for 8 ticks (R234, R244). -/
structure Seen where
  kind : Nat                            -- 3 SIGNAL, 4 REPLY, 5 BARRIER_DONE
  src : Node
  op : Nat
  until_ : St
deriving DecidableEq, Repr

/-- The roots' copies of a REPLY or EVENT at a row distributor (R267, R303). -/
structure LedVote where
  slice : Nat
  ce : Epoch
  me : Epoch
  copies : List (Nat × LedgerMsg)
  first : St
  sent : Bool := false
deriving DecidableEq, Repr

/-- Ports, groups, slices, posts and barriers of a distributor. -/
structure Fabric where
  hgroups : Tab (Option HPiece) := []
  maps : Tab (BitVec 96) := []
  weights : Tab Nat := []               -- keyed by port x 64 + slice; 8 where unlisted
  turnings : Tab Turning := []
  resetCe : Tab (Option Epoch) := []    -- CE of the last step reset of a slice (R324)
  posts : List Post := []
  postsMax : Tab Nat := []              -- most in use since read (R517)
  memUsed : Nat := 0                    -- combine memory blocks in use
  memLow : Nat := 0                     -- most blocks in use since read
  refused : List Refused := []
  votes : List RootVote := []
  ledVotes : List LedVote := []
  downs : List Down := []
  kept : List Kept := []
  routes : List Route := []
  bars : List BarRec := []
  defMax : Nat := 0
  seen : List Seen := []
  outNew : BitVec 96 := 0               -- positions excluded from instances opened now (R347, R374)
  outMap : BitVec 96 := 0               -- positions taken out of every slice map (R347, R375)
  acctSlice : Nat := 0
  acctPort : Nat := 0
  ledgerSent : Tab Nat := []            -- LEDGER cells sent in this tick on each root uplink (R318)
deriving DecidableEq, Repr

/-- A reference input (R73 to R82, R422). Inputs 0, 1 and 4 count clock edges, inputs 0 and 1 also 1PPS edges. -/
structure RefIn where
  valid : Bool := false
  failed : Bool := false                -- declared failed since power-up (R79)
  validSince : Option St := none
  wtr : Bool := false
  eligible : Bool := false
  ppsOk : Bool := false
  clkOk : Bool := false
  ppsCount : Nat := 0
  clkCount : Nat := 0
  badRun : Nat := 0                     -- 1PPS windows failed in a row
  phase : Option Int := none            -- last measured phase error, ps
  mark : Int := 0                       -- `steered` at that measurement
  lastJump : Int := 0                   -- its move since the one before, the root's own steering taken out (R78), ps
deriving DecidableEq, Repr

inductive RefState | freeRun | acquiring | locked | holdover | lost
deriving DecidableEq, Repr

/-- A REF VOTE as last received (R95); `e` in ps, `yc` in 0.001 ppb, `absErr` in ns. -/
structure RefVote where
  have_ : Bool := false
  state : Nat := 0
  key : BitVec 16 := 0
  ePs : Int := 0
  yc : Int := 0
  absErr : Nat := 0
deriving DecidableEq, Repr

/-- A PTP port (R74, R75), its state in the codes of PTP_PORT_STATUS (R514). -/
structure PtpPort where
  state : Nat := 5
  cls : Nat := 0
  acc : Nat := 0
  identity : W64 := 0
  gotSync : Bool := false
  gotDelay : Bool := false
deriving DecidableEq, Repr

/-- An output aligned to absolute time (R91): its level and its last rise. -/
structure Pulse where
  high : Bool := false
  last : Option St := none
deriving DecidableEq, Repr

/-- The references and steering of a root (R72 to R97). Rates are in 10^-8 ppb, phases in ps. -/
structure Refs where
  ins : Tab RefIn := []
  ptp : Tab PtpPort := []
  ptpUtc : Option (BitVec 16) := none
  ql : Option Ql := none
  esmcAt : Option St := none
  selected : Nat := 5
  state : RefState := .freeRun
  before : RefState := .freeRun         -- the state before ACQUIRING (R86)
  running : Bool := false
  stInit : W64 := 0
  stInitLocked : Bool := false
  ocxoAbsent : Bool := false
  ys : Int := 0
  yc : Int := 0
  steered : Int := 0                    -- phase moved by y_c, 10^-20 ps
  runAt : Option St := none             -- the last selection run
  ran : Option Nat := none              -- the 1,024-tick window of the last periodic run
  pull : Bool := false
  originNeeded : Bool := false
  near : Option St := none              -- since when |e| <= 100 ns without interruption (R86)
  holdShort : Bool := false
  freqAssist : Bool := false
  means : List Int := []                -- one-second means of y_s + y_c, newest first, at most 310 (R88)
  second : Nat := 0                     -- the second in progress, its sum and count of runs
  secSum : Int := 0
  secRuns : Nat := 0
  lockedAt : Option St := none
  lossAt : Option St := none
  holdVal : Option Int := none
  e0 : Nat := 0
  absErr : Nat := 0
  votes : Tab RefVote := []
  eUsed : Option Int := none
  outlier : BitVec 3 := 0
  conflict : Bool := false
  unchecked : Bool := false
  noConf : Bool := false                -- no-confidence stands against the leader (R96)
  noConfAt : Tab (Option St) := []
  pendStep : Int := 0                   -- origin steps commanded before the next record (R30)
  pendUtc : Option Int := none
  pendCmds : List (Cmd × Int) := []
  outs : Tab Pulse := []                -- 0 1PPS, 1 10 MHz, 2 and 3 the pulse outputs
  outA : St := 0                        -- alignment instant of the 1PPS and 10 MHz outputs (R91)
deriving DecidableEq, Repr

/-- What the membership record says of a part (R341 to R344, R516). `status` in the codes of NODE_RECORD. -/
structure NodeRec where
  known : Bool := false
  status : Nat := 7
  draining : Bool := false              -- since the effect tick E1 of its drain (R374)
  probation : Bool := false
  cleared : Bool := false               -- probation begins at the next join (R357)
  pairAmbiguous : Bool := false
  fresh : Bool := false                 -- an event has come that no decision has weighed
  changeMe : Epoch := 0
  events : List (St × Bool × Bool × Node × Nat) := []   -- time, hard, split, reporter, cause
  reports : List (St × Node × Report) := []
  last : St := 0
  probEnd : Option St := none
  bootCount : Option Nat := none        -- of the last JOIN_READY accepted (R377)
  joinReady : Option JoinReady := none  -- one that is held or proposed (R362)
  hardOn : List (St × Node) := []       -- parts it raised hard events against (R343)
deriving DecidableEq, Repr

/-- A change proposed to the triad (R345): the change, the roots that have proposed it. -/
structure Proposal where
  change : Change
  by_ : List Node
deriving DecidableEq, Repr

/-- Membership, the triad and elections (R338 to R355). -/
structure Membership where
  nodes : Tab NodeRec := []
  proposals : List Proposal := []
  held : List Change := []              -- decisions held through an election (R345)
  nodeSel : Nat := 0
  tallySel : Nat := 0
  triad : Tab Node := []                -- root index to node ID; 0 the root of that index
  electing : Bool := false
  electAt : St := 0
  elections : Nat := 0
  rootLost : BitVec 3 := 0              -- row role: roots lost at this part
  lossReports : Tab (BitVec 3) := []    -- root role: by row distributor, of the present election
  lostRoots : BitVec 3 := 0             -- roots lost in the hall (R350)
  offers : List (Nat × Node × Tick) := []   -- offered index, candidate, tick of the offer (R352)
  refusedBy : List Node := []           -- candidates that have not answered
  accepts : List (Nat × Node) := []
  elected : Bool := false
  served : Nat := 0
  copyActive : Bool := false
  twoMember : Bool := false
  soleRoot : Bool := false
  unchecked : Bool := false
  snapTick : Tick := 0
  copied : Tab Byte := []               -- ledger image bytes received in COPY cells (R354)
  holdOut : Bool := false               -- ledger outputs held through an election (R354)
  outReports : Tab (List (Nat × St)) := []   -- by row distributor: roots that report its uplink out, and when (R348)
deriving DecidableEq, Repr

/-- A result of a group's sampling collect on one plane (R267, R293): its step, record bytes, RELEASE, and when it was
handed over. -/
structure SampleIn where
  step : Step
  bytes : List Byte
  release : St
  at_ : Option St := none
deriving DecidableEq, Repr

/-- A close begun (R292): its step, the first copy's arrival, and when the wait for the sampling result was over. -/
structure CloseRec where
  step : Step
  first : St
  ready : Option St := none
deriving DecidableEq, Repr

/-- A serving group and its batch (R281 to R302). A table holds, by slot, 1 + request index + GEN x 65,536; 0 empty. -/
structure SGroup where
  f : SgFields
  table : Tab Nat := []                 -- newest decided table
  tables : List (Step × Tab Nat) := []  -- decided tables by apply step, oldest first (R299)
  inForce : Tab Nat := []               -- the table in force before the first of them
  closes : Nat := 0
  fullDue : Bool := false
  close : Option CloseRec := none
  last : Option Step := none            -- the last step decided or missed
  logStep : Step := 0
  logArg : W32 := 0
  logDie : Nat := 0
  sampleA : Option SampleIn := none
  sampleB : Option SampleIn := none
  applied : Option Step := none
deriving DecidableEq, Repr

/-- A ledger operation that waits for commit (R289), with its slice and pair. -/
structure Ingest where
  msg : LedgerMsg
  slice : Nat
  ce : Epoch
  me : Epoch
deriving DecidableEq, Repr

/-- The step ledger at a root (R281 to R304). -/
structure Ledger where
  table : Tab LedgerEntry := []
  quotas : Tab Nat := []                -- quota by slice, once a LEDGER_PART has been committed
  parted : Bool := false
  sgs : Tab (Option SGroup) := []
  ingest : List Ingest := []
  eventId : BitVec 16 := 0
  doneAt : Tab (Option St) := []        -- when an entry's EVENT was sent (R291)
  changed : Tab (Option St) := []       -- commit edge of the last operation that changed an entry (R294)
  sel : Nat := 0
  cap : List Byte := []
  longest : Nat := 0
  longestWait : Nat := 0
  heldOut : List OutCell := []          -- outputs held through an election (R354)
  kept : List (DeltaRec × Nat × St) := []   -- deltas sent, their slice and when, for a resend (R330)
  digests : Tab (List (Step × W32)) := []   -- by root index x 256 + group, newest first (R303)
deriving DecidableEq, Repr

/-- A commit in progress at the roots (R395 to R400). -/
structure RootTxn where
  id : W32
  src : Node
  n : Nat := 0
  joined : List Node := []
  prepared : List Node := []
  requested : Bool := false
  slice : Nat := 0
  step : Step := 0
  boundary : St := 0
  deadline : St := 0
  prepareSent : Bool := false
  decision : Option Decision := none
deriving DecidableEq, Repr

/-- The role's roots-only management state, and the join and drain of a distributor (R370 to R375, R395, R408). -/
structure Service where
  role : Role := .none_
  planeB : Bool := false
  rootCapable : Bool := false
  smb : BitVec 3 := 0
  strapped : Bool := false
  engineering : Bool := false
  position : BitVec 12 := 0
  posLock : Bool := false
  state : DistState := .offline
  removeReq : Bool := false
  removeRefused : Bool := false
  coldHold : Bool := false
  tjWarn : Bool := false
  tripped : Bool := false
  dark : Bool := true                   -- transmitters and lasers held off (R479, R481)
  present : Bool := false
  lostPresence : Bool := false
  inReset : Bool := false
  removeOk : Bool := false
  attnBlink : Bool := false
  attnLow : Bool := false
  alertN : Bool := false
  jtag : Bool := false
  copied : Option CopyState := none
  copyDone : Bool := false
  joinAt : Option St := none            -- when JOIN_READY was last sent (R361, R372)
  drainAt : Option St := none
  waitCmds : List (Cmd × Nat × Node × Nat) := []   -- commands that wait for a membership decision: opcode, node, new state
  resets : List (Cmd × Nat) := []       -- SLICE_RESET commands that wait for E, with their slices (R323)
  rtxns : List RootTxn := []
  remoteCpl : List Completion := []     -- completions written by this part's Headstock, newest first
  mbOpen : List (BitVec 16 × Node × St) := []   -- commands taken and not final: TAG, SRC, arrival (R390)
deriving DecidableEq, Repr

/-- The PV-D128. -/
structure Dist where
  b : Base := {}
  sv : Service := {}
  fab : Fabric := {}
  refs : Refs := {}
  mem : Membership := {}
  led : Ledger := {}
  digests : List Digests := []
deriving DecidableEq, Repr

end Sys2Proof.Machine
end

