-- ==== Sys2Proof/Machine/State.lean ====
section
/-! DEFINITION. The state of the block: one PV-TSU4, one PV-D128, the value of the last register read and the queue of
waiting commands; the faults and refusals of a step; the state after reset. -/

namespace Sys2Proof.Machine

/-- The block. `rdata` is what the last register read returned (R48, R487, R490); `pending` is the queue of waiting
commands, first in, first out. -/
structure State where
  tsu : Tsu
  dist : Dist
  rdata : W64
  pending : List Instr
deriving DecidableEq, Repr

/-- Faults: an operand names an object that the manual says does not exist. Each is safe: no claim about such a
command can be proved beyond that it stops. -/
inductive Fault
  /-- A port number outside the part: 2 ports on a PV-TSU4 (R51), 128 on a PV-D128 (R57). Raised by every command
  that names a port. Safe. -/
  | noSuchPort
  /-- A region index above 143 or a crossing port above 3 (R50, R180). Raised by the region commands. Safe. -/
  | noSuchRegion
  /-- A core index above 575 (R50). Raised by the counter-port and core commands. Safe. -/
  | noSuchCore
  /-- A lane, channel, unit, counter unit, mailbox, bus or slice number that the part does not have (R98, R305, R384,
  R409, R410, R419, R429, R438, R469). Raised by the commands that name one. Safe. -/
  | noSuchUnit
deriving DecidableEq, Repr

/-- Refusals. -/
inductive Refusal
  /-- A command whose meaning has not been written: no arm of `exec` answers with it. Safe. -/
  | notModelled (mnemonic : String)
deriving DecidableEq, Repr

/-- The block right after reset: every field at the default that its structure states, no command waiting. -/
def State.reset : State := { tsu := {}, dist := {}, rdata := 0, pending := [] }

end Sys2Proof.Machine
end

