-- ==== Sys2Proof/Machine/Tab.lean ====
section
/-! DEFINITION. Reading and writing sparse arrays (`Tab`) in their one canonical form, given what an unlisted
key reads as. -/

namespace Sys2Proof.Machine

/-- The entry at key `k`; `d` is what an unlisted key reads as. -/
def tget {α : Type} (d : α) : Tab α → Nat → α
  | [], _ => d
  | (k', v) :: t, k => if k = k' then v else tget d t k

/-- Lists `v` at key `k`, in its place in the order of keys. -/
def tput {α : Type} : Tab α → Nat → α → Tab α
  | [], k, v => [(k, v)]
  | (k', v') :: t, k, v =>
    if k < k' then (k, v) :: (k', v') :: t
    else if k = k' then (k, v) :: t
    else (k', v') :: tput t k v

/-- Writes `v` at key `k`. Writing what an unlisted key reads as removes the entry. -/
def tset {α : Type} [DecidableEq α] (d : α) (t : Tab α) (k : Nat) (v : α) : Tab α :=
  if v = d then t.filter (fun e => e.1 != k) else tput t k v

/-- Applies `f` to the entry at key `k`. -/
def tmod {α : Type} [DecidableEq α] (d : α) (t : Tab α) (k : Nat) (f : α → α) : Tab α :=
  tset d t k (f (tget d t k))

/-- Applies `f` to every listed entry; an entry that becomes the default is dropped. -/
def tmapAll {α : Type} [DecidableEq α] (d : α) (f : Nat → α → α) : Tab α → Tab α
  | [] => []
  | (k, v) :: t => if f k v = d then tmapAll d f t else (k, f k v) :: tmapAll d f t

/-- The keys of a sparse array, in rising order. -/
def tkeys {α : Type} (t : Tab α) : List Nat := t.map Prod.fst

/-- All keys lie above `b` and rise. -/
def sortedFrom {α : Type} : Option Nat → Tab α → Bool
  | _, [] => true
  | none, (k, _) :: t => sortedFrom (some k) t
  | some b, (k, _) :: t => decide (b < k) && sortedFrom (some k) t

/-- The canonical form: keys strictly rising, and no entry equal to what an unlisted key reads as. -/
def tcanon {α : Type} [DecidableEq α] (d : α) (t : Tab α) : Bool :=
  sortedFrom none t && t.all (fun e => decide (e.2 ≠ d))

end Sys2Proof.Machine
end

