-- ==== Sys2Proof/Machine/Ops.lean ====
section
/-! DEFINITION. The named operations over the state that every family uses: the two parts' common state, counters and
their performance events, interrupts, alerts, the flight recorder, node IDs, sending cells, and raising an event
against a part. A block has no exception entry; these are its shared effects. -/

namespace Sys2Proof.Machine

/-! ### The common state of a part -/

/-- What part `p` holds in common with the other part. -/
def State.base (s : State) : Part → Base
  | .tsu => s.tsu.b
  | .dist => s.dist.b

def State.modTsu (s : State) (f : Tsu → Tsu) : State := { s with tsu := f s.tsu }
def State.modDist (s : State) (f : Dist → Dist) : State := { s with dist := f s.dist }

def State.modBase (s : State) (p : Part) (f : Base → Base) : State :=
  match p with
  | .tsu => { s with tsu := { s.tsu with b := f s.tsu.b } }
  | .dist => { s with dist := { s.dist with b := f s.dist.b } }

/-- Master time (R159) or distributor time: the ST of a part. -/
def Base.now (b : Base) : St := b.t.acc.extractLsb' 32 64

def State.now (s : State) (p : Part) : St := (s.base p).now

def Base.port (b : Base) (i : Nat) : Port := tget {} b.ports i
def Base.modPort (b : Base) (i : Nat) (f : Port → Port) : Base := { b with ports := tmod {} b.ports i f }

def State.port (s : State) (p : Part) (i : Nat) : Port := (s.base p).port i
def State.modPort (s : State) (p : Part) (i : Nat) (f : Port → Port) : State := s.modBase p (·.modPort i f)

/-- Ports of a part (R51, R57). -/
def portCount : Part → Nat
  | .tsu => 2
  | .dist => 128

/-- A command that names a port the part does not have stops. -/
def onPort (p : Part) (i : Nat) (s : State) (f : State → State) : Host.Outcome State Fault Refusal :=
  if i < portCount p then .next (f s) else .fault .noSuchPort

/-- A command that names a port or a lane of it that the part does not have stops: a port has lanes 0 to 2 (R98). -/
def onLane (p : Part) (i l : Nat) (s : State) (f : State → State) : Host.Outcome State Fault Refusal :=
  if portCount p ≤ i then .fault .noSuchPort
  else if l < 3 then .next (f s) else .fault .noSuchUnit

/-- A command that names a region the die does not have stops (R50). -/
def onRegion (r : Nat) (s : State) (f : State → State) : Host.Outcome State Fault Refusal :=
  if r < 144 then .next (f s) else .fault .noSuchRegion

/-- A command that names a core the die does not have stops (R50). -/
def onCore (c : Nat) (s : State) (f : State → State) : Host.Outcome State Fault Refusal :=
  if c < 576 then .next (f s) else .fault .noSuchCore

/-- A command that names a unit the part does not have stops. -/
def onUnit (ok : Bool) (s : State) (f : State → State) : Host.Outcome State Fault Refusal :=
  if ok then .next (f s) else .fault .noSuchUnit

/-! ### Roles and node IDs (R53, R65, R66, R68) -/

def nodeKind (n : Node) : Nat := bits n.toNat 23 22
def nodeRow (n : Node) : Nat := bits n.toNat 21 17
def nodeRack (n : Node) : Nat := bits n.toNat 16 12
def nodeSlot (n : Node) : Nat := bits n.toNat 11 5
def nodePlaneB (n : Node) : Bool := tbit n.toNat 4
def nodeRoot (n : Node) : Nat := bits n.toNat 3 0

def mkNode (kind row rack slot plane root : Nat) : Node :=
  BitVec.ofNat 24 (kind * 2 ^ 22 + row * 2 ^ 17 + rack * 2 ^ 12 + slot * 2 ^ 5 + plane * 2 ^ 4 + root)

/-- R66. -/
def nodeValid (n : Node) : Bool :=
  match nodeKind n with
  | 0 => decide (nodeSlot n ≤ 95) && !nodePlaneB n && decide (nodeRoot n = 0)
  | 1 => decide (nodeSlot n = 0) && decide (nodeRoot n = 0)
  | 2 => decide (nodeRack n = 0) && decide (nodeSlot n = 0) && decide (nodeRoot n = 0)
  | _ => decide (nodeRow n = 0) && decide (nodeRack n = 0) && decide (nodeSlot n = 0) && !nodePlaneB n
          && decide (nodeRoot n ≤ 2)

/-- The die global index (R68). -/
def dieIndex (n : Node) : Nat := nodeRow n * 3072 + nodeRack n * 96 + nodeSlot n

/-- The node ID of a die global index (R65, R68). -/
def dieNode (i : Nat) : Node := mkNode 0 (i / 3072) (i % 3072 / 96) (i % 96) 0 0

/-- Every root (R338, R403). -/
def allRoots : Node := 0xFFFFFF

def State.node (s : State) (p : Part) : Node := ((s.base p).node).getD 0xFFFFFF

def State.role (s : State) : Role := s.dist.sv.role

/-- Own row, rack and root index from NODE_POSITION (R55, R512). -/
def State.ownRow (s : State) : Nat := bits s.dist.sv.position.toNat 4 0
def State.ownRack (s : State) : Nat := bits s.dist.sv.position.toNat 9 5
def State.ownRoot (s : State) : Nat := bits s.dist.sv.position.toNat 11 10

/-- The level of a distributor (R263). -/
def roleLevel : Role → Nat
  | .none_ => 0 | .rack => 1 | .row => 2 | .root => 3

/-- A port in UP or DEGRADED. -/
def Port.live (q : Port) : Bool := q.link.state == .up || q.link.state == .degraded

/-- Uplinks of a part in service: the ports toward the roots (R57). -/
def uplinks (s : State) : Part → List Nat
  | .tsu => [0, 1]
  | .dist => match s.role with
    | .rack => [96, 97]
    | .row => [96, 97, 98]
    | .root => [96, 97, 98, 99]
    | .none_ => []

def peerPorts (s : State) : List Nat :=
  match s.role with
  | .rack => [98] | .row => [99, 100] | .root => [96, 97, 98, 99] | .none_ => []

/-- What a distributor's port is used for (R57), in the codes of PORT_INFO (R518). -/
def portUse (r : Role) (i : Nat) : Nat :=
  match r with
  | .none_ => 0
  | .rack => if i ≤ 95 then 1 else if i ≤ 97 then 2 else if i = 98 then 5 else 0
  | .row => if i ≤ 63 then 3 else if 96 ≤ i ∧ i ≤ 98 then 4 else if i = 99 ∨ i = 100 then 5 else 0
  | .root => if i ≤ 63 then 6 else if 96 ≤ i ∧ i ≤ 99 then 5 else 0

/-- The plane of a port's traffic: the die's port names it; below the roots it is D_PLANE; at a root the row port
2w + p names it (R51, R57, R66). -/
def portPlaneB (s : State) (p : Part) (i : Nat) : Bool :=
  match p with
  | .tsu => i == 1
  | .dist => match s.role with
    | .root => i < 64 && tbit i 0
    | _ => s.dist.sv.planeB

def planeOf (b : Bool) : Plane := if b then .b else .a

/-! ### Configured figures -/

/-- A register that CONFIG_WRITE sets, by its offset: its written value or the given default (R489, R492). -/
def Base.cfgOr (b : Base) (off dflt : Nat) : Nat :=
  match b.cfg.lookup off with
  | some v => v.toNat
  | none => dflt

def State.cfg (s : State) (p : Part) (off dflt : Nat) : Nat := (s.base p).cfgOr off dflt

/-! ### Counters (R429 to R437) -/

/-- The filters that an event carries (R430, R436). -/
structure Flt where
  slice : Option Nat := none
  port : Option Nat := none
  region : Option Nat := none

/-- The performance event that a counter's event is (R436, R437); 0 for none. -/
def Ctr.event : Part → Ctr → Nat
  | _, .clamp => 0x001
  | _, .guardHit => 0x002
  | _, .portLoopSkip => 0x010
  | .tsu, .markMiss => 0x015
  | .tsu, .stretchDeep => 0x016
  | .tsu, .crossLate => 0x017
  | .tsu, .crossDrop => 0x018
  | .tsu, .late => 0x022
  | .tsu, .armShort => 0x023
  | .tsu, .plateCancelled => 0x027
  | .tsu, .msgBackpressure => 0x033
  | .tsu, .signalSingle => 0x035
  | .tsu, .signalExpired => 0x036
  | .tsu, .collectBusy => 0x041
  | .dist, .collectBusy => 0x081
  | _, .cellCrc => 0x053
  | _, .cellLost => 0x054
  | _, .cellCorrupt => 0x055
  | _, .epochStale => 0x056
  | .tsu, .ledgerBusy => 0x068
  | .tsu, .planeDisagree => 0x044
  | .dist, .retrain => 0x057
  | .dist, .calShift => 0x059
  | .dist, .calReject => 0x059
  | .dist, .collectMismatch => 0x082
  | .dist, .postStray => 0x083
  | .dist, .residueFail => 0x084
  | .dist, .barrierDeferred => 0x086
  | .dist, .barrierStray => 0x087
  | .dist, .sliceViolation => 0x088
  | .dist, .p1Overrun => 0x089
  | .dist, .peerDiscard => 0x08A
  | .dist, .voteStale => 0x08B
  | .dist, .mgmtAuthFail => 0x08C
  | .dist, .mgmtReplay => 0x08D
  | .dist, .ledgerLateIn => 0x091
  | .dist, .closeMissed => 0x092
  | _, _ => 0

/-- Whether a PERF_SEL word selects an event with these filters (R430, R431). -/
def perfMatch (p : Part) (sel : Nat) (ev : Nat) (f : Flt) : Bool :=
  tbit sel 63 && decide (bits sel 9 0 = ev) && decide (ev ≠ 0)
    && (!tbit sel 47 || f.slice == some (bits sel 46 41))
    && (!tbit sel 40 || f.port == some (bits sel 39 33))
    && (!(tbit sel 32 && p == .tsu) || f.region == some (bits sel 31 24))

/-- A programmable counter adds `n`, wrapping modulo 2^48 and setting OVF (R430). -/
def perfAdd (c : PerfCtr) (n : Nat) : PerfCtr :=
  { c with val := (c.val + n) % 2 ^ 48, ovf := c.ovf || decide (2 ^ 48 ≤ c.val + n) }

/-- An event reaches the programmable counters that select it, unless FREEZE stops them (R431). -/
def Perf.event (p : Part) (ev : Nat) (f : Flt) (n : Nat) (q : Perf) : Perf :=
  if q.freeze then q
  else { q with ctrs := tmapAll {} (fun _ c => if perfMatch p c.sel.toNat ev f then perfAdd c n else c) q.ctrs }

def State.event (s : State) (p : Part) (ev : Nat) (f : Flt) (n : Nat) : State :=
  s.modBase p fun b => { b with perf := b.perf.event p ev f n }

/-- The key of a counter's index in the sparse table of counters. -/
def ctrKey (c : Ctr) (i : Nat) : Nat := c.ctorIdx * 2 ^ 20 + i

def Base.ctr (b : Base) (c : Ctr) (i : Nat) : Nat := tget 0 b.cnt (ctrKey c i)
def Base.setCtr (b : Base) (c : Ctr) (i v : Nat) : Base := { b with cnt := tset 0 b.cnt (ctrKey c i) v }

/-- Whether a vector is masked, in the MSI-X table or by its mask register. -/
def vecMasked (d : Die) (v : Nat) : Bool :=
  !d.msixOpen.getLsbD v || (if v = 0 ∨ v = 4 ∨ v = 13 then tbit d.privMask.toNat v else tbit d.sliceMask.toNat v)

/-- MSI-X vectors (R313, R459): one message, or a pending bit when the vector is masked. -/
def irq (s : State) (v : Nat) : State :=
  let d := s.tsu.die
  if !d.msixOn then s
  else if vecMasked d v then { s with tsu.die.pba := d.pba ||| BitVec.ofNat 16 (2 ^ v) }
  else { s with tsu.die.msix := tmod 0 d.msix v (· + 1) }

/-- The SLICE_ACCT index of a counter of the TSU (R503); 99 for none. -/
def acctIndex : Ctr → Nat → Nat
  | .p2Cells, i => i
  | .p2Wait, i => 2 + i
  | .p2WaitMax, i => 4 + i
  | .collectBusy, _ => 6
  | .signalBusy, _ => 7
  | .ledgerBusy, _ => 8
  | .epochStale, _ => 9
  | .sliceCancelled, _ => 10
  | _, _ => 99

/-- SLICE_ACCT_THRESHOLD (R320): vector 12 when the counter that it names passes its value. -/
def acctCheck (s : State) (p : Part) (c : Ctr) (i old new : Nat) : State :=
  let th := s.tsu.die.acctThreshold.toNat
  if p == .tsu && decide (acctIndex c i ≠ 99) && decide (acctIndex c i = bits th 7 0)
      && decide (old ≤ bits th 63 16) && decide (bits th 63 16 < new) then irq s 12 else s

/-- Counts `n` in a counter, with its performance event and accounting threshold. -/
def State.count (s : State) (p : Part) (c : Ctr) (i : Nat) (f : Flt) (n : Nat) : State :=
  let old := (s.base p).ctr c i
  let s := s.modBase p (·.setCtr c i (old + n))
  let s := if Ctr.event p c = 0 then s else s.event p (Ctr.event p c) f n
  acctCheck s p c i old (old + n)

/-- A host value clamped under R12 counts one CLAMP event. -/
def State.clamped (s : State) (p : Part) (b : Bool) : State := if b then s.count p .clamp 0 {} 1 else s

/-- EPOCH_STALE for a slice (R43, R320). -/
def State.stale (s : State) (p : Part) (port slice : Nat) : State :=
  s.count p .epochStale (if p == .tsu then 0 else slice) { slice := some slice, port := some port } 1

/-- The largest value of a maximum counter since it was read. -/
def State.maxCtr (s : State) (p : Part) (c : Ctr) (i v : Nat) : State :=
  s.modBase p fun b => if b.ctr c i < v then b.setCtr c i v else b

/-! ### The flight recorder (R423 to R428) -/

/-- The capacity C (R423). -/
def frCap : Part → Nat
  | .tsu => 4096
  | .dist => 16384

def frDepth (p : Part) (r : Recorder) : Nat := (r.preDepth).getD (frCap p * 3 / 4)

/-- A missed trigger (R428). -/
def frMiss (at_ : St) (r : Recorder) : Recorder :=
  { r with missed := sat 65535 (r.missed + 1), missedFirst := if r.missed = 0 then at_ else r.missedFirst }

/-- Writes one entry into the ring. -/
def frPut (p : Part) (e : FrEntry) (r : Recorder) : Recorder :=
  { r with ring := tset none r.ring (r.wp % frCap p) (some e), wp := (r.wp + 1) % frCap p, written := r.written + 1 }

/-- An event of a class reaches the recorder; `trig` says that a selected trigger source fires with it (R424 to
R427). The result says whether the entry was lost to FR_LOST. -/
def frStep (p : Part) (at_ : St) (cls : Nat) (body : List Byte) (trig : Bool) (r : Recorder) : Recorder × Bool :=
  if !tbit r.classMask.toNat cls then (r, false)
  else
    let e : FrEntry := { st := at_, cls, seq := BitVec.ofNat 16 r.written, body }
    match r.state with
    | .idle => (r, false)
    | .armed =>
      if trig then
        let pre := min (frDepth p r) r.written
        (frPut p { e with trig := true } { r with
          state := .triggered, left := frCap p - frDepth p r - 1, preCount := pre,
          first := (r.wp + frCap p - pre) % frCap p }, false)
      else (frPut p e r, false)
    | .triggered =>
      if r.left = 0 then (r, true)
      else (frPut p { e with trigSeen := trig } { r with left := r.left - 1 }, false)
    | .frozen | .rearming => ((if trig then frMiss at_ r else r), true)

/-- Whether an entry of this class, HARD or not, is a selected trigger (R425). -/
def frIsTrig (r : Recorder) (cls : Nat) (hard : Bool) : Bool :=
  let m := r.trigMask.toNat
  (tbit m 1 && tbit m (16 + cls)) || (tbit m 2 && hard && cls == 1)

/-- Writes a flight-recorder entry. -/
def State.fr (s : State) (p : Part) (cls : Nat) (body : List Byte) (hard : Bool) : State :=
  let r := (s.base p).fr
  let out := frStep p (s.now p) cls body (frIsTrig r cls hard) r
  let s := s.modBase p fun b => { b with fr := out.1 }
  if out.2 then s.count p .frLost 0 {} 1 else s

/-- A trigger source that writes no entry of its own (R425): codes 3 stamp, 4 alert, 5 FR_TRIGGER. -/
def State.frTrigger (s : State) (p : Part) (code chan : Nat) (stamp : St) : State :=
  let r := (s.base p).fr
  if !tbit r.trigMask.toNat code then s
  else
    let body := beBytes 1 code ++ beBytes 1 chan ++ beBytes 8 stamp.toNat
    match r.state with
    | .idle => s
    | .frozen | .rearming => s.modBase p fun b => { b with fr := frMiss (s.now p) r }
    | _ =>
      let out := frStep p (s.now p) 9 body true r
      s.modBase p fun b => { b with fr := out.1 }

/-! ### Alerts (R457, R512) -/

/-- Sets a cause of the part's alert; the alert's assertion is trigger source 0x04 and, at a die, vector 13. -/
def State.alert (s : State) (p : Part) (i : Nat) : State :=
  let was := (s.base p).hs.alert
  let s := s.modBase p fun b => { b with hs := { b.hs with alert := was ||| BitVec.ofNat 64 (2 ^ i) } }
  let s := if was = 0 then s.frTrigger p 4 0 0 else s
  match p with
  | .tsu =>
    let s := { s with tsu.die.alertN := true }
    if tbit was.toNat i then s else irq s 13
  | .dist => { s with dist.sv.alertN := true }

/-! ### Sending cells (R107, R112, R319, R338) -/

/-- The P1 cells that a part holds in all. -/
def p1Total (b : Base) : Nat := (b.ports.map fun e => e.2.tx.p1.length).foldl (· + ·) 0

/-- Queues a P1 cell (R319): a distributor holds 8,192 in all, and one more is discarded and counted. -/
def sendP1 (s : State) (p : Part) (i : Nat) (c : OutCell) : State :=
  if p == .dist && decide (8192 ≤ p1Total s.dist.b) then
    s.count .dist .p1Overrun c.slice { slice := some c.slice, port := some i } 1
  else
    let s := s.modPort p i fun q => { q with tx := { q.tx with p1 := q.tx.p1 ++ [c] } }
    s.maxCtr p .p1DepthMax i (s.port p i).tx.p1.length

/-- Queues a P2 cell of its slice (R114). -/
def sendP2 (s : State) (p : Part) (i : Nat) (c : OutCell) : State :=
  s.modPort p i fun q => { q with tx := { q.tx with p2 := tmod [] q.tx.p2 c.slice (· ++ [c]) } }

/-- The planes on which a die starts operations: not one that is fenced or drained (R348, R374). -/
def planesOn (s : State) : List Nat :=
  [0, 1].filter fun i => !s.tsu.die.planeOff.getLsbD i && !s.tsu.die.planeOff.getLsbD (2 + i)

def sendP3 (s : State) (p : Part) (i : Nat) (c : OutCell) : State :=
  s.modPort p i fun q => { q with tx := { q.tx with p3 := q.tx.p3 ++ [c] } }

/-- A cell with the part's current (CE, ME) pair. -/
def cellNow (s : State) (p : Part) (slice : Nat) (b : Body) : OutCell :=
  { slice, ce := (s.base p).ep.ce, me := (s.base p).ep.me, at_ := s.now p, body := b }

/-- Originates a VOTE cell on a port: at most one per tick, any excess queued in order (R338). -/
def sendVote (s : State) (p : Part) (i : Nat) (v : Vote) : State :=
  let c := cellNow s p 0 (.vote v)
  let t := (s.port p i).tx
  if t.voted then s.modPort p i fun q => { q with tx := { q.tx with votes := q.tx.votes ++ [c] } }
  else sendP1 (s.modPort p i fun q => { q with tx := { q.tx with voted := true } }) p i c

def sendVotes (s : State) (p : Part) (is : List Nat) (v : Vote) : State :=
  is.foldl (fun s i => sendVote s p i v) s

/-- The guard GUARD_MGMT_RATE (R382): its register, at most 256; 128 where the image gave none. -/
def mgmtGuard (b : Base) : Nat :=
  let g := ((b.hs.guards[3]?).getD 0).toNat
  if g = 0 then 128 else min g 256

/-- The cells of a management message: 43 bytes each of NONCE, plaintext and tag (R403, R404, R407). -/
def mgmtCells (b : MgmtBody) : Nat :=
  let body := match b with
    | .command .. => 64
    | .completion _ => 32
    | .txnJoin .. => 8
    | .commitRequest .. => 16
    | .txnQuery _ => 4
    | .prepare .. => 20
    | .prepared .. => 8
    | .decide .. => 31
    | .joinReady _ => 30
    | .partDone .. => 15
    | .copyReq => 4
    | .copyData .. | .image _ => 4064
    | .fwData _ d => 4 + min 4064 d.length
    | .removeRequest _ => 4
  (8 + 4 + body + 16 + 42) / 43

/-- The cells of queued messages. -/
def cellsOf (l : List OutCell) : Nat := (l.map (·.cells)).foldl (· + ·) 0

/-- Originates a MGMT message on a port under GUARD_MGMT_RATE: excess cells held in a 64-cell queue, then discarded
(R382). -/
def sendMgmt (s : State) (p : Part) (i : Nat) (c : OutCell) : State :=
  let t := (s.port p i).tx
  if t.mgmtCount + c.cells ≤ mgmtGuard (s.base p) then
    sendP3 (s.modPort p i fun q => { q with tx := { q.tx with mgmtCount := q.tx.mgmtCount + c.cells } }) p i c
  else if cellsOf t.mgmtHeld + c.cells ≤ 64 then
    (s.modPort p i fun q => { q with tx := { q.tx with mgmtHeld := q.tx.mgmtHeld ++ [c] } }).count p .mgmtRateHeld 0 {} c.cells
  else s.count p .mgmtRateDrop 0 {} c.cells

/-- The ports on which a part sends a message of its own to a destination: a die on both planes; a distributor down
to the port that leads to it, and otherwise upward (R59, R234, R403). `id` bit 0 selects the rack uplink. -/
def routeOwn (s : State) (p : Part) (dst : Node) (id : Nat) : List Nat :=
  match p with
  | .tsu => [0, 1]
  | .dist => match s.role with
    | .rack =>
      if nodeKind dst = 0 ∧ nodeRow dst = s.ownRow ∧ nodeRack dst = s.ownRack ∧ dst ≠ allRoots then [nodeSlot dst]
      else if nodeKind dst = 1 ∧ nodeRow dst = s.ownRow ∧ nodeRack dst = s.ownRack then [98]
      else
        let want := 96 + id % 2
        let other := 96 + (id + 1) % 2
        if (s.port .dist want).live || !(s.port .dist other).live then [want] else [other]
    | .row =>
      if nodeKind dst ≤ 1 ∧ nodeRow dst = s.ownRow ∧ dst ≠ allRoots then
        let want := 2 * nodeRack dst + id % 2
        let other := 2 * nodeRack dst + (id + 1) % 2
        if (s.port .dist want).live || !(s.port .dist other).live then [want] else [other]
      else if nodeKind dst = 2 ∧ nodeRow dst = s.ownRow then [99]
      else [96, 97, 98]
    | .root =>
      if dst = allRoots ∨ nodeKind dst = 3 then
        (if nodeRoot dst = (s.ownRoot + 1) % 3 ∧ dst ≠ allRoots then [96]
         else if nodeRoot dst = (s.ownRoot + 2) % 3 ∧ dst ≠ allRoots then [98] else [96, 98])
      else if nodeKind dst = 0 then [2 * nodeRow dst, 2 * nodeRow dst + 1]
      else [2 * nodeRow dst + bit (nodePlaneB dst)]
    | .none_ => []

/-- Sends a management message with the next MSG_ID and NONCE of the sending key slot (R403 to R407). -/
def mgmt (s : State) (p : Part) (dst : Node) (b : MgmtBody) : State :=
  let h := (s.base p).hs
  let m := Body.mgmt dst h.msgId (s.node p) h.sending (BitVec.ofNat 64 (tget 0 h.nonce h.sending)) b
  let c := { cellNow s p 0 m with cells := mgmtCells b }
  let s := s.modBase p fun q => { q with hs := { q.hs with
    msgId := h.msgId + 1, nonce := tmod 0 h.nonce h.sending (· + 1) } }
  (routeOwn s p dst h.msgId.toNat).foldl (fun s i => sendMgmt s p i c) s

/-! ### Events against a part (R333, R339, R340) -/

/-- The causes of R333, in table order, as R339 codes them. -/
def causeSlot : Nat := 0x01
def causeWm : Nat := 0x02
def causeOwnRes : Nat := 0x03
def causeOffset : Nat := 0x04
def causePlanes : Nat := 0x05
def causeShadow : Nat := 0x06
def causeInterp : Nat := 0x07
def causeEcc : Nat := 0x08
def causeRegion : Nat := 0x09
def causeCal : Nat := 0x0A
def causeCell : Nat := 0x0B
def causeResidue : Nat := 0x0C
def causeDiffer : Nat := 0x0D
def causeOutvoted : Nat := 0x0E
def causeLeader : Nat := 0x0F
def causeDigest : Nat := 0x10
def causeFence : Nat := 0x11
def causeWatchdog : Nat := 0x12
def causeNewer : Nat := 0x13

/-- The context of a report beyond its cause (R339). -/
structure Ctx where
  region : Nat := 255
  freq : Nat := 255
  opref : W32 := 0
  port : Option Nat := none
  stretch : Nat := 0
  detail : W32 := 0

/-- The 36 body bytes of a REPORT (R339). -/
def reportBytes (r : Report) : List Byte :=
  beBytes 3 r.accused.toNat ++ beBytes 1 (bit r.hard * 128 + bit r.split * 64) ++ beBytes 1 r.cause
    ++ beBytes 1 (twos 8 r.tj) ++ beBytes 1 r.region ++ beBytes 1 r.freq ++ beBytes 4 r.opref.toNat
    ++ beBytes 1 r.p2Slots ++ beBytes 1 (sat 255 r.p1Depth) ++ beBytes 2 r.stretch ++ beBytes 4 r.detail.toNat
    ++ beBytes 16 0

/-- The ports on which a part reports an event against `accused` (R340). -/
def reportPorts (s : State) (p : Part) (accused : Node) : List Nat :=
  match p with
  | .tsu =>
    if nodeKind accused = 1 then (if nodePlaneB accused then [0] else [1]) else [0, 1]
  | .dist => match s.role with
    | .root => [96, 97, 98, 99]
    | _ => (uplinks s .dist).filter fun i => (s.port .dist i).live

/-- Whether this part serves as a root in the membership protocol: a root in service, or an elected member (R345, R353,
R513). -/
def servesRoot (s : State) : Bool := (s.role == .root && s.dist.sv.state == .inService) || s.dist.mem.elected

/-- QUAR_WINDOW in tu (R341, R513). -/
def quarWindow (s : State) : Nat := clampN 1 3600 (s.cfg .dist 0x190 0x3C) * 64000000000

/-- One event in a part's tally, the newest first; events older than QUAR_WINDOW weigh nothing (R339, R341). -/
def tallyEvent (s : State) (src : Node) (at_ : St) (hard : Bool) (r : Report) : State :=
  let now := s.now .dist
  { s with dist.mem.nodes := tmod {} s.dist.mem.nodes r.accused.toNat fun n => { n with
      events := (at_, hard, r.split, src, r.cause) :: n.events.filter fun e => decide (elapsed now e.1 ≤ quarWindow s)
      reports := ((at_, src, r) :: n.reports).take 16, last := at_, fresh := true } }

/-- Enters a report in a root's tally: copies of one report merge by (SRC, EVENT_ST, CAUSE) (R339, R340). The hard events
of a part that has accused three others count as suspect events, with one against itself (R343). -/
def tallyPut (s : State) (src : Node) (at_ : St) (r : Report) : State :=
  let n := tget {} s.dist.mem.nodes r.accused.toNat
  if n.events.any (fun e => e.1 == at_ && e.2.2.2.1 == src && e.2.2.2.2 == r.cause) then s
  else if !r.hard || r.accused == src then tallyEvent s src at_ r.hard r
  else
    let now := s.now .dist
    let old := (tget {} s.dist.mem.nodes src.toNat).hardOn.filter fun e => decide (elapsed now e.1 ≤ quarWindow s)
    let wild := decide (3 ≤ ((old.map Prod.snd).eraseDups).length)
    let s := { s with dist.mem.nodes := tmod {} s.dist.mem.nodes src.toNat fun n => { n with
      hardOn := (at_, r.accused) :: old } }
    let s := tallyEvent s src at_ (r.hard && !wild) r
    if wild then tallyEvent s src at_ false { r with accused := src, hard := false, split := false } else s

/-- Raises an event: a REPORT toward the roots on a path that avoids the accused part (R340), a flight-recorder
entry (R339), the alert HARD_SELF for a hard event against the part itself (R491, R512), and, at a root, its own
tally. -/
def raise (s : State) (p : Part) (accused : Node) (hard split : Bool) (cause : Nat) (x : Ctx) : State :=
  let q := (x.port).map (s.port p)
  let r : Report := {
    accused, hard, split, cause, tj := (s.base p).tj, region := x.region, freq := x.freq, opref := x.opref,
    p2Slots := (q.map (·.tx.p2Last)).getD 0, p1Depth := sat 255 ((q.map (·.tx.p1.length)).getD 0),
    stretch := x.stretch, detail := x.detail }
  let v : Vote := { src := s.node p, dst := allRoots, me := (s.base p).ep.me, eventSt := s.now p, body := .report r }
  let s := s.fr p 1 (reportBytes r) hard
  let s := sendVotes s p (reportPorts s p accused) v
  let s := if hard && accused == s.node p then s.alert p (match p with | .tsu => 6 | .dist => 8) else s
  if p == .dist && servesRoot s then tallyPut s (s.node .dist) (s.now .dist) r else s

def suspect (s : State) (p : Part) (accused : Node) (cause : Nat) (x : Ctx) : State :=
  raise s p accused false false cause x

def hardEvent (s : State) (p : Part) (accused : Node) (cause : Nat) (x : Ctx) : State :=
  raise s p accused true false cause x

/-- The neighbour on a port, as training received it (R63). -/
def neighbour (s : State) (p : Part) (i : Nat) : Node := (s.port p i).link.rxNode

/-- A suspect event against the neighbour on a port. -/
def suspectPort (s : State) (p : Part) (i : Nat) (cause : Nat) (detail : W32) : State :=
  suspect s p (neighbour s p i) cause { opref := BitVec.ofNat 32 i, port := some i, detail }

/-- The ST at a tick edge at or after now: the next tick edge. -/
def nextTick (s : State) (p : Part) : Tick := tickOf (s.now p) + 1

/-- The lead of an announcement: 8 + DEPTH ticks (R132), DEPTH being the largest received on the row ports. -/
def depthOf (s : State) : Nat := (s.dist.b.ports.map fun e => e.2.off.rxDepth).foldl max 0

def leadTick (s : State) : Tick := tickOf (s.now .dist) + BitVec.ofNat 50 (8 + depthOf s)

/-! ### Pending changes (R41, R132) -/

/-- The changes pending at a tick. -/
def pendAt (l : List Pend) (t : Tick) : Pend := (l.find? (·.tick == t)).getD { tick := t }

/-- Puts the changes of one tick in their place, earliest first; a tick without changes leaves the list. -/
def pendPut (l : List Pend) (x : Pend) : List Pend :=
  l.filter (fun y => decide (tickDiff y.tick x.tick < 0))
    ++ (if x.ce.isNone && x.me.isNone && x.lead.isNone then [] else [x])
    ++ l.filter (fun y => decide (0 < tickDiff y.tick x.tick))

/-- Adds a leader change at a tick. -/
def pendLeadAt (l : List Pend) (t : Tick) (r : BitVec 2) : List Pend := pendPut l { pendAt l t with lead := some r }

/-- Adds an ME change at a tick. -/
def pendMeAt (l : List Pend) (t : Tick) (me : Epoch) : List Pend := pendPut l { pendAt l t with me := some me }

/-- Adds a CE change at a tick. -/
def pendCeAt (l : List Pend) (t : Tick) (ce : Epoch) : List Pend := pendPut l { pendAt l t with ce := some ce }

/-- CE counts up by one at each pending change, in the order of their ticks (R39). -/
def pendNumber : Epoch → List Pend → List Pend
  | _, [] => []
  | ce, x :: l => if x.ce.isSome then { x with ce := some (ce + 1) } :: pendNumber (ce + 1) l else x :: pendNumber ce l

/-- The change that a marker of tick `n` announces. A marker has room for one tick's changes, given by the low 16 bits of
the tick, so the nearest pending ones take turns (R129, R132). -/
def pendShown (l : List Pend) (n : Tick) : Option Pend :=
  let near := (l.filter fun x => decide (0 < tickDiff x.tick n ∧ tickDiff x.tick n < 32768)).take 4
  near[n.toNat % max 1 near.length]?

end Sys2Proof.Machine
end

