-- ==== Sys2Proof/Machine/Clock.lean ====
section
/-! DEFINITION. The 1 GHz time clock: what one nanosecond does at each part on an empty queue (R16, R139, R334, R429).
The model advances time there and nowhere else (DESIGN CHOICE, log 2). -/

namespace Sys2Proof.Machine

/-- The modulus of the shadow count, 2^61 - 1, in 2^-32 tu (R129, R334). -/
def shadowMod : Nat := (2 ^ 61 - 1) * 2 ^ 32

/-- What a count advances by in one time-clock nanosecond, in 2^-32 tu: 64 tu plus the trim (R139). -/
def tickInc (trim : Int) : Int := 64 * 2 ^ 32 + trim

/-- The shadow count advances by the same amount with its own adder. Where the ST wraps at 2^64 tu, the residue of
the new ST lies 2^64 mod (2^61 - 1) = 8 tu lower (R16, R334). -/
def shadowAdv (acc : BitVec 96) (sh : Nat) (inc : Int) : Nat :=
  let carry := decide ((2 ^ 96 : Int) ≤ (acc.toNat : Int) + inc)
  (((sh : Int) + inc - (if carry then 8 * 2 ^ 32 else 0)) % (shadowMod : Int)).toNat

/-- The mean trim of the last 16 windows, at which H advances and a part in holdover holds its trim (R151, R153);
the present trim before the first window ends. -/
def meanTrim (t : TimeState) : Int :=
  if t.trims.isEmpty then t.trim else t.trims.foldl (· + ·) 0 / (t.trims.length : Int)

/-- One nanosecond of a part's time. -/
def TimeState.advance (t : TimeState) : TimeState :=
  if t.held then
    { t with
      acc := t.acc + BitVec.ofInt 96 (tickInc t.trim)
      shadow := shadowAdv t.acc t.shadow (tickInc t.trim)
      hCount := t.hCount + BitVec.ofInt 96 (tickInc (meanTrim t)) }
  else t

/-- One edge of a part's time clock: its time, and PERF_CYCLES without the trim (R429). -/
def Base.clock (b : Base) : Base :=
  { b with t := b.t.advance, perf := { b.perf with cycles := b.perf.cycles + 1 } }

/-- An empty queue: one nanosecond passes at both parts, each unless it is held in reset. -/
def idle (s : State) : State :=
  { s with
    tsu := if s.tsu.die.inReset then s.tsu else { s.tsu with b := s.tsu.b.clock }
    dist := if s.dist.sv.inReset then s.dist else { s.dist with b := s.dist.b.clock } }

end Sys2Proof.Machine
end

