-- ==== Sys2Proof/Machine/CollectArith.lean ====
section
/-! DEFINITION. The arithmetic of collects: element widths, FP32 rounding, residues, the combine rules, and how a record
is laid out (R254, R259 to R261, R264, R268 to R273). An element is the natural number that its wire bytes spell, most
significant first. -/

namespace Sys2Proof.Machine

/-! ### Floating point (R269, R270, R273) -/

/-- A floating-point format: its width and its fraction bits. -/
structure Fmt where
  w : Nat
  f : Nat

def fp32 : Fmt := { w := 32, f := 23 }

/-- The format of a MIN or MAX TYPE (R254). -/
def fmtOf (ty : Nat) : Fmt :=
  if ty = 2 then fp32 else if ty = 3 then { w := 16, f := 7 } else { w := 16, f := 10 }

def fInf (m : Fmt) : Nat := 2 ^ (m.w - 1) - 2 ^ m.f
def fNan (m : Fmt) : Nat := fInf m + 2 ^ (m.f - 1)
def fNeg (m : Fmt) (b : Nat) : Bool := tbit b (m.w - 1)
def fMag (m : Fmt) (b : Nat) : Nat := b % 2 ^ (m.w - 1)
def isNan (m : Fmt) (b : Nat) : Bool := decide (fInf m < fMag m b)
def isInf (m : Fmt) (b : Nat) : Bool := decide (fMag m b = fInf m)
def canon (m : Fmt) (b : Nat) : Nat := if isNan m b then fNan m else b

/-- The comparison key of R270. -/
def fkey (m : Fmt) (b : Nat) : Nat := if fNeg m b then 2 ^ m.w - 1 - b % 2 ^ m.w else b + 2 ^ (m.w - 1)

/-- The magnitude of a finite FP32 value in units of 2^-149 (R269). -/
def f32Units (b : Nat) : Nat :=
  let e := bits b 30 23
  if e = 0 then bits b 22 0 else (2 ^ 23 + bits b 22 0) * 2 ^ (e - 1)

/-- The value X of a finite FP32 value: x times 2^149 (R269). -/
def f32Int (b : Nat) : Int := if tbit b 31 then -(f32Units b : Int) else f32Units b

/-- The FP32 value nearest to (-1)^neg times a times 2^-u, ties to even; at or beyond 2^128 after rounding, infinity
(R269, R273). -/
def roundF32 (neg : Bool) (a u : Nat) : Nat :=
  let k := (a.log2 + 126) - u
  let m :=
    if 149 ≤ k + u then
      let sh := k + u - 149
      let m := a >>> sh
      let r := a - m * 2 ^ sh
      if 0 < sh ∧ (2 ^ (sh - 1) < r ∨ (r = 2 ^ (sh - 1) ∧ m % 2 = 1)) then m + 1 else m
    else a <<< (149 - k - u)
  let raw := if a = 0 then 0 else k * 2 ^ 23 + m
  (if 0x7F800000 ≤ raw then 0x7F800000 else raw) + bit neg * 2 ^ 31

/-- FP32 addition, nearest even. -/
def fadd (a b : Nat) : Nat :=
  if isNan fp32 a || isNan fp32 b then fNan fp32
  else if isInf fp32 a then (if isInf fp32 b && fNeg fp32 a != fNeg fp32 b then fNan fp32 else a)
  else if isInf fp32 b then b
  else
    let x := f32Int a + f32Int b
    if x = 0 then (if fNeg fp32 a && fNeg fp32 b then 2 ^ 31 else 0)
    else roundF32 (decide (x < 0)) x.natAbs 149

def fneg (a : Nat) : Nat := a ^^^ 2 ^ 31

/-- FP32 multiplication, nearest even. -/
def fmul (a b : Nat) : Nat :=
  let neg := fNeg fp32 a != fNeg fp32 b
  if isNan fp32 a || isNan fp32 b then fNan fp32
  else if isInf fp32 a || isInf fp32 b then
    (if fMag fp32 a = 0 ∨ fMag fp32 b = 0 then fNan fp32 else 0x7F800000 + bit neg * 2 ^ 31)
  else roundF32 neg (f32Units a * f32Units b) 298

/-- Fraction bits of the exponential's fixed point. -/
def expBits : Nat := 384

/-- The terms of the series of e^-x, in turn added and subtracted; x and the terms have `expBits` fraction bits. -/
def expTerms : Nat → Nat → Nat → Int → Nat → Int
  | 0, _, _, acc, _ => acc
  | fuel + 1, n, term, acc, x =>
    expTerms fuel (n + 1) (term * x / (2 ^ expBits * n)) (if n % 2 = 1 then acc + term else acc - term) x

def sqTimes : Nat → Nat → Nat
  | 0, y => y
  | n + 1, y => sqTimes n (y * y / 2 ^ expBits)

/-- E(d) for an FP32 d at or below 0: e^d rounded to FP32 nearest even (R273). The series of e^(d/256) is squared
eight times, with an error far below the rounding interval. -/
def fexp (d : Nat) : Nat :=
  let u := f32Units (fMag fp32 d)
  if isNan fp32 d then fNan fp32
  else if u = 0 then 0x3F800000
  else if isInf fp32 d || decide (104 * 2 ^ 149 < u) then 0
  else
    let x := u * 2 ^ (expBits - 149 - 8)
    roundF32 false (sqTimes 8 (expTerms 90 1 (2 ^ expBits) 0 x).toNat) expBits

/-! ### Residues (R271) -/

/-- p = 2^61 - 1. -/
def resMod : Nat := 2 ^ 61 - 1

def residueOf (v : Int) : Nat := (v % (resMod : Int)).toNat

/-- Whether an operation carries residues. -/
def hasResidue (op : Nat) : Bool := op == 1 || op == 11 || op == 12

/-- The wide value of an element of a residue operation. -/
def wideValue (op e : Nat) : Int :=
  if op = 1 then signedOf 128 (e >>> 64) else if op = 11 then ((e >>> 64) % 2 ^ 64 : Nat) else signedOf 320 (e >>> 64)

/-- The residue difference of an element; 0 where it verifies (R276, R332). -/
def resDiff (op e : Nat) : Nat :=
  if hasResidue op then residueOf ((e % 2 ^ 61 : Nat) - wideValue op e) else 0

/-! ### Shapes (R254, R261) -/

/-- What a record's head says of its elements. -/
structure Shape where
  op : Nat
  ty : Nat
  k : Nat
  elems : Nat
deriving DecidableEq, Repr

/-- Bytes of a wire element (R261). -/
def wireWidth (h : Shape) : Nat :=
  if h.op = 1 then 24 else if h.op = 11 then 16 else if h.op = 12 then 48
  else if h.op = 2 ∨ h.op = 3 then (if h.ty ≤ 1 then 8 else if h.ty = 2 then 4 else 2)
  else if h.op = 9 then 8 * h.k else 8

/-- Bytes of a contribution element in the die's buffer (R254). -/
def contribWidth (h : Shape) : Nat :=
  if h.op = 1 ∨ h.op = 11 then 8 else if h.op = 12 then 4 else wireWidth h

/-- Bytes that a result takes in RESULT_BUF (R254, R278). -/
def resultLen (h : Shape) (wide : Bool) : Nat :=
  if h.op = 1 then h.elems * (if wide then 16 else 8)
  else if h.op = 11 then h.elems * 8
  else if h.op = 12 then h.elems * (if wide then 52 else 4)
  else h.elems * wireWidth h

/-- Bytes of a record: head, elements, the rounded section of a SUM_FP32_EXACT result, tail (R260). -/
def recordLen (h : Shape) (result : Bool) : Nat :=
  40 + h.elems * wireWidth h + (if result ∧ h.op = 12 then 4 * h.elems else 0)

/-- Cells of a record (R261). -/
def recordCells (h : Shape) (result : Bool) : Nat := (recordLen h result + 49) / 50

/-- ELEMS limit of an operation (R254). -/
def elemsLimit (op k : Nat) : Nat := if op = 12 then 64 else if op = 9 then 4096 / max 1 k else 4096

/-- Whether a TYPE is listed for an operation (R254). -/
def typeListed (op ty : Nat) : Bool :=
  if op = 1 then decide (ty ≤ 1) else if op = 2 ∨ op = 3 then decide (ty ≤ 4) else decide (ty = 0)

/-! ### Combining (R268 to R273) -/

/-- Whether pair `a` comes before pair `b` (R272); `down` for ARGMIN. -/
def beats (down : Bool) (a b : Nat) : Bool :=
  let av := a >>> 32
  let bv := b >>> 32
  if isNan fp32 av != isNan fp32 bv then isNan fp32 bv
  else if !isNan fp32 av && fkey fp32 av != fkey fp32 bv then
    (if down then decide (fkey fp32 av < fkey fp32 bv) else decide (fkey fp32 bv < fkey fp32 av))
  else decide (a % 2 ^ 32 < b % 2 ^ 32)

/-- A pair with a NaN value written canonically (R258, R272). -/
def canonPair (a : Nat) : Nat := canon fp32 (a >>> 32) * 2 ^ 32 + a % 2 ^ 32

def pairNan (a : Nat) : Bool := isNan fp32 (a >>> 32)

/-- The identity pair of R264, which sets no flag of its own. -/
def idPair : Nat := 0x7FC00000 * 2 ^ 32 + 0xFFFFFFFF

/-- Whether a pair met in a combine sets NAN_SEEN (R264, R272). -/
def pairSeen (a : Nat) : Bool := pairNan a && a != idPair

/-- The pairs of a TOPK element, in order. -/
def pairsOf (k e : Nat) : List Nat := (List.range k).map fun i => (e >>> (64 * (k - 1 - i))) % 2 ^ 64
def pairsNat (l : List Nat) : Nat := l.foldl (fun a x => a * 2 ^ 64 + x) 0

/-- The first `n` of the merge of two sorted lists (R272). -/
def mergeTop : Nat → List Nat → List Nat → List Nat
  | 0, _, _ => []
  | n + 1, [], b => b.take (n + 1)
  | n + 1, a, [] => a.take (n + 1)
  | n + 1, a :: as, b :: bs =>
    if beats false a b then a :: mergeTop n as (b :: bs) else b :: mergeTop n (a :: as) bs

def insertPair (x : Nat) : List Nat → List Nat
  | [] => [x]
  | y :: t => if beats false x y then x :: y :: t else y :: insertPair x t

def sortPairs (l : List Nat) : List Nat := l.foldr insertPair []

/-- The LSE combination (R273). -/
def lseCombine (a b : Nat) : Nat × Bool :=
  let am := a >>> 32
  let as_ := a % 2 ^ 32
  let bm := b >>> 32
  let bs := b % 2 ^ 32
  let nan := fNan fp32 * 2 ^ 32 + fNan fp32
  if isNan fp32 am || isNan fp32 as_ || isNan fp32 bm || isNan fp32 bs || am == 0x7F800000 || bm == 0x7F800000 then
    (nan, true)
  else if am = 0xFF800000 then (b, false)
  else if bm = 0xFF800000 then (a, false)
  else
    let m := if fkey fp32 bm ≤ fkey fp32 am then am else bm
    let x := fmul as_ (fexp (fadd am (fneg m)))
    let y := fmul bs (fexp (fadd bm (fneg m)))
    (m * 2 ^ 32 + fadd x y, false)

/-- One combine step and whether it met a NaN (R268 to R273). -/
def combine (h : Shape) (a b : Nat) : Nat × Bool :=
  let res := (a % 2 ^ 61 + b % 2 ^ 61) % resMod
  match h.op with
  | 1 => (((a >>> 64) + (b >>> 64)) % 2 ^ 128 * 2 ^ 64 + res, false)
  | 11 => (((a >>> 64) + (b >>> 64)) % 2 ^ 64 * 2 ^ 64 + res, false)
  | 12 =>
    (((a >>> 64) + (b >>> 64)) % 2 ^ 320 * 2 ^ 64 + (bits a 63 61 ||| bits b 63 61) * 2 ^ 61 + res, false)
  | 4 => (a &&& b, false)
  | 5 => (a ||| b, false)
  | 6 => (a ^^^ b, false)
  | 7 => (canonPair (if beats false a b then a else b), pairSeen a || pairSeen b)
  | 8 => (canonPair (if beats true a b then a else b), pairSeen a || pairSeen b)
  | 9 =>
    let as_ := pairsOf h.k a
    let bs := pairsOf h.k b
    (pairsNat ((mergeTop h.k as_ bs).map canonPair), as_.any pairSeen || bs.any pairSeen)
  | 10 => lseCombine a b
  | _ =>
    if h.ty = 0 then
      (if h.op = 2 then (if signedOf 64 a ≤ signedOf 64 b then a else b)
       else (if signedOf 64 b ≤ signedOf 64 a then a else b), false)
    else if h.ty = 1 then (if h.op = 2 then min a b else max a b, false)
    else
      let m := fmtOf h.ty
      if isNan m a || isNan m b then (fNan m, true)
      else (if h.op = 2 then (if fkey m a ≤ fkey m b then a else b) else (if fkey m b ≤ fkey m a then a else b), false)

/-- The identity element of an operation (R264). -/
def identity (h : Shape) : Nat :=
  match h.op with
  | 2 => if h.ty = 0 then 2 ^ 63 - 1 else if h.ty = 1 then 2 ^ 64 - 1 else fInf (fmtOf h.ty)
  | 3 =>
    if h.ty = 0 then 2 ^ 63 else if h.ty = 1 then 0 else fInf (fmtOf h.ty) + 2 ^ ((fmtOf h.ty).w - 1)
  | 4 => 2 ^ 64 - 1
  | 7 | 8 => idPair
  | 9 => pairsNat (List.replicate h.k idPair)
  | 10 => 0xFF800000 * 2 ^ 32
  | _ => 0

/-- The fold of R265: from the lowest port's element, each further one as the second operand. -/
def foldElems (h : Shape) : List Nat → Nat × Bool
  | [] => (identity h, false)
  | e :: es => es.foldl (fun acc x =>
      let r := combine h acc.1 x
      (r.1, acc.2 || r.2)) (e, false)

/-! ### Contributions and results at the die (R254, R258, R269, R275, R278) -/

/-- A contribution element as its wire element, and whether it holds a NaN (R258). `v` is the little-endian number in
the buffer; a TOPK element is given as its pairs. -/
def formElem (h : Shape) (v : Nat) (pairs : List Nat) : Nat × Bool :=
  match h.op with
  | 1 =>
    let x : Int := if h.ty = 0 then signedOf 64 v else (v : Int)
    (twos 128 x * 2 ^ 64 + residueOf x, false)
  | 11 => let c := bit (decide (v ≠ 0)); (c * 2 ^ 64 + c, false)
  | 12 =>
    if isNan fp32 v then (2 ^ 63, true)
    else if isInf fp32 v then (if fNeg fp32 v then 2 ^ 61 else 2 ^ 62, false)
    else (twos 320 (f32Int v) * 2 ^ 64 + residueOf (f32Int v), false)
  | 7 | 8 => (canonPair v, pairNan v)
  | 9 => (pairsNat (sortPairs (pairs.map canonPair)), pairs.any pairNan)
  | 10 =>
    (canon fp32 (v >>> 32) * 2 ^ 32 + canon fp32 (v % 2 ^ 32), isNan fp32 (v >>> 32) || isNan fp32 (v % 2 ^ 32))
  | 2 | 3 => if h.ty ≤ 1 then (v, false) else (canon (fmtOf h.ty) v, isNan (fmtOf h.ty) v)
  | _ => (v, false)

/-- round_exact of a SUM_FP32_EXACT element (R269). -/
def roundExact (e : Nat) : Nat :=
  let x := signedOf 320 (e >>> 64)
  if tbit e 63 || (tbit e 62 && tbit e 61) then 0x7FC00000
  else if tbit e 62 then 0x7F800000
  else if tbit e 61 then 0xFF800000
  else if x = 0 then 0
  else roundF32 (decide (x < 0)) x.natAbs 149

/-- Whether a rounded element was rounded to infinity (R269). -/
def roundOvf (e : Nat) : Bool :=
  !tbit e 63 && !tbit e 62 && !tbit e 61 && isInf fp32 (roundExact e)

/-! ### Records (R260) -/

/-- The head's fields. -/
structure Head where
  shape : Shape
  group : Nat
  tag : W32
  deadline : St
  release : St
deriving DecidableEq, Repr

def headBytes (h : Head) : List Byte :=
  beBytes 1 (h.shape.op * 16 + h.shape.ty) ++ beBytes 1 h.shape.k ++ beBytes 2 h.shape.elems ++ beBytes 2 h.group
    ++ beBytes 2 0 ++ beBytes 4 h.tag.toNat ++ beBytes 4 0 ++ beBytes 8 h.deadline.toNat ++ beBytes 8 h.release.toNat

/-- Bytes [a, a + n) of a record as a number. -/
def fieldAt (bs : List Byte) (a n : Nat) : Nat := beNat ((bs.drop a).take n)

def headOf (bs : List Byte) : Head := {
  shape := { op := fieldAt bs 0 1 / 16, ty := fieldAt bs 0 1 % 16, k := fieldAt bs 1 1 % 32, elems := fieldAt bs 2 2 % 8192 }
  group := fieldAt bs 4 2 % 4096
  tag := BitVec.ofNat 32 (fieldAt bs 8 4)
  deadline := BitVec.ofNat 64 (fieldAt bs 16 8)
  release := BitVec.ofNat 64 (fieldAt bs 24 8) }

/-- The tail's fields. -/
structure Tail where
  status : Nat
  flags : Nat
  contrib : Nat
deriving DecidableEq, Repr

def tailBytes (t : Tail) : List Byte :=
  beBytes 1 t.status ++ beBytes 1 t.flags ++ beBytes 3 (t.contrib % 2 ^ 17) ++ beBytes 3 0

/-- The tail in the last 8 bytes of a record of `n` bytes. -/
def tailOf (bs : List Byte) (n : Nat) : Tail :=
  { status := fieldAt bs (n - 8) 1, flags := fieldAt bs (n - 7) 1, contrib := fieldAt bs (n - 6) 3 % 2 ^ 17 }

/-- The tail's flag bits (R260). -/
def flPartial : Nat := 7
def flMismatch : Nat := 6
def flNan : Nat := 5
def flOvf : Nat := 4
def flTorn : Nat := 3
def flResFail : Nat := 2

/-- Element `j` of a record. -/
def elemAt (h : Shape) (bs : List Byte) (j : Nat) : Nat := fieldAt bs (32 + j * wireWidth h) (wireWidth h)

def elemsOf (h : Shape) (bs : List Byte) : List Nat := (List.range h.elems).map (elemAt h bs)

/-- The rounded section of a result, for the elements given (R269). -/
def roundedBytes (es : List Nat) : List Byte := es.flatMap fun e => beBytes 4 (roundExact e)

/-- A short BUSY or CANCELLED record: one cell that holds a head and a tail without elements (R262). A whole record of
one cell differs from it in the tail's CONTRIB or flags. -/
def shortRecord (last : Bool) (bs : List Byte) : Bool :=
  let t := fieldAt bs 32 1
  last && (t == 0x02 || t == 0x13) && (bs.drop 40).all (· == 0)

/-- Whether the last cell brings a tail with a status above 0x13 (R11). -/
def tailBad (result last : Bool) (bs : List Byte) : Bool :=
  let n := recordLen (headOf bs).shape result
  last && decide (0x13 < (if n ≤ bs.length then (tailOf bs n).status else fieldAt bs 32 1))

/-- The result in the form of RESULT_BUF, each number little-endian (R7, R254, R278). -/
def resultBytes (h : Shape) (wide : Bool) (bs : List Byte) : List Byte :=
  let es := elemsOf h bs
  if h.op = 1 then es.flatMap fun e => leBytes (if wide then 16 else 8) (e >>> 64)
  else if h.op = 11 then es.flatMap fun e => leBytes 8 (e >>> 64)
  else if h.op = 12 then
    (if wide then es.flatMap (leBytes 48) else []) ++ es.flatMap fun e => leBytes 4 (roundExact e)
  else if h.op = 9 then es.flatMap fun e => (pairsOf h.k e).flatMap (leBytes 8)
  else es.flatMap (leBytes (wireWidth h))

/-- WRAP: a 128-bit sum outside the range of TYPE (R268). -/
def wraps (h : Shape) (bs : List Byte) : Bool :=
  h.op == 1 && (elemsOf h bs).any fun e =>
    let v := signedOf 128 (e >>> 64)
    if h.ty = 0 then decide (v < -(2 ^ 63) ∨ 2 ^ 63 ≤ v) else decide (v < 0 ∨ 2 ^ 64 ≤ v)

/-- Whether a result copy verifies (R276). -/
def verifies (h : Shape) (bs : List Byte) : Bool :=
  let es := elemsOf h bs
  es.all (fun e => decide (resDiff h.op e = 0))
    && (h.op != 12 || decide ((bs.drop (32 + 48 * h.elems)).take (4 * h.elems) = roundedBytes es))

end Sys2Proof.Machine
end

