-- ==== Sys2Proof/Machine/Flags.lean ====
section
/-! DEFINITION. Status and condition computations: the status words and flag fields that registers and records show
(R10, R193, R209, R224, R278, R386), and the conditions under which a die answers with a status of its own. -/

namespace Sys2Proof.Machine

/-- The code of a status (R10). -/
def Status.code (x : Status) : Nat := x.ctorIdx

/-- The status of a code, when the manual defines it (R10, R11). -/
def statusOf : Nat → Option Status
  | 0x00 => some .ok | 0x01 => some .pending | 0x02 => some .busy | 0x03 => some .full
  | 0x04 => some .deferred | 0x05 => some .refused | 0x06 => some .late | 0x07 => some .partialResult
  | 0x08 => some .unverified | 0x09 => some .epochStale | 0x0A => some .notMember | 0x0B => some .quarantined
  | 0x0C => some .rolledBack | 0x0D => some .underflow | 0x0E => some .overflow | 0x0F => some .denied
  | 0x10 => some .planeDisagree | 0x11 => some .noTime | 0x12 => some .badCommand | 0x13 => some .cancelled
  | _ => none

/-- Why the die answers every operation of its slice with a status of its own: NO_TIME (R154), QUARANTINED (R344),
NOT_MEMBER without a slice (R305), in the order of R12. -/
def dieRefuses (s : State) : Option Status :=
  if s.tsu.b.t.noTime then some .noTime
  else if s.tsu.die.quar then some .quarantined
  else if !s.tsu.die.sliceValid || s.tsu.die.state == .blank || s.tsu.die.state == .truing then some .notMember
  else none

/-- As `dieRefuses`, and NOT_MEMBER in PARTING and PARTED for the operations that R365 closes. -/
def dieRefusesNew (s : State) : Option Status :=
  match dieRefuses s with
  | some x => some x
  | none => if s.tsu.die.state == .parting || s.tsu.die.state == .parted then some .notMember else none

/-- The slice filter of the die's events (R436). -/
def dieFlt (s : State) : Flt := { slice := if s.tsu.die.sliceValid then some s.tsu.die.sliceId else none }

/-! ### The fields of an index-plate entry (R193) -/

def entOffset (e : Entry) : Nat := bits e.w0.toNat 63 24
def entAction (e : Entry) : Nat := bits e.w0.toNat 23 20
def entValid (e : Entry) : Bool := tbit e.w0.toNat 19
def entPolicy (e : Entry) : Nat := bits e.w0.toNat 18 17
def entCmpEq (e : Entry) : Bool := tbit e.w0.toNat 16
def entHoldLimit (e : Entry) : Nat := bits e.w0.toNat 15 0
def entDiv (e : Entry) : Nat := bits e.w1.toNat 63 48
def entPhase (e : Entry) : Nat := bits e.w1.toNat 47 32
def entCondCtr (e : Entry) : Nat := bits e.w1.toNat 31 20
def entTarget (e : Entry) : Nat := bits e.w1.toNat 11 0
def entArg (e : Entry) : W32 := e.w2.extractLsb' 32 32
def entThreshold (e : Entry) : W32 := e.w2.extractLsb' 0 32

/-- The pulse width of a TS_OUT entry, held to 4 to 1,000,000 ns (R199). -/
def tsOutWidth (v : Nat) : Nat := clampN 4 1000000 v

/-- A ledger entry with every field zero (R284). -/
def zeroEntry : LedgerEntry := {
  slice := 0, sgroup := 0, prio := 0, state := 0, reason := 0, gen := 0, slot := 0, tokens := 0, maxLen := 0,
  deadline := 0, interval := 0, lastClose := 0, outcome := 0, eosSeen := false, dueNone := false,
  partialToken := false, intervalMiss := false, onePlane := false, pendPause := false, pendCancel := false,
  arrival := 0, page := 0, seed := 0, owner := 0, ownerDie := 0, ownerMbx := 0 }

/-- The comparison of a condition: value >= THRESHOLD, or value = THRESHOLD, unsigned (R193, R209). -/
def condCmp (eq : Bool) (v t : W32) : Bool := if eq then v == t else decide (t.toNat ≤ v.toNat)

/-- The words of a counter fault record (R224). -/
def ctrFaultWords (f : CtrFault) : List W64 :=
  [BitVec.ofNat 64 ((if f.overflow then 2 else 1) * 2 ^ 60 + f.srcKind * 2 ^ 58 + f.srcCore * 2 ^ 48 + f.srcId * 2 ^ 31
      + f.counter * 2 ^ 19 + f.delivery * 2 ^ 16 + f.opId % 2 ^ 16),
   BitVec.ofNat 64 (f.value.toNat * 2 ^ 32 + f.n.toNat), f.st]

/-- A launch record's words [63:0] and [127:64] (R213). -/
def launchWords (r : LaunchRec) : List W64 :=
  [BitVec.ofNat 64 (r.step.toNat * 2 ^ 32 + sat 0xFFFFFFFF r.lateness),
   BitVec.ofNat 64 (r.kind * 2 ^ 60 + r.entry * 2 ^ 47 + r.region * 2 ^ 39 + r.count * 2 ^ 31)]

/-- The 32 bytes of a completion entry, little-endian, as four words (R386). -/
def completionWords (c : Completion) : List W64 :=
  [BitVec.ofNat 64 (c.tag.toNat + c.opcode * 2 ^ 16 + Status.code c.status * 2 ^ 32
      + (bit c.unverified + bit c.part_ * 2 + bit c.late * 4 + bit c.deferred * 8 + bit c.final * 16) * 2 ^ 40),
   c.r0, c.r1, c.r2]

/-- The 128 bits of a message to a core (R229, R278), as two words, high first. FLAGS of KIND 5 and 6 stand in
VALUE. -/
def msgWords (m : Msg) : List W64 :=
  [BitVec.ofNat 64 (m.kind * 2 ^ 60 + Status.code m.status * 2 ^ 52 + bit m.unverified * 2 ^ 51 + bit m.part_ * 2 ^ 50
      + bit (m.deferred || m.late) * 2 ^ 49 + bit m.planeB * 2 ^ 48 + m.tag.toNat * 2 ^ 32 + m.id * 2 ^ 20 + m.count),
   BitVec.ofNat 64 (m.value.toNat * 2 ^ 32 + m.stLo.toNat)]

end Sys2Proof.Machine
end

