-- ==== Sys2Proof/Machine/PerfOps.lean ====
section
/-! DEFINITION. Histogram samples (R438, R439) and the precise sampler (R440), as the families feed them. -/

namespace Sys2Proof.Machine

/-- The bin of a sample of `w` whole units (R439). -/
def histBin (w : Nat) : Nat := if w = 0 then 0 else min 31 (w.log2 + 1)

/-- The fields of HIST_CONTROL (R501, R523). -/
def histSrc (h : Hist) : Nat := bits h.ctl.toNat 7 4

/-- Whether a histogram unit takes a sample of `src` with these filters. -/
def histTakes (h : Hist) (src : Nat) (f : Flt) : Bool :=
  let c := h.ctl.toNat
  tbit c 0 && decide (histSrc h = src)
    && (!tbit c 47 || f.slice == some (bits c 46 41)) && (!tbit c 40 || f.port == some (bits c 39 33))

/-- A sample of `v` tu enters a unit: its bin, HIST_SAMPLES, HIST_MAX and, when negative, bin 0 and HIST_NEG
(R439). -/
def histAdd (h : Hist) (v : Int) : Hist :=
  let b := if v < 0 then 0 else histBin (v.toNat / 2 ^ bits h.ctl.toNat 12 8)
  { h with
    bins := tmod 0 h.bins b (fun n => sat 0xFFFFFFFF (n + 1))
    samples := (h.samples + 1) % 2 ^ 48
    max := if v < 0 then h.max else Nat.max h.max v.toNat
    neg := if v < 0 then sat 0xFFFFFFFF (h.neg + 1) else h.neg }

/-- One sample per cycle leaves the 16-entry input buffer; a sample that finds it full is counted in HIST_DROP
(R439). `cyc` is PERF_CYCLES. -/
def histPut (cyc : W64) (v : Int) (h : Hist) : Hist :=
  let waiting := h.buffered - (cyc - h.clock).toNat
  if 16 ≤ waiting then { h with drop := sat 0xFFFFFFFF (h.drop + 1), buffered := waiting, clock := cyc }
  else histAdd { h with buffered := waiting + 1, clock := cyc } v

/-- A histogram sample of source `src` (R438). -/
def State.hist (s : State) (p : Part) (src : Nat) (v : Int) (f : Flt) : State :=
  s.modBase p fun b => { b with perf := { b.perf with
    hists := tmapAll {} (fun _ h => if histTakes h src f then histPut b.perf.cycles v h else h) b.perf.hists } }

/-- An event of the sampler: a fired plate entry (kind 1) or a final mailbox completion (kind 2). A record is
written at every SAMPLE_N-th count; MODE 0 stops when the buffer is full, MODE 1 overwrites the oldest (R440). -/
def State.sample (s : State) (p : Part) (r : Sample) : State :=
  let q := (s.base p).perf
  if !q.sEnable || !tbit q.sSrc (r.kind - 1) || (q.sOwner && r.kind == 2 && r.mbx == 0) then s
  else
    let n := q.sCount + 1
    if n < q.sN then s.modBase p fun b => { b with perf := { b.perf with sCount := n } }
    else if q.sBuf.length < 1024 then
      s.modBase p fun b => { b with perf := { b.perf with sCount := 0, sBuf := b.perf.sBuf ++ [r] } }
    else if q.sMode then
      s.modBase p fun b => { b with perf := { b.perf with sCount := 0, sBuf := b.perf.sBuf.drop 1 ++ [r] } }
    else (s.modBase p fun b => { b with perf := { b.perf with sCount := 0 } }).count p .sampleLost 0 {} 1

end Sys2Proof.Machine
end

