-- ==== Sys2Proof/Machine/CounterOps.lean ====
section
/-! DEFINITION. The counter operations of R221 with their fault records, watches and held conditions, and the messages
to cores of R229 and R230. -/

namespace Sys2Proof.Machine

def State.modSync (s : State) (f : Sync → Sync) : State := { s with tsu.sync := f s.tsu.sync }
def State.modPlate (s : State) (f : Plate → Plate) : State := { s with tsu.plate := f s.tsu.plate }
def State.modDie (s : State) (f : Die → Die) : State := { s with tsu.die := f s.tsu.die }

def stLo (s : State) : W32 := (s.now .tsu).extractLsb' 0 32

/-! ### Messages to cores (R229, R230, R448) -/

def coreInReset (s : State) (c : Nat) : Bool := tbit s.tsu.sync.coreReset c

/-- Room in the out-queue lets the oldest pending event in (R230). -/
def outRefill (y : Sync) : Sync :=
  match y.pend with
  | m :: rest => if y.outQ.length < 512 then { y with outQ := y.outQ ++ [m], pend := rest } else y
  | [] => y

/-- The oldest message of the out-queue for a core goes to the core while the TSU holds a credit for it, else the
messages for that core wait and each is counted once; a message for a core in reset is discarded and counted (R230,
R448). -/
def deliver1 (core : Nat) (s : State) : State :=
  match s.tsu.sync.outQ.find? (·.core == core) with
  | none => s
  | some m =>
    if coreInReset s core then
      (s.modSync fun y => outRefill { y with outQ := y.outQ.erase m }).count .tsu .msgRstDiscard 0 {} 1
    else if (tget [] s.tsu.sync.coreQ core).length < 16 then
      let s := s.modSync fun y => outRefill
        { y with outQ := y.outQ.erase m, coreQ := tmod [] y.coreQ core (· ++ [m]) }
      if m.kind = 1 then s.hist .tsu 3 ((stLo s - m.stLo).toNat : Int) (dieFlt s) else s
    else match s.tsu.sync.outQ.find? fun x => x.core == core && !x.delayed with
      | none => s
      | some x => (s.modSync fun y => { y with outQ := y.outQ.replace x { x with delayed := true } }).count
          .tsu .msgBackpressure 0 (dieFlt s) 1

/-- Everything the core's credits let through. -/
def deliver (core : Nat) (s : State) : State :=
  (List.range (s.tsu.sync.outQ.length + s.tsu.sync.pend.length + 1)).foldl (fun s _ => deliver1 core s) s

/-- Places a message in the out-queue, or keeps its event pending when the queue is full. A rearm watch whose previous
message still waits adds 1 to that message's COUNT and renews its VALUE and ST_LO (R230). -/
def msgPut (s : State) (m : Msg) : State :=
  let y := s.tsu.sync
  let same := fun (x : Msg) => x.rearm && x.id == m.id
  if m.rearm && y.outQ.any same then
    s.modSync fun y => { y with
      outQ := y.outQ.map fun x =>
        if same x then { x with count := sat (2 ^ 20 - 1) (x.count + 1), value := m.value, stLo := m.stLo } else x }
  else if y.outQ.length < 512 then deliver m.core (s.modSync fun y => { y with outQ := y.outQ ++ [m] })
  else s.modSync fun y => { y with pend := y.pend ++ [m] }

/-- The completion of a request on the counter port (R446); one for a core in reset is discarded and counted
(R447). -/
def complete (s : State) (core : Nat) (ctag : BitVec 16) (st : Status) (v : W32) : State :=
  if coreInReset s core then s.count .tsu .cplRstDiscard 0 {} 1
  else s.modSync fun y => { y with cpl := tset none y.cpl core (some { ctag, status := st, value := v }) }

/-! ### Operations on a counter -/

/-- Where an operation comes from, as its fault record names it (R224). -/
structure Src where
  kind : Nat := 0
  core : Nat := 0
  id : Nat := 0
  delivery : Nat := 0
  opId : Nat := 0

inductive CtrOp | add (n : W32) | sub (n : W32) | read | set (v lim : W32)

def ctrOf (s : State) (c : Nat) : SyncCtr := tget {} s.tsu.sync.ctrs c

/-- Whether an entry's condition holds on its counter now; one not allocated gives a condition that does not hold
(R209). -/
def entryHolds (s : State) (e : Entry) : Bool :=
  let c := ctrOf s (entCondCtr e)
  c.alloc && condCmp (entCmpEq e) c.value (entThreshold e)

/-- A change of a counter re-reads the conditions held on it (R210): each that holds is released with a HELD record to
come. -/
def holdCheck (s : State) (c : Nat) : State :=
  s.modPlate fun p => { p with
    armed := p.armed.map fun a =>
      if a.cond == .holding && entCondCtr a.e == c && entryHolds s a.e then { a with cond := .released, kind := 2 }
      else a }

/-- A watch is removed: a message of it that waits takes no further firing (R230). -/
def watchRemove (s : State) (w : Nat) : State :=
  let drop := fun (m : Msg) => if m.rearm && m.id == w then { m with rearm := false } else m
  s.modSync fun y => { y with
    watches := tset none y.watches w none, outQ := y.outQ.map drop, pend := y.pend.map drop }

/-- A watch fires (R227): its message enters the out-queue, and a one-shot watch is removed. -/
def watchFire (w : Nat) (x : Watch) (s : State) : State :=
  let s := s.modSync fun y => { y with
    watches := tset none y.watches w (if x.rearm then some { x with held := true } else none) }
  let s := s.event .tsu 0x032 (dieFlt s) 1
  msgPut s {
    rearm := x.rearm, core := x.target, kind := 1, status := .ok, tag := x.tag, id := w, count := 1,
    value := (ctrOf s x.counter).value, stLo := stLo s }

/-- One watch after an operation on its counter (R227): it fires when its condition holds and did not hold before. -/
def watchEval (c : Nat) (s : State) (w : Nat) : State :=
  match tget none s.tsu.sync.watches w with
  | none => s
  | some x =>
    if x.counter ≠ c then s
    else
      let now := condCmp x.eq (ctrOf s c).value x.threshold
      if now && !x.held then watchFire w x s
      else s.modSync fun y => { y with watches := tset none y.watches w (some { x with held := now }) }

/-- Every watch on a counter, in ascending watch number (R227). -/
def watchesEval (s : State) (c : Nat) : State := (tkeys s.tsu.sync.watches).foldl (watchEval c) s

/-- The record of a rejected ADD or SUB (R224). -/
def ctrFault (s : State) (overflow : Bool) (src : Src) (c : Nat) (n : W32) : State :=
  let y := s.tsu.sync
  let f : CtrFault := {
    overflow, srcKind := src.kind, srcCore := src.core, srcId := src.id, counter := c, delivery := src.delivery, opId := src.opId, value := (ctrOf s c).value, n, st := s.now .tsu }
  let s := s.event .tsu 0x031 (dieFlt s) 1
  if 256 ≤ y.faults.length then s.count .tsu .ctrFaultLost 0 {} 1
  else
    let s := s.modSync fun y => { y with faults := y.faults ++ [f] }
    if y.faults.isEmpty then irq s 10 else s

/-- Writes a counter, then evaluates its watches and the conditions held on it. -/
def ctrWrite (s : State) (c : Nat) (x : SyncCtr) : State :=
  let s := s.modSync fun y => { y with ctrs := tset {} y.ctrs c x }
  holdCheck (watchesEval (s.event .tsu 0x030 (dieFlt s) 1) c) c

/-- A counter operation (R221): the new state, the status and the resulting VALUE. A rejected operation changes
neither VALUE nor LIMIT; an unallocated counter answers BAD_COMMAND (R220). -/
def ctrOp (s : State) (c : Nat) (op : CtrOp) (src : Src) : State × Status × W32 :=
  let x := ctrOf s c
  if !x.alloc then (s, .badCommand, 0)
  else match op with
  | .add n =>
    if x.limit.toNat < x.value.toNat + n.toNat then (ctrFault s true src c n, .overflow, x.value)
    else (ctrWrite s c { x with value := x.value + n }, .ok, x.value + n)
  | .sub n =>
    if x.value.toNat < n.toNat then (ctrFault s false src c n, .underflow, x.value)
    else (ctrWrite s c { x with value := x.value - n }, .ok, x.value - n)
  | .read => (ctrWrite s c x, .ok, x.value)
  | .set v lim =>
    let v' := if lim.toNat < v.toNat then lim else v
    (ctrWrite (s.clamped .tsu (decide (lim.toNat < v.toNat))) c { x with value := v', limit := lim }, .ok, v')

/-- The die global index of this die (R68). -/
def ownIndex (s : State) : Nat := dieIndex (s.node .tsu)

/-- The ADD(1) of a delivery to a DONE_CTR, 0x1FFF for none (R224, R246, R275, R301). -/
def deliveryAdd (s : State) (doneCtr delivery opId : Nat) : State :=
  if doneCtr = 0x1FFF then s
  else (ctrOp s doneCtr (.add 1) { kind := 2, core := 0x3FF, id := ownIndex s, delivery, opId }).1

/-- Frees a counter (R228): every watch on it is removed and delivers one CANCELLED message. -/
def ctrFree (s : State) (c : Nat) : State :=
  let gone := s.tsu.sync.watches.filter fun e => (e.2.map (·.counter)) == some c
  let s := s.modSync fun y => { y with ctrs := tset {} y.ctrs c {} }
  gone.foldl (fun s e => match e.2 with
    | none => s
    | some x => msgPut (watchRemove s e.1)
        { core := x.target, kind := 1, status := .cancelled, tag := x.tag, id := e.1, stLo := stLo s }) s

/-- Allocates a counter (R219): VALUE 0, LIMIT 0xFFFFFFFF. Under HOLD its allocation counts as a change of it
(R209). -/
def ctrAllocate (s : State) (c : Nat) : State :=
  holdCheck (s.modSync fun y => { y with ctrs := tset {} y.ctrs c { alloc := true, value := 0, limit := 0xFFFFFFFF } }) c

/-- The lowest number below `n` that a test finds free. -/
def lowestFree (n : Nat) (free : Nat → Bool) : Option Nat := (List.range n).find? free

end Sys2Proof.Machine
end

