-- ==== Sys2Proof/Machine/RegionOps.lean ====
section
/-! DEFINITION. A region's clock edges: the copy's advance, launches and crossing releases at each edge (R169 to
R187, R206 to R208, R443), and the mark frame (R163). -/

namespace Sys2Proof.Machine

def State.region (s : State) (r : Nat) : Region := tget {} s.tsu.regions r
def State.modRegion (s : State) (r : Nat) (f : Region → Region) : State :=
  { s with tsu.regions := tmod {} s.tsu.regions r f }

/-- The reported period of a cycle stretched by `k` steps, in 2^-16 tu, rounded to nearest (R170). -/
def periodK (setting k : Nat) : Nat :=
  (128000 * 4096 * (16 + k) + (3200 + 25 * setting) / 2) / (3200 + 25 * setting)

/-- Grid position (R50). -/
def regX (r : Nat) : Nat := r % 12
def regY (r : Nat) : Nat := r / 12

/-- Whether region `r` has a crossing port: 0 north, 1 east, 2 south, 3 west (R180). -/
def crossExists (r port : Nat) : Bool :=
  match port with
  | 0 => decide (0 < regY r)
  | 1 => decide (regX r < 11)
  | 2 => decide (regY r < 11)
  | 3 => decide (0 < regX r)
  | _ => false

/-- The region on the other side of a crossing port (R50, R180). -/
def crossFrom (r port : Nat) : Nat :=
  match port with
  | 0 => r - 12 | 1 => r + 1 | 2 => r + 12 | _ => r - 1

/-- A region that may fire launches and release data (R178). -/
def Region.usable (r : Region) : Bool := r.loaded && !r.unsync

/-- The ST that a copy holds, in whole tu (R169). -/
def copySt (c : BitVec 80) : St := c.extractLsb' 16 64

/-- C minus an ST, in 2^-16 tu, signed (R17, R169). -/
def copyDiff (c : BitVec 80) (t : St) : Int := (c - (t.setWidth 80 <<< 16)).toInt

/-- The step number of a turning at an instant (R34, R35). -/
def stepAt (u : Turning) (t : St) : Step :=
  if !u.started || u.len = 0 then 0
  else if u.idleUntil.isSome || u.restart.isSome then u.step
  else u.step + BitVec.ofInt 48 (Int.fdiv (stDiff t u.start) (u.len : Int))

/-! ### Slipped steps (R187) -/

/-- Marks a slipped step: SLIPPED, the first step and the count of slipped steps, the slip interrupt and a
flight-recorder entry. -/
def slip (s : State) (r port : Nat) (lateTu : Nat) (tag : BitVec 22) (step : Step) : State :=
  let me := s.region r
  let nb := s.region (crossFrom r port)
  let s := s.modPlate fun p => { p with
    slipped := true
    slipFirst := if p.slipped then p.slipFirst else step.extractLsb' 0 32
    slipCount := if p.slipLast == some step then p.slipCount else sat 65535 (p.slipCount + 1)
    slipLast := some step }
  let body := beBytes 1 r ++ beBytes 1 port ++ beBytes 1 (crossFrom r port) ++ beBytes 1 (twos 8 s.tsu.b.tj)
    ++ beBytes 1 me.setting ++ beBytes 1 nb.setting ++ beBytes 2 (sat 65535 me.lastStretched)
    ++ beBytes 2 (sat 65535 nb.lastStretched) ++ beBytes 4 (sat 0xFFFFFFFF lateTu) ++ beBytes 6 step.toNat
    ++ beBytes 3 tag.toNat
  irq (s.fr .tsu 3 body false) 9

/-! ### One edge -/

/-- adj of the present cycle of a spread (R173). -/
def spreadAdj (r : Region) : Int :=
  if r.spreadLeft = 0 then 0
  else if 1024 - r.spreadLeft < r.spreadRem.natAbs then r.spreadQ + r.spreadRem.sign else r.spreadQ

/-- The copy's advance at an edge: P + adj (R169, R171), with the counts of stretched and deep-stretched cycles
(R170). -/
def copyEdge (r : Region) (p : W32) : Region :=
  { r with
    copy := r.copy + BitVec.ofInt 80 ((p.toNat : Int) + spreadAdj r)
    spreadLeft := r.spreadLeft - 1
    period := p
    stretched := r.stretched + bit (decide (periodK r.setting 0 < p.toNat))
    deep := r.deep + bit (decide (periodK r.setting 8 < p.toNat)) }

/-- The stretch steps that bring the launch edge onto T (R206): `g` and `p` in 2^-16 tu, s = p / 16. -/
def planStretch (g p : Int) : Nat :=
  if g ≤ 0 ∨ 3 * p < g then 0
  else if 5 * p ≤ 2 * g then (-(-(8 * (2 * g - 5 * p)) / p)).toNat
  else if 2 * p ≤ g then 0
  else if p ≤ g ∧ 2 * g ≤ 3 * p then (-(-(16 * (g - p)) / p)).toNat
  else 0

/-- Whether T falls after the last launch edge by less than 2 periods, which leaves its launch without alignment
(R207). -/
def afterLaunch (r : Region) (t : St) : Bool :=
  match r.lastLaunch with
  | some c => decide (-(copyDiff c t) < 2 * (periodK r.setting 0 : Int)) && decide (0 < -(copyDiff c t))
  | none => false

/-- The earliest T in the region's armed queue for which the launch edge is aligned, as g = T - C (R205, R207). -/
def armedGap (r : Region) : Option Int :=
  (((r.armed.filter fun a => !(a.short || a.late || afterLaunch r a.t)).map fun a => -(copyDiff r.copy a.t)).filter
    (fun g => decide (0 < g))).min?

/-- Whether an alignment is in progress (R206, R207). -/
def aligning (r : Region) : Bool :=
  match armedGap r with
  | some g => decide (g ≤ 3 * (periodK r.setting 0 : Int))
  | none => false

/-- Whether an armed entry fires at the region's present edge (R206, R208). -/
def fires (r : Region) (a : RegArm) : Bool :=
  decide (0 ≤ copyDiff r.copy a.t) && (!a.cond || a.released)

/-- ALIGN_LOST: a launch without alignment under R205 or R207. -/
def alignLost (r : Region) (a : RegArm) : Bool :=
  a.short || a.late || afterLaunch r a.t

/-- The FIRED frame (R443). -/
def firedFrame (r : Region) (a : RegArm) : W64 :=
  BitVec.ofNat 64 (2 ^ 60 + a.entry * 2 ^ 47 + bit a.late * 2 ^ 46 + bit (alignLost r a) * 2 ^ 45
    + sat 0xFFFFFFFF (copyDiff r.copy a.t / 2 ^ 16).toNat)

/-- Cores of a region that the die holds in reset (R444). -/
def resetCores (s : State) (r : Nat) : Nat := popcount 4 (s.tsu.sync.coreReset >>> (4 * r))

/-- The launches of an edge: due entries fire in fire order, each core not in reset takes its descriptor, and a FIRED
frame returns (R206, R217, R443, R444). A deferred frequency change follows (R207). -/
def launchEdge (r : Nat) (s : State) : State :=
  let g := s.region r
  if !g.usable then s
  else
    let due := g.armed.filter (fires g)
    if due.isEmpty then s
    else
      let s := s.modRegion r fun x => { x with
        armed := x.armed.filter (fun a => !fires g a)
        go := due.map fun a => (a.entry, a.arg)
        fired := due.map (firedFrame g)
        lastLaunch := some g.copy
        setting := (g.deferred).getD g.setting
        deferred := none }
      if resetCores s r = 0 then s else s.count .tsu .kernelRstDrop 0 {} (due.length * resetCores s r)

/-- The full tag of a word against a copy: the value nearest the copy over 22 bits, as C in 1/4 tu (R180). -/
def tagDiff (c : BitVec 80) (tag : BitVec 22) (lcross : Nat) : Int :=
  (c.extractLsb' 14 22 - (tag + BitVec.ofNat 22 lcross)).toInt

/-- A word at its release edge or later and usable is released; a word not usable at its release edge notes that
edge (R182, R186). -/
def wordEdge (c : BitVec 80) (lcross : Nat) (w : CrossWord) : CrossWord :=
  let w := { w with edges := w.edges + 1 }
  if w.dueAt.isNone && decide (0 ≤ tagDiff c w.tag lcross) && decide (w.edges < 2) then { w with dueAt := some c } else w

/-- A word at an edge of a region that releases nothing: its release edge, once passed, is missed (R178, R186). -/
def wordWait (c : BitVec 80) (lcross : Nat) (w : CrossWord) : CrossWord :=
  { w with
    edges := w.edges + 1
    dueAt := if w.dueAt.isNone && !w.slipped && decide (0 ≤ tagDiff c w.tag lcross) then some c else w.dueAt }

def wordReady (c : BitVec 80) (lcross : Nat) (w : CrossWord) : Bool :=
  decide (2 ≤ w.edges) && decide (0 ≤ tagDiff c w.tag lcross)

/-- Lateness in tu of a word released at copy `c` (R186): against the release edge that was due, or, for a word that
waited at a region that was not synchronised, against tag + L_cross. -/
def wordLate (c : BitVec 80) (lcross : Nat) (w : CrossWord) : Option Nat :=
  match w.dueAt with
  | some d => some ((c - d).toNat / 2 ^ 16)
  | none => if w.slipped then some ((tagDiff c w.tag lcross).toNat / 4) else none

/-- Releases the oldest words of a port while they are ready, counting each late one (R182, R186, R187). -/
def releaseGo (r port : Nat) : Nat → State → State
  | 0, s => s
  | n + 1, s =>
    let g := s.region r
    let x := tget {} g.cross port
    match x.waiting with
    | [] => s
    | w :: rest =>
      if !wordReady g.copy x.lcross w then s
      else
        let s := s.modRegion r fun q => { q with
          cross := tset {} q.cross port { x with waiting := rest, released := some w.word } }
        match wordLate g.copy x.lcross w with
        | none => releaseGo r port n s
        | some l =>
          let s := s.count .tsu .crossLate (4 * r + port) { slice := (dieFlt s).slice, region := some r } 1
          let s := { s with tsu.mark := { s.tsu.mark with lateRegion := r, latePort := port, lateTag := w.tag, lateTu := l } }
          releaseGo r port n (if w.slipped then s else slip s r port l w.tag (stepAt s.tsu.turn (copySt g.copy)))

/-- The crossing releases of an edge, in port order north, east, south, west (R182). -/
def releaseEdge (r : Nat) (s : State) : State :=
  let s := s.modRegion r fun q => { q with
    cross := tmapAll {} (fun _ x =>
      if q.usable then { x with waiting := x.waiting.map (wordEdge q.copy x.lcross) }
      else { x with waiting := x.waiting.map (wordWait q.copy x.lcross) }) q.cross }
  if (s.region r).usable then (List.range 4).foldl (fun s port => releaseGo r port 16 s) s else s

/-- One edge of a region's clock with its reported period. A stopped clock has no edges (R172). -/
def regionEdge (r : Nat) (s : State) (p : W32) : State :=
  if !(s.region r).clockOn then s
  else
    let old := s.region r
    let s := s.modRegion r (copyEdge · p)
    let s := if decide (periodK old.setting 8 < p.toNat) then
        s.modBase .tsu fun b => b.setCtr .stretchDeep r (b.ctr .stretchDeep r + 1) else s
    let s := releaseEdge r (launchEdge r s)
    s.modRegion r fun q => { q with
      planK := match armedGap q with
        | some g => planStretch g (periodK q.setting 0 : Int)
        | none => 0 }

/-- The edges since the region's last modelled edge, by their reported periods. -/
def regionEdges (r : Nat) (edges : List W32) (s : State) : State := edges.foldl (regionEdge r) s

/-! ### The mark frame (R163) -/

/-- CRC-5, polynomial x^5 + x^2 + 1, initial value 0b11111, msb first over the `n` bits of `v`. -/
def crc5Go : Nat → Nat → Nat → Nat
  | 0, _, c => c
  | n + 1, v, c =>
    let top := (c / 16 + bit (tbit v n)) % 2
    crc5Go n v (if top = 1 then (c * 2 % 32) ^^^ 5 else c * 2 % 32)

def crc5 (n v : Nat) : Nat := crc5Go n v 31

/-- A mark frame of KIND `kind` with its fields [60:5]. -/
def markFrame (kind body : Nat) : W64 :=
  let v := kind * 2 ^ 56 + body
  BitVec.ofNat 64 (2 ^ 63 + v * 2 ^ 5 + crc5 58 v)

/-- Whether a frame's START and CHECK are good and its KIND is used (R164). -/
def markGood (f : W64) : Bool :=
  let v := f.toNat
  tbit v 63 && decide (crc5 58 (bits v 62 5) = bits v 4 0) && decide (bits v 62 61 ≠ 0)

def markKind (f : W64) : Nat := bits f.toNat 62 61
def markSub (f : W64) : Nat := bits f.toNat 12 5

/-- ST_MARK of a MARK or LOAD frame: ST bits [63:16] (R163). -/
def markSt (f : W64) : St := BitVec.ofNat 64 (bits f.toNat 60 13 * 2 ^ 16)

/-- An ST rounded to the nearest multiple of 65,536 tu (R164). -/
def nearestMark (c : BitVec 80) : St :=
  BitVec.ofNat 64 ((c.toNat / 2 ^ 16 + 32768) / 65536 * 65536)

end Sys2Proof.Machine
end

