-- ==== Sys2Proof/Machine/Regions.lean ====
section
/-! DEFINITION. Regions and crossings: the commands of the chapter "Time inside the die" (R159 to R187). -/

namespace Sys2Proof.Machine

open Sys2Proof

def State.modMark (s : State) (f : MarkPath → MarkPath) : State := { s with tsu.mark := f s.tsu.mark }

/-- The report context of a region (R339). -/
def regionCtx (s : State) (r : Nat) (detail : Int) : Ctx :=
  { region := r, freq := (s.region r).setting, stretch := sat 65535 (s.region r).lastStretched,
    detail := BitVec.ofInt 32 detail }

/-- Whether the fixed tree of R162 carries the mark to region `q` through region `r`. -/
def markThrough (r q : Nat) : Bool :=
  if regX r = 0 then (decide (regY r ≤ regY q)) else decide (regY r = regY q ∧ regX r ≤ regX q)

/-! ### Calibrating the mark path (R165 to R168) -/

/-- MARK_PATH_CAL: the mean round trip RT(r) over the echoes of one region, or no echo within 64 ns (R165, R167). It
runs in BLANK, before the first MARK. -/
def execMarkPathCal (region : Nat) (rt : Option Nat) (s : State) : Host.Outcome State Fault Refusal :=
  onRegion region s fun s =>
    if s.tsu.die.state != .blank || s.tsu.mark.calDone || s.tsu.b.t.held then s
    else s.modRegion region fun r => { r with rt }

/-- L_path(r) in 1/256 tu (R165). -/
def lPath (rt tTurn : Nat) : Nat := (rt - tTurn) / 2

/-- A faulted mark path: no echo, or L_path outside 16 to 512 tu (R167). -/
def pathBad (tTurn : Nat) (r : Region) : Bool :=
  match r.rt with
  | none => true
  | some rt => decide (rt < tTurn) || decide (lPath rt tTurn < 16 * 256) || decide (512 * 256 < lPath rt tTurn)

/-- MARK_CAL_COMPLETE: the L_path values are written to the regions; a faulted path sets MARK_PATH_FAULT, marks
the regions behind it unsynchronised and raises a hard event against the die (R165 to R167). -/
def execMarkCalComplete (tTurn : Nat) (s : State) : Host.Outcome State Fault Refusal :=
  .next <|
    if s.tsu.die.state != .blank || s.tsu.mark.calDone || s.tsu.b.t.held then s
    else
      let bad := (List.range 144).filter fun r => pathBad tTurn (s.region r)
      let s := (List.range 144).foldl (fun s r => s.modRegion r fun q => { q with
        lpath := if pathBad tTurn q then q.lpath else BitVec.ofNat 18 (lPath ((q.rt).getD 0) tTurn)
        unsync := q.unsync || bad.any (fun f => markThrough f r) }) s
      let s := s.modMark fun m => { m with
        calDone := true, tTurn, tjCal := s.tsu.b.tj, pathFault := !bad.isEmpty, faultRegion := (bad.head?).getD 255 }
      match bad with
      | [] => s
      | r :: _ => (hardEvent s .tsu (s.node .tsu) causeRegion (regionCtx s r 0)).alert .tsu 5

/-- MARK_CAL_TEMP: the junction temperature against that of the calibration (R166). -/
def execMarkCalTemp (tj : Int) (s : State) : Host.Outcome State Fault Refusal :=
  .next <| { s with
    tsu.b.tj := tj
    tsu.mark.calTemp := s.tsu.mark.calDone && decide (40 < (tj - s.tsu.mark.tjCal).natAbs) }

/-- The CAL frame of a region (R163). -/
def calFrame (r : Nat) : W64 := markFrame 3 (r * 2 ^ 48)

/-- ECHO_FRAME_SEND: the CAL frame of ECHO_REGION in each mark interval, 128 ns after the mark (R168). -/
def echoFor (s : State) (echo : Nat) : Option W64 :=
  if s.tsu.b.t.held && decide (echo < 144) then some (calFrame echo) else none

/-- MARK_CONTROL_WRITE (R168, R497): ECHO_REGION, 144 to 254 clamped to 143. -/
def execMarkControlWrite (v : Nat) (s : State) : Host.Outcome State Fault Refusal :=
  let e := v % 256
  let c := decide (143 < e ∧ e < 255)
  let e := if c then 143 else e
  .next ((s.modMark fun m => { m with echo := e, echoFrame := echoFor s e }).clamped .tsu c)

/-! ### Marks -/

/-- The residual of R160 in 1/2 tu, rounded to nearest: master time past ST_MARK. -/
def markResidual (t : TimeState) : Nat := (t.acc.toNat % 2 ^ 48 + 2 ^ 30) / 2 ^ 31

/-- MARK_EMIT: at the first time-clock edge at or past a multiple of 65,536 tu, the TSU launches the mark with its
residual, or a LOAD frame after a setting of master time, and then the interval's echo frame (R160, R163, R168,
R177). -/
def execMarkEmit (s : State) : Host.Outcome State Fault Refusal :=
  .next <|
    let t := s.tsu.b.t
    let n : BitVec 48 := t.acc.extractLsb' 48 48
    if !t.held || decide (128 < markResidual t) || s.tsu.mark.lastMark == some n then s
    else
      let kind := if s.tsu.mark.loadNext then 2 else 1
      s.modMark fun m => { m with
        frame := markFrame kind (n.toNat * 2 ^ 8 + markResidual t)
        loadNext := false
        lastMark := some n
        echoFrame := echoFor s m.echo }

/-- A new mark interval begins: its counts roll over. -/
def markRoll (r : Region) : Region :=
  { r with
    lastStretched := r.stretched, lastDeep := r.deep, lastCtrOps := r.ctrOps
    stretched := 0, deep := 0, ctrOps := 0 }

/-- A missed mark (R164, R176): counted, and at the fourth in a row the region is unsynchronised with a suspect event
against the die. -/
def missMark (r : Nat) (s : State) : State :=
  let s := s.modRegion r fun q => markRoll { q with missRun := q.missRun + 1, okRun := 0 }
  let s := s.count .tsu .markMiss r { slice := (dieFlt s).slice, region := some r } 1
  if (s.region r).missRun = 4 then
    suspect (s.modRegion r fun q => { q with unsync := true }) .tsu (s.node .tsu) causeRegion (regionCtx s r 0)
  else s

/-- The arrival of an accepted mark on the grid of the copy (R173), in 2^-16 tu. -/
def markX (f : W64) (lpath : BitVec 18) (phi p : Nat) : BitVec 80 :=
  ((markSt f).setWidth 80 <<< 16) + BitVec.ofNat 80 (markSub f * 2 ^ 15 + lpath.toNat * 2 ^ 8 + phi * p / 64)

/-- err in 1/256 tu, saturating at 32,767 (R175). -/
def errShow (err : Int) : Int := clampI (-32767) 32767 (Int.tdiv err 256)

/-- Loads the copy of a region (R173, R177). -/
def loadCopy (r : Region) (x : BitVec 80) (err : Int) : Region :=
  markRoll { r with
    copy := x, loaded := true, unsync := false, spreadLeft := 0, spreadQ := 0, spreadRem := 0
    missRun := 0, okRun := 0, err := errShow err }

/-- Starts the spread of an error over 1,024 cycles (R173, R174). -/
def spread (r : Region) (v : Int) : Region :=
  { r with spreadQ := Int.tdiv v 1024, spreadRem := v - 1024 * Int.tdiv v 1024, spreadLeft := 1024 }

/-- The REGION_ERR recorder entry (R175, R424). -/
def regionErrBody (s : State) (r : Nat) (err : Int) : List Byte :=
  let q := s.region r
  beBytes 1 r ++ beBytes 1 q.setting ++ beBytes 1 (twos 8 s.tsu.b.tj) ++ beBytes 1 0 ++ beBytes 4 (twos 32 (errShow err))
    ++ beBytes 2 (sat 65535 q.lastStretched) ++ beBytes 2 (sat 65535 q.lastDeep) ++ beBytes 2 (sat 65535 q.lastCtrOps)
    ++ beBytes 1 (sat 255 q.armed.length)

/-- The region's action on err (R175); `lim` is REGION_ERR_LIMIT in tu. -/
def markErr (r : Nat) (err : Int) (lim : Nat) (s : State) : State :=
  let ok := decide (err.natAbs ≤ lim * 2 ^ 16)
  let s := s.modRegion r fun q =>
    let run := if ok then q.okRun + 1 else 0
    markRoll { spread q (clampI (-(64 * 2 ^ 16)) (64 * 2 ^ 16) err) with
      missRun := 0, okRun := run, err := errShow err, unsync := q.unsync && decide (run < 2) }
  if ok then s
  else if err.natAbs ≤ 64 * 2 ^ 16 then
    suspect (s.fr .tsu 2 (regionErrBody s r err) false) .tsu (s.node .tsu) causeRegion (regionCtx s r (errShow err))
  else
    hardEvent (s.modRegion r fun q => { q with unsync := true }) .tsu (s.node .tsu) causeRegion
      (regionCtx s r (errShow err))

/-- An accepted frame of KIND MARK or LOAD at the region's present edge (R173). -/
def markAccept (r : Nat) (f : W64) (phi : Nat) (s : State) : State :=
  let q := s.region r
  let x := markX f q.lpath (min phi 64) q.period.toNat
  let err := (x - q.copy).toInt
  if markKind f = 2 ∨ !q.loaded then s.modRegion r (loadCopy · x err)
  else markErr r err (s.cfg .tsu 0x140 16) s

/-- MARK_RECEIVE: the region's edges up to the first edge after the arrival, then the frame's tests and its use
(R163, R164, R173 to R175). A region whose clock is stopped receives nothing (R176). -/
def execMarkReceive (region : Nat) (frame : W64) (phi : Nat) (edges : List W32) (s : State) :
    Host.Outcome State Fault Refusal :=
  onRegion region s fun s =>
    if !(s.region region).clockOn then s
    else
      let s := regionEdges region edges s
      if !markGood frame then missMark region s
      else if markKind frame = 3 then s
      else if (s.region region).loaded && markSt frame != nearestMark (s.region region).copy then
        hardEvent s .tsu (s.node .tsu) causeRegion (regionCtx s region 0)
      else markAccept region frame phi s

/-- MARK_MISS: a mark interval of a running region passes without a mark (R176). -/
def execMarkMiss (region : Nat) (edges : List W32) (s : State) : Host.Outcome State Fault Refusal :=
  onRegion region s fun s =>
    if !(s.region region).clockOn then s else missMark region (regionEdges region edges s)

/-! ### The region clock -/

/-- REGION_CLOCK_STOP: the power control stops the region's clock, which clears LOADED (R172). -/
def execRegionClockStop (region : Nat) (s : State) : Host.Outcome State Fault Refusal :=
  onRegion region s fun s => s.modRegion region fun r => { r with clockOn := false, loaded := false }

/-- REGION_CLOCK_START: the clock runs again; the next accepted mark loads the copy (R172). -/
def execRegionClockStart (region : Nat) (s : State) : Host.Outcome State Fault Refusal :=
  onRegion region s fun s => s.modRegion region fun r => { r with clockOn := true }

/-- REGION_FREQ_CHANGE: the setting changes at the region's present edge (R171), or after the launch when an
alignment is in progress (R207). -/
def execRegionFreqChange (region setting : Nat) (edges : List W32) (s : State) : Host.Outcome State Fault Refusal :=
  onRegion region s fun s =>
    (regionEdges region edges s).modRegion region fun r =>
      if aligning r then { r with deferred := some (min setting 64) } else { r with setting := min setting 64 }

/-! ### Crossings -/

/-- Every region copy has been loaded since the last setting of master time (R183). -/
def copiesLoaded (s : State) : Bool :=
  !s.tsu.mark.loadNext && (List.range 144).all fun r => (s.region r).loaded

/-- L_cross in tu: ceil(D + 60 + 60 + 19.2), for D in 2^-16 tu (R183). -/
def lCross (d : Nat) : Nat := (10 * d + 1392 * 65536 + 655359) / 655360

/-- Every crossing port of the die, 528 in all (R180). -/
def crossPorts : List (Nat × Nat) :=
  (List.range 144).flatMap fun r => ((List.range 4).filter (crossExists r)).map fun p => (r, p)

/-- The largest L_cross and its first region and port. -/
def crossMaxOf (s : State) : Nat × Nat × Nat :=
  crossPorts.foldl (fun b e =>
    let l := (tget {} (s.region e.1).cross e.2).lcross
    if b.1 < l then (l, e.1, e.2) else b) (0, 0, 0)

/-- CROSS_CAL: a port's test words give D(p) and L_cross; the last port completes the calibration and writes
CROSS_STATUS (R183, R184). -/
def execCrossCal (region port d : Nat) (s : State) : Host.Outcome State Fault Refusal :=
  if region < 144 ∧ crossExists region port then
    .next <|
      if s.tsu.die.state != .truing || s.tsu.mark.crossDone || !copiesLoaded s then s
      else
        let s := s.modRegion region fun r => { r with
          cross := tmod {} r.cross port fun x => { x with lcross := 4 * lCross d, calibrated := true } }
        if crossPorts.all fun e => (tget {} (s.region e.1).cross e.2).calibrated then
          let m := crossMaxOf s
          s.modMark fun k => { k with
            crossDone := true, crossMax := m.1, crossRegion := m.2.1, crossPort := m.2.2
            crossFault := decide (4 * k.crossBudget < m.1) }
        else s
  else .fault .noSuchRegion

/-- CROSS_BUDGET_WRITE: 128 to 320 tu, ignored once GUARD_LOCK is set (R184, R493). -/
def execCrossBudgetWrite (v : Nat) (s : State) : Host.Outcome State Fault Refusal :=
  .next <|
    if s.tsu.b.hs.guardLock then s
    else
      let w := clampN 128 320 v
      (s.modMark fun k => { k with
        crossBudget := w, crossFault := k.crossFault || (k.crossDone && decide (4 * w < k.crossMax)) }).clamped .tsu
          (decide (w ≠ v))

/-- CROSSING_WORD_ARRIVE: a word waits at a port; a seventeenth is discarded and slips the step; at a region that is
unsynchronised or not LOADED it slips the step of master time at its arrival (R181, R186, R187). -/
def execCrossingWordArrive (region port : Nat) (tag : BitVec 22) (word : W64) (edges : List W32) (s : State) :
    Host.Outcome State Fault Refusal :=
  if region < 144 ∧ crossExists region port then
    .next <|
      let s := regionEdges region edges s
      let r := s.region region
      let x := tget {} r.cross port
      let ok := r.usable
      if 16 ≤ x.waiting.length then
        let s := s.count .tsu .crossDrop region { slice := (dieFlt s).slice, region := some region } 1
        slip s region port 0 tag (stepAt s.tsu.turn (if ok then copySt r.copy else s.now .tsu))
      else
        let s := s.modRegion region fun q => { q with
          cross := tset {} q.cross port { x with waiting := x.waiting ++ [{ tag, word, slipped := !ok }] } }
        if ok then s else slip s region port 0 tag (stepAt s.tsu.turn (s.now .tsu))
  else .fault .noSuchRegion

/-- CROSSING_RELEASE: the region's edges; at each the words due and usable are released in order (R182, R185,
R186). -/
def execCrossingRelease (region port : Nat) (edges : List W32) (s : State) : Host.Outcome State Fault Refusal :=
  if region < 144 ∧ crossExists region port then .next (regionEdges region edges s) else .fault .noSuchRegion

end Sys2Proof.Machine
end

