-- ==== Sys2Proof/Machine/TurningOps.lean ====
section
/-! DEFINITION. Turnings: where each step starts, changes at a named step, boundaries (R33 to R38, R323). -/

namespace Sys2Proof.Machine

/-- A run of steps of one length: its first step, that step's start, the length, and the boundary at which the run
before it ends, which lies before the start where the turning is idle between them (R38). -/
structure Seg where
  first : Step
  start : St
  len : Nat
  bound : St
deriving DecidableEq, Repr

/-- The run of the present step, or of the first or next step of a turning that has not started or is idle. -/
def Turning.base (u : Turning) : Option Seg :=
  if !u.exists_ then none
  else match u.restart with
    | some z => some { first := 0, start := z, len := u.len, bound := z }
    | none =>
      if !u.started then some { first := u.firstStep, start := u.first, len := u.len, bound := u.first }
      else match u.idleUntil with
        | some z => some { first := u.step + 1, start := z, len := u.len, bound := z }
        | none => some { first := u.step, start := u.start, len := u.len, bound := u.start }

/-- The run that a change at step `c.1` begins (R38): at the boundary B, or at a written ST0 after B, held to
2^40 tu after B. -/
def segNext (g : Seg) (c : Step × Option St × Option Nat) : Seg :=
  let b := g.start + tu ((stepDiff c.1 g.first).toNat * g.len)
  let z := match c.2.1 with
    | some z => if stLater z b then (if 2 ^ 40 < stDiff z b then b + tu (2 ^ 40) else z) else b
    | none => b
  { first := c.1, start := z, len := (c.2.2).getD g.len, bound := b }

def segGo : Seg → List (Step × Option St × Option Nat) → List Seg
  | g, [] => [g]
  | g, c :: cs => g :: segGo (segNext g c) cs

/-- The runs of a turning from the present on, as the committed changes leave it. -/
def Turning.segs (u : Turning) : List Seg :=
  match u.base with
  | none => []
  | some g => segGo g u.changes

/-- The start of step `n`, at or after the present step. -/
def Turning.stepStart (u : Turning) (n : Step) : Option St :=
  ((u.segs.filter fun g => decide (0 ≤ stepDiff n g.first)).getLast?).map fun g =>
    g.start + tu ((stepDiff n g.first).toNat * g.len)

/-- The whole number of lengths from `a` to the first point at or after `x`. -/
def lengthsTo (a x : St) (len : Nat) : Nat :=
  if stLater x a then ((stDiff x a).toNat + len - 1) / len else 0

/-- The first step of these runs that starts at or after `x`, with its start. -/
def boundaryGo (x : St) : List Seg → Option (Step × St)
  | [] => none
  | [g] => some (g.first + BitVec.ofNat 48 (lengthsTo g.start x g.len), g.start + tu (lengthsTo g.start x g.len * g.len))
  | g :: h :: t =>
    if decide ((lengthsTo g.start x g.len : Int) < stepDiff h.first g.first) then
      some (g.first + BitVec.ofNat 48 (lengthsTo g.start x g.len), g.start + tu (lengthsTo g.start x g.len * g.len))
    else boundaryGo x (h :: t)

/-- The first boundary of a turning at or after `x`. -/
def Turning.boundaryAfter (u : Turning) (x : St) : Option (Step × St) := boundaryGo x u.segs

/-- Adds a change in step order; one that names the same step is combined with it, the later write winning
(R38). -/
def insertChange (c : Step × Option St × Option Nat) :
    List (Step × Option St × Option Nat) → List (Step × Option St × Option Nat)
  | [] => [c]
  | d :: t =>
    if d.1 = c.1 then (c.1, c.2.1.or d.2.1, c.2.2.or d.2.2) :: t
    else if decide (stepDiff c.1 d.1 < 0) then c :: d :: t
    else d :: insertChange c t

/-- L clamped to 65,536 tu to 2^40 tu and to a whole multiple of 64 (R33), and whether that changed it. -/
def lenClamp (l : Nat) : Nat × Bool :=
  let v := clampN 65536 (2 ^ 40) l / 64 * 64
  (v, decide (v ≠ l))

/-- ST0 within 2^62 tu of `now` and with bits [5:0] cleared (R18, R33), and whether that changed it. -/
def originClamp (now st0 : St) : St × Bool :=
  let v := stClamp62 now st0 &&& ~~~(0x3F#64)
  (v, decide (v ≠ st0))

/-- A turning that has not started takes a committed ST0 (R37): one earlier than E + 16,384 tu is advanced by the
smallest whole number of lengths, which is also its first step. -/
def Turning.origin (u : Turning) (e st0 : St) : Turning × Bool :=
  let lim := e + tu 16384
  let k := if stLater lim st0 then lengthsTo st0 lim u.len else 0
  ({ u with
    exists_ := true, st0 := st0 + tu (k * u.len), first := st0 + tu (k * u.len), firstStep := BitVec.ofNat 48 k },
   decide (k ≠ 0))

/-- Whether the next boundary has come. -/
def Turning.due (u : Turning) (now : St) : Bool :=
  match u.base with
  | none => false
  | some g =>
    if u.restart.isSome then stGe now g.start
    else if !u.started then false
    else if u.idleUntil.isSome then stGe now g.start
    else stGe now (g.start + tu g.len)

/-- Step `n` whose preceding run ends at `b`: a change named for it applies (R38). -/
def Turning.enter (u : Turning) (n : Step) (b : St) (change : Option (Step × Option St × Option Nat)) : Turning :=
  match change with
  | none => { u with start := b, step := n, idleUntil := none }
  | some c =>
    let g := segNext { first := n, start := b, len := u.len, bound := b } c
    let u := { u with len := g.len, st0 := g.start, changes := u.changes.filter (fun d => d.1 != n) }
    if stLater g.start b then { u with start := b, step := n - 1, idleUntil := some g.start }
    else { u with start := b, step := n, idleUntil := none }

/-- One boundary (R35): the start advances by L and the number by 1, a change applies, an idle turning begins its
step, or a slice step reset's new origin begins step 0 (R323). -/
def Turning.boundary (u : Turning) : Turning :=
  match u.restart with
  | some z => { u with
      started := true, start := z, step := 0, st0 := z, first := z, firstStep := 0, restart := none, idleUntil := none }
  | none =>
    let n := u.step + 1
    let b := (u.idleUntil).getD (u.start + tu u.len)
    u.enter n b (u.changes.find? fun c => c.1 == n)

/-- The first step of a new turning begins at its origin (R36). -/
def Turning.begin_ (u : Turning) : Turning :=
  { u with started := true, start := u.first, step := u.firstStep }

/-- The turning of a slice at a part: a die holds that of its own slice only. -/
def State.turning (s : State) (p : Part) (slice : Nat) : Turning :=
  match p with
  | .tsu => if s.tsu.die.sliceId = slice then s.tsu.turn else {}
  | .dist => tget {} s.dist.fab.turnings slice

def State.modTurning (s : State) (p : Part) (slice : Nat) (f : Turning → Turning) : State :=
  match p with
  | .tsu => if s.tsu.die.sliceId = slice then { s with tsu := { s.tsu with turn := f s.tsu.turn } } else s
  | .dist => { s with dist.fab.turnings := tmod {} s.dist.fab.turnings slice f }

end Sys2Proof.Machine
end

