-- ==== Sys2Proof/Machine/PlateOps.lean ====
section
/-! DEFINITION. The index plate's shared operations: its banks, the sequencer's walk in fire order, records, step faults
and cancelling (R188 to R218). -/

namespace Sys2Proof.Machine

/-! ### Banks and groups -/

def zeroPlateEntry : Entry := { w0 := 0, w1 := 0, w2 := 0 }

/-- The active bank and the other one (R188). -/
def Plate.active (p : Plate) : Tab Entry := if p.activeB then p.bankB else p.bankA
def Plate.other (p : Plate) : Tab Entry := if p.activeB then p.bankA else p.bankB
def Plate.setOther (p : Plate) (b : Tab Entry) : Plate := if p.activeB then { p with bankA := b } else { p with bankB := b }

/-- A region group's mask: group 0 is all 144 regions (R202). -/
def maskOf (groups : Tab (BitVec 144)) (g : Nat) : BitVec 144 := if g = 0 then BitVec.allOnes 144 else tget 0 groups g

/-! ### The walk in fire order (R190, R194, R195, R203) -/

/-- A run of steps fired from one bank: 0 active, 1 the other, 2 none. `count` is none for a run without end. -/
structure Piece where
  first : Step
  start : St
  len : Nat
  count : Option Nat
  bank : Nat
deriving DecidableEq, Repr

/-- Cuts a run at the first step that starts at or after `x`; the part before takes bank `b`. -/
def pieceCut (x : St) (before after : Nat → Nat) (q : Piece) : List Piece :=
  let k := lengthsTo q.start x q.len
  let head : Piece := { q with count := some (match q.count with | some c => min c k | none => k), bank := before q.bank }
  let rest : Piece := { q with
    first := q.first + BitVec.ofNat 48 k, start := q.start + tu (k * q.len), count := q.count.map (· - k)
    bank := after q.bank }
  if k = 0 then [rest] else [head, rest]

/-- The runs ahead of the cursor: what is left behind the present step, and the turning's runs. -/
def plateRuns (p : Plate) (u : Turning) : List Piece :=
  let segs := u.segs
  let counts := segs.zip ((segs.drop 1).map some ++ [none])
  let ahead := counts.map fun e =>
    { first := e.1.first, start := e.1.start, len := e.1.len,
      count := e.2.map fun h => (stepDiff h.first e.1.first).toNat, bank := 0 : Piece }
  match segs with
  | [] => []
  | g :: _ =>
    if decide (stepDiff p.curStep g.first < 0) then
      let c := (stepDiff g.first p.curStep).toNat
      { first := p.curStep, start := p.curStart, len := (stDiff g.bound p.curStart).toNat / c, count := some c, bank := 0 }
        :: ahead
    else ahead

/-- The runs with their banks (R191): before the last switch the bank that was active then, while it still stands in
the other bank; from a committed plate's boundary on the other bank. -/
def platePieces (p : Plate) (u : Turning) : List Piece :=
  let runs := plateRuns p u
  let runs := match p.lastSwitch with
    | some x => runs.flatMap (pieceCut x (fun _ => if p.copyDue then 1 else 2) id)
    | none => runs
  match p.switchAt with
  | some x => runs.flatMap (pieceCut x id (fun _ => 1))
  | none => runs

/-- Steps from `s` to the next one in which an entry repeats: (s - PHASE) mod DIV = 0 over 48 bits (R194). -/
def repeatIn (e : Entry) (s : Step) : Nat :=
  let x := (s - BitVec.ofNat 48 (entPhase e)).toNat
  let d := max 1 (entDiv e)
  min ((d - x % d) % d) (2 ^ 48 - x)

/-- An entry that falls due: its step, that step's start and T. -/
structure Due where
  step : Step
  start : St
  off : Nat
  entry : Nat
  e : Entry
deriving DecidableEq, Repr

/-- Fire order: by step, OFFSET and entry number (R190). -/
def dueBefore (a b : Nat × Nat × Nat) : Bool :=
  decide (a.1 < b.1) || (decide (a.1 = b.1) && (decide (a.2.1 < b.2.1) || (decide (a.2.1 = b.2.1) && decide (a.2.2 < b.2.2))))

/-- The next due entry of one run at or after the cursor. -/
def pieceNext (p : Plate) (q : Piece) : Option Due :=
  let bank := if q.bank = 0 then p.active else if q.bank = 1 then p.other else []
  let lo := (stepDiff p.curStep q.first).toNat
  let here := decide (0 ≤ stepDiff p.curStep q.first)
  let at_ := fun (k : Nat) (e : Entry) =>
    let lo' := match p.curPos with
      | some pos => if here && !dueBefore (0, pos.1, pos.2) (0, entOffset e, k) then lo + 1 else lo
      | none => lo
    lo' + repeatIn e (q.first + BitVec.ofNat 48 lo')
  let best := bank.foldl (fun b x =>
    if !entValid x.2 then b
    else
      let n := at_ x.1 x.2
      if (q.count.map fun c => decide (c ≤ n)) == some true then b
      else match b with
        | none => some (n, x.1, x.2)
        | some (m, k, e) =>
          if dueBefore (n, entOffset x.2, x.1) (m, entOffset e, k) then some (n, x.1, x.2) else b) none
  best.map fun x => {
    step := q.first + BitVec.ofNat 48 x.1, start := q.start + tu (x.1 * q.len), off := entOffset x.2.2, entry := x.2.1
    e := x.2.2 }

/-- The next entry in fire order. -/
def plateNext (p : Plate) (u : Turning) : Option (Due × Nat) :=
  (platePieces p u).findSome? fun q => (pieceNext p q).map fun d => (d, q.bank)

/-- Moves the cursor past an entry. -/
def platePass (d : Due) (p : Plate) : Plate :=
  { p with curStep := d.step, curStart := d.start, curPos := some (d.off, d.entry) }

/-- Puts the cursor at the start of a step. -/
def Plate.seek (p : Plate) (n : Step) (start : St) : Plate := { p with curStep := n, curStart := start, curPos := none }

/-! ### Armed entries -/

/-- A pending entry of the TSU's own queue (R203). -/
def Armed.own (a : Armed) : Bool := entAction a.e != 1

/-- Whether an armed entry may fire at its T: unconditional or released. -/
def Armed.go (a : Armed) : Bool := a.cond == .none_ || a.cond == .released

/-- The hold end (R210). -/
def holdEnd (a : Armed) : St :=
  let x := a.t + tu (entHoldLimit a.e * 64)
  if stLater x a.nextStart then a.nextStart else x

/-- Writes a launch record (R213). -/
def launchRecord (s : State) (r : LaunchRec) : State :=
  if 256 ≤ s.tsu.plate.events.length then s.count .tsu .launchEventLost 0 (dieFlt s) 1
  else s.modPlate fun p => { p with events := p.events ++ [r] }

/-- The record of an armed entry with its greatest lateness. -/
def armedRecord (a : Armed) (kind region count lateness : Nat) : LaunchRec :=
  { kind, entry := a.entry, region, count, step := a.step.extractLsb' 0 32, lateness }

/-- A step fault (R214): event, record, and STEP_FAULT with its interrupt when it is clear. -/
def stepFault (s : State) (a : Armed) (kind region count : Nat) : State :=
  let s := launchRecord (s.event .tsu 0x026 (dieFlt s) 1) (armedRecord a kind region count 0)
  if s.tsu.plate.fault then s
  else irq (s.modPlate fun p => { p with
    fault := true, faultRegion := region, faultEntry := a.entry, faultStep := a.step.extractLsb' 0 32 }) 8

/-- Drops the first armed entry equal to `a`. -/
def dropArmed (s : State) (a : Armed) : State := s.modPlate fun p => { p with armed := p.armed.erase a }

/-- Replaces the first armed entry equal to `a`. -/
def putArmed (s : State) (a b : Armed) : State :=
  s.modPlate fun p => { p with armed := p.armed.replace a b }

/-- Target regions of an armed KERNEL entry, and the first one (0xFF for an action on die master time). -/
def targets (a : Armed) : List Nat := maskBits 144 a.mask.toNat
def firstTarget (a : Armed) : Nat := ((targets a).head?).getD 255

/-- An entry has fired everywhere, `late` tu after T at the greatest (R212, R213, R436, R438, R440): event, record
for a late or held launch, histogram sample and sampler record. -/
def plateFired (s : State) (a : Armed) (region count late : Nat) (sample : Int) : State :=
  let s := s.event .tsu 0x020 (dieFlt s) 1
  let s := if a.late || decide (0 < a.lateCount) then s.count .tsu .late 0 (dieFlt s) 1 else s
  let s :=
    if a.kind ≠ 0 then
      launchRecord (s.event .tsu 0x024 (dieFlt s) 1) (armedRecord a a.kind region (popcount 144 a.mask.toNat) late)
    else if a.late || decide (0 < a.lateCount) then launchRecord s (armedRecord a 1 region a.lateCount late)
    else s
  let s := s.hist .tsu 5 sample (dieFlt s)
  s.sample .tsu {
    kind := 1, mbx := 0, index := a.entry, tag := a.step.extractLsb' 0 32, sched := a.t
    actual := a.t + BitVec.ofInt 64 sample, count }

/-- Cancels armed entries (R211, R218): they are dropped without firing, in the regions too, and counted. -/
def plateCancel (s : State) (which : Armed → Bool) : State :=
  let gone := s.tsu.plate.armed.filter which
  if gone.isEmpty then s
  else
    let s := s.modPlate fun p => { p with armed := p.armed.filter fun a => !which a }
    let s := { s with tsu.regions := tmapAll {} (fun _ r => { r with
      armed := r.armed.filter fun x => !gone.any fun a => a.entry == x.entry && a.t == x.t }) s.tsu.regions }
    s.count .tsu .plateCancelled 0 (dieFlt s) gone.length

/-! ### Actions on die master time (R201) -/

/-- The first alignment instant A + j x 64,000,000,000 tu at or after T (R91, R199). -/
def alignInstant (a t : St) : St :=
  let r := (t - a).toNat % 64000000000
  if r = 0 then t else t + tu (64000000000 - r)

/-- When an action on die master time acts: at T, or for TS_OUT in absolute mode at the alignment instant (R199,
R201). -/
def actionAt (s : State) (a : Armed) : St :=
  if entAction a.e = 6 && tbit (entTarget a.e) 0 then alignInstant s.tsu.b.map.alignAt a.t else a.t

/-- Whether an armed entry acts at this edge: its instant has come and its condition, if any, is released. -/
def actsNow (s : State) (a : Armed) : Bool := a.own && a.go && stGe (s.now .tsu) (actionAt s a)

/-- The entry, in fire order the first that acts at this edge, when it has this number and action (R201). -/
def actionReady (s : State) (entry action : Nat) : Option Armed :=
  match s.tsu.plate.armed.find? (actsNow s) with
  | some a => if a.entry = entry ∧ entAction a.e = action then some a else none
  | none => none

/-- Runs an action on die master time at its T: `f` is its effect. -/
def plateAction (s : State) (entry action : Nat) (f : Armed → State → State) : State :=
  match actionReady s entry action with
  | none => s
  | some a =>
    let s := f a (dropArmed s a)
    let d := stDiff (s.now .tsu) a.t
    plateFired s a 255 0 d.toNat d

/-- The source that a counter fault names for a plate entry (R197, R224). -/
def plateSrc (entry : Nat) : Src := { kind := 1, id := entry }

end Sys2Proof.Machine
end

