-- ==== Sys2Proof/Machine/Positions.lean ====
section
/-! DEFINITION. Positions in masks, the ports they stand for, and the uplinks that an operation's cells take (R57, R59 to
R61, R307, R519). -/

namespace Sys2Proof.Machine

/-- The bit of a group mask or slice map that a port below stands for: rack, die port; row, rack attachment; root, row
w of plane A or 32 + w of plane B. -/
def portPos (r : Role) (port : Nat) : Nat :=
  match r with
  | .rack => port
  | .row => port / 2
  | .root => port / 2 + 32 * (port % 2)
  | .none_ => 96

/-- Whether a port leads downward. -/
def portBelow (r : Role) (port : Nat) : Bool := portUse r port == 1 || portUse r port == 3 || portUse r port == 6

/-- The rack attachment's port for an operation identifier: uplink bit 0, or the one in UP (R59, R60). -/
def attachPort (s : State) (k id : Nat) : Nat :=
  if (s.port .dist (2 * k + id % 2)).live || !(s.port .dist (2 * k + (id + 1) % 2)).live then 2 * k + id % 2
  else 2 * k + (id + 1) % 2

/-- The port of a position below (R57, R59). -/
def posPort (s : State) (pos id : Nat) : Nat :=
  match s.role with
  | .row => attachPort s pos id
  | .root => 2 * (pos % 32) + pos / 32
  | _ => pos

/-- The uplinks that an operation's cells take: a rack's by bit 0 of the identifier, every root uplink of a row
distributor (R59 to R61). -/
def upPorts (s : State) (id : Nat) : List Nat :=
  match s.role with
  | .rack =>
    if (s.port .dist (96 + id % 2)).live || !(s.port .dist (96 + (id + 1) % 2)).live then [96 + id % 2]
    else [96 + (id + 1) % 2]
  | .row => [96, 97, 98]
  | _ => []

/-- A slice's map at this distributor (R307), without the parts that have left the membership (R347). -/
def sliceMap (s : State) (slice : Nat) : BitVec 96 := tget 0 s.dist.fab.maps slice &&& ~~~s.dist.fab.outMap

end Sys2Proof.Machine
end

