-- ==== Sys2Proof/Machine/PostOps.lean ====
section
/-! DEFINITION. Posts: opening aside, what a distributor does with the records that pass through one (R262 to R266, R330
to R332). -/

namespace Sys2Proof.Machine

def State.modFabric (s : State) (f : Fabric → Fabric) : State := { s with dist.fab := f s.dist.fab }

/-- COLLECT_HOP and RESULT_KEEP (R263, R330, R514). -/
def hopTu (s : State) : Nat := clampN 16384 262144 (s.cfg .dist 0x158 0x8000)
def keepTu (s : State) : Nat := clampN 4 1024 (s.cfg .dist 0x160 0x10) * tickTu

/-- Cuts a record into the data of its cells, the last padded with zero (R259). -/
def cutCells : Nat → List Byte → List (List Byte)
  | 0, _ => []
  | n + 1, bs => ((bs ++ List.replicate 50 0).take 50) :: cutCells n (bs.drop 50)

/-- Sends cells of a record on ports: `tmpl` is the cell without FIRST, LAST and body, `before` the cells of the record
already sent, `fin` whether the last of these ends it. -/
def sendCells (s : State) (p : Part) (ports : List Nat) (tmpl : OutCell) (mk : List Byte → Body) (before : Nat) (fin : Bool)
    (datas : List (List Byte)) : State :=
  (datas.zip (List.range datas.length)).foldl (fun s x =>
    ports.foldl (fun s i => sendP2 s p i { tmpl with
      first := decide (before + x.2 = 0), last := fin && decide (x.2 + 1 = datas.length), body := mk x.1 }) s) s

/-- Queues a whole record as P2 cells. -/
def sendRecord (s : State) (p : Part) (ports : List Nat) (tmpl : OutCell) (mk : List Byte → Body) (bs : List Byte) : State :=
  sendCells s p ports tmpl mk 0 true (cutCells ((bs.length + 49) / 50) bs)

/-! ### Streaming (R264, R265) -/

def Post.same (q : Post) (slice id : Nat) (plane : Plane) : Bool := q.slice == slice && q.id == id && q.plane == plane

def Post.shape (q : Post) : Shape := (headOf q.head).shape

def Post.port (q : Post) (pos : Nat) : PostPort := tget {} q.ports pos

def putPost (s : State) (q q' : Post) : State := s.modFabric fun f => { f with posts := f.posts.replace q q' }

/-- The body of a cell that a post sends: upward below the top, downward at the top (R264). -/
def postBody (q : Post) (bs : List Byte) : Body :=
  let c : CollectCell := { desc := q.id / 64, inst := q.id % 64, data := bs }
  if q.top then .collectDown c else .collectUp c

/-- The ports that a post sends on: every port of its mask at the top, its uplinks below it (R59, R61, R264). -/
def postOut (s : State) (q : Post) : List Nat :=
  if q.top then (maskBits 96 q.mask.toNat).map fun k => posPort s k q.id else upPorts s q.id

/-- Whole elements that a port has delivered. -/
def elemsIn (h : Shape) (x : PostPort) : Nat := min h.elems ((x.bytes.length - 32) / wireWidth h)

/-- Sends the cells that the pending bytes fill, and at the end all of them. -/
def postFlush (s : State) (q : Post) (fin : Bool) : State × Post :=
  let n := if fin then (q.out.length + 49) / 50 else q.out.length / 50
  let tmpl : OutCell := { slice := q.slice, ce := q.ce, me := q.me, at_ := s.now .dist, body := postBody q [] }
  (sendCells s .dist (postOut s q) tmpl (postBody q) q.sentCells fin (cutCells n q.out),
   { q with out := q.out.drop (50 * n), sentCells := q.sentCells + n, record := q.record ++ q.out.take (50 * n) })

def Post.append (q : Post) (bs : List Byte) : Post := { q with out := q.out ++ bs }

/-- The head that a post sends: its own, with the TAG of the first contribution in combine order (R260). -/
def postHead (q : Post) : List Byte :=
  match q.waiting with
  | p :: _ => if (q.port p).bytes.length < 32 then q.head else q.head.take 8 ++ ((q.port p).bytes.drop 8).take 4 ++ q.head.drop 12
  | [] => q.head

/-- Folds every element that the whole waiting set has delivered, the head first (R264, R265). -/
def postFold (q : Post) : Nat → Post
  | 0 => q
  | n + 1 =>
    let h := q.shape
    if q.folded < h.elems && q.waiting.all fun p => decide (q.folded < elemsIn h (q.port p)) then
      let q := if q.folded = 0 then q.append (postHead q) else q
      let r := foldElems h (q.waiting.map fun p => elemAt h (q.port p).bytes q.folded)
      let nan := r.2 || (q.top && h.op == 12 && roundExact r.1 == 0x7FC00000)
      let ovf := q.top && h.op == 12 && roundOvf r.1
      let fl := q.flags ||| (bit nan * 2 ^ flNan + bit ovf * 2 ^ flOvf)
      postFold { q.append (beBytes (wireWidth h) r.1) with
        folded := q.folded + 1, flags := fl, elems := if q.top && h.op == 12 then q.elems ++ [r.1] else q.elems } n
    else q

/-- The tail: STATUS, the flags of the ports whose whole record entered and the post's own, and the sum of their CONTRIB
(R264). -/
def postTail (q : Post) : Tail :=
  let n := recordLen q.shape false
  let tails := q.waiting.map fun p => tailOf (q.port p).bytes n
  { status := q.status, flags := tails.foldl (fun f t => f ||| t.flags) q.flags
    contrib := (tails.map (·.contrib)).foldl (· + ·) 0 }

/-- The step that a collect ID's low bits name at a distributor, from the slice's turning there: the latest not later
than the next one. -/
def distStep (s : State) (slice id : Nat) : Step :=
  let top := (s.turning .dist slice).step + 1
  top - BitVec.ofNat 48 ((top - BitVec.ofNat 48 id).toNat % 64)

/-- The deadline of R255 as a distributor computes it; none where it has no turning of the slice. -/
def distDeadline (s : State) (slice id : Nat) : Option St :=
  let u := s.turning .dist slice
  if !u.started then none
  else some (u.start + tu (33 * u.len) - tu ((u.step + 1 - distStep s slice id).toNat * u.len))

/-- A key is remembered as refused, or as closed (R262, R264). -/
def keyPut (s : State) (slice id : Nat) (plane : Plane) (until_ : St) (closed : Bool) : State :=
  s.modFabric fun f => { f with
    refused := (f.refused.filter fun e => stLater e.until_ (s.now .dist)) ++ [{ slice, id, plane, until_, closed }] }

/-- Frees a post: its memory, and its lifetime as a sample (R262, R264, R438). -/
def postFree (s : State) (q : Post) : State :=
  let s := s.modFabric fun f => { f with posts := f.posts.erase q, memUsed := f.memUsed - q.blocks }
  let h := headOf q.head
  let s := keyPut s q.slice q.id q.plane ((distDeadline s q.slice q.id).getD h.release) true
  s.hist .dist 6 (elapsed (s.now .dist) q.opened : Nat) { slice := some q.slice }

/-- The record sent is kept for RESULT_KEEP: the result at the top, a partial's digest below it (R330, R331). -/
def keepRecord (s : State) (q : Post) : State :=
  let k : Kept := {
    slice := q.slice, id := q.id, plane := q.plane, isTop := q.top, ce := q.ce, me := q.me
    bytes := if q.top then q.record else [], mask := q.mask, digest := crc32c q.record, sent := s.now .dist
    step := distStep s q.slice q.id }
  s.modFabric fun f => { f with
    kept := (f.kept.filter fun e => stLater (e.sent + tu (keepTu s)) (s.now .dist)) ++ [k] }

/-- A result with LEDGER set goes to the serving group of its slice and group at the roots (R267, R282): its bytes wait
there for the RELEASE. Its elements are value and index pairs (R272). -/
def sampleHand (s : State) (q : Post) : State :=
  if s.role != .root || !(q.shape.op == 7 || q.shape.op == 8 || q.shape.op == 9) then s
  else
    let h := headOf q.head
    let x : Option SampleIn := some { step := distStep s q.slice q.id, bytes := q.record, release := h.release }
    { s with dist.led.sgs := tmapAll none (fun _ g => g.map fun g =>
        if g.f.valid && g.f.slice == q.slice && g.f.group == h.group then
          (if q.plane = .a then { g with sampleA := x } else { g with sampleB := x })
        else g) s.dist.led.sgs }

/-- The tail is sent: the record is kept; the top hands it on and is done with the post (R264, R267). -/
def postClose (s : State) (q q' : Post) : State :=
  let s := keepRecord (putPost s q q') q'
  if q'.top then postFree (sampleHand s q') q' else s

/-- Everything that a post can send now. -/
def postAdvance (s : State) (q : Post) : State :=
  if q.done then s
  else
    let h := q.shape
    if q.status ≠ 0 && q.folded = 0 && q.waiting.isEmpty then
      let r := postFlush s (q.append (q.head ++ tailBytes { status := q.status, flags := q.flags, contrib := 0 })) true
      postClose r.1 q { r.2 with done := true }
    else
      let f := postFold q h.elems
      if f.folded = h.elems && f.waiting.all fun p => (f.port p).whole then
        let f := if h.elems = 0 then f.append (postHead f) else f
        let f := if f.top && h.op == 12 then f.append (roundedBytes f.elems) else f
        let r := postFlush s (f.append (tailBytes (postTail f))) true
        postClose r.1 q { r.2 with done := true, record := r.2.record.take (recordLen h f.top) }
      else
        let r := postFlush s f false
        putPost r.1 q r.2

/-- Removes positions from a post's waiting set with flags, and goes on (R263, R266). -/
def postRemove (s : State) (q : Post) (gone : Nat → Bool) (flags : Nat) : State :=
  if q.done || !q.waiting.any gone then s
  else
    let q' := { q with waiting := q.waiting.filter (fun p => !gone p), flags := q.flags ||| flags }
    postAdvance (putPost s q q') q'

/-- Open records that lost a cell on a port are removed with TORN and PARTIAL (R109, R263). -/
def postsBreak (s : State) (port : Nat) (which : Nat → Bool) : State :=
  s.dist.fab.posts.foldl (fun s q =>
    if which (q.slice * 65536 + q.id) then
      postRemove s q (fun p =>
        let x := q.port p
        decide (0 < x.cells) && !x.whole && x.port == port) (2 ^ flTorn + 2 ^ flPartial)
    else s) s

/-- A membership decision clears a part's position from every open post (R266). -/
def postsClear (s : State) (gone : Plane → Nat → Bool) : State :=
  s.dist.fab.posts.foldl (fun s q => postRemove s q (gone q.plane) (2 ^ flPartial)) s

/-! ### Residue checks (R332) -/

/-- Checks the elements of a record that have come in since the last check: how many fail, and the first difference. -/
def residueScan (h : Shape) (bs : List Byte) (from_ to_ : Nat) : List Nat :=
  if hasResidue h.op then
    (((List.range (to_ - from_)).map fun j => resDiff h.op (elemAt h bs (from_ + j))).filter (· != 0))
  else []

/-- One suspect event for a record whose residues failed, unless its tail says that a nearer part raised it. -/
def residueEvent (s : State) (port id : Nat) (n : Step) (d : Option Nat) (flags : Nat) : State :=
  match d with
  | none => s
  | some x =>
    if tbit flags flResFail then s
    else suspect s .dist (neighbour s .dist port) causeResidue {
      opref := BitVec.ofNat 32 (id * 65536 + n.toNat % 65536)
      port := some port
      detail := BitVec.ofNat 32 x }

end Sys2Proof.Machine
end

