-- ==== Sys2Proof/Machine/Receive.lean ====
section
/-! DEFINITION. What every part does with an arriving traffic cell before its type's own rules: the CRC, SEQ and
corruption checks, the epoch rule, the rule after a slice step reset, and a distributor's confinement checks (R43, R52,
R108 to R110, R308, R324, R331). -/

namespace Sys2Proof.Machine

/-! ### Lost and corrupt cells (R108 to R110) -/

/-- The message that a cell belongs to, by type and operation (R110, R111). A broken one, whose remaining cells are
discarded, has 16 added to its type. -/
def openKey (a : Arr) (op : Nat) : Nat × Nat := (a.ctype.toNat, op)
def brokenKey (a : Arr) (op : Nat) : Nat × Nat := (a.ctype.toNat + 16, op)

/-- Breaks open messages of a port, all or those of one operation (R109, R110): a collect record at its post or a plane
copy at the die. -/
def breakOpen (s : State) (p : Part) (port : Nat) (which : Nat → Bool) : State :=
  match p with
  | .tsu => { s with tsu.fab.insts := s.tsu.fab.insts.map fun i =>
      let cut := fun (c : Copy) =>
        if decide (0 < c.cells) && !c.whole && which (i.desc * 64 + i.step.toNat % 64) then { c with broken := true } else c
      if port = 0 then { i with a := cut i.a, a2 := cut i.a2 } else { i with b := cut i.b, b2 := cut i.b2 } }
  | .dist => postsBreak s port which

/-- Marks messages of a port as broken. -/
def markBroken (which : Nat → Bool) (q : Port) : Port :=
  { q with openMsg := q.openMsg.map fun m => if m.1 < 16 && which m.2 then (m.1 + 16, m.2) else m }

/-- Whether FIRST and LAST fit the open messages (R110). -/
def framingBad (q : Port) (a : Arr) (op : Nat) : Bool :=
  let open_ := q.openMsg.contains (openKey a op)
  (!a.first && !open_ && !q.openMsg.contains (brokenKey a op)) || (a.first && open_)

/-- A corrupt cell (R110): counted, the rest of its message discarded, a suspect event against the sender. -/
def cellCorrupt (s : State) (p : Part) (a : Arr) (op : Nat) : State :=
  let s :=
    if (s.port p a.port).openMsg.contains (openKey a op) then
      (breakOpen s p a.port (· == op)).modPort p a.port (markBroken (· == op))
    else s
  suspectPort (s.count p .cellCorrupt a.port { port := some a.port } 1) p a.port causeCell 0

/-- The open messages after a cell that framing lets through. -/
def openAfter (q : Port) (a : Arr) (op : Nat) : List (Nat × Nat) :=
  if a.first then
    let l := q.openMsg.filter (· != brokenKey a op)
    if a.last then l else l ++ [openKey a op]
  else if a.last then q.openMsg.filter (fun m => m != openKey a op && m != brokenKey a op) else q.openMsg

/-- The CRC, SEQ and corruption checks of a cell of type `type` and operation `op`; `bad` says that a status field
holds a value above 0x13. The result says whether the cell goes on. -/
def cellIn (s : State) (p : Part) (a : Arr) (type op : Nat) (bad : Bool) : State × Bool :=
  if !a.crcOk then (s.count p .cellCrc a.port { port := some a.port } 1, false)
  else
    let gap := (a.seq - (s.port p a.port).rxSeq).toNat
    let s :=
      if gap = 0 then s
      else
        (breakOpen (s.count p .cellLost a.port { port := some a.port } gap) p a.port (fun _ => true)).modPort p a.port
          (markBroken fun _ => true)
    let s := s.modPort p a.port fun q => { q with rxSeq := a.seq + 1 }
    if a.ctype.toNat ≠ type || a.hver ≠ 1 || a.slot0 || bad || framingBad (s.port p a.port) a op then
      (cellCorrupt s p a op, false)
    else
      let lost := !a.first && (s.port p a.port).openMsg.contains (brokenKey a op)
      (s.modPort p a.port fun q => { q with openMsg := openAfter q a op }, !lost)

/-! ### The epoch rule (R43, R324) -/

inductive Rx | drop | stale | ok
deriving DecidableEq, Repr

/-- How a pair stands against a part's own: 0 equal, 1 the previous pair, 2 older, 3 newer (R43). -/
def pairClass (b : Base) (ce me : Epoch) : Nat :=
  let dc := epochDiff ce b.ep.ce
  let dm := epochDiff me b.ep.me
  if 0 < dc ∨ 0 < dm then 3
  else if dc = 0 ∧ dm = 0 then 0
  else if -1 ≤ dc ∧ -1 ≤ dm then 1
  else 2

/-- The CE of a slice's last step reset (R324). -/
def resetCeOf (s : State) (p : Part) (slice : Nat) : Option Epoch :=
  match p with
  | .tsu => if s.tsu.die.sliceId = slice then s.tsu.turn.resetCe else none
  | .dist => tget none s.dist.fab.resetCe slice

/-- The slice counter index of a part: a die accounts for its one slice only. -/
def acctOf (p : Part) (slice : Nat) : Nat := match p with | .tsu => 0 | .dist => slice

/-- The epoch rule for a cell of a slice whose operation's deadline has or has not passed. -/
def epochIn (s : State) (p : Part) (a : Arr) (inTime : Bool) : State × Rx :=
  match resetCeOf s p a.slice with
  | some c =>
    if epochDiff a.ce c < 0 then
      (s.count p .sliceCancelled (acctOf p a.slice) { slice := some a.slice, port := some a.port } 1, .drop)
    else epochGo
  | none => epochGo
where
  epochGo : State × Rx :=
    match pairClass (s.base p) a.ce a.me with
    | 0 => (s, .ok)
    | 1 => if inTime then (s, .ok) else (s.stale p a.port a.slice, .stale)
    | 2 => (s.stale p a.port a.slice, .stale)
    | _ => (suspectPort s p a.port causeNewer 0, .drop)

/-- Whether an operation's deadline has not passed. -/
def inTime (s : State) (p : Part) (deadline : St) : Bool := !stLater (s.now p) deadline

/-! ### Confinement at a distributor (R52, R308) -/

/-- SLICE_VIOLATION: counted for the header's slice, with a suspect event against the sender (R308). -/
def sliceViolation (s : State) (a : Arr) : State :=
  suspectPort (s.count .dist .sliceViolation a.slice { slice := some a.slice, port := some a.port } 1) .dist a.port
    causeCell 0

/-- Whether a die lies in a slice, as far as this distributor's map and position show it (R234, R308): a die below
must stand in the slice map; of a die elsewhere the map says nothing. -/
def dstInSlice (s : State) (slice : Nat) (dst : Node) : Bool :=
  let m := sliceMap s slice
  match s.role with
  | .rack =>
    if nodeRow dst = s.ownRow ∧ nodeRack dst = s.ownRack then m.getLsbD (nodeSlot dst) else true
  | .row => if nodeRow dst = s.ownRow then m.getLsbD (nodeRack dst) else true
  | .root => m.getLsbD (nodeRow dst) || m.getLsbD (32 + nodeRow dst)
  | .none_ => false

/-- A traffic cell other than VOTE and MGMT at a distributor: on a peer port it is discarded with an event (R52); from
below it must come from a port in the slice's map (R308). -/
def confineIn (s : State) (a : Arr) : State × Bool :=
  if (peerPorts s).contains a.port then
    (suspectPort (s.count .dist .peerDiscard a.port { port := some a.port } 1) .dist a.port causeCell 0, false)
  else if portBelow s.role a.port && !(sliceMap s a.slice).getLsbD (portPos s.role a.port) then
    (sliceViolation s a, false)
  else (s, true)

/-- Everything that precedes a type's own rules at a distributor. -/
def distIn (s : State) (a : Arr) (type op : Nat) (bad : Bool) (deadlineOk : State → Bool) : State × Rx :=
  match cellIn s .dist a type op bad with
  | (s, false) => (s, .drop)
  | (s, true) =>
    match confineIn s a with
    | (s, false) => (s, .drop)
    | (s, true) => epochIn s .dist a (deadlineOk s)

/-- Everything that precedes a type's own rules at a die: a cell of another slice goes no further. -/
def dieIn (s : State) (a : Arr) (type op : Nat) (bad : Bool) (deadlineOk : State → Bool) : State × Rx :=
  match cellIn s .tsu a type op bad with
  | (s, false) => (s, .drop)
  | (s, true) =>
    if !s.tsu.die.sliceValid || s.tsu.die.sliceId != a.slice then (s, .drop)
    else epochIn s .tsu a (deadlineOk s)

/-! ### Comparing the plane copies (R328, R331) -/

/-- A split event against each of the die's two rack distributors (R331). -/
def splitEvent (s : State) (opref : Nat) (detail : W32) : State :=
  let x : Ctx := { opref := BitVec.ofNat 32 opref, detail }
  raise (raise s .tsu (neighbour s .tsu 0) false true causeDiffer x) .tsu (neighbour s .tsu 1) false true causeDiffer x

/-- The result deckle: 2 ticks from the first copy (R235, R328). -/
def deckleOver (s : State) (first : St) : Bool := stGe (s.now .tsu) (first + tu (2 * tickTu))

end Sys2Proof.Machine
end

