-- ==== Sys2Proof/Machine/SyncOps.lean ====
section
/-! DEFINITION. What a core's request on the counter port does (R221 to R241, R445 to R448), as the counter-port
commands and the reopening of the port after a context switch perform it. COLLECT_START stands with the collectives. -/

namespace Sys2Proof.Machine

/-- The source that a core's operation names in a fault record (R224). -/
def coreSrc (s : State) (core : Nat) : Src := { kind := 0, core, id := ownIndex s }

/-- A counter operation of a core: the die's own refusal, or the operation, and its completion (R221, R222). -/
def coreCtr (s : State) (core : Nat) (ctag : BitVec 16) (counter : Nat) (op : CtrOp) : State :=
  match dieRefuses s with
  | some x => complete s core ctag x 0
  | none =>
    let r := ctrOp s counter op (coreSrc s core)
    complete r.1 core ctag r.2.1 r.2.2

/-! ### SIGNAL (R231 to R233) -/

/-- The slice membership table that the slice's last commit loaded, without the dies that have parted since (R231,
R365). -/
def inSliceTable (s : State) (die : Nat) : Bool :=
  let d := s.tsu.die
  Config.sliceMember d.sliceId d.memberCe die && !d.departed.contains die

/-- The counter operation of a SIGNAL: 1 ADD, 2 SUB, 3 READ (R233, R445). -/
def signalOp (op : Nat) (n : W32) : Option CtrOp :=
  match op with
  | 1 => some (.add n) | 2 => some (.sub n) | 3 => some .read | _ => none

/-- SIGNAL_DEADLINE in tu (R233, R503). -/
def signalDeadline (s : State) : Nat := s.cfg .tsu 0x61B0 0x7D000

/-- The cell that a SIGNAL command sends (R233). -/
def signalCell (s : State) (core target counter op : Nat) (n : W32) (replyReq : Bool) : SignalCell := {
  op, replyReq, src := s.node .tsu, srcCore := core, dst := dieNode target, counter, opId := s.tsu.sync.opId
  n := if op = 3 then 0 else n
  deadline := s.now .tsu + tu (signalDeadline s), status := 0, value := 0 }

/-- Sends one P1 cell on both planes in the same tick (R231, R241); a new operation leaves out a plane that is fenced or
drained (R348, R374). -/
def sendBoth (s : State) (c : OutCell) : State :=
  (planesOn s).foldl (fun s i => sendP1 s .tsu i c) s

def portSignal (core : Nat) (ctag : BitVec 16) (target counter op : Nat) (n : W32) (replyReq : Bool) (s : State) :
    State :=
  match dieRefusesNew s, signalOp op n with
  | some x, _ => complete s core ctag x 0
  | none, none => complete s core ctag .badCommand 0
  | none, some o =>
    let y := s.tsu.sync
    if target = ownIndex s then coreCtr s core ctag counter o
    else if !inSliceTable s target then complete s core ctag .notMember 0
    else if replyReq && (decide (512 ≤ y.sigOut.length) || decide (8 ≤ (y.sigOut.filter (·.core == core)).length)) then
      complete (s.count .tsu .signalBusy 0 (dieFlt s) 1) core ctag .busy 0
    else
      let c := signalCell s core target counter op n replyReq
      let s := sendBoth s (cellNow s .tsu s.tsu.die.sliceId (.signal c))
      let s := s.modSync fun y => { y with
        opId := y.opId + 1
        sigOut := if replyReq then y.sigOut ++ [{ opId := c.opId, core, counter, deadline := c.deadline }] else y.sigOut }
      complete (s.event .tsu 0x034 (dieFlt s) 1) core ctag .pending 0

/-! ### Watches (R226, R227) -/

def portWatchReg (core : Nat) (ctag : BitVec 16) (counter : Nat) (eq rearm : Bool) (target : Nat) (tag : BitVec 16)
    (threshold : W32) (s : State) : State :=
  match dieRefuses s with
  | some x => complete s core ctag x 0
  | none =>
    if !(ctrOf s counter).alloc || decide (575 < target) then complete s core ctag .badCommand 0
    else match lowestFree 2048 fun w => (tget none s.tsu.sync.watches w).isNone with
      | none => complete s core ctag .full 0
      | some w =>
        let x : Watch := { counter, eq, rearm, threshold, target, tag, held := false }
        let s := s.modSync fun y => { y with watches := tset none y.watches w (some x) }
        let s := complete s core ctag .ok (BitVec.ofNat 32 w)
        if condCmp eq (ctrOf s counter).value threshold then watchFire w x s else s

def portWatchCancel (core : Nat) (ctag : BitVec 16) (watch : Nat) (s : State) : State :=
  match dieRefuses s with
  | some x => complete s core ctag x 0
  | none =>
    if (tget none s.tsu.sync.watches watch).isNone then complete s core ctag .badCommand 0
    else complete (watchRemove s watch) core ctag .ok 0

/-! ### Local barriers (R238, R239) -/

def localOf (s : State) (slot : Nat) : LocalBar := tget {} s.tsu.sync.locals slot
def setLocal (s : State) (slot : Nat) (b : LocalBar) : State :=
  s.modSync fun y => { y with locals := tset {} y.locals slot b }

/-- The core mask of a region group and a set of local cores (R50, R238). -/
def groupCores (mask : BitVec 144) (cores : BitVec 4) : Nat :=
  (maskBits 144 mask.toNat).foldl (fun m r => m + cores.toNat * 2 ^ (4 * r)) 0

def portLocalDefine (core : Nat) (ctag : BitVec 16) (slot group : Nat) (cores : BitVec 4) (s : State) : State :=
  match dieRefuses s with
  | some x => complete s core ctag x 0
  | none =>
    if (localOf s slot).open_ then complete s core ctag .busy 0
    else complete (setLocal s slot { localOf s slot with mask := groupCores (maskOf s.tsu.plate.groups group) cores }) core ctag .ok 0

/-- The last arrival: LOCAL_DONE to every core of the mask, and the slot closes (R239). -/
def localDone (slot : Nat) (status : Status) (s : State) : State :=
  let b := localOf s slot
  let s := setLocal s slot { b with open_ := false, arrived := 0, times := [] }
  let cores := maskBits 576 b.mask
  let s := cores.foldl (fun s c => msgPut s {
    core := c, kind := 2, status, id := slot, count := cores.length, stLo := stLo s }) s
  b.times.foldl (fun s x => s.hist .tsu 2 (elapsed (s.now .tsu) x.2 : Nat) (dieFlt s)) s

def portLocalArrive (core : Nat) (ctag : BitVec 16) (slot : Nat) (s : State) : State :=
  match dieRefuses s with
  | some x => complete s core ctag x 0
  | none =>
    let b := localOf s slot
    if !tbit b.mask core then complete s core ctag .badCommand 0
    else if tbit b.arrived core then complete s core ctag .busy 0
    else
      let b := { b with open_ := true, arrived := b.arrived + 2 ^ core, times := b.times ++ [(core, s.now .tsu)] }
      let s := complete (setLocal s slot b) core ctag .pending 0
      if b.arrived = b.mask then localDone slot .ok s else s

/-! ### Hall barriers at the die (R241, R242) -/

def hallOf (s : State) (g : Nat) : HallEntry := tget {} s.tsu.sync.hall g
def setHall (s : State) (g : Nat) (h : HallEntry) : State := s.modSync fun y => { y with hall := tset {} y.hall g h }

/-- The tick edge ST of the present tick. -/
def tickEdgeSt (s : State) (p : Part) : St := tickSt (tickOf (s.now p))

/-- A barrier cell of this part (R242). -/
def barCell (s : State) (p : Part) (group : Nat) (gen : BitVec 16) (part_ deferred : Bool) : BarCell :=
  { group, gen, src := s.node p, part_, deferred, sentSt := tickEdgeSt s p }

def portHallArrive (core : Nat) (ctag : BitVec 16) (group : Nat) (s : State) : State :=
  match dieRefusesNew s with
  | some x => complete s core ctag x 0
  | none =>
    let h := hallOf s group
    if !h.valid || !h.member then complete s core ctag .notMember 0
    else if h.arrivals ≤ h.count then complete s core ctag .busy 0
    else
      let h := { h with
        count := h.count + 1, waiters := h.waiters ++ [(core, s.now .tsu)]
        opened := if h.count = 0 then s.now .tsu else h.opened
        waitRaised := if h.count = 0 then false else h.waitRaised }
      let s := complete (setHall s group h) core ctag .pending 0
      if h.count < h.arrivals then s
      else sendBoth s (cellNow s .tsu s.tsu.die.sliceId (.barrierArrive (barCell s .tsu group h.gen false false)))

/-! ### The port -/

/-- A request reaches the counter port: it counts for its region's mark interval (R424), and waits while the port is
closed (R252, R446). -/
def portGate (core : Nat) (q : PortReq) (f : State → State) (s : State) : State :=
  let s := s.modRegion (core / 4) fun r => { r with ctrOps := r.ctrOps + 1 }
  if s.tsu.sync.closed then s.modSync fun y => { y with waiting := y.waiting ++ [q] } else f s

end Sys2Proof.Machine
end

