-- ==== Sys2Proof/Machine/CorePort.lean ====
section
/-! DEFINITION. The counter port and the core message port: the commands of a core (R219 to R241, R445 to R448). -/

namespace Sys2Proof.Machine

open Sys2Proof

/-- ADD (R221). -/
def execAdd (core : Nat) (ctag : BitVec 16) (counter : Nat) (n : W32) (s : State) : Host.Outcome State Fault Refusal :=
  onCore core s (portGate core (.add core ctag counter n) fun s => coreCtr s core ctag counter (.add n))

/-- SUB (R221). -/
def execSub (core : Nat) (ctag : BitVec 16) (counter : Nat) (n : W32) (s : State) : Host.Outcome State Fault Refusal :=
  onCore core s (portGate core (.sub core ctag counter n) fun s => coreCtr s core ctag counter (.sub n))

/-- READ (R221). -/
def execRead (core : Nat) (ctag : BitVec 16) (counter : Nat) (s : State) : Host.Outcome State Fault Refusal :=
  onCore core s (portGate core (.read core ctag counter) fun s => coreCtr s core ctag counter .read)

/-- SET from a core always completes with DENIED (R221, R445). -/
def execSet (core : Nat) (ctag : BitVec 16) (_counter : Nat) (_v : W32) (s : State) : Host.Outcome State Fault Refusal :=
  onCore core s (portGate core (.set core ctag) fun s => complete s core ctag .denied 0)

/-- UNKNOWN_COUNTER_OPC completes with BAD_COMMAND (R445). -/
def execUnknownCounterOpc (core : Nat) (ctag : BitVec 16) (_opc : Nat) (s : State) : Host.Outcome State Fault Refusal :=
  onCore core s (portGate core (.unknown core ctag) fun s => complete s core ctag .badCommand 0)

/-- SIGNAL (R231 to R233). -/
def execSignal (core : Nat) (ctag : BitVec 16) (target counter op : Nat) (n : W32) (replyReq : Bool) (s : State) :
    Host.Outcome State Fault Refusal :=
  onCore core s (portGate core (.signal core ctag target counter op n replyReq)
    (portSignal core ctag target counter op n replyReq))

/-- WATCH_REG (R226, R227). -/
def execWatchReg (core : Nat) (ctag : BitVec 16) (counter : Nat) (eq rearm : Bool) (target : Nat) (tag : BitVec 16)
    (threshold : W32) (s : State) : Host.Outcome State Fault Refusal :=
  onCore core s (portGate core (.watchReg core ctag counter eq rearm target tag threshold)
    (portWatchReg core ctag counter eq rearm target tag threshold))

/-- WATCH_CANCEL (R226). -/
def execWatchCancel (core : Nat) (ctag : BitVec 16) (watch : Nat) (s : State) : Host.Outcome State Fault Refusal :=
  onCore core s (portGate core (.watchCancel core ctag watch) (portWatchCancel core ctag watch))

/-- LOCAL_DEFINE (R238). -/
def execLocalDefine (core : Nat) (ctag : BitVec 16) (slot group : Nat) (cores : BitVec 4) (s : State) :
    Host.Outcome State Fault Refusal :=
  onCore core s (portGate core (.localDefine core ctag slot group cores)
    (portLocalDefine core ctag (slot % 64) (group % 256) cores))

/-- LOCAL_ARRIVE (R239). -/
def execLocalArrive (core : Nat) (ctag : BitVec 16) (slot : Nat) (s : State) : Host.Outcome State Fault Refusal :=
  onCore core s (portGate core (.localArrive core ctag slot) (portLocalArrive core ctag (slot % 64)))

/-- HALL_ARRIVE (R241). -/
def execHallArrive (core : Nat) (ctag : BitVec 16) (group : Nat) (s : State) : Host.Outcome State Fault Refusal :=
  onCore core s (portGate core (.hallArrive core ctag group) (portHallArrive core ctag (group % 4096)))

/-- CORE_CREDIT_RETURN: the core takes the oldest message of its queue, and the messages held for it follow (R230,
R448). -/
def execCoreCreditReturn (core : Nat) (s : State) : Host.Outcome State Fault Refusal :=
  onCore core s fun s =>
    deliver core (s.modSync fun y => { y with coreQ := tmod [] y.coreQ core (fun q => q.drop 1) })

/-- CORE_RESET: the die resets a core; its messages are discarded and counted (R444, R447, R448). -/
def execCoreReset (core : Nat) (s : State) : Host.Outcome State Fault Refusal :=
  onCore core s fun s =>
    if coreInReset s core then s
    else deliver core (s.modSync fun y => { y with
      coreReset := y.coreReset + 2 ^ core, coreQ := tset [] y.coreQ core [], cpl := tset none y.cpl core none })

/-- CORE_RESET_RELEASE: the core's credits return to 16 (R448). -/
def execCoreResetRelease (core : Nat) (s : State) : Host.Outcome State Fault Refusal :=
  onCore core s fun s =>
    if coreInReset s core then
      s.modSync fun y => { y with coreReset := y.coreReset - 2 ^ core, coreQ := tset [] y.coreQ core [] }
    else s

end Sys2Proof.Machine
end

