-- ==== Sys2Proof/Machine/TimOps.lean ====
section
/-! DEFINITION. Stamps and what takes them: queues, statistics, intervals, snapshots and the stamp trigger (R409 to
R421, R425, R432). -/

namespace Sys2Proof.Machine

/-- Channels of a part (R409, R410). -/
def chanCount : Part → Nat
  | .tsu => 8
  | .dist => 138

/-- Interval units of a part (R419). -/
def unitCount : Part → Nat
  | .tsu => 2
  | .dist => 16

def State.chan (s : State) (p : Part) (n : Nat) : Channel := tget {} (s.base p).chans n
def State.modChan (s : State) (p : Part) (n : Nat) (f : Channel → Channel) : State :=
  s.modBase p fun b => { b with chans := tmod {} b.chans n f }

/-- QUEUE_DIV: as written, or its reset value, 4,096 on link and reference channels and 1 on the others (R415). -/
def chanDiv (p : Part) (n : Nat) (c : Channel) : Nat :=
  if c.divSet then c.div
  else match p with
    | .tsu => if n < 4 then 4096 else 1
    | .dist => if n < 128 ∨ 132 ≤ n then 4096 else 1

/-- A snapshot latches the programmable counters and the time; a second in the same cycle is merged (R432). -/
def State.snapshot (s : State) (p : Part) : State :=
  s.modBase p fun b =>
    if b.perf.lastSnap == some b.perf.cycles then b
    else { b with perf := { b.perf with
      ctrs := tmapAll {} (fun _ c => { c with snap := c.val }) b.perf.ctrs
      snapSt := b.now
      lastSnap := some b.perf.cycles } }

/-- A stamp enters its channel's queue of 256, or is counted in TIM_OVERRUN (R414, R415); a queued stamp takes a
snapshot when SNAP_CHANNEL names its channel (R432). -/
def chanPut (p : Part) (n : Nat) (e : TimEntry) (s : State) : State :=
  if (s.chan p n).queue.length < 256 then
    let s := s.modChan p n fun c => { c with queue := c.queue ++ [e] }
    if (s.base p).perf.snapEn && (s.base p).perf.snapCh == n then s.snapshot p else s
  else s.count p .timOverrun n {} 1

/-! ### Statistics (R417, R418) -/

/-- A sample enters a run; the N-th latches the results. -/
def statTake (x : Int) (u : Stat) : Stat :=
  let v := clampI (-(2 ^ 47)) (2 ^ 47) x
  let first := u.count = 0
  let u := { u with
    count := u.count + 1, sum := u.sum + v, sumSq := u.sumSq + v.natAbs * v.natAbs
    min := if first then v else Min.min u.min v
    max := if first then v else Max.max u.max v
    range := u.range || decide (v ≠ x) }
  if u.count < u.n then u
  else { u with
    running := false, done := true, rMean := divNear (256 * u.sum) u.n
    rSd := isqrt (65536 * (u.n * u.sumSq - u.sum.natAbs * u.sum.natAbs) / (u.n * u.n))
    rMin := u.min, rMax := u.max }

/-- A signed offset from the nearest multiple of `per` above `origin`; halfway is taken from the later reference
instant. -/
def nearestOffset (v per : Nat) : Int :=
  if 2 * (v % per) < per then ((v % per : Nat) : Int) else ((v % per : Nat) : Int) - (per : Int)

/-- The sample that an accepted stamp gives a channel's unit (R417), and the run that remembers it. -/
def statStamp (alignAt st : St) (u : Stat) : Stat :=
  if !u.running then u
  else if u.src = 1 then
    statTake (if u.phaseAlign then nearestOffset (st - alignAt).toNat 64000000000 else nearestOffset st.toNat u.period) u
  else if u.src = 0 then
    match u.prev with
    | none => { u with prev := some st }
    | some q => statTake (stDiff st q) { u with prev := some st }
  else u

def State.modStat (s : State) (p : Part) (k : Nat) (f : Stat → Stat) : State :=
  s.modBase p fun b => { b with stats := tmod {} b.stats k f }

/-! ### Intervals (R419 to R421) -/

def State.unit (s : State) (p : Part) (u : Nat) : IntUnit := tget {} (s.base p).units u
def State.modUnit (s : State) (p : Part) (u : Nat) (f : IntUnit → IntUnit) : State :=
  s.modBase p fun b => { b with units := tmod {} b.units u f }

/-- The result of a closed interval, from start and stop as ST, coarse count and taps (R420). -/
def intResult (a b : St × Nat × Nat) : IntEntry :=
  let n := b.2.1 - a.2.1 - bit (decide (b.2.2 < a.2.2))
  { tu := b.1 - a.1, ns := BitVec.ofNat 32 n, fine := (b.2.2 + 64 - a.2.2) % 64, ovf := min 255 (n / 2 ^ 32), timeout := false }

/-- A result enters the unit's queue of 256 and its statistics unit. -/
def intPut (p : Part) (u : Nat) (r : IntEntry) (s : State) : State :=
  let s := s.modStat p (chanCount p + u) fun q => if q.running && q.src == 2 then statTake r.tu.toInt q else q
  if (s.unit p u).queue.length < 256 then s.modUnit p u fun q => { q with queue := q.queue ++ [r] }
  else s.count p .intOverrun u {} 1

/-- A start stamp on a unit. -/
def intStart (p : Part) (u : Nat) (x : St × Nat × Nat) (s : State) : State :=
  match (s.unit p u).open_ with
  | some _ => s.count p .intExtraStart u {} 1
  | none => s.modUnit p u fun q => { q with open_ := some x }

/-- A stop stamp on a unit. -/
def intStop (p : Part) (u : Nat) (x : St × Nat × Nat) (s : State) : State :=
  match (s.unit p u).open_ with
  | some a =>
    if stLater x.1 a.1 then intPut p u (intResult a x) (s.modUnit p u fun q => { q with open_ := none })
    else s.count p .intEarlyStop u {} 1
  | none => s.count p .intEarlyStop u {} 1

/-- An accepted stamp at one unit: start, stop, or alternately each when both name the channel (R419). -/
def intStamp (p : Part) (n : Nat) (x : St × Nat × Nat) (s : State) (u : Nat) : State :=
  let q := s.unit p u
  if !q.enable then s
  else if q.start = n ∧ q.stop = n then (if q.open_.isSome then intStop p u x s else intStart p u x s)
  else if q.start = n then intStart p u x s
  else if q.stop = n then intStop p u x s
  else s

/-- A TIM_TRIG of mode start or stop on every unit that names its channel (R419). -/
def intTrig (p : Part) (n : Nat) (stop : Bool) (x : St × Nat × Nat) (s : State) (u : Nat) : State :=
  let q := s.unit p u
  if q.enable && (q.start == n || q.stop == n) then (if stop then intStop p u x s else intStart p u x s) else s

/-! ### Accepted stamps -/

/-- An accepted interpolator stamp: every QUEUE_DIV-th enters the queue, statistics and intervals take each, and
every 1,024th calls a self-check (R413, R415). `x` is its ST, coarse count and taps. -/
def stampAccept (p : Part) (n : Nat) (x : St × Nat × Nat) (e : TimEntry) (s : State) : State :=
  let c := s.chan p n
  let due := c.queueEn && decide ((c.seen + 1) % chanDiv p n c = 0)
  let s := s.modChan p n fun c => { c with
    seen := (c.seen + 1) % chanDiv p n c
    stamps := (c.stamps + 1) % 1024
    checkDue := c.checkDue || decide (c.stamps + 1 = 1024) }
  let s := if due then chanPut p n e s else s
  let s := s.modStat p n (statStamp (s.base p).map.alignAt e.st)
  let s := (List.range (unitCount p)).foldl (intStamp p n x) s
  if (s.base p).fr.trigChannel = n then s.frTrigger p 3 n e.st else s

end Sys2Proof.Machine
end

