-- ==== Sys2Proof/Machine/Plate.lean ====
section
/-! DEFINITION. The index plate: arming, launches, conditions and the plate's actions (R188 to R218). COLLECT stands
with the collectives. -/

namespace Sys2Proof.Machine

open Sys2Proof

/-! ### Arming (R203, R205) -/

/-- ARM_AHEAD and FAULT_STOP in PLATE_CONTROL (R203, R214, R503). -/
def armAhead (s : State) : Nat := s.cfg .tsu 0x6028 0x10000 % 2 ^ 19
def faultStop (s : State) : Bool := tbit (s.cfg .tsu 0x6028 0x10000) 32

/-- Whether the plate fires nothing in a step: FAULT_STOP after a step fault (R214). -/
def plateStopped (s : State) (n : Step) : Bool :=
  let p := s.tsu.plate
  (p.stopped && (p.fault || decide (stepDiff n s.tsu.turn.step ≤ 0)))
    || (p.fault && faultStop s && decide (0 < stepDiff n s.tsu.turn.step))

/-- Room in every queue that an entry needs (R203): 16 entries in each target region, 32 in the TSU's own queue. -/
def armRoom (s : State) (own : Bool) (mask : BitVec 144) : Bool :=
  let armed := s.tsu.plate.armed
  if own then decide ((armed.filter (·.own)).length < 32)
  else (maskBits 144 mask.toNat).all fun r => decide ((armed.filter fun a => a.left.getLsbD r).length < 16)

/-- The entry that the sequencer would arm. -/
def armedOf (s : State) (d : Due) (mask : BitVec 144) : Armed :=
  let t := d.start + tu d.off
  let own := entAction d.e != 1
  let ahead := stDiff t (s.now .tsu)
  { entry := d.entry, e := d.e, step := d.step, t
    nextStart := (s.tsu.turn.stepStart (d.step + 1)).getD (d.start + tu s.tsu.turn.len)
    left := if own then 0 else mask
    mask := if own then 0 else mask
    cond := if entPolicy d.e = 0 then .none_ else .waiting
    short := decide (0 < ahead ∧ ahead < 16384)
    late := own && decide (ahead < 0) }

/-- Entries of a step that the die does not fire: without a slice, quarantined, or at or after a parting's B (R211,
R305, R365). -/
def armBarred (s : State) (t : St) : Bool :=
  let d := s.tsu.die
  (dieRefuses { s with tsu.b.t.noTime := false }).isSome || ((d.state == .parting || d.state == .parted) && stGe t d.partAt)

/-- ENTRY_ARM: the next entry in fire order is armed once ARM_AHEAD before its T has come, its queues have room and
4 ns have passed since the last (R203, R205). In NO_TIME, or while stopped, an entry that falls due is counted
instead (R214, R218). During a context switch the sequencer waits (R252). -/
def execEntryArm (s : State) : Host.Outcome State Fault Refusal :=
  .next <|
    match plateNext s.tsu.plate s.tsu.turn with
    | none => s
    | some (d, bank) =>
      let t := d.start + tu d.off
      let now := s.now .tsu
      let groups := if bank = 1 && (s.tsu.plate.switchAt.any fun x => stGe t x)
        then s.tsu.plate.switchGroups.foldl (fun g x => tset 0 g x.1 x.2) s.tsu.plate.groups else s.tsu.plate.groups
      let mask := if entAction d.e = 1 then maskOf groups (entTarget d.e % 256) else 0
      let pass := s.modPlate (platePass d)
      let cyc := s.tsu.b.perf.cycles
      if s.tsu.sync.closed then s
      else if armBarred s t then (if stGe now t then pass else s)
      else if s.tsu.b.t.noTime then (if stGe now t then pass.count .tsu .plateNoTime 0 (dieFlt s) 1 else s)
      else if plateStopped s d.step then (if stGe now t then pass.count .tsu .plateStopped 0 (dieFlt s) 1 else s)
      else if stLater t (now + tu (armAhead s)) then s
      else if entAction d.e = 1 ∧ mask = 0 then pass
      else if (s.tsu.plate.lastArm.any fun c => decide ((cyc - c).toNat < 4)) || !armRoom s (entAction d.e != 1) mask then s
      else
        let a := armedOf s d mask
        let s := pass.modPlate fun p => { p with armed := p.armed ++ [a], lastArm := some cyc }
        if a.short then s.count .tsu .armShort 0 (dieFlt s) 1 else s

/-- REGION_ARM_RECEIVE: an ARM frame joins the region's armed queue of 16 (R203, R205, R212, R442). -/
def execRegionArmReceive (region entry : Nat) (cond : Bool) (t : St) (arg : W32) (s : State) :
    Host.Outcome State Fault Refusal :=
  onRegion region s fun s =>
    let r := s.region region
    if 16 ≤ r.armed.length then s
    else
      let d := copyDiff r.copy t
      s.modRegion region fun r => { r with armed := r.armed ++ [{
        entry, t, arg, cond, late := decide (0 < d), short := decide (-(16384 * 2 ^ 16) < d ∧ d ≤ 0) }] }

/-! ### Launches (R206 to R208, R212) -/

/-- A KERNEL entry that has fired or faulted in every target region leaves the queue (R212, R213). -/
def kernelDone (s : State) (a : Armed) : State :=
  if a.left ≠ 0 then s
  else
    let s := dropArmed s a
    if a.faulted = popcount 144 a.mask.toNat then s
    else plateFired s a (if a.maxRegion = 255 then firstTarget a else a.maxRegion) (popcount 144 a.mask.toNat) a.maxLate
      a.maxLate

/-- FIRED_FRAME_RECEIVE: a region's FIRED frame; the last one of an entry forms its record and samples (R213,
R443). -/
def execFiredFrameReceive (region : Nat) (frame : W64) (s : State) : Host.Outcome State Fault Refusal :=
  onRegion region s fun s =>
    let f := frame.toNat
    let entry := bits f 59 47
    if bits f 63 60 ≠ 1 then s
    else match s.tsu.plate.armed.find? fun a => a.entry == entry && a.left.getLsbD region with
      | none => s
      | some a =>
        let x := bits f 31 0
        let b := { a with
          left := a.left &&& ~~~(BitVec.ofNat 144 (2 ^ region))
          lateCount := a.lateCount + bit (tbit f 46)
          maxLate := max a.maxLate x
          maxRegion := if a.maxRegion = 255 ∨ a.maxLate < x then region else a.maxRegion }
        let s := (putArmed s a b).event .tsu 0x021 { slice := (dieFlt s).slice, region := some region } 1
        kernelDone s b

/-- REGION_UNSYNC_FAULT: an entry due in target regions that are unsynchronised or not LOADED is a step fault for
those regions; it stays armed in the others (R178, R214). -/
def unsyncFault (s : State) (a : Armed) : State :=
  let bad := (maskBits 144 a.left.toNat).filter fun r => !(s.region r).usable
  match bad with
  | [] => s
  | r :: _ =>
    let b := { a with
      left := a.left &&& ~~~(BitVec.ofNat 144 (bad.foldl (fun m i => m + 2 ^ i) 0)), faulted := a.faulted + bad.length }
    let s := bad.foldl (fun s i => s.modRegion i fun q => { q with
      armed := q.armed.filter fun x => !(x.entry == a.entry && x.t == a.t) }) (putArmed s a b)
    kernelDone (stepFault s b 6 r bad.length) b

/-- KERNEL_LAUNCH: the region's edges, at which its armed entries fire (R206 to R208); and the entries that have
fallen due in a region that may not fire (R178). -/
def execKernelLaunch (region : Nat) (edges : List W32) (s : State) : Host.Outcome State Fault Refusal :=
  onRegion region s fun s =>
    let s := regionEdges region edges s
    if (s.region region).usable then s
    else (s.tsu.plate.armed.filter fun a => a.left.getLsbD region && stGe (s.now .tsu) a.t).foldl unsyncFault s

/-! ### Conditions (R208 to R210) -/

/-- The decision edge of an armed entry: the last time-clock edge at or before D = T - 256 tu, or any edge once D
has passed (R209). -/
def decisionDue (s : State) (a : Armed) : Bool :=
  let d := a.t - tu 256
  let next : BitVec 96 := s.tsu.b.t.acc + BitVec.ofInt 96 (tickInc s.tsu.b.t.trim)
  decide (0 < (next - (d.setWidth 96 <<< 32)).toInt) || stGe (s.now .tsu) d

/-- The outcome of a decision (R209, R210). -/
def decide1 (a : Armed) (s : State) : State :=
  if entryHolds s a.e then putArmed s a { a with cond := .released }
  else if entPolicy a.e = 1 then
    let s := dropArmed s a
    launchRecord (s.event .tsu 0x025 (dieFlt s) 1) (armedRecord a 4 (firstTarget a) (popcount 144 a.mask.toNat) 0)
  else if entPolicy a.e = 2 then putArmed s a { a with cond := .holding }
  else stepFault (dropArmed s a) a 5 (firstTarget a) (popcount 144 a.mask.toNat)

/-- CONDITION_DECIDE: at the decision edge the TSU reads COND_CTR and releases the entry or applies its POLICY
(R209, R210). -/
def execConditionDecide (entry : Nat) (s : State) : Host.Outcome State Fault Refusal :=
  .next <|
    match s.tsu.plate.armed.find? fun a => a.entry == entry && a.cond == .waiting && decisionDue s a with
    | none => s
    | some a => decide1 a s

/-- HOLD_EXPIRE: at its hold end a held entry is released, with a HOLD_EXPIRED record to come (R210). -/
def execHoldExpire (entry : Nat) (s : State) : Host.Outcome State Fault Refusal :=
  .next <|
    match s.tsu.plate.armed.find? fun a => a.entry == entry && a.cond == .holding && stGe (s.now .tsu) (holdEnd a) with
    | none => s
    | some a => putArmed s a { a with cond := .released, kind := 3 }

/-- The first entry of a region's queue that waits for a release. -/
def regionWaits (r : Region) (entry : Nat) : Option RegArm :=
  r.armed.find? fun x => x.entry == entry && x.cond && !x.released

/-- REGION_RELEASE_RECEIVE: the entry fires at its launch edge or at the first edge after (R208, R442). -/
def execRegionReleaseReceive (region entry : Nat) (s : State) : Host.Outcome State Fault Refusal :=
  onRegion region s fun s =>
    match regionWaits (s.region region) entry with
    | none => s
    | some x => s.modRegion region fun r => { r with armed := r.armed.replace x { x with released := true } }

/-- REGION_CANCEL_RECEIVE: the region drops the entry (R208, R442). -/
def execRegionCancelReceive (region entry : Nat) (s : State) : Host.Outcome State Fault Refusal :=
  onRegion region s fun s =>
    match regionWaits (s.region region) entry with
    | none => s
    | some x => s.modRegion region fun r => { r with armed := r.armed.erase x }

/-! ### Actions (R196 to R201) -/

/-- CTR_ADD: n is added under the counter rules (R197, R221). -/
def execCtrAdd (entry : Nat) (s : State) : Host.Outcome State Fault Refusal :=
  .next <| plateAction s entry 2 fun a s => (ctrOp s (entTarget a.e) (.add (entArg a.e)) (plateSrc entry)).1

/-- CTR_SUB: n is subtracted under the counter rules (R197, R221). -/
def execCtrSub (entry : Nat) (s : State) : Host.Outcome State Fault Refusal :=
  .next <| plateAction s entry 3 fun a s => (ctrOp s (entTarget a.e) (.sub (entArg a.e)) (plateSrc entry)).1

/-- T as a stamp: its ST, coarse count and taps (R411, R416). -/
def trigStamp (s : State) (t : St) : St × Nat × Nat :=
  let back := elapsed (s.now .tsu) t
  let n := (back + 63) / 64
  (t, s.tsu.b.perf.cycles.toNat - n, n * 64 - back)

/-- What a TIM_TRIG does on its channel (R416, R419). ARGUMENT 0b11 names no mode and does nothing. -/
def timTrigDo (ch mode : Nat) (t : St) (s : State) : State :=
  if mode = 0 then
    let s := chanPut .tsu ch { st := t, trig := true, tag := 0 } s
    if s.tsu.b.fr.trigChannel = ch then s.frTrigger .tsu 3 ch t else s
  else if mode = 3 then s
  else (List.range (unitCount .tsu)).foldl (intTrig .tsu ch (decide (mode = 2)) (trigStamp s t)) s

/-- TIM_TRIG: a stamp of T itself, or the start or stop of an interval (R198, R416, R419). -/
def execTimTrig (entry : Nat) (s : State) : Host.Outcome State Fault Refusal :=
  .next <| plateAction s entry 5 fun a s => timTrigDo (entTarget a.e % 8) ((entArg a.e).toNat % 4) a.t s

/-- TS_OUT: the pin rises for ARGUMENT ns, clamped to 4 to 1,000,000; a pulse that falls due while the pin is high
extends the high time (R199). -/
def execTsOut (entry : Nat) (s : State) : Host.Outcome State Fault Refusal :=
  .next <| plateAction s entry 6 fun a s =>
    let fall := actionAt s a + tu (tsOutWidth (entArg a.e).toNat * 64)
    s.modDie fun d => { d with
      tsOut := true, tsOutFall := if d.tsOut && stLater d.tsOutFall fall then d.tsOutFall else fall }

/-- TS_OUT_PULSE_END: the pin falls when its high time has elapsed (R199). -/
def execTsOutPulseEnd (s : State) : Host.Outcome State Fault Refusal :=
  .next <|
    if s.tsu.die.tsOut && stGe (s.now .tsu) s.tsu.die.tsOutFall then s.modDie fun d => { d with tsOut := false } else s

/-- STROBE: a pulse and the epoch number on a lane; two on one lane at one edge give one pulse, counted in
STROBE_COLLIDE (R200, R450). -/
def execStrobe (entry : Nat) (s : State) : Host.Outcome State Fault Refusal :=
  .next <| plateAction s entry 7 fun a s =>
    let lane := entTarget a.e % 8
    let edge := s.tsu.b.perf.cycles + 1
    let hit := decide ((tget (0, 0) s.tsu.die.strobes lane).1 = edge)
    let s := s.modDie fun d => { d with strobes := tset (0, 0) d.strobes lane (edge, entArg a.e) }
    if hit then s.count .tsu .strobeCollide 0 {} 1 else s

/-- A CLOSE message (R288, R292). -/
def closeMsg (s : State) (sg : Nat) (step : Step) (arg : W32) : LedgerMsg := {
  op := 9, src := s.node .tsu, opId := s.tsu.sync.opId, req := 0, gen := 0, status := 0, mbx := 0,
  submitSt := s.now .tsu, entry := zeroEntry, sg, step, arg }

/-- STEP_CLOSE: the die sends the CLOSE of its serving group on both planes (R198, R292). -/
def execStepClose (entry : Nat) (s : State) : Host.Outcome State Fault Refusal :=
  .next <| plateAction s entry 8 fun a s =>
    let c := cellNow s .tsu s.tsu.die.sliceId (.ledger (closeMsg s (entTarget a.e % 256) a.step (entArg a.e)))
    let s := s.modSync fun y => { y with opId := y.opId + 1 }
    (planesOn s).foldl (fun s i => sendP2 s .tsu i c) s

/-- STEP_FAULT_CLEAR: the plate resumes at the next boundary (R214). -/
def execStepFaultClear (s : State) : Host.Outcome State Fault Refusal :=
  .next <| s.modPlate fun p => { p with fault := false }

end Sys2Proof.Machine
end

