-- ==== Sys2Proof/Machine/CollectDie.lean ====
section
/-! DEFINITION. Collects at the die: descriptors in force, starts, plane copies, release, comparison, retry and
completion (R253 to R258, R275 to R280, R328 to R331). -/

namespace Sys2Proof.Machine

open Sys2Proof

/-! ### Descriptors and instances -/

def shapeOf (d : Desc) : Shape := { op := d.op, ty := d.type, k := d.k, elems := d.elems }

/-- The descriptor in force at a step that starts at `start` (R253, R280). -/
def descFor (s : State) (desc : Nat) (start : St) : Option Desc :=
  let f := s.tsu.fab
  if f.descFrom.any fun x => stLater x start then tget none f.oldDescs desc
  else if s.tsu.plate.switchAt.any fun x => stGe start x then
    match f.descDue.find? fun e => e.1 == desc with
    | some e => some e.2
    | none => tget none f.descs desc
  else tget none f.descs desc

/-- Whether this die is a member of a group (R240). -/
def dieMember (s : State) (g : Nat) : Bool := (hallOf s g).valid && (hallOf s g).member

/-- The length of step `n`, for the instance's deadline of R255. -/
def stepLen (s : State) (n : Step) : Nat :=
  (((s.tsu.turn.segs.filter fun g => decide (0 ≤ stepDiff n g.first)).getLast?).map (·.len)).getD s.tsu.turn.len

/-- The instance deadline of R255: 32 lengths after the start of its step. -/
def instDeadline (start : St) (len : Nat) : St := start + tu (32 * len)

def State.modFab (s : State) (f : DieFabric → DieFabric) : State := { s with tsu.fab := f s.tsu.fab }

/-- Remembers that a (descriptor, step) has been started or delivered; steps more than 64 back are forgotten. -/
def markDone (s : State) (desc : Nat) (n : Step) : State :=
  s.modFab fun f => { f with
    done := (f.done.filter fun e => decide (stepDiff s.tsu.turn.step e.2 < 64) && e != (desc, n)) ++ [(desc, n)] }

/-! ### Records and cells (R258 to R260) -/

/-- `n` bytes of collect memory from `a`. -/
def memBytes (s : State) (a n : Nat) : List Byte := (List.range n).map fun i => tget 0 s.tsu.fab.mem (a + i)

def memWrite (s : State) (a : Nat) (bs : List Byte) : State :=
  s.modFab fun f => { f with mem := (bs.zip (List.range bs.length)).foldl (fun m x => tset 0 m (a + x.2) x.1) f.mem }

/-- The record of a start: head, elements formed from the snapshot, tail (R258, R260). -/
def startRecord (s : State) (d : Desc) (tag : W32) (deadline release : St) : List Byte :=
  let h := shapeOf d
  let w := contribWidth h
  let els := (List.range h.elems).map fun j =>
    let bs := memBytes s (d.contribBuf * 8 + j * w) w
    formElem h (leNat bs) ((List.range h.k).map fun i => leNat ((bs.drop (8 * i)).take 8))
  headBytes { shape := h, group := d.group, tag, deadline, release }
    ++ els.flatMap (fun e => beBytes (wireWidth h) e.1)
    ++ tailBytes { status := 0, flags := bit (els.any (·.2)) * 2 ^ flNan, contrib := 1 }

/-! ### Completion (R278) -/

/-- What a completion says beyond its status. -/
structure Fin where
  unverified : Bool := false
  part_ : Bool := false
  late : Bool := false
  planeB : Bool := false
  contrib : Nat := 0
  flags : W32 := 0

/-- COLLECT_DONE to NOTIFY_CORE; the completion counts as its flags and status say (R436). -/
def collectDone (s : State) (d : Desc) (desc : Nat) (n : Step) (st : Status) (x : Fin) : State :=
  let s := if x.late then s.event .tsu 0x042 (dieFlt s) 1 else s
  let s := if x.unverified then s.event .tsu 0x043 (dieFlt s) 1 else s
  let s := if st = .planeDisagree then s.count .tsu .planeDisagree 0 (dieFlt s) 1 else s
  if 575 < d.notifyCore then s
  else msgPut s {
    core := d.notifyCore, kind := 5, status := st, unverified := x.unverified, part_ := x.part_, late := x.late
    planeB := x.planeB, tag := n.extractLsb' 0 16, id := desc, count := x.contrib, value := x.flags, stLo := stLo s }

/-- An instance leaves, with its completion. -/
def instEnd (s : State) (i : Inst) (st : Status) (x : Fin) : State :=
  let s := markDone (s.modFab fun f => { f with insts := f.insts.erase i }) i.desc i.step
  collectDone s i.d i.desc i.step st { x with late := x.late || i.lateStart }

/-- Every instance in flight completes with a status and writes nothing: NO_TIME, or CANCELLED at a slice step reset
(R280). -/
def instsEnd (s : State) (st : Status) : State := s.tsu.fab.insts.foldl (fun s i => instEnd s i st {}) s

/-! ### Starts (R256 to R258) -/

/-- A start of (DESC, s): the state and the status, PENDING once the record is sent (R257). -/
def startCollect (s : State) (desc : Nat) (tag : W32) (n : Step) (start : St) (len : Nat) :
    State × Status :=
  let fail := fun (s : State) (st : Status) => match descFor s desc start with
    | some d => (collectDone s d desc n st {}, st)
    | none => (s, st)
  let busy := fun (s : State) => fail (s.count .tsu .collectBusy 0 (dieFlt s) 1) .busy
  match dieRefusesNew s, descFor s desc start with
  | some st, _ => fail s st
  | none, none => (s, .badCommand)
  | none, some d =>
    if !d.valid then fail s .badCommand
    else if !dieMember s d.group then fail s .notMember
    else
      let mine := s.tsu.fab.insts.find? fun i => i.desc == desc && i.step == n
      if (mine.any (·.started)) || s.tsu.fab.done.contains (desc, n) then busy s
      else if mine.isNone && decide (64 ≤ s.tsu.fab.insts.length) then busy s
      else
        let deadline := start + tu d.deadlineOfs
        let release := start + tu d.releaseOfs
        let late := stLater (s.now .tsu) deadline
        let i := mine.getD {
          desc, d, step := n, start, deadline := instDeadline start len, release
          opened := s.now .tsu, started := true, tag }
        let i' := { i with started := true, lateStart := late, tag, opened := s.now .tsu }
        let s := s.modFab fun f => { f with
          insts := if mine.isSome then f.insts.replace i i' else f.insts ++ [i'] }
        if late then (s, .late)
        else
          let s := s.event .tsu 0x040 (dieFlt s) 1
          let inst := n.toNat % 64
          (sendRecord s .tsu (planesOn s) (cellNow s .tsu s.tsu.die.sliceId (.collectUp { desc, inst, data := [] })) (fun bs => .collectUp { desc, inst, data := bs })
            (startRecord s d tag deadline release), .pending)

/-- COLLECT: a plate entry starts the collect of its descriptor at T (R198, R256). -/
def execCollect (entry : Nat) (s : State) : Host.Outcome State Fault Refusal :=
  .next <| plateAction s entry 4 fun a s =>
    (startCollect s (entTarget a.e % 1024) (entArg a.e) a.step (a.t - tu (entOffset a.e)) (stepLen s a.step)).1

/-- COLLECT_START from a core: the current step or the next one (R256). -/
def portCollectStart (core : Nat) (ctag : BitVec 16) (desc : Nat) (tag : W32) (step : Step) (s : State) : State :=
  let u := s.tsu.turn
  match dieRefusesNew s with
  | some x => complete (startCollect s desc tag step u.start u.len).1 core ctag x 0
  | none =>
    if !u.started || (step != u.step && step != u.step + 1) then complete s core ctag .badCommand 0
    else match u.stepStart step with
      | none => complete s core ctag .badCommand 0
      | some st =>
        let r := startCollect s desc tag step st (stepLen s step)
        complete r.1 core ctag r.2 0

def execCollectStart (core : Nat) (ctag : BitVec 16) (desc : Nat) (tag : W32) (step : Step) (s : State) :
    Host.Outcome State Fault Refusal :=
  onCore core s (portGate core (.collectStart core ctag desc tag step)
    (portCollectStart core ctag (desc % 1024) tag step))

/-! ### Plane copies (R257, R275) -/

/-- The step that a cell's INST names: the latest step with those low bits that is not later than the next one. -/
def stepOfInst (s : State) (inst : Nat) : Step :=
  let top := s.tsu.turn.step + 1
  top - BitVec.ofNat 48 ((top - BitVec.ofNat 48 inst).toNat % 64)

/-- A further cell of a copy. A record is whole when its last cell came, none was lost, and its length is that of its
shape, or a short BUSY or CANCELLED record (R262). -/
def copyCell (now : St) (d : Desc) (last : Bool) (data : List Byte) (c : Copy) : Copy :=
  if c.whole || c.broken then c
  else
    let cells := c.cells + 1
    let bs := c.bytes ++ data
    let ok := decide (cells = recordCells (shapeOf d) true) || (decide (cells = 1) && shortRecord last bs)
    { c with bytes := bs, cells, whole := last && ok, broken := last && !ok, at_ := now }

def instCell (s : State) (i : Inst) (planeB last : Bool) (data : List Byte) : State :=
  let f := copyCell (s.now .tsu) i.d last data
  let i' := match i.resent, planeB with
    | none, false => { i with a := f i.a }
    | none, true => { i with b := f i.b }
    | some _, false => { i with a2 := f i.a2 }
    | some _, true => { i with b2 := f i.b2 }
  s.modFab fun x => { x with insts := x.insts.replace i i' }

/-- Opens an instance for delivery only (R257): its times are those of the record's head. -/
def instOpen (s : State) (desc inst : Nat) (data : List Byte) : Option Inst :=
  let n := stepOfInst s inst
  let h := headOf data
  match tget none s.tsu.fab.descs desc with
  | none => none
  | some d0 =>
    let start := h.deadline - tu d0.deadlineOfs
    match descFor s desc start with
    | none => none
    | some d =>
      if !d.valid || !dieMember s d.group || s.tsu.fab.done.contains (desc, n) then none
      else some {
        desc, d, step := n, start := h.deadline - tu d.deadlineOfs
        deadline := instDeadline (h.deadline - tu d.deadlineOfs) (stepLen s n), release := h.release
        opened := s.now .tsu, started := false }

/-- The deadline of an instance has not passed, for the epoch rule (R43, R255). -/
def instInTime (s : State) (desc inst : Nat) : Bool :=
  match s.tsu.fab.insts.find? fun i => i.desc == desc && i.step.toNat % 64 == inst with
  | some i => inTime s .tsu i.deadline
  | none => true

/-- The bytes that a port's copy of a cell's instance holds already. -/
def copyBytes (s : State) (a : Arr) (c : CollectCell) : List Byte :=
  match s.tsu.fab.insts.find? fun i => i.desc == c.desc && i.step.toNat % 64 == c.inst with
  | none => []
  | some i => (match i.resent, a.port == 1 with
    | none, false => i.a | none, true => i.b | some _, false => i.a2 | some _, true => i.b2).bytes

/-- COLLECT_RESULT_RECEIVE: one cell of a plane's copy; the first one of an unknown instance opens it for delivery, and
one that finds 64 in flight is discarded and counted (R257, R275). -/
def execCollectResultReceive (a : Arr) (c : CollectCell) (s : State) : Host.Outcome State Fault Refusal :=
  onPort .tsu a.port s fun s =>
    match dieIn s a 7 (c.desc * 64 + c.inst) (tailBad true a.last (copyBytes s a c ++ c.data))
        (fun s => instInTime s c.desc c.inst) with
    | (s, .ok) =>
      match s.tsu.fab.insts.find? fun i => i.desc == c.desc && i.step.toNat % 64 == c.inst with
      | some i => instCell s i (a.port == 1) a.last c.data
      | none =>
        if !a.first then s
        else match instOpen s c.desc c.inst c.data with
          | none => s
          | some i =>
            if 64 ≤ s.tsu.fab.insts.length then s.count .tsu .collectBusy 0 (dieFlt s) 1
            else instCell (s.modFab fun f => { f with insts := f.insts ++ [i] }) i (a.port == 1) a.last c.data
    | (s, _) => s

/-! ### Comparing and delivering (R275 to R277, R329, R330) -/

/-- What a whole copy is: the status of a BUSY or CANCELLED record, or a result record. -/
inductive CopyIs
  | missing
  | ended (st : Status)
  | record (bs : List Byte)
deriving DecidableEq, Repr

def copyIs (d : Desc) (c : Copy) : CopyIs :=
  if !c.whole then .missing
  else
    let n := recordLen (shapeOf d) true
    let st := if c.cells = 1 && shortRecord true c.bytes then fieldAt c.bytes 32 1 else (tailOf c.bytes n).status
    if st = 2 then .ended .busy else if st = 0x13 then .ended .cancelled else .record (c.bytes.take n)

/-- Writes a copy and completes (R275, R278). `st` is PLANE_DISAGREE where the other copy was rejected. -/
def collectWrite (s : State) (i : Inst) (bs : List Byte) (planeB unverified late disagree : Bool) : State :=
  let h := shapeOf i.d
  let t := tailOf bs (recordLen h true)
  let part_ := tbit t.flags flPartial
  let late' := late || i.lateStart
  let st : Status := if disagree then .planeDisagree else if part_ then .partialResult else if unverified then .unverified
    else if late' then .late else .ok
  let s := memWrite s (i.d.resultBuf * 8) (resultBytes h i.d.wide bs)
  let s := deliveryAdd s i.d.doneCtr 2 i.desc
  let s := if i.started then s.hist .tsu 4 (stDiff (s.now .tsu) i.opened) (dieFlt s) else s
  let s := if late then s.modFab fun f => { f with
      lateLast := BitVec.ofNat 64 (i.desc + i.step.toNat % 2 ^ 16 * 2 ^ 16
        + sat 0xFFFFFFFF (elapsed (s.now .tsu) i.release) * 2 ^ 32) } else s
  instEnd s i st {
    unverified, part_, late, planeB, contrib := t.contrib
    flags := BitVec.ofNat 32 (bit (wraps h bs) * 2 ^ 31 + bit (tbit t.flags flMismatch) * 2 ^ 30
      + bit (tbit t.flags flNan) * 2 ^ 29 + bit (tbit t.flags flOvf) * 2 ^ 28 + bit (tbit t.flags flTorn) * 2 ^ 27) }

/-- The operation reference of a collect in reports (R339). -/
def collectRef (desc : Nat) (n : Step) : Nat := (desc * 64 + n.toNat % 64) * 65536 + n.toNat % 65536

/-- The suspect event for a copy whose residues fail, unless a part nearer the fault has raised it (R332, R333). -/
def copyFailed (s : State) (i : Inst) (bs : List Byte) (port : Nat) : State :=
  let h := shapeOf i.d
  match ((elemsOf h bs).map (resDiff h.op)).find? (· != 0) with
  | none => s
  | some x =>
    if tbit (tailOf bs (recordLen h true)).flags flResFail then s
    else suspect s .tsu (neighbour s .tsu port) causeResidue {
      opref := BitVec.ofNat 32 (collectRef i.desc i.step)
      port := some port
      detail := BitVec.ofNat 32 x }

/-- RESEND_RESULT: the die retries once, asking the top on each plane, with a split report (R330, R331). -/
def collectRetry (s : State) (i : Inst) : State :=
  let v : Vote := {
    src := s.node .tsu, dst := allRoots, me := s.tsu.b.ep.me, eventSt := s.now .tsu
    body := .resend s.tsu.die.sliceId (i.desc * 64 + i.step.toNat % 64) false i.step }
  let s := sendVotes s .tsu [0, 1] v
  let s := s.modFab fun f => { f with insts := f.insts.replace i { i with resent := some (s.now .tsu) } }
  splitEvent s (collectRef i.desc i.step) 0

/-- Two result records that differ (R276, R329). -/
def collectDiffer (s : State) (i : Inst) (x y : List Byte) (late : Bool) : State :=
  let h := shapeOf i.d
  let n := recordLen h true
  let tx := tailOf x n
  let ty := tailOf y n
  if tx.contrib ≠ ty.contrib then
    let bBigger := decide (tx.contrib < ty.contrib)
    let big := if bBigger then ty else tx
    let small := if bBigger then tx else ty
    let useB := if tbit big.flags flTorn && !tbit small.flags flTorn then !bBigger else bBigger
    let bs := if useB then y else x
    if verifies h bs then collectWrite s i bs useB true late false else instEnd s i .planeDisagree { late }
  else if hasResidue h.op && verifies h x && !verifies h y then
    collectWrite (copyFailed s i y 1) i x false false late true
  else if hasResidue h.op && !verifies h x && verifies h y then
    collectWrite (copyFailed s i x 0) i y true false late true
  else collectRetry s i

/-- COLLECT_COMPARE: the decision on the copies held (R276, R277). -/
def collectDecide (s : State) (i : Inst) (late : Bool) : State :=
  let h := shapeOf i.d
  let single := fun (bs : List Byte) (planeB : Bool) =>
    if verifies h bs then collectWrite s i bs planeB true late false
    else instEnd (copyFailed s i bs (bit planeB)) i .planeDisagree { late }
  let ended := fun (st : Status) =>
    instEnd (if st = .busy then s.count .tsu .collectBusy 0 (dieFlt s) 1 else s) i st { late }
  match copyIs i.d i.a, copyIs i.d i.b with
  | .missing, .missing => s
  | .ended .cancelled, .ended _ => ended .cancelled
  | .ended _, .ended st => ended st
  | .ended st, .missing => ended st
  | .missing, .ended st => ended st
  | .record x, .record y =>
    if x = y then
      (if verifies h x then collectWrite s i x false false late false
       else instEnd (copyFailed (copyFailed s i x 0) i y 1) i .planeDisagree { late })
    else collectDiffer s i x y late
  | .record x, _ => single x false
  | _, .record y => single y true

/-- The decision after a retry, with up to four copies (R330). -/
def collectDecide4 (s : State) (i : Inst) : State :=
  let h := shapeOf i.d
  let recs := [i.a, i.b, i.a2, i.b2].filterMap fun c => match copyIs i.d c with
    | .record bs => some bs
    | _ => none
  let three := recs.find? fun x => decide (3 ≤ (recs.filter (· == x)).length)
  match copyIs i.d i.a2, copyIs i.d i.b2, three with
  | .record x, .record y, t =>
    if x = y && verifies h x then collectWrite s i x false false true false
    else (match t with
      | some z => collectWrite s i z (copyIs i.d i.a != .record z) false true false
      | none => instEnd s i .planeDisagree { late := true })
  | _, _, some z => collectWrite s i z (copyIs i.d i.a != .record z) false true false
  | _, _, none => instEnd s i .planeDisagree { late := true }

/-- When the first copy was whole, if any was. -/
def firstWhole (i : Inst) : Option St :=
  if i.a.whole && i.b.whole then (if stLater i.a.at_ i.b.at_ then some i.b.at_ else some i.a.at_)
  else if i.a.whole then some i.a.at_ else if i.b.whole then some i.b.at_ else none

/-- The instant from which the copies may be decided, RELEASE aside: both in, the deckle passed, or the deadline
(R275). -/
def copiesAt (i : Inst) : Option St :=
  if i.a.whole && i.b.whole then (if stLater i.a.at_ i.b.at_ then some i.a.at_ else some i.b.at_)
  else (firstWhole i).map fun x =>
    let y := x + tu (2 * tickTu)
    if stLater y i.deadline then i.deadline else y

/-- RESULT_KEEP at the die, which has no such register: its default of 16 ticks (R330). -/
def dieResultKeep : Nat := 16 * tickTu

/-- COLLECT_RELEASE: at RELEASE, or as soon after it as the copies allow, the die compares and writes (R275); after a
retry, once both resent copies are in (R330). -/
def execCollectRelease (desc inst : Nat) (s : State) : Host.Outcome State Fault Refusal :=
  .next <|
    let now := s.now .tsu
    match s.tsu.fab.insts.find? fun i => i.desc == desc && i.step.toNat % 64 == inst with
    | none => s
    | some i =>
      if i.resent.isSome then (if i.a2.whole && i.b2.whole then collectDecide4 s i else s)
      else match copiesAt i with
        | none => s
        | some x => if stGe now i.release && stGe now x then collectDecide s i (stLater x i.release) else s

/-- COLLECT_EXPIRE: an instance with no copy by its deadline (R275). -/
def execCollectExpire (desc inst : Nat) (s : State) : Host.Outcome State Fault Refusal :=
  .next <|
    match s.tsu.fab.insts.find? fun i => i.desc == desc && i.step.toNat % 64 == inst with
    | none => s
    | some i =>
      if i.a.whole || i.b.whole || !stGe (s.now .tsu) i.deadline then s
      else instEnd (s.count .tsu .collectExpired 0 (dieFlt s) 1) i .late { late := true }

/-- RESEND_WAIT_EXPIRE: RESULT_KEEP after RESEND, or the instance's deadline (R330). -/
def execResendWaitExpire (desc inst : Nat) (s : State) : Host.Outcome State Fault Refusal :=
  .next <|
    let now := s.now .tsu
    match s.tsu.fab.insts.find? fun i => i.desc == desc && i.step.toNat % 64 == inst with
    | none => s
    | some i =>
      match i.resent with
      | none => s
      | some x => if stGe now (x + tu dieResultKeep) || stGe now i.deadline then collectDecide4 s i else s

end Sys2Proof.Machine
end

