-- ==== Sys2Proof/Machine/RefOps.lean ====
section
/-! DEFINITION. References at a root: phase errors, validity, quality keys, the roots' votes and the steering of the
rate (R73 to R90, R95, R471). Rates are in 10^-8 ppb and phases in ps. -/

namespace Sys2Proof.Machine

def State.modRefs (s : State) (f : Refs → Refs) : State := { s with dist.refs := f s.dist.refs }
def State.refIn (s : State) (i : Nat) : RefIn := tget {} s.dist.refs.ins i
def State.modRefIn (s : State) (i : Nat) (f : RefIn → RefIn) : State :=
  s.modRefs fun r => { r with ins := tmod {} r.ins i f }

/-- Inputs 0 to 3 (R73). -/
def phaseCapable (i : Nat) : Bool := decide (i ≤ 3)

/-! ### Phase errors (R78, R84, R471) -/

/-- One second in tu. -/
def secTu : Nat := 64000000000

/-- tu as ps, toward minus infinity. -/
def tuPs (x : Int) : Int := x * 125 / 8

/-- The record against which e is measured: a pending one while it is being sent (R84). A wrap record maps alike and is
left aside (R32). -/
def phaseRec (s : State) : MapRec :=
  match s.dist.b.map.next with
  | some r => if r.effect = 0 then s.dist.b.map.cur else r
  | none => s.dist.b.map.cur

/-- The offset from the nearest whole second, in tu. -/
def secOffset (x : Int) : Int := (x + secTu / 2) % secTu - secTu / 2

/-- REF_CABLE_DELAY of an input, in tu (R471). -/
def cableDelay (s : State) (i : Nat) : Int := signedOf 32 (s.cfg .dist (0x1180 + 8 * i) 0)

/-- A phase measurement of an input: its e, and its move beyond the root's own steering (R78). Without the steering e
would have stood higher by what y_c has moved the hall since. -/
def refMeasure (s : State) (i : Nat) (e : Int) : State :=
  let now := s.dist.refs.steered
  s.modRefIn i fun x => { x with
    phase := some e, mark := now
    lastJump := match x.phase with
      | some old => e - old + (now - x.mark) / 10 ^ 20
      | none => 0 }

/-- A 1PPS edge of a pair, stamped on channel 132 or 133 (R77, R410): it stands for a whole second. -/
def refStamp (s : State) (n : Nat) (st : St) : State :=
  if s.role == .root && (n == 132 || n == 133) then
    let r := phaseRec s
    let x : Int := (r.originTu + (st.toNat % secTu) : Nat)
    refMeasure s (n - 132) (tuPs (cableDelay s (n - 132) - secOffset x))
  else s

/-- A record that moves the origin by `d` tu moves every measured error at once (R84, R87). A 1PPS edge names no
second. -/
def phasesMove (s : State) (d : Int) : State :=
  s.modRefs fun r => { r with ins := tmapAll {} (fun i x => { x with
    phase := x.phase.map fun e =>
      if i < 2 then (e - tuPs d + 500000000000) % 1000000000000 - 500000000000 else e - tuPs d }) r.ins }

/-! ### Validity and eligibility (R76 to R81) -/

/-- The class that a quality level has (R80); none for the levels that make the input fail. -/
def qlClass : Ql → Option Nat
  | .prtc | .eprtc | .prc | .eprc | .prs => some 6
  | .ssuA | .st2 => some 135
  | .ssuB | .st3e => some 165
  | .eec1 | .eec2 | .sec | .st3 => some 187
  | .dnu | .dus => none

/-- The quality key (R80). -/
def refKey (s : State) (i : Nat) : Nat :=
  match i with
  | 0 => s.cfg .dist 0x1090 0x0622 % 2 ^ 16
  | 1 => s.cfg .dist 0x1098 0x0622 % 2 ^ 16
  | 2 => (tget {} s.dist.refs.ptp 0).cls * 256 + (tget {} s.dist.refs.ptp 0).acc
  | 3 => (tget {} s.dist.refs.ptp 1).cls * 256 + (tget {} s.dist.refs.ptp 1).acc
  | 4 => ((s.dist.refs.ql.bind qlClass).getD 255) * 256 + 0xFE
  | _ => 248 * 256 + 0xFE

/-- Whether an input meets every test of R77 that the state shows. -/
def refTests (s : State) (i : Nat) : Bool :=
  let r := s.dist.refs
  match i with
  | 0 | 1 => (s.refIn i).ppsOk && (s.refIn i).clkOk
  | 2 | 3 =>
    let p := tget {} r.ptp (i - 2)
    p.state == 3 && decide (p.cls < 255)
  | 4 => (s.refIn 4).clkOk && (r.ql.bind qlClass).isSome
      && r.esmcAt.any (fun t => decide (elapsed (s.now .dist) t ≤ 5 * secTu))
  | _ => true

/-- WTR_TIME in tu (R79). -/
def wtrTime (s : State) : Nat := clampN 0 600 (s.cfg .dist 0x11D0 0x0A) * secTu

/-- An input that now meets its tests is valid; one that has failed since power-up waits WTR_TIME (R79). -/
def refRecheck (s : State) (i : Nat) : State :=
  let x := s.refIn i
  if x.valid || !refTests s i then s
  else
    let wait := x.failed && decide (wtrTime s ≠ 0)
    s.modRefIn i fun x => { x with
      valid := true, validSince := some (s.now .dist), wtr := wait, eligible := !wait }

/-- An input is declared failed: its wait, if one runs, starts again (R79). -/
def refFail (s : State) (i : Nat) : State :=
  s.modRefIn i fun x => { x with valid := false, validSince := none, failed := true, wtr := false, eligible := false }

/-- Whether selection may choose an input (R79, R81): REF_ENABLE's bit for the OCXO is always 1. -/
def refEligible (s : State) (i : Nat) : Bool :=
  i == 5 || ((s.refIn i).eligible && tbit (s.cfg .dist 0x1080 0x3F) i
    && decide (refKey s i / 256 ≤ clampN 6 247 (s.cfg .dist 0x11E8 0xBB)))

/-- PULL_WINDOW, LOST_LIMIT and REF_DISAGREE, in ps (R86, R95). -/
def pullWindow (s : State) : Nat := clampN 1000 1000000 (s.cfg .dist 0x11C0 0x4E20) * 1000
def lostLimit (s : State) : Nat := clampN 1000 1000000 (s.cfg .dist 0x11C8 0x2710)
def refDisagree (s : State) : Nat := clampN 20 10000 (s.cfg .dist 0x11E0 0xC8) * 1000
/-- PHASE_JUMP_LIMIT in ps (R78). -/
def phaseJumpLimit (s : State) : Nat := clampN 100 100000 (s.cfg .dist 0x11D8 0x3E8) * 1000

/-- far(i) (R82, R87). -/
def refFar (s : State) (i : Nat) : Bool :=
  phaseCapable i && (s.dist.refs.state == .locked || s.dist.refs.state == .holdover)
    && (s.refIn i).phase.any fun e => decide (pullWindow s < e.natAbs)

/-- REF_PRIORITY of an input (R82). -/
def refPrio (s : State) (i : Nat) : Nat := bits (s.cfg .dist 0x1088 0x543210) (4 * i + 3) (4 * i)

/-- better(a, b) of R82. -/
def refBetter (s : State) (a b : Nat) : Bool :=
  if refKey s a ≠ refKey s b then decide (refKey s a < refKey s b)
  else if phaseCapable a != phaseCapable b then phaseCapable a
  else if refPrio s a ≠ refPrio s b then decide (refPrio s a < refPrio s b)
  else decide (a < b)

/-- select() of R82. -/
def refSelect (s : State) : Nat :=
  (List.range 5).foldl (fun best i =>
    if refEligible s i && !refFar s i && refBetter s i best then i else best) 5

/-! ### One time from three roots (R95) -/

/-- The vote indices whose roots are LOCKED. -/
def lockedVotes (r : Refs) : List (Nat × RefVote) := r.votes.filter fun v => v.2.have_ && v.2.state == 2

def median3 (a b c : Int) : Int := max (min a b) (min (max a b) c)

/-- e_used and its flags from the LOCKED roots (R95). -/
def refJudge (lim : Nat) (r : Refs) : Refs :=
  let r := { r with eUsed := none, outlier := 0, conflict := false, unchecked := false }
  match lockedVotes r with
  | [a, b, c] =>
    let m := median3 a.2.ePs b.2.ePs c.2.ePs
    let out := ([a, b, c].filter fun v => decide (lim < (v.2.ePs - m).natAbs)).map Prod.fst
    { r with eUsed := some m, outlier := out.foldl (fun x i => x ||| BitVec.ofNat 3 (2 ^ i)) 0 }
  | [a, b] =>
    if (a.2.ePs - b.2.ePs).natAbs ≤ lim then { r with eUsed := some ((a.2.ePs + b.2.ePs) / 2) }
    else { r with conflict := true }
  | [a] => { r with eUsed := some a.2.ePs, unchecked := true }
  | _ => r

/-- The reference state sent in markers (R95). -/
def hallState (r : Refs) : RefState :=
  if r.eUsed.isSome then .locked
  else if r.state == .locked || r.state == .holdover then .holdover
  else r.state

/-! ### Steering (R83 to R85) -/

/-- The next free rate of the distributor: a value that the manual does not give (log 5). -/
def drawRate (s : State) : Int × State :=
  (Config.freeRate s.dist.b.drawn, s.modBase .dist fun b => { b with drawn := b.drawn + 1 })

/-- 5 ppb/s over one update of 1,024 ticks, in 10^-8 ppb: 131,072. -/
def slewStep : Int := 131072
/-- 50 ppb and 4.6 ppm in 10^-8 ppb. -/
def slewMax : Int := 5000000000
def ysMax : Int := 460000000000

/-- |goal| of R85 for |e| in ps: min(50 ppb, sqrt(2 a |e|)). -/
def pullGoal (e : Int) : Int :=
  let g : Int := min slewMax (isqrt (10 ^ 14 * e.natAbs) : Nat)
  if e < 0 then -g else g

/-- One update of the pull (R85). -/
def pullStep (e yc : Int) : Int := yc + clampI (-slewStep) slewStep (pullGoal e - yc)

/-- The trim of the root's clock for a rate in 10^-8 ppb, in 2^-32 tu per ns (R83). -/
def rateTrim (y : Int) : Int := y * (64 * 2 ^ 32) / 10 ^ 17

end Sys2Proof.Machine
end

