-- ==== Sys2Proof/Machine/HeadstockOps.lean ====
section
/-! DEFINITION. The Headstock's shared operations: completions, taking a mailbox command, guards (R382 to R390). -/

namespace Sys2Proof.Machine

def State.modHs (s : State) (p : Part) (f : Headstock → Headstock) : State := s.modBase p fun b => { b with hs := f b.hs }
def State.mbox (s : State) (m : Nat) : Mailbox := tget {} s.tsu.mbs m
def State.modMbox (s : State) (m : Nat) (f : Mailbox → Mailbox) : State :=
  { s with tsu := { s.tsu with mbs := tmod {} s.tsu.mbs m f } }
def State.modSv (s : State) (f : Service → Service) : State := { s with dist.sv := f s.dist.sv }

/-! ### Completions (R386 to R388) -/

/-- Writes one completion into a mailbox's ring, then raises its vector; into a full ring none is written, and it is
held (R386, R388). -/
def cplPost (s : State) (m : Nat) (cp : Completion) : State :=
  let b := s.mbox m
  if 64 ≤ (b.cplProd - b.cplCons).toNat then s.modMbox m fun b => { b with held := b.held ++ [cp] }
  else
    irq (s.modMbox m fun b => { b with
      ring := tset none b.ring (b.cplProd.toNat % 64) (some cp), cplProd := b.cplProd + 1 }) m

/-- The completion of a command (R386, R387): into its mailbox at a die; at a distributor back to the part that sent the
command, as a COMPLETION message (R390, R407). A final one counts and may be sampled (R436, R440). -/
def complete_ (s : State) (c : Cmd) (cp : Completion) : State :=
  let now := s.now c.part
  let found : Option (St × Node) := match c.part with
    | .tsu => ((s.mbox c.mbx).open_.find? fun e => e.1 == c.tag).map fun e => (e.2.2, 0)
    | .dist => (s.dist.sv.mbOpen.find? fun e => e.1 == c.tag).map fun e => (e.2.2, e.2.1)
  let sched := (found.map (·.1)).getD now
  let s := match c.part with
    | .tsu =>
      let s := if cp.final then s.modMbox c.mbx fun b => { b with open_ := b.open_.filter (fun e => e.1 != c.tag) } else s
      cplPost s c.mbx cp
    | .dist =>
      let s := s.modSv fun v => { v with remoteCpl := cp :: v.remoteCpl }
      let s := match found with
        | some (_, src) => mgmt s .dist src (.completion cp)
        | none => s
      if cp.final then s.modSv fun v => { v with mbOpen := v.mbOpen.filter (fun e => e.1 != c.tag) } else s
  if cp.final then
    let s := s.event c.part 0x060 {} 1
    let s := if cp.status = .denied then s.event c.part 0x061 {} 1 else s
    s.sample c.part {
      kind := 2, mbx := c.mbx, index := cp.opcode, tag := c.tag.setWidth 32, sched, actual := now, count := 0 }
  else s

/-- A command that a part holds for a later completion, which goes back the way the command came to that part. -/
def ofPart (p : Part) (c : Cmd) : Cmd := { c with part := p }

/-- A final completion without results. -/
def done (s : State) (c : Cmd) (op : Nat) (st : Status) : State :=
  complete_ s c { tag := c.tag, opcode := op, status := st }

/-- A final completion with results. -/
def doneR (s : State) (c : Cmd) (op : Nat) (st : Status) (r0 r1 r2 : W64) : State :=
  complete_ s c { tag := c.tag, opcode := op, status := st, r0, r1, r2 }

/-- A PENDING completion (R387). -/
def pend (s : State) (c : Cmd) (op : Nat) : State :=
  complete_ s c { tag := c.tag, opcode := op, status := .pending, final := false }

/-! ### Taking a command (R387 to R391) -/

/-- Whether a mailbox's completion ring is full (R386, R388). -/
def ringFull (b : Mailbox) : Bool := decide (64 ≤ (b.cplProd - b.cplCons).toNat)

/-- Whether the Headstock takes a command now: its firmware runs, and the mailbox's completion ring is not full and holds no
completion back (R381, R388). -/
def hsReady (s : State) (c : Cmd) : Bool :=
  (s.base c.part).hs.running && (c.part == .dist || (!ringFull (s.mbox c.mbx) && (s.mbox c.mbx).held.isEmpty))

/-- The ST of the doorbell write that produced slot `i` (R440). -/
def bellOf (b : Mailbox) (i : BitVec 16) : Option St :=
  (b.bells.find? fun e => decide (0 < (e.1 - i).toNat ∧ (e.1 - i).toNat ≤ 64)).map (·.2)

/-- The slot of a mailbox command is consumed; a distributor's command counts as mailbox 0 (R387, R390). -/
def cmdTake (s : State) (c : Cmd) (op : Nat) : State :=
  match c.part with
  | .tsu => s.modMbox c.mbx fun b =>
      let cons := if b.cons = b.prod then b.cons else b.cons + 1
      { b with
        cons, open_ := b.open_ ++ [(c.tag, op, (bellOf b b.cons).getD (s.now .tsu))]
        bells := b.bells.filter fun e => e.1 != cons }
  | .dist => s

/-- A mailbox command: `ok` says that the table of R392 allows its mailbox, else it returns DENIED (R391). -/
def onCmd (c : Cmd) (op : Nat) (ok : Bool) (s : State) (f : State → State) : Host.Outcome State Fault Refusal :=
  if c.part = .tsu ∧ 3 < c.mbx then .fault .noSuchUnit
  else .next <|
    if !hsReady s c then s
    else
      let s := cmdTake s c op
      if ok then f s else done s c op .denied

/-- Mailbox 0, as every command at a distributor counts (R390). -/
def isM0 (c : Cmd) : Bool := c.mbx == 0 || c.part == .dist

/-- Whether a command names the slice that its mailbox may act on: any for mailbox 0, the die's own for the others
(R312). -/
def sliceOk (s : State) (c : Cmd) (slice : Nat) : Bool :=
  isM0 c || (s.tsu.die.sliceValid && s.tsu.die.sliceId == slice)

/-! ### Guards (R382, R383) -/

/-- A guard's value: its register, at most the hardware maximum, or its default where the image gave none. -/
def guardVal (b : Base) (i : Nat) (dflt hw : Nat) : Nat :=
  let g := ((b.hs.guards[i]?).getD 0).toNat
  if g = 0 then dflt else min g hw

/-- The next free word of a part: a value that the manual does not give (log 5). -/
def drawWord (s : State) (p : Part) : W32 × State :=
  (Config.freeWord (2 * (s.base p).drawn + bit (p == .dist)), s.modBase p fun b => { b with drawn := b.drawn + 1 })

/-- A write that a guard limits: counted under its number; the first in each 1,024 ticks is recorded (R383). -/
def guardHit (s : State) (p : Part) (g : Nat) (attempted : W64) : State :=
  let s := s.count p .guardHit g {} 1
  let w := 1 + (tickOf (s.now p)).toNat / 1024
  if tget 0 (s.base p).hs.guardLast g = w then s
  else
    let pc := drawWord s p
    (pc.2.modHs p fun h => { h with guardLast := tset 0 h.guardLast g w }).fr p 5
      (beBytes 1 g ++ beBytes 8 attempted.toNat ++ beBytes 4 pc.1.toNat) false

end Sys2Proof.Machine
end

