-- ==== Sys2Proof/Machine/Signals.lean ====
section
/-! DEFINITION. SIGNALs and hall barriers in the fabric and at the die (R231 to R249, R328). -/

namespace Sys2Proof.Machine

open Sys2Proof

/-! ### SIGNAL at its target (R235, R236) -/

/-- The REPLY of an operation, on both planes, with the pair that the operation records (R236, R43). -/
def signalReply (s : State) (ce me : Epoch) (c : SignalCell) (st : Status) (v : W32) : State :=
  let r : SignalCell := { c with
    op := 4, replyReq := false, src := s.node .tsu, dst := c.src, n := 0, status := Status.code st, value := v }
  sendBoth s { cellNow s .tsu s.tsu.die.sliceId (.signal r) with ce, me }

/-- The reply of an operation that asked for one. -/
def signalAnswer (s : State) (ce me : Epoch) (c : SignalCell) (st : Status) (v : W32) : State :=
  if c.replyReq then signalReply s ce me c st v else s

/-- The source that a SIGNAL's operation names in a fault record (R224). -/
def signalSrc (c : SignalCell) : Src :=
  { kind := 2, core := c.srcCore, id := dieIndex c.src, opId := c.opId.toNat }

/-- Performs a SIGNAL once, keeping its payload until its DEADLINE (R235). -/
def signalPerform (s : State) (a : Arr) (c : SignalCell) : State :=
  let now := s.now .tsu
  let s := s.modSync fun y => { y with
    sigIn := (y.sigIn.filter fun e => !stLater now e.cell.deadline)
      ++ [{ src := c.src, opId := c.opId, cell := c, first := now, planeB := a.port == 1 }] }
  match dieRefuses s, signalOp c.op c.n with
  | some x, _ => signalAnswer s a.ce a.me c x 0
  | none, none => signalAnswer s a.ce a.me c .badCommand 0
  | none, some o =>
    if s.tsu.die.state == .parted then signalAnswer s a.ce a.me c .notMember 0
    else
      let r := ctrOp s (c.counter % 4096) o (signalSrc c)
      signalAnswer r.1 a.ce a.me c r.2.1 r.2.2

/-- A further copy of a SIGNAL: compared and discarded, with a split event when it differs (R235, R328). -/
def signalCopy (s : State) (e : SigIn) (c : SignalCell) : State :=
  let s := s.modSync fun y => { y with sigIn := y.sigIn.replace e { e with second := true } }
  if e.cell = c then s else splitEvent s c.opId.toNat 0

/-- SIGNAL_CELL_RECEIVE: the target applies the first good copy once and compares later ones (R235, R43, R252). -/
def execSignalCellReceive (a : Arr) (c : SignalCell) (s : State) : Host.Outcome State Fault Refusal :=
  onPort .tsu a.port s fun s =>
    match dieIn s a 3 c.opId.toNat (decide (0x13 < c.status)) (fun s => inTime s .tsu c.deadline) with
    | (s, .drop) => s
    | (s, .stale) => if c.dst = s.node .tsu then signalAnswer s s.tsu.b.ep.ce s.tsu.b.ep.me c .epochStale 0 else s
    | (s, .ok) =>
      if c.dst ≠ s.node .tsu then s
      else if !inTime s .tsu c.deadline then s.count .tsu .signalExpired 0 (dieFlt s) 1
      else match s.tsu.sync.sigIn.find? fun e => e.src == c.src && e.opId == c.opId with
        | some e => signalCopy s e c
        | none =>
          if s.tsu.sync.closed then signalAnswer (s.count .tsu .ctxDiscard 0 {} 1) a.ce a.me c .cancelled 0
          else signalPerform s a c

/-- SIGNAL_DECKLE_EXPIRE: no second copy by the end of the deckle (R235). -/
def execSignalDeckleExpire (src : Node) (opId : BitVec 16) (s : State) : Host.Outcome State Fault Refusal :=
  .next <|
    match s.tsu.sync.sigIn.find? fun e =>
        e.src == src && e.opId == opId && !e.second && !e.counted && deckleOver s e.first with
    | none => s
    | some e =>
      (s.modSync fun y => { y with sigIn := y.sigIn.replace e { e with counted := true } }).count .tsu .signalSingle 0
        (dieFlt s) 1

/-! ### Replies at the source (R236) -/

/-- The SIGNAL_REPLY message to the issuing core, and the entry freed. -/
def sigOutDone (s : State) (e : SigOut) (st : Status) (v : W32) (planeB unverified : Bool) : State :=
  let s := s.modSync fun y => { y with sigOut := y.sigOut.erase e }
  let s := if unverified then s.event .tsu 0x043 (dieFlt s) 1 else s
  msgPut s {
    core := e.core, kind := 4, status := st, unverified, planeB, tag := e.opId, id := e.counter, value := v
    stLo := stLo s }

/-- SIGNAL_REPLY_RECEIVE: the first reply is kept; the second, compared with it, lets the message go (R236, R328). -/
def execSignalReplyReceive (a : Arr) (c : SignalCell) (s : State) : Host.Outcome State Fault Refusal :=
  onPort .tsu a.port s fun s =>
    match dieIn s a 3 c.opId.toNat (decide (0x13 < c.status)) (fun s => inTime s .tsu c.deadline) with
    | (s, .ok) =>
      match s.tsu.sync.sigOut.find? fun e => e.opId == c.opId with
      | none => s
      | some e =>
        match e.got with
        | none => s.modSync fun y => { y with
            sigOut := y.sigOut.replace e { e with got := some (c, a.port == 1, s.now .tsu) } }
        | some (f, planeB, _) =>
          let s := if f = c then s else splitEvent (s.count .tsu .planeDisagree 0 (dieFlt s) 1) c.opId.toNat 0
          sigOutDone s e ((statusOf f.status).getD .ok) f.value planeB false
    | (s, _) => s

/-- SIGNAL_DEADLINE_EXPIRE: no reply by DEADLINE (R236). -/
def execSignalDeadlineExpire (opId : BitVec 16) (s : State) : Host.Outcome State Fault Refusal :=
  .next <|
    match s.tsu.sync.sigOut.find? fun e => e.opId == opId && e.got.isNone && stGe (s.now .tsu) e.deadline with
    | none => s
    | some e => sigOutDone s e .late 0 false false

/-! ### Forwarding (R234) -/

/-- Whether a first copy from the roots has been forwarded in the last 8 ticks. -/
def seenBefore (s : State) (kind : Nat) (src : Node) (op : Nat) : Bool :=
  s.dist.fab.seen.any fun e => e.kind == kind && e.src == src && e.op == op && stLater e.until_ (s.now .dist)

/-- Remembers a first copy for 8 ticks. -/
def seePut (s : State) (kind : Nat) (src : Node) (op : Nat) : State :=
  let now := s.now .dist
  { s with dist.fab.seen :=
      (s.dist.fab.seen.filter fun e => stLater e.until_ now) ++ [{ kind, src, op, until_ := now + tu (8 * tickTu) }] }

/-- Whether a downward cell of a slice may leave toward a port (R308). -/
def downOk (s : State) (slice port : Nat) : Bool := (sliceMap s slice).getLsbD (portPos s.role port)

/-- The ports that a cell addressed to a die takes from this distributor (R234); `fromUp` says that it came from
above. -/
def dieRoute (s : State) (port : Nat) (dst : Node) (id : Nat) : List Nat :=
  let below := portBelow s.role port
  match s.role with
  | .rack =>
    if nodeRow dst = s.ownRow ∧ nodeRack dst = s.ownRack then [nodeSlot dst] else if below then upPorts s id else []
  | .row => if nodeRow dst = s.ownRow then [attachPort s (nodeRack dst) id] else if below then upPorts s id else []
  | .root => if below then [2 * nodeRow dst + port % 2] else []
  | .none_ => []

/-- The dedup kind of a SIGNAL or REPLY. -/
def signalKind (c : SignalCell) : Nat := if c.op = 4 then 4 else 3

/-- SIGNAL_FORWARD: a distributor routes a SIGNAL or REPLY by DST, a row distributor the first of the roots' copies
(R234, R308). -/
def execSignalForward (a : Arr) (c : SignalCell) (s : State) : Host.Outcome State Fault Refusal :=
  onPort .dist a.port s fun s =>
    match distIn s a 3 c.opId.toNat (decide (0x13 < c.status)) (fun s => inTime s .dist c.deadline) with
    | (s, .ok) =>
      if !dstInSlice s a.slice c.dst then sliceViolation s a
      else
        let fromRoot := s.role == .row && !portBelow s.role a.port
        if fromRoot && seenBefore s (signalKind c) c.src c.opId.toNat then s
        else
          let s := if fromRoot then seePut s (signalKind c) c.src c.opId.toNat else s
          let out : OutCell := { slice := a.slice, ce := a.ce, me := a.me, at_ := s.now .dist, body := .signal c }
          (dieRoute s a.port c.dst c.opId.toNat).foldl (fun s i =>
            if portBelow s.role i && !downOk s a.slice i then s else sendP1 s .dist i out) s
    | (s, _) => s

/-! ### Hall barriers at a distributor (R244, R245, R247) -/

/-- The identifier of a barrier instance. -/
def barOp (c : BarCell) : Nat := c.group * 65536 + c.gen.toNat

/-- The deadline of a barrier cell (R242). -/
def barDeadline (c : BarCell) : St := c.sentSt + tu (2 ^ 30)

def stray (s : State) (a : Arr) : State :=
  s.count .dist .barrierStray 0 { slice := some a.slice, port := some a.port } 1

/-- The ports of a record's mask, for DONE (R244, R59). -/
def barPorts (s : State) (b : BarRec) : List Nat := (maskBits 96 b.mask.toNat).map fun k => posPort s k b.gen.toNat

/-- Sends a barrier cell with the current pair (R243). -/
def sendBar (s : State) (b : BarRec) (body : Body) (ports : List Nat) : State :=
  ports.foldl (fun s i => sendP1 s .dist i (cellNow s .dist b.slice body)) s

/-- A record leaves: its lifetime is a sample (R438). -/
def barFree (s : State) (b : BarRec) : State :=
  let s := { s with dist.fab.bars := s.dist.fab.bars.erase b }
  s.hist .dist 7 (elapsed (s.now .dist) b.opened : Nat) { slice := some b.slice }

/-- A record whose every port has arrived: the top sends DONE and frees it, any other sends one ARRIVE upward and
keeps it for the DONE (R244). -/
def barAdvance (s : State) (b : BarRec) : State :=
  if b.arrived ≠ b.mask ∨ b.sent then s
  else
    let c := barCell s .dist b.group b.gen b.part_ (b.def_ || b.deferred)
    if b.top then barFree (sendBar s b (.barrierDone c) (barPorts s b)) b
    else
      sendBar { s with dist.fab.bars := s.dist.fab.bars.replace b { b with sent := true } } b (.barrierArrive c)
        (upPorts s b.gen.toNat)

/-- The piece of a group that a record of this plane copies: at a root the row mask of the plane, over its own
positions (R240, R519). -/
def groupMask (s : State) (g : HPiece) (planeB : Bool) : BitVec 96 :=
  let m := g.mask &&& ~~~s.dist.fab.outNew
  if s.role == .root then (if planeB then m &&& 0xFFFFFFFF00000000 else m &&& 0xFFFFFFFF) else m

/-- An arrival at an open record (R245). -/
def barArrive (s : State) (a : Arr) (c : BarCell) (b : BarRec) : State :=
  let pos := portPos s.role a.port
  if !b.mask.getLsbD pos then suspectPort (stray s a) .dist a.port causeCell (BitVec.ofNat 32 c.group)
  else if b.arrived.getLsbD pos then stray s a
  else
    let b' := { b with
      arrived := b.arrived ||| BitVec.ofNat 96 (2 ^ pos), part_ := b.part_ || c.part_, def_ := b.def_ || c.deferred }
    barAdvance { s with dist.fab.bars := s.dist.fab.bars.replace b b' } b'

/-- The plane of a cell from below, as a Bool. -/
def cellPlaneB (s : State) (a : Arr) : Bool := portPlaneB s .dist a.port

/-- Opens an instance record with the mask in force (R244), in Headstock memory when 1,024 hardware records are open
(R247). -/
def barOpen (s : State) (a : Arr) (c : BarCell) (g : HPiece) : State :=
  let hw := (s.dist.fab.bars.filter fun b => !b.deferred).length
  let deferred := decide (1024 ≤ hw)
  let b : BarRec := {
    group := c.group, gen := c.gen, plane := planeOf (cellPlaneB s a), slice := a.slice
    mask := groupMask s g (cellPlaneB s a), top := g.top, opened := s.now .dist, deferred }
  let s := s.event .dist 0x085 { slice := some a.slice } 1
  let s := { s with dist.fab.bars := s.dist.fab.bars ++ [b] }
  let n := (s.dist.fab.bars.filter fun b => b.deferred).length
  let s := if deferred then
      (s.count .dist .barrierDeferred a.slice { slice := some a.slice } 1)
    else s
  barArrive { s with dist.fab.defMax := max s.dist.fab.defMax n } a c b

/-- BARRIER_ARRIVE_RECEIVE (R244, R245, R247). -/
def execBarrierArriveReceive (a : Arr) (c : BarCell) (s : State) : Host.Outcome State Fault Refusal :=
  onPort .dist a.port s fun s =>
    match distIn s a 4 (barOp c) false (fun s => inTime s .dist (barDeadline c)) with
    | (s, .ok) =>
      let plane := planeOf (cellPlaneB s a)
      let mine := s.dist.fab.bars.filter fun b => b.group == c.group && b.plane == plane
      match mine.find? fun b => b.gen == c.gen with
      | some b => barArrive s a c b
      | none =>
        match tget none s.dist.fab.hgroups c.group with
        | none => suspectPort (stray s a) .dist a.port causeCell (BitVec.ofNat 32 c.group)
        | some g =>
          if !mine.isEmpty && !mine.any (fun b => b.gen + 1 == c.gen) then stray s a
          else if g.slice ≠ a.slice ∨ !(groupMask s g (cellPlaneB s a)).getLsbD (portPos s.role a.port) then
            suspectPort (stray s a) .dist a.port causeCell (BitVec.ofNat 32 c.group)
          else barOpen s a c g
    | (s, _) => s

/-- BARRIER_DONE_FORWARD: forwarded cut-through to the record's mask, and the record freed; other roots' copies are
duplicates for 8 ticks (R244). -/
def execBarrierDoneForward (a : Arr) (c : BarCell) (s : State) : Host.Outcome State Fault Refusal :=
  onPort .dist a.port s fun s =>
    match distIn s a 5 (barOp c) false (fun s => inTime s .dist (barDeadline c)) with
    | (s, .ok) =>
      match s.dist.fab.bars.find? fun b => b.group == c.group && b.gen == c.gen with
      | some b =>
        let out : OutCell := { slice := a.slice, ce := a.ce, me := a.me, at_ := s.now .dist, body := .barrierDone c }
        let s := (barPorts s b).foldl (fun s i => sendP1 s .dist i out) s
        barFree (if s.role == .row then seePut s 5 0 (barOp c) else s) b
      | none => if s.role == .row && seenBefore s 5 0 (barOp c) then s else stray s a
    | (s, _) => s

/-! ### Hall barriers at the die (R246, R249) -/

/-- The delivery of a completed generation: DONE_CTR, then HALL_DONE to every waiting core (R246). -/
def hallDeliver (s : State) (g : Nat) (h : HallEntry) (d : HallDone) (part_ deferred unverified : Bool) : State :=
  let s := setHall s g { h with done := h.done.erase d }
  let s := deliveryAdd s h.doneCtr 1 g
  d.waiters.foldl (fun s w =>
    let s := msgPut s {
      core := w.1, kind := 3, status := .ok, unverified, part_, deferred, planeB := d.planeB, tag := d.gen, id := g
      stLo := stLo s }
    let s := if unverified then s.event .tsu 0x043 (dieFlt s) 1 else s
    s.hist .tsu 1 (elapsed (s.now .tsu) w.2 : Nat) (dieFlt s)) s

/-- BARRIER_DONE_RECEIVE: the first DONE completes the generation; the second, compared with it, lets the messages go
(R246, R328). -/
def execBarrierDoneReceive (a : Arr) (c : BarCell) (s : State) : Host.Outcome State Fault Refusal :=
  onPort .tsu a.port s fun s =>
    match dieIn s a 5 (barOp c) false (fun s => inTime s .tsu (barDeadline c)) with
    | (s, .ok) =>
      let h := hallOf s c.group
      if !h.valid || !h.member then s
      else if c.gen = h.gen then
        let d : HallDone := { gen := c.gen, cell := c, planeB := a.port == 1, at_ := s.now .tsu, waiters := h.waiters }
        (setHall s c.group { h with gen := h.gen + 1, count := 0, waiters := [], waitRaised := false, done := h.done ++ [d] }).event
          .tsu 0x037 (dieFlt s) 1
      else match h.done.find? fun d => d.gen == c.gen with
        | none => s
        | some d =>
          if d.planeB = (a.port == 1) then s
          else
            let s := if d.cell.sentSt = c.sentSt then s else splitEvent s (barOp c) 0
            hallDeliver s c.group h d (d.cell.part_ || c.part_) (d.cell.deferred || c.deferred) false
    | (s, _) => s

/-- BARRIER_DECKLE_EXPIRE: the deckle passes without the second DONE (R246). -/
def execBarrierDeckleExpire (group : Nat) (s : State) : Host.Outcome State Fault Refusal :=
  .next <|
    let h := hallOf s group
    match h.done.find? fun d => deckleOver s d.at_ with
    | none => s
    | some d => hallDeliver s group h d d.cell.part_ d.cell.deferred true

/-- BARRIER_WAIT_LIMIT in tu (R249, R503). -/
def barrierWaitLimit (s : State) : Nat := s.cfg .tsu 0x61A8 1000 * 64000

/-- BARRIER_WAIT_EXPIRE: one recorder entry and one interrupt for an instance open past BARRIER_WAIT_LIMIT (R249). -/
def execBarrierWaitExpire (group : Nat) (s : State) : Host.Outcome State Fault Refusal :=
  .next <|
    let h := hallOf s group
    if h.waiters.isEmpty || h.waitRaised || decide (elapsed (s.now .tsu) h.opened ≤ barrierWaitLimit s) then s
    else
      let s := setHall s group { h with waitRaised := true }
      irq (s.fr .tsu 4 (beBytes 1 s.tsu.die.sliceId ++ beBytes 2 group ++ beBytes 2 h.gen.toNat
        ++ beBytes 8 h.opened.toNat) false) 11

end Sys2Proof.Machine
end

