-- ==== Sys2Proof/Machine/ClearOps.lean ====
section
/-! DEFINITION. What events clear at the die: operations that end with a status of the event, local barriers, watches and
counters (R251, R280, R323, R366 to R369). -/

namespace Sys2Proof.Machine

/-- An open local barrier is cancelled: LOCAL_DONE CANCELLED to the cores that wait in it (R251). -/
def localCancel (s : State) (slot : Nat) : State :=
  let b := localOf s slot
  if !b.open_ then s
  else
    let s := setLocal s slot { b with open_ := false, arrived := 0, times := [] }
    b.times.foldl (fun s w => msgPut s {
      core := w.1, kind := 2, status := .cancelled, id := slot, count := popcount 576 b.mask, stLo := stLo s }) s

def localsCancel (s : State) : State := (tkeys s.tsu.sync.locals).foldl localCancel s

/-- Every SIGNAL that awaits a reply completes with a status (R251, R367, R369). -/
def signalsEnd (s : State) (st : Status) : State :=
  s.tsu.sync.sigOut.foldl (fun s e => sigOutDone s e st 0 false false) s

/-- Hall-barrier generations open at the die. -/
def hallOpen (s : State) : List (Nat × HallEntry) := s.tsu.sync.hall.filter fun h => !h.2.waiters.isEmpty

/-- The cores that wait in a hall barrier get HALL_DONE with a status; the generation stays (R251). -/
def hallEnd (s : State) (st : Status) (g : Nat) : State :=
  let h := hallOf s g
  let s := setHall s g { h with count := 0, waiters := [], waitRaised := false }
  h.waiters.foldl (fun s w => msgPut s {
    core := w.1, kind := 3, status := st, tag := h.gen, id := g, stLo := stLo s }) s

def hallsEnd (s : State) (st : Status) : State := (hallOpen s).foldl (fun s h => hallEnd s st h.1) s

/-- Every LEDGER operation that awaits its REPLY completes on its mailbox (R304, R367). -/
def ledgerOpsEnd (s : State) (st : Status) : State :=
  let ops := s.tsu.fab.ops
  ops.foldl (fun s o => done s (ofPart .tsu o.c) (0x004F + o.op) st) (s.modFab fun f => { f with ops := [] })

/-- The operations of R366 that the die has open. -/
def openOps (s : State) : Nat :=
  s.tsu.fab.insts.length + s.tsu.sync.sigOut.length + ((hallOpen s).map fun h => h.2.waiters.length).foldl (· + ·) 0
    + s.tsu.fab.ops.length

/-- All of them complete with one status. -/
def dieOpsEnd (s : State) (st : Status) : State := ledgerOpsEnd (hallsEnd (signalsEnd (instsEnd s st) st) st) st

/-- Every watch is removed, with one CANCELLED message each or without (R251). -/
def watchesEnd (s : State) (msg : Bool) : State :=
  let ws := s.tsu.sync.watches
  let s := (tkeys ws).foldl watchRemove s
  if msg then
    ws.foldl (fun s e => match e.2 with
      | none => s
      | some x => msgPut s { core := x.target, kind := 1, status := .cancelled, tag := x.tag, id := e.1, stLo := stLo s }) s
  else s

/-- Plate, local barriers, collects and SIGNALs as NO_TIME ends them; hall-barrier arrivals stand (R211, R251, R280). -/
def noTimeClears (s : State) : State :=
  localsCancel (signalsEnd (instsEnd (plateCancel s fun _ => true) .noTime) .noTime)

/-- The Headstock of a parting die tells the roots that no operation of R366 remains (R367). -/
def sendPartDone (s : State) : State :=
  let s := s.modDie fun d => { d with partDone := true }
  mgmt s .tsu allRoots (.partDone (s.node .tsu) (s.now .tsu) (BitVec.ofNat 32 ((s.tsu.b).ctr .partCancelled 0)).toNat)

/-- A die (re-)enters TRUING from RUNNING, PARTED or quarantine: it keeps its time, is no member, and sends LOAD frames
before it rejoins (R357, R360). -/
def enterTruing (s : State) : State :=
  let now := s.now .tsu
  let s := plateCancel s fun _ => true
  { s with
    tsu.die := { s.tsu.die with
      state := .truing, quar := false, member := false, sliceValid := false, joinAt := none, partDone := false
      truingSlow := false, partDue := none }
    tsu.b.t := { s.tsu.b.t with
      noTime := false, first := true, kept := true, lockLimit := some now, locked := false, lockRun := 0
      lockSince := none }
    tsu.mark.loadNext := true }

end Sys2Proof.Machine
end

