-- ==== Sys2Proof/Machine/VoteOps.lean ====
section
/-! DEFINITION. VOTE cells at a distributor: the epoch and sender rules, relaying by DST, and which ones a part takes
itself (R338). -/

namespace Sys2Proof.Machine

/-- A VOTE's ME lies within 2 of the receiver's (R338). -/
def voteFresh (s : State) (p : Part) (v : Vote) : Bool :=
  let d := epochDiff v.me (s.base p).ep.me
  decide (-2 ≤ d ∧ d ≤ 2)

/-- The status of a part in this distributor's membership record; 7 where it is not known (R338, R516). -/
def nodeStatus (s : State) (n : Node) : Nat :=
  let r := tget {} s.dist.mem.nodes n.toNat
  if r.known then r.status else 7

/-- A VOTE from a part shown as quarantined or fenced is discarded, but for a REPORT against itself (R338). -/
def voteBarred (s : State) (v : Vote) : Bool :=
  let out := nodeStatus s v.src == 2 || nodeStatus s v.src == 3
  match v.body with
  | .report r => out && r.accused != v.src
  | _ => out

/-- Sends a VOTE cell on, as its sender formed it. -/
def relayVote (s : State) (ports : List Nat) (v : Vote) : State :=
  ports.foldl (fun s i => sendP1 s .dist i { cellNow s .dist 0 (.vote v) with me := v.me }) s

/-- The live ports below, one for each rack attachment at a row (R57, R59). -/
def portsBelow (s : State) : List Nat :=
  match s.role with
  | .rack => (List.range 96).filter fun i => (s.port .dist i).live
  | .row => ((List.range 32).map fun k => attachPort s k 0).filter fun i => (s.port .dist i).live
  | .root => (List.range 64).filter fun i => (s.port .dist i).live
  | .none_ => []

/-- The port of a rack's live uplink for a VOTE. -/
def voteUp (s : State) : List Nat :=
  match s.role with
  | .rack => if (s.port .dist 96).live || !(s.port .dist 97).live then [96] else [97]
  | .row => [96, 97, 98]
  | _ => []

/-- The row distributors that serve as elected members, with the root's ports to them (R352, R353). -/
def electedNodes (s : State) : List Node := (s.dist.mem.triad.map Prod.snd).filter fun n => nodeKind n == 2

def electedPort (n : Node) : Nat := 2 * nodeRow n + bit (nodePlaneB n)

/-- Where a VOTE that came on a port is relayed, by its DST (R338). What a part below sends to every root, a root passes on
to the elected members, and a row distributor does not send down. -/
def voteRoute (s : State) (port : Nat) (v : Vote) : List Nat :=
  let up := (uplinks s .dist).contains port && s.role != .root
  let k := nodeKind v.dst
  if v.dst = allRoots then
    (if s.role == .root then
      (if port < 64 then ((electedNodes s).map electedPort).filter (· != port) else [])
    else if up then (if s.role == .row && nodeKind v.src == 2 then [] else portsBelow s)
    else voteUp s)
  else if v.dst = s.node .dist then []
  else match s.role with
    | .rack =>
      if k = 0 ∧ nodeRow v.dst = s.ownRow ∧ nodeRack v.dst = s.ownRack then [nodeSlot v.dst]
      else if up then [] else voteUp s
    | .row =>
      if k ≤ 1 ∧ nodeRow v.dst = s.ownRow then [attachPort s (nodeRack v.dst) 0]
      else if k = 2 ∧ nodeRow v.dst = s.ownRow then [99]
      else if k = 3 then (if nodeRoot v.dst ≤ 2 then [96 + nodeRoot v.dst] else [])
      else if up then [] else [96, 97, 98]
    | .root =>
      if k = 0 then [2 * nodeRow v.dst, 2 * nodeRow v.dst + 1]
      else if k ≤ 2 then [2 * nodeRow v.dst + bit (nodePlaneB v.dst)]
      else if port < 64 then routeOwn s .dist v.dst 0 else []
    | .none_ => []

/-- Whether a VOTE is for this part: addressed to it, to every root when it is a root, or from a root to every part
below. -/
def voteMine (s : State) (port : Nat) (v : Vote) : Bool :=
  v.dst == s.node .dist
    || (v.dst == allRoots && (servesRoot s || (uplinks s .dist).contains port))

/-- A VOTE of another ME is discarded: VOTE_STALE of the part and of the port (R338, R516, R518). -/
def voteStaleIn (s : State) (port : Nat) : State :=
  (s.count .dist .voteStale 0 { port := some port } 1).count .dist .portVoteStale port {} 1

/-- What every VOTE meets at a distributor; the result says whether the part takes it. -/
def voteIn (s : State) (port : Nat) (v : Vote) : State × Bool :=
  if !voteFresh s .dist v then (voteStaleIn s port, false)
  else if voteBarred s v then (s, false)
  else (relayVote s (voteRoute s port v) v, voteMine s port v)

/-- A VOTE of this distributor. -/
def ownVote (s : State) (dst : Node) (b : VoteBody) : Vote :=
  { src := s.node .dist, dst, me := s.dist.b.ep.me, eventSt := s.now .dist, body := b }

/-- The ports from which a distributor's own VOTE reaches its DST (R338, R345). -/
def voteOut (s : State) (dst : Node) : List Nat :=
  match s.role with
  | .root => if dst = allRoots then (peerPorts s).filter (fun i => i = 96 ∨ i = 98) else routeOwn s .dist dst 0
  | .rack =>
    if nodeKind dst = 0 ∧ nodeRow dst = s.ownRow ∧ nodeRack dst = s.ownRack ∧ dst ≠ allRoots then [nodeSlot dst]
    else if nodeKind dst = 1 ∧ nodeRow dst = s.ownRow ∧ nodeRack dst = s.ownRack then [98] else voteUp s
  | .row =>
    if dst ≠ allRoots ∧ nodeKind dst = 3 ∧ nodeRoot dst ≤ 2 then [96 + nodeRoot dst]
    else if nodeKind dst ≤ 1 ∧ nodeRow dst = s.ownRow ∧ dst ≠ allRoots then [attachPort s (nodeRack dst) 0]
    else if nodeKind dst = 2 ∧ nodeRow dst = s.ownRow then [99] else voteUp s
  | .none_ => []

/-- Sends a distributor's own VOTE; a root's to every root also goes to each elected member by name. -/
def sendOwnVote (s : State) (dst : Node) (b : VoteBody) : State :=
  let s := sendVotes s .dist (voteOut s dst) (ownVote s dst b)
  if s.role == .root && dst == allRoots then
    (electedNodes s).foldl (fun s n => sendVotes s .dist [electedPort n] (ownVote s n b)) s
  else s

/-- A root's VOTE to every part below and to its peers (R345, R352). -/
def announceVote (s : State) (b : VoteBody) : State :=
  sendVotes s .dist (portsBelow s ++ (peerPorts s).filter (fun i => i = 96 ∨ i = 98)) (ownVote s allRoots b)

end Sys2Proof.Machine
end

