-- ==== Sys2Proof/Machine/TimeOps.lean ====
section
/-! DEFINITION. Time transfer: which end gives time, the asymmetry and bounds of a hop, inputs and their choice,
holdover, the time-map blocks and the marker's bytes (R44, R129 to R156). -/

namespace Sys2Proof.Machine

def State.modTime (s : State) (p : Part) (f : TimeState → TimeState) : State := s.modBase p fun b => { b with t := f b.t }
def State.modEp (s : State) (p : Part) (f : Epochs → Epochs) : State := s.modBase p fun b => { b with ep := f b.ep }
def State.modMap (s : State) (p : Part) (f : MapState → MapState) : State := s.modBase p fun b => { b with map := f b.map }
def State.modMark_ (s : State) (p : Part) (i : Nat) (f : Mark → Mark) : State :=
  s.modPort p i fun q => { q with mark := f q.mark }
def State.modOff (s : State) (p : Part) (i : Nat) (f : Offset → Offset) : State :=
  s.modPort p i fun q => { q with off := f q.off }
def State.modLink (s : State) (p : Part) (i : Nat) (f : Link → Link) : State :=
  s.modPort p i fun q => { q with link := f q.link }

/-! ### Configured figures (R139, R151, R153, R154, R492, R513) -/

/-- DECKLE_TIME in tu. -/
def deckleTime (s : State) (p : Part) : Nat := clampN 16 640 (s.cfg p 0x108 0x40)
/-- AGREE_TIME: three quarters of it (R151). -/
def agreeTime (s : State) (p : Part) : Nat := deckleTime s p * 3 / 4
/-- HOLD_DRIFT in ppb and HOLD_BUDGET in tu. -/
def holdDrift (s : State) (p : Part) : Nat := clampN 1 1000 (s.cfg p 0x110 0x14)
def holdBudget (s : State) (p : Part) : Nat := clampN 1 1000 (s.cfg p 0x118 0x32) * 64000000
/-- g_p and g_i in 2^-40, each held to 0.5 to 2 times its default (R139). -/
def gainP (s : State) (p : Part) : Nat := clampN (0x4A2AC67D / 2) (0x4A2AC67D * 2) (bits (s.cfg p 0x100 0x000ABEED4A2AC67D) 31 0)
def gainI (s : State) (p : Part) : Nat := clampN (0x000ABEED / 2) (0x000ABEED * 2) (bits (s.cfg p 0x100 0x000ABEED4A2AC67D) 63 32)

/-! ### Giving and taking ends -/

/-- A root's peer ports toward root `r` (R57). -/
def peerToward (s : State) (r : Nat) : List Nat :=
  if r = (s.ownRoot + 1) % 3 then [96, 97] else if r = (s.ownRoot + 2) % 3 then [98, 99] else []

def leaderOf (s : State) (p : Part) : Nat := (s.base p).ep.leader.toNat

/-- Whether this distributor is the leading root. -/
def isLeader (s : State) : Bool := s.role == .root && leaderOf s .dist == s.ownRoot

/-- Whether this part's end of a link gives time. -/
def gives (s : State) (p : Part) (i : Nat) : Bool :=
  match p with
  | .tsu => false
  | .dist => portBelow s.role i || (isLeader s && (peerPorts s).contains i)

/-- Whether it may take time there (R147): in order of preference. -/
def inputsOf (s : State) (p : Part) : List Nat :=
  match p with
  | .tsu => [0, 1]
  | .dist => match s.role with
    | .rack => [96, 97]
    | .row =>
      let l := leaderOf s .dist
      if l < 3 then (96 + l) :: ([96, 97, 98].filter (· != 96 + l)) else [96, 97, 98]
    | .root => if isLeader s then [] else peerToward s (leaderOf s .dist)
    | .none_ => []

def takes (s : State) (p : Part) (i : Nat) : Bool := (inputsOf s p).contains i

/-! ### The hop (R141, R142, R146, R150) -/

/-- The lane in the active lane 0 role (R115). -/
def lane0 (q : Port) : Nat := q.link.map.toNat % 4

def laneOf (q : Port) (i : Nat) : Lane := tget {} q.link.lanes i

/-- Whether the timing lane has valid values at both ends. -/
def laneCal (q : Port) : Bool := (laneOf q (lane0 q)).calValid && (laneOf q (lane0 q)).nbrValid

/-- A(i) of the timing lane, in 1/16 tu; 0 without valid values (R141, R146). -/
def asym (giving : Bool) (q : Port) : Int :=
  let l := laneOf q (lane0 q)
  let own : Int := (l.ownTx.toNat : Int) - l.ownRx.toNat
  let nbr : Int := (l.nbrTx.toNat : Int) - l.nbrRx.toNat
  if !laneCal q then 0 else if giving then own - nbr else nbr - own

/-- The hop's asymmetry bound in ps (R146): 20, growing with age to 200, or 1,000 uncalibrated. -/
def asymBound (q : Port) : Nat := if !laneCal q then 1000 else min 200 (20 + 5 * q.link.calAge)

/-- HOLD_ERR_EST in ps (R153). -/
def holdErr (s : State) (p : Part) : Nat :=
  let t := (s.base p).t
  match t.holdSince with
  | none => 0
  | some x => t.resid * 15625 / 16000 + holdDrift s p * elapsed (s.now p) x / 64000000

/-- A part's own ACC_UNC in ps, saturating (R150). -/
def accUnc (s : State) (p : Part) : Nat :=
  let t := (s.base p).t
  if p == .dist && isLeader s then 30
  else
    let hop := match t.input with
      | some i => if t.holdSince.isSome then holdErr s p else asymBound (s.port p i) + 25
      | none => holdErr s p
    let rx := match t.input with
      | some i => (s.port p i).off.rxAccUnc
      | none => 0
    sat 65535 (rx + hop + 30)

/-- The depth that a taking end sends (R132). -/
def depthSent (s : State) (p : Part) : Nat :=
  let below := match p with | .tsu => 0 | .dist => depthOf s
  match (s.base p).t.input with
  | some i => sat 255 (below + ((s.port p i).off.rtt / 2 + 2 * 16384 - 1) / 16384)
  | none => below

/-! ### Setting time (R137) -/

/-- A part's count set to an ST, with its shadow; the only changes of time other than continuous advance. -/
def TimeState.set (t : TimeState) (x : Int) : TimeState :=
  let acc := BitVec.ofInt 96 (x * 2 ^ 32)
  { t with held := true, acc, shadow := acc.toNat % shadowMod, hCount := acc }

/-- A part's time moved by a signed number of half tu. -/
def TimeState.shift (t : TimeState) (half : Int) : TimeState :=
  let acc := t.acc + BitVec.ofInt 96 (half * 2 ^ 31)
  { t with acc, shadow := acc.toNat % shadowMod, hCount := acc }

/-! ### Holdover and NO_TIME (R153 to R156, R218, R280) -/

/-- A part without a usable input holds its trim at the mean of the last 16 windows (R153, R156). -/
def startHold (s : State) (p : Part) : State :=
  let t := (s.base p).t
  if !t.held || t.holdSince.isSome then s
  else
    let s := s.modTime p fun t => { t with
      input := none, holding := true, holdSince := some (s.now p), trim := meanTrim t, resid := t.lastMean.natAbs }
    match p with
    | .tsu => s
    | .dist => s.alert .dist 2

/-- A part enters NO_TIME (R154, R156): at a die nothing fires and what is in flight ends (R211, R251, R280), and one
that is parting becomes PARTED at once (R369). -/
def enterNoTime (s : State) (p : Part) : State :=
  if (s.base p).t.noTime then s
  else
    let s := s.modTime p fun t => { t with noTime := true }
    match p with
    | .tsu =>
      let s := noTimeClears (s.alert .tsu 1)
      if s.tsu.die.state == .parting then
        sendPartDone ((dieOpsEnd s .noTime).modDie fun d => { d with state := .parted })
      else s
    | .dist => s.alert .dist 3

/-! ### The choice of input (R147 to R149, R152) -/

/-- Whether an input may be followed: usable, or still the one that framed this part in TIMECAL (R137, R148). -/
def inputOk (s : State) (p : Part) (i : Nat) : Bool :=
  let q := s.port p i
  !q.mark.blocked && ((q.mark.usable && q.live) || (q.link.state == .timecal && (s.base p).t.input == some i))

/-- Whether an input may be followed for want of a better one: verified markers that carry HOLDING (R148). -/
def inputHolding (s : State) (p : Part) (i : Nat) : Bool :=
  let q := s.port p i
  !q.mark.blocked && q.live && decide (q.mark.badRun < 2)
    && (q.mark.rxMarker.any fun m => m.holding && !m.noTime) && (s.base p).t.input == some i

/-- Which of a die's usable planes it follows: the present one while usable, else the lower ACC_UNC, A when equal
(R149). -/
def diePlane (s : State) : Option Nat :=
  let a := inputOk s .tsu 0
  let b := inputOk s .tsu 1
  match a, b with
  | true, false => some 0
  | false, true => some 1
  | false, false => none
  | true, true => match s.tsu.b.t.input with
    | some i => some i
    | none => if (s.port .tsu 1).off.rxAccUnc < (s.port .tsu 0).off.rxAccUnc then some 1 else some 0

/-- Takes an input at a tick edge: the loop keeps its integrator, and the next full window gives its first error
(R140). -/
def takeInput (s : State) (p : Part) (i : Nat) (holding : Bool) : State :=
  let t := (s.base p).t
  let s := if p == .tsu && t.input != some i then s.event .tsu 0x013 {} 1 else s
  let s := if p == .tsu && t.noTime && (t.onHold || t.holding) && s.tsu.die.state == .running && !holding then enterTruing s else s
  s.modTime p fun t => { t with
    inputAt := if t.input = some i then t.inputAt else (tickOf (s.now p)).toNat / 1024
    input := some i, holding, holdSince := none, onHold := false }

/-- INPUT_CHOOSE: the input of the coming tick (R147, R148). -/
def chooseInput (s : State) (p : Part) : State :=
  if p == .dist && isLeader s then s.modTime p fun t => { t with input := none, holding := false, holdSince := none }
  else
    let pick := match p with
      | .tsu => if s.tsu.b.t.disagree then (s.tsu.b.t.input.filter fun i => inputOk s .tsu i) else diePlane s
      | .dist => (inputsOf s p).find? fun i => inputOk s p i
    match pick with
    | some i => takeInput s p i false
    | none =>
      if p == .tsu && s.tsu.b.t.onHold then startHold s p
      else match (inputsOf s p).find? fun i => inputHolding s p i with
        | some i => takeInput s p i true
        | none => startHold s p

/-! ### The time-map blocks (R26, R131) -/

/-- The 32 bytes of a block. -/
def mapBlock (r : MapRec) : List Byte :=
  let body := beBytes 1 (bit r.absValid * 128) ++ beBytes 1 r.version.toNat ++ beBytes 6 r.originSec.toNat
    ++ beBytes 5 r.originTu ++ beBytes 2 (twos 16 r.utc) ++ beBytes 7 r.effect.toNat ++ beBytes 6 0
  body ++ beBytes 4 (crc32c body).toNat

def mapOfBlock (bs : List Byte) : MapRec := {
  absValid := tbit (beNat (bs.take 1)) 7, version := BitVec.ofNat 8 (beNat ((bs.drop 1).take 1))
  originSec := BitVec.ofNat 48 (beNat ((bs.drop 2).take 6)), originTu := beNat ((bs.drop 8).take 5) % 2 ^ 36
  utc := signedOf 16 (beNat ((bs.drop 13).take 2)), effect := BitVec.ofNat 50 (beNat ((bs.drop 15).take 7)) }

/-- Whether a block is whole and its CRC matches. -/
def blockGood (bs : List Byte) : Bool :=
  bs.length == 32 && beNat (bs.drop 28) == (crc32c (bs.take 28)).toNat

/-- The block of a tick, and the place in it (R131). -/
def blockOf (n : Tick) : Nat := n.toNat % 1024 / 16
def blockPos (n : Tick) : Nat := n.toNat % 16

/-- A record with its origin moved by `d` tu (R30, R32). -/
def MapRec.move (r : MapRec) (d : Int) : MapRec :=
  let x := ((r.originSec.toNat * 64000000000 + r.originTu : Nat) : Int) + d
  { r with originSec := BitVec.ofInt 48 (x / 64000000000), originTu := (x % 64000000000).toNat }

/-- The newest record that a part has accepted (R131). -/
def MapState.newest (m : MapState) : MapRec := (m.next).getD m.cur

/-! ### The marker's bytes (R44, R106, R129) -/

/-- Bytes 0 to 55 of a marker cell, which the watermark covers (R130). -/
def markerBytes (m : Marker) : List Byte :=
  beBytes 1 0x11 ++ beBytes 1 0x03 ++ beBytes 2 m.ce.toNat ++ beBytes 2 m.me.toNat ++ beBytes 2 0
    ++ beBytes 8 m.tickSt.toNat ++ beBytes 2 m.sendOfs.toNat
    ++ beBytes 1 (bit m.dir * 128 + bit m.planeB * 64 + bit m.holding * 32 + bit m.noTime * 16 + bit m.retValid * 8
        + m.newLeader.toNat * 2)
    ++ beBytes 3 m.node.toNat
    ++ beBytes 1 (m.refState.toNat * 32 + m.leader.toNat * 8 + bit m.cePend * 4 + bit m.mePend * 2 + bit m.leadPend)
    ++ beBytes 2 m.pendCe.toNat ++ beBytes 2 m.pendMe.toNat ++ beBytes 2 m.pendTick.toNat ++ beBytes 2 m.rot.toNat
    ++ beBytes 2 m.retTag.toNat ++ beBytes 4 m.retDelta.toNat ++ beBytes 8 m.ownRes.toNat ++ beBytes 3 m.ofsEst.toNat
    ++ beBytes 2 m.accUnc.toNat ++ beBytes 1 m.depth.toNat ++ beBytes 1 (m.calLane.toNat + bit m.calValid * 4)
    ++ beBytes 2 m.calTx.toNat ++ beBytes 2 m.calRx.toNat

/-- W(n) from W(n - 1) (R44). -/
def wmNext (w : W32) (m : Marker) : W32 := crc32c (beBytes 4 w.toNat ++ markerBytes m)

/-- W(-1) of a sender and a receiver at the first marker after TIMECAL (R45). -/
def wmSeed (sender receiver : Node) (st : St) : W32 :=
  crc32c (beBytes 3 sender.toNat ++ beBytes 3 receiver.toNat ++ beBytes 8 st.toNat)

/-- A marker that R130 calls corrupt. -/
def markerCorrupt (m : Marker) : Bool :=
  decide (5 ≤ m.refState.toNat) || (m.leadPend && (m.leader == 3 || m.newLeader == 3))

end Sys2Proof.Machine
end

