-- ==== Sys2Proof/Machine/MemberOps.lean ====
section
/-! DEFINITION. The membership protocol's shared operations: roots in service, proposals, decisions and their
announcement, weighing the tally, no-confidence, root loss and ELECTION_HOLD (R94 to R97, R341 to R345, R350, R351). -/

namespace Sys2Proof.Machine

def State.modMem (s : State) (f : Membership → Membership) : State := { s with dist.mem := f s.dist.mem }
def State.nodeRec (s : State) (n : Node) : NodeRec := tget {} s.dist.mem.nodes n.toNat
def State.modNode (s : State) (n : Node) (f : NodeRec → NodeRec) : State :=
  s.modMem fun m => { m with nodes := tmod {} m.nodes n.toNat f }

/-! ### Roots in service -/

/-- The node that serves as a root index (R352). -/
def rootNode (s : State) (r : Nat) : Node :=
  let n := tget 0 s.dist.mem.triad r
  if n = 0 then mkNode 3 0 0 0 0 r else n

/-- The root index that this part serves. -/
def ownRootIx (s : State) : Nat := if s.dist.mem.elected then s.dist.mem.served else s.ownRoot

/-- Whether a root is in service and not lost in the hall (R350). The leader that markers name is in service unless the
record shows it out. -/
def rootAlive (s : State) (r : Nat) : Bool :=
  let st := nodeStatus s (rootNode s r)
  (servesRoot s && r == ownRootIx s)
    || ((decide (st ≤ 1) || (st == 7 && leaderOf s .dist == r)) && !s.dist.mem.lostRoots.getLsbD r)

def rootsIn (s : State) : List Nat := (List.range 3).filter (rootAlive s)

/-- How many roots must propose a change: two, or all that serve (R345, R355). -/
def quorum (s : State) : Nat := if s.dist.mem.soleRoot then 1 else min 2 (rootsIn s).length

/-- States of a change that take a part out (R338). -/
def changeOut (c : Change) : Bool := c.state == 2 || c.state == 3 || c.state == 4 || c.state == 6 || c.state == 7

/-- The root that announces changes: the leader, unless it is lost or removed by them, then the lowest that remains
(R97, R345). -/
def actingRoot (s : State) (cs : List Change) : Option Nat :=
  let ok := fun r => rootAlive s r && !cs.any fun c => c.node == rootNode s r && changeOut c
  if leaderOf s .dist < 3 && ok (leaderOf s .dist) then some (leaderOf s .dist)
  else if s.dist.mem.elected then none
  else (List.range 3).find? ok

/-! ### Announcements (R41, R132) -/

/-- The tick at which a change of ME or leader announced now takes effect: it joins one that is pending, or waits where
that one takes effect too soon (R41, R132). -/
def announceTick (s : State) : Option Tick :=
  match s.dist.b.ep.pend.find? fun x => x.me.isSome || x.lead.isSome with
  | none => some (leadTick s)
  | some x => if 0 ≤ tickDiff x.tick (leadTick s) then some x.tick else none

/-- The first tick from `t` on, by steps of `d`, that carries no CE change (R399). -/
def freeTick (l : List Pend) (d : Tick) : Nat → Tick → Tick
  | 0, t => t
  | k + 1, t => if (pendAt l t).ce.isSome then freeTick l d k (t + d) else t

/-- Announces a CE change at a tick; those pending are numbered in the order of their ticks, and DECIDE repeats the
number (R39, R41, R399). -/
def announceCe (s : State) (t : Tick) : State :=
  let s := s.modEp .dist fun e => { e with pend := pendNumber e.ce (pendCeAt e.pend t 0) }
  let l := s.dist.b.ep.pend
  s.modSv fun v => { v with rtxns := v.rtxns.map fun r => { r with
    decision := r.decision.map fun d => if d.commit then { d with ce := ((pendAt l (tickOf d.effect)).ce).getD d.ce } else d } }

/-- Slice step resets that wait for their announcement (R323). -/
def announceResets (s : State) : State :=
  let waiting := (s.dist.fab.turnings.filter fun x => x.2.resetPending && x.2.resetTick.isNone).map Prod.fst
  if !isLeader s then s
  else waiting.foldl (fun s slice =>
    let l := s.dist.b.ep.pend
    let t := freeTick l 1 (l.length + 1) (leadTick s)
    (announceCe s t).modTurning .dist slice fun u => { u with resetTick := some t }) s

/-- A change of leader is announced in the markers (R96, R97). -/
def announceLeader (s : State) (r : Nat) : State :=
  s.modEp .dist fun e => { e with pend := pendLeadAt e.pend ((announceTick s).getD (leadTick s)) (BitVec.ofNat 2 r) }

/-- MEMBER cells carry up to 6 changes each (R338). -/
def memberVotes (s : State) : Nat → List Change → Epoch → Tick → State
  | 0, _, _, _ => s
  | k + 1, cs, me, t =>
    if cs.isEmpty then s
    else memberVotes (announceVote s (.member (cs.take 6) me t)) k (cs.drop 6) me t

/-- Announces decided changes: those of one tick share one increment of ME, others wait for their turn (R40, R345). When
the leader is among those that go, the announcing root leads from the same tick (R97). -/
def announceMembers (s : State) (cs : List Change) : State :=
  let n := tickOf (s.now .dist)
  let e := s.dist.b.ep
  match s.dist.b.due.getLast?, announceTick s with
  | some d, _ =>
    if d.decided = n then
      memberVotes (s.modBase .dist fun b => { b with due := b.due.dropLast ++ [{ d with changes := d.changes ++ cs }] })
        (cs.length + 1) cs d.me d.tick
    else s.modMem fun m => { m with held := m.held ++ cs }
  | none, none => s.modMem fun m => { m with held := m.held ++ cs }
  | none, some t =>
    let s := s.modEp .dist fun e => { e with pend := pendMeAt e.pend t (e.me + 1) }
    let s := s.modBase .dist fun b => { b with due := [{ changes := cs, me := e.me + 1, tick := t, decided := n }] }
    let s := memberVotes s (cs.length + 1) cs (e.me + 1) t
    if cs.any fun c => leaderOf s .dist < 3 && c.node == rootNode s (leaderOf s .dist) && changeOut c then
      announceLeader s (ownRootIx s)
    else s

/-! ### Proposals and decisions (R345) -/

/-- A change against oneself, raised by a hard event of one's own, is decided at once (R341). -/
def selfHard (s : State) (n : Node) : Bool :=
  match (s.nodeRec n).events.head? with
  | some (_, hard, _, src, _) => hard && src == n
  | none => false

/-- A decided change: announced by the acting root; held while an election is in progress, but for a part's hard event
against itself (R345). -/
def decided (s : State) (c : Change) : State :=
  let s := s.modMem fun m => { m with proposals := m.proposals.filter fun p => p.change.node != c.node || p.change.state != c.state }
  if s.dist.mem.electing && !(changeOut c && selfHard s c.node) then s.modMem fun m => { m with held := m.held ++ [c] }
  else if actingRoot s [c] == some (ownRootIx s) then announceMembers s [c]
  else s

/-- A root's vote for a change; a root never votes on a change to itself. Two votes decide it. -/
def voteFor (s : State) (root : Node) (c : Change) : State :=
  if c.node = root then s
  else
    let same := fun (p : Proposal) => p.change.node == c.node && p.change.state == c.state
    let old := (s.dist.mem.proposals.find? same).getD { change := c, by_ := [] }
    let new := if old.by_.contains root then old else { old with by_ := old.by_ ++ [root] }
    let s := s.modMem fun m => { m with proposals := m.proposals.filter (fun p => !same p) ++ [new] }
    if quorum s ≤ new.by_.length then decided s c else s

/-- Whether a change is on its way: decided and announced or held, or already proposed by this root. -/
def inHand (s : State) (c : Change) : Bool :=
  let same := fun (d : Change) => d.node == c.node && d.state == c.state
  s.dist.b.due.any (fun d => d.changes.any same) || s.dist.mem.held.any same
    || s.dist.mem.proposals.any fun p => same p.change && p.by_.contains (s.node .dist)

/-- A root that reaches a decision proposes it to the others (R345). -/
def propose (s : State) (c : Change) : State :=
  if !servesRoot s || inHand s c || c.node = s.node .dist then s
  else voteFor (sendOwnVote s allRoots (.propose [c])) (s.node .dist) c

/-- Decisions that were held are announced (R345). -/
def announceHeld (s : State) : State :=
  let cs := s.dist.mem.held
  if cs.isEmpty || s.dist.mem.electing || actingRoot s cs != some (ownRootIx s) then s
  else announceMembers (s.modMem fun m => { m with held := [] }) cs

/-! ### Weighing the tally (R341 to R344) -/

/-- The events of a part within QUAR_WINDOW. -/
def recentEvents (s : State) (n : Node) : List (St × Bool × Bool × Node × Nat) :=
  (s.nodeRec n).events.filter fun e => decide (elapsed (s.now .dist) e.1 ≤ quarWindow s)

/-- The sister of a rack or row distributor. -/
def sister (n : Node) : Node := n ^^^ 0x10

/-- A distributor in JOINING asks for its copies: of its sister, or as a root of the lowest other root in service (R372). -/
def copyAsk (s : State) : State :=
  let own := s.node .dist
  let from_ := if s.role == .root then ((rootsIn s).find? fun r => rootNode s r != own).map (rootNode s) else some (sister own)
  match from_ with
  | some n => if s.dist.sv.state == .joining && !s.dist.sv.copyDone then mgmt s .dist n .copyReq else s
  | none => s

/-- Split events alone, shared with the sister in equal number, do not decide (R342). -/
def pairOnly (s : State) (n : Node) : Bool :=
  let a := recentEvents s n
  let b := recentEvents s (sister n)
  (nodeKind n == 1 || nodeKind n == 2) && a.all (·.2.2.1) && b.all (·.2.2.1) && a.length == b.length

/-- QUAR_COUNT (R341, R513). -/
def quarCount (s : State) : Nat := clampN 2 16 (s.cfg .dist 0x188 3)

/-- The quarantine of a part: a die is QUARANTINED, a distributor FENCED (R344). -/
def quarantineOf (n : Node) (cause : Nat) : Change := { node := n, state := if nodeKind n = 0 then 2 else 3, cause }

/-- Weighs the newest event of a part (R341 to R344). -/
def judge (s : State) (n : Node) : State :=
  let r := s.nodeRec n
  let s := s.modNode n fun r => { r with fresh := false }
  match r.events.head? with
  | none => s
  | some (_, hard, _, src, cause) =>
    if !r.known || 1 < r.status then s
    else
      let c := quarantineOf n cause
      if hard && src == n then (if inHand s c then s else decided s c)
      else if hard || r.probation then propose s c
      else if quarCount s ≤ (recentEvents s n).length then
        (if pairOnly s n then
          ((s.modNode n fun r => { r with pairAmbiguous := true, status := 1 }).modNode (sister n) fun r =>
            { r with pairAmbiguous := true }).alert .dist 9
        else propose s c)
      else s.modNode n fun r => { r with status := 1 }

/-- Weighs every event that has come since the last time. -/
def judgeFresh (s : State) : State :=
  if !servesRoot s then s
  else ((s.dist.mem.nodes.filter fun e => e.2.fresh).map fun e => BitVec.ofNat 24 e.1).foldl judge s

/-! ### No-confidence (R96, R353) -/

/-- Both followers have raised no-confidence within 2 ticks: the lower-indexed leads; an elected member never leads, and
the two then quarantine S (R96, R353). -/
def noConfBoth (s : State) : State :=
  let l := leaderOf s .dist
  match (List.range 3).filter (· != l) with
  | [a, b] =>
    match tget none s.dist.refs.noConfAt a, tget none s.dist.refs.noConfAt b with
    | some x, some y =>
      if 2 * tickTu < (stDiff x y).natAbs then s
      else
        let s := s.modRefs fun r => { r with noConfAt := [] }
        if s.dist.mem.elected then propose s (quarantineOf (rootNode s l) causeLeader)
        else if ownRootIx s = a && s.role == .root then announceLeader s a
        else s
    | _, _ => s
  | _ => s

/-- NO_CONFIDENCE: a follower's suspect event against the leader (R96). -/
def noConfidence (s : State) : State :=
  let l := leaderOf s .dist
  if !servesRoot s || 3 ≤ l || l = ownRootIx s || s.dist.refs.noConf then s
  else
    let now := s.now .dist
    let s := s.modRefs fun r => { r with noConf := true, noConfAt := tset none r.noConfAt (ownRootIx s) (some now) }
    noConfBoth (suspect s .dist (rootNode s l) causeLeader {})

/-! ### Root loss and ELECTION_HOLD (R350, R351) -/

/-- Whether a root is verified at a row distributor. -/
def rootVerified (s : State) (r : Nat) : Bool :=
  let q := s.port .dist (96 + r)
  q.live && decide (q.mark.badRun < 2) && q.mark.rxMarker.isSome

/-- ELECTION_HOLD: the loop freezes at its present trim, without HOLDING (R351). -/
def enterElectHold (s : State) : State :=
  let now := s.now .dist
  (s.modTime .dist fun t => { t with
    electHold := true, input := none, holding := false, holdSince := (t.holdSince).or (some now), resid := t.lastMean.natAbs
    }).modMem fun m => { m with electAt := now }

/-- ROOT_LOST_DECLARE: a row distributor's uplink is out, or has brought no verified marker in 2 slots (R350). -/
def rootLostCheck (s : State) (port : Nat) : State :=
  let r := port - 96
  if s.role != .row || port < 96 || 98 < port || s.dist.mem.rootLost.getLsbD r then s
  else if rootVerified s r then s
  else
    let s := s.modMem fun m => { m with rootLost := m.rootLost ||| BitVec.ofNat 3 (2 ^ r) }
    let left := (List.range 3).filter (rootVerified s)
    let s := sendVotes s .dist (left.map (96 + ·)) (ownVote s allRoots (.rootLoss s.dist.mem.rootLost))
    if left.length ≤ 1 && s.dist.b.t.held && !s.dist.b.t.electHold then enterElectHold s else s

/-- A root that is verified again at a row distributor. -/
def rootFound (s : State) (port : Nat) : State :=
  if s.role == .row && decide (96 ≤ port ∧ port ≤ 98) then
    s.modMem fun m => { m with rootLost := m.rootLost &&& ~~~BitVec.ofNat 3 (2 ^ (port - 96)) }
  else s

end Sys2Proof.Machine
end

