-- ==== Sys2Proof/Machine/LedgerOps.lean ====
section
/-! DEFINITION. The step ledger's tables: entries and their states, batch deltas as bytes, a step's sampling result, and
the selection of a close (R284 to R287, R293 to R300). -/

namespace Sys2Proof.Machine

open Sys2Proof

/-! ### Entries (R284 to R287) -/

/-- The STATE codes (R285). -/
def leQueued : Nat := 1
def leActive : Nat := 2
def lePaused : Nat := 3
def leFinishing : Nat := 4
def leDone : Nat := 5
def leRefused : Nat := 6

def State.modLed (s : State) (f : Ledger → Ledger) : State := { s with dist.led := f s.dist.led }
def State.sgroup (s : State) (g : Nat) : Option SGroup := tget none s.dist.led.sgs g
def State.modSg (s : State) (g : Nat) (f : SGroup → SGroup) : State :=
  s.modLed fun l => { l with sgs := tmod none l.sgs g (·.map f) }

abbrev LTab := Tab LedgerEntry

def LTab.entry (t : LTab) (r : Nat) : LedgerEntry := tget zeroEntry t r
def State.entry (s : State) (r : Nat) : LedgerEntry := LTab.entry s.dist.led.table r
def State.modEntry (s : State) (r : Nat) (f : LedgerEntry → LedgerEntry) : State :=
  s.modLed fun l => { l with table := tmod zeroEntry l.table r f }

/-- Whether an entry counts toward its slice's quota (R287). -/
def counted (e : LedgerEntry) : Bool := decide (1 ≤ e.state ∧ e.state ≤ 4)

/-- Entries not FREE (R287). -/
def tableUse (t : LTab) : Nat := (t.filter fun x => x.2.state != 0).length

def quotaUse (t : LTab) (slice : Nat) : Nat := (t.filter fun x => counted x.2 && x.2.slice == slice).length

/-- A slice's quota: the whole table until the first LEDGER_PART (R287). -/
def quotaOf (l : Ledger) (slice : Nat) : Nat := if l.parted then tget 0 l.quotas slice else 65536

/-- The lowest FREE request index (R289). -/
def freeReq (t : LTab) : Option Nat := (List.range (t.length + 1)).find? fun r => (LTab.entry t r).state == 0 && decide (r < 65536)

/-- A slot's value in a decided table, and what it names. -/
def slotVal (r : Nat) (e : LedgerEntry) : Nat := 1 + r + e.gen.toNat * 65536
def slotReq (v : Nat) : Nat := (v - 1) % 65536
def slotGen (v : Nat) : Nat := (v - 1) / 65536

/-! ### Messages and deltas as they are sent (R288, R300) -/

/-- The cells of a LEDGER message: two for SUBMIT, REPLY and EVENT. -/
def ledgerCells (op : Nat) : Nat := if op = 1 ∨ op = 7 ∨ op = 8 then 2 else 1

def deltaElemBytes (e : DeltaElem) : List Byte :=
  beBytes 2 ((if e.join then 1 else 2) * 2 ^ 14 + e.slot % 4096) ++ beBytes 2 e.req ++ beBytes 2 e.gen.toNat
    ++ beBytes 1 (e.prio % 8) ++ beBytes 1 0 ++ beBytes 4 e.tokens.toNat ++ beBytes 4 e.maxLen.toNat ++ beBytes 8 e.seed.toNat
    ++ beBytes 8 e.page.toNat

/-- Head and elements, which CHECK covers. -/
def deltaBody (d : DeltaRec) : List Byte :=
  beBytes 1 d.sgroup ++ beBytes 1 (bit d.full * 128) ++ beBytes 2 d.elems.length ++ beBytes 6 d.closeStep.toNat
    ++ beBytes 6 d.applyStep.toNat ++ beBytes 8 d.release.toNat ++ beBytes 2 d.capacity ++ beBytes 6 0
    ++ d.elems.flatMap deltaElemBytes

/-- The record's bytes. -/
def deltaBytes (d : DeltaRec) : List Byte :=
  deltaBody d ++ beBytes 1 d.status ++ beBytes 3 0 ++ beBytes 4 d.check.toNat

/-- Whether CHECK matches (R301). -/
def deltaGood (d : DeltaRec) : Bool := d.check == crc32c (deltaBody d)

def deltaCells (d : DeltaRec) : Nat := (40 + 32 * d.elems.length + 49) / 50

/-- The digest of a decided table: slot, request index and GEN of every occupied slot, in slot order (R303). -/
def tableDigest (t : Tab Nat) : W32 :=
  crc32c (t.flatMap fun x => beBytes 2 x.1 ++ beBytes 2 (slotReq x.2) ++ beBytes 2 (slotGen x.2))

/-! ### The tables in force (R299) -/

/-- The table in force at a step. -/
def SGroup.tableAt (g : SGroup) (n : Step) : Tab Nat :=
  (((g.tables.filter fun x => decide (stepDiff x.1 n ≤ 0)).getLast?).map Prod.snd).getD g.inForce

/-- Tables that have come into force by step `n` are folded into one. -/
def pruneTables (n : Step) (inForce : Tab Nat) : List (Step × Tab Nat) → Tab Nat × List (Step × Tab Nat)
  | [] => (inForce, [])
  | x :: t => if stepDiff x.1 n ≤ 0 then pruneTables n x.2 t else (inForce, x :: t)

/-! ### A step's sampling result (R293) -/

/-- A result of a plane that delivers tokens: not BUSY, not CANCELLED. -/
def sampleGood (x : SampleIn) : Bool :=
  let h := (headOf x.bytes).shape
  let n := recordLen h true
  decide (n ≤ x.bytes.length) && (tailOf x.bytes n).status == 0

def samplePartial (x : SampleIn) : Bool :=
  tbit (tailOf x.bytes (recordLen (headOf x.bytes).shape true)).flags flPartial

/-- Element j's end-of-sequence bit: bit 31 of the index of its first pair (R272). -/
def sampleEos (j : Nat) (x : SampleIn) : Bool :=
  let h := (headOf x.bytes).shape
  let k := if h.op = 9 then max 1 h.k else 1
  decide (j < h.elems) && tbit (elemAt h x.bytes j) (64 * (k - 1) + 31)

/-- A token delivered to an entry at RELEASE. -/
def tokenTake (release : St) (eos part_ one : Bool) (e : LedgerEntry) : LedgerEntry :=
  let miss := !e.dueNone && stLater release e.deadline
  let toks := e.tokens + 1
  let e := { e with
    tokens := toks
    deadline := if e.interval = 0 then e.deadline else release + tu e.interval.toNat
    dueNone := e.dueNone || e.interval == 0
    intervalMiss := e.intervalMiss || miss
    partialToken := e.partialToken || part_
    onePlane := e.onePlane || one }
  if e.state = leActive && (eos || decide (e.maxLen.toNat ≤ toks.toNat)) then
    { e with state := leFinishing, reason := if eos then 6 else 7, eosSeen := e.eosSeen || eos }
  else e

/-- The results of one step, of one or both planes, applied to the entries of the table in force at it. -/
def sampleApply (t : LTab) (slots : Tab Nat) (xs : List SampleIn) : LTab :=
  match xs with
  | [] => t
  | x :: _ =>
    let one := xs.length == 1
    let part_ := xs.any samplePartial
    slots.foldl (fun t z =>
      let r := slotReq z.2
      let e := LTab.entry t r
      if counted e && e.gen.toNat == slotGen z.2 then
        tset zeroEntry t r (tokenTake x.release (xs.any (sampleEos z.1)) part_ one e)
      else t) t

/-- Slots whose end-of-sequence bits differ between the planes. -/
def eosDisagrees (slots : Tab Nat) (xs : List SampleIn) : Nat :=
  match xs with
  | [x, y] => (slots.filter fun z => sampleEos z.1 x != sampleEos z.1 y).length
  | _ => 0

/-! ### The selection of a close (R294 to R297) -/

/-- The order of candidates (R294). -/
def candBefore (a b : Nat × LedgerEntry) : Bool :=
  let act := fun (e : LedgerEntry) => e.state == leActive
  if a.2.prio ≠ b.2.prio then decide (a.2.prio < b.2.prio)
  else if act a.2 != act b.2 then act a.2
  else if a.2.dueNone != b.2.dueNone then b.2.dueNone
  else if !a.2.dueNone && a.2.deadline != b.2.deadline then stLater b.2.deadline a.2.deadline
  else if a.2.arrival ≠ b.2.arrival then stLater b.2.arrival a.2.arrival
  else decide (a.1 < b.1)

def candInsert (x : Nat × LedgerEntry) : List (Nat × LedgerEntry) → List (Nat × LedgerEntry)
  | [] => [x]
  | y :: t => if candBefore x y then x :: y :: t else y :: candInsert x t

def candSort (l : List (Nat × LedgerEntry)) : List (Nat × LedgerEntry) := l.foldr candInsert []

/-- What a close has come to: entries, slots, entries with an EVENT in order, and its counts. -/
structure CloseOut where
  t : LTab
  slots : Tab Nat
  events : List Nat := []
  served : Nat := 0
  delayed : Nat := 0
  refused : Nat := 0
deriving DecidableEq, Repr

def CloseOut.put (o : CloseOut) (r : Nat) (e : LedgerEntry) : CloseOut := { o with t := tset zeroEntry o.t r e }

/-- An entry gives up its slot. -/
def CloseOut.vacate (o : CloseOut) (e : LedgerEntry) : CloseOut :=
  if e.slot < 4096 then { o with slots := tset 0 o.slots e.slot 0 } else o

/-- A refusal at a close (R296). -/
def CloseOut.refuse (o : CloseOut) (n : Step) (r : Nat) (e : LedgerEntry) (reason : Nat) : CloseOut :=
  let o := (o.vacate e).put r { e with
    state := leRefused, reason, outcome := 3, slot := 0xFFFF, lastClose := n.extractLsb' 0 16 }
  { o with events := o.events ++ [r], refused := o.refused + 1 }

/-- The finishing step: FINISHING and cancelled entries are DONE, a paused one leaves the batch (R285, R294). -/
def closeFinish (n : Step) (o : CloseOut) (x : Nat × LedgerEntry) : CloseOut :=
  let e := { x.2 with lastClose := n.extractLsb' 0 16, slot := 0xFFFF, pendPause := false, pendCancel := false }
  if x.2.pendCancel then
    let o := (o.vacate x.2).put x.1 { e with state := leDone, reason := 8 }
    { o with events := o.events ++ [x.1] }
  else if x.2.state = leFinishing then
    let o := (o.vacate x.2).put x.1 { e with state := leDone }
    { o with events := o.events ++ [x.1] }
  else if x.2.pendPause then (o.vacate x.2).put x.1 { e with state := lePaused, reason := 0xB }
  else o

/-- Whether an entry leaves in the finishing step. -/
def finishes (e : LedgerEntry) : Bool := e.pendCancel || e.state == leFinishing || e.pendPause

/-- An entry of the batch: it keeps its slot or takes the next free one (R295, R297). -/
def closeServe (n : Step) (x : Nat × LedgerEntry) (r : CloseOut × List Nat) : CloseOut × List Nat :=
  let e := { x.2 with state := leActive, outcome := 1, reason := 0, lastClose := n.extractLsb' 0 16 }
  let o := { r.1 with served := r.1.served + 1 }
  if x.2.state = leActive then (o.put x.1 e, r.2)
  else match r.2 with
    | [] => (o, [])
    | k :: ks =>
      let e := { e with slot := k }
      ({ o.put x.1 e with slots := tset 0 o.slots k (slotVal x.1 e) }, ks)

/-- An entry of the rest at rank `r`: refused for its position, or delayed (R295, R296). -/
def closeDelay (n : Step) (due : Nat → St) (cap : Nat) (batch : List (Nat × LedgerEntry)) (o : CloseOut)
    (x : (Nat × LedgerEntry) × Nat) : CloseOut :=
  let e := x.1.2
  if !e.dueNone && stLater (due (1 + x.2 / cap)) e.deadline then o.refuse n x.1.1 e 4
  else
    let same := batch.any fun b => b.2.prio == e.prio
    let o := (o.vacate e).put x.1.1 { e with
      state := leQueued, outcome := 2, reason := if same then 1 else 2, slot := 0xFFFF, lastClose := n.extractLsb' 0 16 }
    { o with delayed := o.delayed + 1 }

/-- A close of group `g` at step `n`: `late` says which entries an operation changed too late to take part, `due k` is
start(a + k) + TOKEN_OFS (R294 to R297). -/
def closeSelect (g : SGroup) (sg : Nat) (n : Step) (t : LTab) (late : Nat → Bool) (due : Nat → St) : CloseOut :=
  let mine := t.filter fun x => x.2.sgroup == sg && x.2.slice == g.f.slice
    && (x.2.state == leQueued || x.2.state == leActive || x.2.state == leFinishing)
  let kept := (mine.filter fun x => late x.1 && x.2.state != leQueued).length
  let live := mine.filter fun x => !late x.1
  let o : CloseOut := (live.filter fun x => finishes x.2).foldl (closeFinish n) { t, slots := g.table }
  let go := live.filter fun x => !finishes x.2
  let passed := fun (x : Nat × LedgerEntry) => x.2.state == leQueued && !x.2.dueNone && stLater (due 0) x.2.deadline
  let o := (go.filter passed).foldl (fun o x => o.refuse n x.1 x.2 3) o
  let cand := candSort (go.filter fun x => !passed x)
  let batch := cand.take (g.f.capacity - kept)
  let rest := cand.drop (g.f.capacity - kept)
  let o := (rest.zip (List.range rest.length)).foldl (closeDelay n due g.f.capacity batch) o
  let free := (List.range g.f.capacity).filter fun k => tget 0 o.slots k == 0
  (batch.foldl (fun r x => closeServe n x r) (o, free)).1

/-! ### The delta (R300, R302) -/

/-- How many tokens the ledger expects to deliver to a slot's entry in the steps from `n` on, `k` of them (R300). -/
def expectGo (g : SGroup) (v : Nat) (n : Step) : Nat → Nat
  | 0 => 0
  | k + 1 => (if (g.tableAt n).any (fun x => x.2 == v) then 1 else 0) + expectGo g v (n + 1) k

/-- The elements of a delta between two decided tables, in slot order; all occupied slots for a full one. -/
def deltaElems (t : LTab) (old new : Tab Nat) (full : Bool) (expect : Nat → Nat) : List DeltaElem :=
  let slots := if full then tkeys new else (List.range 4096).filter fun k => tget 0 old k != tget 0 new k
  slots.map fun k =>
    let v := tget 0 new k
    if v = 0 then { join := false, slot := k, req := 0xFFFF, gen := 0, prio := 0, tokens := 0, maxLen := 0, seed := 0, page := 0 }
    else
      let e := LTab.entry t (slotReq v)
      { join := true, slot := k, req := slotReq v, gen := e.gen, prio := e.prio
        tokens := e.tokens + BitVec.ofNat 32 (expect v), maxLen := e.maxLen, seed := e.seed, page := e.page }

end Sys2Proof.Machine
end

