-- ==== Sys2Proof/Machine/Posts.lean ====
section
/-! DEFINITION. Collects at a distributor: posts, limits, results on the way down, the vote on the roots' copies, resends
and post digests (R262 to R267, R330 to R332). -/

namespace Sys2Proof.Machine

open Sys2Proof

/-! ### Opening a post (R262) -/

/-- Combine memory of a role in 1 KiB blocks, after the reserve of R318 (R517). -/
def combineBlocks : Role → Nat
  | .rack => 0x3FA0 | .row => 0x3400 | .root => 0x2000 | .none_ => 0x4000

def blocksOf (h : Shape) : Nat := (recordLen h true + 1023) / 1024

/-- Whether a post for a record cannot be opened (R262). -/
def postFull (s : State) (slice : Nat) (h : Shape) : Bool :=
  let f := s.dist.fab
  decide (64 ≤ (f.posts.filter (·.slice == slice)).length) || decide (1024 ≤ f.posts.length)
    || decide (combineBlocks s.role < f.memUsed + blocksOf h)

/-- An instance is refused: a BUSY record upward, or downward from the top, and its cells discarded until RELEASE
(R262). -/
def postRefuse (s : State) (q : Post) : State :=
  let s := s.count .dist .collectBusy q.slice { slice := some q.slice } 1
  let s := keyPut s q.slice q.id q.plane (headOf q.head).release false
  let tmpl : OutCell := { slice := q.slice, ce := q.ce, me := q.me, at_ := s.now .dist, body := postBody q [] }
  sendRecord s .dist (postOut s q) tmpl (postBody q) (q.head ++ tailBytes { status := 2, flags := 0, contrib := 0 })

/-- A stray collect cell (R264). -/
def postStray (s : State) (a : Arr) : State :=
  s.count .dist .postStray 0 { slice := some a.slice, port := some a.port } 1

/-- A stray from a port outside the mask, with its event (R264). -/
def postOutside (s : State) (a : Arr) (id : Nat) : State :=
  suspectPort (postStray s a) .dist a.port causeCell (BitVec.ofNat 32 id)

/-! ### Cells of a record (R264, R266, R332) -/

/-- The status that a short record or a tail brings: CANCELLED before BUSY (R12, R277). -/
def statusJoin (a b : Nat) : Nat := if a = 0x13 ∨ b = 0x13 then 0x13 else if a = 0 then b else a

/-- COLLECT_MISMATCH: a head that differs from the post's (R266). -/
def postMismatch (s : State) (q : Post) (a : Arr) (pos : Nat) (h : Head) : State :=
  let own := headOf q.head
  if h = own then postAdvance s q
  else
    let s := s.count .dist .collectMismatch 0 { slice := some q.slice, port := some a.port } 1
    if h.shape ≠ own.shape ∨ h.group ≠ own.group then postRemove s q (· == pos) (2 ^ flMismatch + 2 ^ flPartial)
    else
      let q' := { q with flags := q.flags ||| 2 ^ flMismatch }
      postAdvance (putPost s q q') q'

/-- One cell of a port's record joins its post. -/
def postCell (s : State) (q : Post) (a : Arr) (c : CollectCell) : State :=
  let pos := portPos s.role a.port
  let x := q.port pos
  if !q.mask.getLsbD pos then postOutside s a q.id
  else if x.whole then postStray s a
  else if !q.waiting.contains pos then s
  else if a.first && shortRecord a.last c.data then
    let q' := { q with status := statusJoin q.status (fieldAt c.data 32 1), waiting := q.waiting.erase pos }
    postAdvance (putPost s q q') q'
  else
    let h := q.shape
    let n := recordLen h false
    let bytes := x.bytes ++ c.data
    let cells := x.cells + 1
    let fits := decide (cells = recordCells h false)
    let x1 : PostPort := { x with port := a.port, bytes, cells, whole := a.last && fits }
    let k := elemsIn h x1
    let bad := residueScan h bytes x.checked k
    let x2 := { x1 with checked := k, resDiff := x.resDiff.or bad.head? }
    let s := if bad.isEmpty then s
      else s.count .dist .residueFail 0 { slice := some q.slice, port := some a.port } bad.length
    let q' := { q with
      ports := tset {} q.ports pos x2
      flags := if bad.isEmpty then q.flags else q.flags ||| 2 ^ flResFail
      status := if x2.whole then statusJoin q.status (tailOf bytes n).status else q.status }
    let s := putPost s q q'
    let s := if x2.whole then
        residueEvent s a.port q.id (distStep s q.slice q.id) x2.resDiff (tailOf bytes n).flags else s
    if a.last && !fits then postRemove s q' (· == pos) (2 ^ flTorn + 2 ^ flPartial)
    else if a.first then postMismatch s q' a pos (headOf c.data)
    else postAdvance s q'

/-- POST_OPEN: the first cell of a key opens a post, or the instance is refused (R262). -/
def postOpen (s : State) (a : Arr) (c : CollectCell) (plane : Plane) : State :=
  let id := c.desc * 64 + c.inst
  let h := headOf c.data
  match tget none s.dist.fab.hgroups h.group with
  | none => postOutside s a id
  | some g =>
    let mask := groupMask s g (plane == .b)
    if g.slice ≠ a.slice ∨ !mask.getLsbD (portPos s.role a.port) then postOutside s a id
    else
      let q : Post := {
        slice := a.slice, id, plane, head := c.data.take 32, ce := a.ce, me := a.me, top := g.top, mask
        waiting := maskBits 96 mask.toNat, opened := s.now .dist, blocks := blocksOf h.shape }
      if postFull s a.slice h.shape then postRefuse s q
      else
        let s := s.event .dist 0x080 { slice := some a.slice, port := some a.port } 1
        let s := s.modFabric fun f =>
          let posts := f.posts ++ [q]
          { f with
            posts, memUsed := f.memUsed + q.blocks, memLow := max f.memLow (f.memUsed + q.blocks)
            postsMax := tmod 0 f.postsMax a.slice (max (posts.filter (·.slice == a.slice)).length) }
        postCell s q a c

/-- The bytes that the open post of a cell's key holds from its port. -/
def upBytes (s : State) (a : Arr) (id : Nat) (plane : Plane) : List Byte :=
  match s.dist.fab.posts.find? (·.same a.slice id plane) with
  | none => []
  | some q => (q.port (portPos s.role a.port)).bytes

/-- Whether a collect cell's instance deadline has not passed, as far as this distributor's turning shows (R43, R255). -/
def distInTime (slice id : Nat) (s : State) : Bool :=
  match distDeadline s slice id with
  | some d => inTime s .dist d
  | none => true

/-- COLLECT_UP_RECEIVE (R262 to R266, R332). -/
def execCollectUpReceive (a : Arr) (c : CollectCell) (s : State) : Host.Outcome State Fault Refusal :=
  onPort .dist a.port s fun s =>
    let id := c.desc * 64 + c.inst
    let plane := planeOf (cellPlaneB s a)
    match distIn s a 6 (a.slice * 65536 + id) (tailBad false a.last (upBytes s a id plane ++ c.data))
        (distInTime a.slice id) with
    | (s, .ok) =>
      match s.dist.fab.posts.find? (·.same a.slice id plane) with
      | some q => postCell s q a c
      | none =>
        match s.dist.fab.refused.find? fun e =>
            e.slice == a.slice && e.id == id && e.plane == plane && stLater e.until_ (s.now .dist) with
        | some e => if e.closed then postStray s a else s
        | none => if a.first then postOpen s a c plane else postStray s a
    | (s, _) => s

/-! ### Limits (R263) -/

/-- The level times H after DEADLINE, and S + H after that. -/
def postLimit (s : State) (q : Post) (torn : Bool) : St :=
  let h := headOf q.head
  let ticks := (recordCells h.shape false + 23) / 24
  h.deadline + tu (roleLevel s.role * hopTu s + (if torn then ticks * tickTu + hopTu s else 0))

/-- POST_DEADLINE_LIMIT: waiting ports that have sent no cell are removed with PARTIAL (R263). -/
def execPostDeadlineLimit (slice id : Nat) (plane : Plane) (s : State) : Host.Outcome State Fault Refusal :=
  .next <|
    match s.dist.fab.posts.find? (·.same slice id plane) with
    | none => s
    | some q =>
      if stGe (s.now .dist) (postLimit s q false) then
        postRemove s q (fun p => (q.port p).cells == 0) (2 ^ flPartial)
      else s

/-- POST_TORN_LIMIT: ports whose record is still incomplete are removed with TORN and PARTIAL (R263). -/
def execPostTornLimit (slice id : Nat) (plane : Plane) (s : State) : Host.Outcome State Fault Refusal :=
  .next <|
    match s.dist.fab.posts.find? (·.same slice id plane) with
    | none => s
    | some q =>
      if stGe (s.now .dist) (postLimit s q true) then
        postRemove s q (fun p => !(q.port p).whole) (2 ^ flTorn + 2 ^ flPartial)
      else s

/-! ### Results on the way down (R264, R330, R332) -/

/-- The ports on which a BATCH_DELTA of a serving group leaves downward (R300): the routes of a resend, else the group's
mask, else, where the serving group is not known here, the slice's map. -/
def deltaPorts (s : State) (slice sg id : Nat) : List Nat :=
  let rs := (s.dist.fab.routes.filter fun r =>
    r.slice == slice && r.id == 65536 + sg && stLater r.until_ (s.now .dist)).map (·.port)
  if !rs.isEmpty then rs
  else
    let mask : BitVec 96 := match (tget none s.dist.led.sgs sg).bind fun g => tget none s.dist.fab.hgroups g.f.group with
      | some p => p.mask &&& ~~~s.dist.fab.outNew
      | none => sliceMap s slice
    (maskBits 96 mask.toNat).map fun k => posPort s k id

/-- Where a COLLECT_DOWN cell goes: every port of its post's mask, or of its routes when no post is open. -/
def downPorts (s : State) (slice id : Nat) : List Nat :=
  if 65536 ≤ id then deltaPorts s slice (id / 256 % 256) id
  else match s.dist.fab.posts.find? fun q => q.slice == slice && q.id == id && !q.top with
  | some q => (maskBits 96 q.mask.toNat).map fun k => posPort s k id
  | none => (s.dist.fab.routes.filter fun r =>
      r.slice == slice && r.id == id && stLater r.until_ (s.now .dist)).map (·.port)

/-- A data byte with RES_FAIL set, where the cell holds the tail's FLAGS (R332). -/
def setResFail (at_ : Nat) (data : List Byte) : List Byte :=
  data.modify at_ (· ||| BitVec.ofNat 8 (2 ^ flResFail))

/-- Forwards one cell of a BATCH_DELTA down, its identifier standing 65,536 above that of a collect (R300). -/
def forwardDelta (s : State) (slice : Nat) (ce me : Epoch) (c : CollectCell) (first last : Bool) : State :=
  (downPorts s slice (c.desc * 64 + c.inst)).foldl (fun s i => sendP2 s .dist i {
    slice, ce, me, first, last, at_ := s.now .dist, body := .collectDown c }) s

/-- Forwards one cell down and checks the elements that it completes; the post is freed behind the tail (R264,
R332). -/
def forwardDown (s : State) (port slice : Nat) (ce me : Epoch) (c : CollectCell) (first last : Bool) : State :=
  let id := c.desc * 64 + c.inst
  if 65536 ≤ id then forwardDelta s slice ce me c first last
  else
  let old : Down := if first then { slice, id, port } else
    (s.dist.fab.downs.find? fun d => d.slice == slice && d.id == id).getD { slice, id, port }
  let bytes := old.bytes ++ c.data
  let h := (headOf bytes).shape
  let n := recordLen h true
  let k := min h.elems ((bytes.length - 32) / wireWidth h)
  let bad := residueScan h bytes old.checked k
  let new : Down := { old with bytes, checked := k, resDiff := old.resDiff.or bad.head? }
  let at_ := n - 7
  let data := if new.resDiff.isSome && decide (old.bytes.length ≤ at_ ∧ at_ < bytes.length)
    then setResFail (at_ - old.bytes.length) c.data else c.data
  let s := (downPorts s slice id).foldl (fun s i => sendP2 s .dist i {
    slice, ce, me, first, last, at_ := s.now .dist, body := .collectDown { c with data } }) s
  let s := if bad.isEmpty then s
    else s.count .dist .residueFail 0 { slice := some slice, port := some port } bad.length
  let rest := s.dist.fab.downs.filter fun d => !(d.slice == slice && d.id == id)
  let s := s.modFabric fun f => { f with downs := if last then rest else rest ++ [new] }
  if last then
    let s := residueEvent s port id (distStep s slice id) new.resDiff
      (if n ≤ bytes.length then (tailOf bytes n).flags else 0)
    match s.dist.fab.posts.find? fun q => q.slice == slice && q.id == id && !q.top with
    | some q => postFree s q
    | none => s
  else s

/-! ### The vote on the roots' copies (R267) -/

def sameCopy (a b : Nat × CollectCell × Bool × Bool) : Bool := a.2 == b.2

/-- The first copy of a cell that another root's copy matches. -/
def agreed (v : VoteCell) : Option (Nat × CollectCell × Bool × Bool) :=
  v.copies.find? fun x => v.copies.any fun y => y.1 != x.1 && sameCopy x y

def setVote (s : State) (v v' : RootVote) : State := s.modFabric fun f => { f with votes := f.votes.replace v v' }

/-- Forwards the next unsent cell of a vote: an agreed copy or the one given. -/
def voteSend (s : State) (v : RootVote) (k : Nat) (x : Nat × CollectCell × Bool × Bool) : State × RootVote :=
  let v' := { v with
    cells := v.cells.modify k (fun y => { y with sent := true })
    closed := if x.2.2.2 then some (s.now .dist + tu (2 * tickTu)) else v.closed }
  (forwardDown (setVote s v v') x.1 v.slice v.ce v.me x.2.1 x.2.2.1 x.2.2.2, v')

/-- Forwards cells in order while two copies agree. -/
def voteFlush (s : State) (v : RootVote) : Nat → State
  | 0 => s
  | n + 1 =>
    if v.blocked then s
    else match (v.cells.zip (List.range v.cells.length)).find? fun e => !e.1.sent with
      | none => s
      | some (y, k) =>
        match agreed y with
        | none => s
        | some x =>
          let r := voteSend s v k x
          voteFlush r.1 r.2 n

/-- A root whose copy differs from two agreeing copies draws one hard event for the instance (R267, R333). -/
def voteOutvoted (s : State) (v : RootVote) (y : VoteCell) : State :=
  match agreed y with
  | none => s
  | some x =>
    match y.copies.find? fun z => !sameCopy x z && !v.charged.contains z.1 with
    | none => s
    | some z =>
      hardEvent (setVote s v { v with charged := v.charged ++ [z.1] }) .dist (neighbour s .dist z.1) causeOutvoted {
        opref := BitVec.ofNat 32 ((v.id * 65536) + (distStep s v.slice v.id).toNat % 65536), port := some z.1 }

/-- A root's cell joins the vote of its instance. -/
def voteCopy (s : State) (v : RootVote) (a : Arr) (c : CollectCell) : State :=
  let k := (v.cells.filter fun y => y.copies.any (·.1 == a.port)).length
  let x := (a.port, c, a.first, a.last)
  let cells := if k < v.cells.length then v.cells.modify k (fun y => { y with copies := y.copies ++ [x] })
    else v.cells ++ [{ copies := [x], first := s.now .dist }]
  let v' := { v with cells }
  let s := setVote s v v'
  let s := match v'.cells[k]? with
    | some y => voteOutvoted s v' y
    | none => s
  match s.dist.fab.votes.find? fun w => w.slice == v.slice && w.id == v.id with
  | some w => if w.closed.isSome then s else voteFlush s w w.cells.length
  | none => s

/-- COLLECT_DOWN_RECEIVE: forwarded cut-through below the top; at a row distributor, once two roots' copies agree (R264,
R267). A BATCH_DELTA cell travels in the same way (R300). -/
def execCollectDownReceive (a : Arr) (c : CollectCell) (s : State) : Host.Outcome State Fault Refusal :=
  onPort .dist a.port s fun s =>
    let delta := a.ctype == 0xA
    let c := if delta then { c with desc := c.desc + 1024 } else c
    let id := c.desc * 64 + c.inst
    let sofar := ((s.dist.fab.downs.find? fun d => d.slice == a.slice && d.id == id).map (·.bytes)).getD []
    match distIn s a (if delta then 10 else 7) (a.slice * 65536 + id)
        (!delta && s.role != .row && tailBad true a.last ((if a.first then [] else sofar) ++ c.data))
        (fun s => delta || distInTime a.slice id s) with
    | (s, .ok) =>
      let now := s.now .dist
      let s := s.modFabric fun f => { f with
        votes := f.votes.filter fun v => !(v.closed.any fun x => stGe now x)
        routes := f.routes.filter fun r => stLater r.until_ now }
      let known := !(downPorts s a.slice id).isEmpty
      if portBelow s.role a.port then postOutside s a id
      else if s.role != .row then
        (if known then forwardDown s a.port a.slice a.ce a.me c a.first a.last else postStray s a)
      else
        let fresh : RootVote := { slice := a.slice, id, ce := a.ce, me := a.me }
        match s.dist.fab.votes.find? fun v => v.slice == a.slice && v.id == id with
        | none =>
          if known && a.first then voteCopy (s.modFabric fun f => { f with votes := f.votes ++ [fresh] }) fresh a c
          else postStray s a
        | some v =>
          if a.first && v.cells.head?.any (fun y => y.copies.any (·.1 == a.port)) then
            (if known then voteCopy (setVote s v fresh) fresh a c else postStray s a)
          else voteCopy s v a c
    | (s, _) => s

/-- Sends a REPLY or EVENT down to its die (R290, R308). -/
def ledgerDown (s : State) (slice : Nat) (ce me : Epoch) (m : LedgerMsg) : State :=
  (dieRoute s 96 m.src m.opId.toNat).foldl (fun s i =>
    if !downOk s slice i then s
    else sendP2 s .dist i { slice, ce, me, cells := 2, at_ := s.now .dist, body := .ledger m }) s

/-- The vote on a ledger message that is due: a lone copy is forwarded, two that disagree are not (R267). -/
def ledVoteExpire (s : State) (slice op : Nat) : State :=
  match s.dist.fab.ledVotes.find? fun v => v.slice == slice && !v.sent && v.copies.any (fun c => c.2.opId.toNat == op)
      && stGe (s.now .dist) (v.first + tu (2 * tickTu)) with
  | none => s
  | some v =>
    let s := s.modFabric fun f => { f with ledVotes := f.ledVotes.replace v { v with sent := true } }
    match v.copies with
    | [c] => ledgerDown s slice v.ce v.me c.2
    | _ => s

/-- ROOT_VOTE_EXPIRE: 2 ticks after the first copy of a cell, a lone copy is forwarded and two that disagree block the
instance; a closed vote's state is dropped (R264, R267). An identifier from 131,072 names a LEDGER message by its
OP_ID. -/
def execRootVoteExpire (slice id : Nat) (s : State) : Host.Outcome State Fault Refusal :=
  .next <|
    let now := s.now .dist
    if 131072 ≤ id then ledVoteExpire s slice (id - 131072)
    else match s.dist.fab.votes.find? fun v => v.slice == slice && v.id == id with
    | none => s
    | some v =>
      if v.closed.any fun x => stGe now x then s.modFabric fun f => { f with votes := f.votes.erase v }
      else if v.blocked || v.closed.isSome then s
      else match (v.cells.zip (List.range v.cells.length)).find? fun e => !e.1.sent with
        | none => s
        | some (y, k) =>
          if !stGe now (y.first + tu (2 * tickTu)) then s
          else match y.copies with
            | [x] =>
              let r := voteSend s v k x
              if r.2.closed.isSome then r.1 else voteFlush r.1 r.2 r.2.cells.length
            | _ => setVote s v { v with blocked := true }

/-! ### Resends (R330) -/

/-- The records of BATCH_DELTA that a root keeps for a resend go down the requesting port (R328, R330). -/
def resendDelta (s : State) (port slice sg : Nat) (step : Step) : State :=
  match s.dist.led.kept.find? fun k =>
      k.1.sgroup == sg && k.2.1 == slice && k.1.closeStep == step && stLater (k.2.2 + tu (keepTu s)) (s.now .dist) with
  | none => s
  | some k => sendP2 s .dist port { cellNow s .dist slice (.delta k.1) with cells := deltaCells k.1 }

/-- RESEND_RECEIVE: the top that still holds the record resends it; a part below the top passes the request upward and
holds a route for 64 ticks (R330). -/
def execResendReceive (port : Nat) (v : Vote) (s : State) : Host.Outcome State Fault Refusal :=
  onPort .dist port s fun s =>
    match v.body with
    | .resend slice id isDelta step =>
      if !voteFresh s .dist v then voteStaleIn s port
      else if voteBarred s v then s
      else
        let now := s.now .dist
        let plane := planeOf (portPlaneB s .dist port)
        if s.role == .root && isDelta then resendDelta s port slice id step
        else match s.dist.fab.kept.find? fun k =>
            !isDelta && k.isTop && k.slice == slice && k.id == id && k.plane == plane && k.step == step
              && stLater (k.sent + tu (keepTu s)) now with
          | some k =>
            let body := fun bs => Body.collectDown { desc := id / 64, inst := id % 64, data := bs }
            sendRecord s .dist [port] { slice, ce := k.ce, me := k.me, at_ := now, body := body [] } body k.bytes
          | none =>
            if s.role == .root then s
            else
              let s := s.modFabric fun f => { f with
                routes := (f.routes.filter fun r => stLater r.until_ now && !(r.slice == slice && r.id == id && r.port == port))
                  ++ [{ slice, id := if isDelta then 65536 + id else id, port, until_ := now + tu (64 * tickTu) }] }
              relayVote s (upPorts s id) v
    | _ => s

/-- RESULT_KEEP_EXPIRE: a kept record's time has passed (R330, R331). -/
def execResultKeepExpire (slice id : Nat) (s : State) : Host.Outcome State Fault Refusal :=
  .next <| s.modFabric fun f => { f with
    kept := f.kept.filter fun k =>
      !(k.slice == slice && k.id == id && stGe (s.now .dist) (k.sent + tu (keepTu s))) }

/-! ### Post digests (R331) -/

/-- DIGEST_REQ_RECEIVE: a post that still holds the digest answers, and the request goes down its mask (R331). -/
def execDigestReqReceive (port : Nat) (v : Vote) (s : State) : Host.Outcome State Fault Refusal :=
  onPort .dist port s fun s =>
    match v.body with
    | .digestReq slice id step =>
      if !voteFresh s .dist v then voteStaleIn s port
      else if voteBarred s v then s
      else match s.dist.fab.kept.find? fun k =>
          !k.isTop && k.slice == slice && k.id == id && k.step == step && stLater (k.sent + tu (keepTu s)) (s.now .dist) with
        | none => s
        | some k =>
          let s := sendOwnVote s v.src (.postDigest slice id (roleLevel s.role) k.digest)
          if s.role == .row then relayVote s ((maskBits 96 k.mask.toNat).map fun p => posPort s p id) v else s
    | _ => s

/-- DIGEST_REQ from this root on the first split report of an instance, down both planes by the group's masks. -/
def digestStart (s : State) (slice id : Nat) (step : Step) (reporter : Node) : State :=
  match s.dist.digests.find? fun d => d.slice == slice && d.id == id && d.step == step with
  | some d => { s with dist.digests := s.dist.digests.replace d { d with
      reporters := if d.reporters.contains reporter then d.reporters else d.reporters ++ [reporter] } }
  | none =>
    let ports := (s.dist.fab.kept.filter fun k => k.slice == slice && k.id == id && k.step == step).flatMap fun k =>
      (maskBits 96 k.mask.toNat).map fun p => posPort s p id
    let s := { s with dist.digests := s.dist.digests ++ [{
      slice, id, step, sent := s.now .dist, reporters := [reporter], answers := [] }] }
    sendVotes s .dist ports (ownVote s allRoots (.digestReq slice id step))

/-- POST_DIGEST_RECEIVE: a root collects the answers; a row relays them (R331). -/
def execPostDigestReceive (port : Nat) (v : Vote) (s : State) : Host.Outcome State Fault Refusal :=
  onPort .dist port s fun s =>
    match voteIn s port v, v.body with
    | (s, true), .postDigest slice id level crc =>
      match s.dist.digests.find? fun d => d.slice == slice && d.id == id && !d.charged with
      | none => s
      | some d => { s with dist.digests := s.dist.digests.replace d { d with
          answers := d.answers.filter (fun x => x.1 != v.src) ++ [(v.src, level, crc)] } }
    | (s, _), _ => s

/-- A node ID without its plane bit: sister posts share it. -/
def sisterKey (n : Node) : Node := n &&& ~~~(0x10#24)

/-- Whether the answers of one pair of sisters agree; a pair without two answers is left out. -/
def pairDiffers (as_ : List (Node × Nat × W32)) (k : Node) : Bool :=
  match as_.filter fun x => sisterKey x.1 == k with
  | [x, y] => x.2.2 != y.2.2
  | _ => false

/-- The highest pair that differs while its children agree: a row whose racks all agree, else a rack (R331). -/
def splitPair (as_ : List (Node × Nat × W32)) : Option Node :=
  let keys := (as_.map fun x => sisterKey x.1).eraseDups
  let rackBad := fun (row : Node) => keys.any fun k =>
    nodeKind k == 1 && nodeRow k == nodeRow row && pairDiffers as_ k
  match keys.find? fun k => nodeKind k == 2 && pairDiffers as_ k && !rackBad k with
  | some k => some k
  | none => keys.find? fun k => nodeKind k == 1 && pairDiffers as_ k

/-- The rack distributors of a die (R331). -/
def dieRacks (d : Node) : List Node :=
  [mkNode 1 (nodeRow d) (nodeRack d) 0 0 0, mkNode 1 (nodeRow d) (nodeRack d) 0 1 0]

/-- Charges one split event to each of these parts in this root's tally. -/
def chargeSplit (s : State) (opref : Nat) (ns : List Node) : State :=
  ns.foldl (fun s n => tallyPut s (s.node .dist) (s.now .dist) {
    accused := n, hard := false, split := true, cause := causeDiffer, tj := s.dist.b.tj, region := 255, freq := 255
    opref := BitVec.ofNat 32 opref, p2Slots := 0, p1Depth := 0, stretch := 0, detail := 0 }) s

/-- DIGEST_WAIT_EXPIRE: RESULT_KEEP after DIGEST_REQ the root charges the pair that the digests name, or the rack
distributors of the reporting dies (R331). -/
def execDigestWaitExpire (slice id : Nat) (s : State) : Host.Outcome State Fault Refusal :=
  .next <|
    match s.dist.digests.find? fun d =>
        d.slice == slice && d.id == id && !d.charged && stGe (s.now .dist) (d.sent + tu (keepTu s)) with
    | none => s
    | some d =>
      let ns := match splitPair d.answers with
        | some k => [k, k ||| 0x10#24]
        | none => (d.reporters.flatMap dieRacks).eraseDups
      let s := { s with dist.digests := s.dist.digests.replace d { d with charged := true } }
      chargeSplit s (id * 65536 + d.step.toNat % 65536) ns

end Sys2Proof.Machine
end

