-- ==== Sys2Proof/Machine/Ledger.lean ====
section
/-! DEFINITION. The step ledger at a distributor: operations, replies and events, closes and their sampling results, batch
deltas, the roots' digests (R281 to R304). -/

namespace Sys2Proof.Machine

open Sys2Proof

/-! ### Configured figures (R289, R293, R287, R513) -/

def ledgerIngest (s : State) : Nat := clampN 2 100 (s.cfg .dist 0x1B8 4) * 64000
def sampleWait (s : State) : Nat := clampN 0 100 (s.cfg .dist 0x1C0 4) * 64000
def retainTime (s : State) : Nat := clampN 1 60000 (s.cfg .dist 0x1C8 0x3E8) * 64000000

/-- The deadline of a LEDGER cell as a distributor applies it: the default of LEDGER_OP_DEADLINE, which is a register of
the die (R288). -/
def ledgerDeadline (m : LedgerMsg) : St := m.submitSt + tu 6400000

/-! ### Sending (R290, R291, R300, R354) -/

/-- The ports on which an output of the ledger leaves a root. -/
def ledgerPorts (s : State) (c : OutCell) : List Nat :=
  match c.body with
  | .ledger m => [2 * nodeRow m.src, 2 * nodeRow m.src + 1].filter fun i => downOk s c.slice i
  | .delta d => deltaPorts s c.slice d.sgroup 0
  | _ => []

def ledgerSend (s : State) (c : OutCell) : State := (ledgerPorts s c).foldl (fun s i => sendP2 s .dist i c) s

/-- An output of the ledger: sent, or held through an election (R354). -/
def ledgerOut (s : State) (c : OutCell) : State :=
  if s.dist.mem.holdOut then s.modLed fun l => { l with heldOut := l.heldOut ++ [c] } else ledgerSend s c

/-- The held outputs go out (R354, R355). -/
def releaseHeld (s : State) : State :=
  let cs := s.dist.led.heldOut
  let s := (s.modLed fun l => { l with heldOut := [] }).modMem fun m => { m with holdOut := false }
  cs.foldl ledgerSend s

/-- A REPLY to an operation, on both planes (R290). -/
def ledgerReply (s : State) (x : Ingest) (st : Status) (req : Nat) (e : LedgerEntry) (now : Bool) : State :=
  let m : LedgerMsg := { x.msg with
    op := 7, status := st.ctorIdx, req, gen := e.gen, entry := e, sg := 0, step := 0, arg := 0 }
  let c := cellNow s .dist x.slice (.ledger m)
  ledgerOut s { c with cells := 2, ce := if now then c.ce else x.ce, me := if now then c.me else x.me }

/-- LEDGER_EVENT_SEND: an entry has become DONE or REFUSED (R291). -/
def ledgerEvent (s : State) (r : Nat) : State :=
  let e := s.entry r
  let t := tickSt (tickOf (s.now .dist))
  let m : LedgerMsg := {
    op := 8, src := dieNode e.ownerDie, opId := s.dist.led.eventId, req := r, gen := e.gen
    status := if e.state = leRefused then Status.refused.ctorIdx else 0
    mbx := e.ownerMbx, submitSt := t, entry := e, sg := 0, step := 0, arg := 0 }
  let s := s.modLed fun l => { l with eventId := l.eventId + 1, doneAt := tset none l.doneAt r (some t) }
  ledgerOut s { cellNow s .dist e.slice (.ledger m) with cells := 2 }

/-! ### Cells on the way up and down (R59 to R61, R267, R288, R303) -/

/-- A LEDGER message at a distributor: its cells share one header but for SEQ. -/
def ledgerIn (s : State) (a : Arr) (m : LedgerMsg) : State × Rx :=
  let r := distIn s a 9 m.opId.toNat (decide (0x13 < m.status)) fun s => inTime s .dist (ledgerDeadline m)
  (r.1.modPort .dist a.port fun q => { q with rxSeq := q.rxSeq + BitVec.ofNat 16 (ledgerCells m.op - 1) }, r.2)

/-- A request or CLOSE goes up (R59, R61). -/
def ledgerUp (s : State) (a : Arr) (m : LedgerMsg) : State :=
  (upPorts s m.opId.toNat).foldl (fun s i => sendP2 s .dist i {
    slice := a.slice, ce := a.ce, me := a.me, cells := ledgerCells m.op, at_ := s.now .dist, body := .ledger m }) s

/-- A root's copy of a REPLY or EVENT at a row distributor: forwarded once two agree; one that differs from two that
agree draws a hard event (R267, R303). -/
def ledVoteCopy (s : State) (a : Arr) (m : LedgerMsg) : State :=
  let now := s.now .dist
  let s := s.modFabric fun f => { f with
    ledVotes := f.ledVotes.filter fun v => stLater (v.first + tu (8 * tickTu)) now }
  match s.dist.fab.ledVotes.find? fun v => v.slice == a.slice &&
      v.copies.any (fun c => c.2.src == m.src && c.2.opId == m.opId && c.2.op == m.op) with
  | none => s.modFabric fun f => { f with
      ledVotes := f.ledVotes ++ [{ slice := a.slice, ce := a.ce, me := a.me, copies := [(a.port, m)], first := now }] }
  | some v =>
    if v.copies.any (·.1 == a.port) then s
    else
      let same := (v.copies.filter fun c => c.2 == m).length
      let v' := { v with copies := v.copies ++ [(a.port, m)], sent := v.sent || decide (0 < same) }
      let s := s.modFabric fun f => { f with ledVotes := f.ledVotes.replace v v' }
      let charge := fun (s : State) (port : Nat) =>
        hardEvent s .dist (neighbour s .dist port) causeOutvoted { opref := m.opId.setWidth 32, port := some port }
      let s := if v.copies.length = 2 then
          (match v.copies with
            | [x, y] =>
              if x.2 = y.2 ∧ x.2 ≠ m then charge s a.port
              else if x.2 = m ∧ y.2 ≠ m then charge s y.1
              else if y.2 = m ∧ x.2 ≠ m then charge s x.1 else s
            | _ => s)
        else s
      if !v.sent && decide (0 < same) then ledgerDown s a.slice v.ce v.me m else s

/-- A LEDGER message below the roots: upward as it comes, downward to its die, from the roots by their vote. -/
def ledgerRelay (s : State) (a : Arr) (m : LedgerMsg) : State :=
  if portBelow s.role a.port then ledgerUp s a m
  else if m.op ≠ 7 ∧ m.op ≠ 8 then s
  else if s.role == .row then ledVoteCopy s a m
  else ledgerDown s a.slice a.ce a.me m

/-! ### Operations (R289, R290) -/

/-- The key of an operation: issuer, OP_ID and SUBMIT_ST. -/
def sameOp (x y : LedgerMsg) : Bool := x.src == y.src && x.opId == y.opId && x.submitSt == y.submitSt

/-- An operation is held for commit; the copies of the two planes merge; one that comes too late is discarded (R289). -/
def ledgerHold (s : State) (a : Arr) (m : LedgerMsg) : State :=
  if stLater (s.now .dist) (m.submitSt + tu (ledgerIngest s)) then s.count .dist .ledgerLateIn 0 {} 1
  else if s.dist.led.ingest.any fun x => sameOp x.msg m then s
  else s.modLed fun l => { l with ingest := l.ingest ++ [{ msg := m, slice := a.slice, ce := a.ce, me := a.me }] }

/-- LEDGER_CELL_RECEIVE: a root holds an operation; any other distributor passes the message on (R288, R289, R303). A
root answers a stale request (R43). -/
def execLedgerCellReceive (a : Arr) (m : LedgerMsg) (s : State) : Host.Outcome State Fault Refusal :=
  onPort .dist a.port s fun s =>
    match ledgerIn s a m with
    | (s, .ok) =>
      if s.role != .root then ledgerRelay s a m
      else if 1 ≤ m.op ∧ m.op ≤ 6 then ledgerHold s a m else s
    | (s, .stale) =>
      if s.role == .root && decide (1 ≤ m.op ∧ m.op ≤ 6) then
        ledgerReply s { msg := m, slice := a.slice, ce := a.ce, me := a.me } .epochStale m.req zeroEntry true
      else s
    | (s, .drop) => s

/-- The order of commit: SUBMIT_ST, die global index, OP_ID (R289). -/
def opBefore (x y : Ingest) : Bool :=
  if x.msg.submitSt ≠ y.msg.submitSt then stLater y.msg.submitSt x.msg.submitSt
  else if x.msg.src ≠ y.msg.src then decide (dieIndex x.msg.src < dieIndex y.msg.src)
  else decide (x.msg.opId.toNat < y.msg.opId.toNat)

def opInsert (x : Ingest) : List Ingest → List Ingest
  | [] => [x]
  | y :: t => if opBefore x y then x :: y :: t else y :: opInsert x t

def opSort (l : List Ingest) : List Ingest := l.foldr opInsert []

/-- SUBMIT (R290): DENIED, FULL, REFUSED with PARTITION_FULL, or OK. -/
def opSubmit (s : State) (x : Ingest) (t : St) : State :=
  let m := x.msg
  let known := (s.sgroup m.entry.sgroup).any fun g => g.f.valid && g.f.slice == x.slice
  if !known then ledgerReply s x .denied 0 zeroEntry false
  else match freeReq s.dist.led.table with
    | none => ledgerReply (s.count .dist .ledgerFull x.slice {} 1) x .full 0 zeroEntry false
    | some r =>
      let full := decide (quotaOf s.dist.led x.slice ≤ quotaUse s.dist.led.table x.slice)
      let short := decide (m.entry.maxLen.toNat ≤ m.entry.tokens.toNat)
      let dl := stClamp62 t m.entry.deadline
      let e : LedgerEntry := { zeroEntry with
        slice := x.slice, sgroup := m.entry.sgroup, prio := m.entry.prio % 8, gen := (s.entry r).gen + 1, slot := 0xFFFF
        tokens := m.entry.tokens, maxLen := if short then m.entry.tokens + 1 else m.entry.maxLen
        deadline := dl, interval := m.entry.interval, arrival := m.submitSt, page := m.entry.page, seed := m.entry.seed
        owner := m.entry.owner, ownerDie := dieIndex m.src, ownerMbx := m.mbx
        state := if full then leRefused else leQueued, reason := if full then 5 else 0 }
      let s := (s.clamped .dist short).clamped .dist (decide (dl ≠ m.entry.deadline))
      let s := s.modEntry r fun _ => e
      let s := s.modLed fun l => { l with changed := tset none l.changed r (some t), doneAt := tset none l.doneAt r none }
      if full then ledgerEvent (ledgerReply s x .refused r e false) r else ledgerReply s x .ok r e false

/-- What PAUSE, RESUME, CANCEL and RELEASE make of an entry, judged against the state that a pending change will leave;
none where the state is not a From for them (R285). -/
def opTransition (op : Nat) (e : LedgerEntry) : Option LedgerEntry :=
  let st := e.state
  if e.pendCancel then none
  else match op with
    | 3 =>
      if e.pendPause then none
      else if st = leQueued then some { e with state := lePaused, reason := 0xB }
      else if st = leActive then some { e with pendPause := true } else none
    | 4 =>
      if e.pendPause then some { e with pendPause := false }
      else if st = lePaused then some { e with state := leQueued, reason := 0 } else none
    | 5 =>
      if st = leQueued ∨ st = lePaused then some { e with state := leDone, reason := 8 }
      else if st = leActive ∨ st = leFinishing then some { e with pendCancel := true, pendPause := false } else none
    | 6 => if st = leDone ∨ st = leRefused then some { e with state := 0, reason := 0 } else none
    | _ => none

/-- READ, PAUSE, RESUME, CANCEL and RELEASE (R290). -/
def opOther (s : State) (x : Ingest) (t : St) : State :=
  let m := x.msg
  let r := m.req % 65536
  let e := s.entry r
  let m0 := m.mbx == 0
  if e.state = 0 ∨ e.gen ≠ m.gen then ledgerReply s x .badCommand r zeroEntry false
  else if e.slice ≠ x.slice && !m0 then ledgerReply s x .denied r zeroEntry false
  else if m.op = 2 then ledgerReply s x .ok r e false
  else if dieIndex m.src ≠ e.ownerDie && !m0 then ledgerReply s x .denied r zeroEntry false
  else match opTransition m.op e with
    | none => ledgerReply s x .badCommand r e false
    | some e' =>
      let s := s.modEntry r fun _ => e'
      let s := s.modLed fun l => { l with changed := tset none l.changed r (some t) }
      let s := ledgerReply s x .ok r e' false
      if e'.state = leDone then ledgerEvent s r else s

/-- LEDGER_COMMIT: at a tick edge t the operations held since t - LEDGER_INGEST, in order (R289). -/
def execLedgerCommit (s : State) : Host.Outcome State Fault Refusal :=
  .next <|
    if s.role != .root then s
    else
      let t := tickSt (tickOf (s.now .dist))
      let due := fun (x : Ingest) => !stLater x.msg.submitSt (t - tu (ledgerIngest s))
      let ops := opSort (s.dist.led.ingest.filter due)
      let s := s.modLed fun l => { l with ingest := l.ingest.filter fun x => !due x }
      ops.foldl (fun s x => if x.msg.op = 1 then opSubmit s x t else opOther s x t) s

/-- RETAIN_EXPIRE: RETAIN_TIME after its EVENT a DONE or REFUSED entry is freed (R287, R291). -/
def execRetainExpire (req : Nat) (s : State) : Host.Outcome State Fault Refusal :=
  .next <|
    let e := s.entry req
    if (e.state = leDone || e.state = leRefused)
        && (tget none s.dist.led.doneAt req).any (fun t => decide (retainTime s ≤ elapsed (s.now .dist) t)) then
      (s.modEntry req fun e => { e with state := 0, reason := 0 }).modLed fun l => { l with doneAt := tset none l.doneAt req none }
    else s

/-! ### Closes (R292 to R299) -/

/-- The start of step `n` of a slice's turning, past steps counted back at the present length. -/
def stepStartAt (s : State) (slice : Nat) (n : Step) : St :=
  let u := s.turning .dist slice
  if stepDiff n u.step < 0 then u.start - tu ((stepDiff u.step n).toNat * u.len) else (u.stepStart n).getD u.start

/-- ST_c (R292). -/
def closeSt (s : State) (g : SGroup) (n : Step) : St := stepStartAt s g.f.slice n + tu g.f.closeOfs

/-- A step whose close has been decided, or missed. -/
def closeOver (g : SGroup) (n : Step) : Bool := g.last.any fun x => decide (stepDiff n x ≤ 0)

/-- CLOSE_RECEIVE: the first copy from a member begins the close; a copy from outside GROUP is counted (R292). -/
def execCloseReceive (a : Arr) (m : LedgerMsg) (s : State) : Host.Outcome State Fault Refusal :=
  onPort .dist a.port s fun s =>
    match ledgerIn s a m with
    | (s, .ok) =>
      if s.role != .root then ledgerRelay s a m
      else if m.op ≠ 9 then s
      else
        let sg := m.sg % 256
        let member := fun (g : SGroup) => g.f.valid && g.f.slice == a.slice
          && (tget none s.dist.fab.hgroups g.f.group).any fun p => p.mask.getLsbD (portPos s.role a.port)
        match s.sgroup sg with
        | none => s.count .dist .closeStray 0 {} 1
        | some g =>
          if !member g then s.count .dist .closeStray 0 {} 1
          else if closeOver g m.step || g.close.isSome then s
          else s.modSg sg fun g => { g with
            close := some { step := m.step, first := s.now .dist }
            logStep := m.step, logArg := m.arg, logDie := dieIndex m.src }
    | (s, _) => s

/-- The results of a step that have been handed over and not yet applied. -/
def samplesIn (g : SGroup) (n : Step) : List SampleIn :=
  if g.applied.any fun x => decide (stepDiff n x ≤ 0) then []
  else ([g.sampleA, g.sampleB].filterMap id).filter fun x => x.step == n && x.at_.isSome

/-- Applies what has come of step `n` (R293). -/
def applySamples (s : State) (sg : Nat) (n : Step) : State :=
  match s.sgroup sg with
  | none => s
  | some g =>
    let xs := (samplesIn g n).filter sampleGood
    if xs.isEmpty then s
    else
      let slots := g.tableAt n
      let bad := eosDisagrees slots xs
      let s := if bad = 0 then s else s.count .dist .ledgerEosDisagree 0 {} bad
      (s.modLed fun l => { l with table := sampleApply l.table slots xs }).modSg sg fun g => { g with applied := some n }

/-- SAMPLING_RESULT_RECEIVE: at the RELEASE a plane's result is handed over; both planes' are applied at once (R293). -/
def execSamplingResultReceive (sg : Nat) (step : Step) (plane : Plane) (s : State) : Host.Outcome State Fault Refusal :=
  .next <|
    let now := s.now .dist
    let take := fun (x : Option SampleIn) => x.map fun x =>
      if x.step = step && x.at_.isNone && stGe now x.release then { x with at_ := some now } else x
    let s := s.modSg sg fun g => if plane = .a then { g with sampleA := take g.sampleA } else { g with sampleB := take g.sampleB }
    match s.sgroup sg with
    | some g => if (samplesIn g step).length = 2 && !closeOver g (step + 1) then applySamples s sg step else s
    | none => s

/-- Whether a close need not wait for its sampling result any more (R293). -/
def sampleReady (s : State) (g : SGroup) (c : CloseRec) : Bool :=
  c.ready.isSome || g.applied == some c.step || (samplesIn g c.step).any fun x =>
    x.at_.any fun t => stGe (s.now .dist) (t + tu (2 * tickTu))

/-- LEDGER_SAMPLE_WAIT_EXPIRE: the close goes on without it (R293). -/
def execLedgerSampleWaitExpire (sg : Nat) (step : Step) (s : State) : Host.Outcome State Fault Refusal :=
  .next <|
    match s.sgroup sg with
    | none => s
    | some g => match g.close with
      | none => s
      | some c =>
        if c.step = step && c.ready.isNone && stGe (s.now .dist) (closeSt s g step + tu (sampleWait s)) then
          s.modSg sg fun g => { g with close := some { c with ready := some (s.now .dist) } }
        else s

/-- What a decided close sends: its EVENTs, its delta and the digest of its table (R291, R300, R303). -/
def closeSend (s : State) (sg : Nat) (g : SGroup) (n a : Step) (release : St) (old : Tab Nat) (o : CloseOut) (full : Bool) :
    State :=
  let s := o.events.foldl ledgerEvent s
  let from_ := if g.applied == some n then n + 1 else n
  let elems := deltaElems o.t old o.slots full fun v => expectGo g v from_ (stepDiff a from_).toNat
  let d : DeltaRec := {
    sgroup := sg, full, closeStep := n, applyStep := a, release, capacity := g.f.capacity, elems, status := 0, check := 0 }
  let d := { d with check := crc32c (deltaBody d) }
  let s := s.modLed fun l => { l with
    kept := (l.kept.filter fun k => stLater (k.2.2 + tu (keepTu s)) (s.now .dist)) ++ [(d, g.f.slice, s.now .dist)] }
  let s := ledgerOut s { cellNow s .dist g.f.slice (.delta d) with cells := deltaCells d }
  let crc := tableDigest o.slots
  let s := s.modLed fun l => { l with
    digests := tmod [] l.digests (ownRootIx s * 256 + sg) fun ds => ((n, crc) :: ds).take 4 }
  sendOwnVote s allRoots (.digest sg n crc)

/-- The decision of a close (R294 to R299). -/
def closeDecide (s : State) (sg : Nat) (g : SGroup) (c : CloseRec) : State :=
  let now := s.now .dist
  let n := c.step
  let s := if n = 0 || g.applied.any (fun x => decide (0 ≤ stepDiff x (n - 1))) then s else s.count .dist .noSample 0 {} 1
  let stc := closeSt s g n
  match (s.turning .dist g.f.slice).boundaryAfter (stc + tu g.f.deltaLead) with
  | none => s
  | some (a, release) =>
    let due := fun k => (((s.turning .dist g.f.slice).stepStart (a + BitVec.ofNat 48 k)).getD release) + tu g.f.tokenOfs
    let late := fun r => (tget none s.dist.led.changed r).any fun t => stLater t (stc - tu (ledgerIngest s))
    let o := closeSelect g sg n s.dist.led.table late due
    let full := g.fullDue || decide ((g.closes + 1) % max 1 g.f.fullPeriod = 0)
    let p := pruneTables n g.inForce g.tables
    let g' : SGroup := { g with
      table := o.slots, tables := p.2 ++ [(a, o.slots)], inForce := p.1, closes := g.closes + 1, fullDue := false
      close := none, last := some n }
    let s := s.modLed fun l => { l with table := o.t, sgs := tset none l.sgs sg (some g') }
    let f : Flt := { slice := some g.f.slice }
    let s := s.count .dist .ledgerServed g.f.slice f o.served
    let s := s.count .dist .ledgerDelayed g.f.slice f o.delayed
    let s := s.count .dist .ledgerRefused g.f.slice f o.refused
    let s := s.event .dist 0x090 f 1
    let s := if s.dist.mem.soleRoot then s.count .dist .ledgerUnchecked 0 {} 1 else s
    let ready := (c.ready).getD c.first
    let s := s.hist .dist 9 (elapsed now ready : Nat) f
    let s := s.modLed fun l => { l with
      longest := max l.longest (elapsed now ready / 64), longestWait := max l.longestWait (elapsed ready c.first / 64) }
    closeSend s sg g' n a release g.table o full

/-- CLOSE_DECIDE (R294, R298): once the sampling result is in or need not be waited for, whatever has come of it is
applied first. -/
def execCloseDecide (sg : Nat) (s : State) : Host.Outcome State Fault Refusal :=
  .next <|
    match s.sgroup sg with
    | none => s
    | some g => match g.close with
      | none => s
      | some c =>
        if s.role != .root || !sampleReady s g c then s
        else
          let s := applySamples (applySamples s sg (c.step - 1)) sg c.step
          match s.sgroup sg with
          | some g => closeDecide s sg g c
          | none => s

/-- The latest step of the group's turning whose close lies `lead` tu or more in the past. -/
def lastPast (s : State) (g : SGroup) (lead : Nat) : Option Step :=
  let u := s.turning .dist g.f.slice
  if !u.started || u.restart.isSome then none
  else ((List.range 24).map fun k => u.step - BitVec.ofNat 48 k).find? fun n =>
    decide (0 ≤ stepDiff n u.firstStep) && stGe (s.now .dist) (closeSt s g n + tu lead)

/-- CLOSE_MISSED: no copy of the latest close has come by ST_c + DELTA_LEAD (R292). -/
def execCloseMissed (sg : Nat) (s : State) : Host.Outcome State Fault Refusal :=
  .next <|
    match s.sgroup sg with
    | none => s
    | some g =>
      match lastPast s g g.f.deltaLead with
      | none => s
      | some n =>
        if s.role != .root || !g.f.valid || g.close.isSome || closeOver g n then s
        else (s.modSg sg fun g => { g with last := some n }).count .dist .closeMissed 0 { slice := some g.f.slice } 1

/-! ### Digests (R303, R354) -/

/-- The digest of a root for a close, if it is still held. -/
def digestOf (s : State) (root sg : Nat) (n : Step) : Option W32 :=
  ((tget [] s.dist.led.digests (root * 256 + sg)).find? fun d => d.1 == n).map Prod.snd

/-- A root that the two others outvote takes the majority's table (R303). -/
def ledgerDiverge (s : State) (sg : Nat) (majority : List (Nat × Nat)) : State :=
  let t := majority.foldl (fun t x => tset 0 t (x.1 % 4096) (slotVal (x.2 % 65536) (s.entry (x.2 % 65536)))) ([] : Tab Nat)
  let s := s.modSg sg fun g => { g with
    table := t, tables := match g.tables.getLast? with
      | some x => g.tables.dropLast ++ [(x.1, t)]
      | none => g.tables }
  suspect (s.count .dist .ledgerDiverge 0 {} 1) .dist (s.node .dist) causeDigest { opref := BitVec.ofNat 32 sg }

/-- LEDGER_DIGEST_RECEIVE: the roots' digests of a close are compared; a member's digest that agrees releases the outputs
held through an election (R303, R354). `majority` is the table, by slot and request index, that a diverged root copies. -/
def execLedgerDigestReceive (port : Nat) (v : Vote) (majority : List (Nat × Nat)) (s : State) :
    Host.Outcome State Fault Refusal :=
  onPort .dist port s fun s =>
    match voteIn s port v, v.body with
    | (s, true), .digest sg n crc =>
      match (List.range 3).find? fun r => v.src == rootNode s r with
      | none => s
      | some r =>
        if !servesRoot s then s
        else
          let s := s.modLed fun l => { l with
            digests := tmod [] l.digests (r * 256 + sg) fun ds => ((n, crc) :: ds.filter fun d => d.1 != n).take 4 }
          let own := digestOf s (ownRootIx s) sg n
          let other := ((List.range 3).filter fun x => x != r && x != ownRootIx s).findSome? fun x => digestOf s x sg n
          let s := if own == some crc && s.dist.mem.holdOut then releaseHeld s else s
          if own.any (· != crc) && other == some crc then ledgerDiverge s sg majority else s
    | (s, _), _ => s

/-! ### Groups and resets (R282, R302, R304) -/

/-- A serving group as a commit leaves it: closes that lie before the commit are none of a new group. One that is removed refuses its entries with GROUP_REMOVED (R304). -/
def sgCommit (s : State) (sg : Nat) (f : SgFields) : State :=
  let old := s.sgroup sg
  if f.valid then
    s.modLed fun l => { l with sgs := tset none l.sgs sg (some (match old with
      | some g => { g with f }
      | none => { f, last := lastPast s { f } 0 })) }
  else
    let mine := (s.dist.led.table.filter fun x => counted x.2 && x.2.sgroup == sg
      && (old.any fun g => g.f.slice == x.2.slice)).map Prod.fst
    let s := s.modLed fun l => { l with sgs := tset none l.sgs sg none }
    mine.foldl (fun s r => ledgerEvent (s.modEntry r fun e => { e with
      state := leRefused, reason := 0xA, slot := 0xFFFF, pendPause := false, pendCancel := false }) r) s

/-- A slice step reset at the roots: ACTIVE and FINISHING entries are QUEUED again with SLICE_RESET, pending deltas and
operations of the slice are gone, and the next delta is full (R304). The operations' number is what the reset cancels. -/
def ledgerReset (s : State) (slice : Nat) : State × Nat :=
  let ops := s.dist.led.ingest.filter fun x => x.slice == slice
  let s := s.modLed fun l => { l with
    ingest := l.ingest.filter fun x => x.slice != slice
    kept := l.kept.filter fun k => k.2.1 != slice
    table := tmapAll zeroEntry (fun _ e =>
      if e.slice = slice && (e.state = leActive || e.state = leFinishing) then
        { e with state := leQueued, reason := 9, slot := 0xFFFF }
      else e) l.table
    sgs := tmapAll none (fun _ g => g.map fun g =>
      if g.f.slice = slice then { g with
        table := [], tables := [], inForce := [], fullDue := true, close := none, last := none, sampleA := none
        sampleB := none, applied := none }
      else g) l.sgs }
  (s, ops.length)

end Sys2Proof.Machine
end

