-- ==== Sys2Proof/Machine/LedgerDie.lean ====
section
/-! DEFINITION. The step ledger at the die: commands and their replies, events, batch deltas and their ring (R288, R290,
R291, R301, R318, R505). -/

namespace Sys2Proof.Machine

open Sys2Proof

/-! ### Commands (R288, R290, R318) -/

/-- LEDGER_OP_DEADLINE in tu (R288, R492). -/
def ledgerOpDeadline (s : State) : Nat := clampN 10 10000 (s.cfg .tsu 0x158 0x64) * 64000

/-- The codes of the ledger commands follow those of their messages (R288, R392). -/
def ledgerCode (op : Nat) : Nat := 0x004F + op

/-- A ledger command at the die: carried to the roots on both planes, PENDING; a ninth that would wait returns BUSY (R288,
R318). A distributor has no ledger command. -/
def cmdLedger (c : Cmd) (op req : Nat) (gen : BitVec 16) (e : LedgerEntry) (s : State) : State :=
  let fail := fun (s : State) (st : Status) => done s c (ledgerCode op) st
  if c.part == .dist then fail s .badCommand
  else match dieRefusesNew s with
    | some st => fail s st
    | none =>
      if !s.tsu.die.sliceValid && c.mbx != 0 then fail s .denied
      else if 8 ≤ s.tsu.fab.ops.length then fail (s.count .tsu .ledgerBusy 0 (dieFlt s) 1) .busy
      else
        let now := s.now .tsu
        let id := s.tsu.sync.opId
        let m : LedgerMsg := {
          op, src := s.node .tsu, opId := id, req, gen, status := 0, mbx := c.mbx % 4, submitSt := now, entry := e
          sg := 0, step := 0, arg := 0 }
        let s := s.modSync fun y => { y with opId := y.opId + 1 }
        let s := s.modFab fun f => { f with
          ops := f.ops ++ [{ opId := id, c, op, submitSt := now, deadline := now + tu (ledgerOpDeadline s) }] }
        let cell := { cellNow s .tsu s.tsu.die.sliceId (.ledger m) with cells := ledgerCells op }
        pend ((planesOn s).foldl (fun s i => sendP2 s .tsu i cell) s) c (ledgerCode op)

/-- The entry of a SUBMIT (R288). -/
def submitEntry (sgroup prio : Nat) (tokens maxLen : W32) (deadline : St) (interval : W32) (page seed : W64) (owner : W32) :
    LedgerEntry :=
  { zeroEntry with sgroup := sgroup % 256, prio := prio % 8, tokens, maxLen, deadline, interval, page, seed, owner }

/-- LEDGER_SUBMIT: a DEADLINE too far ahead is clamped (R18, R290). -/
def execLedgerSubmit (c : Cmd) (sgroup prio : Nat) (tokens maxLen : W32) (deadline : St) (interval : W32)
    (page seed : W64) (owner : W32) (s : State) : Host.Outcome State Fault Refusal :=
  onCmd c 0x0050 true s fun s =>
    cmdLedger c 1 0 0 (submitEntry sgroup prio tokens maxLen deadline interval page seed owner) s

/-- LEDGER_READ (R290). -/
def execLedgerRead (c : Cmd) (req : Nat) (gen : BitVec 16) (s : State) : Host.Outcome State Fault Refusal :=
  onCmd c 0x0051 true s (cmdLedger c 2 (req % 65536) gen zeroEntry)

/-- LEDGER_PAUSE (R285). -/
def execLedgerPause (c : Cmd) (req : Nat) (gen : BitVec 16) (s : State) : Host.Outcome State Fault Refusal :=
  onCmd c 0x0052 true s (cmdLedger c 3 (req % 65536) gen zeroEntry)

/-- LEDGER_RESUME (R285). -/
def execLedgerResume (c : Cmd) (req : Nat) (gen : BitVec 16) (s : State) : Host.Outcome State Fault Refusal :=
  onCmd c 0x0053 true s (cmdLedger c 4 (req % 65536) gen zeroEntry)

/-- LEDGER_CANCEL (R285). -/
def execLedgerCancel (c : Cmd) (req : Nat) (gen : BitVec 16) (s : State) : Host.Outcome State Fault Refusal :=
  onCmd c 0x0054 true s (cmdLedger c 5 (req % 65536) gen zeroEntry)

/-- LEDGER_RELEASE (R285). -/
def execLedgerRelease (c : Cmd) (req : Nat) (gen : BitVec 16) (s : State) : Host.Outcome State Fault Refusal :=
  onCmd c 0x0055 true s (cmdLedger c 6 (req % 65536) gen zeroEntry)

/-! ### Replies and events (R290, R291, R328) -/

/-- Bytes 0 to 7 of an entry (R284), as a completion's RESULT holds them beside REQ, GEN, TOKENS and MAX_LEN: the manual
gives RESULT no layout here (log 14). -/
def entryWord0 (e : LedgerEntry) : W64 :=
  BitVec.ofNat 64 (beNat (beBytes 1 e.slice ++ beBytes 1 e.sgroup ++ beBytes 1 (e.prio * 16 + e.state) ++ beBytes 1 e.reason
    ++ beBytes 2 e.gen.toNat ++ beBytes 2 e.slot))

/-- A ledger command completes with its reply's STATUS and entry (R290). -/
def ledgerDone (s : State) (o : LedgerOp) (m : LedgerMsg) (unverified : Bool) : State :=
  let s := s.modFab fun f => { f with ops := f.ops.erase o }
  let s := if unverified then s.event .tsu 0x043 (dieFlt s) 1 else s
  complete_ s (ofPart .tsu o.c) {
    tag := o.c.tag, opcode := ledgerCode o.op, status := (statusOf m.status).getD .ok, unverified
    r0 := BitVec.ofNat 64 (m.req + m.gen.toNat * 65536), r1 := entryWord0 m.entry
    r2 := BitVec.ofNat 64 (m.entry.tokens.toNat * 2 ^ 32 + m.entry.maxLen.toNat) }

/-- A LEDGER message at the die. -/
def ledgerDieIn (s : State) (a : Arr) (m : LedgerMsg) (deadline : St) : State × Rx :=
  let r := dieIn s a 9 m.opId.toNat (decide (0x13 < m.status)) fun s => inTime s .tsu deadline
  (r.1.modPort .tsu a.port fun q => { q with rxSeq := q.rxSeq + BitVec.ofNat 16 (ledgerCells m.op - 1) }, r.2)

/-- LEDGER_REPLY_RECEIVE: the first reply stands; the second, compared with it, lets the completion go (R290, R328). -/
def execLedgerReplyReceive (a : Arr) (m : LedgerMsg) (s : State) : Host.Outcome State Fault Refusal :=
  onPort .tsu a.port s fun s =>
    match ledgerDieIn s a m (m.submitSt + tu (ledgerOpDeadline s)) with
    | (s, .ok) =>
      match s.tsu.fab.ops.find? fun o => o.opId == m.opId && o.submitSt == m.submitSt && m.op == 7 with
      | none => s
      | some o =>
        match o.got with
        | none => s.modFab fun f => { f with
            ops := f.ops.replace o { o with got := some (m, a.port == 1, s.now .tsu) } }
        | some (x, planeB, _) =>
          if planeB = (a.port == 1) then s
          else
            let s := if x = m then s
              else splitEvent (s.count .tsu .planeDisagree 0 (dieFlt s) 1) m.opId.toNat 0
            ledgerDone s o x false
    | (s, _) => s

/-- REPLY_DECKLE_EXPIRE: no second reply by the result deckle, so the result is UNVERIFIED (R236, R290, R328). -/
def execReplyDeckleExpire (opId : BitVec 16) (s : State) : Host.Outcome State Fault Refusal :=
  .next <|
    match s.tsu.sync.sigOut.find? fun e => e.opId == opId && (e.got.any fun g => deckleOver s g.2.2) with
    | some e =>
      (match e.got with
        | none => s
        | some (f, planeB, _) => sigOutDone s e ((statusOf f.status).getD .ok) f.value planeB true)
    | none =>
      match s.tsu.fab.ops.find? fun o => o.opId == opId && (o.got.any fun g => deckleOver s g.2.2) with
      | none => s
      | some o => match o.got with
        | none => s
        | some g => ledgerDone s o g.1 true

/-- LEDGER_OP_DEADLINE_EXPIRE: no REPLY by SUBMIT_ST + LEDGER_OP_DEADLINE (R236, R318). -/
def execLedgerOpDeadlineExpire (opId : BitVec 16) (s : State) : Host.Outcome State Fault Refusal :=
  .next <|
    match s.tsu.fab.ops.find? fun o => o.opId == opId && o.got.isNone && stGe (s.now .tsu) o.deadline with
    | none => s
    | some o => done (s.modFab fun f => { f with ops := f.ops.erase o }) (ofPart .tsu o.c) (ledgerCode o.op) .late

/-- An EVENT for an entry that stayed in a slice which the die has left, or for a PARTED die (R306, R368). -/
def eventOrphan (s : State) (a : Arr) : Bool :=
  !s.tsu.die.sliceValid || s.tsu.die.sliceId != a.slice || s.tsu.die.state == .parted

/-- LEDGER_EVENT_RECEIVE: an orphan is discarded and counted (R306); the first copy raises the mailbox's ledger interrupt; a second that differs is a disagreement
of the planes (R291, R328). -/
def execLedgerEventReceive (a : Arr) (m : LedgerMsg) (s : State) : Host.Outcome State Fault Refusal :=
  onPort .tsu a.port s fun s =>
    if m.op == 8 && eventOrphan s a then
      match cellIn s .tsu a 9 m.opId.toNat (decide (0x13 < m.status)) with
      | (s, false) => s
      | (s, true) => (s.count .tsu .ledgerEventOrphan 0 {} 1).modPort .tsu a.port fun q => { q with rxSeq := q.rxSeq + 1 }
    else match ledgerDieIn s a m (m.submitSt + tu 6400000) with
    | (s, .ok) =>
      if m.op ≠ 8 then s
      else
        let now := s.now .tsu
        let s := s.modFab fun f => { f with events := f.events.filter fun e => stLater (e.2.1.submitSt + tu 6400000) now }
        match s.tsu.fab.events.find? fun e => e.1 == m.opId && e.2.1.submitSt == m.submitSt with
        | none => irq (s.modFab fun f => { f with events := f.events ++ [(m.opId, m, a.port == 1, now)] }) (4 + m.mbx % 4)
        | some e =>
          let s := s.modFab fun f => { f with events := f.events.erase e }
          if e.2.1 = m then s else splitEvent (s.count .tsu .planeDisagree 0 (dieFlt s) 1) m.opId.toNat 0
    | (s, _) => s

/-! ### Batch deltas (R300, R301, R505) -/

/-- The LEDGER_DIE register set that names a serving group. -/
def ringOf (s : State) (sg : Nat) : Option Nat :=
  (List.range 8).find? fun k =>
    let c := (tget {} s.tsu.fab.dies k).config.toNat
    tbit c 0 && bits c 15 8 == sg

def modRing (s : State) (k : Nat) (f : LedgerDie → LedgerDie) : State :=
  s.modFab fun x => { x with dies := tmod {} x.dies k f }

/-- LEDGER_RESYNC: the die asks the ledger for a full delta (R301). -/
def ledgerResync (s : State) (k sg : Nat) : State :=
  mgmt (modRing s k fun d => { d with resync := true }) .tsu allRoots (.command 0 0 (.resync sg))

/-- BATCH_DELTA_RECEIVE: the die holds a plane's record as it arrives; after a RESEND, the resent ones (R301, R330). -/
def execBatchDeltaReceive (a : Arr) (d : DeltaRec) (s : State) : Host.Outcome State Fault Refusal :=
  onPort .tsu a.port s fun s =>
    let r := dieIn s a 10 (d.sgroup * 256 + d.closeStep.toNat % 256) (decide (d.status ≠ 0 ∧ d.status ≠ 0x13)) fun s =>
      inTime s .tsu (d.release + tu s.tsu.turn.len)
    let s := r.1.modPort .tsu a.port fun q => { q with rxSeq := q.rxSeq + BitVec.ofNat 16 (deltaCells d - 1) }
    match r.2 with
    | .ok =>
      let old := (s.tsu.fab.deltas.find? fun x => x.sgroup == d.sgroup && x.step == d.closeStep).getD
        { sgroup := d.sgroup, step := d.closeStep }
      let now := s.now .tsu
      let new := match old.resent.isSome, a.port == 1 with
        | false, false => { old with a := (old.a).or (some (d, now)) }
        | false, true => { old with b := (old.b).or (some (d, now)) }
        | true, false => { old with a2 := some d }
        | true, true => { old with b2 := some d }
      s.modFab fun f => { f with deltas := f.deltas.filter (· != old) ++ [new] }
    | _ => s

/-- The free bytes of a delta ring (R505). -/
def ringFree (d : LedgerDie) : Nat :=
  let size := bits d.ring.toNat 31 16 * 8
  let used := if d.rp ≤ d.wp then (d.wp - d.rp) * 8 else (bits d.ring.toNat 31 16 - d.rp + d.wp) * 8
  size - 8 - used

/-- Writes a record at LD_WP, wrapping, padded to 8 bytes (R505). -/
def ringWrite (s : State) (k : Nat) (bs : List Byte) : State :=
  let d := tget {} s.tsu.fab.dies k
  let base := bits d.ring.toNat 15 0 * 8
  let size := max 8 (bits d.ring.toNat 31 16 * 8)
  let n := (bs.length + 7) / 8
  let padded := bs ++ List.replicate (8 * n - bs.length) 0
  let s := s.modFab fun f => { f with
    mem := (padded.zip (List.range padded.length)).foldl (fun m x => tset 0 m (base + (d.wp * 8 + x.2) % size) x.1) f.mem }
  modRing s k fun d => { d with wp := (d.wp + n) % (size / 8) }

/-- The completion of a delta: the message of R278 with KIND 0x6 (R301). -/
def deltaMsg (s : State) (k : Nat) (d : DeltaRec) (st : Status) (unverified late planeB : Bool) : State :=
  let core := bits (tget {} s.tsu.fab.dies k).config.toNat 41 32
  let s := if unverified then s.event .tsu 0x043 (dieFlt s) 1 else s
  let s := if st = .planeDisagree then s.count .tsu .planeDisagree 0 (dieFlt s) 1 else s
  if 575 < core then s
  else msgPut s {
    core, kind := 6, status := st, unverified, late, planeB, tag := d.applyStep.extractLsb' 0 16, id := d.sgroup
    count := d.elems.length, stLo := stLo s }

/-- A delta leaves; nothing is written for it. -/
def deltaDrop (s : State) (x : DeltaIn) (k : Nat) (d : DeltaRec) (st : Status) (late : Bool) : State :=
  let s := s.modFab fun f => { f with deltas := f.deltas.erase x }
  ledgerResync (deltaMsg s k d st false late false) k x.sgroup

/-- Writes a delta into its ring, adds to DONE_CTR, and sends its message; one that does not fit is not written (R301,
R505). -/
def deltaWrite (s : State) (x : DeltaIn) (k : Nat) (d : DeltaRec) (planeB unverified late disagree : Bool) : State :=
  let bs := deltaBytes d
  if ringFree (tget {} s.tsu.fab.dies k) < (bs.length + 7) / 8 * 8 then deltaDrop s x k d .full late
  else
    let s := ringWrite (s.modFab fun f => { f with deltas := f.deltas.erase x }) k bs
    let s := deliveryAdd s (bits (tget {} s.tsu.fab.dies k).config.toNat 28 16) 3 x.sgroup
    let st : Status := if disagree then .planeDisagree else if unverified then .unverified else if late then .late else .ok
    let s := deltaMsg s k d st unverified late planeB
    if disagree then ledgerResync s k x.sgroup else s

/-- A copy whose CHECK fails: a suspect event against the plane's neighbour (R301, R332). -/
def deltaFailed (s : State) (d : DeltaRec) (port : Nat) : State :=
  suspect s .tsu (neighbour s .tsu port) causeResidue { opref := BitVec.ofNat 32 (d.sgroup * 65536 + d.closeStep.toNat % 65536), port := some port }

/-- RESEND for a delta, the roots being its top, with a split report (R328, R330, R331). -/
def deltaRetry (s : State) (x : DeltaIn) : State :=
  let v : Vote := {
    src := s.node .tsu, dst := allRoots, me := s.tsu.b.ep.me, eventSt := s.now .tsu
    body := .resend s.tsu.die.sliceId x.sgroup true x.step }
  let s := s.modFab fun f => { f with deltas := f.deltas.replace x { x with resent := some (s.now .tsu) } }
  splitEvent (sendVotes s .tsu [0, 1] v) (x.sgroup * 65536 + x.step.toNat % 65536) 0

/-- The decision on the copies held (R276, R301): a CANCELLED record on one plane only counts as missing. -/
def deltaDecide (s : State) (x : DeltaIn) (k : Nat) (late : Bool) : State :=
  let live := fun (c : Option (DeltaRec × St)) => (c.map Prod.fst).filter fun d => d.status == 0
  let single := fun (d : DeltaRec) (planeB : Bool) =>
    if deltaGood d then deltaWrite s x k d planeB true late false
    else deltaDrop (deltaFailed s d (bit planeB)) x k d .planeDisagree late
  match live x.a, live x.b with
  | none, none => match (x.a).or x.b with
    | some (d, _) => deltaDrop s x k d .cancelled late
    | none => s
  | some d, none => single d false
  | none, some d => single d true
  | some d, some e =>
    if d = e then
      (if deltaGood d then deltaWrite s x k d false false late false
       else deltaDrop (deltaFailed (deltaFailed s d 0) e 1) x k d .planeDisagree late)
    else if deltaGood d && !deltaGood e then deltaWrite (deltaFailed s e 1) x k d false false late true
    else if !deltaGood d && deltaGood e then deltaWrite (deltaFailed s d 0) x k e true false late true
    else deltaRetry s x

/-- The decision after a retry, with up to four copies (R330). -/
def deltaDecide4 (s : State) (x : DeltaIn) (k : Nat) : State :=
  let all := [x.a.map Prod.fst, x.b.map Prod.fst, x.a2, x.b2].filterMap id
  let two := match x.a2, x.b2 with
    | some d, some e => if d = e && deltaGood d then some d else none
    | _, _ => none
  let three := all.find? fun d => decide (3 ≤ (all.filter (· == d)).length)
  match two.or three, all.head? with
  | some d, _ => deltaWrite s x k d false false true false
  | none, some d => deltaDrop s x k d .planeDisagree true
  | none, none => s

/-- When the copies held may be decided (R275). -/
def deltaAt (x : DeltaIn) (deadline : St) : Option St :=
  match x.a, x.b with
  | some a, some b => some (if stLater a.2 b.2 then a.2 else b.2)
  | some c, none | none, some c =>
    let y := c.2 + tu (2 * tickTu)
    some (if stLater y deadline then deadline else y)
  | none, none => none

/-- DELTA_RELEASE: at the start of step a, or as soon after it as the copies allow (R301). A delta whose serving group no
VALID LEDGER_DIE names is counted. -/
def execDeltaRelease (sg : Nat) (step : Step) (s : State) : Host.Outcome State Fault Refusal :=
  .next <|
    let now := s.now .tsu
    match s.tsu.fab.deltas.find? fun x => x.sgroup == sg && x.step == step with
    | none => s
    | some x => match ((x.a).or x.b).map Prod.fst with
      | none => s
      | some d =>
        let deadline := (s.tsu.turn.stepStart (d.applyStep + 1)).getD (d.release + tu s.tsu.turn.len)
        let ready := match x.resent with
          | some t => (x.a2.isSome && x.b2.isSome) || stGe now (t + tu (16 * tickTu)) || stGe now deadline
          | none => (deltaAt x deadline).any fun t => stGe now d.release && stGe now t
        if !ready then s
        else match ringOf s sg with
          | none => (s.modFab fun f => { f with deltas := f.deltas.erase x }).count .tsu .ledgerNoRing 0 (dieFlt s) 1
          | some k =>
            if x.resent.isSome then deltaDecide4 s x k
            else
              let late := (deltaAt x deadline).any fun t => stLater t d.release
              if ((x.a).or x.b).any fun c => stLater c.2 deadline then deltaDrop s x k d .late true else deltaDecide s x k late

/-- LD_RP_WRITE: host software advances the read index, which clears LEDGER_RESYNC (R504, R505). -/
def execLdRpWrite (k : Nat) (v : BitVec 16) (s : State) : Host.Outcome State Fault Refusal :=
  onUnit (decide (k < 8)) s fun s => modRing s k fun d => { d with rp := v.toNat, resync := false }

end Sys2Proof.Machine
end

