-- ==== Sys2Proof/Machine/Operands.lean ====
section
/-! DEFINITION. Operand forms: the registers that CONFIG_WRITE sets with their fields, ranges and clamps (R12, R489,
R492, R503, R504, R513, R514), and the checks and clamps of plate entries and collect descriptors (R189, R194, R253 to
R255). -/

namespace Sys2Proof.Machine

/-! ### Registers set by CONFIG_WRITE -/

/-- A field of a register: its bits and its range. -/
structure Fld where
  hi : Nat
  lo : Nat
  min : Nat
  max : Nat

/-- A register that CONFIG_WRITE sets: its offset, reset value and fields. Bits outside the fields are reserved. -/
structure CfgReg where
  off : Nat
  reset : Nat
  flds : List Fld

/-- A field that takes every value. -/
def fldAny (hi lo : Nat) : Fld := { hi, lo, min := 0, max := 2 ^ (hi + 1 - lo) - 1 }

/-- The figures that both parts have at one offset (R492, R513). -/
def cfgBoth : List CfgReg :=
  [{ off := 0x100, reset := 0x000ABEED4A2AC67D
     flds := [{ hi := 31, lo := 0, min := 0x4A2AC67D / 2, max := 0x4A2AC67D * 2 }
             , { hi := 63, lo := 32, min := 0x000ABEED / 2, max := 0x000ABEED * 2 }] }
  , { off := 0x108, reset := 0x40, flds := [{ hi := 9, lo := 0, min := 16, max := 640 }] }
  , { off := 0x110, reset := 0x14, flds := [{ hi := 9, lo := 0, min := 1, max := 1000 }] }
  , { off := 0x118, reset := 0x32, flds := [{ hi := 9, lo := 0, min := 1, max := 1000 }] }
  , { off := 0x120, reset := 0x0A, flds := [{ hi := 5, lo := 0, min := 1, max := 60 }] }
  , { off := 0x128, reset := 0x0A, flds := [{ hi := 5, lo := 0, min := 0, max := 60 }] }
  , { off := 0x130, reset := 0x64, flds := [{ hi := 13, lo := 0, min := 1, max := 10000 }] }
  , { off := 0x138, reset := 0x64, flds := [{ hi := 13, lo := 0, min := 10, max := 10000 }] }
  , { off := 0x148, reset := 0x20, flds := [{ hi := 15, lo := 0, min := 1, max := 65535 }] }
  , { off := 0x150, reset := 0x28, flds := [{ hi := 9, lo := 0, min := 10, max := 1000 }] }]

/-- The registers of a LEDGER_DIE set (R504). -/
def cfgLedgerDie : List CfgReg :=
  (List.range 8).flatMap fun k =>
    [{ off := 0x6200 + 0x20 * k, reset := 0, flds := [fldAny 0 0, fldAny 15 8, fldAny 28 16, fldAny 41 32] }
    , { off := 0x6208 + 0x20 * k, reset := 0, flds := [fldAny 15 0, fldAny 31 16] }]

/-- The PV-TSU4's own (R491, R492, R503). -/
def cfgTsu : List CfgReg :=
  [{ off := 0x38, reset := 0, flds := [fldAny 0 0] }
  , { off := 0x140, reset := 0x10, flds := [{ hi := 6, lo := 0, min := 10, max := 64 }] }
  , { off := 0x158, reset := 0x64, flds := [{ hi := 13, lo := 0, min := 10, max := 10000 }] }
  , { off := 0x6028, reset := 0x10000, flds := [{ hi := 18, lo := 0, min := 16384, max := 262144 }, fldAny 32 32] }
  , { off := 0x61A8, reset := 0x3E8, flds := [{ hi := 23, lo := 0, min := 10, max := 10000000 }] }
  , { off := 0x61B0, reset := 0x7D000, flds := [{ hi := 25, lo := 0, min := 128000, max := 64000000 }] }]

/-- The PV-D128's own figures (R513). -/
def cfgDist : List CfgReg :=
  [{ off := 0x140, reset := 0x258, flds := [{ hi := 11, lo := 0, min := 60, max := 3600 }] }
  , { off := 0x158, reset := 0x8000, flds := [{ hi := 18, lo := 0, min := 16384, max := 262144 }] }
  , { off := 0x160, reset := 0x10, flds := [{ hi := 10, lo := 0, min := 4, max := 1024 }] }
  , { off := 0x168, reset := 0x1F4, flds := [{ hi := 9, lo := 0, min := 50, max := 900 }] }
  , { off := 0x170, reset := 0x64, flds := [{ hi := 6, lo := 0, min := 80, max := 105 }] }
  , { off := 0x178, reset := 0x3E8, flds := [{ hi := 18, lo := 0, min := 1, max := 500000 }] }
  , { off := 0x180, reset := 0x2625A, flds := [{ hi := 24, lo := 0, min := 1000, max := 2 ^ 24 }] }
  , { off := 0x188, reset := 0x3, flds := [{ hi := 4, lo := 0, min := 2, max := 16 }] }
  , { off := 0x190, reset := 0x3C, flds := [{ hi := 11, lo := 0, min := 1, max := 3600 }] }
  , { off := 0x198, reset := 0x258, flds := [{ hi := 16, lo := 0, min := 60, max := 86400 }] }
  , { off := 0x1A0, reset := 0x7D0, flds := [{ hi := 13, lo := 0, min := 1000, max := 10000 }] }
  , { off := 0x1A8, reset := 0x4, flds := [{ hi := 10, lo := 0, min := 1, max := 1024 }] }
  , { off := 0x1B0, reset := 0x0A, flds := [{ hi := 9, lo := 0, min := 1, max := 1000 }] }
  , { off := 0x1B8, reset := 0x4, flds := [{ hi := 6, lo := 0, min := 2, max := 100 }] }
  , { off := 0x1C0, reset := 0x4, flds := [{ hi := 6, lo := 0, min := 0, max := 100 }] }
  , { off := 0x1C8, reset := 0x3E8, flds := [{ hi := 15, lo := 0, min := 1, max := 60000 }] }]

/-- The references' figures and settings at a PV-D128 (R513, R514). -/
def cfgRefs : List CfgReg :=
  [{ off := 0x11C0, reset := 0x4E20, flds := [{ hi := 19, lo := 0, min := 1000, max := 1000000 }] }
  , { off := 0x11C8, reset := 0x2710, flds := [{ hi := 19, lo := 0, min := 1000, max := 1000000 }] }
  , { off := 0x11D0, reset := 0x0A, flds := [{ hi := 9, lo := 0, min := 0, max := 600 }] }
  , { off := 0x11D8, reset := 0x3E8, flds := [{ hi := 16, lo := 0, min := 100, max := 100000 }] }
  , { off := 0x11E0, reset := 0xC8, flds := [{ hi := 13, lo := 0, min := 20, max := 10000 }] }
  , { off := 0x11E8, reset := 0xBB, flds := [{ hi := 7, lo := 0, min := 6, max := 247 }] }
  , { off := 0x11F0, reset := 0x64, flds := [{ hi := 16, lo := 0, min := 1, max := 100000 }] }
  , { off := 0x11F8, reset := 0x1F4, flds := [{ hi := 16, lo := 0, min := 1, max := 100000 }] }
  , { off := 0x1080, reset := 0x3F, flds := [fldAny 4 0, { hi := 5, lo := 5, min := 1, max := 1 }] }
  , { off := 0x1088, reset := 0x543210, flds := [fldAny 23 0] }
  , { off := 0x1090, reset := 0x0622, flds := [fldAny 15 0] }
  , { off := 0x1098, reset := 0x0622, flds := [fldAny 15 0] }
  , { off := 0x10A0, reset := 0, flds := [fldAny 1 0] }
  , { off := 0x10A8, reset := 0, flds := [fldAny 7 0, { hi := 9, lo := 8, min := 0, max := 2 }, fldAny 12 12, fldAny 27 16] }
  , { off := 0x10B0, reset := 0, flds := [fldAny 7 0, { hi := 9, lo := 8, min := 0, max := 2 }, fldAny 12 12, fldAny 27 16] }
  , { off := 0x10C0, reset := 0, flds := [fldAny 63 0] }
  , { off := 0x10C8, reset := 0, flds := [fldAny 63 0] }
  , { off := 0x10D0, reset := 0, flds := [fldAny 63 0] }
  , { off := 0x10D8, reset := 0, flds := [fldAny 63 0] }
  , { off := 0x10E0, reset := 0, flds := [fldAny 47 0] }
  , { off := 0x10E8, reset := 0, flds := [fldAny 47 0] }]
  ++ (List.range 6).map fun i => { off := 0x1180 + 8 * i, reset := 0, flds := [fldAny 31 0] }

def cfgRegs : Part → List CfgReg
  | .tsu => cfgBoth ++ cfgTsu ++ cfgLedgerDie
  | .dist => cfgBoth ++ cfgDist ++ cfgRefs

def cfgReg (p : Part) (off : Nat) : Option CfgReg := (cfgRegs p).find? fun r => r.off == off

/-- A value as a register takes it: each field clamped to its range; and the number of clamps (R12, R489). -/
def cfgClamp (r : CfgReg) (v : Nat) : Nat × Nat :=
  r.flds.foldl (fun a f =>
    let x := bits v f.hi f.lo
    let y := clampN f.min f.max x
    (a.1 + y * 2 ^ f.lo, if x = y then a.2 else a.2 + 1)) (0, 0)

/-- The value of a configured register in force. -/
def cfgValue (s : State) (p : Part) (off : Nat) : Nat :=
  match cfgReg p off with
  | some r => s.cfg p off r.reset
  | none => 0

/-- Puts a committed value in force. -/
def cfgPut (s : State) (p : Part) (off v : Nat) : State :=
  match cfgReg p off with
  | some r => s.modBase p fun b => { b with cfg := tset (BitVec.ofNat 64 r.reset) b.cfg off (BitVec.ofNat 64 v) }
  | none => s

/-! ### Plate entries (R189, R193, R194, R196) -/

/-- Reserved action codes. -/
def actionReserved (a : Nat) : Bool := a == 0 || decide (9 ≤ a)

/-- An entry as it is staged: a valid one with its repeat fields and a TS_OUT's pulse width clamped; none where its
action is reserved; and the number of clamps. -/
def entryTake (e : Entry) : Option (Entry × Nat) :=
  if !entValid e then some (e, 0)
  else if actionReserved (entAction e) then none
  else
    let d := max 1 (entDiv e)
    let ph := min (entPhase e) (d - 1)
    let w := bits e.w1.toNat 31 0 + ph * 2 ^ 32 + d * 2 ^ 48
    let arg := if entAction e = 6 then tsOutWidth (entArg e).toNat else (entArg e).toNat
    some ({ e with w1 := BitVec.ofNat 64 w, w2 := BitVec.ofNat 64 (arg * 2 ^ 32 + (entThreshold e).toNat) },
      bit (entDiv e = 0) + bit (decide (entPhase e ≠ ph)) + bit (decide (arg ≠ (entArg e).toNat)))

/-- An entry whose OFFSET is clamped to the last tu of a turning of length `len` (R192). -/
def entryFit (len : Nat) (e : Entry) : Entry :=
  if entValid e && decide (len ≤ entOffset e) then
    { e with w0 := BitVec.ofNat 64 (bits e.w0.toNat 23 0 + (len - 1) * 2 ^ 24) }
  else e

/-! ### Collect descriptors (R253 to R255) -/

def opReserved (op : Nat) : Bool := op == 0 || decide (0xD ≤ op)

/-- A number that names no object: DONE_CTR, NOTIFY_CORE, LEDGER or GROUP outside its table (R253, R391). -/
def descNames (d : Desc) : Bool :=
  (decide (d.doneCtr ≤ 4095) || d.doneCtr == 0x1FFF) && (decide (d.notifyCore ≤ 575) || d.notifyCore == 0x3FF)
    && (decide (d.ledger ≤ 255) || d.ledger == 0x1FF) && decide (d.group ≤ 4095)

/-- The clamps at the write (R255), and their number. -/
def descClamp (d : Desc) : Desc × Nat :=
  let ty := if typeListed d.op d.type then d.type else 0
  let k := if d.op = 9 then clampN 1 16 d.k else 1
  let el := clampN 1 (elemsLimit d.op k) d.elems
  let rel := max d.releaseOfs (d.deadlineOfs + 32768)
  ({ d with type := ty, k, elems := el, releaseOfs := rel },
    bit (ty != d.type) + bit (k != d.k) + bit (el != d.elems) + bit (rel != d.releaseOfs))

/-- A descriptor's buffers in collect memory, as first byte and length (R253). -/
def descBufs (d : Desc) : List (Nat × Nat) :=
  let h : Shape := { op := d.op, ty := d.type, k := d.k, elems := d.elems }
  [(d.contribBuf * 8, h.elems * contribWidth h), (d.resultBuf * 8, resultLen h d.wide)]

def bufFits (b : Nat × Nat) : Bool := decide (b.1 + b.2 ≤ 2 ^ 19)
def bufMeets (a b : Nat × Nat) : Bool := decide (a.1 < b.1 + b.2 ∧ b.1 < a.1 + a.2)

/-- The clamps at prepare against a turning of length `len` (R255), and their number. -/
def descFit (len : Nat) (d : Desc) : Desc × Nat :=
  let a := min d.deadlineOfs (16 * len)
  let b := min d.releaseOfs (16 * len)
  ({ d with deadlineOfs := a, releaseOfs := b }, bit (a != d.deadlineOfs) + bit (b != d.releaseOfs))

end Sys2Proof.Machine
end

