-- ==== Sys2Proof/Machine/Ticks.lean ====
section
/-! DEFINITION. Tick edges, markers received and the phase loop (R21, R44 to R46, R129 to R157, R334, R382). -/

namespace Sys2Proof.Machine

open Sys2Proof

/-! ### The tick edge -/

/-- The held messages that an allowance of `g` cells lets out. -/
def heldOut (g : Nat) : List OutCell → List OutCell
  | [] => []
  | c :: t => if c.cells ≤ g then c :: heldOut (g - c.cells) t else []

/-- Traffic allowances of a new tick: one VOTE of the queued ones, and with every 1,024th tick the MGMT allowance (R338,
R382). -/
def Sender.newTick (g : Nat) (n : Tick) (x : Sender) : Sender :=
  let x := { x with copyUsed := 0 }
  let x := match x.votes with
    | v :: vs => { x with votes := vs, p1 := x.p1 ++ [v], voted := true }
    | [] => { x with voted := false }
  if n.toNat % 1024 = 0 then
    let out := heldOut g x.mgmtHeld
    { x with p3 := x.p3 ++ out, mgmtCount := cellsOf out, mgmtHeld := x.mgmtHeld.drop out.length }
  else x

/-- The master count against the shadow count: a hard event against itself, and NO_TIME at a die (R334). -/
def shadowCheck (s : State) (p : Part) : State :=
  let t := (s.base p).t
  if t.shadowFault || t.acc.toNat % shadowMod == t.shadow then s
  else
    let s := s.modTime p fun t => { t with shadowFault := true }
    let s := match p with
      | .tsu => enterNoTime s .tsu
      | .dist => s
    hardEvent s p (s.node p) causeShadow {}

/-- Announced CE and ME values are adopted at their tick (R41, R132). -/
def adoptEpochs (s : State) (p : Part) : State :=
  s.modEp p fun e =>
    let now := tickOf (s.now p)
    let due := e.pend.filter fun x => decide (0 ≤ tickDiff now x.tick)
    due.foldl (fun e x => { e with
      ce := (x.ce).getD e.ce, me := (x.me).getD e.me
      pend := pendPut e.pend { x with ce := none, me := none } }) e

/-- |mean of the last 64 samples| of a port beyond `lim` tu. -/
def beyond64 (l : List Int) (lim : Nat) : Bool :=
  l.length == 64 && decide (lim * 128 < (l.foldl (· + ·) 0).natAbs)

/-- A plane's time against H, in 2^-32 tu (R151, R152). -/
def planeToH (s : State) (i : Nat) : Nat :=
  let t := s.tsu.b.t
  let l := (s.port .tsu i).off.last64
  let mean : Int := if l.isEmpty then 0 else l.foldl (· + ·) 0 * 2 ^ 31 / (l.length : Int)
  ((t.acc - t.hCount).toInt - mean).natAbs

/-- PLANE_DISAGREE: the planes differ beyond DECKLE_TIME over 64 ticks (R151, R152). -/
def planesDisagree (s : State) : State :=
  let lim := deckleTime s .tsu * 2 ^ 32
  let a := planeToH s 0
  let b := planeToH s 1
  let s := (s.modTime .tsu fun t => { t with disagree := true, agreeRun := 0 }).alert .tsu 0
  if a ≤ lim ∧ b ≤ lim then takeInput s .tsu (if b < a then 1 else 0) false
  else if a ≤ lim then suspect (takeInput s .tsu 0 false) .tsu (neighbour s .tsu 1) causePlanes {}
  else if b ≤ lim then suspect (takeInput s .tsu 1 false) .tsu (neighbour s .tsu 0) causePlanes {}
  else startHold (s.modTime .tsu fun t => { t with neither := true, onHold := true }) .tsu

/-- A die compares its planes at every tick: H follows its own time while they agree within AGREE_TIME, and after 1,024
such ticks a disagreement is over (R151, R152). -/
def planesCompare (s : State) : State :=
  let ok := fun i => (s.port .tsu i).live && !(s.port .tsu i).off.last64.isEmpty
  if !(ok 0 && ok 1) then s
  else
    let d := (s.port .tsu 0).off.lastTheta - (s.port .tsu 1).off.lastTheta
    let agree := decide (d.natAbs ≤ 2 * agreeTime s .tsu)
    let s := s.modTime .tsu fun t => { t with
      diffs := (d :: t.diffs).take 64
      hCount := if agree then t.acc else t.hCount
      agreeRun := if agree then t.agreeRun + 1 else 0 }
    let t := s.tsu.b.t
    if t.disagree then
      (if 1024 ≤ t.agreeRun then s.modTime .tsu fun t => { t with disagree := false, neither := false, onHold := false }
       else s)
    else if beyond64 t.diffs (deckleTime s .tsu) then planesDisagree s
    else s

/-- The bytes of ROT for a tick, from a port's odd block in progress (R131). -/
def rotBytes (s : State) (p : Part) (i : Nat) (n : Tick) : BitVec 16 :=
  let m := (s.base p).map
  let odd := tbit (blockOf n) 0
  let own := (s.port p i).mark.txOdd
  let bs := if !odd then mapBlock m.cur
    else if blockPos n = 0 || own.isEmpty then mapBlock m.newest else own
  BitVec.ofNat 16 (beNat ((bs.drop (2 * blockPos n)).take 2))

/-- The marker of a tick on a port (R129, R130, R132, R134, R141, R150). -/
def markerFor (s : State) (p : Part) (i : Nat) (n : Tick) (sendOfs : Nat) : Marker :=
  let b := s.base p
  let q := s.port p i
  let g := gives s p i
  let t := b.t
  let pend := (pendShown b.ep.pend n).filter fun _ => g
  let lead := (pend.bind Pend.lead).filter fun _ => !t.electHold
  let ret : Option (Tick × Int) := q.mark.ret.filter fun r => decide (-(2 ^ 31) ≤ r.2 ∧ r.2 < 2 ^ 31)
  let lane := n.toNat % 3
  let l := laneOf q lane
  { ce := b.ep.ce, me := b.ep.me, tickSt := tickSt n, sendOfs := BitVec.ofNat 16 sendOfs
    dir := !g
    planeB := if p == .dist && s.role == .root && decide (64 ≤ i) then false else portPlaneB s p i
    holding := t.holding, noTime := t.noTime, retValid := ret.isSome
    newLeader := lead.getD 0
    node := s.node p
    refState := if !g then 0
      else if p == .dist && isLeader s then BitVec.ofNat 3 (hallState s.dist.refs).ctorIdx else b.ep.hallRef
    leader := if !g then 0 else if t.electHold then 3 else b.ep.leader
    cePend := (pend.bind Pend.ce).isSome, mePend := (pend.bind Pend.me).isSome, leadPend := lead.isSome
    pendCe := (pend.bind Pend.ce).getD 0, pendMe := (pend.bind Pend.me).getD 0
    pendTick := (pend.map fun x => x.tick.extractLsb' 0 16).getD 0
    rot := if g then rotBytes s p i n else 0
    retTag := ((ret.map Prod.fst).getD 0).extractLsb' 0 16
    retDelta := BitVec.ofInt 32 ((ret.map Prod.snd).getD 0)
    ownRes := BitVec.ofNat 64 (((t.shadow + shadowMod - t.acc.toNat % 2 ^ 46) % shadowMod) / 2 ^ 32)
    ofsEst := if p == .dist && isLeader s then 0 else BitVec.ofInt 24 t.lastMean
    accUnc := BitVec.ofNat 16 (accUnc s p)
    depth := if takes s p i then BitVec.ofNat 8 (depthSent s p) else 0
    calLane := BitVec.ofNat 2 lane, calValid := l.calValid
    calTx := l.ownTx, calRx := l.ownRx
    wm := 0 }

/-- Sends the marker of a tick on a port: the chain is seeded with the first marker after TIMECAL (R44, R45). -/
def sendMarker (p : Part) (n : Tick) (sendOfs : Nat) (s : State) (i : Nat) : State :=
  let q := s.port p i
  if !(q.live || q.link.state == .timecal) then s
  else
    let m := markerFor s p i n sendOfs
    let w := if q.link.state == .timecal then 0
      else wmNext (if q.mark.txSeeded then q.mark.txWm else wmSeed (s.node p) q.link.rxNode m.tickSt) m
    let newest := mapBlock (s.base p).map.newest
    s.modMark_ p i fun k => { k with
      txMarker := some { m with wm := w }, txWm := w, txSeeded := q.live
      sendOfs := ((n, sendOfs) :: k.sendOfs).take 16
      txOdd := if blockPos n = 0 then newest else if k.txOdd.isEmpty then newest else k.txOdd }

/-! ### Markers received (R46, R134, R135, R148, R157) -/

/-- An input that is no longer usable. -/
def Mark.bad (k : Mark) : Mark :=
  let n := k.badRun + 1
  { k with badRun := n, goodRun := 0, usable := k.usable && decide (n < 2), blockOk := false }

/-- Two slots in a row without a verified marker: a row distributor may have lost a root (R350). -/
def badSlot (s : State) (p : Part) (i : Nat) : State :=
  if p == .dist && decide (2 ≤ (s.port p i).mark.badRun) then rootLostCheck s i else s

/-- Whether a port leads to the leading root of a follower (R94, R96). -/
def leaderPort (s : State) (p : Part) (i : Nat) : Bool :=
  p == .dist && servesRoot s && leaderOf s .dist != ownRootIx s
    && (match s.role with
      | .root => (peerToward s (leaderOf s .dist)).contains i
      | _ => i == 96 + leaderOf s .dist)

/-- WM_GAP: slot 0 without a good marker; the next one is the new anchor (R46). -/
def slotGap (s : State) (p : Part) (i : Nat) (good : Bool) : State :=
  let n := tickOf (s.now p)
  let s := s.modMark_ p i fun k => { k.bad with
    rxAnchored := false, noSlot0 := if good then 0 else k.noSlot0 + 1 }
  let s := badSlot s p i
  if !(s.port p i).live then s
  else
    let s := s.event p 0x011 { port := some i } 1
    let gaps := ((s.port p i).mark.gaps.filter fun g => decide (tickDiff n g < 1024)) ++ [n]
    let s := s.modMark_ p i fun k => { k with gaps := if 2 < gaps.length then [] else gaps }
    if 2 < gaps.length then suspectPort s p i causeSlot 0 else s

/-- WM_MISMATCH: the receiver keeps its own chain (R46). -/
def slotMismatch (s : State) (p : Part) (i : Nat) (w : W32) (st : St) : State :=
  let s := s.modMark_ p i fun k => { k.bad with rxWm := w, rxSt := st, rxSeeded := false, noSlot0 := 0 }
  let s := badSlot (s.event p 0x012 { port := some i } 1) p i
  let s := if leaderPort s p i then noConfidence s else s
  hardEvent s p (neighbour s p i) causeWm { opref := BitVec.ofNat 32 i, port := some i }

/-- The sample of a verified marker (R135): theta in half tu and rtt in tu, when its return matches a marker of this end
sent under the same LANE_MAP. -/
def sampleOf (s : State) (p : Part) (i : Nat) (m : Marker) (stamp : St) : Option (Int × Int) :=
  let q := s.port p i
  if !m.retValid then none
  else match q.mark.sendOfs.find? fun e => e.1.extractLsb' 0 16 == m.retTag with
    | none => none
    | some (k, ofs) =>
      let n := tickOf m.tickSt
      let straddles := q.mark.mapTick.any fun c => decide (0 ≤ tickDiff n c) != decide (0 ≤ tickDiff k c)
      let other := stDiff stamp (m.tickSt + (m.sendOfs.setWidth 64))
      let ret := m.retDelta.toInt - (ofs : Int)
      let g := gives s p i
      let a := if q.link.state == .timecal && (s.base p).t.first then 0 else asym g q
      let diff := if g then ret - other else other - ret
      if straddles then none else some ((16 * diff - a) / 16, other + ret)

/-- A valid sample enters its port's window and the last 64 (R136, R148, R151, R157). At a follower root in service it
compares the leader with the follower's own time (R96). -/
def sampleIn (s : State) (p : Part) (i : Nat) (x : Int × Int) : State :=
  let ok := decide (x.1.natAbs ≤ 2 * deckleTime s p)
  let s := s.modOff p i fun o => { o with
    sum := o.sum + x.1, count := o.count + 1, rtt := x.2.toNat, lastTheta := x.1, last64 := (x.1 :: o.last64).take 64
    okRun := if ok then o.okRun + 1 else 0 }
  if !leaderPort s p i || s.dist.sv.state != .inService then s
  else if ok then s.modRefs fun r => { r with noConf := false }
  else noConfidence s

/-- The one further setting of R137: a part whose time was kept takes it only beyond 64 tu (R360). -/
def firstSample (s : State) (p : Part) (i : Nat) (x : Int × Int) : State :=
  let t := (s.base p).t
  if !t.first || t.input != some i then s
  else
    let move := !t.kept || decide (128 < x.1.natAbs)
    let s := s.modTime p fun t => { (if move then t.shift (-x.1) else t) with first := false }
    match p with
    | .tsu => { s with tsu.mark.loadNext := true }
    | .dist => s

/-- What a giving end checks of a taking end that is in service (R157). -/
def giverChecks (s : State) (p : Part) (i : Nat) (m : Marker) (stamp : St) : State :=
  let nbr := neighbour s p i
  if !gives s p i || !(nodeStatus s nbr == 0 || nodeStatus s nbr == 1) then s
  else
    let x : Ctx := { opref := BitVec.ofNat 32 i, port := some i }
    let q := s.port p i
    let s := if m.ownRes.toNat = m.tickSt.toNat % (2 ^ 61 - 1) then s else hardEvent s p nbr causeOwnRes x
    let dUp := ((q.off.rtt : Int) - asym true q / 16) / 2
    let at_ := stamp - m.sendOfs.setWidth 64 - BitVec.ofInt 64 dUp + tu 8192
    let s := if tickSt (tickOf at_) = m.tickSt || q.off.last64.isEmpty then s else hardEvent s p nbr causeOwnRes x
    if m.holding then s.modOff p i fun o => { o with sum := 0, count := 0, last64 := [], ofsMiss := 0 }
    else if beyond64 q.off.last64 (deckleTime s p) then
      suspect (s.modOff p i fun o => { o with last64 := [] }) p nbr causeOffset { x with detail := BitVec.ofInt 32 q.off.lastTheta }
    else s

/-- The tick whose low 16 bits a marker of tick `n` carries. -/
def pendTickOf (n : Tick) (x : BitVec 16) : Tick := n + BitVec.ofInt 50 (x - n.extractLsb' 0 16).toInt

/-- Epochs, pending changes, REF_STATE and LEADER from a giving end (R41, R129, R132, R376). -/
def markerEpochs (s : State) (p : Part) (i : Nat) (m : Marker) : State :=
  if m.dir then s
  else
    let first := !(s.base p).ep.have_
    let s := if first then s.modEp p fun e => { e with have_ := true, ce := m.ce, me := m.me, leader := m.leader } else s
    if (s.base p).t.input != some i then s
    else s.modEp p fun e =>
      let e := { e with hallRef := m.refState, leader := if e.leader = 3 then m.leader else e.leader }
      if !(m.cePend || m.mePend || m.leadPend) then e
      else
        let x := pendAt e.pend (pendTickOf (tickOf m.tickSt) m.pendTick)
        { e with pend := pendPut e.pend { x with
            ce := if m.cePend then some m.pendCe else x.ce
            me := if m.mePend then some m.pendMe else x.me
            lead := if m.leadPend then some m.newLeader else x.lead } }

/-- The rotating field's bytes (R131); a new version announced in an odd block is remembered until it is whole (R28). -/
def markerRot (s : State) (p : Part) (i : Nat) (m : Marker) : State :=
  let n := tickOf m.tickSt
  let pos := blockPos n
  let bs := beBytes 2 m.rot.toNat
  let s := s.modMark_ p i fun k =>
    if pos = 0 then { k with blockBytes := bs, blockOk := true }
    else if k.blockOk && k.blockBytes.length == 2 * pos then { k with blockBytes := k.blockBytes ++ bs }
    else { k with blockOk := false }
  let k := (s.port p i).mark
  let b := (s.base p).map
  if k.blockOk && tbit (blockOf n) 0 && decide (22 ≤ k.blockBytes.length) && (s.base p).t.input == some i then
    let r := mapOfBlock (k.blockBytes ++ List.replicate 10 0)
    if r.version = b.newest.version then s else s.modMap p fun b => { b with announced := some (r.version, r.effect) }
  else s

/-- Whether the input's markers make it usable (R148). -/
def markUsable (s : State) (p : Part) (i : Nat) : State :=
  let t := (s.base p).t
  let q := s.port p i
  let other := t.input.isSome && t.input != some i && !t.holding
  if q.live && !q.mark.usable && !q.mark.blocked && decide (16 ≤ q.mark.goodRun) && (!other || decide (16 ≤ q.off.okRun)) then
    s.modMark_ p i fun k => { k with usable := true }
  else s

/-- R149: a plane's ACC_UNC is lower by at least 50 ps throughout the window. -/
def lowCheck (s : State) : State :=
  match s.tsu.b.t.input with
  | some i =>
    let j := 1 - i
    if (s.port .tsu j).off.rxAccUnc + 50 ≤ (s.port .tsu i).off.rxAccUnc then s
    else s.modOff .tsu j fun o => { o with lowWindow := false }
  | none => s

/-- A verified marker: its stamp and fields are used (R46). -/
def markerGood (s : State) (p : Part) (i : Nat) (m : Marker) (stamp : St) : State :=
  let out := m.noTime || m.holding
  let s := s.modPort p i fun q => { q with
    mark := { q.mark with
      rxMarker := some m, ret := some (tickOf m.tickSt, stDiff stamp m.tickSt), badRun := 0, noSlot0 := 0
      goodRun := if out then 0 else q.mark.goodRun + 1, usable := q.mark.usable && !out }
    off := { q.off with
      rxOfsEst := m.ofsEst, rxAccUnc := m.accUnc.toNat, rxDepth := m.depth.toNat }
    link := { q.link with lanes := tmod {} q.link.lanes m.calLane.toNat fun l =>
      { l with nbrValid := m.calValid, nbrTx := m.calTx, nbrRx := m.calRx } } }
  let s := markerRot (markerEpochs s p i m) p i m
  let s := match sampleOf s p i m stamp with
    | none => s
    | some x =>
      if 0 ≤ x.2 ∧ x.2 ≤ 262144 then firstSample (sampleIn s p i x) p i x
      else if (s.port p i).link.state == .timecal then
        let s := s.modLink p i fun l => { l with range := true }
        (match p with
          | .tsu => s
          | .dist => s.alert .dist 1)
      else s
  let s := markUsable (giverChecks s p i m stamp) p i
  match p with
  | .tsu => lowCheck s
  | .dist => if out then s else rootFound s i

/-- The first marker of a part with no time frames its ticks: its receive stamp equals t1 (R137). A die enters TRUING
(R359). -/
def frameTime (s : State) (p : Part) (i : Nat) (m : Marker) : State :=
  let t1 : Int := (m.tickSt.toNat : Int) + m.sendOfs.toNat
  let s := s.modTime p fun t => { t.set t1 with
    first := true, input := some i, window := (tickOf m.tickSt).toNat / 1024, inputAt := (tickOf m.tickSt).toNat / 1024 }
  match p with
  | .tsu => { s with
      tsu.die := { s.tsu.die with
        state := if s.tsu.die.state == .blank && s.tsu.mark.calDone && !s.tsu.mark.pathFault then .truing
          else s.tsu.die.state }
      tsu.mark.loadNext := true, tsu.b.t.lockLimit := some (s.now .tsu) }
  | .dist => s

/-- MARKER_RECEIVE: what stands in slot 0 of a tick, with its receive stamp (R46, R133, R137). -/
def execMarkerReceive (p : Part) (port : Nat) (slot : Slot0) (stamp : St) (s : State) : Host.Outcome State Fault Refusal :=
  onPort p port s fun s =>
    let q := s.port p port
    let cal := q.link.state == .timecal
    if !(q.live || cal) then s
    else match slot with
      | .empty => slotGap s p port false
      | .badCrc => slotGap (s.count p .cellCrc port { port := some port } 1) p port false
      | .cell m =>
        if markerCorrupt m then
          slotGap (suspectPort (s.count p .cellCorrupt port { port := some port } 1) p port causeCell 0) p port true
        else
          let held := (s.base p).t.held
          let s := if cal && !held && takes s p port then frameTime s p port m else s
          let stamp := if cal && !held then s.now p else stamp
          let k := (s.port p port).mark
          let next := k.rxSt + tu 16384
          let anchor := fun (s : State) => s.modMark_ p port fun k => { k with
            rxSt := m.tickSt, rxWm := m.wm, rxAnchored := true, noSlot0 := 0 }
          if cal then
            (if k.rxAnchored && m.tickSt == next then markerGood (anchor s) p port m stamp else anchor s)
          else
            let w := wmNext (if k.rxSeeded then wmSeed q.link.rxNode (s.node p) m.tickSt else k.rxWm) m
            if k.rxSeeded then
              (if m.wm = w then markerGood ((anchor s).modMark_ p port fun k => { k with rxSeeded := false }) p port m stamp
               else (slotMismatch s p port w m.tickSt).modMark_ p port fun k => { k with rxAnchored := true })
            else if !k.rxAnchored then (anchor s).modMark_ p port Mark.bad
            else if m.wm = w && m.tickSt == next then markerGood (anchor s) p port m stamp
            else slotMismatch s p port w next

/-! ### The phase loop (R136, R139, R140, R149, R156) -/

/-- Ends the window of a port's samples: its mean in 1/16 tu, or a skip (R136); a taking end's OFS_EST that has been
beyond 2 tu of the mean in two windows in a row is an event (R157). -/
def portWindow (p : Part) (s : State) (i : Nat) : State :=
  let q := s.port p i
  if !(q.live || q.link.state == .timecal) then s
  else
    let o := q.off
    let s :=
      if gives s p i && o.meanValid && nodeStatus s (neighbour s p i) ≤ 1 then
        let miss := decide (32 < (signedOf 24 o.rxOfsEst.toNat - o.mean).natAbs)
        let s' := s.modOff p i fun o => { o with ofsMiss := if miss && o.ofsMiss = 0 then 1 else 0 }
        if miss && decide (1 ≤ o.ofsMiss) then suspectPort s' p i causeOffset (BitVec.ofInt 32 o.mean) else s'
      else s
    let s := if o.count < 512 then s.count p .portLoopSkip i { port := some i } 1 else s
    s.modOff p i fun o => { o with
      mean := if o.count < 512 then o.mean else o.sum * 8 / (o.count : Int)
      meanValid := decide (512 ≤ o.count), sum := 0, count := 0 }

/-- lim of R139 in 2^-32 tu per ns: 1 ppm once RUNNING or in service, 10 ppm before. -/
def trimLimit (s : State) (p : Part) : Int :=
  let serving : Bool := match p with
    | .tsu => s.tsu.die.state == .running || s.tsu.die.state == .parting
    | .dist => s.dist.sv.state == .inService || s.dist.sv.state == .draining
  if serving then 274877 else 2748779

/-- One step of the loop on error `e`, in 1/16 tu (R139). -/
def loopStep (s : State) (p : Part) (e : Int) : State :=
  let lim := trimLimit s p
  let now := s.now p
  s.modTime p fun t =>
    let i := t.integ + (gainI s p : Int) * e
    let raw := -((gainP s p : Int) * e + i) / 2 ^ 30
    let trim := clampI (-lim) lim raw
    let run := if e.natAbs ≤ 128 then t.lockRun + 1 else 0
    let locked := (t.locked || decide (16 ≤ run)) && decide (e.natAbs ≤ 256)
    { t with
      integ := i, trim, trims := (trim :: t.trims).take 16, trimAtLimit := decide (raw ≠ trim), lockRun := run, locked
      lockSince := if !locked then none else if t.locked then t.lockSince else some now
      lastMean := e
      noTime := if p == .dist && decide (e.natAbs ≤ 16 * deckleTime s p) then false else t.noTime }

/-- A die changes planes when the other's ACC_UNC has been lower by 50 ps throughout the window (R149). -/
def windowPlane (s : State) : State :=
  let s := match s.tsu.b.t.input with
    | some i =>
      if !s.tsu.b.t.disagree && inputOk s .tsu (1 - i) && (s.port .tsu (1 - i)).off.lowWindow then
        takeInput s .tsu (1 - i) false
      else s
    | none => s
  [0, 1].foldl (fun s i => s.modOff .tsu i fun o => { o with lowWindow := true }) s

/-- LOOP_WINDOW_END: the window's means, and the trim of the next one (R136, R139). The leading root has no loop of its
own (R138). -/
def execLoopWindowEnd (p : Part) (s : State) : Host.Outcome State Fault Refusal :=
  .next <|
    let w := (tickOf (s.now p)).toNat / 1024
    let t := (s.base p).t
    if !t.held || t.window = w then s
    else
      let s := (List.range (portCount p)).foldl (portWindow p) (s.modTime p fun t => { t with window := w })
      let s :=
        if p == .dist && isLeader s then s
        else match t.input with
          | none => s
          | some i =>
            let o := (s.port p i).off
            if o.meanValid && decide (t.inputAt < t.window) && t.holdSince.isNone then loopStep s p o.mean
            else s.count p .loopSkip 0 {} 1
      match p with
      | .tsu => windowPlane s
      | .dist => s

/-- HOLD_BUDGET_EXPIRE: holdover has lasted HOLD_BUDGET (R154, R156). -/
def execHoldBudgetExpire (p : Part) (s : State) : Host.Outcome State Fault Refusal :=
  .next <|
    match (s.base p).t.holdSince with
    | none => s
    | some x => if holdBudget s p ≤ elapsed (s.now p) x then enterNoTime s p else s

end Sys2Proof.Machine
end

