-- ==== Sys2Proof/Machine/TimeCmds.lean ====
section
/-! DEFINITION. The run's start, the time map, ST reads and the boundaries of turnings (R23, R26 to R38, R48, R131, R191,
R214). -/

namespace Sys2Proof.Machine

open Sys2Proof

/-- RUN_START: the leading root that holds no ST loads ST_INIT (R23); it is the lowest-indexed root in service (R94). It
starts in FREE_RUN with y_s at its last stored OCXO calibration, which is a free value (R83, R86). -/
def execRunStart (s : State) : Host.Outcome State Fault Refusal :=
  .next <|
    let own := s.ownRoot
    let first := (List.range own).all fun r => 1 < nodeStatus s (rootNode s r)
    let lead := leaderOf s .dist
    if s.role != .root || s.dist.b.t.held || !(lead = own || (lead = 3 && first)) then s
    else
      let init := s.dist.refs.stInit
      let s := s.modTime .dist fun t => { t.set (init.toNat : Int) with window := (tickOf init).toNat / 1024 }
      let s := s.modEp .dist fun e => { e with have_ := true, leader := BitVec.ofNat 2 own }
      let s := s.modNode (s.node .dist) fun r => { r with known := true, status := 0 }
      let s := s.modSv fun v => { v with state := .inService }
      let y := drawRate s
      let s := y.2.modRefs fun r => { r with
        running := true, stInitLocked := true, state := .freeRun, before := .freeRun, yc := 0, ys := clampI (-ysMax) ysMax y.1 }
      s.modTime .dist fun t => { t with trim := rateTrim s.dist.refs.ys }

/-! ### The time map -/

/-- Whether version `a` is newer than `b`, over 8 bits that wrap. -/
def newerVersion (a b : Byte) : Bool := decide (0 < (a - b).toInt)

/-- MAP_RECORD_ACCEPT: a whole block with a matching CRC is accepted: an even one as the record in force, an odd one as
the newest record (R28, R131). -/
def execMapRecordAccept (p : Part) (port : Nat) (odd : Bool) (s : State) : Host.Outcome State Fault Refusal :=
  onPort p port s fun s =>
    let k := (s.port p port).mark
    let b := (s.base p).map
    let n := tickOf k.rxSt
    if !(k.blockOk && blockGood k.blockBytes && blockPos n == 15 && tbit (blockOf n) 0 == odd && takes s p port) then s
    else
      let r := mapOfBlock k.blockBytes
      let new := newerVersion r.version b.newest.version || b.cur == {} || (!odd && r.version == b.cur.version)
      if odd then
        (if new && r != b.cur then s.modMap p fun b => { b with next := some r, announced := none } else s)
      else if new then s.modMap p fun b => { b with cur := r, announced := none, stale := false }
      else s

/-- The lead of a new record (R28). -/
def recordEffect (s : State) : Tick := tickOf (s.now .dist) + 2048

/-- ABS_VALID: LOCKED or HOLDOVER (R26). -/
def absValid (s : State) : Bool := s.dist.refs.state == .locked || s.dist.refs.state == .holdover

/-- The leading root begins to send a record that holds every step and offset commanded so far, and their TIME_MAP
commands complete (R28, R30, R392). -/
def beginRecord (s : State) : State :=
  let r := s.dist.refs
  let m := s.dist.b.map
  if (m.next).isSome || (r.pendCmds.isEmpty && r.pendStep = 0 && r.pendUtc.isNone) then s
  else
    let rec_ := { m.cur.move r.pendStep with
      utc := (r.pendUtc).getD m.cur.utc, version := m.cur.version + 1, effect := recordEffect s, absValid := absValid s }
    let s := phasesMove (s.modMap .dist fun m => { m with next := some rec_ }) r.pendStep
    let s := s.modRefs fun r => { r with pendStep := 0, pendUtc := none, pendCmds := [] }
    r.pendCmds.foldl (fun s c => doneR s (ofPart .dist c.1) 0x0040 .ok (rec_.version.setWidth 64) (rec_.effect.setWidth 64)
      (BitVec.ofInt 64 c.2)) s

/-- MAP_EFFECT: the record takes effect at EFFECT_TICK; a part that has not received the whole of it sets MAP_STALE
(R28). -/
def execMapEffect (p : Part) (s : State) : Host.Outcome State Fault Refusal :=
  .next <|
    let n := tickOf (s.now p)
    let m := (s.base p).map
    match m.next, m.announced with
    | some r, _ =>
      if tickDiff n r.effect < 0 then s
      else
        let s := s.modMap p fun m => { m with cur := r, next := none, stale := false, announced := none }
        (match p with
          | .tsu => s
          | .dist => if isLeader s then beginRecord s else s)
    | none, some (_, e) => if tickDiff n e < 0 then s else s.modMap p fun m => { m with stale := true }
    | none, none => s

/-- WRAP_RECORD_SEND: between 4,096 and 2,048 ticks before the wrap the leading root sends a record for tick 0 whose origin
is advanced by 2^64 tu (R32). -/
def execWrapRecordSend (s : State) : Host.Outcome State Fault Refusal :=
  .next <|
    let left := 2 ^ 50 - (tickOf (s.now .dist)).toNat
    if !isLeader s || !s.dist.b.t.held || (s.dist.b.map.next).isSome || decide (left < 2048 ∨ 4096 < left) then s
    else s.modMap .dist fun m => { m with
      next := some { m.cur.move (2 ^ 64) with version := m.cur.version + 1, effect := 0, absValid := absValid s } }

/-- The part of an origin step that keeps ORIGIN_SEC within its range (R30). -/
def stepInRange (r : MapRec) (sum step : Int) : Int :=
  let x : Int := ((r.originSec.toNat * 64000000000 + r.originTu : Nat) : Int) + sum
  clampI 0 (2 ^ 48 * 64000000000 - 1) (x + step) - x

/-- A command that another part's Headstock executes: sent to it as a COMMAND message, PENDING until its completion comes
back (R390, R392, R407). -/
def cmdSend (s : State) (c : Cmd) (op : Nat) (dst : Node) (rc : RemoteCmd) : State :=
  let s := pend s c op
  let s := match c.part with
    | .tsu => { s with tsu.remotes := s.tsu.remotes ++ [{ c, dst, tag := c.tag }] }
    | .dist => s
  mgmt s c.part dst (.command c.tag c.txn rc)

/-- TIME_MAP at the part that takes it: carried to the leading root; there the step is held to GUARD_ORIGIN_STEP and to
the origin's range, and joins the next record (R30, R75, R382, R392). -/
def cmdTimeMap (c : Cmd) (step utc : Int) (utcSet : Bool) (s : State) : State :=
  if c.part == .tsu || !isLeader s then cmdSend s c 0x0040 allRoots (.timeMap step utc utcSet)
  else
    let g : Int := guardVal s.dist.b 2 64000000000 (2 ^ 46)
    let held := clampI (-g) g step
    let s := if held = step then s else guardHit (s.clamped .dist true) .dist 2 (BitVec.ofInt 64 step)
    let r := s.dist.refs
    let fit := stepInRange s.dist.b.map.cur r.pendStep held
    let s := s.clamped .dist (decide (fit ≠ held))
    let s := pend s c 0x0040
    let s := s.modRefs fun r => { r with
      pendStep := r.pendStep + fit, pendUtc := if utcSet then some (signedOf 16 (twos 16 utc)) else r.pendUtc
      pendCmds := r.pendCmds ++ [(c, fit)] }
    beginRecord s

/-- TIME_MAP (R30, R392). -/
def execTimeMap (c : Cmd) (step utc : Int) (utcSet : Bool) (s : State) : Host.Outcome State Fault Refusal :=
  onCmd c 0x0040 (isM0 c) s (cmdTimeMap c step utc utcSet)

/-! ### Reads -/

/-- ST_NOW_LO_READ: 64 bits of one instant, or the low half with the upper half captured (R48). -/
def execStNowLoRead (p : Part) (wide : Bool) (s : State) : Host.Outcome State Fault Refusal :=
  .next <|
    let x := s.now p
    if wide then { s with rdata := x }
    else { s.modTime p (fun t => { t with capHi := some (x.extractLsb' 32 32) }) with
      rdata := (x.extractLsb' 0 32).setWidth 64 }

/-- MAP_ORIGIN_SEC_READ: the read captures the record in force (R491). -/
def execMapOriginSecRead (p : Part) (s : State) : Host.Outcome State Fault Refusal :=
  .next <|
    let r := (s.base p).map.cur
    { s.modMap p (fun m => { m with captured := r }) with rdata := r.originSec.setWidth 64 }

/-! ### Boundaries (R35 to R38, R191, R214, R253) -/

/-- What a step boundary at `b` brings at the die: a committed plate with its groups and descriptors takes effect (R191,
R202, R253), and FAULT_STOP stops or resumes the plate (R214). -/
def plateBoundary (s : State) (b : St) : State :=
  let s :=
    if s.tsu.plate.switchAt.any fun x => stGe b x then
      let groups := s.tsu.plate.switchGroups.foldl (fun g x => tset 0 g x.1 x.2) s.tsu.plate.groups
      let s := s.modPlate fun p => { p with
        activeB := !p.activeB, switchAt := none, lastSwitch := some b, copyDue := true, groups, switchGroups := [] }
      s.modFab fun f => { f with
        oldDescs := f.descs, descFrom := some b, descDue := []
        descs := f.descDue.foldl (fun d x => tset none d x.1 (some x.2)) f.descs }
    else s
  let stop := (s.tsu.plate.fault && faultStop s) || s.tsu.sync.closed
  let fresh := stop && !s.tsu.plate.stopped
  let gone := if fresh then s.tsu.plate.armed.filter fun a => stGe a.t b else []
  let s := s.modPlate fun p => { p with stopped := stop, armed := if fresh then p.armed.filter (fun a => !stGe a.t b) else p.armed }
  if gone.isEmpty then s
  else
    let s := { s with tsu.regions := tmapAll {} (fun _ r => { r with
      armed := r.armed.filter fun x => !gone.any fun a => a.entry == x.entry && a.t == x.t }) s.tsu.regions }
    s.count .tsu .plateStopped 0 (dieFlt s) gone.length

/-- A member of a slice that is TRUING with time begins to run at a boundary of its turning (R357, R362). -/
def dieRuns (s : State) : State :=
  let d := s.tsu.die
  if d.state == .truing && d.member && d.sliceValid && !s.tsu.b.t.noTime then
    s.modDie fun d => { d with state := .running }
  else s

/-- A change that shortens L clamps the entries of the active bank (R192). -/
def plateShorten (s : State) (len : Nat) : State :=
  let bank := s.tsu.plate.active
  let k := (bank.filter fun e => entryFit len e.2 != e.2).length
  if k = 0 then s
  else
    let new := tmapAll zeroPlateEntry (fun _ e => entryFit len e) bank
    (s.modPlate fun p => if p.activeB then { p with bankB := new } else { p with bankA := new }).count .tsu .clamp 0 {} k

/-- STEP_BOUNDARY: the start of the turning's next step (R35, R38). -/
def execStepBoundary (p : Part) (slice : Nat) (s : State) : Host.Outcome State Fault Refusal :=
  onUnit (decide (slice < 64)) s fun s =>
    let u := s.turning p slice
    if !u.due (s.now p) then s
    else
      let s := s.modTurning p slice Turning.boundary
      match p with
      | .tsu =>
        let short := fun (s : State) => if s.tsu.turn.len < u.len then plateShorten s s.tsu.turn.len else s
        match s.tsu.turn.idleUntil with
        | some z => if s.tsu.plate.switchAt.any fun x => stGe z x then s else short s
        | none => short (plateBoundary (dieRuns s) s.tsu.turn.start)
      | .dist => s

/-- TURNING_START: the origin of a new turning (R36). -/
def execTurningStart (p : Part) (slice : Nat) (s : State) : Host.Outcome State Fault Refusal :=
  onUnit (decide (slice < 64)) s fun s =>
    let u := s.turning p slice
    if !u.exists_ || u.started || !stGe (s.now p) u.first then s
    else
      let s := s.modTurning p slice Turning.begin_
      match p with
      | .tsu => plateBoundary (dieRuns s) s.tsu.turn.start
      | .dist => s

/-- PLATE_BANK_COPY: after a switch the active bank is copied into the other, which becomes the staged bank (R191). -/
def execPlateBankCopy (s : State) : Host.Outcome State Fault Refusal :=
  .next <| if s.tsu.plate.copyDue then s.modPlate fun p => { p.setOther p.active with copyDue := false } else s

end Sys2Proof.Machine
end

