-- ==== Sys2Proof/Machine/Slices.lean ====
section
/-! DEFINITION. Slices: the slice step reset and a die's move from one slice to another (R305, R306, R311, R312, R322 to
R325). -/

namespace Sys2Proof.Machine

open Sys2Proof

/-! ### Slice step reset (R312, R323) -/

/-- Mailbox 0 may reset any slice; mailbox 1 its own where SLICE_RESET_ALLOW is set (R312, R491). -/
def resetAllowed (s : State) (c : Cmd) (slice : Nat) : Bool :=
  isM0 c || (c.mbx == 1 && tbit (s.cfg .tsu 0x38 0) 0 && s.tsu.die.sliceValid && s.tsu.die.sliceId == slice)

/-- SLICE_RESET: carried to the leading root, which announces one CE value for it; a second one before the first's effect
tick joins it (R323, R325). -/
def cmdSliceReset (c : Cmd) (slice : Nat) (s : State) : State :=
  if 64 ≤ slice then done s c 0x0038 .badCommand
  else if !resetAllowed s c slice then done s c 0x0038 .denied
  else if c.part == .tsu || !isLeader s then
    cmdSend (s.modTurning c.part slice fun u => { u with resetPending := true }) c 0x0038 allRoots (.sliceReset slice)
  else
    let s := pend s c 0x0038
    let s := s.modSv fun v => { v with resets := v.resets ++ [(c, slice)] }
    if (s.turning .dist slice).resetPending then s
    else announceResets (s.modTurning .dist slice fun u => { u with resetPending := true, resetTick := none })

/-- SLICE_RESET (R392). -/
def execSliceReset (c : Cmd) (slice : Nat) (s : State) : Host.Outcome State Fault Refusal :=
  onCmd c 0x0038 true s (cmdSliceReset c slice)

/-- The queued P2 cells of a slice go, and are counted with the other items (R323). -/
def cellsReset (s : State) (p : Part) (slice : Nat) : State × Nat :=
  let n := ((s.base p).ports.map fun e => (tget [] e.2.tx.p2 slice).length).foldl (· + ·) 0
  (s.modBase p fun b => { b with ports := tmapAll {} (fun _ q => { q with
    tx := { q.tx with p2 := tset [] q.tx.p2 slice [] } }) b.ports }, n)

/-- The turning after a slice step reset at E: it keeps L and holds idle until its first boundary at least ARM_AHEAD +
16,384 tu after E, where step 0 begins; pending changes are dropped (R38, R323). -/
def turningReset (u : Turning) (e : St) (ahead : Nat) (ce : Epoch) : Turning :=
  let u := { u with changes := [], resetPending := false, resetTick := none, resetCe := some ce }
  match u.boundaryAfter (e + tu (ahead + 16384)) with
  | none => u
  | some b =>
    if u.started then { u with restart := some b.2 }
    else { u with st0 := b.2, first := b.2, firstStep := 0 }

/-- The first start of a turning that has been reset. -/
def resetStart (u : Turning) : St := (u.restart).getD u.first

/-- A slice step reset at a die of the slice (R211, R251, R280, R304, R323, R325). -/
def dieReset (s : State) (slice : Nat) : State :=
  let e := tickEdgeSt s .tsu
  let y := s.tsu.sync
  let items := s.tsu.plate.armed.length + (y.locals.filter fun b => b.2.open_).length + openOps s + y.watches.length
    + s.tsu.fab.deltas.length + s.tsu.turn.changes.length
  let s := plateCancel s fun _ => true
  let s := localsCancel (watchesEnd (dieOpsEnd s .cancelled) true)
  let s := s.modSync fun y => { y with ctrs := tmapAll {} (fun _ c => { c with value := 0 }) y.ctrs }
  let s := s.modFab fun f => { f with deltas := [], events := [], done := [] }
  let cells := cellsReset s .tsu slice
  let s := cells.1
  let old := s.tsu.turn
  let u := turningReset s.tsu.turn e (armAhead s) s.tsu.b.ep.ce
  let z := resetStart u
  let s := s.modTurning .tsu slice fun _ => u
  let s := s.modPlate fun p => { p.seek 0 z with switchAt := p.switchAt.map fun x => if stLater x e then z else x }
  let part := match s.tsu.die.partDue.bind old.stepStart with
    | some b => if stGe b z then (u.boundaryAfter b).map Prod.fst else none
    | none => none
  let s := s.modDie fun d => { d with ctx := none, moveDue := none, moveStaged := [], partDue := part }
  s.count .tsu .sliceCancelled 0 { slice := some slice } (items + cells.2)

/-- A slice step reset at a distributor: it frees the slice's posts, barrier records, votes and queued cells (R280, R304,
R323). -/
def distReset (s : State) (slice : Nat) : State :=
  let e := tickEdgeSt s .dist
  let f := s.dist.fab
  let mine := f.posts.filter fun q => q.slice == slice
  let items := mine.length + (f.bars.filter fun b => b.slice == slice).length + (f.votes.filter fun v => v.slice == slice).length
    + (s.turning .dist slice).changes.length
  let s := s.modFabric fun f => { f with
    posts := f.posts.filter fun q => q.slice != slice
    memUsed := f.memUsed - (mine.map (·.blocks)).foldl (· + ·) 0
    refused := f.refused.filter fun q => q.slice != slice
    votes := f.votes.filter fun v => v.slice != slice
    ledVotes := f.ledVotes.filter fun v => v.slice != slice
    downs := f.downs.filter fun d => d.slice != slice
    kept := f.kept.filter fun k => k.slice != slice
    routes := f.routes.filter fun r => r.slice != slice
    bars := f.bars.filter fun b => b.slice != slice
    resetCe := tset none f.resetCe slice (some s.dist.b.ep.ce) }
  let s := { s with dist.digests := s.dist.digests.filter fun d => d.slice != slice }
  let cells := cellsReset s .dist slice
  let led := ledgerReset cells.1 slice
  let s := led.1.modTurning .dist slice fun u => turningReset u e 65536 s.dist.b.ep.ce
  let s := s.count .dist .sliceCancelled slice { slice := some slice } (items + cells.2 + led.2)
  let mine := s.dist.sv.resets.filter fun r => r.2 == slice
  let s := s.modSv fun v => { v with resets := v.resets.filter fun r => r.2 != slice }
  announceHeld (announceResets (mine.foldl (fun s r => done s (ofPart .dist r.1) 0x0038 .ok) s))

/-- SLICE_RESET_EFFECT: the effect tick of an announced slice step reset; its CE value is adopted with it (R323 to R325).
A part that has adopted no new CE since its last reset of the slice has none to perform. -/
def execSliceResetEffect (p : Part) (slice : Nat) (s : State) : Host.Outcome State Fault Refusal :=
  onUnit (decide (slice < 64)) s fun s =>
    let s' := adoptEpochs s p
    let u := s.turning p slice
    let mine : Bool := match p with
      | .tsu => s.tsu.die.sliceValid && s.tsu.die.sliceId == slice
      | .dist => !isLeader s || u.resetPending
    let due := match u.resetTick with
      | some t => decide (0 ≤ tickDiff (tickOf (s.now p)) t)
      | none => !(isLeader s && p == .dist)
    if !mine || !due || resetCeOf s' p slice == some (s'.base p).ep.ce then s
    else match p with
      | .tsu => dieReset s' slice
      | .dist => distReset s' slice

/-! ### Slice move (R306, R435, R503) -/

/-- Whether step `n` of a turning has begun. -/
def stepReached (u : Turning) (now : St) (n : Step) : Bool :=
  u.started && (decide (0 ≤ stepDiff u.step n) || (u.stepStart n).any fun b => stGe now b)

/-- The RC counters of page 0x6, which a slice move clears (R503). -/
def page6Counters : List Ctr :=
  [.late, .armShort, .plateCancelled, .plateStopped, .plateNoTime, .launchEventLost, .ctrFaultLost, .signalSingle
  , .signalExpired, .msgBackpressure, .ctxDiscard, .collectExpired, .ledgerNoRing, .p2Cells, .p2Wait, .p2WaitMax
  , .collectBusy, .signalBusy, .ledgerBusy, .epochStale, .sliceCancelled]

/-- Every index of these counters is cleared. -/
def clearCounters (b : Base) (cs : List Ctr) : Base :=
  { b with cnt := b.cnt.filter fun e => !cs.any fun c => e.1 / 2 ^ 20 == c.ctorIdx }

/-- Counters, histograms and the sampler whose OWNER is the slice are cleared and disabled (R435). -/
def ownedClear (q : Perf) : Perf :=
  let q := { q with
    ctrs := tmapAll {} (fun _ c => if tbit c.sel.toNat 61 then {} else c) q.ctrs
    hists := tmapAll {} (fun _ h => if tbit h.ctl.toNat 2 then {} else h) q.hists }
  if q.sOwner then
    { q with sEnable := false, sOwner := false, sSrc := 0, sMode := false, sN := 1, sCount := 0, sBuf := [], sCap := none }
  else q

/-- The commands open on mailboxes 1 to 3 complete with CANCELLED, and their transactions end (R306). -/
def mailboxesCancel (s : State) : State :=
  let open_ := [1, 2, 3].flatMap fun m => (s.mbox m).open_.map fun o => (m, o.1, o.2.1)
  let s := s.modFab fun f => { f with ops := f.ops.filter fun o => o.c.mbx == 0 }
  let s := { s with tsu.remotes := s.tsu.remotes.filter fun r => r.c.mbx == 0 }
  let s := s.modBase .tsu fun b => { b with txns := b.txns.filter fun t => t.mbx == 0 }
  open_.foldl (fun s o => done s { part := .tsu, mbx := o.1, tag := o.2.1, txn := 0 } o.2.2 .cancelled) s

/-- What a move clears of the old slice's values (R306, R435, R503). -/
def moveClears (s : State) : State :=
  let s := localsCancel (plateCancel s fun _ => true)
  let s := mailboxesCancel (watchesEnd s false)
  let s := s.modSync fun y => { y with
    ctrs := [], locals := [], hall := [], faults := [], faultCap := none, lbBusy := false, outQ := [], pend := [] }
  let s := s.modPlate fun p => { p with
    bankA := [], bankB := [], dense := false, denseEntry := 0, switchAt := none, switchGroups := [], copyDue := false
    lastSwitch := none, groups := [], fault := false, faultRegion := 0, faultEntry := 0, faultStep := 0, slipped := false
    slipCount := 0, slipFirst := 0, slipLast := none, events := [], evCap := none, stopped := false }
  let s := s.modFab fun f => { f with
    descs := [], oldDescs := [], descFrom := none, descDue := [], done := [], lateLast := 0, deltas := [], events := []
    mem := [] }
  let s := s.modBase .tsu fun b => clearCounters { b with perf := ownedClear b.perf } page6Counters
  s.modDie fun d => { d with
    sliceMask := 0, acctThreshold := 0, pba := d.pba &&& 0x2011, saved := none, ctx := none }

end Sys2Proof.Machine
end

