-- ==== Sys2Proof/Machine/Mgmt.lean ====
section
/-! DEFINITION. Management messages at a part: authentication, replay, relaying by DST (R403 to R407). -/

namespace Sys2Proof.Machine

open Sys2Proof

/-- Whether a management message is for this part: its own node ID, or every root where it serves as one (R403). -/
def mgmtMine (s : State) (p : Part) (dst : Node) : Bool :=
  (s.base p).node == some dst || (dst == allRoots && p == .dist && servesRoot s)

/-- The accepted NONCEs of a sender and key slot, newest last (R405). -/
def mgmtKey (e : MgmtEnv) : Nat := e.src.toNat * 4 + e.key

/-- The highest accepted NONCE plus 1. -/
def nonceTop (l : List (Nat × Bool)) : Nat := (l.map fun x => x.1 + 1).foldl max 0

/-- Authentication at the destination (R405): the tag under a loaded slot (R406), then the NONCE. The second copy of an
accepted message is discarded without count. The result says whether the message is taken. -/
def mgmtAuth (s : State) (p : Part) (nbr : Nat) (e : MgmtEnv) : State × Bool :=
  let h := (s.base p).hs
  if !e.tagOk || !h.keys.getLsbD e.key then
    (suspectPort (s.count p .mgmtAuthFail 0 { port := some nbr } 1) p nbr causeCell 0, false)
  else
    let old := tget [] h.accepted (mgmtKey e)
    let n := e.nonce.toNat
    let put := fun (l : List (Nat × Bool)) => s.modHs p fun h => { h with accepted := tset [] h.accepted (mgmtKey e) l }
    match old.find? fun x => x.1 == n with
    | some x =>
      if x.2 then (s.count p .mgmtReplay 0 { port := some nbr } 1, false)
      else (put (old.map fun y => if y.1 == n then (n, true) else y), false)
    | none =>
      if n + 65 ≤ nonceTop old then (s.count p .mgmtReplay 0 { port := some nbr } 1, false)
      else
        let l := old ++ [(n, false)]
        (put (l.filter fun y => decide (nonceTop l < y.1 + 65)), true)

/-- The port a message without a port of its own is taken to have come by: the first toward its sender. -/
def mgmtPort (s : State) (p : Part) (e : MgmtEnv) : Nat := ((routeOwn s p e.src e.msgId.toNat).head?).getD 0

/-- A management message at its destination: taken when the part's firmware runs and authenticates it. -/
def mgmtIn (s : State) (p : Part) (port : Option Nat) (e : MgmtEnv) : State × Bool :=
  if !mgmtMine s p e.dst || !(s.base p).hs.running then (s, false)
  else mgmtAuth s p ((port).getD (mgmtPort s p e)) e

/-- A command that a message brings: `f` where it is taken. -/
def onMgmt (p : Part) (e : MgmtEnv) (s : State) (f : State → State) : Host.Outcome State Fault Refusal :=
  .next <| match mgmtIn s p none e with
    | (s, true) => f s
    | (s, false) => s

/-- Where a distributor relays a message that came on a port, by DST (R234, R403). -/
def mgmtRoute (s : State) (port : Nat) (e : MgmtEnv) : List Nat :=
  let below := portBelow s.role port
  let k := nodeKind e.dst
  let id := e.msgId.toNat
  if (s.dist.b).node == some e.dst then []
  else match s.role with
    | .rack =>
      if e.dst ≠ allRoots ∧ k ≤ 1 ∧ nodeRow e.dst = s.ownRow ∧ nodeRack e.dst = s.ownRack then routeOwn s .dist e.dst id
      else if below then upPorts s id else []
    | .row =>
      if e.dst ≠ allRoots ∧ k ≤ 2 ∧ nodeRow e.dst = s.ownRow then routeOwn s .dist e.dst id
      else if below then upPorts s id else []
    | .root =>
      if e.dst = allRoots then []
      else if k = 0 then (if below then [2 * nodeRow e.dst + port % 2] else [2 * nodeRow e.dst, 2 * nodeRow e.dst + 1])
      else if k ≤ 2 then routeOwn s .dist e.dst id
      else []
    | .none_ => []

/-- Sends a message on, as its sender formed it. -/
def mgmtRelay (s : State) (port : Nat) (e : MgmtEnv) (b : MgmtBody) : State :=
  (mgmtRoute s port e).foldl (fun s i =>
    sendP3 s .dist i { cellNow s .dist 0 (.mgmt e.dst e.msgId e.src e.key e.nonce b) with cells := mgmtCells b }) s

end Sys2Proof.Machine
end

