-- ==== Sys2Proof/Machine/TxnOps.lean ====
section
/-! DEFINITION. Transactions at a participant: staged objects, the prepare checks, the decision and the effect (R191,
R192, R204, R255, R280 to R283, R287, R305, R306, R309, R364, R393 to R402). -/

namespace Sys2Proof.Machine

open Sys2Proof

/-! ### Open transactions and staged objects (R393, R394) -/

/-- Whether a transaction is open at the part. -/
def Txn.live (t : Txn) : Bool := t.phase == .open_ || t.phase == .committing || t.phase == .prepared || t.phase == .decided

def State.txn (s : State) (p : Part) (id : W32) : Option Txn := (s.base p).txns.find? fun t => t.id == id && t.live

def State.modTxn (s : State) (p : Part) (id : W32) (f : Txn → Txn) : State :=
  s.modBase p fun b => { b with txns := b.txns.map fun t => if t.id == id && t.live then f t else t }

/-- A hall transaction has bit 31 set (R393). -/
def isHallTxn (id : W32) : Bool := id.getLsbD 31

/-- The kind and number of the object that a staged write names. -/
def Staged.slot : Staged → Nat × Nat
  | .plate .. | .plateAppend _ | .plateClear => (0, 0)
  | .rgroup g _ => (1, g)
  | .desc d _ => (2, d)
  | .turning sl .. => (3, sl)
  | .assign .. => (4, 0)
  | .sliceMap sl _ => (5, sl)
  | .weight i sl _ => (6, i * 64 + sl)
  | .hgroup g _ | .hfree g => (7, g)
  | .sg g _ => (8, g)
  | .ledgerPart _ => (9, 0)
  | .config i _ => (10, i)
  | .ctxSave .. => (11, 0)
  | .ctxRestore .. => (12, 0)
  | .part _ => (13, 0)

/-- Whether a write ties its object to the transaction (R394). -/
def Staged.ties (x : Staged) : Bool := decide (x.slot.1 ≤ 10)

/-- Adds a staged write: of one object the later replaces the earlier, but plate writes keep their order. -/
def stagePut (x : Staged) (l : List Staged) : List Staged :=
  if x.slot.1 = 0 then l ++ [x] else l.filter (fun y => y.slot != x.slot) ++ [x]

/-- Whether another open transaction holds the object. -/
def tiedElsewhere (s : State) (p : Part) (id : W32) (x : Staged) : Bool :=
  x.ties && (s.base p).txns.any fun u => u.live && u.id != id && u.staged.any fun y => y.slot == x.slot

/-- Whether the staged bank, or what takes effect with it, still waits for an earlier commit's boundary or copy (R191). -/
def switchHeld (s : State) (x : Staged) : Bool :=
  decide (x.slot.1 ≤ 2) && s.tsu.plate.switchAt.isSome || (decide (x.slot.1 = 0) && s.tsu.plate.copyDue)

/-- Why a staged write cannot be taken (R391, R394, R395). -/
def stageBar (s : State) (c : Cmd) (x : Staged) : Option Status :=
  match s.txn c.part c.txn with
  | none => some .badCommand
  | some t =>
    if t.phase != .open_ || tiedElsewhere s c.part c.txn x || (c.part == .tsu && switchHeld s x) then some .busy else none

/-- A staged command: `x` is added to its transaction, `k` values having been clamped (R12), and `f` is what it does
besides. -/
def stage (s : State) (c : Cmd) (op : Nat) (x : Staged) (k : Nat) (f : State → State) : State :=
  match stageBar s c x with
  | some st => done s c op st
  | none =>
    let s := if k = 0 then s else s.count c.part .clamp 0 {} k
    done (f (s.modTxn c.part c.txn fun t => { t with staged := stagePut x t.staged })) c op .ok

/-! ### Closing (R400, R401) -/

/-- The RESULT words of a closed transaction (R399, R400). -/
def Txn.result (t : Txn) : W64 × W64 :=
  if t.phase == .rolledBack then
    (BitVec.ofNat 64 (Status.code t.reason + t.node.toNat * 2 ^ 8 + t.detail % 2 ^ 16 * 2 ^ 32), t.at_)
  else (t.effect, BitVec.ofNat 64 (t.newCe.toNat + t.step.toNat * 2 ^ 16))

/-- A transaction closes; the last 16 closed ones stay for TXN_STATUS. -/
def closeTxn (s : State) (p : Part) (id : W32) (f : Txn → Txn) : State :=
  s.modBase p fun b =>
    let all := b.txns.map fun t => if t.id == id && t.live then f t else t
    let gone := all.filter (fun t => !t.live)
    let keep := gone.drop (gone.length - 16)
    { b with txns := all.filter (·.live) ++ keep }

/-- The staged bank as it was: a copy of the active one (R191). -/
def plateRestore (s : State) (t : Txn) : State :=
  if t.staged.any fun x => x.slot.1 == 0 then s.modPlate fun p => p.setOther p.active else s

/-- A rollback at a participant: staged state gone, objects free, the waiting commands complete (R400, R401). -/
def txnRollback (s : State) (p : Part) (t : Txn) (reason : Status) (node : Node) (detail : Nat) (at_ : St) : State :=
  let s := match p with
    | .tsu => plateRestore s t
    | .dist => s
  let end_ : Txn := { t with phase := .rolledBack, staged := [], reason, node, detail, at_, cmd := none, rollCmd := none }
  let s := closeTxn s p t.id fun _ => end_
  let s := match t.cmd with
    | some c => doneR s (ofPart p c) 0x0002 .rolledBack end_.result.1 end_.result.2 0
    | none => s
  match t.rollCmd with
  | some c => done s (ofPart p c) 0x0003 .ok
  | none => s

/-! ### What a transaction leaves in force -/

/-- The die's slice as the transaction leaves it. -/
def stagedSlice (s : State) (t : Txn) : Nat × Bool :=
  (t.staged.findSome? fun x => match x with | .assign sl v => some (sl, v) | _ => none).getD
    (s.tsu.die.sliceId, s.tsu.die.sliceValid)

/-- Whether it moves the die out of its slice (R306). -/
def isMove (s : State) (t : Txn) : Bool :=
  s.tsu.die.sliceValid && (stagedSlice s t != (s.tsu.die.sliceId, true))

/-- The turning that it writes for a slice. -/
def stagedTurning (t : Txn) (slice : Nat) : Option (Option St × Option Nat × Option Step) :=
  t.staged.findSome? fun x => match x with
    | .turning sl z l n => if sl = slice then some (z, l, n) else none
    | _ => none

/-- The length of a slice's turning in force at the effect; 0 where there is none. -/
def lenAfter (s : State) (p : Part) (t : Txn) (slice : Nat) : Nat :=
  ((stagedTurning t slice).bind (·.2.1)).getD (s.turning p slice).len

/-- The descriptors as it leaves them. -/
def descsAfter (s : State) (t : Txn) (fresh : Bool) : Tab (Option Desc) :=
  let old := if fresh then [] else s.tsu.fab.descDue.foldl (fun d x => tset none d x.1 (some x.2)) s.tsu.fab.descs
  t.staged.foldl (fun d x => match x with | .desc k y => tset none d k (some y) | _ => d) old

def validDescs (l : Tab (Option Desc)) : List (Nat × Desc) :=
  l.filterMap fun e => e.2.bind fun d => if d.valid then some (e.1, d) else none

/-- The slice of a hall group as the transaction leaves it at the part. -/
def groupSlice (s : State) (p : Part) (t : Txn) (g : Nat) : Option Nat :=
  let staged := t.staged.findSome? fun x => match x with
    | .hgroup k q => if k = g then some (some q.slice) else none
    | .hfree k => if k = g then some none else none
    | _ => none
  match staged with
  | some r => r
  | none => match p with
    | .tsu => if (hallOf s g).valid then some (hallOf s g).slice else none
    | .dist => (tget none s.dist.fab.hgroups g).map (·.slice)

/-! ### Prepare checks at a die (R396) -/

/-- What holds a context switch or slice move (R252, R280, R306), as DETAIL of BUSY (R400). -/
def switchBusy (s : State) : Option Nat :=
  if s.tsu.sync.hall.any (fun h => !h.2.waiters.isEmpty) then some 1
  else if !s.tsu.sync.sigOut.isEmpty then some 2
  else if !s.tsu.fab.insts.isEmpty then some 3
  else none

/-- No two different members of a list share a key. -/
def distinctBy {α : Type} (f : α → Nat) (l : List α) : Bool := (l.map f).eraseDups.length == l.length

/-- The LEDGER_DIE registers as the transaction leaves them (R504). -/
def diesAfter (s : State) (t : Txn) : Tab LedgerDie :=
  t.staged.foldl (fun d x => match x with
    | .config i v =>
      let off := 8 * i
      if 0x6200 ≤ off ∧ off < 0x6300 then
        tmod {} d ((off - 0x6200) / 0x20) fun r =>
          if off % 0x20 = 0 then { r with config := v }
          else if r.ring = v then r else { r with ring := v, wp := 0, rp := 0 }
      else d
    | _ => d) s.tsu.fab.dies

/-- The delta rings as buffers in collect memory. -/
def ringBuf (r : LedgerDie) : Nat × Nat := (bits r.ring.toNat 15 0 * 8, bits r.ring.toNat 31 16 * 8)

/-- R505: one serving group per VALID entry, and rings inside collect memory and clear of the descriptors' buffers. -/
def diesOk (s : State) (t : Txn) (descs : List (Nat × Desc)) : Bool :=
  let ds := ((diesAfter s t).map Prod.snd).filter fun r => tbit r.config.toNat 0
  !(t.staged.any fun x => match x with | .config i _ => decide (0x6200 ≤ 8 * i ∧ 8 * i < 0x6300) | _ => false)
    || (distinctBy (fun r => bits r.config.toNat 15 8) ds
        && ds.all fun r => bufFits (ringBuf r) && descs.all fun e => (descBufs e.2).all fun b => !bufMeets (ringBuf r) b)

/-- The checks of a die, in order; DETAIL is none where the manual gives no code for it. -/
def dieCheck (s : State) (t : Txn) (boundary : St) : Option (Status × Option Nat) :=
  let d := s.tsu.die
  let move := isMove s t
  let ctx := t.staged.any fun x => match x with | .ctxSave .. | .ctxRestore .. => true | _ => false
  let parts := t.staged.any fun x => match x with | .part _ => true | _ => false
  let sl := (stagedSlice s t).1
  let descs := validDescs (descsAfter s t move)
  let busy := switchBusy s
  if s.tsu.b.t.noTime then some (.noTime, some 0)
  else if d.quar then some (.quarantined, some 0)
  else if t.staged.any fun x => match x with | .plateAppend _ => true | _ => false then some (.full, none)
  else if parts && (d.state != .running || d.partDue.isSome) then some (.badCommand, none)
  else if (ctx || move) && busy.isSome then some (.busy, busy)
  else if (ctx || move) && s.tsu.turn.resetPending then some (.cancelled, some 1)
  else if move && boundary = 0 then some (.badCommand, none)
  else if !distinctBy (fun e => e.2.ledger) (descs.filter fun e => e.2.ledger != 0x1FF) then some (.badCommand, none)
  else if descs.any fun e => (groupSlice s .tsu t e.2.group).any fun g => g != sl then some (.badCommand, none)
  else if !diesOk s t descs then some (.badCommand, none)
  else none

/-- Whether an interval of ARM_AHEAD from offset `o` holds more than `lim` of these offsets, every entry falling due in
every step (R204). -/
def denseFrom (len ah lim : Nat) (es : List Nat) (o : Nat) : Bool :=
  decide (lim < (es.map fun x =>
    let d := (x + len - o) % len
    if d < ah then 1 + (ah - 1 - d) / len else 0).foldl (· + ·) 0)

/-- Insertion in fire order (R190). -/
def fireInsert (x : Nat × Nat × Entry) : List (Nat × Nat × Entry) → List (Nat × Nat × Entry)
  | [] => [x]
  | y :: t => if dueBefore (0, x.1, x.2.1) (0, y.1, y.2.1) then x :: y :: t else y :: fireInsert x t

/-- The first entry in fire order that breaks a condition of R204. -/
def denseEntry (groups : Tab (BitVec 144)) (len ah : Nat) (bank : Tab Entry) : Option Nat :=
  let es := (bank.filter fun e => entValid e.2).foldr (fun e l => fireInsert (entOffset e.2, e.1, e.2) l) []
  let all := es.map Prod.fst
  let kernels := es.filter fun e => entAction e.2.2 == 1
  let hits := fun (r : Nat) => (kernels.filter fun e => (maskOf groups (entTarget e.2.2)).getLsbD r).map Prod.fst
  if len = 0 then none
  else (es.find? fun e =>
    denseFrom len ah ((ah - 16384) / 256) all e.1
      || (entAction e.2.2 == 1 && (List.range 144).any fun r =>
        (maskOf groups (entTarget e.2.2)).getLsbD r && denseFrom len ah 16 (hits r) e.1)).map (·.2.1)

/-- A valid entry with an offset beyond the turning. -/
def unfit (len : Nat) (e : Entry) : Bool := entryFit len e != e

/-- What PREPARED does to a die's staged state: the clamps of R192 and R255, and the density check of R204. -/
def dieClamps (s : State) (t : Txn) : State :=
  let sl := (stagedSlice s t).1
  let len := lenAfter s .tsu t sl
  if len = 0 then s
  else
    let touched := t.staged.any fun x => x.slot.1 == 0
    let bank := s.tsu.plate.other
    let k := if touched then (bank.filter fun e => unfit len e.2).length else 0
    let s := if touched then s.modPlate fun p => p.setOther (tmapAll zeroPlateEntry (fun _ e => entryFit len e) bank) else s
    let dk := t.staged.foldl (fun n x => match x with | .desc _ d => n + (descFit len d).2 | _ => n) 0
    let s := if k + dk = 0 then s else s.count .tsu .clamp 0 {} (k + dk)
    let s := s.modTxn .tsu t.id fun t => { t with staged := t.staged.map fun x => match x with
      | .plate i e => .plate i (entryFit len e)
      | .desc i d => .desc i (descFit len d).1
      | x => x }
    if !touched then s
    else
      let groups := t.staged.foldl (fun g x => match x with | .rgroup i m => tset 0 g i m | _ => g) s.tsu.plate.groups
      let hit := denseEntry groups len (armAhead s) s.tsu.plate.other
      s.modPlate fun p => { p with dense := hit.isSome, denseEntry := (hit).getD 0 }

/-! ### Prepare checks at a distributor (R282, R309, R396) -/

/-- The clamps of a serving group's figures against COLLECT_HOP and its turning's length, 0 for none (R282). -/
def sgClamp (hop len : Nat) (f : SgFields) : SgFields × Nat :=
  let cap := clampN 1 4096 f.capacity
  let lo := 57600 + 64 * cap + 4 * hop
  let co := if len = 0 then f.closeOfs else min f.closeOfs (len - 1)
  let dl := max lo (if len = 0 then f.deltaLead else min f.deltaLead (max (16 * len) lo))
  let fp := clampN 1 65535 f.fullPeriod
  ({ f with capacity := cap, closeOfs := co, deltaLead := dl, fullPeriod := fp },
    bit (cap != f.capacity) + bit (co != f.closeOfs) + bit (dl != f.deltaLead) + bit (fp != f.fullPeriod))

def distCheck (s : State) (t : Txn) : Option (Status × Option Nat) :=
  if s.dist.b.t.noTime then some (.noTime, some 0)
  else if s.dist.sv.state == .fenced then some (.quarantined, some 0)
  else if t.staged.any fun x => match x with
    | .sg _ f => f.valid && (groupSlice s .dist t f.group).any fun g => g != f.slice
    | _ => false
  then some (.badCommand, none)
  else none

/-- A change of L clamps the serving groups of its slice again (R282). -/
def distClamps (s : State) (t : Txn) : State :=
  let again := s.dist.led.sgs.filterMap fun e => e.2.bind fun g =>
    if (stagedTurning t g.f.slice).any (·.2.1.isSome) && !(t.staged.any fun x => x.slot == (8, e.1)) then some (e.1, g.f)
    else none
  let fit := fun (f : SgFields) => sgClamp (hopTu s) (lenAfter s .dist t f.slice) f
  let new := again.map fun e => Staged.sg e.1 (fit e.2).1
  let old := t.staged.map fun x => match x with | .sg g f => Staged.sg g (fit f).1 | x => x
  let k := (again.map fun e => (fit e.2).2).foldl (· + ·) 0
    + t.staged.foldl (fun n x => match x with | .sg _ f => n + (fit f).2 | _ => n) 0
  let s := if k = 0 then s else s.count .dist .clamp 0 {} k
  s.modTxn .dist t.id fun t => { t with staged := old ++ new }

/-- A participant's answer to PREPARE: PREPARED, or a reason with its DETAIL (R396). -/
abbrev Answer := Option (Status × Nat)

/-- PREPARE at a participant: none where the transaction is not open there or already prepared. -/
def partPrepare (s : State) (p : Part) (id : W32) (deadline boundary : St) : State × Option Answer :=
  match s.txn p id with
  | none => (s, none)
  | some t =>
    if t.phase == .prepared || t.phase == .decided then (s, none)
    else
      let bad := match p with
        | .tsu => dieCheck s t boundary
        | .dist => distCheck s t
      let s := s.modTxn p id fun t => { t with phase := .committing, deadline, boundary }
      match bad with
      | some (st, some d) => (s, some (some (st, d)))
      | some (st, none) =>
        let w := drawWord s p
        (w.2, some (some (st, w.1.toNat % 2 ^ 16)))
      | none =>
        let s := match p with
          | .tsu => dieClamps s t
          | .dist => distClamps s t
        (s.modTxn p id fun t => { t with phase := .prepared, prepAt := s.now p }, some none)

/-! ### Turnings at a commit (R33, R37, R38) -/

/-- From boundary `b` of step `n` on, the fire-order timeline is another: entries armed for it are cancelled and the
sequencer walks it anew (R191, R203). -/
def rearmFrom (s : State) (n : Step) (b : St) : State :=
  let s := plateCancel s fun a => stGe a.t b
  if 0 ≤ stepDiff s.tsu.plate.curStep n then s.modPlate (·.seek n b) else s

/-- The sequencer walks a turning that has not started from its first step. -/
def rearmFirst (s : State) (p : Part) (slice : Nat) (u : Turning) : State :=
  match p with
  | .tsu =>
    if s.tsu.die.sliceId = slice then (plateCancel s fun _ => true).modPlate (·.seek u.firstStep u.first) else s
  | .dist => s

/-- A committed turning change with effect tick `e`: the step at which it takes effect, and that step's start. -/
def turnCommit (s : State) (p : Part) (slice : Nat) (z : Option St) (l : Option Nat) (named : Option Step) (e : St) :
    State × Option (Step × St) :=
  let u := s.turning p slice
  if !u.started then
    let u := { u with len := (l).getD u.len }
    if u.len = 0 then (s, none)
    else match z with
      | some z =>
        let r := u.origin e z
        (rearmFirst ((s.clamped p r.2).modTurning p slice fun _ => r.1) p slice r.1, some (r.1.firstStep, r.1.first))
      | none =>
        if u.exists_ then (rearmFirst (s.modTurning p slice fun _ => u) p slice u, some (u.firstStep, u.first))
        else (s, none)
  else
    let lim := e + tu 16384
    let there := named.bind fun n => ((u.stepStart n).filter fun b => stGe b lim).map fun b => (n, b)
    match there.or (u.boundaryAfter lim) with
    | none => (s, none)
    | some (n, b) =>
      let s := s.clamped p (named.isSome && there.isNone)
      let s := s.clamped p (z.any fun z => stLater z b && decide ((2 : Int) ^ 40 < stDiff z b))
      let s := s.modTurning p slice fun u => { u with changes := insertChange (n, z, l) u.changes }
      (match p with
        | .tsu => if s.tsu.die.sliceId = slice then rearmFrom s n b else s
        | .dist => s, some (n, b))

/-! ### The decision at a participant (R399, R401, R402) -/

/-- A committed plate, its region groups and descriptors wait for boundary `b` (R191, R202, R253). One that waits already
takes them along at the earlier of the two boundaries. -/
def planSwitch (s : State) (t : Txn) (n : Option Step) (b : St) : State :=
  if !t.staged.any fun x => decide (x.slot.1 ≤ 2) then s
  else
    let groups := t.staged.filterMap fun x => match x with | .rgroup g m => some (g, m) | _ => none
    let descs := t.staged.filterMap fun x => match x with | .desc d y => some (d, y) | _ => none
    let s := s.modPlate fun p => { p with
      switchAt := some (match p.switchAt with | some x => if stLater b x then x else b | none => b)
      switchGroups := p.switchGroups ++ groups }
    let s := s.modFab fun f => { f with descDue := f.descDue ++ descs }
    match n with
    | some n => rearmFrom s n b
    | none => s

/-- The part has missed a boundary: a suspect event against itself; it leaves the membership and rejoins (R402). -/
def missedBoundary (s : State) (p : Part) (id : W32) : State :=
  let s := s.modBase p fun b => { b with txns := b.txns.filter fun t => !(t.id == id && t.live) }
  let s := suspect s p (s.node p) 0 {}
  match p with
  | .tsu => enterTruing s
  | .dist => copyAsk (s.modSv fun v => { v with state := .joining, joinAt := none, copyDone := false })

/-- DECIDE at a participant. A step commit's plate is planned at once, so that the sequencer arms its entries ahead of the
boundary (R191). -/
def partDecide (s : State) (p : Part) (id : W32) (d : Decision) : State :=
  match s.txn p id with
  | none => s
  | some t =>
    if t.phase == .decided then
      if d.commit && t.effect == d.effect then s.modTxn p id fun t => { t with newCe := d.ce } else s
    else if !d.commit then txnRollback s p t d.reason d.node d.detail d.effect
    else if stLater (s.now p) d.effect then missedBoundary s p id
    else
      let s := match t.rollCmd with
        | some c => done s (ofPart p c) 0x0003 .badCommand
        | none => s
      let s := s.modTxn p id fun t => { t with
        phase := .decided, effect := d.effect, newCe := d.ce, step := d.step, rollCmd := none }
      match p with
      | .dist => s
      | .tsu => if t.boundary = 0 || isMove s t then s else planSwitch s t (some d.step) t.boundary

/-! ### The effect (R399) -/

/-- Puts a CONFIG_WRITE in force (R489, R504, R510, R514). -/
def configApply (s : State) (p : Part) (off : Nat) (v : W64) : State :=
  match p with
  | .tsu =>
    if 0x6200 ≤ off ∧ off < 0x6300 then
      s.modFab fun f => { f with dies := tmod {} f.dies ((off - 0x6200) / 0x20) fun r =>
        if off % 0x20 = 0 then { r with config := v } else if r.ring = v then r else { r with ring := v, wp := 0, rp := 0 } }
    else cfgPut s .tsu off v.toNat
  | .dist =>
    if 0x1080 ≤ off ∧ off < 0x1180 ∧ s.role ≠ .root then s
    else
      let was := tbit (s.cfg .dist off 0) 12
      let s := cfgPut s .dist off v.toNat
      let on := tbit v.toNat 12
      if (off = 0x10A8 ∨ off = 0x10B0) ∧ was ≠ on then
        s.modRefs fun r => { r with ptp := tset {} r.ptp ((off - 0x10A8) / 8) { state := if on then 1 else 5 } }
      else s

/-- Each die's piece of a hall group: a die of another slice is no member (R240, R309). -/
def hgroupDie (s : State) (g : Nat) (q : HPiece) : State :=
  let mine := s.tsu.die.sliceValid && s.tsu.die.sliceId == q.slice
  let s := s.clamped .tsu (q.member && !mine)
  let h := hallOf s g
  let h := if h.valid then h else {}
  setHall s g { h with
    valid := true, slice := q.slice, member := q.member && mine, arrivals := q.arrivals, doneCtr := q.doneCtr }

/-- A distributor's piece: its mask is cut to the slice's map (R307, R309). -/
def hgroupDist (s : State) (g : Nat) (q : HPiece) : State :=
  let m := q.mask &&& tget 0 s.dist.fab.maps q.slice
  let lost := if s.role == .rack then popcount 96 (q.mask &&& ~~~m).toNat else 0
  let s := if lost = 0 then s else s.count .dist .clamp 0 {} lost
  s.modFabric fun f => { f with hgroups := tset none f.hgroups g (some { q with mask := m }) }

/-- The quotas held to 65,536 in all, from the highest slice down (R287). -/
def quotasFit : Nat → List Nat → List Nat
  | _, [] => []
  | left, q :: t => min q left :: quotasFit (left - min q left) t

def ledgerPartCommit (s : State) (qs : List Nat) : State :=
  let fit := quotasFit 65536 qs
  let k := ((qs.zip fit).filter fun x => x.1 != x.2).length
  let s := if k = 0 then s else s.count .dist .clamp 0 {} k
  s.modLed fun l => { l with
    parted := true, quotas := (fit.zip (List.range 64)).foldl (fun t x => tset 0 t x.2 x.1) [] }

/-- One staged write of a distributor at the effect tick `e`. -/
def distApply (e : St) (s : State) (x : Staged) : State :=
  match x with
  | .sliceMap sl m => s.modFabric fun f => { f with maps := tset 0 f.maps sl m }
  | .weight i sl w => s.modFabric fun f => { f with weights := tset 8 f.weights (i * 64 + sl) w }
  | .turning sl z l n => (turnCommit s .dist sl z l n e).1
  | .hgroup g q => hgroupDist s g q
  | .hfree g => s.modFabric fun f => { f with hgroups := tset none f.hgroups g none }
  | .sg g f => sgCommit s g f
  | .ledgerPart qs => ledgerPartCommit s qs
  | .config i v => configApply s .dist (8 * i) v
  | _ => s

/-- Maps come before the groups that are cut to them. -/
def distEffect (s : State) (t : Txn) : State :=
  let maps := t.staged.filter fun x => x.slot.1 == 5
  (maps ++ t.staged.filter fun x => x.slot.1 != 5).foldl (distApply t.effect) s

/-- A die without a slice joins one at the effect tick (R305). -/
def assignNow (s : State) (sl : Nat) (v : Bool) (ce : Epoch) : State :=
  { s.modDie fun d => { d with sliceId := sl, sliceValid := v, memberCe := ce, departed := [] } with tsu.turn := {} }

/-- One staged write of a die that acts at the effect tick. -/
def dieApply (s : State) (x : Staged) : State :=
  match x with
  | .config i v => configApply s .tsu (8 * i) v
  | .hgroup g q => hgroupDie s g q
  | .hfree g => setHall s g {}
  | .part n => s.modDie fun d => { d with partDue := some n }
  | .ctxSave a n => s.modDie fun d => { d with
      ctx := some { boundary := n, save := some a, restore := d.ctx.bind (·.restore) } }
  | .ctxRestore img n => s.modDie fun d => { d with
      ctx := some { boundary := n, save := d.ctx.bind (·.save), restore := some img } }
  | _ => s

/-- The first boundary of the die's turning at least ARM_AHEAD plus 256 ns after the commit; the effect tick itself where
there is no turning (R191). -/
def nextSwitch (s : State) (e : St) : Option Step × St :=
  match s.tsu.turn.boundaryAfter (e + tu (armAhead s + 16384)) with
  | some x => (some x.1, x.2)
  | none => (none, e)

/-- The effect at a die; the result is the step used, where a turning change names it. -/
def dieEffect (s : State) (t : Txn) : State × Option Step :=
  let e := t.effect
  let dest := stagedSlice s t
  if isMove s t then
    let later := t.staged.filter fun x => x.slot.1 ≤ 3 || x.slot.1 == 7
    let s := (t.staged.filter fun x => x.slot.1 == 10 || 11 ≤ x.slot.1).foldl dieApply s
    (s.modDie fun d => { d with moveDue := some (dest.1, dest.2, t.step), moveStaged := later }, none)
  else
    let s := if dest != (s.tsu.die.sliceId, s.tsu.die.sliceValid) then assignNow s dest.1 dest.2 t.newCe else s
    let s := s.modDie fun d => { d with memberCe := if d.sliceValid then t.newCe else d.memberCe }
    let turned := match stagedTurning t dest.1 with
      | some (z, l, n) => turnCommit s .tsu dest.1 z l n e
      | none => (s, none)
    let s := t.staged.foldl dieApply turned.1
    let s :=
      if t.boundary ≠ 0 then s
      else match turned.2 with
        | some (n, b) => planSwitch s t (some n) b
        | none => planSwitch s t (nextSwitch s e).1 (nextSwitch s e).2
    (s, turned.2.map Prod.fst)

/-- TXN_EFFECT at a participant: the new CE, the staged contents, and the COMMIT's completion (R39, R41, R399). -/
def txnEffect (s : State) (p : Part) (t : Txn) : State :=
  let s := (adoptEpochs s p).modEp p fun e => { e with ce := t.newCe }
  let r := match p with
    | .tsu => dieEffect s t
    | .dist => (distEffect s t, none)
  let end_ := { t with phase := .done, staged := [], step := (r.2).getD t.step, cmd := none }
  let s := closeTxn r.1 p t.id fun _ => end_
  match t.cmd with
  | some c => doneR s (ofPart p c) 0x0002 .ok end_.result.1 end_.result.2 0
  | none => s

/-- TXN_EFFECT (R39, R41, R399). -/
def execTxnEffect (p : Part) (txn : W32) (s : State) : Host.Outcome State Fault Refusal :=
  .next <| match s.txn p txn with
    | some t => if t.phase == .decided && stGe (s.now p) t.effect then txnEffect s p t else s
    | none => s

/-- SLICE_MOVE: at the boundary named by the transaction the die gives up its old slice and takes up the new one
(R306). -/
def execSliceMove (s : State) : Host.Outcome State Fault Refusal :=
  .next <| match s.tsu.die.moveDue with
    | none => s
    | some (sl, v, n) =>
      if !stepReached s.tsu.turn (s.now .tsu) n then s
      else
        let b := (s.tsu.turn.stepStart n).getD (s.now .tsu)
        let todo := s.tsu.die.moveStaged
        let s := assignNow (moveClears s) sl v s.tsu.b.ep.ce
        let s := s.modDie fun d => { d with moveDue := none, moveStaged := [] }
        let bank := todo.foldl (fun e x => match x with
          | .plate k y => tset zeroPlateEntry e k y
          | .plateClear => []
          | _ => e) ([] : Tab Entry)
        let s := s.modPlate fun p =>
          let p := if p.activeB then { p with bankB := bank } else { p with bankA := bank }
          { p.setOther bank with groups := todo.foldl (fun g x => match x with | .rgroup i m => tset 0 g i m | _ => g) [] }
        let s := s.modFab fun f => { f with
          descs := todo.foldl (fun d x => match x with | .desc i y => tset none d i (some y) | _ => d) [] }
        let s := (todo.filter fun x => x.slot.1 == 7).foldl dieApply s
        let turned := todo.foldl (fun s x => match x with
          | .turning i z l m => if i = sl then (turnCommit s .tsu sl z l m b).1 else s
          | _ => s) s
        match turned.tsu.turn.base with
        | some g => turned.modPlate (·.seek g.first g.start)
        | none => turned.modPlate (·.seek 0 b)

end Sys2Proof.Machine
end

