-- ==== Sys2Proof/Machine/TxnRoots.lean ====
section
/-! DEFINITION. Transactions at the roots: joins, commit requests, PREPARE, answers and the decision (R393, R395 to R402).
A root that is itself a participant answers and decides at once. -/

namespace Sys2Proof.Machine

open Sys2Proof

/-! ### Records (R393, R398) -/

/-- The name of a transaction at the roots: hall-wide, or by its die (R393). -/
def txnSrc (id : W32) (src : Node) : Node := if isHallTxn id then allRoots else src

def RootTxn.named (id : W32) (src : Node) (r : RootTxn) : Bool := r.id == id && r.src == txnSrc id src

def State.rtxn (s : State) (id : W32) (src : Node) : Option RootTxn := s.dist.sv.rtxns.find? (·.named id src)

def State.modRtxn (s : State) (id : W32) (src : Node) (f : RootTxn → RootTxn) : State :=
  s.modSv fun v => { v with rtxns := v.rtxns.map fun r => if r.named id src then f r else r }

/-- Puts a new record in place of an older one of the same name; of those decided the last 64 stay for TXN_QUERY. -/
def rtxnPut (s : State) (r : RootTxn) : State :=
  s.modSv fun v =>
    let rest := v.rtxns.filter fun x => !(x.id == r.id && x.src == r.src)
    let gone := rest.filter fun x => x.decision.isSome
    { v with rtxns := rest.filter (fun x => x.decision.isNone) ++ gone.drop (gone.length - 64) ++ [r] }

/-- Commits in progress (R395, R516). -/
def commitsOpen (s : State) : Nat := (s.dist.sv.rtxns.filter fun r => r.requested && r.decision.isNone).length

/-- Whether this root decides: it leads (R398). -/
def decides (s : State) : Bool := servesRoot s && (leaderOf s .dist == ownRootIx s || s.dist.mem.soleRoot)

/-! ### Decisions (R398 to R401) -/

/-- Sends DECIDE to every participant but this part. -/
def sendDecide (s : State) (r : RootTxn) (d : Decision) : State :=
  (r.joined.filter fun n => n != s.node .dist).foldl (fun s n => mgmt s .dist n (.decide r.id d)) s

/-- A decision: noted, sent, and taken by this part where it participates. -/
def decideTxn (s : State) (r : RootTxn) (d : Decision) : State :=
  let s := s.modRtxn r.id r.src fun x => { x with decision := some d }
  let s := if decides s then sendDecide s r d else s
  if r.joined.contains (s.node .dist) then partDecide s .dist r.id d else s

/-- A rollback (R400). -/
def rootRollback (s : State) (r : RootTxn) (reason : Status) (node : Node) (detail : Nat) : State :=
  decideTxn s r { commit := false, effect := s.now .dist, ce := s.dist.b.ep.ce, step := r.step, reason, node, detail }

/-- The effect tick of a commit decided now (R399): the latest tick edge at or before B, or the first at least 8 + DEPTH
ticks ahead, that carries no other CE change; none where it lies too near. -/
def commitTick (s : State) (r : RootTxn) : Option Tick :=
  let e := s.dist.b.ep
  let t :=
    if r.boundary = 0 then freeTick e.pend 1 (e.pend.length + 1) (leadTick s)
    else freeTick e.pend (-1) (e.pend.length + 1) (tickOf r.boundary)
  if tickDiff t (leadTick s) < 0 then none else some t

/-- Every participant is PREPARED: the leader commits and announces the new CE, unless an election holds decisions (R398,
R399). The other roots leave the decision to it. -/
def rootCommit (s : State) (r : RootTxn) : State :=
  if s.dist.mem.electing then s
  else if !decides s then s.modSv fun v => { v with rtxns := v.rtxns.filter fun x => !x.named r.id r.src }
  else match commitTick s r with
    | none => s
    | some t =>
      let s := announceCe s t
      let ce := ((pendAt s.dist.b.ep.pend t).ce).getD 0
      decideTxn s r { commit := true, effect := tickSt t, ce, step := r.step, reason := .ok, node := allRoots, detail := 0 }

/-- Whether a transaction's participants have all joined. -/
def RootTxn.whole (r : RootTxn) : Bool := decide (r.n ≤ r.joined.length)

/-- A participant's answer (R398). -/
def rootAnswer (s : State) (id : W32) (src node : Node) (a : Answer) : State :=
  match s.rtxn id src with
  | none => s
  | some r =>
    if r.decision.isSome || !r.joined.contains node then s
    else match a with
      | some (reason, detail) => rootRollback s r reason node detail
      | none =>
        let r := if r.prepared.contains node then r else { r with prepared := r.prepared ++ [node] }
        let s := s.modRtxn id src fun _ => r
        if r.whole && r.joined.all (r.prepared.contains ·) then rootCommit s r else s

/-- The leader sends PREPARE to each participant once all have joined and the commit is requested (R396); a root that
participates answers for itself. -/
def rootPrepare (s : State) (r : RootTxn) : State :=
  if !r.requested || r.prepareSent || !r.whole || r.decision.isSome then s
  else
    let s := s.modRtxn r.id r.src fun x => { x with prepareSent := true }
    let own := s.node .dist
    let s :=
      if decides s then
        (r.joined.filter (· != own)).foldl (fun s n => mgmt s .dist n (.prepare r.id r.deadline r.boundary)) s
      else s
    if !r.joined.contains own then s
    else match partPrepare s .dist r.id r.deadline r.boundary with
      | (s, some a) =>
        let s := mgmt s .dist allRoots (.prepared r.id a.isNone ((a.map Prod.fst).getD .ok) ((a.map Prod.snd).getD 0))
        rootAnswer s r.id r.src own a
      | (s, none) => s

/-- TXN_JOIN at a root (R393, R396). -/
def rootJoin (s : State) (id : W32) (src : Node) (n : Nat) : State :=
  match (s.rtxn id src).filter fun r => r.decision.isNone with
  | none => rtxnPut s { id, src := txnSrc id src, n := max 1 n, joined := [src] }
  | some r =>
    let r := if r.joined.contains src then r else { r with joined := r.joined ++ [src] }
    rootPrepare (s.modRtxn id src fun _ => r) r

/-- The margin M of R397 in tu, for a turning of length `len`. -/
def prepareMargin (s : State) (len : Nat) : Nat :=
  max (clampN 1 1024 (s.cfg .dist 0x1A8 4) * len) ((16 + depthOf s) * tickTu)

/-- TXN_PREPARE_LIMIT in tu. -/
def prepareLimit (s : State) : Nat := clampN 1 1000 (s.cfg .dist 0x1B0 10) * 64000000

/-- Step, boundary and deadline of a commit, and whether the step was moved (R397); none for a slice without turning. -/
def commitTimes (s : State) (whenStep : Bool) (slice : Nat) (step : Step) : Option (Step × St × St × Bool) :=
  let now := s.now .dist
  if !whenStep then some (step, 0, now + tu (prepareLimit s), false)
  else
    let u := s.turning .dist slice
    let m := prepareMargin s u.len
    match (u.stepStart step).filter fun b => stLater (b - tu m) now with
    | some b => some (step, b, b - tu m, false)
    | none => (u.boundaryAfter (now + tu ((16 + depthOf s) * tickTu + m))).map fun x => (x.1, x.2, x.2 - tu m, true)

/-- A commit request at a root (R395 to R397). -/
def rootRequest (s : State) (id : W32) (src : Node) (whenStep : Bool) (slice : Nat) (step : Step) : State :=
  match (s.rtxn id src).filter fun r => r.decision.isNone with
  | none => s
  | some r =>
    if r.requested then s
    else if 64 ≤ commitsOpen s then rootRollback s r .busy allRoots 0x10
    else match commitTimes s whenStep slice step with
      | none => rootRollback s r .badCommand src 0
      | some (n, b, dl, moved) =>
        let s := s.clamped .dist moved
        let r := { r with requested := true, slice, step := n, boundary := b, deadline := dl }
        rootPrepare (s.modRtxn id src fun _ => r) r

/-- A ROLLBACK at a root (R401). -/
def rootCancel (s : State) (id : W32) (src : Node) : State :=
  match (s.rtxn id src).filter fun r => r.decision.isNone with
  | none => s
  | some r => rootRollback s r .cancelled allRoots 0x10

/-- A participant removed from the membership before the decision (R401). -/
def rootsRemoved (s : State) (n : Node) : State :=
  (s.dist.sv.rtxns.filter fun r => r.decision.isNone && r.joined.contains n).foldl (fun s r =>
    rootRollback s r .notMember n 0) s

/-- DECIDE again for a committed transaction whose effect tick is still to come (R399). -/
def rootRepeat (s : State) (r : RootTxn) : State :=
  match r.decision with
  | some d => if d.commit && stLater d.effect (s.now .dist) then sendDecide s r d else s
  | none => s

/-- At every tick edge the leader takes the decisions that waited, and repeats DECIDE until each effect tick (R399). -/
def rootTick (s : State) : State :=
  if !decides s then s
  else
    let waiting := s.dist.sv.rtxns.filter fun r =>
      r.decision.isNone && r.requested && r.whole && r.joined.all (r.prepared.contains ·)
    waiting.foldl rootCommit (s.dist.sv.rtxns.foldl rootRepeat s)

/-! ### Messages to the roots (R393, R395, R401) -/

/-- A message to every root, which a part that serves as one takes itself too. -/
def toRoots (s : State) (p : Part) (b : MgmtBody) (own : State → State) : State :=
  let s := mgmt s p allRoots b
  if p == .dist && servesRoot s then own s else s

end Sys2Proof.Machine
end

