-- ==== Sys2Proof/Machine/Txns.lean ====
section
/-! DEFINITION. Transactions as commands: BEGIN to TXN_STATUS on the mailboxes, and the messages that carry a commit
through its two phases (R393 to R402). -/

namespace Sys2Proof.Machine

open Sys2Proof

/-- BEGIN (R393). -/
def cmdBegin (c : Cmd) (n : Nat) (s : State) : State :=
  let hall := isHallTxn c.txn
  let op := 0x0001
  if c.txn = 0 || (c.part == .dist && !hall) then done s c op .badCommand
  else if hall && !isM0 c then done s c op .denied
  else if (s.txn c.part c.txn).isSome || decide (4 ≤ ((s.base c.part).txns.filter (·.live)).length) then done s c op .busy
  else
    let k := if hall then max 1 n else 1
    let s := s.clamped c.part (hall && decide (n = 0))
    let s := s.modBase c.part fun b => { b with
      txns := b.txns.filter (fun t => t.id != c.txn) ++ [{ id := c.txn, n := k, mbx := c.mbx }] }
    done (toRoots s c.part (.txnJoin c.txn k) fun s => rootJoin s c.txn (s.node .dist) k) c op .ok

def execTxnBegin (c : Cmd) (n : Nat) (s : State) : Host.Outcome State Fault Refusal := onCmd c 0x0001 true s (cmdBegin c n)

/-- COMMIT (R395). -/
def cmdCommit (c : Cmd) (whenStep : Bool) (slice : Nat) (step : Step) (s : State) : State :=
  let op := 0x0002
  match s.txn c.part c.txn with
  | none => done s c op .badCommand
  | some t =>
    if t.mbx ≠ c.mbx || (whenStep && decide (slice < 64) && !sliceOk s c slice) then done s c op .denied
    else if whenStep && decide (64 ≤ slice) then done s c op .badCommand
    else if t.phase != .open_ then done s c op .busy
    else
      let s := pend s c op
      let s := s.modTxn c.part c.txn fun t => { t with
        phase := .committing, cmd := some c, slice, step }
      toRoots s c.part (.commitRequest c.txn whenStep slice step) fun s =>
        rootRequest s c.txn (s.node .dist) whenStep slice step

def execCommit (c : Cmd) (whenStep : Bool) (slice : Nat) (step : Step) (s : State) : Host.Outcome State Fault Refusal :=
  onCmd c 0x0002 true s (cmdCommit c whenStep slice step)

/-- ROLLBACK (R401): a COMMAND message carries it to every root (R407), and it completes with the decision. -/
def cmdRollback (c : Cmd) (s : State) : State :=
  let op := 0x0003
  match s.txn c.part c.txn with
  | none => done s c op .badCommand
  | some t =>
    if t.mbx ≠ c.mbx then done s c op .denied
    else if t.phase == .decided then done s c op .badCommand
    else if t.rollCmd.isSome then done s c op .busy
    else
      let s := pend s c op
      let s := s.modTxn c.part c.txn fun t => { t with rollCmd := some c }
      toRoots s c.part (.command c.tag c.txn .rollback) fun s => rootCancel s c.txn (s.node .dist)

def execRollback (c : Cmd) (s : State) : Host.Outcome State Fault Refusal := onCmd c 0x0003 true s (cmdRollback c)

/-- TXN_STATUS (R400). -/
def cmdTxnStatus (c : Cmd) (txn : W32) (s : State) : State :=
  match (s.base c.part).txns.find? fun t => t.id == txn with
  | none => done s c 0x0004 .badCommand
  | some t =>
    if t.phase == .rolledBack then doneR s c 0x0004 .rolledBack t.result.1 t.result.2 0
    else if t.phase == .done || t.phase == .decided then doneR s c 0x0004 .ok t.result.1 t.result.2 0
    else done s c 0x0004 .ok

def execTxnStatus (c : Cmd) (txn : W32) (s : State) : Host.Outcome State Fault Refusal :=
  onCmd c 0x0004 true s (cmdTxnStatus c txn)

/-! ### Messages -/

/-- TXN_JOIN_RECEIVE (R396). -/
def execTxnJoinReceive (env : MgmtEnv) (txn : W32) (n : Nat) (s : State) : Host.Outcome State Fault Refusal :=
  onMgmt .dist env s fun s => if servesRoot s then rootJoin s txn env.src n else s

/-- COMMIT_REQUEST_RECEIVE (R395 to R397). -/
def execCommitRequestReceive (env : MgmtEnv) (txn : W32) (whenStep : Bool) (slice : Nat) (step : Step) (s : State) :
    Host.Outcome State Fault Refusal :=
  onMgmt .dist env s fun s => if servesRoot s then rootRequest s txn env.src whenStep slice step else s

/-- PREPARE_RECEIVE (R396). -/
def execPrepareReceive (p : Part) (env : MgmtEnv) (txn : W32) (deadline boundary : St) (s : State) :
    Host.Outcome State Fault Refusal :=
  onMgmt p env s fun s => match partPrepare s p txn deadline boundary with
    | (s, some a) =>
      toRoots s p (.prepared txn a.isNone ((a.map Prod.fst).getD .ok) ((a.map Prod.snd).getD 0)) fun s =>
        rootAnswer s txn (s.node .dist) (s.node .dist) a
    | (s, none) => s

/-- PREPARED_RECEIVE (R398). -/
def execPreparedReceive (env : MgmtEnv) (txn : W32) (s : State) : Host.Outcome State Fault Refusal :=
  onMgmt .dist env s fun s => if servesRoot s then rootAnswer s txn env.src env.src none else s

/-- PREP_FAIL_RECEIVE (R398). -/
def execPrepFailReceive (env : MgmtEnv) (txn : W32) (reason : Status) (detail : Nat) (s : State) :
    Host.Outcome State Fault Refusal :=
  onMgmt .dist env s fun s => if servesRoot s then rootAnswer s txn env.src env.src (some (reason, detail)) else s

/-- PREPARE_DEADLINE_EXPIRE: LATE, naming the first participant that is not PREPARED (R398, R400). -/
def execPrepareDeadlineExpire (txn : W32) (s : State) : Host.Outcome State Fault Refusal :=
  .next <|
    let due := s.dist.sv.rtxns.find? fun r =>
      r.id == txn && r.requested && r.decision.isNone && stGe (s.now .dist) r.deadline
    match due with
    | none => s
    | some r =>
      if !servesRoot s then s
      else if !r.whole then rootRollback s r .late allRoots 2
      else rootRollback s r .late ((r.joined.find? fun n => !r.prepared.contains n).getD allRoots) 1

/-- DECIDE_RECEIVE (R399 to R402). -/
def execDecideReceive (p : Part) (env : MgmtEnv) (txn : W32) (d : Decision) (s : State) : Host.Outcome State Fault Refusal :=
  onMgmt p env s fun s => partDecide s p txn d

/-- When a PREPARED participant asks for the decision: at B, or TXN_PREPARE_LIMIT after its PREPARED (R402). A die has no
register for that figure and takes its default. -/
def queryAt (s : State) (p : Part) (t : Txn) : St :=
  if t.boundary ≠ 0 then t.boundary
  else t.prepAt + tu (match p with | .tsu => 640000000 | .dist => prepareLimit s)

/-- DECIDE_WAIT_EXPIRE (R402). -/
def execDecideWaitExpire (p : Part) (txn : W32) (s : State) : Host.Outcome State Fault Refusal :=
  .next <| match s.txn p txn with
    | none => s
    | some t =>
      if t.phase != .prepared || !stGe (s.now p) (queryAt s p t) then s
      else toRoots s p (.txnQuery txn) fun s => match (s.rtxn txn (s.node .dist)).bind (·.decision) with
        | some d => partDecide s .dist txn d
        | none => s

/-- TXN_QUERY_RECEIVE (R402). -/
def execTxnQueryReceive (env : MgmtEnv) (txn : W32) (s : State) : Host.Outcome State Fault Refusal :=
  onMgmt .dist env s fun s => match (s.rtxn txn env.src).bind (·.decision) with
    | some d => if servesRoot s then mgmt s .dist env.src (.decide txn d) else s
    | none => s

end Sys2Proof.Machine
end

