-- ==== Sys2Proof/Machine/StagedCmds.lean ====
section
/-! DEFINITION. The staged commands (R189, R202, R253 to R255, R281, R282, R307, R314, R364, R391, R392, R489). -/

namespace Sys2Proof.Machine

open Sys2Proof

/-- A command for an object that only a die has. -/
def dieOnly (c : Cmd) (op : Nat) (s : State) (f : State → State) : State :=
  if c.part == .tsu then f s else done s c op .badCommand

/-- A command for an object that only a distributor has. -/
def distOnly (c : Cmd) (op : Nat) (s : State) (f : State → State) : State :=
  if c.part == .dist then f s else done s c op .badCommand

/-- Mailboxes 1 to 3 stage objects of the die's own slice only, so the die must have one (R312, R392). -/
def sliceCmd (c : Cmd) (op : Nat) (s : State) (f : State → State) : State :=
  if isM0 c || s.tsu.die.sliceValid then f s else done s c op .denied

/-! ### The index plate (R189, R193) -/

/-- Writes an entry of the staged bank. -/
def stagedWrite (k : Nat) (e : Entry) (s : State) : State :=
  s.modPlate fun p => p.setOther (tset zeroPlateEntry p.other k e)

def cmdPlateWrite (c : Cmd) (entry : Nat) (e : Entry) (s : State) : State :=
  dieOnly c 0x0010 s fun s => sliceCmd c 0x0010 s fun s =>
    match entryTake e with
    | none => done s c 0x0010 .badCommand
    | some (e, k) =>
      if 8192 ≤ entry then done s c 0x0010 .badCommand
      else stage s c 0x0010 (.plate entry e) k (stagedWrite entry e)

/-- PLATE_WRITE (R189, R392). -/
def execPlateWrite (c : Cmd) (entry : Nat) (e : Entry) (s : State) : Host.Outcome State Fault Refusal :=
  onCmd c 0x0010 true s (cmdPlateWrite c entry e)

/-- The lowest free number of the staged bank. -/
def freeEntry (s : State) : Option Nat := lowestFree 8192 fun k => !entValid (tget zeroPlateEntry s.tsu.plate.other k)

def cmdPlateAppend (c : Cmd) (e : Entry) (s : State) : State :=
  dieOnly c 0x0011 s fun s => sliceCmd c 0x0011 s fun s =>
    match entryTake e, freeEntry s with
    | none, _ => done s c 0x0011 .badCommand
    | some (e, k), some i => stage s c 0x0011 (.plate i e) k (stagedWrite i e)
    | some (e, _), none =>
      match stageBar s c (.plateAppend e) with
      | some st => done s c 0x0011 st
      | none =>
        done (s.modTxn c.part c.txn fun t => { t with staged := stagePut (.plateAppend e) t.staged }) c 0x0011 .full

/-- PLATE_APPEND: at the lowest free number; beyond a full bank it returns FULL and the prepare fails with it (R189). -/
def execPlateAppend (c : Cmd) (e : Entry) (s : State) : Host.Outcome State Fault Refusal :=
  onCmd c 0x0011 true s (cmdPlateAppend c e)

def cmdPlateLoad (c : Cmd) (first : Nat) (es : List Entry) (dmaOk : Bool) (s : State) : State :=
  dieOnly c 0x0012 s fun s => sliceCmd c 0x0012 s fun s =>
    let taken := es.filterMap entryTake
    if !dmaOk || decide (8192 < first + es.length) || decide (taken.length < es.length) then done s c 0x0012 .badCommand
    else match stageBar s c (.plateAppend zeroPlateEntry) with
      | some st => done s c 0x0012 st
      | none =>
        let k := (taken.map Prod.snd).foldl (· + ·) 0
        let s := if k = 0 then s else s.count c.part .clamp 0 {} k
        let put := fun (s : State) (x : (Entry × Nat) × Nat) => stagedWrite (first + x.2) x.1.1
          (s.modTxn c.part c.txn fun t => { t with staged := stagePut (.plate (first + x.2) x.1.1) t.staged })
        done ((taken.zip (List.range taken.length)).foldl put s) c 0x0012 .ok

/-- PLATE_LOAD: all entries from host memory, or none (R392). -/
def execPlateLoad (c : Cmd) (first : Nat) (es : List Entry) (dmaOk : Bool) (s : State) : Host.Outcome State Fault Refusal :=
  onCmd c 0x0012 true s (cmdPlateLoad c first es dmaOk)

def cmdPlateClear (c : Cmd) (s : State) : State :=
  dieOnly c 0x0013 s fun s => sliceCmd c 0x0013 s fun s =>
    stage s c 0x0013 .plateClear 0 fun s => s.modPlate fun p => p.setOther []

/-- PLATE_CLEAR (R392). -/
def execPlateClear (c : Cmd) (s : State) : Host.Outcome State Fault Refusal := onCmd c 0x0013 true s (cmdPlateClear c)

/-! ### Region groups and descriptors -/

def cmdRgroupWrite (c : Cmd) (group : Nat) (mask : BitVec 144) (s : State) : State :=
  dieOnly c 0x0014 s fun s => sliceCmd c 0x0014 s fun s =>
    if group = 0 ∨ 256 ≤ group then done s c 0x0014 .badCommand else stage s c 0x0014 (.rgroup group mask) 0 id

/-- RGROUP_WRITE: groups 1 to 255 (R202). -/
def execRgroupWrite (c : Cmd) (group : Nat) (mask : BitVec 144) (s : State) : Host.Outcome State Fault Refusal :=
  onCmd c 0x0014 true s (cmdRgroupWrite c group mask)

/-- Whether a descriptor's buffers fit collect memory and stand clear of the other descriptors' (R253). -/
def descBufsOk (s : State) (c : Cmd) (desc : Nat) (d : Desc) : Bool :=
  let others : List (Nat × Desc) := match s.txn c.part c.txn with
    | some t => (validDescs (descsAfter s t (isMove s t))).filter fun e => e.1 != desc
    | none => []
  !d.valid || (descBufs d).all fun b => bufFits b && others.all fun e => (descBufs e.2).all fun x => !bufMeets b x

def cmdDescWrite (c : Cmd) (desc : Nat) (d : Desc) (s : State) : State :=
  dieOnly c 0x0015 s fun s => sliceCmd c 0x0015 s fun s =>
    let (x, k) := descClamp d
    if 1024 ≤ desc || opReserved d.op || !descNames d || !descBufsOk s c desc x then done s c 0x0015 .badCommand
    else stage s c 0x0015 (.desc desc x) k id

/-- DESC_WRITE (R253 to R255). -/
def execDescWrite (c : Cmd) (desc : Nat) (d : Desc) (s : State) : Host.Outcome State Fault Refusal :=
  onCmd c 0x0015 true s (cmdDescWrite c desc d)

/-! ### Turnings, slices and weights -/

def cmdTurningSet (c : Cmd) (slice : Nat) (st0 : Option St) (len : Option Nat) (boundary : Option Step) (s : State) : State :=
  if 64 ≤ slice then done s c 0x0016 .badCommand
  else
    let z := st0.map (originClamp (s.now c.part))
    let l := len.map lenClamp
    stage s c 0x0016 (.turning slice (z.map Prod.fst) (l.map Prod.fst) boundary)
      (bit (z.any Prod.snd) + bit (l.any Prod.snd)) id

/-- TURNING_SET (R18, R33). -/
def execTurningSet (c : Cmd) (slice : Nat) (st0 : Option St) (len : Option Nat) (boundary : Option Step) (s : State) :
    Host.Outcome State Fault Refusal :=
  onCmd c 0x0016 (isM0 c) s (cmdTurningSet c slice st0 len boundary)

def cmdSliceAssign (c : Cmd) (slice : Nat) (valid : Bool) (s : State) : State :=
  dieOnly c 0x0017 s fun s =>
    if 64 ≤ slice then done s c 0x0017 .badCommand else stage s c 0x0017 (.assign slice valid) 0 id

/-- SLICE_ASSIGN (R305, R306). -/
def execSliceAssign (c : Cmd) (slice : Nat) (valid : Bool) (s : State) : Host.Outcome State Fault Refusal :=
  onCmd c 0x0017 (isM0 c) s (cmdSliceAssign c slice valid)

/-- The bits of a mask that a role's part has (R307, R519). -/
def roleMask (r : Role) : BitVec 96 :=
  match r with
  | .rack => BitVec.allOnes 96
  | .row => BitVec.ofNat 96 (2 ^ 32 - 1)
  | .root => BitVec.ofNat 96 (2 ^ 64 - 1)
  | .none_ => 0

def cmdSliceMapWrite (c : Cmd) (slice : Nat) (mask : BitVec 96) (s : State) : State :=
  distOnly c 0x0018 s fun s =>
    if 64 ≤ slice then done s c 0x0018 .badCommand
    else stage s c 0x0018 (.sliceMap slice (mask &&& roleMask s.role)) 0 id

/-- SLICE_MAP_WRITE (R307). -/
def execSliceMapWrite (c : Cmd) (slice : Nat) (mask : BitVec 96) (s : State) : Host.Outcome State Fault Refusal :=
  onCmd c 0x0018 (isM0 c) s (cmdSliceMapWrite c slice mask)

def cmdSliceWeight (c : Cmd) (port slice weight : Nat) (s : State) : State :=
  distOnly c 0x0019 s fun s =>
    let w := clampN 1 255 weight
    if 128 ≤ port ∨ 64 ≤ slice then done s c 0x0019 .badCommand
    else stage s c 0x0019 (.weight port slice w) (bit (w != weight)) id

/-- SLICE_WEIGHT: a weight of 0 becomes 1 (R314). -/
def execSliceWeight (c : Cmd) (port slice weight : Nat) (s : State) : Host.Outcome State Fault Refusal :=
  onCmd c 0x0019 (isM0 c) s (cmdSliceWeight c port slice weight)

/-! ### Groups and the ledger -/

/-- Groups defined at the part. -/
def groupsUsed (s : State) (p : Part) : Nat :=
  match p with
  | .tsu => (s.tsu.sync.hall.filter fun h => h.2.valid).length
  | .dist => s.dist.fab.hgroups.length

def cmdHgroupWrite (c : Cmd) (group : Nat) (piece : HPiece) (s : State) : State :=
  let n := clampN 1 576 piece.arrivals
  let bad := decide (4096 ≤ group) || decide (64 ≤ piece.slice)
    || (c.part == .tsu && decide (4096 ≤ piece.doneCtr) && piece.doneCtr != 0x1FFF)
  if bad then done s c 0x001A .badCommand
  else if 4096 ≤ groupsUsed s c.part then done s c 0x001A .full
  else match c.part with
    | .tsu => stage s c 0x001A (.hgroup group { piece with arrivals := n, top := false, mask := 0 }) (bit (n != piece.arrivals)) id
    | .dist => stage s c 0x001A (.hgroup group { piece with
        member := false, arrivals := 0, doneCtr := 0x1FFF, mask := piece.mask &&& roleMask s.role }) 0 id

/-- HGROUP_WRITE (R240). -/
def execHgroupWrite (c : Cmd) (group : Nat) (piece : HPiece) (s : State) : Host.Outcome State Fault Refusal :=
  onCmd c 0x001A (isM0 c) s (cmdHgroupWrite c group piece)

/-- Whether a group exists at the part, as the command's transaction leaves it. -/
def groupExists (s : State) (c : Cmd) (g : Nat) : Bool :=
  match s.txn c.part c.txn with
  | some t => (groupSlice s c.part t g).isSome
  | none => false

def cmdHgroupFree (c : Cmd) (group : Nat) (s : State) : State :=
  if 4096 ≤ group || !groupExists s c group then done s c 0x001B .badCommand else stage s c 0x001B (.hfree group) 0 id

/-- HGROUP_FREE (R392). -/
def execHgroupFree (c : Cmd) (group : Nat) (s : State) : Host.Outcome State Fault Refusal :=
  onCmd c 0x001B (isM0 c) s (cmdHgroupFree c group)

def cmdSgWrite (c : Cmd) (sg : Nat) (f : SgFields) (s : State) : State :=
  distOnly c 0x001C s fun s =>
    if !servesRoot s || decide (256 ≤ sg) || decide (64 ≤ f.slice) || decide (4096 ≤ f.group) then done s c 0x001C .badCommand
    else
      let len := match s.txn .dist c.txn with
        | some t => lenAfter s .dist t f.slice
        | none => 0
      let (x, k) := sgClamp (hopTu s) len f
      stage s c 0x001C (.sg sg x) k id

/-- SG_WRITE (R281, R282). -/
def execSgWrite (c : Cmd) (sg : Nat) (f : SgFields) (s : State) : Host.Outcome State Fault Refusal :=
  onCmd c 0x001C (isM0 c) s (cmdSgWrite c sg f)

def cmdLedgerPart (c : Cmd) (quotas : List Nat) (s : State) : State :=
  distOnly c 0x001D s fun s =>
    if servesRoot s then stage s c 0x001D (.ledgerPart ((List.range 64).map fun i => (quotas[i]?).getD 0)) 0 id
    else done s c 0x001D .badCommand

/-- LEDGER_PART (R287). -/
def execLedgerPart (c : Cmd) (quotas : List Nat) (s : State) : Host.Outcome State Fault Refusal :=
  onCmd c 0x001D (isM0 c) s (cmdLedgerPart c quotas)

/-! ### Context switch, parting, configuration -/

def cmdCtxSave (c : Cmd) (addr : W64) (step : Step) (s : State) : State :=
  dieOnly c 0x001E s fun s => stage s c 0x001E (.ctxSave addr step) 0 id

/-- CTX_SAVE (R252). -/
def execCtxSave (c : Cmd) (addr : W64) (step : Step) (s : State) : Host.Outcome State Fault Refusal :=
  onCmd c 0x001E (isM0 c) s (cmdCtxSave c addr step)

def cmdCtxRestore (c : Cmd) (img : CtxImage) (dmaOk : Bool) (step : Step) (s : State) : State :=
  dieOnly c 0x001F s fun s =>
    if dmaOk then stage s c 0x001F (.ctxRestore img step) 0 id else done s c 0x001F .badCommand

/-- CTX_RESTORE (R252). -/
def execCtxRestore (c : Cmd) (img : CtxImage) (dmaOk : Bool) (step : Step) (s : State) : Host.Outcome State Fault Refusal :=
  onCmd c 0x001F (isM0 c) s (cmdCtxRestore c img dmaOk step)

def cmdPart (c : Cmd) (step : Step) (s : State) : State :=
  dieOnly c 0x0020 s fun s => stage s c 0x0020 (.part step) 0 id

/-- PART (R364). -/
def execPart (c : Cmd) (step : Step) (s : State) : Host.Outcome State Fault Refusal :=
  onCmd c 0x0020 (isM0 c) s (cmdPart c step)

def cmdConfigWrite (c : Cmd) (index : Nat) (value : W64) (s : State) : State :=
  let off := 8 * index
  if !isM0 c && !(decide (0x6000 ≤ off ∧ off < 0x7000) && s.tsu.die.sliceValid) then done s c 0x0021 .denied
  else match cfgReg c.part off with
    | none => done s c 0x0021 .badCommand
    | some r =>
      let (v, k) := cfgClamp r value.toNat
      stage s c 0x0021 (.config index (BitVec.ofNat 64 v)) k id

/-- CONFIG_WRITE (R489). -/
def execConfigWrite (c : Cmd) (index : Nat) (value : W64) (s : State) : Host.Outcome State Fault Refusal :=
  onCmd c 0x0021 true s (cmdConfigWrite c index value)

end Sys2Proof.Machine
end

