-- ==== Sys2Proof/Machine/Context.lean ====
section
/-! DEFINITION. The context switch: clears, the save image, the restore image, and the counter port (R211, R251, R252). -/

namespace Sys2Proof.Machine

open Sys2Proof

/-- The image that the Headstock writes (R252). -/
def contextImage (s : State) : CtxImage :=
  let u := s.tsu.turn
  { slice := s.tsu.die.sliceId, st0 := u.st0, len := u.len, step := u.step
    counters := s.tsu.sync.ctrs.map fun e => (e.1, e.2.value, e.2.limit)
    groups := s.tsu.plate.groups
    plate := s.tsu.plate.active
    hgroups := (s.tsu.sync.hall.filter fun e => e.2.valid).map fun e =>
      (e.1, { slice := e.2.slice, member := e.2.member, arrivals := e.2.arrivals, doneCtr := e.2.doneCtr, top := false, mask := 0 },
        e.2.gen) }

/-- The state as an image holds it. -/
def contextLoad (s : State) (i : CtxImage) : State :=
  let s := s.modSync fun y => { y with
    ctrs := i.counters.foldl (fun t e => tset {} t e.1 { alloc := true, value := e.2.1, limit := e.2.2 }) []
    hall := i.hgroups.foldl (fun t e => tset {} t e.1 {
      valid := true, slice := e.2.1.slice, member := e.2.1.member, arrivals := e.2.1.arrivals, doneCtr := e.2.1.doneCtr
      gen := e.2.2 }) [] }
  let bank := i.plate.foldl (fun t e => tset zeroPlateEntry t e.1 e.2) ([] : Tab Entry)
  let staged := s.tsu.b.txns.any fun t => t.live && t.staged.any fun x => x.slot.1 == 0
  s.modPlate fun p =>
    let p := if p.activeB then { p with bankB := bank } else { p with bankA := bank }
    { p with groups := i.groups.foldl (fun t e => tset 0 t e.1 e.2) [], copyDue := p.copyDue || !staged }

/-- CONTEXT_SWITCH: at the boundary the counter port closes, the clears of R211 and R251 are made, and the save image is
written. The plate stands still until the first boundary after the port has reopened (R252). -/
def execContextSwitch (s : State) : Host.Outcome State Fault Refusal :=
  .next <| match s.tsu.die.ctx with
    | none => s
    | some x =>
      if x.active || !stepReached s.tsu.turn (s.now .tsu) x.boundary then s
      else
        let b := (s.tsu.turn.stepStart x.boundary).getD s.tsu.turn.start
        let s := s.modSync fun y => { y with closed := true }
        let s := localsCancel (watchesEnd (plateCancel s fun _ => true) false)
        let s := s.modPlate fun p => { p with stopped := true }
        let img := contextImage s
        s.modDie fun d => { d with
          ctx := some { x with active := true }, ctxStart := b
          saved := match x.save with | some a => some (a, img) | none => d.saved }

/-- A request that waited at the closed port. -/
def portRequest (s : State) (q : PortReq) : State :=
  match q with
  | .add core ctag counter n => coreCtr s core ctag counter (.add n)
  | .sub core ctag counter n => coreCtr s core ctag counter (.sub n)
  | .read core ctag counter => coreCtr s core ctag counter .read
  | .set core ctag => complete s core ctag .denied 0
  | .unknown core ctag => complete s core ctag .badCommand 0
  | .signal core ctag target counter op n r => portSignal core ctag target counter op n r s
  | .watchReg core ctag counter eq rearm target tag th => portWatchReg core ctag counter eq rearm target tag th s
  | .watchCancel core ctag w => portWatchCancel core ctag w s
  | .localDefine core ctag slot group cores => portLocalDefine core ctag (slot % 64) (group % 256) cores s
  | .localArrive core ctag slot => portLocalArrive core ctag (slot % 64) s
  | .hallArrive core ctag group => portHallArrive core ctag (group % 4096) s
  | .collectStart core ctag desc tag step => portCollectStart core ctag (desc % 1024) tag step s

/-- CONTEXT_PORT_REOPEN: the restore image is loaded, the port reopens, and what waited at it runs (R252). The sequencer
walks from the switch boundary on, to count what falls due before the plate resumes. -/
def execContextPortReopen (s : State) : Host.Outcome State Fault Refusal :=
  .next <| match s.tsu.die.ctx with
    | none => s
    | some x =>
      if !x.active then s
      else
        let s := match x.restore with
          | some i => contextLoad s i
          | none => s
        let s := s.modDie fun d => { d with ctx := none }
        let s := s.modPlate (·.seek x.boundary s.tsu.die.ctxStart)
        let waiting := s.tsu.sync.waiting
        waiting.foldl portRequest (s.modSync fun y => { y with closed := false, waiting := [] })

end Sys2Proof.Machine
end

