-- ==== Sys2Proof/Machine/LinkOps.lean ====
section
/-! DEFINITION. Links: the leader of a link, states with their recorder entries, maps, orders and requests (R62 to R64,
R98, R99, R115 to R127, R141 to R146). -/

namespace Sys2Proof.Machine

def cyc (s : State) (p : Part) : W64 := (s.base p).perf.cycles

/-- Milliseconds in cycles of the time clock. -/
def msCyc (n : Nat) : Nat := n * 1000000

/-- Cycles since `x`. -/
def since (s : State) (p : Part) (x : W64) : Nat := (cyc s p - x).toNat

/-- The leader of a link is its upstream end; on a peer link the lower node ID (R120). -/
def linkLeader (s : State) (p : Part) (i : Nat) : Bool :=
  match p with
  | .tsu => false
  | .dist =>
    portBelow s.role i || ((peerPorts s).contains i && decide ((s.node .dist).toNat < (neighbour s .dist i).toNat))

/-! ### Maps and lanes (R99, R115) -/

def mapA0 (m : BitVec 6) : Nat := m.toNat % 4
def mapA1 (m : BitVec 6) : Nat := m.toNat / 4 % 4
def mapSp (m : BitVec 6) : Nat := m.toNat / 16
def mkMap (a b c : Nat) : BitVec 6 := BitVec.ofNat 6 (a + 4 * b + 16 * c)

/-- Whether a map names a lane as active. -/
def mapActive (m : BitVec 6) (l : Nat) : Bool := mapA0 m == l || mapA1 m == l

/-- Width 2 or 1 of a map. -/
def width2 (m : BitVec 6) : Bool := mapA1 m != 3

/-- The lanes that are in block lock at both ends, without skew fault (R116). -/
def goodLanes (k : Link) : List Nat :=
  (List.range 3).filter fun l => (tget {} k.lanes l).lock && k.nbrGood.getLsbD l && !(tget {} k.lanes l).skew

/-- The same and not warned at either end (R125). -/
def fineLanes (k : Link) : List Nat :=
  (goodLanes k).filter fun l => !(tget {} k.lanes l).warned && !k.nbrGood.getLsbD (4 + l)

/-- A map from a list of lanes: the lowest two active, the third the spare (R116). -/
def mapOf : List Nat → BitVec 6
  | a :: b :: c :: _ => mkMap a b c
  | [a, b] => mkMap a b 3
  | [a] => mkMap a 3 3
  | [] => 0x3F

/-- The spare put into active role 0 or 1, the leaving lane becoming the spare (R122). -/
def swapMap (m : BitVec 6) (one : Bool) : BitVec 6 :=
  if one then mkMap (mapA0 m) (mapSp m) (mapA1 m) else mkMap (mapSp m) (mapA1 m) (mapA0 m)

/-- The spare counts as trained for the link (R118). -/
def spareOk (k : Link) : Bool := k.spareHere && k.spareThere && mapSp k.map != 3

/-! ### States (R116) -/

/-- PORT_STATUS (R494). -/
def portStatus (k : Link) : Nat :=
  k.state.ctorIdx + bit k.wiring * 8 + bit k.range * 16 + k.rxNode.toNat * 2 ^ 8 + k.rxPort * 2 ^ 32

/-- A change of state writes one flight-recorder entry (R424). Losing UP and DEGRADED ends the port as a time input. -/
def setLink (s : State) (p : Part) (i : Nat) (x : LinkState) : State :=
  let old := (s.port p i).link.state
  if old = x then s
  else
    let now := cyc s p
    let s := s.modPort p i fun q => { q with
      link := { q.link with
        state := x, since := now
        outAt := if x = .up ∨ x = .degraded then none else if old = .up ∨ old = .degraded then some now else q.link.outAt }
      mark := if x = .up ∨ x = .degraded then q.mark else { q.mark with usable := false, goodRun := 0 } }
    let s := s.fr p 7 (beBytes 2 i ++ beBytes 1 old.ctorIdx ++ beBytes 1 x.ctorIdx
      ++ beBytes 4 (portStatus (s.port p i).link % 2 ^ 32)) false
    if p == .dist && (s.port p i).link.outAt.isSome then rootLostCheck s i else s

/-- A lane that loses block lock: its calibration is void at both ends, and it must train again (R118, R142). -/
def Lane.lose (l : Lane) : Lane :=
  { l with lock := false, calValid := false, nbrValid := false, measured := false, retest := none }

/-- A link trains from TS1: its orders, requests and calibration turns are void. -/
def Link.restart (k : Link) : Link :=
  { k with
    sendKind := 1, ts2Rx := 0, alignMap := none, calCell := none, order := none, later := none
    request := none, ackTo := none, copying := false, rotLeft := 0, dwell := none, spareHere := false, spareThere := false }

/-- TRAIN from TS1; from UP or DEGRADED the entry counts in RETRAIN (R116). -/
def toTrain (s : State) (p : Part) (i : Nat) : State :=
  let live := (s.port p i).live
  let s := (setLink s p i .train).modLink p i fun k => { k.restart with
    map := 0x3F, lanes := tmapAll {} (fun _ l => l.lose) k.lanes }
  if live then s.count p .retrain i { port := some i } 1 else s

/-- DOWN: transmitters and lasers off (R116). -/
def toDown (s : State) (p : Part) (i : Nat) : State :=
  (setLink s p i .down).modPort p i fun q => { q with
    link := { q.link.restart with
      sendKind := 0, txOn := false, map := 0x3F, wiring := false, range := false, lanes := [] }
    lasersOn := false }

/-- Whether a distributor's ports may run at all: inserted, warm enough, not tripped, in reset or taken by JTAG, and a
root with its OCXO (R472, R476, R479 to R482). -/
def portsFree (s : State) : Bool :=
  let v := s.dist.sv
  !v.dark && !v.coldHold && !v.tripped && !v.inReset && !v.jtag && !(s.role == .root && s.dist.refs.ocxoAbsent)

/-- Whether a port may leave DOWN: enabled, used by the role, with the position set, and a module that is fitted ready
(R53, R55, R58, R116, R470). -/
def portArmed (s : State) (p : Part) (i : Nat) : Bool :=
  (s.port p i).link.enable && (match p with
    | .tsu => !s.tsu.die.inReset
    | .dist => portsFree s && s.dist.sv.posLock && portUse s.role i != 0
        && (!(s.port .dist i).modPresent || (s.port .dist i).modReady))

/-- Leaves DOWN for TRAIN once a signal is there (R116). -/
def tryTrain (s : State) (p : Part) (i : Nat) : State :=
  let k := (s.port p i).link
  if k.state == .down && portArmed s p i && k.lanes.any (fun l => l.2.signal) then
    (setLink s p i .train).modLink p i fun k => { k.restart with txOn := true }
  else s

/-! ### The neighbour (R62 to R64) -/

/-- What a distributor expects of the neighbour on a port. -/
def nbrExpected (s : State) (i : Nat) (n : Node) (q : Nat) : Bool :=
  let row := s.ownRow
  let pl := s.dist.sv.planeB
  nodeValid n && (match s.role with
    | .rack =>
      if i ≤ 95 then nodeKind n == 0 && nodeRow n == row && nodeRack n == s.ownRack && nodeSlot n == i && q == bit pl
      else if i ≤ 97 then nodeKind n == 2 && nodeRow n == row && nodePlaneB n == pl && q == 2 * s.ownRack + (i - 96)
      else nodeKind n == 1 && nodeRow n == row && nodeRack n == s.ownRack && nodePlaneB n != pl && q == 98
    | .row =>
      if i < 64 then nodeKind n == 1 && nodeRow n == row && nodePlaneB n == pl && nodeRack n == i / 2 && q == 96 + i % 2
      else if i ≤ 98 then nodeKind n == 3 && nodeRoot n == i - 96 && q == 2 * row + bit pl
      else nodeKind n == 2 && nodeRow n == row && nodePlaneB n != pl && q == i
    | .root =>
      if i < 64 then nodeKind n == 2 && nodeRow n == i / 2 && nodePlaneB n == tbit i 0 && q == 96 + s.ownRoot
      else nodeKind n == 3 && (if i ≤ 97 then nodeRoot n == (s.ownRoot + 1) % 3 && q == i + 2
        else nodeRoot n == (s.ownRoot + 2) % 3 && q == i - 2)
    | .none_ => false)

/-- What a die expects: the rack distributor of the port's plane, and on the second port the same row, rack and slot
(R64). -/
def dieExpected (s : State) (i : Nat) (n : Node) (q : Nat) : Bool :=
  nodeValid n && nodeKind n == 1 && nodePlaneB n == (i == 1) && decide (q ≤ 95)
    && (match s.tsu.b.node with
      | none => true
      | some o => nodeRow o == nodeRow n && nodeRack o == nodeRack n && nodeSlot o == q)

def nbrOk (s : State) (p : Part) (i : Nat) (n : Node) (q : Nat) : Bool :=
  match p with
  | .tsu => dieExpected s i n q
  | .dist => nbrExpected s i n q

/-! ### TIMECAL (R108, R137, R143) -/

/-- The lanes that the leader can still take out: in lock, not yet valid at both ends, and not the only one. -/
def calLanes (k : Link) : List Nat :=
  let g := goodLanes k
  if g.length ≤ 1 then []
  else g.filter fun l => !((tget {} k.lanes l).calValid && (tget {} k.lanes l).nbrValid)

/-- The leader announces the turn of the next lane, at least 8 ticks ahead (R143). -/
def calNext (s : State) (p : Part) (i : Nat) : State :=
  if !linkLeader s p i then s
  else
    let n := tickOf (s.now p) + 9
    s.modLink p i fun k => match calLanes k with
      | [] => { k with calCell := none }
      | l :: _ => { k with
          calCell := some { kind := 0, map := mapOf ((goodLanes k).filter (· != l)), tick := n, id := 0 } }

/-- TIMECAL begins: the map is set, SEQ starts at 0, and nothing of an earlier stream is left (R108, R116). A die adopts
its node ID from the first port to complete training (R64). -/
def toTimecal (s : State) (p : Part) (i : Nat) (m : BitVec 6) : State :=
  let s := breakOpen s p i (fun _ => true)
  let s := (setLink s p i .timecal).modPort p i fun q => { q with
    link := { q.link with map := m, sendKind := 5 }
    mark := { q.mark with
      rxAnchored := false, rxSeeded := false, txSeeded := false, sendOfs := [], ret := none, goodRun := 0, badRun := 0
      noSlot0 := 0, blockOk := false, txOdd := [], mapTick := none, usable := false }
    off := {}
    tx := { q.tx with seq := 0 }
    rxSeq := 0, openMsg := [] }
  let s := match p with
    | .tsu =>
      let k := (s.port .tsu i).link
      if s.tsu.b.node.isSome then s
      else { s with tsu.b.node := some (mkNode 0 (nodeRow k.rxNode) (nodeRack k.rxNode) k.rxPort 0 0) }
    | .dist => s
  calNext s p i

/-- UP at width 2 with a trained spare, otherwise DEGRADED (R116). -/
def liveState (k : Link) : LinkState := if width2 k.map && spareOk k then .up else .degraded

/-- Moves between UP and DEGRADED as the width and the spare stand. -/
def settleLive (s : State) (p : Part) (i : Nat) : State :=
  let q := s.port p i
  if q.live then setLink s p i (liveState q.link) else s

/-! ### Orders and requests (R119 to R126) -/

/-- The precedence of change kinds when both ends move at once (R125): the lower first. -/
def changeRank (kind : Nat) : Nat := match kind with | 4 => 0 | 2 => 1 | 1 => 2 | 5 => 3 | _ => 4

/-- The leader orders a change: its own number, and a tick at least 8 after the first copy. A revised order replaces the
pending one before tick N - 4 of it, and otherwise follows it (R121, R126). -/
def orderChange (s : State) (p : Part) (i kind : Nat) (m : BitVec 6) (atLeast : Tick) : State :=
  let n0 := tickOf (s.now p) + 9
  let n := if tickDiff atLeast n0 > 0 then atLeast else n0
  s.modLink p i fun k =>
    let o : Order := { kind, map := m, tick := n, id := k.nextId }
    let k := { k with nextId := k.nextId + 1 }
    match k.order with
    | some old => if 4 < tickDiff old.tick n0 + 9 then { k with order := some o } else { k with later := some o }
    | none => { k with order := some o }

/-- A change that this end wants: an order at the leader, a request at the follower unless an order is pending (R120,
R125). -/
def wantChange (s : State) (p : Part) (i kind : Nat) (m : BitVec 6) : State :=
  if linkLeader s p i then
    match (s.port p i).link.order with
    | some o => if changeRank kind < changeRank o.kind then orderChange s p i kind m 0 else s
    | none => orderChange s p i kind m 0
  else s.modLink p i fun k => if k.order.isSome then k else { k with request := some { kind, map := m } }

/-- The change for a lane that is warned or failed: a swap when the spare is trained, else width 1 on the other active
lane (R119). -/
def laneChange (s : State) (p : Part) (i l : Nat) : State :=
  let k := (s.port p i).link
  if !(s.port p i).live || !mapActive k.map l then s
  else if spareOk k then wantChange s p i 1 (swapMap k.map (mapA1 k.map == l))
  else if width2 k.map then
    wantChange s p i 2 (mkMap (if mapA0 k.map = l then mapA1 k.map else mapA0 k.map) 3 3)
  else s

/-- The TRAIN cell of an order, request or acknowledgement (R115). -/
def changeCell (s : State) (p : Part) (i kind : Nat) (o : Order) : Train :=
  let k := (s.port p i).link
  { tkind := kind, node := s.node p, port := i, phys := 3
    good := BitVec.ofNat 8 ((goodLanes k).foldl (fun a l => a + 2 ^ l) 0 + bit k.spareHere * 128)
    cap := BitVec.ofNat 8 (1 + bit k.optical * 2 + bit (linkLeader s p i) * 4)
    ckind := o.kind, map := o.map, ntick := o.tick, orderId := o.id }

/-- The change cell that a port has to send in this tick (R112, R121): the leader's order until N - 1, the follower's
acknowledgement, or its request. -/
def changePending (s : State) (p : Part) (i : Nat) : Option Train :=
  let k := (s.port p i).link
  let n := tickOf (s.now p)
  if linkLeader s p i then
    match k.order with
    | some o => if 0 < tickDiff o.tick n then some (changeCell s p i 8 o) else none
    | none => none
  else match k.order, k.ackTo, k.request with
    | some o, some id, _ => if 0 < tickDiff o.tick n then some (changeCell s p i 9 { o with id }) else none
    | _, _, some r => some (changeCell s p i 7 { kind := r.kind, map := r.map, tick := 0, id := k.seenId })
    | _, _, none => none

/-! ### Calibration ages (R146) -/

/-- Whole minutes past 660 s since a lane was measured. -/
def ageSteps (s : State) (p : Part) (l : Lane) : Nat := (since s p l.at_ - 660 * msCyc 1000) / (60 * msCyc 1000)

/-- The age of the timing lane, taken again whenever the lane or its measurement changes. -/
def renewAge (s : State) (p : Part) (i : Nat) : State :=
  let q := s.port p i
  s.modLink p i fun k => { k with calAge := ageSteps s p (laneOf q (lane0 q)) }

end Sys2Proof.Machine
end

