-- ==== Sys2Proof/Machine/References.lean ====
section
/-! DEFINITION. References at a root and the outputs that follow absolute time (R73 to R97, R422, R472). -/

namespace Sys2Proof.Machine

open Sys2Proof

/-! ### Estimated error and holdover (R88, R89) -/

/-- The accuracy in ns that a key's low byte states: the clockAccuracy codes of IEEE 1588 (log 12). -/
def accuracyNs (a : Nat) : Nat :=
  match a with
  | 0x20 => 25 | 0x21 => 100 | 0x22 => 250 | 0x23 => 1000 | 0x24 => 2500 | 0x25 => 10000 | 0x26 => 25000
  | 0x27 => 100000 | 0x28 => 250000 | 0x29 => 1000000 | 0x2A => 2500000 | 0x2B => 10000000 | 0x2C => 25000000
  | 0x2D => 100000000 | 0x2E => 250000000 | 0x2F => 1000000000 | 0x30 => 10000000000
  | x => Config.keyAccuracy x

/-- The measured e of the selected input, when it is phase-capable. -/
def ownE (s : State) : Option Int :=
  let i := s.dist.refs.selected
  if phaseCapable i then (s.refIn i).phase else none

/-- |e| plus an input's accuracy, in ns. -/
def errNow (s : State) (i : Nat) : Nat :=
  (((s.refIn i).phase).getD 0).natAbs / 1000 + accuracyNs (refKey s i % 256)

/-- E(t) in ns (R89). F is in 0.001 ppb and D in 10^-12 per day. -/
def absErrAt (s : State) : Nat :=
  let r := s.dist.refs
  match r.lossAt with
  | none => r.e0
  | some t0 =>
    let us := elapsed (s.now .dist) t0 / 64000
    let f := clampN 1 100000 (s.cfg .dist 0x11F0 0x64)
    let d := clampN 1 100000 (s.cfg .dist 0x11F8 0x1F4)
    let den := 2 * 86400 * 10 ^ 15
    let lin := if r.freqAssist then f * us * (den / 10 ^ 10) else f * us * (den / 10 ^ 9)
    r.e0 + (lin + d * us * us) / den

/-- Whole seconds in LOCKED at the loss. -/
def lockedSecs (s : State) : Nat :=
  match s.dist.refs.lockedAt with
  | some t => elapsed (s.now .dist) t / secTu
  | none => 0

def meanOf (l : List Int) (dflt : Int) : Int := if l.isEmpty then dflt else l.foldl (· + ·) 0 / (l.length : Int)

/-- Entry to HOLDOVER at the loss of input `lost` (R88, R89). -/
def holdoverEnter (s : State) (lost : Nat) : State :=
  let r := s.dist.refs
  let n := lockedSecs s
  let span := if n < 310 then n - 10 else 300
  let y := if span < 10 then r.ys + r.yc else meanOf ((r.means.drop 10).take span) (r.ys + r.yc)
  let e0 := errNow s lost
  s.modRefs fun r => { r with
    state := .holdover, lossAt := some (s.now .dist), holdVal := some y, holdShort := decide (n < 310), e0
    pull := false, near := none }

/-! ### Selection and the state table (R82, R86) -/

/-- A pull begins when |e| exceeds 50 ns (R85). -/
def pullIfFar (e : Option Int) (r : Refs) : Refs :=
  { r with pull := e.any fun e => decide (50000 < e.natAbs) }

/-- ACQUIRING with a phase-capable input (R86). -/
def acquire (s : State) (e : Option Int) : State :=
  let now := s.now .dist
  match e with
  | none => s.modRefs fun r => { r with near := none, pull := false }
  | some e =>
    if pullWindow s < e.natAbs then s.modRefs fun r => { r with originNeeded := true, pull := false, near := none }
    else if 100000 < e.natAbs then s.modRefs fun r => { r with pull := true, near := none }
    else
      let since_ := (s.dist.refs.near).getD now
      if elapsed now since_ < 10 * secTu then s.modRefs fun r => { r with near := some since_ }
      else s.modRefs fun r => pullIfFar (some e) { r with
        state := .locked, originNeeded := false, near := none, lockedAt := some now }

/-- REF_STATE_CHANGE: one row of the table of R86, `old` being the input selected before. -/
def refTransition (s : State) (old : Nat) : State :=
  let r := s.dist.refs
  let p := phaseCapable r.selected
  let e := ownE s
  match r.state with
  | .freeRun =>
    if p then s.modRefs fun r => { r with state := .acquiring, before := .freeRun, near := none } else s
  | .acquiring =>
    if p then acquire s e else s.modRefs fun r => { r with state := r.before, pull := false, near := none }
  | .locked =>
    if !p then holdoverEnter s old
    else if r.selected ≠ old then s.modRefs (pullIfFar e) else s
  | .holdover =>
    if p then s.modRefs fun r => pullIfFar e { r with
      state := .locked, lockedAt := some (s.now .dist), lossAt := none, holdVal := none, holdShort := false, freqAssist := false }
    else if lostLimit s < absErrAt s then s.modRefs fun r => { r with state := .lost } else s
  | .lost =>
    if p then s.modRefs fun r => { r with state := .acquiring, before := .lost, near := none } else s

/-- REF_SELECT with the table's transition; a lost input that was selected when the state was LOCKED leaves its error
behind (R82, R86). -/
def refRun (s : State) : State :=
  let old := s.dist.refs.selected
  let s := s.modRefs fun r => { r with selected := refSelect s }
  let s := refTransition s old
  s.modRefs fun r => { r with freqAssist := r.state == .holdover && r.selected == 4 }

/-- An input is declared failed; when it was the selected one, selection runs at once (R79, R82). -/
def refLost (s : State) (i : Nat) : State :=
  let s := refFail s i
  if s.dist.refs.selected = i && s.dist.b.t.held then refRun s else s

/-- An input is tested again after news of it. -/
def refRetest (s : State) (i : Nat) : State :=
  if (s.refIn i).valid && !refTests s i then refLost s i else refRecheck s i

/-! ### Rates (R83 to R85, R88, R382) -/

/-- What steers y_c: e_used, or an ACQUIRING root's own e within the window while no other is LOCKED (R84 to R86, R95). -/
def steerE (s : State) : Option Int :=
  let r := s.dist.refs
  match r.eUsed with
  | some e => some e
  | none => if r.state == .acquiring then (ownE s).filter fun e => decide (e.natAbs ≤ pullWindow s) else none

/-- The goal of y_c at this update, within R24: the pull, the loop of the input's bandwidth, which the manual does not
give, or a ramp to 0 (log 5). -/
def ycGoal (s : State) : Int × State :=
  let r := s.dist.refs
  match steerE s with
  | none => (r.yc + clampI (-slewStep) slewStep (-r.yc), s)
  | some e =>
    if r.pull then (pullStep e r.yc, s)
    else
      let y := drawRate s
      (clampI (-slewMax) slewMax (r.yc + clampI (-slewStep) slewStep (y.1 - r.yc)), y.2)

/-- The goal of y_s: the loop of an input that gives frequency, a free value, or the holdover value (R84, R88). -/
def ysGoal (s : State) : Int × State :=
  if s.dist.refs.selected ≠ 5 then
    let y := drawRate s
    (clampI (-ysMax) ysMax y.1, y.2)
  else ((s.dist.refs.holdVal).getD s.dist.refs.ys, s)

/-- PULL_UPDATE: y_c, then y_s, their joint change held to 5 ppb/s and to the guards (R83 to R85, R382). -/
def ratesMove (s : State) : State :=
  let r := s.dist.refs
  let g0 : Int := (guardVal s.dist.b 0 50000 50000 : Nat) * 100000
  let g1 : Int := ((guardVal s.dist.b 1 5000 5000 * 262144 / 10000 : Nat) : Int)
  let want := ycGoal s
  let wantS := ysGoal want.2
  let s := wantS.2
  let c0 := clampI (-g0) g0 want.1
  let s := if c0 = want.1 then s else guardHit s .dist 0 (BitVec.ofInt 64 (want.1 / 100000))
  let dc := clampI (-g1) g1 (c0 - r.yc)
  let ds0 := clampI (-slewStep - dc) (slewStep - dc) (wantS.1 - r.ys)
  let ds := clampI (-g1 - dc) (g1 - dc) ds0
  let s := if dc = c0 - r.yc && ds = ds0 then s else guardHit s .dist 1 (BitVec.ofInt 64 ((c0 - r.yc + ds0) / 100000))
  s.modRefs fun r => { r with yc := r.yc + dc, ys := r.ys + ds }

/-- A pull ends when |e| is at or below 5 ns and y_c no longer carries it past (R85). -/
def pullEnd (s : State) : State :=
  match steerE s with
  | some e => if e.natAbs ≤ 5000 && s.dist.refs.yc.natAbs ≤ 707106781 then s.modRefs fun r => { r with pull := false } else s
  | none => s.modRefs fun r => { r with pull := false }

/-- The mean of y_s + y_c over each second, the last 310 kept (R88). -/
def Refs.tally (sec : Nat) (r : Refs) : Refs :=
  let r := if r.second = sec || r.secRuns = 0 then r
    else { r with means := (r.secSum / (r.secRuns : Int) :: r.means).take 310, secSum := 0, secRuns := 0 }
  { r with second := sec, secSum := r.secSum + r.ys + r.yc, secRuns := r.secRuns + 1 }

/-- The phase that y_c has moved since the last run (R78). -/
def Refs.steer (now : St) (r : Refs) : Refs :=
  match r.runAt with
  | some t => { r with steered := r.steered + r.yc * 15625 * (elapsed now t : Nat), runAt := some now }
  | none => { r with runAt := some now }

/-- ABS_ERR_EST (R89): |e| plus the accuracy in LOCKED, E(t) in HOLDOVER and LOST. -/
def absErrNow (s : State) : Nat :=
  match s.dist.refs.state with
  | .locked => errNow s s.dist.refs.selected
  | .holdover | .lost => absErrAt s
  | _ => s.dist.refs.absErr

/-- This root's vote (R95). -/
def ownRefVote (s : State) : RefVote :=
  let r := s.dist.refs
  { have_ := true, state := r.state.ctorIdx, key := BitVec.ofNat 16 (refKey s r.selected)
    ePs := (ownE s).getD 0, yc := r.yc / 100000, absErr := sat (2 ^ 32 - 1) r.absErr }

/-- VOTE_REF_SEND: every 1,024 ticks each root votes on its peer ports, an elected member on its uplinks (R95, R353). -/
def refVoteSend (s : State) : State :=
  let v := ownRefVote s
  let s := s.modRefs fun r => refJudge (refDisagree s) { r with votes := tset {} r.votes (ownRootIx s) v }
  let ports := if s.role == .root then peerPorts s else uplinks s .dist
  let body := VoteBody.ref (ownRootIx s) v.state v.key v.ePs v.yc v.absErr
  let s := sendVotes s .dist ports (ownVote s allRoots body)
  if s.role == .root then (electedNodes s).foldl (fun s n => sendVotes s .dist [electedPort n] (ownVote s n body)) s else s

/-- A root's periodic run. -/
def refPeriodic (s : State) : State :=
  let now := s.now .dist
  let s := s.modRefs (Refs.steer now)
  let s := pullEnd (ratesMove (refRun s))
  let s := s.modRefs fun r => { Refs.tally (now.toNat / secTu) r with absErr := absErrNow s }
  let s := refVoteSend s
  if isLeader s then
    let s := s.modTime .dist fun t => { t with trim := rateTrim (s.dist.refs.ys + s.dist.refs.yc) }
    s.modMap .dist fun m => { m with cur := { m.cur with absValid := absValid s } }
  else s

/-- SELECTION_RUN: every 1,024 ticks of a run (R82). -/
def execSelectionRun (s : State) : Host.Outcome State Fault Refusal :=
  .next <|
    let n := (tickOf (s.now .dist)).toNat / 1024
    if !servesRoot s || !s.dist.b.t.held || s.dist.refs.ran == some n then s
    else
      let s := s.modRefs fun r => { r with ran := some n }
      if s.role == .root then refPeriodic s else refVoteSend s

/-! ### Failures and restoration (R77 to R79) -/

/-- Whether the state shows that an input fails a test. The intervals of PTP messages run outside the state. -/
def refFails (s : State) (i : Nat) (why : RefFail) : Bool :=
  let x := s.refIn i
  let now := s.now .dist
  match why with
  | .ppsMissing => decide (i < 2) && decide (2 ≤ x.badRun)
  | .tenMhz => decide (i < 2) && !x.clkOk
  | .frequency => i == 4 && !x.clkOk
  | .announceTimeout | .noSync | .noDelayResp => i == 2 || i == 3
  | .portNotSlave => (i == 2 || i == 3) && (tget {} s.dist.refs.ptp (i - 2)).state != 3
  | .linkDown => i == 4
  | .noEsmc => i == 4 && !s.dist.refs.esmcAt.any fun t => decide (elapsed now t ≤ 5 * secTu)
  | .qlDnu => i == 4 && (s.dist.refs.ql.bind qlClass).isNone
  | .phaseJump => phaseCapable i && decide (phaseJumpLimit s < x.lastJump.natAbs)

/-- What a failed PTP test does to its port: no Announce, then no master; otherwise uncalibrated (log 12). -/
def ptpFail (s : State) (i : Nat) (why : RefFail) : State :=
  let set := fun (n : Nat) => s.modRefs fun r => { r with
    ptp := tmod {} r.ptp (i - 2) fun p => { p with state := n, gotSync := false, gotDelay := false } }
  match why with
  | .announceTimeout => set 1
  | .noSync | .noDelayResp => set 2
  | _ => s

/-- REF_INPUT_FAIL: an input is declared failed at the first test that it fails (R77, R78); the OCXO never. -/
def execRefInputFail (i : Nat) (why : RefFail) (s : State) : Host.Outcome State Fault Refusal :=
  onUnit (decide (i < 6)) s fun s =>
    if s.role != .root || i = 5 || !(s.refIn i).valid || !refFails s i why then s
    else refLost (ptpFail s i why) i

/-- WTR_EXPIRE: a restored input has been valid for WTR_TIME without interruption (R79). -/
def execWtrExpire (i : Nat) (s : State) : Host.Outcome State Fault Refusal :=
  onUnit (decide (i < 6)) s fun s =>
    let x := s.refIn i
    if x.valid && x.wtr && x.validSince.any fun t => decide (wtrTime s ≤ elapsed (s.now .dist) t) then
      s.modRefIn i fun x => { x with wtr := false, eligible := true }
    else s

/-! ### Votes (R95, R96) -/

/-- A follower holds the leader's y_c against the pull of R85 for e_used (R96). -/
def leaderRateCheck (s : State) (old new : RefVote) : State :=
  match s.dist.refs.eUsed with
  | some e =>
    let off := new.yc * 100000 - pullStep e (old.yc * 100000)
    if old.have_ && decide (50000 < e.natAbs) && decide (50000000 < off.natAbs) then noConfidence s else s
  | none => s

/-- VOTE_REF_RECEIVE (R95). -/
def execVoteRefReceive (port : Nat) (v : Vote) (s : State) : Host.Outcome State Fault Refusal :=
  onPort .dist port s fun s =>
    match v.body with
    | .ref root state key e yc absErr =>
      let got := voteIn s port v
      let s := got.1
      if !got.2 || !servesRoot s || decide (2 < root) || v.src != rootNode s root then s
      else
        let old := tget {} s.dist.refs.votes root
        let new : RefVote := { have_ := true, state, key, ePs := e, yc, absErr }
        let s := s.modRefs fun r => refJudge (refDisagree s) { r with votes := tset {} r.votes root new }
        if leaderOf s .dist = root then leaderRateCheck s old new else s
    | _ => s

/-! ### PTP, SyncE and edge counts (R74 to R77, R422, R472) -/

/-- Whether an Announce names a better master than the present one: class, accuracy, then identity (log 12). -/
def masterBetter (p : PtpPort) (cls acc : Nat) (id : W64) : Bool :=
  p.state < 2 || p.identity == id || decide (cls < p.cls)
    || (cls == p.cls && (decide (acc < p.acc) || (acc == p.acc && decide (id.toNat < p.identity.toNat))))

/-- A PTP port whose master sends Sync and Delay_Resp becomes SLAVE. -/
def PtpPort.settle (p : PtpPort) : PtpPort := if p.state == 2 && p.gotSync && p.gotDelay then { p with state := 3 } else p

/-- What a port's message changes, on an enabled port. -/
def ptpTake (s : State) (n : Nat) (m : PtpMsg) : State :=
  let p := tget {} s.dist.refs.ptp n
  let put := fun (s : State) (p : PtpPort) => s.modRefs fun r => { r with ptp := tset {} r.ptp n p }
  match m with
  | .management => s.count .dist .ptpDiscard n {} 1
  | .announce cls acc id off offOk arb =>
    if arb || !masterBetter p cls acc id then s
    else
      let same := p.identity == id && decide (2 ≤ p.state)
      let s := put s { p with
        state := if same then p.state else 2, cls, acc, identity := id
        gotSync := same && p.gotSync, gotDelay := same && p.gotDelay }
      if offOk then s.modRefs fun r => { r with ptpUtc := some off } else s
  | .sync e =>
    if p.state < 2 then s
    else refMeasure (put s { p with gotSync := true }.settle) (2 + n) (e + tuPs (cableDelay s (2 + n)))
  | .delayResp => if p.state < 2 then s else put s { p with gotDelay := true }.settle

/-- PTP_MESSAGE_RECEIVE (R74, R75). -/
def execPtpMessageReceive (port : Nat) (m : PtpMsg) (s : State) : Host.Outcome State Fault Refusal :=
  onUnit (decide (port < 2)) s fun s =>
    if s.role != .root || !tbit (s.cfg .dist (0x10A8 + 8 * port) 0) 12 then s
    else
      let s := s.modRefs fun r => { r with ptp := tmod {} r.ptp port fun p =>
        if p.state = 0 ∨ 3 < p.state then { p with state := 1 } else p }
      refRetest (ptpTake s port m) (2 + port)

/-- ESMC_PDU_RECEIVE: the quality level of the port that SYNCE_SRC names (R76). -/
def execEsmcPduReceive (port : Nat) (ql : Ql) (s : State) : Host.Outcome State Fault Refusal :=
  onUnit (decide (port < 2)) s fun s =>
    if s.role != .root || s.cfg .dist 0x10A0 0 % 2 ≠ port then s
    else refRetest (s.modRefs fun r => { r with ql := some ql, esmcAt := some (s.now .dist) }) 4

/-- The outcome of a 1PPS window: absent after two that fail in a row (R422). -/
def RefIn.ppsWindow (x : RefIn) (count : Nat) (inTime : Bool) : RefIn :=
  if count = 1 && inTime then { x with ppsOk := true, badRun := 0, ppsCount := count }
  else { x with ppsOk := x.ppsOk && x.badRun == 0, badRun := x.badRun + 1, ppsCount := count }

/-- Whether an edge count is in its window (R422). -/
def countGood (i count : Nat) : Bool :=
  if i = 4 then decide (1562493 ≤ count ∧ count ≤ 1562507) else decide (9998 ≤ count ∧ count ≤ 10002)

/-- A root without its OCXO holds every port in DOWN (R472). -/
def ocxoLost (s : State) : State :=
  ((List.range 128).foldl (fun s i => if (s.port .dist i).link.state = .down then s else toDown s .dist i)
    (s.modRefs fun r => { r with ocxoAbsent := true })).alert .dist 4

/-- REF_PRESENCE_WINDOW (R422). -/
def execRefPresenceWindow (i : Nat) (pps : Bool) (count : Nat) (inTime : Bool) (s : State) :
    Host.Outcome State Fault Refusal :=
  onUnit (decide (i < 6)) s fun s =>
    if i = 2 ∨ i = 3 then s
    else
      let s := s.modRefIn i fun x =>
        if pps then (if i < 2 then x.ppsWindow count inTime else x) else { x with clkOk := countGood i count, clkCount := count }
      if s.role != .root then s
      else if i = 5 then
        (if pps then s
         else if (s.refIn 5).clkOk then s.modRefs fun r => { r with ocxoAbsent := false }
         else ocxoLost s)
      else refRetest s i

/-! ### Outputs that follow absolute time (R91 to R93, R473) -/

/-- The step of an ALIGN: the named one, or the first that starts at least 2,048 ticks after now; whether that changed it
(R92). -/
def alignStep (s : State) (p : Part) (slice : Nat) (step : Step) : Option (Step × St × Bool) :=
  let u := s.turning p slice
  let lim := s.now p + tu (2048 * tickTu)
  match u.stepStart step with
  | some t => if stGe t lim then some (step, t, false) else (u.boundaryAfter lim).map fun b => (b.1, b.2, true)
  | none => (u.boundaryAfter lim).map fun b => (b.1, b.2, true)

/-- ALIGN_STATUS of a taken command (R514). -/
def alignWord (scope slice : Nat) (step : Step) : Nat := step.toNat + scope % 4 * 2 ^ 49 + slice % 64 * 2 ^ 51

/-- A part notes an ALIGN for its own outputs. -/
def alignNote (s : State) (p : Part) (scope slice : Nat) (a : Step × St × Bool) (c : Option Cmd) : State :=
  s.modMap p fun m => { m with
    aligns := m.aligns ++ [{ scope, slice, step := a.1, at_ := a.2.1, cmd := c }], alignUsed := alignWord scope slice a.1 }

/-- ALIGN at the part that takes it: noted for its own outputs and carried to the roots; at the leading root PENDING until
its boundary (R92, R387). -/
def cmdAlign (c : Cmd) (scope slice : Nat) (step : Step) (s : State) : State :=
  if 2 < scope ∨ 63 < slice then done s c 0x0041 .badCommand
  else
    let a := alignStep s c.part slice step
    if c.part == .dist && isLeader s then
      match a with
      | none => done s c 0x0041 .badCommand
      | some a => pend (alignNote (s.clamped .dist a.2.2) .dist scope slice a (some c)) c 0x0041
    else
      let s := match a with
        | some a => alignNote s c.part scope slice a none
        | none => s
      cmdSend s c 0x0041 allRoots (.align scope slice step)

/-- ALIGN (R92, R392). -/
def execAlign (c : Cmd) (scope slice : Nat) (step : Step) (s : State) : Host.Outcome State Fault Refusal :=
  onCmd c 0x0041 (isM0 c) s (cmdAlign c scope slice step)

/-- The first ST at or after `t` at which a record gives a whole TAI second (R92). -/
def wholeSecond (m : MapRec) (t : St) : St :=
  let x := (m.originTu + t.toNat) % secTu
  if x = 0 then t else t + tu (secTu - x)

/-- What an ALIGN sets at a part, by its scope: 0 every output, 1 the roots' 1PPS and 10 MHz, 2 those of a slice. -/
def alignSet (s : State) (p : Part) (d : AlignDue) (a : St) : State :=
  let mine := match p with
    | .tsu => d.scope == 0 || (d.scope == 2 && s.tsu.die.sliceValid && s.tsu.die.sliceId == d.slice)
    | .dist => d.scope == 0
  let s := if mine then s.modMap p fun m => { m with alignAt := a } else s
  match p with
  | .tsu => s
  | .dist => if d.scope ≤ 1 then s.modRefs fun r => { r with outA := a } else s

/-- ALIGN_APPLY: at the boundary each output in scope takes its alignment instant (R92). -/
def execAlignApply (p : Part) (s : State) : Host.Outcome State Fault Refusal :=
  .next <|
    let m := (s.base p).map
    match m.aligns.find? fun d => stGe (s.now p) d.at_ with
    | none => s
    | some d =>
      let s := s.modMap p fun m => { m with aligns := m.aligns.erase d, alignMap := some m.cur }
      let s := alignSet s p d (wholeSecond m.cur d.at_)
      match d.cmd with
      | some c => doneR s (ofPart p c) 0x0041 .ok (d.step.setWidth 64) 0 0
      | none => s

/-- Place, instant A, period, high time and shortest gap between rises of an output, in tu (R91, R93, R473). -/
def outShape (s : State) (o : PulseOut) : Nat × St × Nat × Nat × Nat :=
  let width := clampN 1 500000 (s.cfg .dist 0x178 0x3E8) * 64000
  match o with
  | .pps => (0, s.dist.refs.outA, secTu, width, secTu / 2)
  | .tenMhz => (1, s.dist.refs.outA, 6400, 3200, 6400 - 64)
  | .pulse0 => (2, s.dist.b.map.alignAt, secTu, width, secTu / 2)
  | .pulse1 => (3, s.dist.b.map.alignAt, secTu, width, secTu / 2)

/-- Whether this role drives an output: 1PPS and 10 MHz at a root only (R91, R473). -/
def outDriven (s : State) (o : PulseOut) : Bool :=
  match o with
  | .pps | .tenMhz => s.role == .root
  | .pulse0 | .pulse1 => s.role != .none_

/-- PPS_OUT_EDGE: an output rises at A plus a whole period, not sooner after its last rise than R93 allows, and falls
after its high time (R91, R93, R473). -/
def execPpsOutEdge (out : PulseOut) (rising : Bool) (s : State) : Host.Outcome State Fault Refusal :=
  .next <|
    let now := s.now .dist
    let (k, a, period, high, gap) := outShape s out
    let x := tget {} s.dist.refs.outs k
    let put := fun (x : Pulse) => s.modRefs fun r => { r with outs := tset {} r.outs k x }
    if !outDriven s out || !s.dist.b.t.held then s
    else if rising then
      (if (now - a).toNat % period ≤ 64 && !x.high && !x.last.any fun t => decide (elapsed now t < gap) then
        put { x with high := true, last := some now }
      else s)
    else if x.high && x.last.any fun t => decide (high ≤ elapsed now t) then put { x with high := false }
    else s

/-! ### A new leader (R96, R97) -/

/-- A new leader at its effect tick: what was pending is adopted with it, and the root that leads runs on its own
references (R85, R96, R97). -/
def leaderTake (s : State) (p : Part) (l : BitVec 2) : State :=
  let now := tickOf (s.now p)
  let s := s.modEp p fun e => { e with
    leader := l
    pend := e.pend.map fun x => if 0 ≤ tickDiff now x.tick then { x with lead := none } else x }
  let s := adoptEpochs s p
  match p with
  | .tsu => s
  | .dist =>
    let s := s.modRefs fun r => { r with noConf := false, noConfAt := [] }
    if isLeader s then s.modTime .dist fun t => { t with
      input := none, holding := false, holdSince := none, electHold := false
      trim := rateTrim (s.dist.refs.ys + s.dist.refs.yc) }
    else s

/-- LEADER_CHANGE_EFFECT: at the announced tick the new root leads from its own ST, at its own rates; every part follows
the leader field (R96, R97). -/
def execLeaderChangeEffect (p : Part) (s : State) : Host.Outcome State Fault Refusal :=
  .next <|
    let e := (s.base p).ep
    match (e.pend.find? fun x => x.lead.isSome).bind fun x => x.lead.map fun l => (x.tick, l) with
    | none => s
    | some (t, l) => if tickDiff (tickOf (s.now p)) t < 0 then s else leaderTake s p l

end Sys2Proof.Machine
end

