-- ==== Sys2Proof/Machine/Election.lean ====
section
/-! DEFINITION. The loss of roots, the election of a triad and the copy of the ledger to its members (R350 to R355). -/

namespace Sys2Proof.Machine

/-- ELECT_LIMIT in tu (R352, R513). -/
def electLimit (s : State) : Nat := clampN 1000 10000 (s.cfg .dist 0x1A0 0x7D0) * 64000

/-! ### The ledger image (R354); its layout is a choice of the model (log 15) -/

/-- The 64 bytes of a ledger entry (R284). -/
def entryBytes (e : LedgerEntry) : List Byte :=
  beBytes 1 e.slice ++ beBytes 1 e.sgroup ++ beBytes 1 (e.prio * 16 + e.state) ++ beBytes 1 e.reason
    ++ beBytes 2 e.gen.toNat ++ beBytes 2 e.slot ++ beBytes 4 e.tokens.toNat ++ beBytes 4 e.maxLen.toNat
    ++ beBytes 8 e.deadline.toNat ++ beBytes 4 e.interval.toNat ++ beBytes 2 e.lastClose.toNat ++ beBytes 1 e.outcome
    ++ beBytes 1 (bit e.eosSeen + bit e.dueNone * 2 + bit e.partialToken * 4 + bit e.intervalMiss * 8
        + bit e.onePlane * 16 + bit e.pendPause * 32 + bit e.pendCancel * 64)
    ++ beBytes 8 e.arrival.toNat ++ beBytes 8 e.page.toNat ++ beBytes 8 e.seed.toNat ++ beBytes 4 e.owner.toNat
    ++ beBytes 3 (e.ownerDie + e.ownerMbx * 2 ^ 17) ++ beBytes 1 0

/-- The entry that 64 bytes hold. -/
def entryOf (bs : List Byte) : LedgerEntry :=
  let n := fun a k => beNat ((bs.drop a).take k)
  { slice := bits (n 0 1) 5 0, sgroup := n 1 1, prio := bits (n 2 1) 6 4, state := bits (n 2 1) 3 0, reason := n 3 1
    gen := BitVec.ofNat 16 (n 4 2), slot := n 6 2, tokens := BitVec.ofNat 32 (n 8 4), maxLen := BitVec.ofNat 32 (n 12 4)
    deadline := BitVec.ofNat 64 (n 16 8), interval := BitVec.ofNat 32 (n 24 4), lastClose := BitVec.ofNat 16 (n 28 2)
    outcome := n 30 1, eosSeen := tbit (n 31 1) 0, dueNone := tbit (n 31 1) 1, partialToken := tbit (n 31 1) 2
    intervalMiss := tbit (n 31 1) 3, onePlane := tbit (n 31 1) 4, pendPause := tbit (n 31 1) 5
    pendCancel := tbit (n 31 1) 6, arrival := BitVec.ofNat 64 (n 32 8), page := BitVec.ofNat 64 (n 40 8)
    seed := BitVec.ofNat 64 (n 48 8), owner := BitVec.ofNat 32 (n 56 4), ownerDie := bits (n 60 3) 16 0
    ownerMbx := bits (n 60 3) 18 17 }

/-- Where a serving group's block begins, past the 65,536 entries. -/
def groupAt (sg : Nat) : Nat := 0x400000 + sg * 0x10000

/-- The 64 bytes before a group's table: the step last decided, plus 1, and the group's fields. -/
def groupHead (g : SGroup) : List Byte :=
  beBytes 8 ((g.last.map fun n => n.toNat + 1).getD 0) ++ beBytes 1 (bit g.f.valid) ++ beBytes 1 g.f.slice
    ++ beBytes 2 g.f.group ++ beBytes 4 g.f.capacity ++ beBytes 8 g.f.closeOfs ++ beBytes 8 g.f.tokenOfs
    ++ beBytes 8 g.f.deltaLead ++ beBytes 8 g.f.fullPeriod ++ beBytes 16 0

/-- The image in pieces of 32 bytes, with their offsets: entries in use, and each group with its newest table. -/
def ledgerImage (l : Ledger) : List (Nat × List Byte) :=
  let entries := l.table.flatMap fun x => [(64 * x.1, (entryBytes x.2).take 32), (64 * x.1 + 32, (entryBytes x.2).drop 32)]
  let groups := l.sgs.flatMap fun x => match x.2 with
    | none => []
    | some g =>
      let a := groupAt x.1
      [(a, (groupHead g).take 32), (a + 32, (groupHead g).drop 32)]
        ++ ((g.table.map fun y => y.1 / 4).eraseDups).map fun k =>
          (a + 64 + 32 * k, (List.range 4).flatMap fun i => beBytes 8 (tget 0 g.table (4 * k + i)))
  entries ++ groups

/-- Bytes of a received image. -/
def imageNat (m : Tab Byte) (a k : Nat) : Nat := beNat ((List.range k).map fun i => tget 0 m (a + i))

/-- A group of a received image. -/
def groupOf (m : Tab Byte) (a : Nat) : SGroup :=
  let n := fun o k => imageNat m (a + o) k
  let slots := ((m.filter fun x => decide (a + 64 ≤ x.1 ∧ x.1 < a + 0x10000)).map fun x => (x.1 - a - 64) / 8).eraseDups
  { f := {
      valid := decide (n 8 1 = 1), slice := n 9 1, group := n 10 2, capacity := n 12 4, closeOfs := n 16 8
      tokenOfs := n 24 8, deltaLead := n 32 8, fullPeriod := n 40 8 }
    table := slots.foldl (fun t k => tset 0 t k (n (64 + 8 * k) 8)) []
    last := if n 0 8 = 0 then none else some (BitVec.ofNat 48 (n 0 8 - 1)) }

/-- The ledger of a received image. -/
def imageLoad (m : Tab Byte) (l : Ledger) : Ledger :=
  let reqs := ((m.filter fun x => decide (x.1 < 0x400000)).map fun x => x.1 / 64).eraseDups
  let sgs := ((m.filter fun x => decide (0x400000 ≤ x.1)).map fun x => (x.1 - 0x400000) / 0x10000).eraseDups
  { l with
    table := reqs.foldl (fun t r => tset zeroEntry t r
      (entryOf ((List.range 64).map fun i => tget 0 m (64 * r + i)))) []
    sgs := sgs.foldl (fun t g => tset none t g (some (groupOf m (groupAt g)))) [] }

/-! ### The call and the offers (R352) -/

/-- The candidates in rank: ROOT_CAPABLE row distributors IN_SERVICE, not SUSPECT, on probation or draining, with their
uplink here live, and neither offered an index nor passed over. -/
def candidates (s : State) : List Node :=
  let m := s.dist.mem
  (m.nodes.filter fun e =>
    let n := BitVec.ofNat 24 e.1
    nodeKind n == 2 && e.2.known && e.2.status == 0 && !e.2.probation && !e.2.draining && Config.rootCapable n
      && (s.port .dist (electedPort n)).live && !m.refusedBy.contains n && !m.offers.any (fun o => o.2.1 == n)).map
    fun e => BitVec.ofNat 24 e.1

/-- The second choice beside a first: of the other plane and another row, or else the next. -/
def secondChoice (first : Node) (l : List Node) : Option Node :=
  (l.find? fun n => nodePlaneB n != nodePlaneB first && nodeRow n != nodeRow first).or l.head?

def offer (s : State) (i : Nat) (n : Node) : State :=
  let s := s.modMem fun m => { m with offers := m.offers ++ [(i, n, tickOf (s.now .dist))] }
  sendVotes s .dist [electedPort n] (ownVote s n (.electOffer i s.dist.mem.snapTick))

/-- The lost root indices, which are offered. -/
def lostIndices (s : State) : List Nat := (List.range 3).filter fun r => s.dist.mem.lostRoots.getLsbD r

/-- The surviving root calls an election: ledger outputs are held from now on (R352, R354). -/
def electionCall (s : State) : State :=
  let now := s.now .dist
  let s := (s.modMem fun m => { m with
    electing := true, electAt := now, elections := sat 65535 (m.elections + 1), snapTick := tickOf now
    holdOut := true, offers := [], refusedBy := [], accepts := [] }).alert .dist 10
  match lostIndices s, candidates s with
  | [i, j], first :: rest =>
    let s := offer s i first
    match secondChoice first rest with
    | some n => offer s j n
    | none => s
  | _, _ => s

/-- The triad announced: members, this root as leader, one effect tick for ME, leader and triad; then the copies of the
ledger begin (R352, R354, R355). It waits while another change is pending. -/
def triadSend (s : State) : State :=
  match announceTick s with
  | none => s
  | some t =>
    let m := s.dist.mem
    let own := ownRootIx s
    let members := (own, s.node .dist) :: m.accepts
    let s := s.modEp .dist fun e => { e with pend := pendLeadAt (pendMeAt e.pend t (e.me + 1)) t (BitVec.ofNat 2 own) }
    let s := s.modBase .dist fun b => { b with triadDue := some { members, leader := own, tick := t } }
    let s := announceVote s (.triadSet members own t)
    let image := ledgerImage s.dist.led
    m.accepts.foldl (fun s a =>
      s.modPort .dist (electedPort a.2) fun q => { q with tx := { q.tx with
        copy := q.tx.copy ++ image.map fun x => cellNow s .dist 0 (.vote (ownVote s a.2 (.copy x.1 x.2))) } }) s

/-- Sends TRIAD_SET when both have accepted, or one by ELECT_LIMIT. -/
def triadTry (s : State) : State :=
  let m := s.dist.mem
  let late := decide (electLimit s ≤ elapsed (s.now .dist) m.electAt)
  if m.electing && s.role == .root && s.dist.b.triadDue.isNone
      && (decide (2 ≤ m.accepts.length) || (late && !m.accepts.isEmpty)) then triadSend s
  else s

/-! ### Roots lost in the hall (R97, R350) -/

/-- Whether more than half of the row distributors in service report a root lost. -/
def mostReport (s : State) (r : Nat) : Bool :=
  let rows := (s.dist.mem.nodes.filter fun e => nodeKind (BitVec.ofNat 24 e.1) == 2 && e.2.known && decide (e.2.status ≤ 1)).map
    Prod.fst
  decide (rows.length < 2 * (rows.filter fun k => (tget 0 s.dist.mem.lossReports k).getLsbD r).length)

/-- One root lost: when it led, the lowest that remains announces itself; two lost: the survivor calls the election. -/
def lossAct (s : State) : State :=
  let m := s.dist.mem
  if !servesRoot s || m.electing || m.soleRoot then s
  else match lostIndices s with
  | [r] =>
    if leaderOf s .dist = r && (s.dist.b.ep.pend.all (·.lead.isNone)) && actingRoot s [] == some (ownRootIx s) then
      announceLeader s (ownRootIx s)
    else s
  | [_, _] => if s.role == .root then electionCall s else s
  | _ => s

/-- ROOT_LOSS_RECEIVE: a root counts the reports; on a majority a root is lost in the hall (R350). -/
def execRootLossReceive (port : Nat) (v : Vote) (s : State) : Host.Outcome State Fault Refusal :=
  onPort .dist port s fun s =>
    match voteIn s port v, v.body with
    | (s, true), .rootLoss lost =>
      if !servesRoot s || nodeKind v.src != 2 then s
      else
        let s := s.modMem fun m => { m with lossReports := tset 0 m.lossReports v.src.toNat lost }
        let new := (List.range 3).filter fun r => r != ownRootIx s && !s.dist.mem.lostRoots.getLsbD r && mostReport s r
        if new.isEmpty then s
        else lossAct (s.modMem fun m => { m with
          lostRoots := new.foldl (fun b r => b ||| BitVec.ofNat 3 (2 ^ r)) m.lostRoots })
    | (s, _), _ => s

/-! ### Offers and accepts (R352) -/

/-- The candidate test at this part (R352, R516). -/
def candidateHere (s : State) : Bool :=
  let r := s.nodeRec (s.node .dist)
  s.role == .row && s.dist.sv.rootCapable && s.dist.sv.state == .inService && r.status != 1 && !r.probation
    && [96, 97, 98].any fun i => (s.port .dist i).live

/-- ELECT_OFFER_RECEIVE: a candidate accepts the index, and will take the ledger image. -/
def execElectOfferReceive (port : Nat) (v : Vote) (s : State) : Host.Outcome State Fault Refusal :=
  onPort .dist port s fun s =>
    match voteIn s port v, v.body with
    | (s, true), .electOffer i snap =>
      if !candidateHere s || v.dst != s.node .dist then s
      else
        let s := s.modMem fun m => { m with copyActive := true, snapTick := snap, copied := [] }
        sendVotes s .dist [port] (ownVote s v.src (.electAccept i))
    | (s, _), _ => s

/-- ELECT_ACCEPT_RECEIVE: with both accepts in, TRIAD_SET is sent. -/
def execElectAcceptReceive (port : Nat) (v : Vote) (s : State) : Host.Outcome State Fault Refusal :=
  onPort .dist port s fun s =>
    match voteIn s port v, v.body with
    | (s, true), .electAccept i =>
      let m := s.dist.mem
      if m.electing && m.offers.any (fun o => o.1 == i && o.2.1 == v.src) && !m.accepts.any (·.1 == i) then
        triadTry (s.modMem fun m => { m with accepts := m.accepts ++ [(i, v.src)] })
      else s
    | (s, _), _ => s

/-- ELECT_OFFER_TIMEOUT: a candidate that has not answered within 16 ticks is replaced by the next in rank. -/
def execElectOfferTimeout (index : Nat) (s : State) : Host.Outcome State Fault Refusal :=
  .next <|
    let m := s.dist.mem
    match m.offers.find? fun o => o.1 == index with
    | none => s
    | some o =>
      if !m.electing || m.accepts.any (·.1 == index) || tickDiff (tickOf (s.now .dist)) o.2.2 < 16 then s
      else
        let s := s.modMem fun m => { m with offers := m.offers.erase o, refusedBy := m.refusedBy ++ [o.2.1] }
        match candidates s with
        | n :: _ => offer s index n
        | [] => s

/-! ### The triad (R352, R353, R355) -/

/-- TRIAD_SET_RECEIVE: a part takes the members, the leader and the effect tick; a distributor passes it on. -/
def execTriadSetReceive (p : Part) (port : Nat) (v : Vote) (s : State) : Host.Outcome State Fault Refusal :=
  onPort p port s fun s =>
    let take := fun (s : State) => match v.body with
      | .triadSet members leader tick => s.modBase p fun b => { b with triadDue := some { members, leader, tick } }
      | _ => s
    match p with
    | .tsu => if voteFresh s .tsu v then take s else s
    | .dist => match voteIn s port v with
      | (s, true) => take s
      | (s, false) => s

/-- What the new triad sets at a distributor: its members, whether this part is one, and what their number means. -/
def triadTake (s : State) (d : TriadDue) : State :=
  let own := s.node .dist
  let roots := (d.members.filter fun x => nodeKind x.2 == 3).length
  s.modMem fun m => { m with
    triad := d.members.foldl (fun t x => tset 0 t x.1 x.2) []
    elected := d.members.any (fun x => x.2 == own && nodeKind x.2 == 2)
    served := ((d.members.find? fun x => x.2 == own).map Prod.fst).getD m.served
    twoMember := decide (d.members.length = 2), soleRoot := false, unchecked := decide (roots ≤ 1)
    electing := false, offers := [], refusedBy := [], lossReports := []
    lostRoots := d.members.foldl (fun b x => b &&& ~~~BitVec.ofNat 3 (2 ^ x.1)) m.lostRoots }

/-- TRIAD_EFFECT: at the tick ME increments, the survivor leads, and each row leaves ELECTION_HOLD. -/
def execTriadEffect (p : Part) (s : State) : Host.Outcome State Fault Refusal :=
  .next <| match (s.base p).triadDue with
    | none => s
    | some d =>
      if tickDiff (tickOf (s.now p)) d.tick < 0 then s
      else
        let s := leaderTake (s.modBase p fun b => { b with triadDue := none }) p (BitVec.ofNat 2 d.leader)
        match p with
        | .tsu => s
        | .dist =>
          let s := triadTake s d
          if s.role == .row then s.modTime .dist fun t => { t with electHold := false } else s

/-- ELECT_LIMIT_EXPIRE: the survivor leads with one member or alone; every row that sees a root leaves ELECTION_HOLD
(R355). -/
def execElectLimitExpire (s : State) : Host.Outcome State Fault Refusal :=
  .next <|
    let m := s.dist.mem
    if elapsed (s.now .dist) m.electAt < electLimit s then s
    else if s.role == .row then
      (if s.dist.b.t.electHold && (List.range 3).any (rootVerified s) then
        s.modTime .dist fun t => { t with electHold := false }
      else s)
    else if !m.electing || s.dist.b.triadDue.isSome then s
    else if !m.accepts.isEmpty then triadTry s
    else
      let s := releaseHeld (s.modMem fun m => { m with
        electing := false, soleRoot := true, unchecked := true, offers := [], refusedBy := [], lossReports := [] })
      if leaderOf s .dist = ownRootIx s then s else announceLeader s (ownRootIx s)

/-! ### The copy (R354) -/

/-- COPY_RECEIVE: an elected member stores the bytes of a COPY cell. -/
def execCopyReceive (port : Nat) (v : Vote) (s : State) : Host.Outcome State Fault Refusal :=
  onPort .dist port s fun s =>
    match voteIn s port v, v.body with
    | (s, true), .copy at_ data =>
      if !s.dist.mem.copyActive || v.dst != s.node .dist then s
      else s.modMem fun m => { m with
        copied := ((List.range data.length).zip data).foldl (fun t x => tset 0 t (at_ + x.1) x.2) m.copied }
    | (s, _), _ => s

/-- LEDGER_REPLAY_COMPLETE: the member's replica is whole; it sends the digest of every group's newest decided table. -/
def execLedgerReplayComplete (s : State) : Host.Outcome State Fault Refusal :=
  .next <|
    let m := s.dist.mem
    if !m.copyActive || !m.elected then s
    else
      let s := (s.modLed (imageLoad m.copied)).modMem fun m => { m with copyActive := false, copied := [] }
      s.dist.led.sgs.foldl (fun s x => match x.2 with
        | some g => match g.last with
          | some n => sendOwnVote s allRoots (.digest x.1 n (tableDigest g.table))
          | none => s
        | none => s) s

end Sys2Proof.Machine
end

