-- ==== Sys2Proof/Machine/Membership.lean ====
section
/-! DEFINITION. Reports, proposals and membership decisions, and what a decision does at its effect tick (R338 to R349,
R362, R367, R374). -/

namespace Sys2Proof.Machine

/-! ### Reports and proposals (R339 to R345, R348) -/

/-- FENCE_WAIT in cycles of the time clock (R348, R513). -/
def fenceWait (s : State) : Nat := clampN 50 900 (s.cfg .dist 0x168 0x1F4) * 1000

/-- The physical roots in service. -/
def hubRoots (s : State) : List Nat := (rootsIn s).filter fun r => nodeKind (rootNode s r) == 3

/-- A root's report that its uplink from a row distributor is out: when every root in service reports it, the leading
root raises the hard event (R348). -/
def uplinkOut (s : State) (n : Node) (r : Nat) (at_ : St) : State :=
  let now := s.now .dist
  let old := (tget [] s.dist.mem.outReports n.toNat).filter fun e => e.1 != r && decide (elapsed now e.2 ≤ quarWindow s)
  let l := (r, at_) :: old
  let put := fun (l : List (Nat × St)) => s.modMem fun m => { m with outReports := tset [] m.outReports n.toNat l }
  if (hubRoots s).all fun r => l.any (·.1 == r) then
    let s := put []
    if decides s then judgeFresh (hardEvent s .dist n causeFence {}) else s
  else put l

/-- A report taken by a root: into the tally, which is weighed at once, or one root's word on an uplink. -/
def reportIn (s : State) (src : Node) (at_ : St) (r : Report) : State :=
  match (List.range 3).find? fun x => rootNode s x == src with
  | some x =>
    if !r.hard && r.cause == causeFence && nodeKind r.accused == 2 then uplinkOut s r.accused x at_
    else judgeFresh (tallyPut s src at_ r)
  | none => judgeFresh (tallyPut s src at_ r)

/-- REPORT_RECEIVE: a root enters the report in the accused part's tally (R339, R341). -/
def execReportReceive (port : Nat) (v : Vote) (s : State) : Host.Outcome State Fault Refusal :=
  onPort .dist port s fun s =>
    match voteIn s port v, v.body with
    | (s, true), .report r => if servesRoot s then reportIn s v.src v.eventSt r else s
    | (s, _), _ => s

/-- PROPOSE_RECEIVE: the changes of a root in service count as its votes (R345). -/
def execProposeReceive (port : Nat) (v : Vote) (s : State) : Host.Outcome State Fault Refusal :=
  onPort .dist port s fun s =>
    match voteIn s port v, v.body with
    | (s, true), .propose cs =>
      if servesRoot s && (rootsIn s).any fun r => rootNode s r == v.src then cs.foldl (fun s c => voteFor s v.src c) s else s
    | (s, _), _ => s

/-- A decision announced, kept until its tick; the cells of one decision join (R338, R345). -/
def dueAdd (b : Base) (cs : List Change) (me : Epoch) (tick : Tick) : Base :=
  match b.due.find? fun d => d.me == me && d.tick == tick with
  | some d =>
    let new := cs.filter fun c => !d.changes.contains c
    { b with due := b.due.replace d { d with changes := d.changes ++ new } }
  | none => { b with due := b.due ++ [{ changes := cs, me, tick, decided := tickOf b.now }] }

/-- MEMBER_RECEIVE: a part takes the changes, the new ME and their tick; a distributor passes the cell on. -/
def execMemberReceive (p : Part) (port : Nat) (v : Vote) (s : State) : Host.Outcome State Fault Refusal :=
  onPort p port s fun s =>
    let take := fun (s : State) => match v.body with
      | .member cs me tick => s.modBase p fun b => dueAdd b cs me tick
      | _ => s
    match p with
    | .tsu => if voteFresh s .tsu v then take s else s
    | .dist => match voteIn s port v with
      | (s, true) => take s
      | (s, false) => s

/-! ### Joins (R362) -/

/-- Whether a distributor is fenced, drained or draining in the records. -/
def distOut (s : State) (n : Node) : Bool :=
  let r := s.nodeRec n
  r.known && (r.status == 3 || r.status == 4 || r.draining)

/-- A root proposes a join that it has a JOIN_READY for: not of a part quarantined or fenced, nor of a die whose rack
distributors are both out, which is held until one returns. -/
def joinTry (s : State) (n : Node) : State :=
  let r := s.nodeRec n
  if !servesRoot s || r.joinReady.isNone || (r.known && (r.status == 2 || r.status == 3)) then s
  else if nodeKind n == 0 && (dieRacks n).all (distOut s) then s
  else propose s { node := n, state := 0, cause := 0 }

/-! ### Effects at a distributor -/

/-- The record of a part after a change (R344, R357, R516). -/
def nodeChange (now : St) (me : Epoch) (state : Nat) (r : NodeRec) : NodeRec :=
  let r := { r with changeMe := me }
  match state with
  | 0 =>
    let back := !r.known || 2 ≤ r.status
    { r with
      known := true, status := 0, draining := false, joinReady := none, cleared := false
      probation := r.probation || r.cleared
      probEnd := if r.cleared then some (now + sTu 3600) else r.probEnd
      events := if back then [] else r.events, pairAmbiguous := !back && r.pairAmbiguous, fresh := !back && r.fresh }
  | 5 => { r with known := true, status := 5, draining := false, cleared := r.cleared || r.status == 2 || r.status == 3 }
  | 6 => { r with draining := true }
  | 7 => { r with known := false, status := 7, draining := false, joinReady := none }
  | n => { r with known := true, status := n, draining := false }

/-- The position of a part below this distributor. -/
def belowPos (s : State) (n : Node) : Option Nat :=
  match s.role, nodeKind n with
  | .rack, 0 => if nodeRow n = s.ownRow ∧ nodeRack n = s.ownRack then some (nodeSlot n) else none
  | .row, 1 => if nodeRow n = s.ownRow ∧ nodePlaneB n = s.dist.sv.planeB then some (nodeRack n) else none
  | .root, 2 => some (nodeRow n + 32 * bit (nodePlaneB n))
  | _, _ => none

/-- The ports of a position below. -/
def posPorts (s : State) (pos : Nat) : List Nat :=
  match s.role with
  | .row => [2 * pos, 2 * pos + 1]
  | .root => [2 * (pos % 32) + pos / 32]
  | _ => [pos]

def posBit (pos : Nat) : BitVec 96 := BitVec.ofNat 96 (2 ^ pos)

/-- A position leaves every open barrier record and post (R248, R266); a record or post that waited for it goes on with
PARTIAL. -/
def recordsClear (s : State) (pos : Nat) : State :=
  let g := posBit pos
  let bars := s.dist.fab.bars.filter fun b => b.mask.getLsbD pos
  let s := bars.foldl (fun s b =>
    let b' := { b with
      mask := b.mask &&& ~~~g, arrived := b.arrived &&& ~~~g, part_ := b.part_ || !b.arrived.getLsbD pos }
    barAdvance { s with dist.fab.bars := s.dist.fab.bars.replace b b' } b') s
  postsClear s fun _ p => p == pos

/-- The position of a die leaves the group masks, and with `maps` the slice maps (R347, R367). -/
def dieClear (s : State) (pos : Nat) (maps : Bool) : State :=
  let g := posBit pos
  let s := s.modFabric fun f => { f with
    hgroups := tmapAll none (fun _ q => q.map fun q => { q with mask := q.mask &&& ~~~g }) f.hgroups
    maps := if maps then tmapAll 0 (fun _ m => m &&& ~~~g) f.maps else f.maps }
  recordsClear s pos

/-- Takes a distributor below out of what opens from now on (R374), and with `all` out of records and maps (R347). -/
def distExclude (s : State) (pos : Nat) (all : Bool) : State :=
  let g := posBit pos
  let s := s.modFabric fun f => { f with outNew := f.outNew ||| g, outMap := if all then f.outMap ||| g else f.outMap }
  if all then recordsClear s pos else s

/-- Admits a position again (R372). -/
def distAdmit (s : State) (pos : Nat) : State :=
  let g := posBit pos
  s.modFabric fun f => { f with outNew := f.outNew &&& ~~~g, outMap := f.outMap &&& ~~~g }

def portsDown (s : State) (is : List Nat) : State :=
  is.foldl (fun s i => toDown (s.modLink .dist i fun k => { k with enable := false }) .dist i) s

def portsBack (s : State) (is : List Nat) : State :=
  is.foldl (fun s i => tryTrain (s.modLink .dist i fun k => { k with enable := true }) .dist i) s

/-- A change to a part below. -/
def belowChange (s : State) (c : Change) : State :=
  match belowPos s c.node with
  | none => s
  | some pos =>
    if nodeKind c.node = 0 then (match c.state with
      | 2 => dieClear s pos false
      | 7 => dieClear s pos true
      | _ => s)
    else match c.state with
      | 0 => distAdmit s pos
      | 3 => portsDown (distExclude s pos true) (posPorts s pos)
      | 4 => distExclude s pos true
      | 5 => portsBack s (posPorts s pos)
      | 6 => distExclude s pos false
      | _ => s

/-- A DRAINED board whose removal was asked for may be withdrawn: D_REMOVE_OK high, D_ATTN_N steady low (R480). -/
def removeReady (s : State) : State :=
  let v := s.dist.sv
  if v.removeReq && v.state == .drained then
    s.modSv fun v => { v with removeOk := true, attnLow := true, attnBlink := false, removeRefused := false }
  else s

/-- A change to this distributor itself (R370 to R375, R348). -/
def ownChange (s : State) (c : Change) : State :=
  if c.node ≠ s.node .dist then s
  else
    let now := s.now .dist
    match c.state with
    | 0 => s.modSv fun v => { v with state := .inService, joinAt := none, drainAt := none }
    | 3 => startHold (s.modSv fun v => { v with state := .fenced, joinAt := none, copyDone := false, drainAt := none }) .dist
    | 4 => removeReady (s.modSv fun v => { v with state := .drained, joinAt := none, drainAt := none })
    | 5 => if s.dist.sv.state == .drained || s.dist.sv.state == .fenced then copyAsk (s.modSv fun v => { v with
        state := .joining, joinAt := none, copyDone := v.state == .drained, drainAt := none
        removeReq := false, removeOk := false, attnLow := false })
      else s
    | 6 => s.modSv fun v => { v with state := .draining, drainAt := some now }
    | _ => s

/-- The sister of a fenced distributor tells every die below (R348). -/
def sisterNotice (s : State) (c : Change) (me : Epoch) : State :=
  if c.state = 3 && (nodeKind c.node == 1 || nodeKind c.node == 2) && sister c.node == s.node .dist then
    sendVotes s .dist (portsBelow s) (ownVote s allRoots (.fenceNotice c.node me))
  else s

/-- A root lost or back by a decision; one that returns takes its index back from the member that served it (R97, R350,
R355). -/
def rootChange (s : State) (c : Change) : State :=
  match (List.range 3).find? fun r => rootNode s r == c.node || c.node == mkNode 3 0 0 0 0 r with
  | none => s
  | some r =>
    let b := BitVec.ofNat 3 (2 ^ r)
    if c.state = 0 ∧ nodeKind c.node = 3 then
      let s := s.modMem fun m => { m with
        lostRoots := m.lostRoots &&& ~~~b, triad := tset 0 m.triad r 0
        elected := m.elected && m.served != r }
      let live := rootsIn s
      let hubs := hubRoots s
      s.modMem fun m => { m with
        soleRoot := m.soleRoot && decide (live.length < 2), twoMember := m.twoMember && decide (live.length < 3)
        unchecked := m.unchecked && decide (hubs.length < 2) }
    else if (c.state == 3 || c.state == 4 || c.state == 6) && rootNode s r == c.node then
      lossAct (s.modMem fun m => { m with lostRoots := m.lostRoots ||| b })
    else s

/-- Serving groups that a joined die may belong to send a full delta at their next close (R301). -/
def groupsFull (s : State) (c : Change) : State :=
  if c.state ≠ 0 ∨ nodeKind c.node ≠ 0 then s
  else
    let w := nodeRow c.node
    let has := fun (g : SGroup) => (tget none s.dist.fab.hgroups g.f.group).any fun q =>
      q.mask.getLsbD w || q.mask.getLsbD (32 + w)
    s.modLed fun l => { l with
      sgs := tmapAll none (fun _ g => g.map fun g => { g with fullDue := g.fullDue || has g }) l.sgs }

/-- What a decision sets at the roots: transactions of a removed part, joins that were held (R362, R401). -/
def rootsAct (s : State) (c : Change) : State :=
  let s := rootChange s c
  if !servesRoot s then s
  else
    let s := groupsFull s c
    let s := if c.state == 2 || c.state == 3 || c.state == 4 || c.state == 7 then rootsRemoved s c.node else s
    if c.state = 0 ∧ nodeKind c.node = 1 then
      ((s.dist.mem.nodes.filter fun e => e.2.joinReady.isSome).map fun e => BitVec.ofNat 24 e.1).foldl joinTry s
    else s

/-- Commands that wait for a decision complete with the new ME (R373, R375). -/
def waitDone (s : State) (c : Change) (me : Epoch) : State :=
  let mine := fun (w : Cmd × Nat × Node × Nat) => w.2.2.1 == c.node && w.2.2.2 == c.state
  let ws := s.dist.sv.waitCmds.filter mine
  let s := s.modSv fun v => { v with waitCmds := v.waitCmds.filter fun w => !mine w }
  ws.foldl (fun s w => doneR s (ofPart .dist w.1) w.2.1 .ok (me.setWidth 64) 0 0) s

/-- One change at a distributor. -/
def distChange (me : Epoch) (s : State) (c : Change) : State :=
  let now := s.now .dist
  let s := s.modNode c.node (nodeChange now me c.state)
  waitDone (rootsAct (sisterNotice (ownChange (belowChange s c) c) c me) c) c me

/-! ### Effects at a die -/

/-- Which bit of a die's lost planes a distributor above it stands for. -/
def planeBit (s : State) (n : Node) : Option Nat :=
  let own := s.node .tsu
  if nodeKind n = 1 ∧ nodeRow n = nodeRow own ∧ nodeRack n = nodeRack own then some (bit (nodePlaneB n))
  else if nodeKind n = 2 ∧ nodeRow n = nodeRow own then some (2 + bit (nodePlaneB n))
  else none

/-- A die treats a plane as unusable for time and new operations (R348, R374); its time moves to the other plane without a
step (R140). -/
def planeLost (s : State) (k : Nat) : State :=
  let s := (s.modDie fun d => { d with planeOff := d.planeOff ||| BitVec.ofNat 4 (2 ^ k) }).modMark_ .tsu (k % 2) fun m =>
    { m with blocked := true, usable := false, goodRun := 0 }
  if s.tsu.b.t.input = some (k % 2) then chooseInput s .tsu else s

/-- A plane that no distributor above blocks any more is usable again once its markers verify (R148, R372). -/
def planeFound (s : State) (k : Nat) : State :=
  let s := s.modDie fun d => { d with planeOff := d.planeOff &&& ~~~BitVec.ofNat 4 (2 ^ k) }
  let off := s.tsu.die.planeOff
  if off.getLsbD (k % 2) || off.getLsbD (2 + k % 2) then s
  else s.modMark_ .tsu (k % 2) fun m => if m.blocked then { m with blocked := false, goodRun := 0 } else m

/-- A change to the die itself (R344, R357, R362, R367, R369). -/
def dieChange (s : State) (state : Nat) : State :=
  match state with
  | 0 => s.modDie fun d => { d with member := true, suspect := false, joinAt := none }
  | 1 => s.modDie fun d => { d with suspect := true }
  | 2 => dieOpsEnd (plateCancel (s.modDie fun d => { d with quar := true, member := false }) fun _ => true) .quarantined
  | 5 => if s.tsu.die.quar || s.tsu.die.state == .parted then enterTruing s else s
  | 7 => (plateCancel s fun _ => true).modDie fun d => { d with
      member := false, state := if d.state == .parting then .parted else d.state }
  | _ => s

/-- One change at a die. -/
def tsuChange (s : State) (c : Change) : State :=
  if c.node = s.node .tsu then dieChange s c.state
  else if nodeKind c.node = 0 then
    (if c.state = 7 then s.modDie fun d => { d with departed := d.departed ++ [dieIndex c.node] } else s)
  else match planeBit s c.node with
    | none => s
    | some k =>
      if c.state == 3 || c.state == 4 || c.state == 6 then planeLost s k
      else if c.state = 0 then planeFound s k
      else s

/-- MEMBERSHIP_EFFECT: at the effect tick ME takes its new value and every change applies (R40, R345, R347). -/
def execMembershipEffect (p : Part) (s : State) : Host.Outcome State Fault Refusal :=
  .next <|
    let n := tickOf (s.now p)
    let ripe := fun (d : MemberDue) => decide (0 ≤ tickDiff n d.tick)
    let ds := (s.base p).due.filter ripe
    if ds.isEmpty then s
    else
      let s := adoptEpochs (s.modBase p fun b => { b with due := b.due.filter fun d => !ripe d }) p
      ds.foldl (fun s d =>
        let s := s.modEp p fun e => { e with me := d.me }
        match p with
        | .tsu => d.changes.foldl tsuChange s
        | .dist => d.changes.foldl (distChange d.me) s) s

/-! ### Fences (R348) -/

/-- FENCE_NOTICE_RECEIVE: a die takes the named plane as unusable until a MEMBER cell returns it; a distributor between
passes the cell on. The die's ports are 0 and 1. -/
def execFenceNoticeReceive (port : Nat) (v : Vote) (s : State) : Host.Outcome State Fault Refusal :=
  onPort .dist port s fun s =>
    if port < 2 then
      match v.body with
      | .fenceNotice n _ =>
        if !voteFresh s .tsu v then s
        else match planeBit s n with
          | some k => planeLost s k
          | none => s
      | _ => s
    else (voteIn s port v).1

/-- Whether a port has been out of UP and DEGRADED for FENCE_WAIT. -/
def outFor (s : State) (i : Nat) : Bool := (s.port .dist i).link.outAt.any fun x => decide (fenceWait s ≤ since s .dist x)

/-- FENCE_WAIT_EXPIRE: a row distributor raises the hard event against a rack distributor below; a root reports its uplink
from a row distributor, and the leading root raises it when all do. -/
def execFenceWaitExpire (node : Node) (s : State) : Host.Outcome State Fault Refusal :=
  .next <| match belowPos s node with
    | none => s
    | some pos =>
      let is := posPorts s pos
      if nodeKind node = 0 || !is.all (outFor s) then s
      else
        let s := is.foldl (fun s i => s.modLink .dist i fun k => { k with outAt := none }) s
        if s.role == .row then hardEvent s .dist node causeFence { port := is.head? }
        else
          let now := s.now .dist
          let r : Report := {
            accused := node, hard := false, split := false, cause := causeFence, tj := s.dist.b.tj, region := 255
            freq := 255, opref := 0, p2Slots := 0, p1Depth := 0, stretch := 0, detail := 0 }
          let s := s.fr .dist 1 (reportBytes r) false
          let s := sendVotes s .dist (reportPorts s .dist node) (ownVote s allRoots (.report r))
          uplinkOut s node (ownRootIx s) now

/-! ### Standing (R341, R344) -/

def suspectClear (s : State) : Nat := clampN 60 86400 (s.cfg .dist 0x198 0x258) * 64000000000

/-- SUSPECT_CLEAR_EXPIRE: a SUSPECT part without an event for SUSPECT_CLEAR is IN_SERVICE again. -/
def execSuspectClearExpire (node : Node) (s : State) : Host.Outcome State Fault Refusal :=
  .next <|
    let r := s.nodeRec node
    if servesRoot s && r.known && r.status == 1 && decide (suspectClear s ≤ elapsed (s.now .dist) r.last) then
      s.modNode node fun r => { r with status := 0, pairAmbiguous := false }
    else s

/-- PROBATION_END: 3,600 s after a part returned from quarantine. -/
def execProbationEnd (node : Node) (s : State) : Host.Outcome State Fault Refusal :=
  .next <|
    let r := s.nodeRec node
    if r.probEnd.any fun x => stGe (s.now .dist) x then
      s.modNode node fun r => { r with probation := false, probEnd := none }
    else s

/-- ECC_UNCORRECTABLE: a hard event against the part itself (R336). -/
def execEccUncorrectable (p : Part) (s : State) : Host.Outcome State Fault Refusal :=
  .next (hardEvent s p (s.node p) causeEcc {})

/-- WATCHDOG_EXPIRE: the Headstock's core restarts with its memory kept; an entry and a suspect event against the part
itself (R337, R389, R424). -/
def execWatchdogExpire (p : Part) (pc : W32) (s : State) : Host.Outcome State Fault Refusal :=
  .next <|
    let s := s.modHs p fun h => { h with wdResets := h.wdResets + 1 }
    let s := s.fr p 8 (beBytes 4 pc.toNat ++ beBytes 4 (s.base p).hs.wdResets) false
    suspect s p (s.node p) causeWatchdog {}

end Sys2Proof.Machine
end

