-- ==== Sys2Proof/Machine/TickEdge.lean ====
section
/-! DEFINITION. The tick edge of a part (R21, R102, R129). -/

namespace Sys2Proof.Machine

/-- TICK_EDGE: a tick edge of a part's own time: its checks, its input, and a marker on every port from TIMECAL on
(R21, R41, R129, R140, R151, R334). A tick is framed once. -/
def execTickEdge (p : Part) (sendOfs : Nat) (s : State) : Host.Outcome State Fault Refusal :=
  .next <|
    let n := tickOf (s.now p)
    let t := (s.base p).t
    if !t.held || t.framed == some n then s
    else
      let s := s.modTime p fun t => { t with framed := some n }
      let g := mgmtGuard (s.base p)
      let s := s.modBase p fun b => { b with ports := tmapAll {} (fun _ q => { q with tx := q.tx.newTick g n }) b.ports }
      let s := adoptEpochs (shadowCheck s p) p
      let s := match p with
        | .tsu => planesCompare s
        | .dist => triadTry (rootTick (announceHeld (announceResets (judgeFresh s))))
      let s := if (s.base p).t.electHold then s else chooseInput s p
      let s := if p == .tsu && s.tsu.b.t.holdSince.isSome then s.event .tsu 0x014 {} 1 else s
      (List.range (portCount p)).foldl (sendMarker p n (min sendOfs 164)) s


end Sys2Proof.Machine
end

