-- ==== Sys2Proof/Machine/Lifecycle.lean ====
section
/-! DEFINITION. Power-up, joining, parting and draining (R356 to R381, R452). -/

namespace Sys2Proof.Machine

open Sys2Proof

/-! ### Resets of the PV-TSU4 (R359, R377, R452) -/

/-- What a TSU reset leaves: OTP fuses, the count of releases since power-on, the sensor and reference as they stand, the
cores that the die holds in reset, and the context image in host memory. -/
def tsuClear (t : Tsu) : Tsu :=
  { b := {
      t := { refclkRange := t.b.t.refclkRange }, tj := t.b.tj, drawn := t.b.drawn
      hs := { bootCount := t.b.hs.bootCount, minSec := t.b.hs.minSec, revoked := t.b.hs.revoked } }
    die := { inReset := true, saved := t.die.saved }
    sync := { coreReset := t.sync.coreReset } }

/-- TSU_RST_N_ASSERT: BLANK, every port DOWN, the recorder cleared (R428, R452). -/
def execTsuRstNAssert (s : State) : Host.Outcome State Fault Refusal := .next { s with tsu := tsuClear s.tsu }

/-- TSU_RESET_RELEASE: the time clock runs, and the release counts in BOOT_COUNT (R359, R377). -/
def execTsuResetRelease (s : State) : Host.Outcome State Fault Refusal :=
  .next <|
    if !s.tsu.die.inReset then s
    else (s.modDie fun d => { d with inReset := false }).modHs .tsu fun h => { h with bootCount := h.bootCount + 1 }

/-! ### Boot (R379 to R382, R495, R496, R515) -/

/-- FW_GO: the boot ROM fetches the image at FW_ADDR, unless it is loading or has accepted one (R381, R496). -/
def execFwGo (addr : W64) (s : State) : Host.Outcome State Fault Refusal :=
  .next <|
    let b := s.tsu.b.hs.boot
    if s.tsu.die.inReset || b == 1 || b == 2 then s else s.modHs .tsu fun h => { h with fwAddr := addr, boot := 1 }

/-- The first test of R380 that an image fails, in the codes of BOOT_STATUS; none for an image accepted. -/
def bootTest (p : Part) (h : Headstock) (x : FwHdr) (k : FwChecks) : Option Nat :=
  if !k.readOk then some 9
  else if x.magic ≠ 0x50564853 ∨ x.target ≠ (match p with | .tsu => 1 | .dist => 2) then some 3
  else if 3 < x.keyIndex ∨ h.revoked.getLsbD x.keyIndex then some 4
  else if !k.keyHashOk then some 5
  else if x.secVersion.toNat < h.minSec.toNat then some 6
  else if !k.sigOk then some 7
  else if !k.digestOk then some 8
  else none

/-- A guard as the boot ROM writes it: no more than its hardware maximum (R382, R495). -/
def guardInit (i : Nat) (v : W64) : W64 :=
  let n := v.toNat
  match i with
  | 0 => BitVec.ofNat 64 (min n 50000)
  | 1 => BitVec.ofNat 64 (min n 5000)
  | 2 => BitVec.ofNat 64 (min n (2 ^ 46))
  | 3 => BitVec.ofNat 64 (min n 256)
  | _ => BitVec.ofNat 64 (twos 16 (min (signedOf 16 (n % 65536)) 600))

/-- An accepted image: guards written and locked, the firmware runs. -/
def bootAccept (h : Headstock) (x : FwHdr) : Headstock :=
  { h with
    running := true, guardLock := true, boot := 2, fwVersion := x.fwVersion
    guards := (List.range 5).map fun i => guardInit i ((x.guards[i]?).getD 0)
    minSec := if x.raiseMin then x.secVersion else h.minSec }

/-- FW_SLOT of an image that passes (R515). -/
def slotBitsOf (x : FwHdr) : BitVec 64 := x.secVersion ++ x.fwVersion

/-- BOOT_COMPLETE: the image, and at a PV-D128 the other slot's when it fails, is accepted or refused. -/
def execBootComplete (p : Part) (hdr : FwHdr) (checks : FwChecks) (hdr2 : FwHdr) (checks2 : FwChecks) (s : State) :
    Host.Outcome State Fault Refusal :=
  .next <|
    let h := (s.base p).hs
    if h.boot ≠ 1 then s
    else match p with
    | .tsu => match bootTest .tsu h hdr checks with
      | none => s.modHs .tsu (bootAccept · hdr)
      | some c => (s.modHs .tsu fun h => { h with boot := c }).alert .tsu 4
    | .dist =>
      let a := h.bootSlot
      let put := fun (s : State) (k : Nat) (v : BitVec 64) => s.modHs .dist fun h => { h with slotBits := tset 0 h.slotBits k v }
      match bootTest .dist h hdr checks with
      | none => put (s.modHs .dist fun h => { bootAccept h hdr with slotBooted := a, fallback := false }) a (slotBitsOf hdr)
      | some _ =>
        let s := put s a 0
        match bootTest .dist h hdr2 checks2 with
        | none => (put (s.modHs .dist fun h => { bootAccept h hdr2 with slotBooted := 1 - a, fallback := true }) (1 - a)
            (slotBitsOf hdr2)).alert .dist 7
        | some c => (put (s.modHs .dist fun h => { h with boot := c }) (1 - a) 0).alert .dist 7

/-! ### Resets of the PV-D128 (R54, R371, R478, R479) -/

/-- What a reset of a distributor leaves: OTP fuses, flash, the count of resets, the pins, sensor and reference as they
stand. -/
def distClear (d : Dist) : Dist :=
  { b := {
      t := { refclkRange := d.b.t.refclkRange }, tj := d.b.tj, drawn := d.b.drawn
      hs := { bootCount := d.b.hs.bootCount, minSec := d.b.hs.minSec, revoked := d.b.hs.revoked, slots := d.b.hs.slots,
              slotBits := d.b.hs.slotBits, bootSlot := d.b.hs.bootSlot } }
    sv := {
      inReset := true, engineering := d.sv.engineering, present := d.sv.present, lostPresence := d.sv.lostPresence
      tripped := d.sv.tripped, jtag := d.sv.jtag } }

/-- D_RESET_N_ASSERT: the part enters reset with its ports dark (R452, R478). -/
def execDResetNAssert (s : State) : Host.Outcome State Fault Refusal := .next { s with dist := distClear s.dist }

/-- POWER_GOOD_LOSS: the part resets at once; the count of resets begins anew when its supplies rise (R478, R512). -/
def execPowerGoodLoss (s : State) : Host.Outcome State Fault Refusal :=
  .next { s with dist := { distClear s.dist with b.hs.bootCount := 0 } }

def roleOf (x : BitVec 2) : Role :=
  match x.toNat with
  | 1 => .rack
  | 2 => .row
  | 3 => .root
  | _ => .none_

/-- POWER_ON_RESET: D_RESET_N released: straps sampled, the boot ROM starts; dark until D_PRSNT_N is low, cold below 0 °C
(R53, R54, R379, R479, R482). -/
def execPowerOnReset (role : BitVec 2) (planeB rootCapable : Bool) (smbAddr : BitVec 3) (s : State) :
    Host.Outcome State Fault Refusal :=
  .next <|
    let v := s.dist.sv
    if v.strapped && !v.inReset then s
    else
      let d := distClear s.dist
      let r := roleOf role
      { s with dist := { d with
          b.hs := { d.b.hs with boot := 1, bootCount := d.b.hs.bootCount + bit v.inReset }
          sv := { d.sv with
            role := r, planeB := planeB && r != .root, rootCapable := rootCapable && r == .row, smb := smbAddr
            strapped := true, inReset := false, dark := !d.sv.present, lostPresence := false, tripped := false
            jtag := false, coldHold := decide (d.b.tj < 0) } } }

/-- NODE_POSITION_WRITE: the first write sets and locks the position; the ports of the role are enabled (R55, R65, R371,
R518). -/
def nodePosition (v : W64) (s : State) : State :=
  let w := s.dist.sv
  if w.posLock || !s.dist.b.hs.running then s
  else
    let n := v.toNat
    let root := bits n 11 10
    let s := s.clamped .dist (decide (2 < root))
    let pos := bits n 9 0 + min 2 root * 1024
    let s := s.modSv fun v => { v with position := BitVec.ofNat 12 pos, posLock := true }
    let node : Option Node := match w.role with
      | .none_ => none
      | .rack => some (mkNode 1 s.ownRow s.ownRack 0 (bit w.planeB) 0)
      | .row => some (mkNode 2 s.ownRow 0 0 (bit w.planeB) 0)
      | .root => some (mkNode 3 0 0 0 0 s.ownRoot)
    let s := s.modBase .dist fun b => { b with node }
    if w.role == .none_ then s
    else
      let s := s.modSv fun v => { v with state := .joining }
      ((List.range 128).filter fun i => portUse w.role i != 0).foldl (fun s i =>
        tryTrain (s.modLink .dist i fun k => { k with enable := true }) .dist i) s

/-- NODE_POSITION_WRITE. -/
def execNodePositionWrite (v : W64) (s : State) : Host.Outcome State Fault Refusal := .next (nodePosition v s)

/-! ### TRUING and JOIN_READY (R357, R360, R361, R371, R372) -/

def lockTime (s : State) : Nat := clampN 1 60 (s.cfg .tsu 0x120 0x0A) * 64000000000
def joinSettle (s : State) (p : Part) : Nat := clampN 0 60 (s.cfg p 0x128 0x0A) * 64000000000

/-- TRUING_SLOW: not LOCKED within LOCK_TIME of entering TRUING (R360). -/
def execTruingSlow (s : State) : Host.Outcome State Fault Refusal :=
  .next <|
    let t := s.tsu.b.t
    let d := s.tsu.die
    if d.state == .truing && !t.locked && !d.truingSlow
        && t.lockLimit.any (fun x => decide (lockTime s ≤ elapsed (s.now .tsu) x)) then
      (s.modDie fun d => { d with truingSlow := true }).alert .tsu 3
    else s

/-- The state that a joining distributor copies, as this one holds it (R372); turnings that have not started carry their
first start. -/
def copyOf (s : State) : CopyState :=
  let f := s.dist.fab
  { groups := f.hgroups.filterMap fun x => x.2.map fun q => (x.1, q)
    maps := f.maps, weights := f.weights
    turnings := (f.turnings.filter fun x => x.2.exists_).map fun x =>
      let u := x.2
      if u.started then (x.1, u.st0, u.len, u.start, u.step) else (x.1, u.st0, u.len, u.first, u.firstStep)
    collectHop := s.cfg .dist 0x158 0x8000 }

/-- The CRC-32C digest of a copy; its layout is a choice of the model (log 16). -/
def copyDigest (c : CopyState) : W32 :=
  crc32c ((c.groups.flatMap fun g => beBytes 2 g.1 ++ beBytes 1 g.2.slice ++ beBytes 1 (bit g.2.top) ++ beBytes 12 g.2.mask.toNat)
    ++ (c.maps.flatMap fun m => beBytes 1 m.1 ++ beBytes 12 m.2.toNat)
    ++ (c.weights.flatMap fun w => beBytes 2 w.1 ++ beBytes 1 w.2)
    ++ (c.turnings.flatMap fun t => beBytes 1 t.1 ++ beBytes 8 t.2.1.toNat ++ beBytes 4 t.2.2.1 ++ beBytes 8 t.2.2.2.1.toNat
        ++ beBytes 6 t.2.2.2.2.toNat)
    ++ beBytes 4 c.collectHop)

/-- Loads a copy. -/
def copyLoad (s : State) (c : CopyState) : State :=
  let now := s.now .dist
  let s := s.modFabric fun f => { f with
    hgroups := c.groups.foldl (fun t g => tset none t g.1 (some g.2)) []
    maps := c.maps.foldl (fun t m => tset 0 t m.1 m.2) []
    weights := c.weights.foldl (fun t w => tset 8 t w.1 w.2) []
    turnings := c.turnings.foldl (fun t x =>
      let u : Turning := { exists_ := true, st0 := x.2.1, len := x.2.2.1 }
      let at_ := x.2.2.2.1
      tset {} t x.1 (if stLater at_ now then { u with first := at_, firstStep := x.2.2.2.2 }
        else { u with started := true, start := at_, step := x.2.2.2.2 })) [] }
  cfgPut (s.modSv fun v => { v with copied := some c }) .dist 0x158 c.collectHop

/-- The ports in UP or DEGRADED, as JOIN_READY carries them. -/
def livePorts (s : State) (p : Part) : BitVec 128 :=
  (List.range (portCount p)).foldl (fun m i => if (s.port p i).live then m ||| BitVec.ofNat 128 (2 ^ i) else m) 0

/-- JOIN_READY to the roots (R361, R377, R407). -/
def sendJoinReady (s : State) (p : Part) : State :=
  let n := s.node p
  let j : JoinReady := {
    node := n, kind := nodeKind n, accUnc := accUnc s p, bootCount := BitVec.ofNat 32 (s.base p).hs.bootCount
    ports := livePorts s p, digest := match p with | .tsu => 0 | .dist => copyDigest (copyOf s) }
  let now := s.now p
  let s := match p with
    | .tsu => s.modDie fun d => { d with joinAt := some now }
    | .dist => s.modSv fun v => { v with joinAt := some now }
  mgmt s p allRoots (.joinReady j)

/-- LOCKED for JOIN_SETTLE. -/
def settled (s : State) (p : Part) : Bool :=
  let t := (s.base p).t
  t.locked && t.lockSince.any fun x => decide (joinSettle s p ≤ elapsed (s.now p) x)

/-- Whether a part may ask to join (R357, R372). -/
def mayJoin (s : State) (p : Part) : Bool :=
  (s.base p).hs.running && settled s p && (match p with
    | .tsu =>
      s.tsu.die.state == .truing && !s.tsu.die.member && !s.tsu.die.quar && decide (accUnc s .tsu ≤ 400)
        && s.tsu.mark.crossDone && !s.tsu.mark.crossFault && !s.tsu.b.t.noTime
    | .dist =>
      s.dist.sv.state == .joining && s.dist.sv.copyDone
        && (List.range 128).all fun i =>
          portUse s.role i == 0 || !(s.port .dist i).link.lanes.any (fun l => l.2.signal) || (s.port .dist i).live)

/-- JOIN_SETTLE_EXPIRE: the first JOIN_READY. -/
def execJoinSettleExpire (p : Part) (s : State) : Host.Outcome State Fault Refusal :=
  .next <|
    let sent := match p with | .tsu => s.tsu.die.joinAt | .dist => s.dist.sv.joinAt
    if sent.isNone && mayJoin s p then sendJoinReady s p else s

/-- JOIN_READY_REPEAT: every 1 ms until a MEMBER cell names the part (R361). -/
def execJoinReadyRepeat (p : Part) (s : State) : Host.Outcome State Fault Refusal :=
  .next <|
    let sent := match p with | .tsu => s.tsu.die.joinAt | .dist => s.dist.sv.joinAt
    if sent.any fun x => decide (64000000 ≤ elapsed (s.now p) x) then sendJoinReady s p else s

/-- JOIN_READY_RECEIVE: a root proposes the join, or discards a boot count below the last one accepted (R362, R377). -/
def execJoinReadyReceive (env : MgmtEnv) (j : JoinReady) (s : State) : Host.Outcome State Fault Refusal :=
  onMgmt .dist env s fun s =>
    if !servesRoot s || j.node != env.src then s
    else if (s.nodeRec j.node).bootCount.any fun b => decide (j.bootCount.toNat < b) then s.count .dist .joinStale 0 {} 1
    else
      joinTry (s.modNode j.node fun r => { r with bootCount := some j.bootCount.toNat, joinReady := some j }) j.node

/-! ### Copies (R372, R408) -/

/-- COPY_REQ_RECEIVE: a part in service answers with its state and digest; others relay the request. -/
def execCopyReqReceive (port : Nat) (env : MgmtEnv) (s : State) : Host.Outcome State Fault Refusal :=
  onPort .dist port s fun s =>
    let s := mgmtRelay s port env .copyReq
    match mgmtIn s .dist (some port) env with
    | (s, true) =>
      if s.dist.sv.state == .inService then mgmt s .dist env.src (.copyData (copyOf s) (copyDigest (copyOf s))) else s
    | (s, false) => s

/-- COPY_DATA_RECEIVE: a joining distributor loads the copy and compares its digest; a mismatch restarts the copy. -/
def execCopyDataReceive (env : MgmtEnv) (cs : CopyState) (digest : W32) (s : State) : Host.Outcome State Fault Refusal :=
  onMgmt .dist env s fun s =>
    if s.dist.sv.state != .joining || s.dist.sv.copyDone then s
    else if copyDigest cs = digest then (copyLoad s cs).modSv fun v => { v with copyDone := true }
    else copyAsk s

/-- IMAGE_RECEIVE: a distributor that joins without a sister loads its section of the commit image; a digest other than the
roots' restarts the copy (R408). -/
def execImageReceive (env : MgmtEnv) (cs : CopyState) (s : State) : Host.Outcome State Fault Refusal :=
  onMgmt .dist env s fun s =>
    if s.dist.sv.state != .joining || s.dist.sv.copyDone then s
    else if copyDigest cs = Config.stateDigest (s.node .dist) s.dist.b.ep.ce then
      (copyLoad s cs).modSv fun v => { v with copyDone := true }
    else s.count .dist .imageMismatch 0 {} 1

/-! ### Parting (R364 to R369) -/

/-- PART_BOUNDARY: at B the die enters PARTING: nothing of T at or after B fires, and the die takes no new operation
(R365). -/
def execPartBoundary (s : State) : Host.Outcome State Fault Refusal :=
  .next <| match s.tsu.die.partDue with
    | none => s
    | some n =>
      if !stepReached s.tsu.turn (s.now .tsu) n || s.tsu.die.state != .running then s
      else
        let b := (s.tsu.turn.stepStart n).getD (s.now .tsu)
        let s := plateCancel s fun e => stGe e.t b
        s.modDie fun d => { d with state := .parting, partAt := b, partDue := none, partDone := false }

/-- PART_DRAIN_COMPLETE: none of the operations of R366 remains, and the die tells the roots (R367). -/
def execPartDrainComplete (s : State) : Host.Outcome State Fault Refusal :=
  .next <|
    if s.tsu.die.state == .parting && !s.tsu.die.partDone && openOps s == 0 then sendPartDone s else s

def partLimit (s : State) : Nat := clampN 1 10000 (s.cfg .tsu 0x130 0x64) * 64000000

/-- PART_LIMIT_EXPIRE: what is open at B + PART_LIMIT completes CANCELLED and is counted (R367). -/
def execPartLimitExpire (s : State) : Host.Outcome State Fault Refusal :=
  .next <|
    let d := s.tsu.die
    if d.state == .parting && !d.partDone && decide (partLimit s ≤ elapsed (s.now .tsu) d.partAt) then
      sendPartDone (dieOpsEnd (s.count .tsu .partCancelled 0 {} (openOps s)) .cancelled)
    else s

/-- PART_DONE_RECEIVE: the roots decide the removal of a die, or that a distributor is DRAINED (R367, R375). -/
def execPartDoneReceive (env : MgmtEnv) (node : Node) (_st : St) (_cancelled : Nat) (s : State) :
    Host.Outcome State Fault Refusal :=
  onMgmt .dist env s fun s =>
    if env.src != node then s else propose s { node, state := if nodeKind node = 0 then 7 else 4, cause := 0 }

/-! ### Commands for a membership decision (R373, R375, R392) -/

/-- A part IN_SERVICE in the records, and not draining. -/
def inServiceRec (s : State) (n : Node) : Bool :=
  let r := s.nodeRec n
  r.known && decide (r.status ≤ 1) && !r.draining

/-- The roots' check of a DRAIN (R373). -/
def drainCheck (s : State) (n : Node) : Option Status :=
  let r := s.nodeRec n
  if nodeKind n = 0 || !nodeValid n then some .badCommand
  else if r.draining then some .busy
  else if !inServiceRec s n || s.dist.mem.electing then some .denied
  else if nodeKind n = 3 then
    (if (List.range 3).all (rootAlive s) then none else some .denied)
  else if inServiceRec s (sister n) then none else some .denied

/-- The check of the distributor that is to be drained, on what it knows itself. -/
def drainHere (s : State) : Option Status :=
  let r := s.nodeRec (sister (s.node .dist))
  if s.dist.sv.state == .draining then some .busy
  else if s.dist.sv.state != .inService || s.dist.b.t.electHold || s.dist.mem.electing then some .denied
  else if s.role != .root && r.known && !inServiceRec s (sister (s.node .dist)) then some .denied
  else none

/-- A refused DRAIN of a board that asked for its removal (R480). -/
def removeRefuse (s : State) : State :=
  if s.dist.sv.removeReq && s.dist.sv.state != .drained && s.dist.sv.state != .draining then
    s.modSv fun v => { v with removeRefused := true, attnBlink := true }
  else s

/-- A change that a command asks for: carried to the roots, each of which proposes it; the leading root checks it and
completes the command when the decision has taken effect (R392). `here` is the check of the part that takes the
command. -/
def cmdMember (c : Cmd) (op : Nat) (ch : Change) (rc : RemoteCmd) (here : Option Status) (check : State → Option Status)
    (s : State) : State :=
  match here with
  | some st => done s c op st
  | none =>
    if c.part == .tsu then cmdSend s c op allRoots rc
    else
      let bad := if servesRoot s then check s else none
      if decides s then
        (match bad with
         | some st => done s c op st
         | none => propose ((pend s c op).modSv fun v => { v with waitCmds := v.waitCmds ++ [(c, op, ch.node, ch.state)] }) ch)
      else
        let s := cmdSend s c op allRoots rc
        if servesRoot s && bad.isNone then propose s ch else s

/-- What another root does with such a command that the sender gave to every root. -/
def rootsMember (ch : Change) (check : State → Option Status) (s : State) : State :=
  if (check s).isNone then propose s ch else s

def drainChange (n : Node) : Change := { node := n, state := 6, cause := 0 }
def joiningChange (n : Node) : Change := { node := n, state := 5, cause := 0 }

/-- DRAIN (R373, R374). -/
def cmdDrain (c : Cmd) (n : Node) (s : State) : State :=
  let own := c.part == .dist && n == s.node .dist
  let here := if nodeKind n = 0 || !nodeValid n then some .badCommand else if own then drainHere s else none
  let s := if own && here.isSome then removeRefuse s else s
  cmdMember c 0x0048 (drainChange n) (.drain n) here (drainCheck · n) s

def execDrain (c : Cmd) (node : Node) (s : State) : Host.Outcome State Fault Refusal :=
  onCmd c 0x0048 (isM0 c) s (cmdDrain c node)

/-- UNDRAIN: only of a DRAINED distributor (R375). -/
def undrainCheck (s : State) (n : Node) : Option Status :=
  if nodeKind n ≠ 0 && (s.nodeRec n).known && (s.nodeRec n).status == 4 then none else some .badCommand

def cmdUndrain (c : Cmd) (n : Node) (s : State) : State :=
  let own := c.part == .dist && n == s.node .dist
  let here := if nodeKind n = 0 || !nodeValid n || (own && s.dist.sv.state != .drained) then some .badCommand else none
  cmdMember c 0x0049 (joiningChange n) (.undrain n) here (undrainCheck · n) s

def execUndrain (c : Cmd) (node : Node) (s : State) : Host.Outcome State Fault Refusal :=
  onCmd c 0x0049 (isM0 c) s (cmdUndrain c node)

/-- REJOIN: only of a die that has parted (R357). -/
def rejoinCheck (s : State) (i : Nat) : Option Status := if (s.nodeRec (dieNode i)).known then some .badCommand else none

def cmdRejoin (c : Cmd) (i : Nat) (s : State) : State :=
  let own := c.part == .tsu && dieNode i == s.node .tsu
  let here := if 98304 ≤ i ∨ (own && s.tsu.die.state != .parted) then some .badCommand else none
  cmdMember c 0x004A (joiningChange (dieNode i)) (.rejoin i) here (rejoinCheck · i) s

def execRejoin (c : Cmd) (die : Nat) (s : State) : Host.Outcome State Fault Refusal :=
  onCmd c 0x004A (isM0 c) s (cmdRejoin c die)

/-- QUARANTINE_CLEAR: only of a part QUARANTINED or FENCED (R357, R370). -/
def clearCheck (s : State) (n : Node) : Option Status :=
  let r := s.nodeRec n
  if r.known && (r.status == 2 || r.status == 3) then none else some .badCommand

def cmdQuarantineClear (c : Cmd) (n : Node) (s : State) : State :=
  let own := c.part == .tsu && n == s.node .tsu
  let here := if !nodeValid n || (own && !s.tsu.die.quar) then some .badCommand else none
  cmdMember c 0x004B (joiningChange n) (.quarantineClear n) here (clearCheck · n) s

def execQuarantineClear (c : Cmd) (node : Node) (s : State) : Host.Outcome State Fault Refusal :=
  onCmd c 0x004B (isM0 c) s (cmdQuarantineClear c node)

/-! ### Draining (R375) -/

/-- PART_DONE of a distributor, once. -/
def drainDone (s : State) : State :=
  let s := s.modSv fun v => { v with drainAt := none }
  let own := s.node .dist
  toRoots s .dist (.partDone own (s.now .dist) 0) fun s => s

/-- Nothing open or queued remains. -/
def drainEmpty (s : State) : Bool :=
  s.dist.fab.posts.isEmpty && s.dist.fab.bars.isEmpty
    && s.dist.b.ports.all fun q => q.2.tx.p1.isEmpty && q.2.tx.p2.all fun l => l.2.isEmpty

/-- DRAIN_COMPLETE. -/
def execDrainComplete (s : State) : Host.Outcome State Fault Refusal :=
  .next <| if s.dist.sv.state == .draining && s.dist.sv.drainAt.isSome && drainEmpty s then drainDone s else s

def drainLimit (s : State) : Nat := clampN 1 10000 (s.cfg .dist 0x130 0x64) * 64000000

/-- DRAIN_LIMIT_EXPIRE: at E1 + DRAIN_LIMIT the distributor frees what remains. -/
def execDrainLimitExpire (s : State) : Host.Outcome State Fault Refusal :=
  .next <|
    if s.dist.sv.state == .draining && s.dist.sv.drainAt.any (fun x => decide (drainLimit s ≤ elapsed (s.now .dist) x)) then
      let s := s.dist.fab.posts.foldl postFree s
      let s := s.dist.fab.bars.foldl barFree s
      let s := s.modBase .dist fun b => { b with
        ports := tmapAll {} (fun _ q => { q with tx := { q.tx with p1 := [], p2 := [] } }) b.ports }
      drainDone s
    else s

end Sys2Proof.Machine
end

