-- ==== Sys2Proof/Machine/Links.lean ====
section
/-! DEFINITION. Links: training, changes at an agreed tick, slots and calibration (R98 to R128, R141 to R146). -/

namespace Sys2Proof.Machine

open Sys2Proof

/-! ### Training (R116) -/

/-- PORT_ENABLE_WRITE: ENABLE in PORT_CONTROL; cleared, the port goes DOWN (R116). A write to an unused port of a
distributor is ignored (R58). -/
def execPortEnableWrite (p : Part) (port : Nat) (enable : Bool) (s : State) : Host.Outcome State Fault Refusal :=
  onPort p port s fun s =>
    if p == .dist && portUse s.role port == 0 then s
    else
      let s := s.modPort p port fun q => { q with link := { q.link with enable }, lasersOn := enable && q.link.optical }
      if enable then tryTrain s p port else toDown s p port

/-- PORT_RETRAIN_WRITE: the leader orders a retrain, the follower requests it (R120). -/
def execPortRetrainWrite (p : Part) (port : Nat) (s : State) : Host.Outcome State Fault Refusal :=
  onPort p port s fun s => if (s.port p port).live then wantChange s p port 4 0x3F else s

/-- SIGNAL_DETECT: signal on a lane; an enabled port leaves DOWN (R98, R116). -/
def execSignalDetect (p : Part) (port lane : Nat) (s : State) : Host.Outcome State Fault Refusal :=
  onLane p port lane s fun s =>
    tryTrain (s.modLink p port fun k => { k with lanes := tmod {} k.lanes lane fun l => { l with signal := true } }) p port

/-- What every TRAIN cell brings: the lane that carried it is in block lock, and the neighbour's GOOD and CAP. -/
def trainSeen (s : State) (p : Part) (i : Nat) (t : Train) : State :=
  s.modLink p i fun k => { k with
    lanes := if t.phys = 3 then k.lanes else tmod {} k.lanes t.phys.toNat fun l => { l with signal := true, lock := true }
    nbrGood := t.good, optical := k.optical || t.cap.getLsbD 1 }

/-- A TRAIN cell whose CRC fails is discarded and counted (R109). -/
def trainIn (s : State) (p : Part) (i : Nat) (t : Train) (f : State → State) : State :=
  if t.crcOk then f s else s.count p .cellCrc i { port := some i } 1

/-- TS1_RECEIVE: TS2 is sent from now on (R116); a follower that sees the leader's TS1 restarts in step with it
(R127). -/
def execTs1Receive (p : Part) (port : Nat) (t : Train) (s : State) : Host.Outcome State Fault Refusal :=
  onPort p port s fun s => trainIn s p port t fun s =>
    if (s.port p port).link.state != .train then s
    else (trainSeen s p port t).modLink p port fun k => { k with
      sendKind := 2, ts2Rx := if t.cap.getLsbD 2 then 0 else k.ts2Rx }

/-- TS2_RECEIVE: after 16 in a row from a matching neighbour the port enters ALIGN, where the leader sends its map; a
neighbour that does not match is a wiring fault (R63, R116). -/
def execTs2Receive (p : Part) (port : Nat) (t : Train) (s : State) : Host.Outcome State Fault Refusal :=
  onPort p port s fun s => trainIn s p port t fun s =>
    if (s.port p port).link.state != .train then s
    else
      let s := (trainSeen s p port t).modLink p port fun k => { k with rxNode := t.node, rxPort := t.port }
      if !nbrOk s p port t.node t.port then
        let was := (s.port p port).link.wiring
        let s := s.modLink p port fun k => { k with wiring := true, ts2Rx := 0 }
        if was then s else s.alert p (match p with | .tsu => 2 | .dist => 0)
      else
        let s := s.modLink p port fun k => { k with ts2Rx := k.ts2Rx + 1, wiring := false }
        if (s.port p port).link.ts2Rx < 16 || (s.port p port).link.sendKind != 2 || (s.base p).t.refclkRange then s
        else
          let s := setLink s p port .align
          if linkLeader s p port then
            s.modLink p port fun k => { k with sendKind := 3, alignMap := some (mapOf (goodLanes k)) }
          else s.modLink p port fun k => { k with sendKind := 0 }

/-- ALIGN_MAP_RECEIVE: the follower takes the leader's map, answers ALIGN_DONE and enters TIMECAL (R116). -/
def execAlignMapReceive (p : Part) (port : Nat) (t : Train) (s : State) : Host.Outcome State Fault Refusal :=
  onPort p port s fun s => trainIn s p port t fun s =>
    if (s.port p port).link.state != .align || linkLeader s p port then s
    else
      let s := (trainSeen s p port t).modLink p port fun k => { k with alignMap := some t.map }
      (toTimecal s p port t.map).modLink p port fun k => { k with sendKind := 4 }

/-- ALIGN_DONE_RECEIVE: the leader enters TIMECAL when the answer carries the same MAP (R116). -/
def execAlignDoneReceive (p : Part) (port : Nat) (t : Train) (s : State) : Host.Outcome State Fault Refusal :=
  onPort p port s fun s => trainIn s p port t fun s =>
    let k := (s.port p port).link
    if k.state != .align || !linkLeader s p port || k.alignMap != some t.map then s
    else toTimecal (trainSeen s p port t) p port t.map

/-- TRAIN_RETRY: no lane in block lock for 10 ms (R116). -/
def execTrainRetry (p : Part) (port : Nat) (s : State) : Host.Outcome State Fault Refusal :=
  onPort p port s fun s =>
    let k := (s.port p port).link
    if k.state != .train || k.lanes.any (fun l => l.2.lock) || decide (since s p k.since < msCyc 10) then s
    else
      let now := cyc s p
      (s.modLink p port fun k => { k.restart with since := now }).count p .trainRetry port { port := some port } 1

/-- ALIGN_TIMEOUT: no ALIGN_DONE within 1 ms of entry (R116). -/
def execAlignTimeout (p : Part) (port : Nat) (s : State) : Host.Outcome State Fault Refusal :=
  onPort p port s fun s =>
    let k := (s.port p port).link
    if k.state != .align || decide (since s p k.since < msCyc 1) then s else toTrain s p port

/-- CAL_RECEIVE: the leader's announcement of the next lane to leave the marker stream (R143). -/
def execCalReceive (p : Part) (port : Nat) (t : Train) (s : State) : Host.Outcome State Fault Refusal :=
  onPort p port s fun s => trainIn s p port t fun s =>
    let k := (s.port p port).link
    if k.state != .timecal || linkLeader s p port then s
    else (trainSeen s p port t).modLink p port fun k => { k with
      calCell := some { kind := 0, map := t.map, tick := t.ntick, id := 0 } }

/-- TIMECAL_COMPLETE: every lane that can be taken out has valid values at both ends, or the one window of a single-lane
link has passed; a round trip beyond R70 keeps the port in TIMECAL with RANGE_FAULT (R45, R70, R116, R143). -/
def execTimecalComplete (p : Part) (port : Nat) (s : State) : Host.Outcome State Fault Refusal :=
  onPort p port s fun s =>
    let q := s.port p port
    let k := q.link
    if k.state != .timecal || !(calLanes k).isEmpty || (decide ((goodLanes k).length ≤ 1) && decide (since s p k.since < 262144)) then s
    else if k.range then
      (match p with
        | .tsu => s
        | .dist => s.alert .dist 1)
    else
      let m := (k.alignMap).getD k.map
      let s := s.modPort p port fun q => { q with
        link := { q.link with map := m, sendKind := 6, calCell := none }
        mark := { q.mark with rxSeeded := true, txSeeded := false, goodRun := 0, badRun := 0 } }
      let s := renewAge (setLink s p port (liveState (s.port p port).link)) p port
      if p == .dist && (peerPorts s).contains port then copyAsk s else s

/-- UNPLANNED_RETRAIN: no slot 0 cell with a good CRC for 64 ticks (R116). -/
def execUnplannedRetrain (p : Part) (port : Nat) (s : State) : Host.Outcome State Fault Refusal :=
  onPort p port s fun s =>
    let q := s.port p port
    if q.live && decide (64 ≤ q.mark.noSlot0) then toTrain s p port else s

/-- LOSS_OF_SIGNAL: no signal on any lane for 1 ms: DOWN (R116). -/
def execLossOfSignal (p : Part) (port : Nat) (s : State) : Host.Outcome State Fault Refusal :=
  onPort p port s fun s =>
    if (s.port p port).link.state == .down then s else toDown s p port

/-! ### Lanes (R118, R119) -/

/-- LANE_FAIL: a lane loses block lock or signal; an active one asks for a change (R119), the spare is no longer
trained. -/
def execLaneFail (p : Part) (port lane : Nat) (s : State) : Host.Outcome State Fault Refusal :=
  onLane p port lane s fun s =>
    let s := s.modLink p port fun k => { k with
      lanes := tmod {} k.lanes lane fun l => { l.lose with failed := true }
      spareHere := k.spareHere && mapSp k.map != lane }
    laneChange (settleLive s p port) p port lane

/-- LANE_WARN: invalid sync headers beyond LANE_WARN_LIMIT (R119). -/
def execLaneWarn (p : Part) (port lane : Nat) (s : State) : Host.Outcome State Fault Refusal :=
  onLane p port lane s fun s =>
    laneChange (s.modLink p port fun k => { k with lanes := tmod {} k.lanes lane fun l => { l with warned := true } }) p port lane

/-- SPARE_TRAINED: the spare is trained at both ends (R118); at width 1 the leader orders width 2 (R123). -/
def execSpareTrained (p : Part) (port : Nat) (s : State) : Host.Outcome State Fault Refusal :=
  onPort p port s fun s =>
    let k := (s.port p port).link
    let sp := mapSp k.map
    if !(s.port p port).live || sp = 3 then s
    else
      let s := s.modLink p port fun k => { k with
        spareHere := true, spareThere := true
        lanes := tmod {} k.lanes sp fun l => { l with lock := true, failed := false, warned := false } }
      let s := settleLive s p port
      if !width2 k.map && linkLeader s p port && k.order.isNone then
        orderChange s p port 3 (mkMap (mapA0 k.map) sp 3) 0
      else s

/-- SPARE_NOT_TRAINED: UP becomes DEGRADED (R116, R118). -/
def execSpareNotTrained (p : Part) (port : Nat) (s : State) : Host.Outcome State Fault Refusal :=
  onPort p port s fun s =>
    settleLive (s.modLink p port fun k => { k with spareHere := false, spareThere := false }) p port

/-! ### Changes (R120 to R127) -/

/-- CHANGE_REQ_RECEIVE: the leader orders what the follower asks, or revises its pending order to the change that comes
first in R125. -/
def execChangeReqReceive (p : Part) (port : Nat) (t : Train) (s : State) : Host.Outcome State Fault Refusal :=
  onPort p port s fun s => trainIn s p port t fun s =>
    if !(s.port p port).live || !linkLeader s p port then s
    else
      let s := trainSeen s p port t
      let k := (s.port p port).link
      let m := if t.ckind = 2 then mapOf ((fineLanes k).take 1) else t.map
      match k.order with
      | none => orderChange s p port t.ckind (if m = 0x3F then t.map else m) 0
      | some o =>
        if changeRank t.ckind < changeRank o.kind then
          (orderChange s p port t.ckind (if m = 0x3F then t.map else m) 0).modLink p port fun k => { k with rotLeft := 0 }
        else s

/-- CHANGE_ORDER_RECEIVE: the follower keeps the order with the highest ORDER_ID received by N - 4, drops its own request
and acknowledges (R121, R125, R126). -/
def execChangeOrderReceive (p : Part) (port : Nat) (t : Train) (s : State) : Host.Outcome State Fault Refusal :=
  onPort p port s fun s => trainIn s p port t fun s =>
    if !(s.port p port).live || linkLeader s p port then s
    else
      let n := tickOf (s.now p)
      (trainSeen s p port t).modLink p port fun k =>
        let o : Order := { kind := t.ckind, map := t.map, tick := t.ntick, id := t.orderId }
        let k := { k with request := none, ackTo := some t.orderId }
        if epochDiff t.orderId k.seenId ≤ 0 then k
        else
          let k := { k with seenId := t.orderId }
          match k.order with
          | some old => if 4 < tickDiff old.tick n then { k with order := some o } else { k with later := some o }
          | none => { k with order := some o }

/-- CHANGE_ACK_RECEIVE (R121). -/
def execChangeAckReceive (p : Part) (port : Nat) (t : Train) (s : State) : Host.Outcome State Fault Refusal :=
  onPort p port s fun s => trainIn s p port t fun s =>
    (trainSeen s p port t).modLink p port fun k => { k with
      order := k.order.map fun o => if o.id = t.orderId then { o with acked := true } else o }

/-- SWAP_COPY_START: from the tick edge of N - 2 the leaving lane's blocks are copied onto the spare (R122). -/
def execSwapCopyStart (p : Part) (port : Nat) (s : State) : Host.Outcome State Fault Refusal :=
  onPort p port s fun s =>
    let n := tickOf (s.now p)
    s.modLink p port fun k =>
      if k.order.any fun o => (o.kind == 1 || o.kind == 5) && decide (tickDiff o.tick n ≤ 2) then { k with copying := true }
      else k

/-- A new map from tick N: a swapped or newly spare lane must train again, and samples do not straddle N (R122, R123,
R142). -/
def newMap (s : State) (p : Part) (i : Nat) (m : BitVec 6) (n : Tick) : State :=
  let s := s.modPort p i fun q => { q with
    link := { q.link with map := m, copying := false, spareHere := false, spareThere := false }
    mark := { q.mark with mapTick := some n } }
  renewAge (settleLive s p i) p i

/-- LINK_CHANGE_APPLY: both ends apply the order at the tick edge of N; `matched` says whether the receiver found a
matching block in the copy window (R121 to R124, R127). In TIMECAL the announced turn takes its lane out (R143). -/
def execLinkChangeApply (p : Part) (port : Nat) (matched : Bool) (s : State) : Host.Outcome State Fault Refusal :=
  onPort p port s fun s =>
    let n := tickOf (s.now p)
    let k := (s.port p port).link
    if k.state == .timecal then
      (match k.calCell with
        | some o => if tickDiff n o.tick < 0 then s
            else s.modPort p port fun q => { q with
              link := { q.link with map := o.map, calCell := none }, mark := { q.mark with mapTick := some o.tick } }
        | none => s)
    else match k.order with
      | none => s
      | some o =>
        if tickDiff n o.tick < 0 || !(s.port p port).live then s
        else
          let s := if linkLeader s p port && !o.acked then s.count p .changeNoack port { port := some port } 1 else s
          let s := s.modLink p port fun k => { k with order := k.later, later := none, ackTo := none }
          if o.kind = 4 then toTrain s p port
          else if o.kind = 1 ∨ o.kind = 5 then
            let s := if matched then s else s.count p .swapUnmatched port { port := some port } 1
            let s := if p == .dist then s.event .dist 0x058 { port := some port } 1 else s
            let s := newMap s p port o.map o.tick
            if o.kind = 5 then s.modLink p port fun k => { k with
              rotNext := o.tick + 4096, dwell := if mapSp o.map = 3 then none else some (mapSp o.map) }
            else s
          else newMap s p port o.map o.tick

/-! ### Slots (R112 to R114, R318 to R320) -/

/-- last_slot at the width in force (R112). -/
def lastSlot (k : Link) : Nat := if width2 k.map then 24 else 11

/-- A port's first slot of a new tick renews its per-tick counts (R112, R339). -/
def Sender.renew (n : Tick) (x : Sender) : Sender :=
  match x.slotTick with
  | some m =>
    if m = n then x
    else { x with
      slotTick := some n, changeSent := false, p2Last := x.p2Used, p2Used := 0
      p3Gap := min 3 (x.p3Gap + (tickDiff n m).toNat) }
  | none => { x with slotTick := some n, changeSent := false, p2Last := x.p2Used, p2Used := 0 }

/-- A slice's P2 weight on a port (R114, R314). -/
def p2Weight (s : State) (p : Part) (i slice : Nat) : Nat :=
  match p with
  | .tsu => 8
  | .dist => max 1 (tget 8 s.dist.fab.weights (i * 64 + slice))

/-- Whether the head of a slice's queue may leave: LEDGER cells leave a row distributor at most 4 per tick on each root
uplink (R318). -/
def p2Ready (s : State) (p : Part) (i : Nat) (q : List OutCell) : Bool :=
  match q with
  | [] => false
  | c :: _ => match c.body with
    | .ledger _ => !(p == .dist && s.role == .row && decide (96 ≤ i) && decide (4 ≤ tget 0 s.dist.fab.ledgerSent i))
    | _ => true

/-- Deficit round robin (R114): the slice that sends next, with the sender's new round state. -/
def drrPick (s : State) (p : Part) (i : Nat) : Option (Nat × Sender) :=
  let x := (s.port p i).tx
  let ready := (x.p2.filter fun e => p2Ready s p i e.2).map (·.1)
  if x.visiting && ready.contains x.turn && decide (1 ≤ tget 0 x.deficit x.turn) then
    some (x.turn, { x with deficit := tmod 0 x.deficit x.turn (· - 1) })
  else
    let next := match ready.find? (fun k => decide (x.turn < k)) with
      | some k => some k
      | none => ready.head?
    next.map fun k => (k, { x with
      turn := k, visiting := true, deficit := tset 0 x.deficit k (tget 0 x.deficit k + p2Weight s p i k - 1) })

/-- A cell on the wire takes the next SEQ; a message of several cells stays at the front until its last (R108, R111). -/
def putWire (c : OutCell) (x : Sender) : Sender :=
  { x with wire := some { c with last := c.last && decide (c.cells ≤ 1) }, wireSeq := x.seq, seq := x.seq + 1 }

/-- What is left of a queue after one cell of its head has gone. -/
def afterCell : List OutCell → List OutCell
  | c :: t => if 1 < c.cells then { c with cells := c.cells - 1, first := false } :: t else t
  | [] => []

/-- Cell times waited, of 10.24 ns at width 2 and 20.48 ns at width 1 (R100, R320). -/
def cellTimes (k : Link) (e : Nat) : Nat := e * 100 / (if width2 k.map then 65536 else 131072)

/-- Sends the next P2 cell, with its accounting and histogram sample (R320, R438). -/
def sendNextP2 (s : State) (p : Part) (i slice : Nat) (x : Sender) : State :=
  match tget [] x.p2 slice with
  | [] => s
  | c :: t =>
    let rest := afterCell (c :: t)
    let x := putWire c { x with
      p2 := tset [] x.p2 slice rest, p2Used := x.p2Used + 1
      deficit := if rest.isEmpty then tset 0 x.deficit slice 0 else x.deficit
      visiting := x.visiting && !rest.isEmpty }
    let s := s.modPort p i fun q => { q with tx := x }
    let wait := elapsed (s.now p) c.at_
    let w := cellTimes (s.port p i).link wait
    let k := match p with | .tsu => i | .dist => i * 64 + slice
    let f : Flt := { slice := some slice, port := some i }
    let s := s.count p .p2Cells k f 1
    let s := (s.count p .p2Wait k f w).maxCtr p .p2WaitMax k w
    let s := s.event p 0x051 f 1
    let s := match c.body with
      | .ledger _ => if p == .dist then { s with dist.fab.ledgerSent := tmod 0 s.dist.fab.ledgerSent i (· + 1) } else s
      | _ => s
    if p == .dist then s.hist .dist 8 wait f else s

/-- Sends the next P1 or P3 cell. -/
def sendNextP1 (s : State) (p : Part) (i : Nat) : State :=
  match (s.port p i).tx.p1 with
  | [] => s
  | c :: t =>
    (s.modPort p i fun q => { q with tx := putWire c { q.tx with p1 := afterCell (c :: t) } }).event p 0x050
      { slice := some c.slice, port := some i } 1

def sendNextP3 (s : State) (p : Part) (i : Nat) : State :=
  match (s.port p i).tx.p3 with
  | [] => s
  | c :: t =>
    (s.modPort p i fun q => { q with tx := putWire c { q.tx with p3 := afterCell (c :: t), p3Gap := 0 } }).event p 0x052
      { port := some i } 1

/-- SLOT_TRANSMIT: the cell of a traffic slot, by the rule of R112. A part that holds no epoch sends no P1, P2 or P3 cell
(R376). -/
def execSlotTransmit (p : Part) (port slot : Nat) (s : State) : Host.Outcome State Fault Refusal :=
  onPort p port s fun s =>
    let k := (s.port p port).link
    if !(s.port p port).live || slot = 0 || decide (lastSlot k < slot) then s
    else
      let n := tickOf (s.now p)
      let fresh := (s.port p port).tx.slotTick != some n
      let s := s.modPort p port fun q => { q with tx := q.tx.renew n }
      let s := if fresh && p == .dist then { s with dist.fab.ledgerSent := tset 0 s.dist.fab.ledgerSent port 0 } else s
      let x := (s.port p port).tx
      match (if x.changeSent then none else changePending s p port) with
      | some t => s.modPort p port fun q => { q with tx := { q.tx with wireTrain := some t, changeSent := true } }
      | none =>
        if !(s.base p).ep.have_ then s
        else if slot = lastSlot k && x.p3Gap = 3 && !x.p3.isEmpty then sendNextP3 s p port
        else if !x.p1.isEmpty then sendNextP1 s p port
        else if !x.copy.isEmpty && decide (x.copyUsed < 20) then
          sendNextP1 (s.modPort p port fun q => { q with tx := { q.tx with
            p1 := q.tx.copy.take 1, copy := q.tx.copy.drop 1, copyUsed := q.tx.copyUsed + 1 } }) p port
        else match drrPick s p port with
          | some (slice, x') => sendNextP2 s p port slice x'
          | none => if x.p3.isEmpty then s else sendNextP3 s p port

/-! ### Calibration (R143 to R146) -/

/-- ROT_PERIOD in cycles (R144). -/
def rotPeriod (s : State) (p : Part) : Nat := clampN 60 3600 (s.cfg p 0x140 600) * msCyc 1000

/-- ROTATION_START: the leader of an UP link starts a rotation every ROT_PERIOD, one port at a time (R144). -/
def execRotationStart (p : Part) (port : Nat) (s : State) : Host.Outcome State Fault Refusal :=
  onPort p port s fun s =>
    let k := (s.port p port).link
    let busy := (s.base p).ports.any fun e => decide (0 < e.2.link.rotLeft)
    if !linkLeader s p port || k.state != .up || busy || k.order.isSome || decide (since s p k.rotAt < rotPeriod s p) then s
    else
      let now := cyc s p
      s.modLink p port fun k => { k with rotLeft := 3, rotAt := now, dwell := some (mapSp k.map), rotNext := 0 }

/-- CAL_JUMP in 1/16 tu (R145). -/
def calJump (s : State) (p : Part) : Nat := clampN 10 1000 (s.cfg p 0x150 0x28) * 1024 / 1000

/-- Whether two measurements lie within `d` of each other in both directions. -/
def within (d : Nat) (a b : BitVec 16 × BitVec 16) : Bool :=
  decide (((a.1.toNat : Int) - b.1.toNat).natAbs ≤ d) && decide (((a.2.toNat : Int) - b.2.toNat).natAbs ≤ d)

def setLane (s : State) (p : Part) (i l : Nat) (f : Lane → Lane) : State :=
  s.modLink p i fun k => { k with lanes := tmod {} k.lanes l f }

/-- A measurement is adopted. -/
def calAdopt (s : State) (p : Part) (i l : Nat) (x : BitVec 16 × BitVec 16) : State :=
  let now := cyc s p
  renewAge (setLane s p i l fun y => { y with
    ownTx := x.1, ownRx := x.2, calValid := true, measured := true, retest := none, at_ := now }) p i

/-- A measurement of a lane against the one before it (R145). -/
def calMeasure (s : State) (p : Part) (i l : Nat) (x : BitVec 16 × BitVec 16) : State :=
  let y := laneOf (s.port p i) l
  if !y.measured || within (calJump s p) x (y.ownTx, y.ownRx) then calAdopt s p i l x
  else match y.retest with
    | none => setLane s p i l fun y => { y with retest := some x }
    | some z =>
      if within (calJump s p / 2) x z then (calAdopt s p i l x).count p .calShift i { port := some i } 1
      else
        suspect ((setLane s p i l fun y => { y with retest := none }).count p .calReject i { port := some i } 1) p (s.node p)
          causeCal { opref := BitVec.ofNat 32 i, port := some i }

/-- After a dwell of a rotation the leader orders the next swap: into active role 0, 1 and 0 (R144). -/
def rotAdvance (s : State) (p : Part) (i : Nat) : State :=
  let k := (s.port p i).link
  if !linkLeader s p i || k.rotLeft = 0 || k.order.isSome then s
  else
    let s := orderChange s p i 5 (swapMap k.map (k.rotLeft == 2)) k.rotNext
    s.modLink p i fun k => { k with rotLeft := k.rotLeft - 1, dwell := none }

/-- CAL_DWELL_END: both pad samplers have measured a lane that is out of the stream (R141, R143 to R145). -/
def execCalDwellEnd (p : Part) (port lane : Nat) (tx rx : BitVec 16) (s : State) : Host.Outcome State Fault Refusal :=
  onLane p port lane s fun s =>
    let q := s.port p port
    if !(laneOf q lane).lock || mapActive q.link.map lane || !(q.live || q.link.state == .timecal) then s
    else
      let s := calMeasure s p port lane (tx, rx)
      if q.link.state == .timecal then calNext s p port
      else if (laneOf (s.port p port) lane).retest.isSome then s
      else rotAdvance s p port

/-- CAL_AGE_STEP: the bound of a timing lane that no rotation measures grows with its age (R146). -/
def execCalAgeStep (p : Part) (port : Nat) (s : State) : Host.Outcome State Fault Refusal :=
  onPort p port s fun s => renewAge s p port

end Sys2Proof.Machine
end

