-- ==== Sys2Proof/Machine/Measure.lean ====
section
/-! DEFINITION. Measurement, the flight recorder and the performance counters: the commands of chapters 15 and 16
(R409 to R440). -/

namespace Sys2Proof.Machine

open Sys2Proof

/-! ### Stamps (R411 to R415) -/

/-- Whether a channel takes an edge of this kind: EDGE on the event inputs, INT_SRC on the internal channels, which
deliver nothing while mark-path calibration runs (R409, R410). -/
def chanTakes (s : State) (p : Part) (n : Nat) (fall : Bool) : Bool :=
  let c := s.chan p n
  let edge := c.edge == 2 || (c.edge == 1) == fall
  match p with
  | .tsu =>
    if n = 4 ∨ n = 5 then edge
    else if n = 6 ∨ n = 7 then
      c.intSrc != 0 && !(s.tsu.die.state == .blank && !s.tsu.mark.calDone && !s.tsu.b.t.held)
    else true
  | .dist => if 128 ≤ n ∧ n ≤ 131 then edge else true

/-- The interpolator that takes an event at `st`: the one whose turn it is, else the other if idle; none when both
are busy (R412). On a distributor's port channels A takes the receive marker and B the transmit marker (R410). -/
def interpFor (p : Part) (n : Nat) (c : Channel) (tx : Bool) (st : St) : Option Bool :=
  let busy := fun b => if b then c.usedB && stLater c.freeB st else c.usedA && stLater c.freeA st
  if p == .dist && decide (n < 128) then (if busy tx then none else some tx)
  else if !busy c.nextB then some c.nextB
  else if !busy !c.nextB then some !c.nextB
  else none

/-- An interpolator is busy for 4 ns from `st`. -/
def interpUse (b : Bool) (st : St) (c : Channel) : Channel :=
  if b then { c with usedB := true, freeB := st + tu 256, nextB := false }
  else { c with usedA := true, freeA := st + tu 256, nextB := true }

/-- The stamp of an event `tap` taps past the present edge; on an internal channel with INT_SRC 3 less L_path and
T_TURN, which are held in 1/256 tu (R409, R411). -/
def stampOf (s : State) (p : Part) (n tap : Nat) : St :=
  let st := s.now p + tu tap
  if p == .tsu && decide (n = 6 ∨ n = 7) && (s.chan p n).intSrc == 3 then
    st - tu (((s.region s.tsu.mark.echo).lpath.toNat + s.tsu.mark.tTurn) / 256)
  else st

/-- TIM_EVENT: an edge on a channel, `tap` taps past the present time-clock edge (R411 to R415). -/
def execTimEvent (p : Part) (channel : Nat) (fall tx : Bool) (tap : Nat) (s : State) :
    Host.Outcome State Fault Refusal :=
  onUnit (decide (channel < chanCount p ∧ tap < 64)) s fun s =>
    let c := s.chan p channel
    if !chanTakes s p channel fall then s
    else if !c.lock then s.count p .timUnlocked channel {} 1
    else
      let st := stampOf s p channel tap
      match interpFor p channel c tx (s.now p + tu tap) with
      | none => s.count p .timDrop channel {} 1
      | some b =>
        let s := s.modChan p channel (interpUse b (s.now p + tu tap))
        let s := if p == .dist && !fall then refStamp s channel st else s
        stampAccept p channel (st, (s.base p).perf.cycles.toNat, tap) {
          st, fall, tx, interpB := b, faulty := decide (2 ≤ (if b then c.failsB else c.failsA))
          region := if p == .tsu && decide (6 ≤ channel) && decide (2 ≤ c.intSrc) then s.tsu.mark.echo else 0 } s

/-- TIM_SELF_CHECK: after every 1,024th stamp a channel checks an interpolator, A and B in turn; beyond 2 tu it sets
TIM_FAULT, writes an entry and raises the event of R335, which the second failure in a row makes hard (R413). -/
def execTimSelfCheck (p : Part) (channel : Nat) (interpB : Bool) (value : Int) (s : State) :
    Host.Outcome State Fault Refusal :=
  onUnit (decide (channel < chanCount p)) s fun s =>
    let c := s.chan p channel
    if !c.checkDue || c.checkB != interpB then s
    else
      let bad := decide (2 < value.natAbs)
      let fails := if bad then (if interpB then c.failsB else c.failsA) + 1 else 0
      let s := s.modChan p channel fun c =>
        let c := { interpUse interpB (s.now p) c with nextB := c.nextB, checkDue := false, checkB := !interpB, fault := c.fault || bad }
        if interpB then { c with failsB := fails, checkValB := value } else { c with failsA := fails, checkValA := value }
      if !bad then s
      else
        let s := s.fr p 6 (beBytes 1 channel ++ beBytes 1 (bit interpB) ++ beBytes 1 (twos 8 value)
          ++ beBytes 1 (sat 255 fails)) false
        let x : Ctx := { opref := BitVec.ofNat 32 channel, detail := BitVec.ofInt 32 value }
        if 2 ≤ fails then hardEvent s p (s.node p) causeInterp x else suspect s p (s.node p) causeInterp x

/-- DLL_LOCK: an interpolator's loop locks and its channel begins taking stamps (R411). -/
def execDllLock (p : Part) (channel : Nat) (s : State) : Host.Outcome State Fault Refusal :=
  onUnit (decide (channel < chanCount p)) s fun s => s.modChan p channel fun c => { c with lock := true }

/-! ### Statistics and intervals (R417 to R421) -/

/-- STAT_START: a write of STAT_CONTROL; START discards a run in progress and begins a new one (R418, R498). -/
def execStatStart (p : Part) (unit : Nat) (v : W64) (s : State) : Host.Outcome State Fault Refusal :=
  onUnit (decide (unit < chanCount p + unitCount p)) s fun s =>
    let n := v.toNat
    let src := min 2 (bits n 4 3)
    (s.modStat p unit fun u =>
      let u := { u with src, phaseAlign := tbit n 5 }
      if tbit n 0 then { u with
        running := true, prev := none, count := 0, sum := 0, sumSq := 0, min := 0, max := 0, range := false
        done := false }
      else u).clamped p (decide (src ≠ bits n 4 3))

/-- INT_CONTROL_WRITE: an open interval is discarded; a channel beyond the part's is clamped (R499, R522). -/
def execIntControlWrite (p : Part) (unit : Nat) (v : W64) (s : State) : Host.Outcome State Fault Refusal :=
  onUnit (decide (unit < unitCount p)) s fun s =>
    let n := v.toNat
    let a := match p with | .tsu => bits n 6 4 | .dist => bits n 15 8
    let b := match p with | .tsu => bits n 10 8 | .dist => bits n 23 16
    let m := chanCount p - 1
    (s.modUnit p unit fun u => { u with
      enable := tbit n 0, start := min a m, stop := min b m, open_ := none }).clamped p (decide (m < a ∨ m < b))

/-- INT_LEGACY_TIMEOUT: an interval open for TIM_LEGACY_TIMEOUT closes without a stop stamp (R421). -/
def execIntLegacyTimeout (p : Part) (unit : Nat) (s : State) : Host.Outcome State Fault Refusal :=
  onUnit (decide (unit < unitCount p)) s fun s =>
    let u := s.unit p unit
    match u.open_ with
    | none => s
    | some a =>
      if u.timeout = 0 ∨ (s.base p).perf.cycles.toNat < a.2.1 + u.timeout.toNat then s
      else intPut p unit {
        tu := BitVec.ofNat 64 (u.timeout.toNat * 64), ns := u.timeout, fine := 0, ovf := 0, timeout := true }
        (s.modUnit p unit fun u => { u with open_ := none })

/-! ### The flight recorder (R425 to R428) -/

def State.modFr (s : State) (p : Part) (f : Recorder → Recorder) : State := s.modBase p fun b => { b with fr := f b.fr }

/-- FR_ARM: in FROZEN or IDLE the ring is cleared, with SEQ and FR_PRE_COUNT (R426). -/
def execFrArm (p : Part) (s : State) : Host.Outcome State Fault Refusal :=
  .next <| s.modFr p fun r =>
    if r.state == .frozen || r.state == .idle then
      { r with state := .rearming, ring := [], wp := 0, written := 0, preCount := 0, left := 0, first := 0 }
    else r

/-- FR_DISARM (R426). -/
def execFrDisarm (p : Part) (s : State) : Host.Outcome State Fault Refusal :=
  .next <| s.modFr p fun r => { r with state := .idle }

/-- FR_TRIGGER: trigger source 0x05 (R425). -/
def execFrTrigger (p : Part) (s : State) : Host.Outcome State Fault Refusal := .next (s.frTrigger p 5 0 0)

/-- MISSED_CLR (R428). -/
def execMissedClr (p : Part) (s : State) : Host.Outcome State Fault Refusal :=
  .next <| s.modFr p fun r => { r with missed := 0, missedFirst := 0 }

/-- FR_REARM_COMPLETE: the ring is clear and the recorder ARMED (R426). -/
def execFrRearmComplete (p : Part) (s : State) : Host.Outcome State Fault Refusal :=
  .next <| s.modFr p fun r => if r.state == .rearming then { r with state := .armed } else r

/-- FR_FREEZE: C - P - 1 entries have been written after the trigger (R426, R427). -/
def execFrFreeze (p : Part) (s : State) : Host.Outcome State Fault Refusal :=
  .next <| s.modFr p fun r => if r.state == .triggered && r.left == 0 then { r with state := .frozen } else r

/-- FR_SOFTWARE_WRITE: the write of the last FR_WRITE word writes a SOFTWARE entry with the six words (R424, R500). -/
def execFrSoftwareWrite (p : Part) (data : W64) (s : State) : Host.Outcome State Fault Refusal :=
  .next <|
    let words := (s.base p).fr.soft.take 5 ++ [data]
    (s.modFr p fun r => { r with soft := words }).fr p 10 (words.flatMap fun w => leBytes 8 w.toNat) false

/-! ### Counters and histograms (R429 to R439) -/

/-- The events that a part's table lists (R436, R437). -/
def eventListed (p : Part) (e : Nat) : Bool :=
  let both := e == 1 || e == 2 || (0x10 ≤ e && e ≤ 0x12) || (0x50 ≤ e && e ≤ 0x56)
  match p with
  | .tsu => both || (0x13 ≤ e && e ≤ 0x18) || (0x20 ≤ e && e ≤ 0x27) || (0x30 ≤ e && e ≤ 0x37)
      || (0x40 ≤ e && e ≤ 0x44) || (0x60 ≤ e && e ≤ 0x62) || e == 0x68 || e == 0x69
  | .dist => both || (0x57 ≤ e && e ≤ 0x59) || (0x80 ≤ e && e ≤ 0x8D) || (0x90 ≤ e && e ≤ 0x93)

/-- A PERF_SEL word as it is stored: an unlisted EVENT as 0, PORT and REGION clamped, CLEAR and reserved bits 0; and
whether it was clamped (R430, R431). -/
def perfSelOf (p : Part) (v : Nat) : Nat × Bool :=
  let ev := bits v 9 0
  let ports := match p with | .tsu => 1 | .dist => 127
  let region := match p with | .tsu => bits v 31 24 | .dist => 0
  let word := bit (tbit v 63) * 2 ^ 63 + bit (tbit v 61) * 2 ^ 61 + bits v 47 40 * 2 ^ 40 + min (bits v 39 33) ports * 2 ^ 33
    + (if p == .tsu then bit (tbit v 32) * 2 ^ 32 else 0) + min region 143 * 2 ^ 24
    + (if eventListed p ev then ev else 0)
  (word, decide (ports < bits v 39 33) || decide (143 < region))

def State.modPerf (s : State) (p : Part) (f : Perf → Perf) : State := s.modBase p fun b => { b with perf := f b.perf }

/-- The value of a counter becomes 0; OVF stays (R430). -/
def perfZero (n : Nat) (q : Perf) : Perf := { q with ctrs := tmod {} q.ctrs n fun c => { c with val := 0 } }

/-- A write of PERF_SEL[n]. -/
def perfSelPut (p : Part) (n : Nat) (v : W64) (s : State) : State :=
  let w := perfSelOf p v.toNat
  let s := s.modPerf p fun q => { q with ctrs := tmod {} q.ctrs n fun c => { c with sel := BitVec.ofNat 64 w.1 } }
  (if tbit v.toNat 62 then s.modPerf p (perfZero n) else s).clamped p w.2

/-- PERF_SEL_WRITE (R430, R431). -/
def execPerfSelWrite (p : Part) (n : Nat) (v : W64) (s : State) : Host.Outcome State Fault Refusal :=
  onUnit (decide (n < 8)) s (perfSelPut p n v)

/-- PERF_CLEAR: CLEAR zeroes the counter (R430). -/
def execPerfClear (p : Part) (n : Nat) (s : State) : Host.Outcome State Fault Refusal :=
  onUnit (decide (n < 8)) s fun s => s.modPerf p (perfZero n)

/-- PERF_FREEZE: all eight programmable counters stop or restart at one edge (R431). -/
def execPerfFreeze (p : Part) (freeze : Bool) (s : State) : Host.Outcome State Fault Refusal :=
  .next <| s.modPerf p fun q => { q with freeze }

/-- PERF_SNAP (R432). -/
def execPerfSnap (p : Part) (s : State) : Host.Outcome State Fault Refusal := .next (s.snapshot p)

/-- CLEAR of a histogram unit (R439). -/
def histZero (h : Nat) (q : Perf) : Perf :=
  { q with hists := tmod {} q.hists h fun x => { x with bins := [], samples := 0, max := 0, neg := 0, drop := 0 } }

/-- HIST_CLEAR (R439). -/
def execHistClear (p : Part) (h : Nat) (s : State) : Host.Outcome State Fault Refusal :=
  onUnit (decide (h < 4)) s fun s => s.modPerf p (histZero h)

end Sys2Proof.Machine
end

