-- ==== Sys2Proof/Machine/RegOps.lean ====
section
/-! DEFINITION. Registers that both parts hold in one layout: values, what a read clears or captures, and what a write does
(R12, R48, R433, R487 to R490, R494, R495, R498 to R501, R512, R515, R518, R522, R523). -/

namespace Sys2Proof.Machine

open Sys2Proof

/-! ### Forms -/

/-- A register's fields put together: value, high and low bit. A field holds the low bits of its value. -/
def pack (fs : List (Nat × Nat × Nat)) : Nat := fs.foldl (fun a f => a + f.1 % 2 ^ (f.2.1 + 1 - f.2.2) * 2 ^ f.2.2) 0

/-- A read that changes nothing. -/
def peek (v : Nat) (s : State) : Nat × State := (v, s)

/-- Counters that one read returns, each saturating in its field, and clears (R9, R488). -/
def rcRead (p : Part) (fs : List (Ctr × Nat × Nat × Nat)) (s : State) : Nat × State :=
  (pack (fs.map fun f => (sat (2 ^ (f.2.2.1 + 1 - f.2.2.2) - 1) ((s.base p).ctr f.1 f.2.1), f.2.2)),
   s.modBase p fun b => fs.foldl (fun b f => b.setCtr f.1 f.2.1 0) b)

/-- One counter of 32 bits. -/
def rc32 (p : Part) (c : Ctr) (i : Nat) (s : State) : Nat × State := rcRead p [(c, i, 31, 0)] s

/-- A 48-bit accounting counter, which a read leaves (R320). -/
def acctWord (p : Part) (c : Ctr) (i : Nat) (s : State) : Nat := sat (2 ^ 48 - 1) ((s.base p).ctr c i)

/-- The k-th of a list of words, 0 beyond it. -/
def wordAt (l : List Nat) (k : Nat) : Nat := (l[k]?).getD 0

/-! ### Time and the map (R48, R491, R512) -/

/-- TIME_STATUS bits that both parts show. -/
def timeStatus (s : State) (p : Part) : Nat :=
  let t := (s.base p).t
  pack [(bit t.locked, 0, 0), (bit t.holding, 2, 2), (bit t.noTime, 3, 3), (bit t.refclkRange, 6, 6), (bit t.trimAtLimit, 9, 9),
    (bit t.shadowFault, 10, 10)]

/-- Whether the map in force differs from the map of the last ALIGN (R91). -/
def alignPending (m : MapState) : Bool :=
  let a := (m.alignMap).getD {}
  a.originSec != m.cur.originSec || a.originTu != m.cur.originTu || a.utc != m.cur.utc

/-- The port whose markers tell a part the hall's state: its time input, else the first that takes time. -/
def statePort (s : State) (p : Part) : Nat := ((s.base p).t.input).getD (((inputsOf s p).head?).getD 0)

/-- TIME_MAP_STATUS. -/
def mapStatus (s : State) (p : Part) : Nat :=
  let m := (s.base p).map
  let seen : Nat × Nat := match (s.port p (statePort s p)).mark.rxMarker with
    | some k => (k.refState.toNat, k.leader.toNat)
    | none => (0, 0)
  pack [(bit m.stale, 0, 0), (bit (alignPending m), 1, 1), (bit m.cur.absValid, 2, 2), (m.cur.version.toNat, 15, 8), (seen.1, 18, 16),
    (seen.2, 20, 19)]

/-- The low half of ST_NOW, which captures the upper half; the upper half as captured, else live (R48). -/
def stLoRead (p : Part) (s : State) : Nat × State :=
  let x := s.now p
  ((x.extractLsb' 0 32).toNat, s.modTime p fun t => { t with capHi := some (x.extractLsb' 32 32) })

def stHiRead (p : Part) (s : State) : Nat × State :=
  ((((s.base p).t.capHi).getD ((s.now p).extractLsb' 32 32)).toNat, s.modTime p fun t => { t with capHi := none })

/-- Registers 0x60, 0x68, 0x78 and 0xA0 to 0xB8, and the counters and figures of page 0 that both parts have. -/
def mapRead (p : Part) (off : Nat) (s : State) : Nat × State :=
  let t := (s.base p).t
  let c := (s.base p).map.captured
  match off with
  | 0x60 => peek (pack [(accUnc s p, 15, 0), (sat 0xFFFFFFFF (holdErr s p), 47, 16)]) s
  | 0x68 => peek (twos 40 t.trim) s
  | 0x78 => peek (mapStatus s p) s
  | 0xA0 =>
    let r := (s.base p).map.cur
    (r.originSec.toNat, s.modMap p fun m => { m with captured := r })
  | 0xA8 => peek (c.originTu % 2 ^ 36) s
  | 0xB0 => peek (pack [(twos 16 c.utc, 15, 0), (c.version.toNat, 23, 16), (bit c.absValid, 24, 24)]) s
  | 0xB8 => peek c.effect.toNat s
  | _ => peek (cfgValue s p off) s

/-! ### Ports (R494, R518) -/

/-- LANE_STATUS. -/
def laneStatus (k : Link) : Nat :=
  pack (((List.range 3).flatMap fun i =>
      let l := tget {} k.lanes i
      [(bit l.signal, 8 * i, 8 * i), (bit l.lock, 8 * i + 1, 8 * i + 1), (bit l.warned, 8 * i + 2, 8 * i + 2)
      , (bit l.failed, 8 * i + 3, 8 * i + 3), (bit l.skew, 8 * i + 4, 8 * i + 4), (bit l.calValid, 8 * i + 5, 8 * i + 5)])
    ++ [(bit k.spareHere, 24, 24), (bit (k.spareHere && k.spareThere), 25, 25)])

/-- LINK_CHANGE. -/
def linkChange (k : Link) : Nat :=
  match k.order with
  | some o => pack [(o.tick.toNat, 49, 0), (o.kind, 52, 50), (o.map.toNat, 58, 53), (1, 59, 59)]
  | none => 0

/-- CAL_STATUS (R146). -/
def calStatus (s : State) (p : Part) (i : Nat) : Nat :=
  let q := s.port p i
  let secs := since s p (laneOf q (lane0 q)).at_ / 1000000000
  pack [(bit (decide (0 < q.link.calAge)), 0, 0), (bit (q.live && !laneCal q), 1, 1), (bit (decide (0 < q.link.rotLeft)), 2, 2)
    , (if (laneOf q (lane0 q)).measured then sat 65535 secs else 0, 31, 16)]

/-- The ten counters of a link, in the order of R494. -/
def linkCtrs : List Ctr :=
  [.cellCrc, .cellLost, .cellCorrupt, .trainRetry, .retrain, .changeNoack, .swapUnmatched, .calShift, .calReject, .portLoopSkip]

/-- Link counter `k` of port `i`, and with `wide` the one after it in the upper half (R494, R509). -/
def linkCtrRead (p : Part) (i k : Nat) (wide : Bool) (s : State) : Nat × State :=
  match linkCtrs[k]?, linkCtrs[k + 1]? with
  | some a, some b => rcRead p ((a, i, 31, 0) :: if wide then [(b, i, 63, 32)] else []) s
  | some a, none => rc32 p a i s
  | none, _ => peek 0 s

/-- A register of a port's block at +0x00 to +0x6C. -/
def portRead (p : Part) (i o : Nat) (s : State) : Nat × State :=
  let k := (s.port p i).link
  if 0x48 ≤ o ∧ o ≤ 0x6C ∧ o % 4 = 0 then linkCtrRead p i ((o - 0x48) / 4) (p == .dist) s
  else match o with
    | 0x00 => peek (bit k.enable) s
    | 0x08 => peek (portStatus k) s
    | 0x10 => peek k.map.toNat s
    | 0x18 => peek (laneStatus k) s
    | 0x20 => peek (linkChange k) s
    | 0x28 => peek (calStatus s p i) s
    | 0x30 | 0x38 | 0x40 =>
      let l := tget {} k.lanes ((o - 0x30) / 8)
      peek (pack [(l.ownTx.toNat, 15, 0), (l.ownRx.toNat, 31, 16), (l.nbrTx.toNat, 47, 32), (l.nbrRx.toNat, 63, 48)]) s
    | _ => peek 0 s

/-- What a step answers, or the state unchanged where it stops. -/
def stepIn (o : Host.Outcome State Fault Refusal) (s : State) : State :=
  match o with
  | .next t => t
  | _ => s

/-- PORT_CONTROL: ENABLE, then RETRAIN (R116, R120). -/
def portControl (p : Part) (i v : Nat) (s : State) : State :=
  let s := if tbit v 0 == (s.port p i).link.enable then s else stepIn (execPortEnableWrite p i (tbit v 0) s) s
  if tbit v 1 then stepIn (execPortRetrainWrite p i s) s else s

/-! ### The Headstock (R495, R515) -/

/-- BOOT_STATUS. -/
def bootStatus (p : Part) (h : Headstock) : Nat :=
  pack [(h.boot, 3, 0), (if p == .dist then bit h.fallback else 0, 4, 4), (if p == .dist then h.slotBooted else 0, 5, 5),
    (h.fwVersion.toNat, 47, 16), (sat 65535 h.wdResets, 63, 48)]

/-- A register of the block at 0x1200 of the PV-TSU4 and 0x2000 of the PV-D128. -/
def hsRead (p : Part) (o : Nat) (s : State) : Nat × State :=
  let h := (s.base p).hs
  if 0x40 ≤ o ∧ o ≤ 0x60 ∧ o % 8 = 0 then peek ((h.guards[(o - 0x40) / 8]?).getD 0).toNat s
  else if 0x80 ≤ o ∧ o ≤ 0x90 ∧ o % 4 = 0 then
    let g := (o - 0x80) / 4
    (if p == .dist && decide (g < 4) then rcRead p [(.guardHit, g, 31, 0), (.guardHit, g + 1, 63, 32)] s else rc32 p .guardHit g s)
  else match o with
    | 0x00 => peek (pack [(bit h.running, 1, 1), (bit h.guardLock, 2, 2)]) s
    | 0x08 => peek (if p == .tsu then h.fwAddr.toNat else 0) s
    | 0x10 => peek (bootStatus p h) s
    | 0x18 => peek (pack [(h.keys.toNat, 3, 0), (h.sending, 5, 4)]) s
    | 0x20 => rcRead p [(.mgmtRateHeld, 0, 15, 0), (.mgmtRateDrop, 0, 31, 16), (.mgmtAuthFail, 0, 47, 32), (.mgmtReplay, 0, 63, 48)] s
    | 0x28 => peek (if p == .dist then h.bootSlot else 0) s
    | 0x30 | 0x38 => peek (if p == .dist then (tget 0 h.slotBits ((o - 0x30) / 8)).toNat else 0) s
    | _ => peek 0 s

/-! ### Channels, statistics and intervals (R414, R420, R498, R499, R522) -/

/-- TIM_CONTROL. -/
def timControl (p : Part) (n : Nat) (c : Channel) : Nat :=
  pack [(c.edge, 1, 0), (c.intSrc, 3, 2), (bit c.queueEn, 4, 4), (chanDiv p n c, 31, 16)]

/-- A write of TIM_CONTROL: EDGE and INT_SRC where the channel has them, QUEUE_DIV at least 1 (R409, R410, R415). -/
def timControlPut (p : Part) (n v : Nat) (s : State) : State :=
  let evs := match p with | .tsu => n == 4 || n == 5 | .dist => decide (128 ≤ n ∧ n ≤ 131)
  let ints := p == .tsu && (n == 6 || n == 7)
  let e := if evs then min 2 (bits v 1 0) else 0
  let d := max 1 (bits v 31 16)
  (s.modChan p n fun c => { c with
    edge := e, intSrc := if ints then bits v 3 2 else 0, queueEn := tbit v 4, div := d, divSet := true }).clamped p
      ((evs && decide (e ≠ bits v 1 0)) || decide (d ≠ bits v 31 16))

/-- The two words of a stamp (R414); of an empty queue, zero. -/
def timWords : Option TimEntry → List Nat
  | none => [0, 0]
  | some e => [pack [(1, 63, 63), (bit e.trig, 62, 62), (bit e.fall, 61, 61), (bit e.tx, 60, 60), (bit e.interpB, 59, 59),
      (bit e.faulty, 58, 58), (e.region, 57, 50), (e.tag, 1, 0)], e.st.toNat]

/-- The two words of an interval result (R420). -/
def intWords : Option IntEntry → List Nat
  | none => [0, 0]
  | some e => [pack [(e.ns.toNat, 63, 32), (e.fine, 31, 26), (e.ovf, 25, 18), (bit (decide (e.ovf ≠ 0)), 17, 17),
      (bit e.timeout, 16, 16), (1, 15, 15)], e.tu.toNat]

/-- TIM_QUEUE[n]: the low word removes the oldest entry and captures it (R490). -/
def timQueueRead (p : Part) (n w : Nat) (s : State) : Nat × State :=
  if w = 0 then
    let e := (s.chan p n).queue.head?
    (wordAt (timWords e) 0, s.modChan p n fun c => { c with queue := c.queue.drop 1, captured := e })
  else peek (wordAt (timWords (s.chan p n).captured) w) s

/-- INT_QUEUE[u] (R490). -/
def intQueueRead (p : Part) (u w : Nat) (s : State) : Nat × State :=
  if w = 0 then
    let e := (s.unit p u).queue.head?
    (wordAt (intWords e) 0, s.modUnit p u fun q => { q with queue := q.queue.drop 1, captured := e })
  else peek (wordAt (intWords (s.unit p u).captured) w) s

/-- TIM_CHECK[n]. -/
def timCheck (c : Channel) : Nat := pack [(twos 8 c.checkValA, 7, 0), (twos 8 c.checkValB, 15, 8)]

/-- TIM_COUNTS[n]. -/
def timCounts (p : Part) (n : Nat) (s : State) : Nat × State :=
  rcRead p [(.timDrop, n, 15, 0), (.timOverrun, n, 31, 16), (.timUnlocked, n, 47, 32)] s

/-- Flags of `n` channels from `first`, as bits. -/
def chanBits (s : State) (p : Part) (first n : Nat) (f : Channel → Bool) : Nat :=
  (List.range n).foldl (fun a i => if f (s.chan p (first + i)) then a + 2 ^ i else a) 0

/-- TIM_FAULT: writing 1 clears (R413, R498). -/
def timFaultClear (p : Part) (first n v : Nat) (s : State) : State :=
  (List.range n).foldl (fun s i => if tbit v i then s.modChan p (first + i) fun c => { c with fault := false } else s) s

/-- A statistics unit's registers (R498). -/
def statRead (u : Stat) (o : Nat) : Nat :=
  match o with
  | 0x00 => pack [(bit u.done, 1, 1), (bit u.range, 2, 2), (u.src, 4, 3), (bit u.phaseAlign, 5, 5)]
  | 0x08 => u.n
  | 0x10 => u.period
  | 0x18 => twos 64 u.rMean
  | 0x20 => u.rSd % 2 ^ 64
  | 0x28 => twos 64 u.rMin
  | 0x30 => twos 64 u.rMax
  | _ => 0

def statPut (p : Part) (k o v : Nat) (s : State) : State :=
  match o with
  | 0x00 => stepIn (execStatStart p k (BitVec.ofNat 64 v) s) s
  | 0x08 =>
    let n := bits v 20 0
    (s.modStat p k fun u => { u with n := clampN 1 (2 ^ 20) n }).clamped p (decide (n = 0 ∨ 2 ^ 20 < n))
  | 0x10 =>
    let n := bits v 40 0
    (s.modStat p k fun u => { u with period := clampN 64 (2 ^ 40) n }).clamped p (decide (n < 64 ∨ 2 ^ 40 < n))
  | _ => s

/-- An interval unit's registers (R499, R522). -/
def intRead (p : Part) (u o : Nat) (s : State) : Nat × State :=
  let q := s.unit p u
  match o with
  | 0x00 => peek (match p with
    | .tsu => pack [(bit q.enable, 0, 0), (q.start, 6, 4), (q.stop, 10, 8)]
    | .dist => pack [(bit q.enable, 0, 0), (q.start, 15, 8), (q.stop, 23, 16)]) s
  | 0x08 => peek q.timeout.toNat s
  | 0x10 => intQueueRead p u 0 s
  | 0x18 => intQueueRead p u 1 s
  | 0x20 => rcRead p [(.intExtraStart, u, 15, 0), (.intEarlyStop, u, 31, 16), (.intOverrun, u, 47, 32)] s
  | _ => peek 0 s

def intUnitPut (p : Part) (u o v : Nat) (s : State) : State :=
  match o with
  | 0x00 => stepIn (execIntControlWrite p u (BitVec.ofNat 64 v) s) s
  | 0x08 => s.modUnit p u fun q => { q with timeout := BitVec.ofNat 32 v }
  | _ => s

/-! ### The flight recorder (R423, R426, R500, R523) -/

/-- The 64 bytes of an entry (R423). -/
def frBytes (e : FrEntry) : List Byte :=
  beBytes 8 e.st.toNat ++ beBytes 1 e.cls ++ beBytes 1 (bit e.trig + 2 * bit e.trigSeen) ++ beBytes 2 e.seq.toNat ++ beBytes 4 0
    ++ (e.body ++ List.replicate 48 0).take 48

/-- A register of the recorder's block. -/
def frRead (p : Part) (o : Nat) (s : State) : Nat × State :=
  let r := (s.base p).fr
  if 0x40 ≤ o ∧ o < 0x80 ∧ o % 8 = 0 then
    peek (match tget none r.ring r.index with
      | some e => leNat (((frBytes e).drop (o - 0x40)).take 8)
      | none => 0) s
  else match o with
    | 0x00 => peek r.state.ctorIdx s
    | 0x10 => peek (frDepth p r) s
    | 0x18 => peek r.preCount s
    | 0x20 => peek r.first s
    | 0x28 => peek r.index s
    | 0x30 => peek r.classMask.toNat s
    | 0x38 => peek r.trigMask.toNat s
    | 0x80 => peek r.trigChannel s
    | 0x88 => peek r.missed s
    | 0x90 => peek r.missedFirst.toNat s
    | 0x98 => rc32 p .frLost 0 s
    | _ => peek 0 s

/-- FR_CONTROL: ARM and DISARM together count as DISARM (R500). -/
def frControl (p : Part) (v : Nat) (s : State) : State :=
  let s := if tbit v 1 then stepIn (execFrDisarm p s) s else if tbit v 0 then stepIn (execFrArm p s) s else s
  let s := if tbit v 2 then stepIn (execFrTrigger p s) s else s
  if tbit v 3 then stepIn (execMissedClr p s) s else s

def frPutReg (p : Part) (o v : Nat) (s : State) : State :=
  if 0xC0 ≤ o ∧ o < 0xE8 ∧ o % 8 = 0 then
    s.modFr p fun r => { r with soft := r.soft.set ((o - 0xC0) / 8) (BitVec.ofNat 64 v) }
  else match o with
    | 0x08 => frControl p v s
    | 0x10 => s.modFr p fun r => { r with preDepth := some (v % frCap p) }
    | 0x28 => s.modFr p fun r => { r with index := v % frCap p }
    | 0x30 => s.modFr p fun r => { r with classMask := BitVec.ofNat 11 (v &&& 0x7FE) }
    | 0x38 => s.modFr p fun r => { r with trigMask := BitVec.ofNat 27 (v &&& 0x7FF003E) }
    | 0x80 =>
      let n := match p with | .tsu => bits v 2 0 | .dist => bits v 7 0
      (s.modFr p fun r => { r with trigChannel := min n (chanCount p - 1) }).clamped p (decide (chanCount p ≤ n))
    | 0xE8 => stepIn (execFrSoftwareWrite p (BitVec.ofNat 64 v) s) s
    | _ => s

/-! ### Performance counters, histograms and the sampler (R429 to R440, R501, R523) -/

/-- The words of a sampler record (R440). -/
def sampleWords : Option Sample → List Nat
  | none => [0, 0, 0, 0]
  | some r => [pack [(r.kind, 63, 60), (r.mbx, 59, 58), (r.index, 47, 32), (r.tag.toNat, 31, 0)], r.sched.toNat, r.actual.toNat,
      pack [(sat 0xFFFFFFFF (elapsed r.actual r.sched), 63, 32), (r.count, 31, 24)]]

/-- HIST_CONTROL as it is stored: a source that the part has not is 0, SCALE at most 20, CLEAR and reserved bits 0; and
whether it was clamped (R438, R501, R523). -/
def histControlOf (p : Part) (v : Nat) : Nat × Bool :=
  let src := bits v 7 4
  let ok := match p with | .tsu => decide (src ≤ 5) | .dist => src == 0 || decide (6 ≤ src ∧ src ≤ 9)
  let sc := min 20 (bits v 12 8)
  let port := match p with | .tsu => bits v 33 33 | .dist => bits v 39 33
  (pack [(bit (tbit v 0), 0, 0), (if p == .tsu then bit (tbit v 2) else 0, 2, 2), (if ok then src else 0, 7, 4), (sc, 12, 8),
    (port, 39, 33), (bits v 47 40, 47, 40)], !ok || decide (sc ≠ bits v 12 8))

/-- A write of HIST_CONTROL[h]. -/
def histPutReg (p : Part) (h v : Nat) (s : State) : State :=
  let w := histControlOf p v
  let s := s.modPerf p fun q => { q with hists := tmod {} q.hists h fun x => { x with ctl := BitVec.ofNat 64 w.1 } }
  (if tbit v 1 then s.modPerf p (histZero h) else s).clamped p w.2

/-- SAMPLE_CONTROL. -/
def sampleControl (q : Perf) : Nat :=
  pack [(bit q.sEnable, 0, 0), (bit q.sOwner, 1, 1), (q.sSrc, 3, 2), (bit q.sMode, 4, 4), (q.sN, 52, 32)]

def sampleControlPut (p : Part) (v : Nat) (s : State) : State :=
  let n := bits v 52 32
  let k := clampN 1 (2 ^ 20) n
  let src := if p == .dist && bits v 3 2 == 1 then 2 else bits v 3 2
  (s.modPerf p fun q => { q with
    sEnable := tbit v 0, sOwner := p == .tsu && tbit v 1, sSrc := src, sMode := tbit v 4, sN := k }).clamped p
      (decide (k ≠ n ∨ src ≠ bits v 3 2))

/-- SAMPLE_READ: the low word removes the oldest record and captures it (R440, R490). -/
def sampleRead (p : Part) (w : Nat) (s : State) : Nat × State :=
  if w = 0 then
    let e := (s.base p).perf.sBuf.head?
    (wordAt (sampleWords e) 0, s.modPerf p fun q => { q with sBuf := q.sBuf.drop 1, sCap := e })
  else peek (wordAt (sampleWords (s.base p).perf.sCap) w) s

/-- A histogram unit's registers, from 0x200 + 0x100 h; a distributor's are 8 bytes wide (R501, R509). -/
def histRead (p : Part) (x : Hist) (o : Nat) : Nat :=
  if o < 0x80 ∧ o % 4 = 0 then
    tget 0 x.bins (o / 4) + (if p == .dist && o % 8 == 0 then tget 0 x.bins (o / 4 + 1) * 2 ^ 32 else 0)
  else match o with
    | 0x80 => x.samples
    | 0x88 => x.max % 2 ^ 64
    | 0x90 => pack [(x.neg, 31, 0), (x.drop, 63, 32)]
    | _ => 0

/-- PERF_CONTROL. -/
def perfControl (p : Part) (q : Perf) : Nat :=
  pack [(bit q.freeze, 0, 0), (bit q.snapEn, 2, 2), match p with | .tsu => (q.snapCh, 6, 4) | .dist => (q.snapCh, 11, 4)]

/-- A register of the counters' block. -/
def perfRead (p : Part) (o : Nat) (s : State) : Nat × State :=
  let q := (s.base p).perf
  let c := tget {} q.ctrs (o % 0x40 / 8)
  if 0x40 ≤ o ∧ o < 0x80 ∧ o % 8 = 0 then peek c.sel.toNat s
  else if 0x80 ≤ o ∧ o < 0xC0 ∧ o % 8 = 0 then peek c.val s
  else if 0xC0 ≤ o ∧ o < 0x100 ∧ o % 8 = 0 then peek c.snap s
  else if 0x140 ≤ o ∧ o < 0x160 ∧ o % 8 = 0 then peek (tget {} q.hists ((o - 0x140) / 8)).ctl.toNat s
  else if 0x200 ≤ o ∧ o < 0x600 then peek (histRead p (tget {} q.hists ((o - 0x200) / 0x100)) (o % 0x100)) s
  else if 0x620 ≤ o ∧ o < 0x640 ∧ o % 8 = 0 then sampleRead p ((o - 0x620) / 8) s
  else match o with
    | 0x00 => peek q.cycles.toNat s
    | 0x08 => peek (perfControl p q) s
    | 0x10 => peek ((List.range 8).foldl (fun a i => if (tget {} q.ctrs i).ovf then a + 2 ^ i else a) 0) s
    | 0x18 => peek (if p == .tsu then q.access else 0) s
    | 0x100 => peek q.snapSt.toNat s
    | 0x600 => peek (sampleControl q) s
    | 0x608 => rc32 p .sampleLost 0 s
    | _ => peek 0 s

/-- PERF_STATUS: writing 1 clears OVF (R430, R501). -/
def ovfClear (p : Part) (v : Nat) (s : State) : State :=
  s.modPerf p fun q => { q with ctrs := tmapAll {} (fun i c => if tbit v i then { c with ovf := false } else c) q.ctrs }

/-- PERF_CONTROL: FREEZE, SNAP, SNAP_EN and SNAP_CHANNEL (R431, R432). -/
def perfControlPut (p : Part) (v : Nat) (s : State) : State :=
  let n := match p with | .tsu => bits v 6 4 | .dist => bits v 11 4
  let s := (s.modPerf p fun q => { q with freeze := tbit v 0, snapEn := tbit v 2, snapCh := min n (chanCount p - 1) }).clamped p
    (decide (chanCount p ≤ n))
  if tbit v 1 then s.snapshot p else s

/-- A write of PERF_SEL[n] as the part stores it: a distributor's OWNER bit reads 0 (R523). -/
def perfSelReg (p : Part) (n v : Nat) (s : State) : State :=
  perfSelPut p n (BitVec.ofNat 64 (if p == .dist && tbit v 61 then v - 2 ^ 61 else v)) s

def perfPutReg (p : Part) (o v : Nat) (s : State) : State :=
  if 0x40 ≤ o ∧ o < 0x80 ∧ o % 8 = 0 then perfSelReg p ((o - 0x40) / 8) v s
  else if 0x140 ≤ o ∧ o < 0x160 ∧ o % 8 = 0 then histPutReg p ((o - 0x140) / 8) v s
  else match o with
    | 0x08 => perfControlPut p v s
    | 0x10 => ovfClear p v s
    | 0x18 =>
      if p == .tsu then
        (s.modPerf p fun q => { q with access := min 2 (bits v 1 0) }).clamped p (decide (bits v 1 0 = 3))
      else s
    | 0x600 => sampleControlPut p v s
    | _ => s

end Sys2Proof.Machine
end

