-- ==== Sys2Proof/Machine/RegDist.lean ====
section
/-! DEFINITION. The register map of the PV-D128: what a read of a register returns and leaves, and what a write does (R507
to R523). -/

namespace Sys2Proof.Machine

open Sys2Proof

/-! ### Identity, state and time (R512) -/

/-- DIST_STATE. -/
def distState (s : State) : Nat :=
  let v := s.dist.sv
  let r := s.nodeRec (s.node .dist)
  pack [(v.state.ctorIdx, 2, 0), (bit (r.known && r.status == 1), 3, 3), (bit r.probation, 4, 4), (bit v.removeReq, 5, 5),
    (bit v.removeRefused, 6, 6), (bit v.coldHold, 7, 7), (bit v.tjWarn, 8, 8), (twos 8 s.dist.b.tj, 23, 16)]

/-- STRAP_STATUS. -/
def strapStatus (v : Service) : Nat :=
  pack [(v.role.ctorIdx, 1, 0), (bit v.planeB, 2, 2), (bit v.rootCapable, 3, 3), (v.smb.toNat, 6, 4), (1, 11, 8), (bit v.engineering, 12, 12)]

/-- NODE_ID with VALID. -/
def nodeIdWord (b : Base) : Nat :=
  match b.node with
  | some n => n.toNat + 2 ^ 31
  | none => 0

/-- JTAG_IDCODE (R512). -/
def jtagIdcode : Nat := 0x1D1286BB

def identRead (off : Nat) (s : State) : Nat × State :=
  let b := s.dist.b
  match off with
  | 0x00 => peek 0x0102D128 s
  | 0x08 => peek (nodeIdWord b) s
  | 0x10 => peek (distState s) s
  | 0x18 => peek (b.hs.bootCount % 2 ^ 32) s
  | 0x20 => peek b.hs.alert.toNat s
  | 0x28 => peek (strapStatus s.dist.sv) s
  | 0x30 => peek (s.dist.sv.position.toNat + bit s.dist.sv.posLock * 2 ^ 15) s
  | 0x38 => peek jtagIdcode s
  | 0x40 => peek (s.now .dist).toNat s
  | 0x48 => peek (timeStatus s .dist + bit b.t.electHold * 2 ^ 11) s
  | 0x50 => peek (pack [((b.t.input).getD 0x80, 7, 0), (twos 32 b.t.lastMean, 63, 32)]) s
  | 0x58 => peek (match b.t.input with
    | some i => (s.port .dist i).off.rtt % 2 ^ 32
    | none => 0) s
  | _ => mapRead .dist off s

/-! ### References (R514) -/

/-- Flags of reference inputs as bits. -/
def inputBits (n : Nat) (f : Nat → Bool) : Nat := (List.range n).foldl (fun a i => if f i then a + 2 ^ i else a) 0

/-- REF_STATUS. -/
def refStatus (s : State) : Nat :=
  let r := s.dist.refs
  pack [(r.state.ctorIdx, 2, 0), ((hallState r).ctorIdx, 5, 3), (r.selected, 8, 6), (bit r.pull, 9, 9), (bit r.originNeeded, 10, 10),
    (bit r.holdShort, 11, 11), (bit r.freqAssist, 12, 12), (bit r.conflict, 13, 13), (bit (r.unchecked || s.dist.mem.unchecked), 14, 14),
    (bit (r.outlier.getLsbD s.ownRoot), 15, 15), (bit r.ocxoAbsent, 16, 16), (inputBits 4 (refFar s), 23, 20),
    (inputBits 6 (refEligible s), 29, 24), (inputBits 6 fun i => i == 5 || (s.refIn i).valid, 35, 30),
    (inputBits 6 fun i => (s.refIn i).wtr, 41, 36)]

/-- PRESENT of an input (R422). -/
def refPresent (s : State) (i : Nat) : Bool :=
  match i with
  | 0 | 1 => (s.refIn i).ppsOk && (s.refIn i).clkOk
  | 2 | 3 => refTests s i
  | _ => (s.refIn i).clkOk

/-- REF_VOTE[i]. -/
def refVoteWord (r : Refs) (i : Nat) : Nat :=
  let v := tget {} r.votes i
  if v.have_ then
    pack [(v.key.toNat, 15, 0), (v.state, 18, 16), (bit (r.outlier.getLsbD i), 19, 19), (twos 40 v.ePs, 63, 24)]
  else 0

/-- ALIGN_STATUS (R92). -/
def alignStatus (m : MapState) : Nat := m.alignUsed + bit (!m.aligns.isEmpty) * 2 ^ 48

def refRead (off : Nat) (s : State) : Nat × State :=
  let r := s.dist.refs
  if 0x1038 ≤ off ∧ off < 0x1050 then peek (refVoteWord r ((off - 0x1038) / 8)) s
  else if 0x1100 ≤ off ∧ off < 0x1110 then
    let p := tget {} r.ptp ((off - 0x1100) / 8)
    peek (pack [(p.state, 2, 0), (p.cls, 15, 8), (p.acc, 23, 16)]) s
  else if 0x1110 ≤ off ∧ off < 0x1120 then peek (tget {} r.ptp ((off - 0x1110) / 8)).identity.toNat s
  else match off with
    | 0x1000 => peek (refStatus s) s
    | 0x1008 => peek (if r.originNeeded then twos 64 (Int.tdiv ((ownE s).getD 0 * 8) 125) else 0) s
    | 0x1010 => peek (twos 40 ((ownE s).getD 0)) s
    | 0x1018 => peek (sat 0xFFFFFFFF r.absErr) s
    | 0x1020 => peek (twos 40 (Int.tdiv r.ys 100000)) s
    | 0x1028 => peek (twos 40 (Int.tdiv r.yc 100000)) s
    | 0x1030 => peek (match r.eUsed with
      | some e => twos 40 e + 2 ^ 40
      | none => 0) s
    | 0x1120 => peek (match r.ptpUtc with
      | some u => u.toNat + 2 ^ 16
      | none => 0) s
    | 0x1128 => rcRead .dist [(.ptpDiscard, 0, 31, 0), (.ptpDiscard, 1, 63, 32)] s
    | 0x1200 => peek r.stInit.toNat s
    | 0x1208 => peek (alignStatus s.dist.b.map) s
    | _ => peek (cfgValue s .dist off) s

/-- Page 0x1, which only a root shows but for REF_PRESENCE, REF_COUNT and REF_CABLE_DELAY (R510). -/
def refsRead (off : Nat) (s : State) : Nat × State :=
  if off = 0x1140 then peek (inputBits 6 (refPresent s)) s
  else if 0x1148 ≤ off ∧ off < 0x1178 then
    let x := s.refIn ((off - 0x1148) / 8)
    peek (pack [(x.clkCount, 31, 0), (x.ppsCount, 39, 32)]) s
  else if 0x1180 ≤ off ∧ off < 0x11B0 then peek (cfgValue s .dist off) s
  else if s.role == .root then refRead off s
  else peek 0 s

/-! ### Epochs, membership and the triad (R516) -/

/-- TRIAD_STATUS. -/
def triadStatus (s : State) : Nat :=
  let m := s.dist.mem
  pack [(s.dist.b.ep.leader.toNat, 1, 0), (bit m.electing, 2, 2), (bit s.dist.b.t.electHold, 3, 3), (bit m.unchecked, 4, 4),
    (bit m.twoMember, 5, 5), (bit m.soleRoot, 6, 6), (bit m.elected, 7, 7), (m.served, 9, 8), (bit m.copyActive, 10, 10),
    (bit (candidateHere s), 11, 11), (sat 65535 m.elections, 31, 16)]

/-- TRIAD_MEMBER[i]: zero while no root of that index is known. -/
def triadMember (s : State) (i : Nat) : Nat :=
  let alive := rootAlive s i
  let n := rootNode s i
  if !alive && tget 0 s.dist.mem.triad i == 0 then 0
  else pack [(n.toNat, 23, 0), (bit alive, 24, 24), (bit (nodeKind n == 2), 25, 25), (bit (leaderOf s .dist == i), 26, 26)]

/-- NODE_RECORD of a node. -/
def nodeRecord (s : State) (n : Node) : Nat :=
  let r := s.nodeRec n
  pack [(if r.known then r.status else 7, 2, 0), (bit r.probation, 3, 3), (bit r.pairAmbiguous, 4, 4),
    (sat 255 ((recentEvents s n).filter fun e => !e.2.1).length, 15, 8), (r.changeMe.toNat, 31, 16)]

/-- TALLY_DATA: EVENT_ST, then the REPORT body, most significant byte first (R339). -/
def tallyWord (s : State) (w : Nat) : Nat :=
  match (s.nodeRec (BitVec.ofNat 24 s.dist.mem.nodeSel)).reports[s.dist.mem.tallySel]? with
  | none => 0
  | some x => if w = 0 then x.1.toNat else beNat (((reportBytes x.2.2 ++ beBytes 4 0).drop (8 * (w - 1))).take 8)

def memRead (off : Nat) (s : State) : Nat × State :=
  let e := s.dist.b.ep
  let m := s.dist.mem
  let near := e.pend.head?
  let ce := near.bind Pend.ce
  let me := near.bind Pend.me
  if 0x3018 ≤ off ∧ off < 0x3030 then peek (triadMember s ((off - 0x3018) / 8)) s
  else if 0x3058 ≤ off ∧ off < 0x3088 then peek (if s.role == .root then tallyWord s ((off - 0x3058) / 8) else 0) s
  else match off with
    | 0x3000 => peek (pack [(e.ce.toNat, 15, 0), (e.me.toNat, 31, 16), ((ce.getD 0).toNat, 47, 32), ((me.getD 0).toNat, 63, 48)]) s
    | 0x3008 => peek (pack [((near.map fun x => x.tick.toNat).getD 0, 49, 0), (bit ce.isSome, 50, 50), (bit me.isSome, 51, 51),
        (bit (near.bind Pend.lead).isSome, 52, 52)]) s
    | 0x3010 => peek (triadStatus s) s
    | 0x3030 => peek m.electAt.toNat s
    | 0x3038 => peek (match s.role with
      | .row => m.rootLost.toNat
      | .root => sat 127 m.lossReports.length
      | _ => 0) s
    | 0x3040 => peek m.nodeSel s
    | 0x3048 => peek (nodeRecord s (BitVec.ofNat 24 m.nodeSel)) s
    | 0x3050 => peek (if s.role == .root then m.tallySel else 0) s
    | 0x3090 => rcRead .dist [(.voteStale, 0, 15, 0), (.joinStale, 0, 31, 16), (.imageMismatch, 0, 47, 32)] s
    | 0x3098 => peek (pack [(s.dist.sv.rtxns.length, 6, 0),
        ((s.dist.b.txns.filter fun t => t.phase != .done && t.phase != .rolledBack).length, 10, 8)]) s
    | _ => peek 0 s

/-! ### Posts, combine memory and barriers (R517) -/

/-- The oldest open barrier instance of a slice. -/
def oldestBar (s : State) (slice : Nat) : Option BarRec :=
  (s.dist.fab.bars.filter (·.slice == slice)).foldl (fun o b => match o with
    | none => some b
    | some a => if stLater a.opened b.opened then some b else some a) none

/-- BARRIER_STATUS of a slice, in the fields of R503. -/
def barStatus (s : State) (slice : Nat) : Nat :=
  match oldestBar s slice with
  | none => 0
  | some b => pack [(1, 0, 0), (b.group, 15, 4), (b.gen.toNat, 31, 16), ((s.dist.fab.bars.filter (·.slice == slice)).length, 47, 32)]

def postRead (off : Nat) (s : State) : Nat × State :=
  let f := s.dist.fab
  if off < 0x4200 then
    let i := (off - 0x4000) / 8
    let n := (f.posts.filter (·.slice == i)).length
    (pack [(n, 6, 0), (max n (tget 0 f.postsMax i), 22, 16)], s.modFabric fun f => { f with postsMax := tset 0 f.postsMax i 0 })
  else if 0x4400 ≤ off ∧ off < 0x4600 then peek (barStatus s ((off - 0x4400) / 8)) s
  else if 0x4600 ≤ off ∧ off < 0x4800 then
    peek (match oldestBar s ((off - 0x4600) / 8) with
      | some b => b.opened.toNat
      | none => 0) s
  else match off with
    | 0x4200 =>
      let all := combineBlocks s.role
      (pack [(all - f.memUsed, 14, 0), (all - max f.memUsed f.memLow, 30, 16)], s.modFabric fun f => { f with memLow := 0 })
    | 0x4208 =>
      let late := (f.bars.filter (·.deferred)).length
      (pack [(f.bars.length - late, 10, 0), (late, 29, 16), (max late f.defMax, 45, 32)], s.modFabric fun f => { f with defMax := 0 })
    | 0x4800 => rc32 .dist .postStray 0 s
    | 0x4808 => rc32 .dist .collectMismatch 0 s
    | 0x4810 => rc32 .dist .barrierStray 0 s
    | 0x4818 => rc32 .dist .residueFail 0 s
    | 0x4820 => rc32 .dist .eccCorrected 0 s
    | _ => peek 0 s

/-! ### Ports (R518) -/

def distPortRead (i o : Nat) (s : State) : Nat × State :=
  let q := s.port .dist i
  match o with
  | 0x80 => peek (pack [(twos 32 q.off.mean, 31, 0), (q.off.rxOfsEst.toNat, 55, 32)]) s
  | 0x88 => peek (pack [(q.off.rtt, 31, 0), (q.off.rxDepth, 39, 32)]) s
  | 0x90 => peek (pack [(portUse s.role i, 2, 0), (bit (s.dist.b.t.input == some i), 3, 3), (bit q.modPresent, 4, 4),
      (bit q.modReady, 5, 5), (twos 16 q.laser, 31, 16)]) s
  | 0x98 => rcRead .dist [(.peerDiscard, i, 15, 0), (.p1DepthMax, i, 31, 16), (.portVoteStale, i, 47, 32)] s
  | _ => portRead .dist i o s

/-! ### Hall groups, slices and accounting (R519, R520) -/

/-- The two words of a group's piece or of a slice map. -/
def pieceWord (valid : Bool) (slice : Nat) (top : Bool) (mask : BitVec 96) (w : Nat) : Nat :=
  if w = 0 then mask.toNat % 2 ^ 64
  else pack [(bit valid, 63, 63), (slice, 62, 57), (bit top, 56, 56), (mask.toNat / 2 ^ 64, 31, 0)]

def hgroupWord (s : State) (g w : Nat) : Nat :=
  match tget none s.dist.fab.hgroups g with
  | some q => pieceWord true q.slice q.top q.mask w
  | none => 0

def sliceMapWord (s : State) (slice w : Nat) : Nat :=
  let m := tget 0 s.dist.fab.maps slice
  if m = 0 then 0 else pieceWord true slice false m w

/-- Eight weights of a port from slice `slice` (R520). -/
def weightWord (s : State) (i slice : Nat) : Nat :=
  leNat ((List.range 8).map fun k => BitVec.ofNat 8 (tget 8 s.dist.fab.weights (i * 64 + slice + k)))

/-- ACCT_DATA[k]. -/
def acctRead (k : Nat) (s : State) : Nat × State :=
  let f := s.dist.fab
  let key := f.acctPort * 64 + f.acctSlice
  let own := fun (c : Ctr) => peek (acctWord .dist c f.acctSlice s) s
  let root := fun (c : Ctr) => if s.role == .root then own c else peek 0 s
  match k with
  | 0 => peek (acctWord .dist .p2Cells key s) s
  | 1 => peek (acctWord .dist .p2Wait key s) s
  | 2 => rcRead .dist [(.p2WaitMax, key, 47, 0)] s
  | 3 => own .collectBusy
  | 4 => own .barrierDeferred
  | 5 => own .sliceViolation
  | 6 => own .epochStale
  | 7 => own .sliceCancelled
  | 8 => own .p1Overrun
  | 9 => root .ledgerServed
  | 10 => root .ledgerDelayed
  | 11 => root .ledgerRefused
  | 12 => root .ledgerFull
  | _ => peek 0 s

def sliceRead (off : Nat) (s : State) : Nat × State :=
  if off < 0x50400 then peek (sliceMapWord s ((off - 0x50000) / 16) (off % 16 / 8)) s
  else if 0x51000 ≤ off ∧ off < 0x53000 then peek (weightWord s ((off - 0x51000) / 64) (off % 64)) s
  else if off = 0x53000 then peek (pack [(s.dist.fab.acctSlice, 5, 0), (s.dist.fab.acctPort, 22, 16)]) s
  else if 0x53008 ≤ off ∧ off < 0x53070 then acctRead ((off - 0x53008) / 8) s
  else peek 0 s

/-! ### The ledger window (R521) -/

/-- LEDGER_ENTRY: word 0 captures the selected entry. -/
def ledgerEntryTake (s : State) : Nat × State :=
  let bs := entryBytes (s.entry s.dist.led.sel)
  (beNat (bs.take 8), s.modLed fun l => { l with cap := bs })

/-- SG_CONFIG[g]. -/
def sgWord (s : State) (g w : Nat) : Nat :=
  match s.sgroup g with
  | none => 0
  | some x =>
    let f := x.f
    match w with
    | 0 => pack [(bit f.valid, 0, 0), (f.slice, 13, 8), (f.group, 27, 16), (f.capacity, 44, 32), (f.fullPeriod, 63, 48)]
    | 1 => f.closeOfs % 2 ^ 40
    | 2 => f.tokenOfs % 2 ^ 40
    | _ => f.deltaLead % 2 ^ 40

/-- CLOSE_LOG[g] (R292). -/
def closeLogWord (s : State) (g w : Nat) : Nat :=
  match s.sgroup g with
  | none => 0
  | some x => if w = 0 then x.logStep.toNat else pack [(x.logDie, 16, 0), (x.logArg.toNat, 63, 32)]

def ledgerRead (off : Nat) (s : State) : Nat × State :=
  let l := s.dist.led
  if 0x80010 ≤ off ∧ off < 0x80048 then peek (beNat ((l.cap.drop (off - 0x80008)).take 8)) s
  else if 0x80200 ≤ off ∧ off < 0x80400 then
    let k := (off - 0x80200) / 8
    peek (pack [(quotaOf l k, 16, 0), (quotaUse l.table k, 48, 32)]) s
  else if 0x81000 ≤ off ∧ off < 0x83000 then peek (sgWord s ((off - 0x81000) / 32) (off % 32 / 8)) s
  else if 0x83000 ≤ off ∧ off < 0x84000 then peek (closeLogWord s ((off - 0x83000) / 16) (off % 16 / 8)) s
  else match off with
    | 0x80000 => peek l.sel s
    | 0x80008 => ledgerEntryTake s
    | 0x80048 => peek (tableUse l.table) s
    | 0x80050 => (pack [(sat 0xFFFFFFFF l.longest, 31, 0), (sat 0xFFFFFFFF l.longestWait, 63, 32)],
        s.modLed fun l => { l with longest := 0, longestWait := 0 })
    | 0x80058 => rc32 .dist .ledgerLateIn 0 s
    | 0x80060 => rc32 .dist .closeStray 0 s
    | 0x80068 => rc32 .dist .closeMissed 0 s
    | 0x80070 => rc32 .dist .noSample 0 s
    | 0x80078 => rc32 .dist .ledgerEosDisagree 0 s
    | 0x80080 => rc32 .dist .ledgerDiverge 0 s
    | 0x80088 => rc32 .dist .ledgerUnchecked 0 s
    | _ => peek 0 s

/-- Whether the ledger window serves this part (R510). -/
def ledgerServes (s : State) : Bool := s.role == .root || s.dist.mem.elected

/-! ### Channels (R522) -/

def chanRead (off : Nat) (s : State) : Nat × State :=
  let at_ := fun (base size : Nat) => (off - base) / size
  if off < 0x20800 then (if at_ 0x20000 8 < 138 then peek (timControl .dist (at_ 0x20000 8) (s.chan .dist (at_ 0x20000 8))) s else peek 0 s)
  else if off < 0x21800 then (if at_ 0x20800 16 < 138 then timQueueRead .dist (at_ 0x20800 16) (off % 16 / 8) s else peek 0 s)
  else if off < 0x22000 then (if at_ 0x21800 8 < 138 then peek (timCheck (s.chan .dist (at_ 0x21800 8))) s else peek 0 s)
  else if off < 0x22800 then (if at_ 0x22000 8 < 138 then timCounts .dist (at_ 0x22000 8) s else peek 0 s)
  else if off < 0x22818 then peek (chanBits s .dist (64 * at_ 0x22800 8) (min 64 (138 - 64 * at_ 0x22800 8)) (·.lock)) s
  else if 0x22820 ≤ off ∧ off < 0x22838 then
    peek (chanBits s .dist (64 * at_ 0x22820 8) (min 64 (138 - 64 * at_ 0x22820 8)) (·.fault)) s
  else if 0x24000 ≤ off ∧ off < 0x24000 + 0x40 * 154 then
    peek (statRead (tget {} s.dist.b.stats (at_ 0x24000 0x40)) (off % 0x40)) s
  else if 0x28000 ≤ off ∧ off < 0x28400 then intRead .dist (at_ 0x28000 0x40) (off % 0x40) s
  else peek 0 s

/-! ### The whole space (R509 to R511) -/

/-- A read of the 8-byte register at `off`. -/
def distRead (off : Nat) (s : State) : Nat × State :=
  if off % 8 ≠ 0 then peek 0 s
  else if off < 0x1000 then identRead off s
  else if off < 0x2000 then refsRead off s
  else if off < 0x3000 then hsRead .dist (off - 0x2000) s
  else if off < 0x4000 then memRead off s
  else if off < 0x5000 then postRead off s
  else if 0x10000 ≤ off ∧ off < 0x20000 then distPortRead ((off - 0x10000) / 0x200) (off % 0x200) s
  else if 0x20000 ≤ off ∧ off < 0x2C000 then chanRead off s
  else if 0x2C000 ≤ off ∧ off < 0x2D000 then frRead .dist (off - 0x2C000) s
  else if 0x2D000 ≤ off ∧ off < 0x2E000 then perfRead .dist (off - 0x2D000) s
  else if 0x40000 ≤ off ∧ off < 0x50000 then peek (hgroupWord s ((off - 0x40000) / 16) (off % 16 / 8)) s
  else if 0x50000 ≤ off ∧ off < 0x54000 then sliceRead off s
  else if 0x80000 ≤ off ∧ off < 0x84000 then (if ledgerServes s then ledgerRead off s else peek 0 s)
  else peek 0 s

/-- ALERT_CAUSE: writing 1 clears a cause; with none left the alert is released. -/
def distAlertClear (v : Nat) (s : State) : State :=
  let a := s.dist.b.hs.alert &&& ~~~BitVec.ofNat 64 v
  (s.modHs .dist fun h => { h with alert := a }).modSv fun x => { x with alertN := decide (a ≠ 0) }

/-- What the bits of an RW1C register read to a masked write: 1s written clear. -/
def rw1c (off : Nat) : Bool :=
  off == 0x20 || decide (0x22820 ≤ off ∧ off < 0x22838) || off == 0x2D010

/-- ST_INIT: locked from the first instant the part holds ST (R510). -/
def stInitPut (v : Nat) (s : State) : State :=
  if s.role == .root && !s.dist.b.t.held && !s.dist.refs.stInitLocked then s.modRefs fun r => { r with stInit := BitVec.ofNat 64 v } else s

/-- A write of the 8-byte register at `off`; one that software may not write, or that is locked, is ignored. -/
def distWrite (off v : Nat) (s : State) : State :=
  if off % 8 ≠ 0 then s
  else if 0x10000 ≤ off ∧ off < 0x20000 then
    (if off % 0x200 = 0 then portControl .dist ((off - 0x10000) / 0x200) v s else s)
  else if 0x20000 ≤ off ∧ off < 0x20000 + 8 * 138 then timControlPut .dist ((off - 0x20000) / 8) v s
  else if 0x22820 ≤ off ∧ off < 0x22838 then
    timFaultClear .dist (64 * ((off - 0x22820) / 8)) (min 64 (138 - 64 * ((off - 0x22820) / 8))) v s
  else if 0x24000 ≤ off ∧ off < 0x24000 + 0x40 * 154 then statPut .dist ((off - 0x24000) / 0x40) (off % 0x40) v s
  else if 0x28000 ≤ off ∧ off < 0x28400 then intUnitPut .dist ((off - 0x28000) / 0x40) (off % 0x40) v s
  else if 0x2C000 ≤ off ∧ off < 0x2D000 then frPutReg .dist (off - 0x2C000) v s
  else if 0x2D000 ≤ off ∧ off < 0x2E000 then perfPutReg .dist (off - 0x2D000) v s
  else match off with
    | 0x20 => distAlertClear v s
    | 0x30 => nodePosition (BitVec.ofNat 64 v) s
    | 0x1200 => stInitPut v s
    | 0x3040 => s.modMem fun m => { m with nodeSel := v % 2 ^ 24 }
    | 0x3050 => if s.role == .root then s.modMem fun m => { m with tallySel := v % 16 } else s
    | 0x53000 => s.modFabric fun f => { f with acctSlice := bits v 5 0, acctPort := bits v 22 16 }
    | 0x80000 => if ledgerServes s then s.modLed fun l => { l with sel := v % 65536 } else s
    | _ => s

/-- What the bits that a masked write leaves alone are written as: the register's present value, 0 in RW1C registers
(R507). -/
def distKeep (off : Nat) (s : State) : Nat := if rw1c off then 0 else (distRead off s).1

/-- A masked write (R507). -/
def distWriteMask (off v mask : Nat) (s : State) : State :=
  distWrite off ((v &&& mask) ||| (distKeep off s &&& (2 ^ 64 - 1 - mask % 2 ^ 64))) s

end Sys2Proof.Machine
end

