-- ==== Sys2Proof/Machine/Mailboxes.lean ====
section
/-! DEFINITION. Mailboxes, immediate commands and commands carried by management messages (R219 to R221, R228, R381, R387 to
R392, R403 to R407, R507, R508). -/

namespace Sys2Proof.Machine

open Sys2Proof

/-! ### Rings (R386 to R388, R506) -/

/-- A doorbell value: handed to the Headstock, or ignored with MB_OVERRUN when it would leave more than 64 slots
outstanding. -/
def doorbell (m : Nat) (v : BitVec 16) (s : State) : State :=
  let now := s.now .tsu
  s.modMbox m fun b =>
    if 64 < (v - b.cons).toNat then { b with overrun := true }
    else { b with prod := v, bells := if v = b.prod then b.bells else b.bells ++ [(v, now)] }

/-- MB_DOORBELL (R387). -/
def execMbDoorbell (mbx : Nat) (v : BitVec 16) (s : State) : Host.Outcome State Fault Refusal :=
  onUnit (decide (mbx < 4)) s (doorbell mbx v)

/-- A completion consumer index, at most the producer index; completions held for want of room follow (R388, R506). -/
def cplCons (m : Nat) (v : BitVec 16) (s : State) : State :=
  let b := s.mbox m
  let far := decide ((b.cplProd - b.cplCons).toNat < (v - b.cplCons).toNat)
  let s := s.modMbox m fun b => { b with cplCons := if far then b.cplProd else v, held := [] }
  b.held.foldl (fun s cp => cplPost s m cp) (s.clamped .tsu far)

/-- MB_CPL_CONS_WRITE (R388, R506). -/
def execMbCplConsWrite (mbx : Nat) (v : BitVec 16) (s : State) : Host.Outcome State Fault Refusal :=
  onUnit (decide (mbx < 4)) s (cplCons mbx v)

/-- MAILBOX_UNKNOWN_OPCODE (R391). -/
def execMailboxUnknownOpcode (c : Cmd) (opcode : Nat) (s : State) : Host.Outcome State Fault Refusal :=
  onCmd c opcode true s fun s => done s c opcode .badCommand

/-! ### Counters (R219 to R221, R228) -/

/-- A counter command at a die: a die that refuses its operations answers with the reason (R154, R305, R344). -/
def ctrCmd (c : Cmd) (op counter : Nat) (s : State) (f : State → State) : State :=
  dieOnly c op s fun s =>
    match dieRefuses s with
    | some st => done s c op st
    | none => if 4096 ≤ counter then done s c op .badCommand else f s

/-- A counter command that completes with the number of its counter in RESULT. -/
def ctrDone (c : Cmd) (op counter : Nat) (v : W32) (s : State) : State :=
  doneR s c op .ok (BitVec.ofNat 64 counter) (v.setWidth 64) 0

def cmdCtrAlloc (c : Cmd) (s : State) : State :=
  ctrCmd c 0x0030 0 s fun s =>
    match lowestFree 4096 fun k => !(ctrOf s k).alloc with
    | some k => ctrDone c 0x0030 k 0 (ctrAllocate s k)
    | none => done s c 0x0030 .full

/-- CTR_ALLOC (R220). -/
def execCtrAlloc (c : Cmd) (s : State) : Host.Outcome State Fault Refusal := onCmd c 0x0030 true s (cmdCtrAlloc c)

def cmdCtrAllocAt (c : Cmd) (counter : Nat) (s : State) : State :=
  ctrCmd c 0x0031 counter s fun s =>
    if (ctrOf s counter).alloc then done s c 0x0031 .busy else ctrDone c 0x0031 counter 0 (ctrAllocate s counter)

/-- CTR_ALLOC_AT (R220). -/
def execCtrAllocAt (c : Cmd) (counter : Nat) (s : State) : Host.Outcome State Fault Refusal :=
  onCmd c 0x0031 true s (cmdCtrAllocAt c counter)

def cmdCtrFree (c : Cmd) (counter : Nat) (s : State) : State :=
  ctrCmd c 0x0032 counter s fun s =>
    if (ctrOf s counter).alloc then done (ctrFree s counter) c 0x0032 .ok else done s c 0x0032 .badCommand

/-- CTR_FREE (R228). -/
def execCtrFree (c : Cmd) (counter : Nat) (s : State) : Host.Outcome State Fault Refusal :=
  onCmd c 0x0032 true s (cmdCtrFree c counter)

/-- SET or READ on a counter: an unallocated one answers BAD_COMMAND. -/
def cmdCtrOp (c : Cmd) (op counter : Nat) (x : CtrOp) (s : State) : State :=
  ctrCmd c op counter s fun s =>
    match ctrOp s counter x {} with
    | (s, .ok, v) => ctrDone c op counter v s
    | (s, st, _) => done s c op st

/-- CTR_SET: mailbox 0 only (R221). -/
def execCtrSet (c : Cmd) (counter : Nat) (v lim : W32) (s : State) : Host.Outcome State Fault Refusal :=
  onCmd c 0x0033 (isM0 c) s (cmdCtrOp c 0x0033 counter (.set v lim))

/-- CTR_READ. -/
def execCtrRead (c : Cmd) (counter : Nat) (s : State) : Host.Outcome State Fault Refusal :=
  onCmd c 0x0034 true s (cmdCtrOp c 0x0034 counter .read)

/-! ### Keys (R406) -/

def cmdKeyLoad (c : Cmd) (slot : Nat) (tagOk : Bool) (s : State) : State :=
  if 4 ≤ slot || !tagOk then done s c 0x0060 .badCommand
  else done (s.modHs c.part fun h => { h with keys := h.keys ||| BitVec.ofNat 4 (2 ^ slot) }) c 0x0060 .ok

/-- KEY_LOAD. -/
def execKeyLoad (c : Cmd) (slot : Nat) (tagOk : Bool) (s : State) : Host.Outcome State Fault Refusal :=
  onCmd c 0x0060 (isM0 c) s (cmdKeyLoad c slot tagOk)

def cmdKeySelect (c : Cmd) (slot : Nat) (tick : Tick) (s : State) : State :=
  if 4 ≤ slot || !(s.base c.part).hs.keys.getLsbD slot then done s c 0x0061 .badCommand
  else done (s.modHs c.part fun h => { h with pendKey := some (slot, tick) }) c 0x0061 .ok

/-- KEY_SELECT. -/
def execKeySelect (c : Cmd) (slot : Nat) (tick : Tick) (s : State) : Host.Outcome State Fault Refusal :=
  onCmd c 0x0061 (isM0 c) s (cmdKeySelect c slot tick)

/-- KEY_SELECT_EFFECT: the named slot becomes the sending key at its tick. -/
def execKeySelectEffect (p : Part) (s : State) : Host.Outcome State Fault Refusal :=
  .next <| match (s.base p).hs.pendKey with
    | some (k, t) =>
      if 0 ≤ tickDiff (tickOf (s.now p)) t then s.modHs p fun h => { h with sending := k, pendKey := none } else s
    | none => s

/-! ### Firmware (R381, R392, R407) -/

/-- The bytes of an image slot: 128.5 KiB (R381). -/
def slotSize : Nat := 131584

/-- An image written into the slot not named in BOOT_SLOT; its version is unknown until it is tested. -/
def fwWrite (data : List Byte) (s : State) : State :=
  s.modHs .dist fun h =>
    { h with slots := tset [] h.slots (1 - h.bootSlot) data, slotBits := tset 0 h.slotBits (1 - h.bootSlot) 0 }

def cmdFwWrite (c : Cmd) (op : Nat) (data : List Byte) (dmaOk : Bool) (s : State) : State :=
  distOnly c op s fun s =>
    if !dmaOk || decide (slotSize < data.length) then done s c op .badCommand else done (fwWrite data s) c op .ok

/-- FW_STAGE. -/
def execFwStage (c : Cmd) (data : List Byte) (dmaOk : Bool) (s : State) : Host.Outcome State Fault Refusal :=
  onCmd c 0x0069 (isM0 c) s (cmdFwWrite c 0x0069 data dmaOk)

def cmdFwActivate (c : Cmd) (slot : Nat) (s : State) : State :=
  distOnly c 0x006A s fun s =>
    if 1 < slot then done s c 0x006A .badCommand
    else done (s.modHs .dist fun h => { h with bootSlot := slot }) c 0x006A .ok

/-- FW_ACTIVATE. -/
def execFwActivate (c : Cmd) (slot : Nat) (s : State) : Host.Outcome State Fault Refusal :=
  onCmd c 0x006A (isM0 c) s (cmdFwActivate c slot)

/-- FW_DATA_RECEIVE: image bytes at their offset in the slot not named in BOOT_SLOT, within its size. -/
def execFwDataReceive (env : MgmtEnv) (offset : Nat) (data : List Byte) (s : State) : Host.Outcome State Fault Refusal :=
  onMgmt .dist env s fun s =>
    if slotSize < offset + data.length then s
    else
      let old := tget [] s.dist.b.hs.slots (1 - s.dist.b.hs.bootSlot)
      let head := (old ++ List.replicate (offset - old.length) 0).take offset
      fwWrite (head ++ data ++ old.drop (offset + data.length)) s

/-! ### NOP, IDENT and STATUS (R392, R507, R508) -/

/-- NOP. -/
def execNop (c : Cmd) (s : State) : Host.Outcome State Fault Refusal := onCmd c 0x00FF true s fun s => done s c 0x00FF .ok

/-- A command that the boot ROM of a distributor also answers after a refused image (R381, R508). -/
def onRomCmd (c : Cmd) (op : Nat) (s : State) (f : State → State) : Host.Outcome State Fault Refusal :=
  if c.part == .dist && decide (3 ≤ s.dist.b.hs.boot) then .next (f s) else onCmd c op (isM0 c) s f

/-- The three words of IDENT's RESULT. -/
def cmdIdent (c : Cmd) (s : State) : State :=
  distOnly c 0x0070 s fun s =>
    let strap := strapStatus s.dist.sv % 256
    doneR s c 0x0070 .ok (BitVec.ofNat 64 (pack [(jtagIdcode, 31, 0), ((s.node .dist).toNat, 55, 32), (strap, 63, 56)]))
      (BitVec.ofNat 64 (bootStatus .dist s.dist.b.hs)) (BitVec.ofNat 64 (distState s % 256))

/-- IDENT. -/
def execIdent (c : Cmd) (s : State) : Host.Outcome State Fault Refusal := onRomCmd c 0x0070 s (cmdIdent c)

/-- An offset that STATUS takes. -/
def offOk (off : Nat) : Bool := off % 8 == 0 && decide (off < 0x100000)

/-- `n` registers read in offset order. -/
def statusReads : Nat → Nat → State → List Nat × State
  | 0, _, s => ([], s)
  | n + 1, off, s =>
    let a := distRead off s
    let b := statusReads n (off + 8) a.2
    (a.1 :: b.1, b.2)

def cmdStatus (c : Cmd) (offset count : Nat) (write : Bool) (wOffset : Nat) (wValue wMask : W64) (smbus : Bool) (s : State) :
    State :=
  distOnly c 0x0071 s fun s =>
    if smbus && write && wOffset != 0x30 then done s c 0x0071 .denied
    else if !offOk offset || (write && !offOk wOffset) then done s c 0x0071 .badCommand
    else
      let n := clampN 1 3 count
      let s := s.clamped .dist (decide (n ≠ count))
      let s := if write then distWriteMask wOffset wValue.toNat wMask.toNat s else s
      let r := statusReads n offset s
      let w := fun k => BitVec.ofNat 64 (wordAt r.1 k)
      doneR r.2 c 0x0071 .ok (w 0) (w 1) (w 2)

/-- STATUS. -/
def execStatus (c : Cmd) (offset count : Nat) (write : Bool) (wOffset : Nat) (wValue wMask : W64) (smbus : Bool) (s : State) :
    Host.Outcome State Fault Refusal :=
  onRomCmd c 0x0071 s (cmdStatus c offset count write wOffset wValue wMask smbus)

/-- FW_RECOVER. -/
def execFwRecover (c : Cmd) (data : List Byte) (dmaOk : Bool) (s : State) : Host.Outcome State Fault Refusal :=
  onRomCmd c 0x0072 s (cmdFwWrite c 0x0072 data dmaOk)

/-! ### Remote commands (R390, R392, R403, R407) -/

/-- A node that takes commands: a distributor, or every root. -/
def takesCmds (n : Node) : Bool := n == allRoots || (nodeValid n && nodeKind n != 0)

def cmdRemote (c : Cmd) (dst : Node) (rc : RemoteCmd) (dmaOk : Bool) (s : State) : State :=
  dieOnly c 0x0068 s fun s => if !dmaOk || !takesCmds dst then done s c 0x0068 .badCommand else cmdSend s c 0x0068 dst rc

/-- REMOTE_CMD. -/
def execRemoteCmd (c : Cmd) (dst : Node) (rc : RemoteCmd) (dmaOk : Bool) (s : State) : Host.Outcome State Fault Refusal :=
  onCmd c 0x0068 (isM0 c) s (cmdRemote c dst rc dmaOk)

/-- What the Headstock of a distributor does with a command that a message brings. -/
def runRemote (c : Cmd) (s : State) : RemoteCmd → State
  | .txnBegin n => cmdBegin c n s
  | .commit w slice step => cmdCommit c w slice step s
  | .rollback => cmdRollback c s
  | .txnStatus txn => cmdTxnStatus c txn s
  | .turningSet slice st0 len b => cmdTurningSet c slice st0 len b s
  | .sliceMapWrite slice mask => cmdSliceMapWrite c slice mask s
  | .sliceWeight port slice w => cmdSliceWeight c port slice w s
  | .hgroupWrite group piece => cmdHgroupWrite c group piece s
  | .hgroupFree group => cmdHgroupFree c group s
  | .sgWrite sg f => cmdSgWrite c sg f s
  | .ledgerPart quotas => cmdLedgerPart c quotas s
  | .configWrite index value => cmdConfigWrite c index value s
  | .sliceReset slice => cmdSliceReset c slice s
  | .timeMap step utc utcSet => cmdTimeMap c step utc utcSet s
  | .align scope slice step => cmdAlign c scope slice step s
  | .drain node => cmdDrain c node s
  | .undrain node => cmdUndrain c node s
  | .rejoin die => cmdRejoin c die s
  | .quarantineClear node => cmdQuarantineClear c node s
  | .keyLoad slot tagOk => cmdKeyLoad c slot tagOk s
  | .keySelect slot tick => cmdKeySelect c slot tick s
  | .fwStage data dmaOk => cmdFwWrite c 0x0069 data dmaOk s
  | .fwActivate slot => cmdFwActivate c slot s
  | .nop => done s c 0x00FF .ok
  | .ident => cmdIdent c s
  | .status o n w wo wv wm => cmdStatus c o n w wo wv wm false s
  | .fwRecover data dmaOk => cmdFwWrite c 0x0072 data dmaOk s
  | .resync sg => s.modSg sg fun g => { g with fullDue := true }
  | .other opcode => done s c opcode .badCommand

/-- A command from `src` that went to every root, at a root that does not complete it: it votes on a change of membership,
and on a ROLLBACK or a request for a full delta acts as the others do (R301, R345, R401). -/
def rootsRemote (s : State) (src : Node) (txn : W32) : RemoteCmd → State
  | .rollback => if servesRoot s then rootCancel s txn src else s
  | .drain n => rootsMember (drainChange n) (drainCheck · n) s
  | .undrain n => rootsMember (joiningChange n) (undrainCheck · n) s
  | .rejoin i => rootsMember (joiningChange (dieNode i)) (rejoinCheck · i) s
  | .quarantineClear n => rootsMember (joiningChange n) (clearCheck · n) s
  | .resync sg => s.modSg sg fun g => { g with fullDue := true }
  | _ => s

/-- MGMT_COMMAND_RECEIVE: relayed, or authenticated and executed as a command of mailbox 0 (R390, R405). -/
def execMgmtCommandReceive (port : Nat) (env : MgmtEnv) (tag : BitVec 16) (txn : W32) (rc : RemoteCmd) (s : State) :
    Host.Outcome State Fault Refusal :=
  onPort .dist port s fun s =>
    let s := mgmtRelay s port env (.command tag txn rc)
    match mgmtIn s .dist (some port) env with
    | (s, false) => s
    | (s, true) =>
      if env.dst = allRoots && (!decides s || rc == .rollback) then rootsRemote s env.src txn rc
      else
        let now := s.now .dist
        runRemote { part := .dist, mbx := 0, tag, txn }
          (s.modSv fun v => { v with mbOpen := v.mbOpen ++ [(tag, env.src, now)] }) rc

/-- A completion taken by a die: the REMOTE_CMD that waits for it completes (R390, R392). -/
def remoteDone (env : MgmtEnv) (cp : Completion) (s : State) : State :=
  match s.tsu.remotes.find? fun r => r.tag == cp.tag && (r.dst == env.src || r.dst == allRoots) with
  | none => s
  | some r =>
    if !cp.final then s
    else
      let op := (((s.mbox r.c.mbx).open_.find? fun e => e.1 == r.tag).map fun e => e.2.1).getD 0x0068
      complete_ { s with tsu.remotes := s.tsu.remotes.erase r } (ofPart .tsu r.c) { cp with tag := r.c.tag, opcode := op }

/-- A completion taken by a distributor that had passed a command on: it completes the command that it took itself, and a
DRAIN refused of a board that asked for its removal shows (R480). -/
def distDone (cp : Completion) (s : State) : State :=
  if !cp.final then s
  else
    let s := if cp.opcode == 0x0048 && cp.status == .denied then removeRefuse s else s
    if s.dist.sv.mbOpen.any fun e => e.1 == cp.tag then complete_ s { part := .dist, mbx := 0, tag := cp.tag, txn := 0 } cp else s

/-- MGMT_COMPLETION_RECEIVE. -/
def execMgmtCompletionReceive (env : MgmtEnv) (cp : Completion) (s : State) : Host.Outcome State Fault Refusal :=
  if s.tsu.b.node == some env.dst then onMgmt .tsu env s (remoteDone env cp) else onMgmt .dist env s (distDone cp)

end Sys2Proof.Machine
end

