-- ==== Sys2Proof/Machine/RegTsu.lean ====
section
/-! DEFINITION. The register map of the PV-TSU4: what a read of a register returns and leaves, and what a write does (R434,
R457, R485 to R506). -/

namespace Sys2Proof.Machine

open Sys2Proof

/-! ### Interrupt masks (R313, R459, R491, R501, R503) -/

/-- Messages that a vector's mask held back are sent once it is open. -/
def msixFlush (s : State) : State :=
  (List.range 16).foldl (fun s v =>
    let d := s.tsu.die
    if d.msixOn && d.pba.getLsbD v && !vecMasked d v then
      irq (s.modDie fun d => { d with pba := d.pba &&& ~~~BitVec.ofNat 16 (2 ^ v) }) v
    else s) s

/-- A word of the MSI-X table, 16 bytes a vector: the message address, then data and the mask bit of the control word. -/
def msixWord (d : Die) (k : Nat) : Nat :=
  if k % 2 = 0 then (tget 0 d.msixTab k).toNat
  else (tget 0 d.msixTab k).toNat % 2 ^ 32 + bit (!d.msixOpen.getLsbD (k / 2)) * 2 ^ 32

def msixPut (k v : Nat) (s : State) : State :=
  if k % 2 = 0 then s.modDie fun d => { d with msixTab := tset 0 d.msixTab k (BitVec.ofNat 64 v) }
  else
    let b := BitVec.ofNat 16 (2 ^ (k / 2))
    msixFlush <| s.modDie fun d => { d with
      msixTab := tset 0 d.msixTab k (BitVec.ofNat 64 (v % 2 ^ 32)), msixOn := true
      msixOpen := if tbit v 32 then d.msixOpen &&& ~~~b else d.msixOpen ||| b }

/-! ### Page 0x0 (R491, R492) -/

/-- DIE_STATE. -/
def dieStateWord (s : State) : Nat :=
  let d := s.tsu.die
  pack [(d.state.ctorIdx, 3, 0), (bit d.quar, 4, 4), (bit d.member, 5, 5), (bit d.truingSlow, 6, 6), (bit d.suspect, 7, 7),
    (twos 8 s.tsu.b.tj, 23, 16)]

/-- SETTLING: RUNNING, but LOCKED for less than 10 s (R360). -/
def settling (s : State) : Bool :=
  s.tsu.die.state == .running && !(s.tsu.b.t.lockSince.any fun x => decide (10 * 64000000000 ≤ elapsed (s.now .tsu) x))

def dieTimeStatus (s : State) : Nat :=
  let t := s.tsu.b.t
  timeStatus s .tsu + pack [(bit (settling s), 1, 1), (bit t.disagree, 4, 4), (bit t.neither, 5, 5),
    (bit (s.port .tsu 0).mark.usable, 7, 7), (bit (s.port .tsu 1).mark.usable, 8, 8)]

/-- The counters of page 0x0, from 0x80. -/
def page0Ctrs : List Ctr :=
  [.loopSkip, .eccCorrected, .kernelRstDrop, .cplRstDiscard, .msgRstDiscard, .strobeCollide, .ledgerEventOrphan, .partCancelled]

/-- A counter of a block of 32-bit counters. -/
def ctrBlock (l : List Ctr) (k : Nat) (s : State) : Nat × State :=
  match l[k]? with
  | some c => rc32 .tsu c 0 s
  | none => peek 0 s

def page0Read (off : Nat) (s : State) : Nat × State :=
  let b := s.tsu.b
  let d := s.tsu.die
  let each := fun (f : Offset → Nat) => pack [(f (b.port 0).off, 31, 0), (f (b.port 1).off, 63, 32)]
  if 0x80 ≤ off ∧ off < 0xA0 ∧ off % 4 = 0 then ctrBlock page0Ctrs ((off - 0x80) / 4) s
  else match off with
    | 0x00 => peek 0x17504 s
    | 0x08 => peek (nodeIdWord b) s
    | 0x10 => peek (dieStateWord s) s
    | 0x18 => peek (b.hs.bootCount % 2 ^ 32) s
    | 0x20 => peek b.hs.alert.toNat s
    | 0x28 => peek d.privMask.toNat s
    | 0x30 => peek (pack [(d.sliceId, 5, 0), (bit d.sliceValid, 7, 7)]) s
    | 0x40 => stLoRead .tsu s
    | 0x44 => stHiRead .tsu s
    | 0x48 => peek (dieTimeStatus s) s
    | 0x50 => peek (each fun o => twos 32 o.mean) s
    | 0x58 => peek (each fun o => o.rtt) s
    | 0x70 => peek (match b.t.input with
      | some i => i % 2
      | none => 2) s
    | 0x160 => peek s.tsu.mark.crossBudget s
    | _ => mapRead .tsu off s

/-! ### Regions (R497) -/

/-- REGION_STATUS: its counts are cleared by the read. -/
def regionStatus (r : Nat) (s : State) : Nat × State :=
  let g := s.region r
  let c := rcRead .tsu ([(.crossDrop, r, 7, 4), (.markMiss, r, 15, 8), (.stretchDeep, r, 31, 16)]
    ++ (List.range 4).map fun i => (.crossLate, 4 * r + i, 39 + 8 * i, 32 + 8 * i)) s
  (c.1 + pack [(bit g.loaded, 0, 0), (bit g.unsync, 1, 1), (bit (decide (0 < g.spreadLeft)), 2, 2)], c.2)

def crossLat (g : Region) : Nat := pack ((List.range 4).map fun i => ((tget {} g.cross i).lcross, 16 * i + 15, 16 * i))

def regionsRead (off : Nat) (s : State) : Nat × State :=
  let m := s.tsu.mark
  if off < 0x2480 then peek (s.region ((off - 0x2000) / 8)).lpath.toNat s
  else if off < 0x2900 then peek (twos 16 (s.region ((off - 0x2480) / 8)).err) s
  else if 0x3000 ≤ off ∧ off < 0x3480 then regionStatus ((off - 0x3000) / 8) s
  else if 0x3480 ≤ off ∧ off < 0x3900 then peek (crossLat (s.region ((off - 0x3480) / 8))) s
  else match off with
    | 0x2900 => peek (pack [(bit m.calTemp, 0, 0), (bit m.pathFault, 1, 1), (bit m.calDone, 2, 2)]) s
    | 0x2908 => peek (pack [(m.faultRegion, 7, 0), (twos 8 m.tjCal, 15, 8), (m.tTurn, 31, 16)]) s
    | 0x2910 => peek m.echo s
    | 0x2918 => peek (pack [(bit m.crossFault, 0, 0), (bit m.crossDone, 1, 1), (m.crossRegion, 15, 8), (m.crossPort, 17, 16), (m.crossMax, 43, 32)]) s
    | 0x2920 => peek (pack [(m.lateRegion, 7, 0), (m.latePort, 9, 8), (m.lateTag.toNat, 31, 10), (sat 0xFFFFFFFF m.lateTu, 63, 32)]) s
    | _ => peek 0 s

/-! ### Measurement (R498, R499) -/

def measureRead (off : Nat) (s : State) : Nat × State :=
  if off = 0x4000 then peek (chanBits s .tsu 0 8 (·.lock) + chanBits s .tsu 0 8 (·.fault) * 2 ^ 8) s
  else if 0x4040 ≤ off ∧ off < 0x4080 then peek (timControl .tsu ((off - 0x4040) / 8) (s.chan .tsu ((off - 0x4040) / 8))) s
  else if 0x4100 ≤ off ∧ off < 0x4180 then timQueueRead .tsu ((off - 0x4100) / 16) (off % 16 / 8) s
  else if 0x4180 ≤ off ∧ off < 0x41C0 then peek (timCheck (s.chan .tsu ((off - 0x4180) / 8))) s
  else if 0x41C0 ≤ off ∧ off < 0x4200 then timCounts .tsu ((off - 0x41C0) / 8) s
  else if 0x4200 ≤ off ∧ off < 0x4480 then peek (statRead (tget {} s.tsu.b.stats ((off - 0x4200) / 0x40)) (off % 0x40)) s
  else if 0x4500 ≤ off ∧ off < 0x4580 then intRead .tsu ((off - 0x4500) / 0x40) (off % 0x40) s
  else if 0x4800 ≤ off then frRead .tsu (off - 0x4800) s
  else peek 0 s

/-! ### The slice page (R503, R504) -/

/-- LAUNCH_EVENT (R213, R490). -/
def launchEventRead (w : Nat) (s : State) : Nat × State :=
  let words := fun (e : Option LaunchRec) => match e with
    | some r => (launchWords r).map (·.toNat)
    | none => []
  let p := s.tsu.plate
  if w = 0 then
    (wordAt (words p.events.head?) 0, s.modPlate fun p => { p with events := p.events.drop 1, evCap := p.events.head? })
  else peek (wordAt (words p.evCap) w) s

/-- CTR_FAULT (R224, R490). -/
def ctrFaultRead (w : Nat) (s : State) : Nat × State :=
  let words := fun (e : Option CtrFault) => match e with
    | some r => (ctrFaultWords r).map (·.toNat)
    | none => []
  let y := s.tsu.sync
  if w = 0 then
    (wordAt (words y.faults.head?) 0, s.modSync fun y => { y with faults := y.faults.drop 1, faultCap := y.faults.head? })
  else peek (wordAt (words y.faultCap) w) s

/-- Valid entries of a bank. -/
def validCount (b : Tab Entry) : Nat := (b.filter fun e => entValid e.2).length

/-- WATCH_DATA. -/
def watchData (y : Sync) : Nat :=
  match tget none y.watches y.watchSel with
  | none => 0
  | some w => pack [(1, 0, 0), (bit w.eq, 1, 1), (bit w.rearm, 2, 2), (bit (y.pend.any fun m => m.rearm && m.id == y.watchSel), 3, 3),
      (w.counter, 15, 4), (w.target, 25, 16), (w.tag.toNat, 47, 32)]

/-- The oldest open hall-barrier instance at the die. -/
def oldestHall (s : State) : Option (Nat × HallEntry) :=
  (hallOpen s).foldl (fun o h => match o with
    | none => some h
    | some a => if stLater a.2.opened h.2.opened then some h else some a) none

/-- SLICE_ACCT[k] (R320). -/
def sliceAcct (k : Nat) (s : State) : Nat × State :=
  match k with
  | 0 | 1 => peek (acctWord .tsu .p2Cells k s) s
  | 2 | 3 => peek (acctWord .tsu .p2Wait (k - 2) s) s
  | 4 | 5 => rcRead .tsu [(.p2WaitMax, k - 4, 47, 0)] s
  | 6 => peek (acctWord .tsu .collectBusy 0 s) s
  | 7 => peek (acctWord .tsu .signalBusy 0 s) s
  | 8 => peek (acctWord .tsu .ledgerBusy 0 s) s
  | 9 => peek (acctWord .tsu .epochStale 0 s) s
  | 10 => peek (acctWord .tsu .sliceCancelled 0 s) s
  | _ => peek 0 s

def ledgerDieRead (k o : Nat) (s : State) : Nat × State :=
  let d := tget {} s.tsu.fab.dies k
  match o with
  | 0x00 => peek d.config.toNat s
  | 0x08 => peek d.ring.toNat s
  | 0x10 => peek (pack [(d.wp, 15, 0), (bit d.resync, 32, 32)]) s
  | 0x18 => peek d.rp s
  | _ => peek 0 s

/-- The turning and the plate. -/
def plateRead (off : Nat) (s : State) : Nat × State :=
  let u := s.tsu.turn
  let p := s.tsu.plate
  let e := tget zeroPlateEntry (if p.selStaged then p.other else p.active) p.sel
  let g := maskOf p.groups p.rgSel
  if 0x6040 ≤ off ∧ off < 0x6058 ∧ off % 4 = 0 then
    ctrBlock [.late, .armShort, .plateCancelled, .plateStopped, .plateNoTime, .launchEventLost] ((off - 0x6040) / 4) s
  else match off with
    | 0x6000 => peek (pack [(bit u.started, 0, 0), (bit u.resetPending, 1, 1)]) s
    | 0x6008 => peek u.st0.toNat s
    | 0x6010 => peek u.len s
    | 0x6018 => peek u.step.toNat s
    | 0x6020 => peek (pack [(bit p.activeB, 0, 0), (bit p.dense, 1, 1), (validCount p.active, 29, 16), (validCount p.other, 45, 32),
        (p.denseEntry, 60, 48)]) s
    | 0x6030 => peek (pack [(bit p.fault, 0, 0), (p.faultRegion, 18, 11), (p.faultEntry, 31, 19), (p.faultStep.toNat, 63, 32)]) s
    | 0x6038 => peek (pack [(bit p.slipped, 0, 0), (p.slipCount, 31, 16), (p.slipFirst.toNat, 63, 32)]) s
    | 0x6060 => launchEventRead 0 s
    | 0x6068 => launchEventRead 1 s
    | 0x6070 => peek (pack [(p.sel, 12, 0), (bit p.selStaged, 16, 16)]) s
    | 0x6080 => peek e.w0.toNat s
    | 0x6088 => peek e.w1.toNat s
    | 0x6090 => peek e.w2.toNat s
    | 0x60A0 => peek p.rgSel s
    | 0x60A8 => peek (bits g.toNat 63 0) s
    | 0x60B0 => peek (bits g.toNat 127 64) s
    | 0x60B8 => peek (bits g.toNat 143 128) s
    | _ => peek (cfgValue s .tsu off) s

/-- Counters, watches, barriers, collects, the ledger and accounting. -/
def syncRead (off : Nat) (s : State) : Nat × State :=
  let y := s.tsu.sync
  let c := ctrOf s y.ctrSel
  let b := localOf s y.lbSel
  if 0x6110 ≤ off ∧ off < 0x6158 ∧ off % 8 = 0 then
    peek (bits b.mask (64 * ((off - 0x6110) / 8) + 63) (64 * ((off - 0x6110) / 8))) s
  else if 0x6160 ≤ off ∧ off < 0x6178 ∧ off % 8 = 0 then ctrFaultRead ((off - 0x6160) / 8) s
  else if 0x6198 ≤ off ∧ off < 0x61A8 ∧ off % 4 = 0 then
    ctrBlock [.signalSingle, .signalExpired, .msgBackpressure, .ctxDiscard] ((off - 0x6198) / 4) s
  else if 0x6200 ≤ off ∧ off < 0x6300 then ledgerDieRead ((off - 0x6200) / 0x20) (off % 0x20) s
  else if 0x6340 ≤ off ∧ off < 0x6398 ∧ off % 8 = 0 then sliceAcct ((off - 0x6340) / 8) s
  else match off with
    | 0x60C0 => peek y.ctrSel s
    | 0x60C8 => peek (pack [(c.value.toNat, 31, 0), (c.limit.toNat, 63, 32)]) s
    | 0x60D0 => peek (pack [(bit c.alloc, 0, 0), ((y.ctrs.filter fun x => x.2.alloc).length, 28, 16)]) s
    | 0x60E0 => peek y.watchSel s
    | 0x60E8 => peek (watchData y) s
    | 0x60F0 => peek (pack [(((tget none y.watches y.watchSel).map (·.threshold.toNat)).getD 0, 31, 0), (y.watches.length, 43, 32)]) s
    | 0x6100 => peek y.lbSel s
    | 0x6108 => peek (pack [(bit b.open_, 0, 0), (bit y.lbBusy, 1, 1), (popcount 576 b.arrived, 25, 16)]) s
    | 0x6178 => rc32 .tsu .ctrFaultLost 0 s
    | 0x6180 => peek (match oldestHall s with
      | some h => pack [(1, 0, 0), (h.1, 15, 4), (h.2.gen.toNat, 31, 16), ((hallOpen s).length, 47, 32)]
      | none => 0) s
    | 0x6188 => peek (match oldestHall s with
      | some h => h.2.opened.toNat
      | none => 0) s
    | 0x6190 => peek (y.sigOut.length % 1024) s
    | 0x61B8 => peek s.tsu.fab.lateLast.toNat s
    | 0x61C0 => rc32 .tsu .collectExpired 0 s
    | 0x6300 => rc32 .tsu .ledgerNoRing 0 s
    | 0x6310 => peek s.tsu.die.sliceMask.toNat s
    | 0x6320 => peek s.tsu.die.acctThreshold.toNat s
    | _ => peek (cfgValue s .tsu off) s

/-! ### The slice view of the counters (R434, R502) -/

/-- Whether the slice owns the item that an offset of the counters' block belongs to; none for one that R434 does not
name. -/
def sliceOwns (q : Perf) (o : Nat) : Option Bool :=
  let ctr := fun (n : Nat) => tbit (tget {} q.ctrs n).sel.toNat 61
  let hist := fun (h : Nat) => tbit (tget {} q.hists h).ctl.toNat 2
  if 0x40 ≤ o ∧ o < 0x100 then some (ctr (o % 0x40 / 8))
  else if 0x140 ≤ o ∧ o < 0x160 then some (hist ((o - 0x140) / 8))
  else if 0x200 ≤ o ∧ o < 0x600 then some (hist ((o - 0x200) / 0x100))
  else if 0x600 ≤ o ∧ o < 0x640 then some q.sOwner
  else if o = 0x08 ∨ o = 0x10 ∨ o = 0x100 then some false
  else none

/-- A refused access. -/
def perfDenied (s : State) : State := s.event .tsu 0x062 {} 1

/-- SLICE_EN and SLICE as the slice view shows and stores them. -/
def sliceFilter (s : State) (v : Nat) : Nat :=
  v - bits v 47 41 * 2 ^ 41 + (64 + s.tsu.die.sliceId % 64) * 2 ^ 41

/-- Whether an offset holds PERF_SEL or HIST_CONTROL. -/
def filtered (o : Nat) : Bool := decide ((0x40 ≤ o ∧ o < 0x80) ∨ (0x140 ≤ o ∧ o < 0x160))

def slicePerfRead (o : Nat) (s : State) : Nat × State :=
  let q := s.tsu.b.perf
  if o = 0x18 then peek q.access s
  else if o = 0 then (if q.access = 0 then (0, perfDenied s) else peek q.cycles.toNat s)
  else match sliceOwns q o with
    | none => peek 0 s
    | some own =>
      if q.access = 0 || !own then (0, perfDenied s)
      else
        let r := perfRead .tsu o s
        (if filtered o then sliceFilter s r.1 else r.1, r.2)

def slicePerfWrite (o v : Nat) (s : State) : State :=
  let q := s.tsu.b.perf
  if o = 0x18 then s
  else match sliceOwns q o with
    | none => s
    | some own =>
      if q.access < 2 || !own then perfDenied s
      else if filtered o then perfPutReg .tsu o (sliceFilter s v) s
      else if o = 0x600 then perfPutReg .tsu o v s
      else s

/-! ### Mailboxes (R506) -/

def mbStatus (b : Mailbox) : Nat := pack [(bit b.overrun, 0, 0), (bit (!b.held.isEmpty), 1, 1), ((b.prod - b.cons).toNat, 15, 8)]

def mbRead (m o : Nat) (s : State) : Nat × State :=
  let b := s.mbox m
  if 0x1000 ≤ o ∧ o < 0x1800 then
    peek (match tget none b.ring ((o - 0x1000) / 32) with
      | some c => wordAt ((completionWords c).map (·.toNat)) (o % 32 / 8)
      | none => 0) s
  else match o with
    | 0x1808 => peek b.cons.toNat s
    | 0x1810 => peek b.cplProd.toNat s
    | 0x1818 => peek b.cplCons.toNat s
    | 0x1820 => peek (mbStatus b) s
    | _ => peek 0 s

/-! ### The whole window (R485, R487) -/

/-- A read of the register at `off`. -/
def tsuRead (off : Nat) (s : State) : Nat × State :=
  if off < 0x1000 then page0Read off s
  else if off < 0x1200 then portRead .tsu ((off - 0x1000) / 0x100) (off % 0x100) s
  else if off < 0x1300 then hsRead .tsu (off - 0x1200) s
  else if 0x2000 ≤ off ∧ off < 0x4000 then regionsRead off s
  else if 0x4000 ≤ off ∧ off < 0x5000 then measureRead off s
  else if 0x5800 ≤ off ∧ off < 0x5900 then peek (msixWord s.tsu.die ((off - 0x5800) / 8)) s
  else if off = 0x5900 then peek s.tsu.die.pba.toNat s
  else if 0x5000 ≤ off ∧ off < 0x5800 then perfRead .tsu (off - 0x5000) s
  else if 0x6000 ≤ off ∧ off < 0x60C0 then plateRead off s
  else if 0x60C0 ≤ off ∧ off < 0x7000 then syncRead off s
  else if 0x7000 ≤ off ∧ off < 0x7800 then slicePerfRead (off - 0x7000) s
  else if 0x8000 ≤ off ∧ off < 0x10000 then mbRead ((off - 0x8000) / 0x2000) (off % 0x2000) s
  else peek 0 s

/-- Causes of TSU_ALERT_N that persist, which set their bits again at once (R457). -/
def alertNow (s : State) : Nat :=
  let t := s.tsu.b.t
  pack [(bit t.disagree, 0, 0), (bit t.noTime, 1, 1), (bit ((s.port .tsu 0).link.wiring || (s.port .tsu 1).link.wiring), 2, 2),
    (bit (s.tsu.die.truingSlow && !t.locked), 3, 3), (bit (decide (3 ≤ s.tsu.b.hs.boot)), 4, 4), (bit s.tsu.mark.pathFault, 5, 5)]

/-- ALERT_CAUSE: writing 1 clears a cause; with none left the alert is released (R457). -/
def tsuAlertClear (v : Nat) (s : State) : State :=
  let a := (s.tsu.b.hs.alert &&& ~~~BitVec.ofNat 64 v) ||| BitVec.ofNat 64 (alertNow s)
  (s.modHs .tsu fun h => { h with alert := a }).modDie fun d => { d with alertN := decide (a ≠ 0) }

/-- LB_MASK of the selected slot: ignored with LB_BUSY while an instance is open (R238, R503). -/
def lbMaskPut (w v : Nat) (s : State) : State :=
  let k := s.tsu.sync.lbSel
  let b := localOf s k
  if b.open_ then s.modSync fun y => { y with lbBusy := true }
  else setLocal s k { b with mask := b.mask - bits b.mask (64 * w + 63) (64 * w) * 2 ^ (64 * w) + v % 2 ^ 64 * 2 ^ (64 * w) }

/-- HS_CONTROL: FW_GO starts the boot ROM from FW_ADDR (R495, R496). -/
def hsControl (v : Nat) (s : State) : State := if tbit v 0 then stepIn (execFwGo s.tsu.b.hs.fwAddr s) s else s

/-- FW_ADDR: read only once the guard lock is set. -/
def fwAddrPut (v : Nat) (s : State) : State :=
  if s.tsu.b.hs.guardLock then s else s.modHs .tsu fun h => { h with fwAddr := BitVec.ofNat 64 v }

/-- A write of a mailbox register. -/
def mbWrite (m o v : Nat) (s : State) : State :=
  match o with
  | 0x1800 => doorbell m (BitVec.ofNat 16 v) s
  | 0x1818 => cplCons m (BitVec.ofNat 16 v) s
  | 0x1820 => if tbit v 0 then s.modMbox m fun b => { b with overrun := false } else s
  | _ => s

/-- Writes of page 0x6. -/
def slicePut (off v : Nat) (s : State) : State :=
  if 0x6110 ≤ off ∧ off < 0x6158 ∧ off % 8 = 0 then lbMaskPut ((off - 0x6110) / 8) v s
  else if 0x6200 ≤ off ∧ off < 0x6300 ∧ off % 0x20 = 0x18 then stepIn (execLdRpWrite ((off - 0x6200) / 0x20) (BitVec.ofNat 16 v) s) s
  else match off with
    | 0x6030 => if tbit v 0 then stepIn (execStepFaultClear s) s else s
    | 0x6038 => if tbit v 0 then s.modPlate fun p => { p with slipped := false } else s
    | 0x6070 => s.modPlate fun p => { p with sel := bits v 12 0, selStaged := tbit v 16 }
    | 0x60A0 => s.modPlate fun p => { p with rgSel := bits v 7 0 }
    | 0x60C0 => s.modSync fun y => { y with ctrSel := bits v 11 0 }
    | 0x60E0 => s.modSync fun y => { y with watchSel := bits v 10 0 }
    | 0x6100 => s.modSync fun y => { y with lbSel := bits v 5 0 }
    | 0x6108 => if tbit v 1 then s.modSync fun y => { y with lbBusy := false } else s
    | 0x6310 => msixFlush (s.modDie fun d => { d with sliceMask := BitVec.ofNat 64 (v &&& 0x1FEE) })
    | 0x6320 =>
      s.modDie fun d => { d with acctThreshold := BitVec.ofNat 64 (bits v 7 0 + bits v 63 16 * 2 ^ 16) }
    | _ => s

/-- A write of the register at `off`; one that software may not write, or that is locked, is ignored. -/
def tsuWrite (off v : Nat) (s : State) : State :=
  if 0x1000 ≤ off ∧ off < 0x1200 then (if off % 0x100 = 0 then portControl .tsu ((off - 0x1000) / 0x100) v s else s)
  else if 0x4040 ≤ off ∧ off < 0x4080 ∧ off % 8 = 0 then timControlPut .tsu ((off - 0x4040) / 8) v s
  else if 0x4200 ≤ off ∧ off < 0x4480 then statPut .tsu ((off - 0x4200) / 0x40) (off % 0x40) v s
  else if 0x4500 ≤ off ∧ off < 0x4580 then intUnitPut .tsu ((off - 0x4500) / 0x40) (off % 0x40) v s
  else if 0x4800 ≤ off ∧ off < 0x4900 then frPutReg .tsu (off - 0x4800) v s
  else if 0x5800 ≤ off ∧ off < 0x5900 ∧ off % 8 = 0 then msixPut ((off - 0x5800) / 8) v s
  else if 0x5000 ≤ off ∧ off < 0x5800 then perfPutReg .tsu (off - 0x5000) v s
  else if 0x6000 ≤ off ∧ off < 0x7000 then slicePut off v s
  else if 0x7000 ≤ off ∧ off < 0x7800 then slicePerfWrite (off - 0x7000) v s
  else if 0x8000 ≤ off ∧ off < 0x10000 then mbWrite ((off - 0x8000) / 0x2000) (off % 0x2000) v s
  else match off with
    | 0x20 => tsuAlertClear v s
    | 0x28 => msixFlush (s.modDie fun d => { d with privMask := BitVec.ofNat 64 (v &&& 0x2011) })
    | 0x160 => stepIn (execCrossBudgetWrite (v % 512) s) s
    | 0x1200 => hsControl v s
    | 0x1208 => fwAddrPut v s
    | 0x2910 => stepIn (execMarkControlWrite v s) s
    | 0x4000 => timFaultClear .tsu 0 8 (bits v 15 8) s
    | _ => s

/-! ### The register commands -/

def regRead (p : Part) (off : Nat) (s : State) : Nat × State :=
  match p with | .tsu => tsuRead off s | .dist => distRead off s

def regWrite (p : Part) (off v : Nat) (s : State) : State :=
  match p with | .tsu => tsuWrite off v s | .dist => distWrite off v s

/-- The value read is what the reader sees. -/
def showRead (r : Nat × State) : State := { r.2 with rdata := BitVec.ofNat 64 r.1 }

/-- QUEUE_READ: the lowest word removes the oldest entry and captures it (R490); at another offset it is the read of
that register. -/
def execQueueRead (p : Part) (offset : Nat) (s : State) : Host.Outcome State Fault Refusal := .next (showRead (regRead p offset s))

/-- RC_REGISTER_READ: a read of a register, which returns the value before the edge and clears RC fields (R9, R488). -/
def execRcRegisterRead (p : Part) (offset : Nat) (s : State) : Host.Outcome State Fault Refusal :=
  .next (showRead (regRead p offset s))

/-- LEDGER_ENTRY_READ: word 0 captures the selected entry (R521). -/
def execLedgerEntryRead (s : State) : Host.Outcome State Fault Refusal :=
  .next (showRead (if ledgerServes s then ledgerEntryTake s else (0, s)))

/-- SLICE_PAGE_PERF_ACCESS: `offset` within the slice view at 0x7000 (R434, R502). -/
def execSlicePagePerfAccess (offset : Nat) (write : Bool) (v : W64) (s : State) : Host.Outcome State Fault Refusal :=
  .next (if write then slicePerfWrite offset v.toNat s else showRead (slicePerfRead offset s))

/-- ALERT_CAUSE_CLEAR (R457). -/
def execAlertCauseClear (p : Part) (bits : W64) (s : State) : Host.Outcome State Fault Refusal :=
  .next (match p with | .tsu => tsuAlertClear bits.toNat s | .dist => distAlertClear bits.toNat s)

/-- RW1C_WRITE (R9, R488). -/
def execRw1cWrite (p : Part) (offset : Nat) (bits : W64) (s : State) : Host.Outcome State Fault Refusal :=
  .next (regWrite p offset bits.toNat s)

/-- LB_MASK_WRITE: word `word` of the selected slot's mask (R503). -/
def execLbMaskWrite (word : Nat) (v : W64) (s : State) : Host.Outcome State Fault Refusal :=
  onUnit (decide (word < 9)) s (lbMaskPut word v.toNat)

/-- REGISTER_WRITE (R487, R509). -/
def execRegisterWrite (p : Part) (offset : Nat) (v : W64) (s : State) : Host.Outcome State Fault Refusal :=
  .next (regWrite p offset v.toNat s)

/-- FUNCTION_LEVEL_RESET: mailbox rings emptied, pending commands dropped without completion, MSI-X disabled; open
transactions and their staged state kept (R452, R506). -/
def execFunctionLevelReset (s : State) : Host.Outcome State Fault Refusal :=
  .next <|
    let s := { s with tsu := { s.tsu with mbs := [], remotes := [] } }
    let s := s.modBase .tsu fun b => { b with
      txns := b.txns.map fun t => { t with cmd := none, rollCmd := none }
      map := { b.map with aligns := b.map.aligns.map fun a => { a with cmd := none } } }
    (s.modFab fun f => { f with ops := [] }).modDie fun d => { d with msixOn := false, msixOpen := 0, pba := 0 }

end Sys2Proof.Machine
end

