-- ==== Sys2Proof/Machine/Hardware.lean ====
section
/-! DEFINITION. Pins, sensors and modules: hot-plug, temperature, JTAG, the reference clock and OSFP modules (R382, R454,
R469, R470, R476, R479 to R482). -/

namespace Sys2Proof.Machine

open Sys2Proof

/-- Every port of the distributor DOWN: transmitters and lasers off. -/
def allDown (s : State) : State :=
  ((List.range 128).filter fun i => (s.port .dist i).link.state != .down || (s.port .dist i).lasersOn).foldl (fun s i => toDown s .dist i) s

/-- Lasers and ports of a distributor come on where they may (R116, R479, R482). -/
def allOn (s : State) : State :=
  (List.range 128).foldl (fun s i =>
    let q := s.port .dist i
    if !portArmed s .dist i then s
    else tryTrain (if q.link.optical then s.modPort .dist i fun q => { q with lasersOn := true } else s) .dist i) s

/-! ### Hot-plug (R479 to R481) -/

/-- PRESENCE_MATE: the inserted board enables its ports; one that lost its presence in service stays dark until a power-on
reset. -/
def execPresenceMate (s : State) : Host.Outcome State Fault Refusal :=
  .next <|
    let s := s.modSv fun v => { v with present := true, dark := v.lostPresence }
    if s.dist.sv.dark then s else allOn s

/-- PRESENCE_BREAK: every transmitter and laser off; a part that is not DRAINED stops. -/
def execPresenceBreak (s : State) : Host.Outcome State Fault Refusal :=
  .next <|
    let s := allDown (s.modSv fun v => { v with present := false, dark := true })
    if s.dist.sv.state == .drained then s
    else (s.modSv fun v => { v with lostPresence := true }).modHs .dist fun h => { h with running := false }

/-- REMOVE_REQUEST: shown, alerted and sent on once; one that is DRAINED already may be withdrawn. -/
def execRemoveRequest (s : State) : Host.Outcome State Fault Refusal :=
  .next <|
    if s.dist.sv.removeReq then s
    else
      let s := (s.modSv fun v => { v with removeReq := true }).alert .dist 6
      removeReady (mgmt s .dist allRoots (.removeRequest (s.node .dist)))

/-! ### Temperature (R482) -/

/-- TJ_WARN_LEVEL in degrees (R482, R513). -/
def tjWarnLevel (s : State) : Nat := clampN 80 105 (s.cfg .dist 0x170 0x64)

/-- Ports held in DOWN below 0 degrees, and enabled again. -/
def coldCheck (s : State) : State :=
  let cold := decide (s.dist.b.tj < 0)
  if cold == s.dist.sv.coldHold then s
  else if cold then allDown (s.modSv fun v => { v with coldHold := true })
  else allOn (s.modSv fun v => { v with coldHold := false })

/-- TJ_WARN and its alert. -/
def warnCheck (s : State) : State :=
  let hot := decide ((tjWarnLevel s : Int) < s.dist.b.tj)
  if hot == s.dist.sv.tjWarn then s
  else
    let s := s.modSv fun v => { v with tjWarn := hot }
    if hot then s.alert .dist 5 else s

/-- At 110 degrees a hard event of the part against itself. -/
def hotCheck (old : Int) (s : State) : State :=
  if old < 110 ∧ 110 ≤ s.dist.b.tj then hardEvent s .dist (s.node .dist) 0 { detail := BitVec.ofInt 32 s.dist.b.tj } else s

/-- At 120 degrees the hardware trip: every transmitter and laser off until a power-on reset. -/
def tripCheck (s : State) : State :=
  if 120 ≤ s.dist.b.tj ∧ s.dist.sv.tripped = false then allDown (s.modSv fun v => { v with tripped := true }) else s

/-- JUNCTION_TEMP_CHANGE. A PV-TSU4 shows the temperature and sends it in its reports (R339, R491). -/
def execJunctionTempChange (p : Part) (tj : Int) (s : State) : Host.Outcome State Fault Refusal :=
  .next <|
    let old := (s.base p).tj
    let s := s.modBase p fun b => { b with tj }
    match p with
    | .tsu => s
    | .dist => tripCheck (hotCheck old (warnCheck (coldCheck s)))

/-! ### JTAG (R476) -/

/-- JTAG_EXTEST: the balls are taken from the chip's logic; the part returns only through a power-on reset. -/
def execJtagExtest (s : State) : Host.Outcome State Fault Refusal :=
  .next (allDown (s.modSv fun v => { v with jtag := true }))

/-! ### The reference clock (R454) -/

/-- REFCLK_RANGE: a reference out of range keeps ports in TRAIN. -/
def execRefclkRange (p : Part) (outside : Bool) (s : State) : Host.Outcome State Fault Refusal :=
  .next (s.modTime p fun t => { t with refclkRange := outside })

/-! ### Modules (R382, R469, R470) -/

/-- The launch power that the Headstock sets, in 0.01 dBm: +3.0 dBm, through the filter of GUARD_LASER (R382). -/
def laserSetting (s : State) : Int :=
  let h := s.dist.b.hs
  if h.guardLock then min 300 (signedOf 16 ((h.guards[4]?).getD 0).toNat) else 300

/-- What the Headstock finds of one module: present, its identity read, its power set; or gone, and its setting
discarded. -/
def moduleSeen (i : Nat) (here ready : Bool) (s : State) : State :=
  let q := s.port .dist i
  if here then
    let x := laserSetting s
    let s := if x < 300 ∧ q.modPresent = false then guardHit s .dist 4 (BitVec.ofInt 64 300) else s
    let s := s.modPort .dist i fun q => { q with
      modPresent := true, modReady := ready, laser := if ready then x else q.laser, link := { q.link with optical := true }
      lasersOn := ready && portArmed s .dist i }
    if ready then tryTrain s .dist i else s
  else if q.modPresent then
    (toDown s .dist i).modPort .dist i fun q => { q with
      modPresent := false, modReady := false, laser := 0, link := { q.link with optical := false } }
  else s

/-- The presence of the modules of ports 8b to 8b + 7 on bus b, read by a Headstock that runs. -/
def modulesSeen (bus : Nat) (presence ready : BitVec 8) (s : State) : State :=
  if !s.dist.b.hs.running then s
  else (List.range 8).foldl (fun s k => moduleSeen (8 * bus + k) (presence.getLsbD k) (ready.getLsbD k) s) s

/-- MODULE_INTERRUPT: MOD_INT_N asserts. -/
def execModuleInterrupt (bus : Nat) (presence ready : BitVec 8) (s : State) : Host.Outcome State Fault Refusal :=
  onUnit (decide (bus < 16)) s (modulesSeen bus presence ready)

/-- MODULE_POLL: every 100 ms. -/
def execModulePoll (bus : Nat) (presence ready : BitVec 8) (s : State) : Host.Outcome State Fault Refusal :=
  onUnit (decide (bus < 16)) s (modulesSeen bus presence ready)

end Sys2Proof.Machine
end

