-- ==== Sys2Proof/Machine/Dispatch.lean ====
section
/-! DEFINITION. The meaning of each command: one arm per constructor of `Instr`, in the order of the operation
table. -/

namespace Sys2Proof.Machine

open Sys2Proof

def exec (i : Instr) (s : State) : Host.Outcome State Fault Refusal :=
  match i with
  | .runStart => Sys2Proof.Machine.execRunStart s
  | .tickEdge p sendOfs => Sys2Proof.Machine.execTickEdge p sendOfs s
  | .markerReceive p port slot stamp => Sys2Proof.Machine.execMarkerReceive p port slot stamp s
  | .loopWindowEnd p => Sys2Proof.Machine.execLoopWindowEnd p s
  | .holdBudgetExpire p => Sys2Proof.Machine.execHoldBudgetExpire p s
  | .mapRecordAccept p port odd => Sys2Proof.Machine.execMapRecordAccept p port odd s
  | .mapEffect p => Sys2Proof.Machine.execMapEffect p s
  | .wrapRecordSend => Sys2Proof.Machine.execWrapRecordSend s
  | .timeMap c step utc utcSet => Sys2Proof.Machine.execTimeMap c step utc utcSet s
  | .stNowLoRead p wide => Sys2Proof.Machine.execStNowLoRead p wide s
  | .mapOriginSecRead p => Sys2Proof.Machine.execMapOriginSecRead p s
  | .stepBoundary p slice => Sys2Proof.Machine.execStepBoundary p slice s
  | .turningStart p slice => Sys2Proof.Machine.execTurningStart p slice s
  | .plateBankCopy => Sys2Proof.Machine.execPlateBankCopy s
  | .txnEffect p txn => Sys2Proof.Machine.execTxnEffect p txn s
  | .membershipEffect p => Sys2Proof.Machine.execMembershipEffect p s
  | .leaderChangeEffect p => Sys2Proof.Machine.execLeaderChangeEffect p s
  | .refInputFail idx why => Sys2Proof.Machine.execRefInputFail idx why s
  | .wtrExpire idx => Sys2Proof.Machine.execWtrExpire idx s
  | .selectionRun => Sys2Proof.Machine.execSelectionRun s
  | .voteRefReceive port v => Sys2Proof.Machine.execVoteRefReceive port v s
  | .ptpMessageReceive port m => Sys2Proof.Machine.execPtpMessageReceive port m s
  | .esmcPduReceive port ql => Sys2Proof.Machine.execEsmcPduReceive port ql s
  | .refPresenceWindow idx pps count inTime => Sys2Proof.Machine.execRefPresenceWindow idx pps count inTime s
  | .align c scope slice step => Sys2Proof.Machine.execAlign c scope slice step s
  | .alignApply p => Sys2Proof.Machine.execAlignApply p s
  | .portEnableWrite p port enable => Sys2Proof.Machine.execPortEnableWrite p port enable s
  | .portRetrainWrite p port => Sys2Proof.Machine.execPortRetrainWrite p port s
  | .signalDetect p port lane => Sys2Proof.Machine.execSignalDetect p port lane s
  | .ts1Receive p port t => Sys2Proof.Machine.execTs1Receive p port t s
  | .ts2Receive p port t => Sys2Proof.Machine.execTs2Receive p port t s
  | .alignMapReceive p port t => Sys2Proof.Machine.execAlignMapReceive p port t s
  | .alignDoneReceive p port t => Sys2Proof.Machine.execAlignDoneReceive p port t s
  | .trainRetry p port => Sys2Proof.Machine.execTrainRetry p port s
  | .alignTimeout p port => Sys2Proof.Machine.execAlignTimeout p port s
  | .calReceive p port t => Sys2Proof.Machine.execCalReceive p port t s
  | .timecalComplete p port => Sys2Proof.Machine.execTimecalComplete p port s
  | .unplannedRetrain p port => Sys2Proof.Machine.execUnplannedRetrain p port s
  | .lossOfSignal p port => Sys2Proof.Machine.execLossOfSignal p port s
  | .laneFail p port lane => Sys2Proof.Machine.execLaneFail p port lane s
  | .laneWarn p port lane => Sys2Proof.Machine.execLaneWarn p port lane s
  | .spareTrained p port => Sys2Proof.Machine.execSpareTrained p port s
  | .changeReqReceive p port t => Sys2Proof.Machine.execChangeReqReceive p port t s
  | .changeOrderReceive p port t => Sys2Proof.Machine.execChangeOrderReceive p port t s
  | .changeAckReceive p port t => Sys2Proof.Machine.execChangeAckReceive p port t s
  | .swapCopyStart p port => Sys2Proof.Machine.execSwapCopyStart p port s
  | .linkChangeApply p port matched => Sys2Proof.Machine.execLinkChangeApply p port matched s
  | .slotTransmit p port slot => Sys2Proof.Machine.execSlotTransmit p port slot s
  | .rotationStart p port => Sys2Proof.Machine.execRotationStart p port s
  | .calDwellEnd p port lane tx rx => Sys2Proof.Machine.execCalDwellEnd p port lane tx rx s
  | .calAgeStep p port => Sys2Proof.Machine.execCalAgeStep p port s
  | .markPathCal region rt => Sys2Proof.Machine.execMarkPathCal region rt s
  | .markCalComplete tTurn => Sys2Proof.Machine.execMarkCalComplete tTurn s
  | .markEmit => Sys2Proof.Machine.execMarkEmit s
  | .markReceive region frame phi edges => Sys2Proof.Machine.execMarkReceive region frame phi edges s
  | .markMiss region edges => Sys2Proof.Machine.execMarkMiss region edges s
  | .markControlWrite v => Sys2Proof.Machine.execMarkControlWrite v s
  | .regionClockStop region => Sys2Proof.Machine.execRegionClockStop region s
  | .regionFreqChange region setting edges => Sys2Proof.Machine.execRegionFreqChange region setting edges s
  | .crossingWordArrive region port tag word edges => Sys2Proof.Machine.execCrossingWordArrive region port tag word edges s
  | .crossingRelease region port edges => Sys2Proof.Machine.execCrossingRelease region port edges s
  | .crossCal region port d => Sys2Proof.Machine.execCrossCal region port d s
  | .crossBudgetWrite v => Sys2Proof.Machine.execCrossBudgetWrite v s
  | .entryArm => Sys2Proof.Machine.execEntryArm s
  | .regionArmReceive region entry cond t arg => Sys2Proof.Machine.execRegionArmReceive region entry cond t arg s
  | .kernelLaunch region edges => Sys2Proof.Machine.execKernelLaunch region edges s
  | .firedFrameReceive region frame => Sys2Proof.Machine.execFiredFrameReceive region frame s
  | .conditionDecide entry => Sys2Proof.Machine.execConditionDecide entry s
  | .regionReleaseReceive region entry => Sys2Proof.Machine.execRegionReleaseReceive region entry s
  | .regionCancelReceive region entry => Sys2Proof.Machine.execRegionCancelReceive region entry s
  | .holdExpire entry => Sys2Proof.Machine.execHoldExpire entry s
  | .ctrAdd entry => Sys2Proof.Machine.execCtrAdd entry s
  | .ctrSub entry => Sys2Proof.Machine.execCtrSub entry s
  | .collect entry => Sys2Proof.Machine.execCollect entry s
  | .timTrig entry => Sys2Proof.Machine.execTimTrig entry s
  | .tsOut entry => Sys2Proof.Machine.execTsOut entry s
  | .tsOutPulseEnd => Sys2Proof.Machine.execTsOutPulseEnd s
  | .strobe entry => Sys2Proof.Machine.execStrobe entry s
  | .stepClose entry => Sys2Proof.Machine.execStepClose entry s
  | .stepFaultClear => Sys2Proof.Machine.execStepFaultClear s
  | .add core ctag counter n => Sys2Proof.Machine.execAdd core ctag counter n s
  | .sub core ctag counter n => Sys2Proof.Machine.execSub core ctag counter n s
  | .read core ctag counter => Sys2Proof.Machine.execRead core ctag counter s
  | .set core ctag counter v => Sys2Proof.Machine.execSet core ctag counter v s
  | .unknownCounterOpc core ctag opc => Sys2Proof.Machine.execUnknownCounterOpc core ctag opc s
  | .signal core ctag target counter op n replyReq => Sys2Proof.Machine.execSignal core ctag target counter op n replyReq s
  | .watchReg core ctag counter eq rearm target tag threshold => Sys2Proof.Machine.execWatchReg core ctag counter eq rearm target tag threshold s
  | .watchCancel core ctag watch => Sys2Proof.Machine.execWatchCancel core ctag watch s
  | .localDefine core ctag slot group cores => Sys2Proof.Machine.execLocalDefine core ctag slot group cores s
  | .localArrive core ctag slot => Sys2Proof.Machine.execLocalArrive core ctag slot s
  | .hallArrive core ctag group => Sys2Proof.Machine.execHallArrive core ctag group s
  | .collectStart core ctag desc tag step => Sys2Proof.Machine.execCollectStart core ctag desc tag step s
  | .coreCreditReturn core => Sys2Proof.Machine.execCoreCreditReturn core s
  | .signalCellReceive a c => Sys2Proof.Machine.execSignalCellReceive a c s
  | .signalForward a c => Sys2Proof.Machine.execSignalForward a c s
  | .signalReplyReceive a c => Sys2Proof.Machine.execSignalReplyReceive a c s
  | .signalDeckleExpire src opId => Sys2Proof.Machine.execSignalDeckleExpire src opId s
  | .replyDeckleExpire opId => Sys2Proof.Machine.execReplyDeckleExpire opId s
  | .signalDeadlineExpire opId => Sys2Proof.Machine.execSignalDeadlineExpire opId s
  | .barrierArriveReceive a c => Sys2Proof.Machine.execBarrierArriveReceive a c s
  | .barrierDoneForward a c => Sys2Proof.Machine.execBarrierDoneForward a c s
  | .barrierDoneReceive a c => Sys2Proof.Machine.execBarrierDoneReceive a c s
  | .barrierDeckleExpire group => Sys2Proof.Machine.execBarrierDeckleExpire group s
  | .barrierWaitExpire group => Sys2Proof.Machine.execBarrierWaitExpire group s
  | .contextSwitch => Sys2Proof.Machine.execContextSwitch s
  | .contextPortReopen => Sys2Proof.Machine.execContextPortReopen s
  | .collectUpReceive a c => Sys2Proof.Machine.execCollectUpReceive a c s
  | .postDeadlineLimit slice id plane => Sys2Proof.Machine.execPostDeadlineLimit slice id plane s
  | .postTornLimit slice id plane => Sys2Proof.Machine.execPostTornLimit slice id plane s
  | .collectDownReceive a c => Sys2Proof.Machine.execCollectDownReceive a c s
  | .rootVoteExpire slice id => Sys2Proof.Machine.execRootVoteExpire slice id s
  | .collectResultReceive a c => Sys2Proof.Machine.execCollectResultReceive a c s
  | .collectRelease desc inst => Sys2Proof.Machine.execCollectRelease desc inst s
  | .collectExpire desc inst => Sys2Proof.Machine.execCollectExpire desc inst s
  | .resendReceive port v => Sys2Proof.Machine.execResendReceive port v s
  | .resendWaitExpire desc inst => Sys2Proof.Machine.execResendWaitExpire desc inst s
  | .resultKeepExpire slice id => Sys2Proof.Machine.execResultKeepExpire slice id s
  | .digestReqReceive port v => Sys2Proof.Machine.execDigestReqReceive port v s
  | .postDigestReceive port v => Sys2Proof.Machine.execPostDigestReceive port v s
  | .digestWaitExpire slice id => Sys2Proof.Machine.execDigestWaitExpire slice id s
  | .ledgerSubmit c sgroup prio tokens maxLen deadline interval page seed owner => Sys2Proof.Machine.execLedgerSubmit c sgroup prio tokens maxLen deadline interval page seed owner s
  | .ledgerRead c req gen => Sys2Proof.Machine.execLedgerRead c req gen s
  | .ledgerPause c req gen => Sys2Proof.Machine.execLedgerPause c req gen s
  | .ledgerResume c req gen => Sys2Proof.Machine.execLedgerResume c req gen s
  | .ledgerCancel c req gen => Sys2Proof.Machine.execLedgerCancel c req gen s
  | .ledgerRelease c req gen => Sys2Proof.Machine.execLedgerRelease c req gen s
  | .ledgerCellReceive a m => Sys2Proof.Machine.execLedgerCellReceive a m s
  | .ledgerCommit => Sys2Proof.Machine.execLedgerCommit s
  | .ledgerReplyReceive a m => Sys2Proof.Machine.execLedgerReplyReceive a m s
  | .ledgerEventReceive a m => Sys2Proof.Machine.execLedgerEventReceive a m s
  | .closeReceive a m => Sys2Proof.Machine.execCloseReceive a m s
  | .samplingResultReceive sg step plane => Sys2Proof.Machine.execSamplingResultReceive sg step plane s
  | .ledgerSampleWaitExpire sg step => Sys2Proof.Machine.execLedgerSampleWaitExpire sg step s
  | .closeDecide sg => Sys2Proof.Machine.execCloseDecide sg s
  | .closeMissed sg => Sys2Proof.Machine.execCloseMissed sg s
  | .batchDeltaReceive a d => Sys2Proof.Machine.execBatchDeltaReceive a d s
  | .deltaRelease sg step => Sys2Proof.Machine.execDeltaRelease sg step s
  | .retainExpire req => Sys2Proof.Machine.execRetainExpire req s
  | .ledgerDigestReceive port v majority => Sys2Proof.Machine.execLedgerDigestReceive port v majority s
  | .ldRpWrite k v => Sys2Proof.Machine.execLdRpWrite k v s
  | .sliceReset c slice => Sys2Proof.Machine.execSliceReset c slice s
  | .sliceResetEffect p slice => Sys2Proof.Machine.execSliceResetEffect p slice s
  | .sliceMove => Sys2Proof.Machine.execSliceMove s
  | .reportReceive port v => Sys2Proof.Machine.execReportReceive port v s
  | .proposeReceive port v => Sys2Proof.Machine.execProposeReceive port v s
  | .memberReceive p port v => Sys2Proof.Machine.execMemberReceive p port v s
  | .fenceNoticeReceive port v => Sys2Proof.Machine.execFenceNoticeReceive port v s
  | .fenceWaitExpire node => Sys2Proof.Machine.execFenceWaitExpire node s
  | .suspectClearExpire node => Sys2Proof.Machine.execSuspectClearExpire node s
  | .probationEnd node => Sys2Proof.Machine.execProbationEnd node s
  | .timSelfCheck p channel interpB value => Sys2Proof.Machine.execTimSelfCheck p channel interpB value s
  | .eccUncorrectable p => Sys2Proof.Machine.execEccUncorrectable p s
  | .watchdogExpire p pc => Sys2Proof.Machine.execWatchdogExpire p pc s
  | .rootLossReceive port v => Sys2Proof.Machine.execRootLossReceive port v s
  | .electOfferReceive port v => Sys2Proof.Machine.execElectOfferReceive port v s
  | .electAcceptReceive port v => Sys2Proof.Machine.execElectAcceptReceive port v s
  | .electOfferTimeout index => Sys2Proof.Machine.execElectOfferTimeout index s
  | .triadSetReceive p port v => Sys2Proof.Machine.execTriadSetReceive p port v s
  | .triadEffect p => Sys2Proof.Machine.execTriadEffect p s
  | .electLimitExpire => Sys2Proof.Machine.execElectLimitExpire s
  | .copyReceive port v => Sys2Proof.Machine.execCopyReceive port v s
  | .ledgerReplayComplete => Sys2Proof.Machine.execLedgerReplayComplete s
  | .tsuResetRelease => Sys2Proof.Machine.execTsuResetRelease s
  | .fwGo addr => Sys2Proof.Machine.execFwGo addr s
  | .bootComplete p hdr checks hdr2 checks2 => Sys2Proof.Machine.execBootComplete p hdr checks hdr2 checks2 s
  | .truingSlow => Sys2Proof.Machine.execTruingSlow s
  | .joinSettleExpire p => Sys2Proof.Machine.execJoinSettleExpire p s
  | .joinReadyRepeat p => Sys2Proof.Machine.execJoinReadyRepeat p s
  | .joinReadyReceive env j => Sys2Proof.Machine.execJoinReadyReceive env j s
  | .part c step => Sys2Proof.Machine.execPart c step s
  | .partBoundary => Sys2Proof.Machine.execPartBoundary s
  | .partDrainComplete => Sys2Proof.Machine.execPartDrainComplete s
  | .partLimitExpire => Sys2Proof.Machine.execPartLimitExpire s
  | .partDoneReceive env node st cancelled => Sys2Proof.Machine.execPartDoneReceive env node st cancelled s
  | .rejoin c die => Sys2Proof.Machine.execRejoin c die s
  | .quarantineClear c node => Sys2Proof.Machine.execQuarantineClear c node s
  | .drain c node => Sys2Proof.Machine.execDrain c node s
  | .undrain c node => Sys2Proof.Machine.execUndrain c node s
  | .drainComplete => Sys2Proof.Machine.execDrainComplete s
  | .drainLimitExpire => Sys2Proof.Machine.execDrainLimitExpire s
  | .copyReqReceive port env => Sys2Proof.Machine.execCopyReqReceive port env s
  | .copyDataReceive env cs digest => Sys2Proof.Machine.execCopyDataReceive env cs digest s
  | .imageReceive env cs => Sys2Proof.Machine.execImageReceive env cs s
  | .powerOnReset role planeB rootCapable smbAddr => Sys2Proof.Machine.execPowerOnReset role planeB rootCapable smbAddr s
  | .nodePositionWrite v => Sys2Proof.Machine.execNodePositionWrite v s
  | .mbDoorbell mbx v => Sys2Proof.Machine.execMbDoorbell mbx v s
  | .mbCplConsWrite mbx v => Sys2Proof.Machine.execMbCplConsWrite mbx v s
  | .mailboxUnknownOpcode c opcode => Sys2Proof.Machine.execMailboxUnknownOpcode c opcode s
  | .txnBegin c n => Sys2Proof.Machine.execTxnBegin c n s
  | .commit c whenStep slice step => Sys2Proof.Machine.execCommit c whenStep slice step s
  | .rollback c => Sys2Proof.Machine.execRollback c s
  | .txnStatus c txn => Sys2Proof.Machine.execTxnStatus c txn s
  | .plateWrite c entry e => Sys2Proof.Machine.execPlateWrite c entry e s
  | .plateAppend c e => Sys2Proof.Machine.execPlateAppend c e s
  | .plateLoad c first es dmaOk => Sys2Proof.Machine.execPlateLoad c first es dmaOk s
  | .plateClear c => Sys2Proof.Machine.execPlateClear c s
  | .rgroupWrite c group mask => Sys2Proof.Machine.execRgroupWrite c group mask s
  | .descWrite c desc d => Sys2Proof.Machine.execDescWrite c desc d s
  | .turningSet c slice st0 len boundary => Sys2Proof.Machine.execTurningSet c slice st0 len boundary s
  | .sliceAssign c slice valid => Sys2Proof.Machine.execSliceAssign c slice valid s
  | .sliceMapWrite c slice mask => Sys2Proof.Machine.execSliceMapWrite c slice mask s
  | .sliceWeight c port slice weight => Sys2Proof.Machine.execSliceWeight c port slice weight s
  | .hgroupWrite c group piece => Sys2Proof.Machine.execHgroupWrite c group piece s
  | .hgroupFree c group => Sys2Proof.Machine.execHgroupFree c group s
  | .sgWrite c sg f => Sys2Proof.Machine.execSgWrite c sg f s
  | .ledgerPart c quotas => Sys2Proof.Machine.execLedgerPart c quotas s
  | .ctxSave c addr step => Sys2Proof.Machine.execCtxSave c addr step s
  | .ctxRestore c img dmaOk step => Sys2Proof.Machine.execCtxRestore c img dmaOk step s
  | .configWrite c index value => Sys2Proof.Machine.execConfigWrite c index value s
  | .ctrAlloc c => Sys2Proof.Machine.execCtrAlloc c s
  | .ctrAllocAt c counter => Sys2Proof.Machine.execCtrAllocAt c counter s
  | .ctrFree c counter => Sys2Proof.Machine.execCtrFree c counter s
  | .ctrSet c counter v lim => Sys2Proof.Machine.execCtrSet c counter v lim s
  | .ctrRead c counter => Sys2Proof.Machine.execCtrRead c counter s
  | .keyLoad c slot tagOk => Sys2Proof.Machine.execKeyLoad c slot tagOk s
  | .keySelect c slot tick => Sys2Proof.Machine.execKeySelect c slot tick s
  | .keySelectEffect p => Sys2Proof.Machine.execKeySelectEffect p s
  | .remoteCmd c dst rc dmaOk => Sys2Proof.Machine.execRemoteCmd c dst rc dmaOk s
  | .fwStage c data dmaOk => Sys2Proof.Machine.execFwStage c data dmaOk s
  | .fwActivate c slot => Sys2Proof.Machine.execFwActivate c slot s
  | .nop c => Sys2Proof.Machine.execNop c s
  | .ident c => Sys2Proof.Machine.execIdent c s
  | .status c offset count write wOffset wValue wMask smbus => Sys2Proof.Machine.execStatus c offset count write wOffset wValue wMask smbus s
  | .fwRecover c data dmaOk => Sys2Proof.Machine.execFwRecover c data dmaOk s
  | .commitRequestReceive env txn whenStep slice step => Sys2Proof.Machine.execCommitRequestReceive env txn whenStep slice step s
  | .txnJoinReceive env txn n => Sys2Proof.Machine.execTxnJoinReceive env txn n s
  | .prepareReceive p env txn deadline boundary => Sys2Proof.Machine.execPrepareReceive p env txn deadline boundary s
  | .preparedReceive env txn => Sys2Proof.Machine.execPreparedReceive env txn s
  | .prepFailReceive env txn reason detail => Sys2Proof.Machine.execPrepFailReceive env txn reason detail s
  | .prepareDeadlineExpire txn => Sys2Proof.Machine.execPrepareDeadlineExpire txn s
  | .decideReceive p env txn d => Sys2Proof.Machine.execDecideReceive p env txn d s
  | .decideWaitExpire p txn => Sys2Proof.Machine.execDecideWaitExpire p txn s
  | .txnQueryReceive env txn => Sys2Proof.Machine.execTxnQueryReceive env txn s
  | .mgmtCommandReceive port env tag txn rc => Sys2Proof.Machine.execMgmtCommandReceive port env tag txn rc s
  | .mgmtCompletionReceive env cp => Sys2Proof.Machine.execMgmtCompletionReceive env cp s
  | .fwDataReceive env offset data => Sys2Proof.Machine.execFwDataReceive env offset data s
  | .timEvent p channel fall tx tap => Sys2Proof.Machine.execTimEvent p channel fall tx tap s
  | .statStart p unit v => Sys2Proof.Machine.execStatStart p unit v s
  | .intControlWrite p unit v => Sys2Proof.Machine.execIntControlWrite p unit v s
  | .intLegacyTimeout p unit => Sys2Proof.Machine.execIntLegacyTimeout p unit s
  | .queueRead p offset => Sys2Proof.Machine.execQueueRead p offset s
  | .rcRegisterRead p offset => Sys2Proof.Machine.execRcRegisterRead p offset s
  | .ledgerEntryRead => Sys2Proof.Machine.execLedgerEntryRead s
  | .frArm p => Sys2Proof.Machine.execFrArm p s
  | .frDisarm p => Sys2Proof.Machine.execFrDisarm p s
  | .frTrigger p => Sys2Proof.Machine.execFrTrigger p s
  | .missedClr p => Sys2Proof.Machine.execMissedClr p s
  | .frRearmComplete p => Sys2Proof.Machine.execFrRearmComplete p s
  | .frFreeze p => Sys2Proof.Machine.execFrFreeze p s
  | .frSoftwareWrite p data => Sys2Proof.Machine.execFrSoftwareWrite p data s
  | .perfSelWrite p n v => Sys2Proof.Machine.execPerfSelWrite p n v s
  | .perfClear p n => Sys2Proof.Machine.execPerfClear p n s
  | .perfFreeze p freeze => Sys2Proof.Machine.execPerfFreeze p freeze s
  | .perfSnap p => Sys2Proof.Machine.execPerfSnap p s
  | .histClear p h => Sys2Proof.Machine.execHistClear p h s
  | .slicePagePerfAccess offset write v => Sys2Proof.Machine.execSlicePagePerfAccess offset write v s
  | .coreReset core => Sys2Proof.Machine.execCoreReset core s
  | .coreResetRelease core => Sys2Proof.Machine.execCoreResetRelease core s
  | .functionLevelReset => Sys2Proof.Machine.execFunctionLevelReset s
  | .alertCauseClear p bits => Sys2Proof.Machine.execAlertCauseClear p bits s
  | .rw1cWrite p offset bits => Sys2Proof.Machine.execRw1cWrite p offset bits s
  | .lbMaskWrite word v => Sys2Proof.Machine.execLbMaskWrite word v s
  | .registerWrite p offset v => Sys2Proof.Machine.execRegisterWrite p offset v s
  | .presenceMate => Sys2Proof.Machine.execPresenceMate s
  | .presenceBreak => Sys2Proof.Machine.execPresenceBreak s
  | .removeRequest => Sys2Proof.Machine.execRemoveRequest s
  | .powerGoodLoss => Sys2Proof.Machine.execPowerGoodLoss s
  | .junctionTempChange p tj => Sys2Proof.Machine.execJunctionTempChange p tj s
  | .jtagExtest => Sys2Proof.Machine.execJtagExtest s
  | .moduleInterrupt bus presence ready => Sys2Proof.Machine.execModuleInterrupt bus presence ready s
  | .modulePoll bus presence ready => Sys2Proof.Machine.execModulePoll bus presence ready s
  | .ledgerOpDeadlineExpire opId => Sys2Proof.Machine.execLedgerOpDeadlineExpire opId s
  | .dllLock p channel => Sys2Proof.Machine.execDllLock p channel s
  | .tsuRstNAssert => Sys2Proof.Machine.execTsuRstNAssert s
  | .dResetNAssert => Sys2Proof.Machine.execDResetNAssert s
  | .refclkRange p outside => Sys2Proof.Machine.execRefclkRange p outside s
  | .spareNotTrained p port => Sys2Proof.Machine.execSpareNotTrained p port s
  | .regionClockStart region => Sys2Proof.Machine.execRegionClockStart region s
  | .markCalTemp tj => Sys2Proof.Machine.execMarkCalTemp tj s
  | .ppsOutEdge out rising => Sys2Proof.Machine.execPpsOutEdge out rising s

end Sys2Proof.Machine
end

