-- ==== Sys2Proof/WellFormed.lean ====
section
/-! DEFINITION. Well-formed commands: every port, lane, region, crossing port, core, unit, slice and mailbox that a
command names is one that the part has. Every other operand may have any value. -/

namespace Sys2Proof

open Sys2Proof.Machine

/-- A port of a part: 2 at a PV-TSU4 (R51), 128 at a PV-D128 (R57). -/
def portOk (p : Part) (i : Nat) : Bool := decide (i < portCount p)

/-- A crossing port of a region of the 12 x 12 grid (R50, R180). -/
def crossOk (r i : Nat) : Bool := decide (r < 144) && crossExists r i

/-- The sender of a mailbox command: a die has mailboxes 0 to 3 (R384); a distributor's commands count as mailbox 0
(R390). -/
def cmdOk (c : Cmd) : Bool := c.part == .dist || decide (c.mbx < 4)

/-- Whether a command is well formed. -/
def Instr.wf (i : Instr) : Bool :=
  match i with
  | .runStart => true
  | .tickEdge _ _ => true
  | .markerReceive p port _ _ => portOk p port
  | .loopWindowEnd _ => true
  | .holdBudgetExpire _ => true
  | .mapRecordAccept p port _ => portOk p port
  | .mapEffect _ => true
  | .wrapRecordSend => true
  | .timeMap c _ _ _ => cmdOk c
  | .stNowLoRead _ _ => true
  | .mapOriginSecRead _ => true
  | .stepBoundary _ slice => decide (slice < 64)
  | .turningStart _ slice => decide (slice < 64)
  | .plateBankCopy => true
  | .txnEffect _ _ => true
  | .membershipEffect _ => true
  | .leaderChangeEffect _ => true
  | .refInputFail i _ => decide (i < 6)
  | .wtrExpire i => decide (i < 6)
  | .selectionRun => true
  | .voteRefReceive port _ => portOk .dist port
  | .ptpMessageReceive port _ => decide (port < 2)
  | .esmcPduReceive port _ => decide (port < 2)
  | .refPresenceWindow i _ _ _ => decide (i < 6)
  | .align c _ _ _ => cmdOk c
  | .alignApply _ => true
  | .portEnableWrite p port _ => portOk p port
  | .portRetrainWrite p port => portOk p port
  | .signalDetect p port lane => portOk p port && decide (lane < 3)
  | .ts1Receive p port _ => portOk p port
  | .ts2Receive p port _ => portOk p port
  | .alignMapReceive p port _ => portOk p port
  | .alignDoneReceive p port _ => portOk p port
  | .trainRetry p port => portOk p port
  | .alignTimeout p port => portOk p port
  | .calReceive p port _ => portOk p port
  | .timecalComplete p port => portOk p port
  | .unplannedRetrain p port => portOk p port
  | .lossOfSignal p port => portOk p port
  | .laneFail p port lane => portOk p port && decide (lane < 3)
  | .laneWarn p port lane => portOk p port && decide (lane < 3)
  | .spareTrained p port => portOk p port
  | .changeReqReceive p port _ => portOk p port
  | .changeOrderReceive p port _ => portOk p port
  | .changeAckReceive p port _ => portOk p port
  | .swapCopyStart p port => portOk p port
  | .linkChangeApply p port _ => portOk p port
  | .slotTransmit p port _ => portOk p port
  | .rotationStart p port => portOk p port
  | .calDwellEnd p port lane _ _ => portOk p port && decide (lane < 3)
  | .calAgeStep p port => portOk p port
  | .markPathCal region _ => decide (region < 144)
  | .markCalComplete _ => true
  | .markEmit => true
  | .markReceive region _ _ _ => decide (region < 144)
  | .markMiss region _ => decide (region < 144)
  | .markControlWrite _ => true
  | .regionClockStop region => decide (region < 144)
  | .regionFreqChange region _ _ => decide (region < 144)
  | .crossingWordArrive region port _ _ _ => crossOk region port
  | .crossingRelease region port _ => crossOk region port
  | .crossCal region port _ => crossOk region port
  | .crossBudgetWrite _ => true
  | .entryArm => true
  | .regionArmReceive region _ _ _ _ => decide (region < 144)
  | .kernelLaunch region _ => decide (region < 144)
  | .firedFrameReceive region _ => decide (region < 144)
  | .conditionDecide _ => true
  | .regionReleaseReceive region _ => decide (region < 144)
  | .regionCancelReceive region _ => decide (region < 144)
  | .holdExpire _ => true
  | .ctrAdd _ => true
  | .ctrSub _ => true
  | .collect _ => true
  | .timTrig _ => true
  | .tsOut _ => true
  | .tsOutPulseEnd => true
  | .strobe _ => true
  | .stepClose _ => true
  | .stepFaultClear => true
  | .add core _ _ _ => decide (core < 576)
  | .sub core _ _ _ => decide (core < 576)
  | .read core _ _ => decide (core < 576)
  | .set core _ _ _ => decide (core < 576)
  | .unknownCounterOpc core _ _ => decide (core < 576)
  | .signal core _ _ _ _ _ _ => decide (core < 576)
  | .watchReg core _ _ _ _ _ _ _ => decide (core < 576)
  | .watchCancel core _ _ => decide (core < 576)
  | .localDefine core _ _ _ _ => decide (core < 576)
  | .localArrive core _ _ => decide (core < 576)
  | .hallArrive core _ _ => decide (core < 576)
  | .collectStart core _ _ _ _ => decide (core < 576)
  | .coreCreditReturn core => decide (core < 576)
  | .signalCellReceive a _ => portOk .tsu a.port
  | .signalForward a _ => portOk .dist a.port
  | .signalReplyReceive a _ => portOk .tsu a.port
  | .signalDeckleExpire _ _ => true
  | .replyDeckleExpire _ => true
  | .signalDeadlineExpire _ => true
  | .barrierArriveReceive a _ => portOk .dist a.port
  | .barrierDoneForward a _ => portOk .dist a.port
  | .barrierDoneReceive a _ => portOk .tsu a.port
  | .barrierDeckleExpire _ => true
  | .barrierWaitExpire _ => true
  | .contextSwitch => true
  | .contextPortReopen => true
  | .collectUpReceive a _ => portOk .dist a.port
  | .postDeadlineLimit _ _ _ => true
  | .postTornLimit _ _ _ => true
  | .collectDownReceive a _ => portOk .dist a.port
  | .rootVoteExpire _ _ => true
  | .collectResultReceive a _ => portOk .tsu a.port
  | .collectRelease _ _ => true
  | .collectExpire _ _ => true
  | .resendReceive port _ => portOk .dist port
  | .resendWaitExpire _ _ => true
  | .resultKeepExpire _ _ => true
  | .digestReqReceive port _ => portOk .dist port
  | .postDigestReceive port _ => portOk .dist port
  | .digestWaitExpire _ _ => true
  | .ledgerSubmit c _ _ _ _ _ _ _ _ _ => cmdOk c
  | .ledgerRead c _ _ => cmdOk c
  | .ledgerPause c _ _ => cmdOk c
  | .ledgerResume c _ _ => cmdOk c
  | .ledgerCancel c _ _ => cmdOk c
  | .ledgerRelease c _ _ => cmdOk c
  | .ledgerCellReceive a _ => portOk .dist a.port
  | .ledgerCommit => true
  | .ledgerReplyReceive a _ => portOk .tsu a.port
  | .ledgerEventReceive a _ => portOk .tsu a.port
  | .closeReceive a _ => portOk .dist a.port
  | .samplingResultReceive _ _ _ => true
  | .ledgerSampleWaitExpire _ _ => true
  | .closeDecide _ => true
  | .closeMissed _ => true
  | .batchDeltaReceive a _ => portOk .tsu a.port
  | .deltaRelease _ _ => true
  | .retainExpire _ => true
  | .ledgerDigestReceive port _ _ => portOk .dist port
  | .ldRpWrite k _ => decide (k < 8)
  | .sliceReset c _ => cmdOk c
  | .sliceResetEffect _ slice => decide (slice < 64)
  | .sliceMove => true
  | .reportReceive port _ => portOk .dist port
  | .proposeReceive port _ => portOk .dist port
  | .memberReceive p port _ => portOk p port
  | .fenceNoticeReceive port _ => portOk .dist port
  | .fenceWaitExpire _ => true
  | .suspectClearExpire _ => true
  | .probationEnd _ => true
  | .timSelfCheck p channel _ _ => decide (channel < chanCount p)
  | .eccUncorrectable _ => true
  | .watchdogExpire _ _ => true
  | .rootLossReceive port _ => portOk .dist port
  | .electOfferReceive port _ => portOk .dist port
  | .electAcceptReceive port _ => portOk .dist port
  | .electOfferTimeout _ => true
  | .triadSetReceive p port _ => portOk p port
  | .triadEffect _ => true
  | .electLimitExpire => true
  | .copyReceive port _ => portOk .dist port
  | .ledgerReplayComplete => true
  | .tsuResetRelease => true
  | .fwGo _ => true
  | .bootComplete _ _ _ _ _ => true
  | .truingSlow => true
  | .joinSettleExpire _ => true
  | .joinReadyRepeat _ => true
  | .joinReadyReceive _ _ => true
  | .part c _ => cmdOk c
  | .partBoundary => true
  | .partDrainComplete => true
  | .partLimitExpire => true
  | .partDoneReceive _ _ _ _ => true
  | .rejoin c _ => cmdOk c
  | .quarantineClear c _ => cmdOk c
  | .drain c _ => cmdOk c
  | .undrain c _ => cmdOk c
  | .drainComplete => true
  | .drainLimitExpire => true
  | .copyReqReceive port _ => portOk .dist port
  | .copyDataReceive _ _ _ => true
  | .imageReceive _ _ => true
  | .powerOnReset _ _ _ _ => true
  | .nodePositionWrite _ => true
  | .mbDoorbell mbx _ => decide (mbx < 4)
  | .mbCplConsWrite mbx _ => decide (mbx < 4)
  | .mailboxUnknownOpcode c _ => cmdOk c
  | .txnBegin c _ => cmdOk c
  | .commit c _ _ _ => cmdOk c
  | .rollback c => cmdOk c
  | .txnStatus c _ => cmdOk c
  | .plateWrite c _ _ => cmdOk c
  | .plateAppend c _ => cmdOk c
  | .plateLoad c _ _ _ => cmdOk c
  | .plateClear c => cmdOk c
  | .rgroupWrite c _ _ => cmdOk c
  | .descWrite c _ _ => cmdOk c
  | .turningSet c _ _ _ _ => cmdOk c
  | .sliceAssign c _ _ => cmdOk c
  | .sliceMapWrite c _ _ => cmdOk c
  | .sliceWeight c _ _ _ => cmdOk c
  | .hgroupWrite c _ _ => cmdOk c
  | .hgroupFree c _ => cmdOk c
  | .sgWrite c _ _ => cmdOk c
  | .ledgerPart c _ => cmdOk c
  | .ctxSave c _ _ => cmdOk c
  | .ctxRestore c _ _ _ => cmdOk c
  | .configWrite c _ _ => cmdOk c
  | .ctrAlloc c => cmdOk c
  | .ctrAllocAt c _ => cmdOk c
  | .ctrFree c _ => cmdOk c
  | .ctrSet c _ _ _ => cmdOk c
  | .ctrRead c _ => cmdOk c
  | .keyLoad c _ _ => cmdOk c
  | .keySelect c _ _ => cmdOk c
  | .keySelectEffect _ => true
  | .remoteCmd c _ _ _ => cmdOk c
  | .fwStage c _ _ => cmdOk c
  | .fwActivate c _ => cmdOk c
  | .nop c => cmdOk c
  | .ident c => cmdOk c
  | .status c _ _ _ _ _ _ _ => cmdOk c
  | .fwRecover c _ _ => cmdOk c
  | .commitRequestReceive _ _ _ _ _ => true
  | .txnJoinReceive _ _ _ => true
  | .prepareReceive _ _ _ _ _ => true
  | .preparedReceive _ _ => true
  | .prepFailReceive _ _ _ _ => true
  | .prepareDeadlineExpire _ => true
  | .decideReceive _ _ _ _ => true
  | .decideWaitExpire _ _ => true
  | .txnQueryReceive _ _ => true
  | .mgmtCommandReceive port _ _ _ _ => portOk .dist port
  | .mgmtCompletionReceive _ _ => true
  | .fwDataReceive _ _ _ => true
  | .timEvent p channel _ _ tap => decide (channel < chanCount p ∧ tap < 64)
  | .statStart p unit _ => decide (unit < chanCount p + unitCount p)
  | .intControlWrite p unit _ => decide (unit < unitCount p)
  | .intLegacyTimeout p unit => decide (unit < unitCount p)
  | .queueRead _ _ => true
  | .rcRegisterRead _ _ => true
  | .ledgerEntryRead => true
  | .frArm _ => true
  | .frDisarm _ => true
  | .frTrigger _ => true
  | .missedClr _ => true
  | .frRearmComplete _ => true
  | .frFreeze _ => true
  | .frSoftwareWrite _ _ => true
  | .perfSelWrite _ n _ => decide (n < 8)
  | .perfClear _ n => decide (n < 8)
  | .perfFreeze _ _ => true
  | .perfSnap _ => true
  | .histClear _ h => decide (h < 4)
  | .slicePagePerfAccess _ _ _ => true
  | .coreReset core => decide (core < 576)
  | .coreResetRelease core => decide (core < 576)
  | .functionLevelReset => true
  | .alertCauseClear _ _ => true
  | .rw1cWrite _ _ _ => true
  | .lbMaskWrite word _ => decide (word < 9)
  | .registerWrite _ _ _ => true
  | .presenceMate => true
  | .presenceBreak => true
  | .removeRequest => true
  | .powerGoodLoss => true
  | .junctionTempChange _ _ => true
  | .jtagExtest => true
  | .moduleInterrupt bus _ _ => decide (bus < 16)
  | .modulePoll bus _ _ => decide (bus < 16)
  | .ledgerOpDeadlineExpire _ => true
  | .dllLock p channel => decide (channel < chanCount p)
  | .tsuRstNAssert => true
  | .dResetNAssert => true
  | .refclkRange _ _ => true
  | .spareNotTrained p port => portOk p port
  | .regionClockStart region => decide (region < 144)
  | .markCalTemp _ => true
  | .ppsOutEdge _ _ => true

end Sys2Proof
end

