-- ==== Sys2Proof/Safety.lean ====
section
/-! DEFINITION. What counts as a safe run, in the terms that claims use: a command that completes, and the part of the
state that a step leaves alone. -/

namespace Sys2Proof.Machine

/-- A command completes with a next state of which `post` holds. -/
def Completes (c : Instr) (s : State) (post : State → Prop) : Prop := ∃ t, exec c s = .next t ∧ post t

/-- `t` differs from `s` in the PV-TSU4 alone. -/
def TsuOnly (s t : State) : Prop := t.dist = s.dist ∧ t.rdata = s.rdata ∧ t.pending = s.pending

/-- `t` differs from `s` in the PV-D128 alone. -/
def DistOnly (s t : State) : Prop := t.tsu = s.tsu ∧ t.rdata = s.rdata ∧ t.pending = s.pending

/-- `t` differs from `s` in one part alone. -/
def PartOnly : Part → State → State → Prop
  | .tsu => TsuOnly
  | .dist => DistOnly

/-- The newest completion that the sender of a command can see: in its mailbox's ring at a die, or held for want of room
there; at a distributor the newest of those sent back (R386, R388, R390). -/
def lastCompletion (s : State) (c : Cmd) : Option Completion :=
  match c.part with
  | .tsu => match (s.mbox c.mbx).held.getLast? with
    | some x => some x
    | none => tget none (s.mbox c.mbx).ring (((s.mbox c.mbx).cplProd - 1).toNat % 64)
  | .dist => s.dist.sv.remoteCpl.head?

/-- A command is answered: its newest completion carries its TAG, its opcode and a status; PENDING alone is not final (R386,
R387). -/
def Answers (c : Cmd) (op : Nat) (st : Status) (t : State) : Prop :=
  ∃ x, lastCompletion t c = some x ∧ x.tag = c.tag ∧ x.opcode = op ∧ x.status = st ∧ x.final = decide (st ≠ .pending)

/-- A die's command is carried to the roots, PENDING until their completion comes back (R390, R392). -/
def CarriedToRoots (c : Cmd) (op : Nat) (s t : State) : Prop :=
  t.tsu.remotes = s.tsu.remotes ++ [{ c, dst := allRoots, tag := c.tag }] ∧ Answers c op .pending t ∧ TsuOnly s t

/-- A command is staged: its object joins the command's transaction, which stays as it was otherwise, and the command
completes OK (R391, R394). -/
def Stages (c : Cmd) (op : Nat) (x : Staged) (s t : State) : Prop :=
  (∃ q, s.txn c.part c.txn = some q ∧ t.txn c.part c.txn = some { q with staged := stagePut x q.staged }) ∧
    Answers c op .ok t ∧ PartOnly c.part s t

/-- A cell waits to be sent on a port: in its P1, P2 or P3 queue, held under the VOTE or MGMT allowance, or among the COPY
cells (R112, R338, R354, R382). -/
def CellWaits (t : State) (p : Part) (i : Nat) (c : OutCell) : Prop :=
  let x := (t.port p i).tx
  c ∈ x.p1 ∨ (∃ l, c ∈ tget [] x.p2 l) ∨ c ∈ x.p3 ∨ c ∈ x.votes ∨ c ∈ x.mgmtHeld ∨ c ∈ x.copy

/-- A REPORT against a part, with its weight and cause, waits to be sent on a port (R339, R340). -/
def ReportWaits (t : State) (p : Part) (i : Nat) (accused : Node) (hard : Bool) (cause : Nat) : Prop :=
  ∃ (c : OutCell) (v : Vote) (r : Report), CellWaits t p i c ∧ c.body = .vote v ∧ v.body = .report r ∧ v.src = t.node p ∧
    r.accused = accused ∧ r.hard = hard ∧ r.cause = cause

/-- A core's request is completed: its last completion on the counter port carries its CTAG, a status and a VALUE (R446). -/
def CoreCompleted (t : State) (core : Nat) (ctag : BitVec 16) (st : Status) (v : W32) : Prop :=
  tget none t.tsu.sync.cpl core = some { ctag, status := st, value := v }

/-- A core's request is taken at once: the core exists and is not in reset, and the counter port is open (R444, R446). -/
def PortOpen (s : State) (core : Nat) : Prop :=
  core < 576 ∧ coreInReset s core = false ∧ s.tsu.sync.closed = false

/-- A message for a core goes to it at once: it is not in reset, holds a credit, and the out-queue is empty (R230, R448). -/
def CoreTakes (s : State) (core : Nat) : Prop :=
  coreInReset s core = false ∧ (tget [] s.tsu.sync.coreQ core).length < 16 ∧ s.tsu.sync.outQ = [] ∧ s.tsu.sync.pend = []

/-- The canonical form of collect memory: addresses strictly rising, and no entry equal to what an unlisted address reads
as. -/
def Memory.wf (m : Tab Byte) : Bool := tcanon 0 m

/-- The canonical form of collect memory and of both parts' tables of ports. -/
def Canonical (s : State) : Prop :=
  Memory.wf s.tsu.fab.mem = true ∧ tcanon {} s.tsu.b.ports = true ∧ tcanon {} s.dist.b.ports = true

/-- The distributor's P1 queues have room for `k` more cells of the 8,192 that they hold in all (R319); its table of ports
stands in its canonical form. -/
def P1Room (s : State) (k : Nat) : Prop := tcanon {} s.dist.b.ports = true ∧ p1Total s.dist.b + k ≤ 8192

/-- The command of a mailbox that a command of the table is (R384, R392). -/
def mailboxCmd : Instr → Option Cmd
  | .timeMap c _ _ _ | .align c _ _ _ | .ledgerSubmit c _ _ _ _ _ _ _ _ _ | .ledgerRead c _ _ | .ledgerPause c _ _
  | .ledgerResume c _ _ | .ledgerCancel c _ _ | .ledgerRelease c _ _ | .sliceReset c _ | .part c _ | .rejoin c _
  | .quarantineClear c _ | .drain c _ | .undrain c _ | .mailboxUnknownOpcode c _ | .txnBegin c _ | .commit c _ _ _
  | .rollback c | .txnStatus c _ | .plateWrite c _ _ | .plateAppend c _ | .plateLoad c _ _ _ | .plateClear c
  | .rgroupWrite c _ _ | .descWrite c _ _ | .turningSet c _ _ _ _ | .sliceAssign c _ _ | .sliceMapWrite c _ _
  | .sliceWeight c _ _ _ | .hgroupWrite c _ _ | .hgroupFree c _ | .sgWrite c _ _ | .ledgerPart c _ | .ctxSave c _ _
  | .ctxRestore c _ _ _ | .configWrite c _ _ | .ctrAlloc c | .ctrAllocAt c _ | .ctrFree c _ | .ctrSet c _ _ _
  | .ctrRead c _ | .keyLoad c _ _ | .keySelect c _ _ | .remoteCmd c _ _ _ | .fwStage c _ _ | .fwActivate c _ | .nop c
  | .ident c | .status c _ _ _ _ _ _ _ | .fwRecover c _ _ => some c
  | _ => none

/-- A run of steps that neither faults nor is refused. -/
def SafeRun : Nat → State → Prop
  | 0, _ => True
  | n + 1, s => ∃ t, step s = .next t ∧ SafeRun n t

end Sys2Proof.Machine
end

