-- ==== Sys2Proof/Certificates/Slice0/Obligations.lean ====
section
/-! DEFINITION. The statements for the provers: what the commands of every family do, what a step does, and what every step
keeps. A clause about a command names the state and operands under which it completes, what it changes, and what it leaves. -/

open Sys2Proof Sys2Proof.Machine

/-- A step takes the command at the front of the queue and runs it on the state with the queue's rest. -/
def Obligations.StepRunsTheFrontCommand : Prop :=
  ∀ (c : Instr) (rest : List Instr) (s : State),
    step { s with pending := c :: rest } = exec c { s with pending := rest }

/-- On an empty queue one nanosecond passes at both parts (the model's choice, log 2): a part that holds time and is out of reset adds
64 tu and its trim to the master count, the shadow count follows by its own adder, and PERF_CYCLES counts 1 (R16, R139, R334, R429).
Where the two counts agreed they agree after it, across the ST wrap too. -/
def Obligations.EmptyQueuePassesOneNanosecond : Prop :=
  ∀ (s : State), s.pending = [] → ∃ t, step s = .next t ∧ t.rdata = s.rdata ∧ t.pending = [] ∧
    ∀ (p : Part), (match p with | .tsu => s.tsu.die.inReset | .dist => s.dist.sv.inReset) = false →
      (t.base p).perf.cycles = (s.base p).perf.cycles + 1 ∧
      ((s.base p).t.held = false → (t.base p).t = (s.base p).t) ∧
      ((s.base p).t.held = true →
        (t.base p).t.acc = (s.base p).t.acc + BitVec.ofInt 96 (64 * 2 ^ 32 + (s.base p).t.trim) ∧
        (t.base p).t.trim = (s.base p).t.trim ∧
        (0 ≤ 64 * 2 ^ 32 + (s.base p).t.trim → 64 * 2 ^ 32 + (s.base p).t.trim < 2 ^ 90 →
          (s.base p).t.shadow = (s.base p).t.acc.toNat % shadowMod →
          (t.base p).t.shadow = (t.base p).t.acc.toNat % shadowMod))

/-- The order of two times (R17): the signed modular difference, and "later", "the same instant" and "earlier" by its sign, a difference
of exactly -2^63 counting as earlier. -/
def Obligations.SignedDifferenceOrdersTimes : Prop :=
  ∀ (a b : St),
    (stDiff a b = if (a.toNat + 2 ^ 64 - b.toNat) % 2 ^ 64 < 2 ^ 63 then (((a.toNat + 2 ^ 64 - b.toNat) % 2 ^ 64 : Nat) : Int)
      else (((a.toNat + 2 ^ 64 - b.toNat) % 2 ^ 64 : Nat) : Int) - 2 ^ 64) ∧
    (stLater a b = true ↔ 0 < stDiff a b) ∧ (a = b ↔ stDiff a b = 0) ∧
    (a = b + 0x8000000000000000#64 → stDiff a b = -2 ^ 63 ∧ stLater a b = false)

/-- ST_NOW_LO_READ and MAP_ORIGIN_SEC_READ: a wide read returns both halves of one instant; a narrow one returns the low half and
captures the upper half; a read of MAP_ORIGIN_SEC captures the whole record in force (R48, R491). RUN_START (R23): the leading root
that holds no ST loads ST_INIT and the run begins; ST_INIT is locked, the references start in FREE_RUN (R86), and the die, the read
register and the queue stay as they were. -/
def Obligations.TimeIsLoadedAndRead : Prop :=
  ((∀ (p : Part) (s : State), exec (.stNowLoRead p true) s = .next { s with rdata := (s.base p).t.acc.extractLsb' 32 64 }) ∧
  (∀ (p : Part) (s : State), Completes (.stNowLoRead p false) s fun t =>
    t.rdata.toNat = (s.base p).t.acc.toNat / 2 ^ 32 % 2 ^ 32 ∧
    t = { s.modBase p (fun b => { b with t := { b.t with capHi := some ((s.base p).t.acc.extractLsb' 64 32) } }) with
      rdata := t.rdata }) ∧
  (∀ (p : Part) (s : State), Completes (.mapOriginSecRead p) s fun t =>
    t.rdata.toNat = (s.base p).map.cur.originSec.toNat ∧
    t = { s.modBase p (fun b => { b with map := { b.map with captured := b.map.cur } }) with rdata := t.rdata })) ∧
  (∀ (s : State), s.role = .root → s.dist.b.t.held = false → leaderOf s .dist = s.ownRoot →
    Completes .runStart s fun t =>
      t.dist.b.t.held = true ∧ t.now .dist = s.dist.refs.stInit ∧ t.dist.refs.running = true ∧
      t.dist.refs.stInitLocked = true ∧ t.dist.refs.state = .freeRun ∧ t.dist.refs.yc = 0 ∧
      t.dist.sv.state = .inService ∧ t.dist.b.t.shadow = t.dist.b.t.acc.toNat % shadowMod ∧
      t = { s with dist := { s.dist with
        b := { s.dist.b with t := t.dist.b.t, ep := t.dist.b.ep, drawn := s.dist.b.drawn + 1 }
        sv := { s.dist.sv with state := .inService }, refs := t.dist.refs, mem := t.dist.mem } })

/-- The 32 bytes of a time-map block give back the record they were made of, and their CRC-32C matches (R26, R131), for every value that
the record's fields can hold. -/
def Obligations.TimeMapBlockRoundTrips : Prop :=
  ∀ (r : MapRec), r.originTu < 2 ^ 36 → -2 ^ 15 ≤ r.utc → r.utc < 2 ^ 15 →
    mapOfBlock (mapBlock r) = r ∧ (mapBlock r).length = 32 ∧ blockGood (mapBlock r) = true

/-- The time map's commands. MAP_RECORD_ACCEPT takes a whole block with a matching CRC, an even one as the record in force and an odd
one as the newest; MAP_EFFECT puts the announced record in force at EFFECT_TICK, or sets MAP_STALE where it is not whole;
WRAP_RECORD_SEND sends, 4,096 to 2,048 ticks before the wrap, a record for tick 0 whose origin is 2^64 tu later; at the leading root
TIME_MAP adds the step, held to its guard and to ORIGIN_SEC's range, to the next record (R28, R30, R32, R131). -/
def Obligations.TimeMapRecordsTakeEffect : Prop :=
  (∀ (p : Part) (port : Nat) (s : State), port < portCount p → (s.port p port).mark.blockOk = true →
    blockGood (s.port p port).mark.blockBytes = true → blockPos (tickOf (s.port p port).mark.rxSt) = 15 →
    tbit (blockOf (tickOf (s.port p port).mark.rxSt)) 0 = false → takes s p port = true →
    newerVersion (mapOfBlock (s.port p port).mark.blockBytes).version (s.base p).map.newest.version = true →
    Completes (.mapRecordAccept p port false) s fun t =>
      t = s.modBase p fun b => { b with map := { b.map with
        cur := mapOfBlock (s.port p port).mark.blockBytes, announced := none, stale := false } }) ∧
  (∀ (p : Part) (port : Nat) (s : State), port < portCount p → (s.port p port).mark.blockOk = true →
    blockGood (s.port p port).mark.blockBytes = true → blockPos (tickOf (s.port p port).mark.rxSt) = 15 →
    tbit (blockOf (tickOf (s.port p port).mark.rxSt)) 0 = true → takes s p port = true →
    newerVersion (mapOfBlock (s.port p port).mark.blockBytes).version (s.base p).map.newest.version = true →
    mapOfBlock (s.port p port).mark.blockBytes ≠ (s.base p).map.cur →
    Completes (.mapRecordAccept p port true) s fun t =>
      t = s.modBase p fun b => { b with map := { b.map with
        next := some (mapOfBlock (s.port p port).mark.blockBytes), announced := none } }) ∧
  (∀ (p : Part) (r : MapRec) (s : State), (s.base p).map.next = some r → 0 ≤ tickDiff (tickOf (s.now p)) r.effect →
    (p = .dist → isLeader s = false) →
    Completes (.mapEffect p) s fun t =>
      t = s.modBase p fun b => { b with map := { b.map with cur := r, next := none, stale := false, announced := none } }) ∧
  (∀ (p : Part) (v : Byte) (e : Tick) (s : State), (s.base p).map.next = none → (s.base p).map.announced = some (v, e) →
    0 ≤ tickDiff (tickOf (s.now p)) e →
    Completes (.mapEffect p) s fun t => t = s.modBase p fun b => { b with map := { b.map with stale := true } }) ∧
  (∀ (s : State), isLeader s = true → s.dist.b.t.held = true → s.dist.b.map.next = none →
    2048 ≤ 2 ^ 50 - (tickOf (s.now .dist)).toNat → 2 ^ 50 - (tickOf (s.now .dist)).toNat ≤ 4096 →
    Completes .wrapRecordSend s fun t => ∃ r : MapRec,
      t = s.modBase .dist (fun b => { b with map := { b.map with next := some r } }) ∧ r.effect = 0 ∧
      r.version = s.dist.b.map.cur.version + 1 ∧ r.utc = s.dist.b.map.cur.utc ∧
      (s.dist.b.map.cur.originTu < 64000000000 → r.originTu < 64000000000 ∧
        (s.dist.b.map.cur.originSec.toNat + 288230377 < 2 ^ 48 →
          r.originSec.toNat * 64000000000 + r.originTu =
            s.dist.b.map.cur.originSec.toNat * 64000000000 + s.dist.b.map.cur.originTu + 2 ^ 64))) ∧
  (∀ (c : Cmd) (step utc : Int) (utcSet : Bool) (s : State), c.part = .tsu → c.mbx = 0 → hsReady s c = true →
    Completes (.timeMap c step utc utcSet) s (CarriedToRoots c 0x0040 s)) ∧
  (∀ (c : Cmd) (step utc : Int) (utcSet : Bool) (s : State), c.part = .dist → hsReady s c = true → isLeader s = true →
    s.dist.b.map.next = none → s.dist.refs.pendCmds = [] → s.dist.refs.pendStep = 0 →
    Completes (.timeMap c step utc utcSet) s fun t => ∃ r : MapRec,
      t.dist.b.map = { s.dist.b.map with next := some r } ∧ r.effect = tickOf (s.now .dist) + 2048 ∧
      r.version = s.dist.b.map.cur.version + 1 ∧ t.dist.refs.pendCmds = [] ∧ t.dist.refs.pendStep = 0 ∧
      Answers c 0x0040 .ok t ∧ t.dist.b.t = s.dist.b.t ∧ t.tsu = s.tsu ∧ t.pending = s.pending) ∧
  (∀ (c : Cmd) (step utc : Int) (utcSet : Bool) (s : State), c.part = .dist → hsReady s c = true → isLeader s = true →
    s.dist.b.map.next.isSome = true →
    Completes (.timeMap c step utc utcSet) s fun t =>
      t.dist.refs.pendStep = s.dist.refs.pendStep + stepInRange s.dist.b.map.cur s.dist.refs.pendStep
        (clampI (-(guardVal s.dist.b 2 64000000000 (2 ^ 46) : Int)) (guardVal s.dist.b 2 64000000000 (2 ^ 46)) step) ∧
      (utcSet = false → t.dist.refs.pendUtc = s.dist.refs.pendUtc) ∧
      t.dist.refs.pendCmds.length = s.dist.refs.pendCmds.length + 1 ∧
      t.dist.b.map = s.dist.b.map ∧ t.dist.b.t = s.dist.b.t ∧ t.tsu = s.tsu ∧ t.pending = s.pending)

/-- A turning whose length and origin no change touches (R34, R35): adding L to the start and 1 to the number at each of `k` boundaries
gives the start ST0 + k L and the step floor((ST - ST0) / L) of every ST in that step, and the next boundary is due at the first ST
past it and not before. STEP_BOUNDARY, TURNING_START and PLATE_BANK_COPY. At a boundary that has come, the slice's turning takes its
next step, and at a distributor nothing else changes; a new turning begins its first step at its origin, STARTED set (R35, R36). At
a die a committed plate whose boundary has come becomes the active bank there (R191). After the switch the active bank is copied
into the other (R191). -/
def Obligations.TurningsStepAtTheirBoundaries : Prop :=
  (∀ (u : Turning) (k x : Nat), u.exists_ = true → u.started = true → u.restart = none → u.idleUntil = none →
    u.changes = [] → u.start = u.st0 → u.step = 0 → 0 < u.len → u.len ≤ 2 ^ 40 →
    k * u.len ≤ x → x < k * u.len + u.len + 2 ^ 40 →
    (Turning.boundary^[k] u).start = u.st0 + tu (k * u.len) ∧
    (Turning.boundary^[k] u).step = BitVec.ofNat 48 k ∧
    (x < k * u.len + u.len → (Turning.boundary^[k] u).step = BitVec.ofNat 48 (x / u.len)) ∧
    (Turning.boundary^[k] u).due (u.st0 + tu x) = decide (u.len ≤ x - k * u.len)) ∧
  ((∀ (slice : Nat) (s : State), slice < 64 → (s.turning .dist slice).due (s.now .dist) = true →
    exec (.stepBoundary .dist slice) s =
      .next (s.modDist fun d => { d with fab := { d.fab with
        turnings := tset {} d.fab.turnings slice (tget {} d.fab.turnings slice).boundary } })) ∧
  (∀ (s : State), s.tsu.die.sliceId < 64 → s.tsu.turn.due (s.now .tsu) = true →
    Completes (.stepBoundary .tsu s.tsu.die.sliceId) s fun t =>
      t.tsu.turn = s.tsu.turn.boundary ∧
      (s.tsu.turn.boundary.idleUntil = none → (s.tsu.plate.switchAt.any fun x => stGe s.tsu.turn.boundary.start x) = true →
        t.tsu.plate.activeB = !s.tsu.plate.activeB ∧ t.tsu.plate.switchAt = none ∧ t.tsu.plate.copyDue = true) ∧
      t = { s with tsu := { s.tsu with
        b := { s.tsu.b with cnt := t.tsu.b.cnt, perf := t.tsu.b.perf }, die := t.tsu.die, turn := t.tsu.turn
        regions := t.tsu.regions, plate := t.tsu.plate, fab := t.tsu.fab } }) ∧
  (∀ (slice : Nat) (s : State), slice < 64 → (s.turning .dist slice).exists_ = true → (s.turning .dist slice).started = false →
    stGe (s.now .dist) (s.turning .dist slice).first = true →
    Completes (.turningStart .dist slice) s fun t =>
      (t.turning .dist slice).started = true ∧ (t.turning .dist slice).start = (s.turning .dist slice).first ∧
      (t.turning .dist slice).step = (s.turning .dist slice).firstStep ∧
      (∀ k, k ≠ slice → t.turning .dist k = s.turning .dist k) ∧
      t = { s with dist.fab.turnings := t.dist.fab.turnings }) ∧
  (∀ (s : State), s.tsu.die.sliceId < 64 → s.tsu.turn.exists_ = true → s.tsu.turn.started = false →
    stGe (s.now .tsu) s.tsu.turn.first = true →
    Completes (.turningStart .tsu s.tsu.die.sliceId) s fun t =>
      t.tsu.turn = { s.tsu.turn with started := true, start := s.tsu.turn.first, step := s.tsu.turn.firstStep } ∧
      t = { s with tsu := { s.tsu with
        b := { s.tsu.b with cnt := t.tsu.b.cnt, perf := t.tsu.b.perf }, die := t.tsu.die, turn := t.tsu.turn
        regions := t.tsu.regions, plate := t.tsu.plate, fab := t.tsu.fab } }) ∧
  (∀ (s : State), s.tsu.plate.copyDue = true →
    Completes .plateBankCopy s fun t =>
      t.tsu.plate = { s.tsu.plate with
        bankA := (if s.tsu.plate.activeB then s.tsu.plate.bankB else s.tsu.plate.bankA)
        bankB := (if s.tsu.plate.activeB then s.tsu.plate.bankB else s.tsu.plate.bankA), copyDue := false } ∧
      t = { s with tsu.plate := t.tsu.plate }))

/-- TICK_EDGE: a part that holds time frames each of its ticks once: on every port from TIMECAL on it sends the marker of that tick,
whose watermark is the CRC-32C of the last one sent, or of the seed, followed by the marker's covered bytes (R44, R45, R102, R129);
the epochs announced for the tick are adopted (R41); ST does not change (R22). MARKER_RECEIVE on a link that carries traffic, by the
cases of R46: a marker whose ST and watermark are as expected is verified and used; one whose watermark or ST is not leaves the
receiver's chain at its own expected value, its fields unused, and a die reports a hard event against the sender; an empty slot
breaks the chain. The first marker of TIMECAL frames the time of a part that holds none (R137). -/
def Obligations.MarkersFollowTheirTicks : Prop :=
  (∀ (p : Part) (ofs : Nat) (s : State), (s.base p).t.held = true → (s.base p).t.framed ≠ some (tickOf (s.now p)) →
    Completes (.tickEdge p ofs) s fun t =>
      (t.base p).t.framed = some (tickOf (s.now p)) ∧ (t.base p).t.acc = (s.base p).t.acc ∧ PartOnly p s t ∧
      (∀ x, (s.base p).ep.pend = [x] → 0 ≤ tickDiff (tickOf (s.now p)) x.tick →
        (t.base p).ep.ce = (x.ce).getD (s.base p).ep.ce ∧ (t.base p).ep.me = (x.me).getD (s.base p).ep.me) ∧
      ∀ i, i < portCount p → ((s.port p i).live = true ∨ (s.port p i).link.state = .timecal) →
        ∃ m, (t.port p i).mark.txMarker = some m ∧ m.tickSt = tickSt (tickOf (s.now p)) ∧ m.node = s.node p ∧
          m.sendOfs.toNat = min ofs 164 ∧ (t.port p i).mark.txWm = m.wm ∧
          ((s.port p i).live = true → m.wm = crc32c (beBytes 4 (if (s.port p i).mark.txSeeded then (s.port p i).mark.txWm
            else wmSeed (s.node p) (s.port p i).link.rxNode m.tickSt).toNat ++ markerBytes m))) ∧
  ((∀ (p : Part) (i : Nat) (m : Marker) (stamp : St) (s : State), i < portCount p → (s.port p i).live = true →
    markerCorrupt m = false → (s.port p i).mark.rxSeeded = false → (s.port p i).mark.rxAnchored = true →
    m.tickSt = (s.port p i).mark.rxSt + 16384#64 →
    m.wm = crc32c (beBytes 4 (s.port p i).mark.rxWm.toNat ++ markerBytes m) →
    Completes (.markerReceive p i (.cell m) stamp) s fun t =>
      (t.port p i).mark.rxMarker = some m ∧ (t.port p i).mark.rxWm = m.wm ∧ (t.port p i).mark.rxSt = m.tickSt ∧
      (t.port p i).mark.badRun = 0 ∧ (t.port p i).off.rxAccUnc = m.accUnc.toNat ∧ PartOnly p s t) ∧
  (∀ (p : Part) (i : Nat) (m : Marker) (stamp : St) (s : State), i < portCount p → (s.port p i).live = true →
    markerCorrupt m = false → (s.port p i).mark.rxSeeded = false → (s.port p i).mark.rxAnchored = true →
    (m.tickSt ≠ (s.port p i).mark.rxSt + 16384#64 ∨
      m.wm ≠ crc32c (beBytes 4 (s.port p i).mark.rxWm.toNat ++ markerBytes m)) →
    Completes (.markerReceive p i (.cell m) stamp) s fun t =>
      (t.port p i).mark.rxWm = crc32c (beBytes 4 (s.port p i).mark.rxWm.toNat ++ markerBytes m) ∧
      (t.port p i).mark.rxSt = (s.port p i).mark.rxSt + 16384#64 ∧ (t.port p i).mark.rxAnchored = true ∧
      (t.port p i).mark.rxMarker = (s.port p i).mark.rxMarker ∧ (t.port p i).off = (s.port p i).off ∧
      (t.base p).t.acc = (s.base p).t.acc ∧ (p = .tsu → ∃ j, ReportWaits t .tsu j (neighbour s .tsu i) true causeWm) ∧
      PartOnly p s t) ∧
  (∀ (p : Part) (i : Nat) (stamp : St) (s : State), i < portCount p → (s.port p i).live = true →
    Completes (.markerReceive p i .empty stamp) s fun t =>
      (t.port p i).mark.rxAnchored = false ∧ (t.port p i).mark.badRun = (s.port p i).mark.badRun + 1 ∧
      (t.port p i).mark.noSlot0 = (s.port p i).mark.noSlot0 + 1 ∧
      (t.port p i).mark.rxMarker = (s.port p i).mark.rxMarker ∧ (t.base p).t.acc = (s.base p).t.acc ∧ PartOnly p s t) ∧
  (∀ (p : Part) (i : Nat) (m : Marker) (stamp : St) (s : State), i < portCount p → (s.port p i).link.state = .timecal →
    (s.base p).t.held = false → takes s p i = true → markerCorrupt m = false → (s.port p i).mark.rxAnchored = false →
    Completes (.markerReceive p i (.cell m) stamp) s fun t =>
      (t.base p).t.held = true ∧ t.now p = m.tickSt + m.sendOfs.setWidth 64 ∧ (t.base p).t.input = some i ∧
      (t.base p).t.first = true ∧ (t.port p i).mark.rxAnchored = true ∧ (t.port p i).mark.rxSt = m.tickSt ∧
      (p = .tsu → s.tsu.die.state = .blank → s.tsu.mark.calDone = true → s.tsu.mark.pathFault = false →
        t.tsu.die.state = .truing) ∧ PartOnly p s t))

/-- LOOP_WINDOW_END (R136, R139): with at least 512 valid samples the mean offset steps the loop, whose trim is the clamped sum of the
proportional and integral terms; with fewer the loop skips its update, which LOOP_SKIP counts. HOLD_BUDGET_EXPIRE (R154, R156): a
part whose holdover has lasted HOLD_BUDGET enters NO_TIME and raises its alert; a die drops every armed entry. Until then nothing
happens (the model's guard, log 3). LEADER_CHANGE_EFFECT (R96): at the announced tick the named root leads, whatever else is pending
stays pending, and ST stays as it was. -/
def Obligations.TheLoopSteersAndHoldsOver : Prop :=
  ((∀ (p : Part) (i : Nat) (s : State), (s.base p).t.held = true → (s.base p).t.window ≠ (tickOf (s.now p)).toNat / 1024 →
    (p = .dist → isLeader s = false) → (s.base p).t.input = some i → i < portCount p → (s.port p i).live = true →
    (s.base p).t.inputAt < (s.base p).t.window → (s.base p).t.holdSince = none →
    512 ≤ (s.port p i).off.count →
    Completes (.loopWindowEnd p) s fun t =>
      let e := (s.port p i).off.sum * 8 / ((s.port p i).off.count : Int)
      let integ := (s.base p).t.integ + (gainI s p : Int) * e
      (t.base p).t.integ = integ ∧
      (t.base p).t.trim = clampI (-trimLimit s p) (trimLimit s p) (-((gainP s p : Int) * e + integ) / 2 ^ 30) ∧
      (t.base p).t.trims = ((t.base p).t.trim :: (s.base p).t.trims).take 16 ∧
      (t.base p).t.acc = (s.base p).t.acc ∧ (t.port p i).off.count = 0 ∧ PartOnly p s t) ∧
  (∀ (p : Part) (i : Nat) (s : State), (s.base p).t.held = true → (s.base p).t.window ≠ (tickOf (s.now p)).toNat / 1024 →
    (p = .dist → isLeader s = false) → (s.base p).t.input = some i → i < portCount p → (s.port p i).live = true →
    (s.port p i).off.count < 512 →
    Completes (.loopWindowEnd p) s fun t =>
      (t.base p).t.integ = (s.base p).t.integ ∧ (t.base p).t.trim = (s.base p).t.trim ∧
      (t.base p).ctr .loopSkip 0 = (s.base p).ctr .loopSkip 0 + 1 ∧ (t.base p).t.acc = (s.base p).t.acc ∧ PartOnly p s t)) ∧
  ((∀ (p : Part) (x : St) (s : State), (s.base p).t.holdSince = some x → holdBudget s p ≤ elapsed (s.now p) x →
    (s.base p).t.noTime = false →
    Completes (.holdBudgetExpire p) s fun t =>
      (t.base p).t.noTime = true ∧ (t.base p).t.acc = (s.base p).t.acc ∧
      (t.base p).hs.alert.getLsbD (match p with | .tsu => 1 | .dist => 3) = true ∧
      (p = .tsu → t.tsu.plate.armed = []) ∧ PartOnly p s t) ∧
  (∀ (p : Part) (x : St) (s : State), (s.base p).t.holdSince = some x → elapsed (s.now p) x < holdBudget s p →
    exec (.holdBudgetExpire p) s = .next s)) ∧
  (∀ (p : Part) (x : Pend) (l : BitVec 2) (s : State), (s.base p).ep.pend = [x] → x.lead = some l →
    0 ≤ tickDiff (tickOf (s.now p)) x.tick →
    Completes (.leaderChangeEffect p) s fun t =>
      (t.base p).ep.leader = l ∧ (t.base p).ep.ce = (x.ce).getD (s.base p).ep.ce ∧
      (t.base p).ep.me = (x.me).getD (s.base p).ep.me ∧ (t.base p).ep.pend = [] ∧ (t.base p).t.acc = (s.base p).t.acc ∧
      PartOnly p s t)

/-- Selection (R82): of the eligible inputs that are not far, the one that no other is better than; the OCXO, input 5, where none is
better than it. SELECTION_RUN (R82, R83): once in 1,024 ticks a root in service selects its input and moves its rates: y_c by at
most 5 ppb/s and never beyond 50 ppb, and y_s and y_c together by at most 5 ppb/s (rates in 10^-8 ppb, one update 262.144 us); ST
does not change. -/
def Obligations.SelectionPicksAndSlews : Prop :=
  (∀ (s : State), refSelect s ≤ 5 ∧
    (refSelect s ≠ 5 → refEligible s (refSelect s) = true ∧ refFar s (refSelect s) = false ∧ refBetter s (refSelect s) 5 = true) ∧
    ∀ i, i < 5 → refEligible s i = true → refFar s i = false → i ≠ refSelect s →
      refBetter s i (refSelect s) = false ∧ refBetter s (refSelect s) i = true) ∧
  (∀ (s : State), s.role = .root → s.dist.sv.state = .inService → s.dist.b.t.held = true →
    s.dist.refs.ran ≠ some ((tickOf (s.now .dist)).toNat / 1024) → s.dist.refs.yc.natAbs ≤ 5000000000 →
    Completes .selectionRun s fun t =>
      t.dist.refs.ran = some ((tickOf (s.now .dist)).toNat / 1024) ∧ t.dist.refs.selected = refSelect s ∧
      (t.dist.refs.yc - s.dist.refs.yc).natAbs ≤ 131072 ∧ t.dist.refs.yc.natAbs ≤ 5000000000 ∧
      ((t.dist.refs.yc + t.dist.refs.ys) - (s.dist.refs.yc + s.dist.refs.ys)).natAbs ≤ 131072 ∧
      t.dist.b.t.acc = s.dist.b.t.acc ∧ DistOnly s t)

/-- e_used and its flags from the LOCKED roots (R95): the median of three, the mean of two that agree within REF_DISAGREE, none and
TRIAD_REF_CONFLICT where two do not, one root's own with TRIAD_UNCHECKED, and none without a LOCKED root. The news of a root's
references. VOTE_REF_RECEIVE enters another root's vote and e_used follows (R95). PTP_MESSAGE_RECEIVE discards a management message
and counts it, takes an Announce's master (R74, R75), and with a Sync or a Delay_Resp comes nearer to SLAVE. ESMC_PDU_RECEIVE takes
the quality level on the port that SYNCE_SRC names (R76). REF_PRESENCE_WINDOW ends an edge-count window (R422). REF_INPUT_FAIL
declares a valid input that fails a test failed, and selection leaves it at once (R77, R79, R82); WTR_EXPIRE makes a restored input
eligible once it has been valid for WTR_TIME, and not before (R79). -/
def Obligations.RootsAgreeOnTheUsedError : Prop :=
  (∀ (lim : Nat) (r : Refs),
    (∀ a b c, lockedVotes r = [a, b, c] → ∃ m, (refJudge lim r).eUsed = some m ∧
      (m = a.2.ePs ∨ m = b.2.ePs ∨ m = c.2.ePs) ∧ min (min a.2.ePs b.2.ePs) c.2.ePs ≤ m ∧
      m ≤ max (max a.2.ePs b.2.ePs) c.2.ePs ∧
      ([a, b, c].filter fun v => decide (v.2.ePs < m)).length ≤ 1 ∧ ([a, b, c].filter fun v => decide (m < v.2.ePs)).length ≤ 1 ∧
      (refJudge lim r).conflict = false ∧ (refJudge lim r).unchecked = false ∧
      (a.1 < 3 → b.1 < 3 → c.1 < 3 → a.1 ≠ b.1 → a.1 ≠ c.1 → b.1 ≠ c.1 →
        ∀ v ∈ [a, b, c], (refJudge lim r).outlier.getLsbD v.1 = decide (lim < (v.2.ePs - m).natAbs))) ∧
    (∀ a b, lockedVotes r = [a, b] → (a.2.ePs - b.2.ePs).natAbs ≤ lim →
      (refJudge lim r).eUsed = some ((a.2.ePs + b.2.ePs) / 2) ∧ (refJudge lim r).conflict = false) ∧
    (∀ a b, lockedVotes r = [a, b] → lim < (a.2.ePs - b.2.ePs).natAbs →
      (refJudge lim r).eUsed = none ∧ (refJudge lim r).conflict = true) ∧
    (∀ a, lockedVotes r = [a] → (refJudge lim r).eUsed = some a.2.ePs ∧ (refJudge lim r).unchecked = true) ∧
    (lockedVotes r = [] → (refJudge lim r).eUsed = none)) ∧
  ((∀ (port root st : Nat) (key : BitVec 16) (e yc : Int) (ab : Nat) (v : Vote) (s : State), port < 128 → s.role = .root →
    s.dist.sv.state = .inService → v.body = .ref root st key e yc ab → root ≤ 2 → v.src = rootNode s root →
    v.dst = s.node .dist → v.dst ≠ allRoots → voteFresh s .dist v = true → voteBarred s v = false → leaderOf s .dist ≠ root →
    Completes (.voteRefReceive port v) s fun t =>
      t.dist.refs = refJudge (refDisagree s) { s.dist.refs with
        votes := tset {} s.dist.refs.votes root { have_ := true, state := st, key, ePs := e, yc, absErr := ab } } ∧
      t = { s with dist.refs := t.dist.refs }) ∧
  (∀ (port : Nat) (s : State), port < 2 → s.role = .root → tbit (s.cfg .dist (0x10A8 + 8 * port) 0) 12 = true →
    (tget {} s.dist.refs.ptp port).state = 2 → (s.refIn (2 + port)).valid = false →
    Completes (.ptpMessageReceive port .management) s fun t =>
      (t.base .dist).ctr .ptpDiscard port = (s.base .dist).ctr .ptpDiscard port + 1 ∧
      (∀ k, tget {} t.dist.refs.ptp k = tget {} s.dist.refs.ptp k) ∧
      t = { s with dist := { s.dist with
        b := { s.dist.b with cnt := t.dist.b.cnt }, refs := { s.dist.refs with ptp := t.dist.refs.ptp } } }) ∧
  (∀ (port cls acc : Nat) (id : W64) (off : BitVec 16) (ok : Bool) (s : State), port < 2 → s.role = .root →
    tbit (s.cfg .dist (0x10A8 + 8 * port) 0) 12 = true → (tget {} s.dist.refs.ptp port).state = 1 →
    (s.refIn (2 + port)).valid = false →
    Completes (.ptpMessageReceive port (.announce cls acc id off ok false)) s fun t =>
      tget {} t.dist.refs.ptp port =
        { state := 2, cls, acc, identity := id, gotSync := false, gotDelay := false } ∧
      t.dist.refs.ptpUtc = (if ok then some off else s.dist.refs.ptpUtc) ∧ t = { s with dist.refs := t.dist.refs }) ∧
  (∀ (port : Nat) (s : State), port < 2 → s.role = .root → tbit (s.cfg .dist (0x10A8 + 8 * port) 0) 12 = true →
    (tget {} s.dist.refs.ptp port).state = 2 → (tget {} s.dist.refs.ptp port).gotSync = true →
    Completes (.ptpMessageReceive port .delayResp) s fun t => (tget {} t.dist.refs.ptp port).state = 3 ∧ DistOnly s t) ∧
  (∀ (port : Nat) (ql : Ql) (s : State), port < 2 → s.role = .root → s.cfg .dist 0x10A0 0 % 2 = port →
    Completes (.esmcPduReceive port ql) s fun t =>
      t.dist.refs.ql = some ql ∧ t.dist.refs.esmcAt = some (s.now .dist) ∧
      (qlClass ql = none → (t.refIn 4).valid = false) ∧ DistOnly s t) ∧
  (∀ (i count : Nat) (inTime : Bool) (s : State), i = 0 ∨ i = 1 ∨ i = 4 → s.role = .root →
    Completes (.refPresenceWindow i false count inTime) s fun t =>
      (t.refIn i).clkCount = count ∧ (t.refIn i).clkOk = countGood i count ∧
      (countGood i count = false → (t.refIn i).valid = false) ∧ DistOnly s t) ∧
  (∀ (count : Nat) (inTime : Bool) (s : State), s.role = .root → countGood 5 count = false →
    Completes (.refPresenceWindow 5 false count inTime) s fun t =>
      t.dist.refs.ocxoAbsent = true ∧ t.dist.b.hs.alert.getLsbD 4 = true ∧
      (∀ i, i < 128 → (t.port .dist i).link.state = .down) ∧ DistOnly s t)) ∧
  ((∀ (i : Nat) (why : RefFail) (s : State), i < 5 → s.role = .root → (s.refIn i).valid = true → refFails s i why = true →
    s.dist.b.t.held = true →
    Completes (.refInputFail i why) s fun t =>
      (t.refIn i).valid = false ∧ (t.refIn i).failed = true ∧ (t.refIn i).eligible = false ∧ (t.refIn i).wtr = false ∧
      t.dist.refs.selected ≠ i ∧ (∀ j, j ≠ i → t.refIn j = s.refIn j) ∧ t = { s with dist.refs := t.dist.refs }) ∧
  (∀ (i : Nat) (x : St) (s : State), i < 6 → (s.refIn i).valid = true → (s.refIn i).wtr = true →
    (s.refIn i).validSince = some x → wtrTime s ≤ elapsed (s.now .dist) x →
    exec (.wtrExpire i) s = .next (s.modRefIn i fun r => { r with wtr := false, eligible := true })) ∧
  (∀ (i : Nat) (x : St) (s : State), i < 6 → (s.refIn i).validSince = some x → elapsed (s.now .dist) x < wtrTime s →
    exec (.wtrExpire i) s = .next s))

/-- ALIGN and the outputs it aligns. The leading root notes the step that ALIGN takes effect at and answers PENDING; a die sends it to
the roots (R92, R390). ALIGN_APPLY sets each output in scope to the first ST at or after the boundary at which the map gives a whole
TAI second, and completes the command. PPS_OUT_EDGE raises the 1PPS output a whole number of seconds after A, no sooner than 0.5 s
after its last rise, and lowers it after its width (R91, R93). -/
def Obligations.AlignMovesTheOutputs : Prop :=
  (∀ (c : Cmd) (scope slice : Nat) (n : Step) (a : Step × St × Bool) (s : State), c.part = .dist → hsReady s c = true →
    isLeader s = true → scope ≤ 2 → slice < 64 → alignStep s .dist slice n = some a →
    Completes (.align c scope slice n) s fun t =>
      t.dist.b.map.aligns = s.dist.b.map.aligns ++ [{ scope, slice, step := a.1, at_ := a.2.1, cmd := some c }] ∧
      (∀ b, (s.turning .dist slice).stepStart n = some b → 2048 * 16384 ≤ stDiff b (s.now .dist) → a = (n, b, false)) ∧
      (a.2.2 = true → (t.base .dist).ctr .clamp 0 = (s.base .dist).ctr .clamp 0 + 1) ∧ Answers c 0x0041 .pending t ∧
      DistOnly s t) ∧
  (∀ (c : Cmd) (scope slice : Nat) (n : Step) (s : State), c.part = .tsu → c.mbx = 0 → hsReady s c = true →
    scope ≤ 2 → slice < 64 → Completes (.align c scope slice n) s (CarriedToRoots c 0x0041 s)) ∧
  (∀ (p : Part) (d : AlignDue) (s : State), (s.base p).map.aligns = [d] → stGe (s.now p) d.at_ = true → d.scope = 0 →
    d.at_.toNat + 64000000000 < 2 ^ 64 →
    Completes (.alignApply p) s fun t =>
      (t.base p).map.aligns = [] ∧ (t.base p).map.alignMap = some (s.base p).map.cur ∧
      ((s.base p).map.cur.originTu + (t.base p).map.alignAt.toNat) % 64000000000 = 0 ∧
      d.at_.toNat ≤ (t.base p).map.alignAt.toNat ∧ (t.base p).map.alignAt.toNat < d.at_.toNat + 64000000000 ∧
      (p = .dist → t.dist.refs.outA = t.dist.b.map.alignAt) ∧ (t.base p).t.acc = (s.base p).t.acc ∧
      (∀ c, d.cmd = some c → (p = .tsu → (s.mbox c.mbx).held = []) → Answers (ofPart p c) 0x0041 .ok t) ∧ PartOnly p s t) ∧
  (∀ (s : State), s.role = .root → s.dist.b.t.held = true → (tget {} s.dist.refs.outs 0).high = false →
    (∀ x, (tget {} s.dist.refs.outs 0).last = some x → 32000000000 ≤ elapsed (s.now .dist) x) →
    (s.now .dist - s.dist.refs.outA).toNat % 64000000000 ≤ 64 →
    exec (.ppsOutEdge .pps true) s = .next (s.modRefs fun r => { r with
      outs := tset {} r.outs 0 { high := true, last := some (s.now .dist) } })) ∧
  (∀ (x : St) (s : State), s.role = .root → s.dist.b.t.held = true → tget {} s.dist.refs.outs 0 = { high := true, last := some x } →
    clampN 1 500000 (s.cfg .dist 0x178 0x3E8) * 64000 ≤ elapsed (s.now .dist) x →
    exec (.ppsOutEdge .pps false) s = .next (s.modRefs fun r => { r with
      outs := tset {} r.outs 0 { high := false, last := some x } }))

/-- Training (R64, R108, R116): ENABLE with a signal takes an armed port to TRAIN and TS1; TS1 is answered with TS2; the sixteenth TS2
of a matching neighbour takes it to ALIGN, where the leader sends the map of the lanes good at both ends, while one that does not
match is a wiring fault; the follower enters TIMECAL with ALIGN_MAP and the leader with an ALIGN_DONE of the same MAP, SEQ starting
at 0; CAL announces the lane that leaves; and complete calibration ends in UP at width 2 with a trained spare, otherwise in
DEGRADED, unless the round trip is beyond R70. What ends or restarts a link (R116): ENABLE cleared and the loss of every signal take
the port to DOWN, transmitters and lasers off; 10 ms without block lock and 1 ms without ALIGN_DONE restart training, and 64 ticks
without a good slot 0 cell an unplanned retrain, each counted under its name. -/
def Obligations.LinksTrainAndFallBack : Prop :=
  ((∀ (p : Part) (i lane : Nat) (s : State), i < portCount p → lane < 3 → (s.port p i).link.state = .down →
    portArmed s p i = true →
    Completes (.signalDetect p i lane) s fun t =>
      (t.port p i).link.state = .train ∧ (t.port p i).link.sendKind = 1 ∧ (t.port p i).link.txOn = true ∧
      (laneOf (t.port p i) lane).signal = true ∧ (∀ j, j ≠ i → (t.port p j).link = (s.port p j).link) ∧ PartOnly p s t) ∧
  (∀ (i : Nat) (s : State), i < 2 → s.tsu.die.inReset = false → (s.port .tsu i).link.state = .down →
    ((s.port .tsu i).link.lanes.any fun l => l.2.signal) = true →
    Completes (.portEnableWrite .tsu i true) s fun t =>
      (t.port .tsu i).link.enable = true ∧ (t.port .tsu i).link.state = .train ∧ (t.port .tsu i).link.sendKind = 1 ∧
      (∀ j, j ≠ i → t.port .tsu j = s.port .tsu j) ∧ TsuOnly s t) ∧
  (∀ (p : Part) (i : Nat) (r : Train) (s : State), i < portCount p → r.crcOk = true → (s.port p i).link.state = .train →
    Completes (.ts1Receive p i r) s fun t =>
      (t.port p i).link.sendKind = 2 ∧ (t.port p i).link.nbrGood = r.good ∧
      (r.cap.getLsbD 2 = true → (t.port p i).link.ts2Rx = 0) ∧ (t.port p i).link.state = .train ∧
      (r.phys ≠ 3 → (laneOf (t.port p i) r.phys.toNat).lock = true) ∧ (∀ j, j ≠ i → t.port p j = s.port p j) ∧
      t = s.modBase p fun b => { b with ports := (t.base p).ports }) ∧
  (∀ (p : Part) (i : Nat) (r : Train) (s : State), i < portCount p → r.crcOk = true → (s.port p i).link.state = .train →
    nbrOk s p i r.node r.port = true → (s.port p i).link.ts2Rx = 15 → (s.port p i).link.sendKind = 2 →
    (s.base p).t.refclkRange = false →
    Completes (.ts2Receive p i r) s fun t =>
      (t.port p i).link.state = .align ∧ (t.port p i).link.rxNode = r.node ∧ (t.port p i).link.rxPort = r.port ∧
      (linkLeader (s.modPort p i fun q => { q with link := { q.link with rxNode := r.node } }) p i = true →
        (t.port p i).link.alignMap = some (mapOf (goodLanes (t.port p i).link)) ∧ (t.port p i).link.sendKind = 3) ∧
      (∀ j, j ≠ i → (t.port p j).link = (s.port p j).link) ∧ PartOnly p s t) ∧
  (∀ (p : Part) (i : Nat) (r : Train) (s : State), i < portCount p → r.crcOk = true → (s.port p i).link.state = .train →
    nbrOk s p i r.node r.port = false →
    Completes (.ts2Receive p i r) s fun t =>
      (t.port p i).link.state = .train ∧ (t.port p i).link.wiring = true ∧ (t.port p i).link.ts2Rx = 0 ∧
      ((s.port p i).link.wiring = false → (t.base p).hs.alert.getLsbD (match p with | .tsu => 2 | .dist => 0) = true) ∧
      PartOnly p s t) ∧
  (∀ (p : Part) (i : Nat) (r : Train) (s : State), i < portCount p → r.crcOk = true → (s.port p i).link.state = .align →
    linkLeader s p i = false →
    Completes (.alignMapReceive p i r) s fun t =>
      (t.port p i).link.state = .timecal ∧ (t.port p i).link.map = r.map ∧ (t.port p i).link.sendKind = 4 ∧
      (t.port p i).tx.seq = 0 ∧ (t.port p i).rxSeq = 0 ∧
      (p = .tsu → s.tsu.b.node = none → t.tsu.b.node = some (mkNode 0 (nodeRow (s.port .tsu i).link.rxNode)
        (nodeRack (s.port .tsu i).link.rxNode) (s.port .tsu i).link.rxPort 0 0)) ∧ PartOnly p s t) ∧
  (∀ (p : Part) (i : Nat) (r : Train) (s : State), i < portCount p → r.crcOk = true → (s.port p i).link.state = .align →
    linkLeader s p i = true → (s.port p i).link.alignMap = some r.map →
    Completes (.alignDoneReceive p i r) s fun t =>
      (t.port p i).link.state = .timecal ∧ (t.port p i).link.map = r.map ∧ (t.port p i).link.sendKind = 5 ∧
      (t.port p i).tx.seq = 0 ∧ (t.port p i).rxSeq = 0 ∧ PartOnly p s t) ∧
  (∀ (p : Part) (i : Nat) (r : Train) (s : State), i < portCount p → r.crcOk = true → (s.port p i).link.state = .timecal →
    linkLeader s p i = false →
    Completes (.calReceive p i r) s fun t =>
      (t.port p i).link.calCell = some { kind := 0, map := r.map, tick := r.ntick, id := 0 } ∧
      (∀ j, j ≠ i → t.port p j = s.port p j) ∧ t = s.modBase p fun b => { b with ports := (t.base p).ports }) ∧
  (∀ (p : Part) (i : Nat) (s : State), i < portCount p → (s.port p i).link.state = .timecal → calLanes (s.port p i).link = [] →
    2 ≤ (goodLanes (s.port p i).link).length → (s.port p i).link.range = false →
    Completes (.timecalComplete p i) s fun t =>
      (t.port p i).link.map = ((s.port p i).link.alignMap).getD (s.port p i).link.map ∧
      (t.port p i).link.state = (if width2 (t.port p i).link.map && (s.port p i).link.spareHere && (s.port p i).link.spareThere
        && mapSp (t.port p i).link.map != 3 then .up else .degraded) ∧
      (t.port p i).mark.rxSeeded = true ∧ (t.port p i).mark.txSeeded = false ∧ PartOnly p s t) ∧
  (∀ (i : Nat) (s : State), i < 128 → (s.port .dist i).link.state = .timecal → calLanes (s.port .dist i).link = [] →
    2 ≤ (goodLanes (s.port .dist i).link).length → (s.port .dist i).link.range = true →
    Completes (.timecalComplete .dist i) s fun t =>
      (t.port .dist i).link.state = .timecal ∧ t.dist.b.hs.alert.getLsbD 1 = true ∧ DistOnly s t)) ∧
  ((∀ (p : Part) (i : Nat) (s : State), i < portCount p → (p = .dist → portUse s.role i ≠ 0) →
    Completes (.portEnableWrite p i false) s fun t =>
      (t.port p i).link.enable = false ∧ (t.port p i).link.state = .down ∧ (t.port p i).link.txOn = false ∧
      (t.port p i).lasersOn = false ∧ (∀ j, j ≠ i → (t.port p j).link = (s.port p j).link) ∧ PartOnly p s t) ∧
  (∀ (i : Nat) (b : Bool) (s : State), i < 128 → portUse s.role i = 0 →
    exec (.portEnableWrite .dist i b) s = .next s) ∧
  (∀ (p : Part) (i : Nat) (s : State), i < portCount p → (s.port p i).link.state ≠ .down →
    Completes (.lossOfSignal p i) s fun t =>
      (t.port p i).link.state = .down ∧ (t.port p i).link.txOn = false ∧ (t.port p i).lasersOn = false ∧
      (t.port p i).link.enable = (s.port p i).link.enable ∧ PartOnly p s t) ∧
  (∀ (p : Part) (i : Nat) (s : State), i < portCount p → (s.port p i).link.state = .train →
    ((s.port p i).link.lanes.any fun l => l.2.lock) = false → 10000000 ≤ ((s.base p).perf.cycles - (s.port p i).link.since).toNat →
    Completes (.trainRetry p i) s fun t =>
      (t.port p i).link.state = .train ∧ (t.port p i).link.sendKind = 1 ∧ (t.port p i).link.ts2Rx = 0 ∧
      (t.base p).ctr .trainRetry i = (s.base p).ctr .trainRetry i + 1 ∧ PartOnly p s t) ∧
  (∀ (p : Part) (i : Nat) (s : State), i < portCount p → (s.port p i).link.state = .align →
    1000000 ≤ ((s.base p).perf.cycles - (s.port p i).link.since).toNat →
    Completes (.alignTimeout p i) s fun t =>
      (t.port p i).link.state = .train ∧ (t.port p i).link.sendKind = 1 ∧ (t.port p i).link.alignMap = none ∧ PartOnly p s t) ∧
  (∀ (p : Part) (i : Nat) (s : State), i < portCount p → (s.port p i).live = true → 64 ≤ (s.port p i).mark.noSlot0 →
    Completes (.unplannedRetrain p i) s fun t =>
      (t.port p i).link.state = .train ∧ (t.port p i).link.sendKind = 1 ∧ (t.port p i).mark.usable = false ∧
      (t.base p).ctr .retrain i = (s.base p).ctr .retrain i + 1 ∧ PartOnly p s t))

/-- Lanes and the changes they ask for (R116, R118 to R120, R123). A failed active lane, or a warned one, asks for a swap with the
trained spare, otherwise for width 1 on the other lane: the leader orders it at least 8 ticks ahead and the follower requests it. A
trained spare brings a link of width 2 to UP, and the leader of one of width 1 orders width 2; the loss of the spare's training
brings it to DEGRADED. RETRAIN is ordered or requested in the same way. Changes at an agreed tick (R121, R122, R125 to R127): the
leader orders what the follower asks, and revises a pending order only to a change of higher precedence, which replaces it before N
- 4 and otherwise follows it; the follower takes the newer order, drops its own request and acknowledges; from N - 2 of a swap the
leaving lane is copied; and at N the order applies, with or without an acknowledgement. -/
def Obligations.LanesChangeAtAnAgreedTick : Prop :=
  ((∀ (p : Part) (i lane : Nat) (c : Instr) (s : State), c = .laneFail p i lane ∨ c = .laneWarn p i lane →
    i < portCount p → lane < 3 → (s.port p i).live = true → mapActive (s.port p i).link.map lane = true →
    spareOk (s.port p i).link = true → mapSp (s.port p i).link.map ≠ lane → (s.port p i).link.order = none →
    Completes c s fun t =>
      let m := swapMap (s.port p i).link.map (mapA1 (s.port p i).link.map == lane)
      (linkLeader s p i = true → (t.port p i).link.order =
        some { kind := 1, map := m, tick := tickOf (s.now p) + 9, id := (s.port p i).link.nextId }) ∧
      (linkLeader s p i = false → (t.port p i).link.request = some { kind := 1, map := m }) ∧
      (c = .laneFail p i lane → (laneOf (t.port p i) lane).failed = true ∧ (laneOf (t.port p i) lane).lock = false ∧
        (laneOf (t.port p i) lane).calValid = false) ∧
      (c = .laneWarn p i lane → (laneOf (t.port p i) lane).warned = true) ∧
      (t.port p i).live = true ∧ (∀ j, j ≠ i → (t.port p j).link = (s.port p j).link) ∧ PartOnly p s t) ∧
  (∀ (p : Part) (i lane : Nat) (c : Instr) (s : State), c = .laneFail p i lane ∨ c = .laneWarn p i lane →
    i < portCount p → lane < 3 → (s.port p i).live = true → mapActive (s.port p i).link.map lane = true →
    width2 (s.port p i).link.map = true → (s.port p i).link.spareHere = false → (s.port p i).link.order = none →
    Completes c s fun t =>
      let k := (s.port p i).link.map
      let m := mkMap (if mapA0 k = lane then mapA1 k else mapA0 k) 3 3
      (linkLeader s p i = true → (t.port p i).link.order =
        some { kind := 2, map := m, tick := tickOf (s.now p) + 9, id := (s.port p i).link.nextId }) ∧
      (linkLeader s p i = false → (t.port p i).link.request = some { kind := 2, map := m }) ∧ PartOnly p s t) ∧
  (∀ (p : Part) (i : Nat) (s : State), i < portCount p → (s.port p i).live = true → mapSp (s.port p i).link.map ≠ 3 →
    Completes (.spareTrained p i) s fun t =>
      (t.port p i).link.spareHere = true ∧ (t.port p i).link.spareThere = true ∧
      (width2 (s.port p i).link.map = true → (t.port p i).link.state = .up ∧ (t.port p i).link.order = (s.port p i).link.order) ∧
      (width2 (s.port p i).link.map = false → linkLeader s p i = true → (s.port p i).link.order = none →
        (t.port p i).link.order = some { kind := 3, map := mkMap (mapA0 (s.port p i).link.map) (mapSp (s.port p i).link.map) 3
                                         tick := tickOf (s.now p) + 9, id := (s.port p i).link.nextId }) ∧
      (∀ j, j ≠ i → (t.port p j).link = (s.port p j).link) ∧ PartOnly p s t) ∧
  (∀ (p : Part) (i : Nat) (s : State), i < portCount p → (s.port p i).live = true →
    Completes (.spareNotTrained p i) s fun t =>
      (t.port p i).link.spareHere = false ∧ (t.port p i).link.spareThere = false ∧ (t.port p i).link.state = .degraded ∧
      (t.port p i).link.map = (s.port p i).link.map ∧ (∀ j, j ≠ i → (t.port p j).link = (s.port p j).link) ∧ PartOnly p s t) ∧
  (∀ (p : Part) (i : Nat) (s : State), i < portCount p → (s.port p i).live = true → (s.port p i).link.order = none →
    Completes (.portRetrainWrite p i) s fun t =>
      (linkLeader s p i = true → (t.port p i).link.order =
        some { kind := 4, map := 0x3F, tick := tickOf (s.now p) + 9, id := (s.port p i).link.nextId }) ∧
      (linkLeader s p i = false → (t.port p i).link.request = some { kind := 4, map := 0x3F }) ∧
      (∀ j, j ≠ i → t.port p j = s.port p j) ∧ t = s.modBase p fun b => { b with ports := (t.base p).ports })) ∧
  ((∀ (i : Nat) (r : Train) (s : State), i < 128 → r.crcOk = true → (s.port .dist i).live = true → linkLeader s .dist i = true →
    (s.port .dist i).link.order = none → r.ckind ≠ 2 →
    Completes (.changeReqReceive .dist i r) s fun t =>
      (t.port .dist i).link.order =
        some { kind := r.ckind, map := r.map, tick := tickOf (s.now .dist) + 9, id := (s.port .dist i).link.nextId } ∧
      t = s.modBase .dist fun b => { b with ports := t.dist.b.ports }) ∧
  (∀ (i : Nat) (r : Train) (o : Order) (s : State), i < 128 → r.crcOk = true → (s.port .dist i).live = true →
    linkLeader s .dist i = true → (s.port .dist i).link.order = some o → r.ckind ≠ 2 →
    Completes (.changeReqReceive .dist i r) s fun t =>
      let new : Order := { kind := r.ckind, map := r.map, tick := tickOf (s.now .dist) + 9, id := (s.port .dist i).link.nextId }
      (changeRank o.kind ≤ changeRank r.ckind →
        (t.port .dist i).link.order = some o ∧ (t.port .dist i).link.later = (s.port .dist i).link.later) ∧
      (changeRank r.ckind < changeRank o.kind → 4 < tickDiff o.tick (tickOf (s.now .dist) + 9) + 9 →
        (t.port .dist i).link.order = some new) ∧
      (changeRank r.ckind < changeRank o.kind → tickDiff o.tick (tickOf (s.now .dist) + 9) + 9 ≤ 4 →
        (t.port .dist i).link.order = some o ∧ (t.port .dist i).link.later = some new) ∧
      t = s.modBase .dist fun b => { b with ports := t.dist.b.ports }) ∧
  (∀ (p : Part) (i : Nat) (r : Train) (s : State), i < portCount p → r.crcOk = true → (s.port p i).live = true →
    linkLeader s p i = false → (s.port p i).link.order = none → 0 < epochDiff r.orderId (s.port p i).link.seenId →
    Completes (.changeOrderReceive p i r) s fun t =>
      (t.port p i).link.order = some { kind := r.ckind, map := r.map, tick := r.ntick, id := r.orderId } ∧
      (t.port p i).link.request = none ∧ (t.port p i).link.ackTo = some r.orderId ∧ (t.port p i).link.seenId = r.orderId ∧
      (∀ j, j ≠ i → t.port p j = s.port p j) ∧ t = s.modBase p fun b => { b with ports := (t.base p).ports }) ∧
  (∀ (p : Part) (i : Nat) (r : Train) (o : Order) (s : State), i < portCount p → r.crcOk = true →
    (s.port p i).link.order = some o → o.id = r.orderId →
    Completes (.changeAckReceive p i r) s fun t =>
      (t.port p i).link.order = some { o with acked := true } ∧
      (∀ j, j ≠ i → t.port p j = s.port p j) ∧ t = s.modBase p fun b => { b with ports := (t.base p).ports }) ∧
  (∀ (p : Part) (i : Nat) (o : Order) (s : State), i < portCount p → (s.port p i).link.order = some o → o.kind = 1 ∨ o.kind = 5 →
    tickDiff o.tick (tickOf (s.now p)) ≤ 2 →
    exec (.swapCopyStart p i) s = .next (s.modPort p i fun q => { q with link := { q.link with copying := true } })) ∧
  (∀ (p : Part) (i : Nat) (o : Order) (matched : Bool) (s : State), i < portCount p → (s.port p i).live = true →
    (s.port p i).link.order = some o → 0 ≤ tickDiff (tickOf (s.now p)) o.tick → o.kind = 1 ∨ o.kind = 2 ∨ o.kind = 3 →
    Completes (.linkChangeApply p i matched) s fun t =>
      (t.port p i).link.map = o.map ∧ (t.port p i).link.order = (s.port p i).link.later ∧ (t.port p i).link.later = none ∧
      (t.port p i).link.copying = false ∧ (t.port p i).link.spareHere = false ∧ (t.port p i).link.state = .degraded ∧
      (t.port p i).mark.mapTick = some o.tick ∧ (t.port p i).tx = (s.port p i).tx ∧
      (t.base p).ctr .swapUnmatched i =
        (s.base p).ctr .swapUnmatched i + (if o.kind = 1 && !matched then 1 else 0) ∧
      (t.base p).ctr .changeNoack i = (s.base p).ctr .changeNoack i + (if linkLeader s p i && !o.acked then 1 else 0) ∧
      PartOnly p s t) ∧
  (∀ (p : Part) (i : Nat) (o : Order) (matched : Bool) (s : State), i < portCount p → (s.port p i).live = true →
    (s.port p i).link.order = some o → 0 ≤ tickDiff (tickOf (s.now p)) o.tick → o.kind = 4 →
    Completes (.linkChangeApply p i matched) s fun t =>
      (t.port p i).link.state = .train ∧ (t.port p i).link.sendKind = 1 ∧ (t.port p i).link.order = none ∧ PartOnly p s t) ∧
  (∀ (p : Part) (i : Nat) (o : Order) (matched : Bool) (s : State), i < portCount p → (s.port p i).live = true →
    (s.port p i).link.order = some o → tickDiff (tickOf (s.now p)) o.tick < 0 →
    exec (.linkChangeApply p i matched) s = .next s))

/-- SLOT_TRANSMIT fills a traffic slot by the rule of R112: a pending change cell, once in a tick; in the last slot a P3 cell that has
waited three ticks; the oldest P1 cell; then the P2 cell of the slice that deficit round robin visits; then P3; else idle. A cell
sent takes the next SEQ (R108). The COPY cells of R354 stand between P1 and P2. Calibration of lanes (R144 to R146): the leader of
an UP link starts a rotation of three swaps once in ROT_PERIOD; a measurement within CAL_JUMP of the one before is adopted, one
beyond it waits for a second, which is adopted and counted in CAL_SHIFT when the two agree within half of CAL_JUMP, and otherwise
both are rejected and counted in CAL_REJECT, the old values standing; and the bound of a valid timing lane grows by 5 ps a minute
past 660 s, to 200 ps. -/
def Obligations.SlotsAndCalibrationFollowTheirRules : Prop :=
  (∀ (p : Part) (i k : Nat) (s : State), i < portCount p → (s.port p i).live = true → 0 < k → k ≤ lastSlot (s.port p i).link →
    (s.base p).ep.have_ = true → (s.port p i).tx.slotTick = some (tickOf (s.now p)) →
    Completes (.slotTransmit p i k) s fun t =>
      let x := (s.port p i).tx
      let y := (t.port p i).tx
      let due := k = lastSlot (s.port p i).link ∧ x.p3Gap = 3
      (∀ r, changePending s p i = some r → x.changeSent = false →
        y = { x with wireTrain := some r, changeSent := true } ∧ t = s.modBase p fun b => { b with ports := (t.base p).ports }) ∧
      (changePending s p i = none ∨ x.changeSent = true →
        (∀ c l, x.p3 = c :: l → due → (y.wire.map (·.body)) = some c.body ∧ y.wireSeq = x.seq ∧ y.seq = x.seq + 1 ∧ y.p3Gap = 0 ∧
          y.p1 = x.p1 ∧ y.p2 = x.p2) ∧
        ((¬ due ∨ x.p3 = []) →
          (∀ c l, x.p1 = c :: l → (y.wire.map (·.body)) = some c.body ∧ y.wireSeq = x.seq ∧ y.seq = x.seq + 1 ∧
            (c.cells ≤ 1 → y.p1 = l) ∧ y.p2 = x.p2 ∧ y.p3 = x.p3) ∧
          (x.p1 = [] → x.copy = [] →
            (∀ sl z c l, drrPick s p i = some (sl, z) → tget [] x.p2 sl = c :: l →
              (y.wire.map (·.body)) = some c.body ∧ y.wireSeq = x.seq ∧ y.seq = x.seq + 1 ∧
              (c.cells ≤ 1 → tget [] y.p2 sl = l) ∧ y.p3 = x.p3) ∧
            (drrPick s p i = none →
              (∀ c l, x.p3 = c :: l → (y.wire.map (·.body)) = some c.body ∧ y.seq = x.seq + 1 ∧ y.p3Gap = 0) ∧
              (x.p3 = [] → y = x))))) ∧
      (t.port p i).link = (s.port p i).link ∧ (t.port p i).mark = (s.port p i).mark ∧ PartOnly p s t) ∧
  ((∀ (p : Part) (i : Nat) (s : State), i < portCount p → linkLeader s p i = true → (s.port p i).link.state = .up →
    ((s.base p).ports.any fun e => decide (0 < e.2.link.rotLeft)) = false → (s.port p i).link.order = none →
    rotPeriod s p ≤ ((s.base p).perf.cycles - (s.port p i).link.rotAt).toNat →
    exec (.rotationStart p i) s = .next (s.modPort p i fun q => { q with link := { q.link with
      rotLeft := 3, rotAt := (s.base p).perf.cycles, dwell := some (mapSp q.link.map), rotNext := 0 } })) ∧
  (∀ (p : Part) (i lane : Nat) (tx rx : BitVec 16) (s : State), i < portCount p → lane < 3 → (s.port p i).live = true →
    (laneOf (s.port p i) lane).lock = true → mapActive (s.port p i).link.map lane = false →
    Completes (.calDwellEnd p i lane tx rx) s fun t =>
      let y := laneOf (s.port p i) lane
      let z := laneOf (t.port p i) lane
      ((y.measured = false ∨ within (calJump s p) (tx, rx) (y.ownTx, y.ownRx) = true) →
        z.ownTx = tx ∧ z.ownRx = rx ∧ z.calValid = true ∧ z.retest = none) ∧
      (y.measured = true → within (calJump s p) (tx, rx) (y.ownTx, y.ownRx) = false → y.retest = none →
        z = { y with retest := some (tx, rx) }) ∧
      (∀ w, y.measured = true → within (calJump s p) (tx, rx) (y.ownTx, y.ownRx) = false → y.retest = some w →
        within (calJump s p / 2) (tx, rx) w = true →
        z.ownTx = tx ∧ z.ownRx = rx ∧ z.calValid = true ∧
        (t.base p).ctr .calShift i = (s.base p).ctr .calShift i + 1) ∧
      (∀ w, y.measured = true → within (calJump s p) (tx, rx) (y.ownTx, y.ownRx) = false → y.retest = some w →
        within (calJump s p / 2) (tx, rx) w = false →
        z = { y with retest := none } ∧ (t.base p).ctr .calReject i = (s.base p).ctr .calReject i + 1) ∧ PartOnly p s t) ∧
  (∀ (p : Part) (i : Nat) (s : State), i < portCount p → laneCal (s.port p i) = true →
    Completes (.calAgeStep p i) s fun t =>
      asymBound (t.port p i) = min 200 (20 + 5 * ((((s.base p).perf.cycles - (laneOf (s.port p i) (lane0 (s.port p i))).at_).toNat
        - 660000000000) / 60000000000)) ∧
      (t.port p i).mark = (s.port p i).mark ∧ (∀ j, j ≠ i → t.port p j = s.port p j) ∧
      t = s.modBase p fun b => { b with ports := (t.base p).ports }))

/-- The mark path (R165 to R168): while the die is BLANK and its time not set, the mean round trip of a region's echoes is taken, and
the calibration writes L_path(r) = (RT(r) - T_TURN)/2 into every region whose path is good; a path without an echo, or outside 16 to
512 tu, sets MARK_PATH_FAULT with the lowest such region, marks the regions behind it unsynchronised and raises a hard event against
the die. MARK_CAL_TEMP stands while the temperature differs by more than 40 degrees, and ECHO_REGION, 144 to 254 clamped to 143,
names the region whose CAL frame goes out in every mark interval. MARK_EMIT (R160, R163, R177): at the first edge at or past a
multiple of 65,536 tu the TSU launches a frame with a good CHECK that carries that multiple and the residual in 1/2 tu, a LOAD frame
after a setting of master time and a MARK otherwise; before the time is set, and again in the same interval, it launches none. -/
def Obligations.MarksAreCalibratedAndSent : Prop :=
  ((∀ (r : Nat) (rt : Option Nat) (s : State), r < 144 → s.tsu.die.state = .blank → s.tsu.mark.calDone = false →
    s.tsu.b.t.held = false → exec (.markPathCal r rt) s = .next (s.modRegion r fun q => { q with rt })) ∧
  (∀ (turn : Nat) (s : State), s.tsu.die.state = .blank → s.tsu.mark.calDone = false → s.tsu.b.t.held = false →
    (∀ r, r < 144 → ∃ rt, (s.region r).rt = some rt ∧ turn + 2 * 16 * 256 ≤ rt ∧ rt ≤ turn + 2 * 512 * 256) →
    Completes (.markCalComplete turn) s fun t =>
      (∀ r rt, r < 144 → (s.region r).rt = some rt → (t.region r).lpath.toNat = (rt - turn) / 2 ∧
        t.region r = { s.region r with lpath := (t.region r).lpath }) ∧
      t.tsu.mark.calDone = true ∧ t.tsu.mark.tjCal = s.tsu.b.tj ∧ t.tsu.mark.pathFault = false ∧
      t = { s with tsu := { s.tsu with regions := t.tsu.regions, mark := t.tsu.mark } }) ∧
  (∀ (turn f : Nat) (s : State), s.tsu.die.state = .blank → s.tsu.mark.calDone = false → s.tsu.b.t.held = false →
    f < 144 → (s.region f).rt = none → (∀ r, r < f → pathBad turn (s.region r) = false) →
    Completes (.markCalComplete turn) s fun t =>
      t.tsu.mark.calDone = true ∧ t.tsu.mark.pathFault = true ∧ t.tsu.mark.faultRegion = f ∧
      (∀ q, q < 144 → markThrough f q = true → (t.region q).unsync = true) ∧
      (∀ i ∈ reportPorts s .tsu (s.node .tsu), ReportWaits t .tsu i (s.node .tsu) true causeRegion) ∧ TsuOnly s t) ∧
  (∀ (r turn : Nat) (rt : Option Nat) (s : State), r < 144 →
    s.tsu.die.state ≠ .blank ∨ s.tsu.mark.calDone = true ∨ s.tsu.b.t.held = true →
    exec (.markPathCal r rt) s = .next s ∧ exec (.markCalComplete turn) s = .next s) ∧
  (∀ (tj : Int) (s : State), Completes (.markCalTemp tj) s fun t =>
    (t.tsu.mark.calTemp = true ↔ s.tsu.mark.calDone = true ∧ (tj < s.tsu.mark.tjCal - 40 ∨ s.tsu.mark.tjCal + 40 < tj)) ∧
    t = { s with tsu.b.tj := tj, tsu.mark.calTemp := t.tsu.mark.calTemp }) ∧
  (∀ (v : Nat) (s : State), Completes (.markControlWrite v) s fun t =>
    t.tsu.mark.echo = (if 144 ≤ v % 256 ∧ v % 256 ≤ 254 then 143 else v % 256) ∧
    (s.tsu.b.t.held = true → v % 256 ≤ 254 → ∃ f, t.tsu.mark.echoFrame = some f ∧ markGood f = true ∧ markKind f = 3 ∧
      bits f.toNat 60 53 = t.tsu.mark.echo) ∧
    (t.base .tsu).ctr .clamp 0 = (s.base .tsu).ctr .clamp 0 + (if 144 ≤ v % 256 ∧ v % 256 ≤ 254 then 1 else 0) ∧
    t = { s with tsu := { s.tsu with mark := t.tsu.mark, b := t.tsu.b } })) ∧
  ((∀ (s : State), s.tsu.b.t.held = true → markResidual s.tsu.b.t ≤ 128 →
    s.tsu.mark.lastMark ≠ some (s.tsu.b.t.acc.extractLsb' 48 48) →
    Completes .markEmit s fun t =>
      markGood t.tsu.mark.frame = true ∧ markKind t.tsu.mark.frame = (if s.tsu.mark.loadNext then 2 else 1) ∧
      (markSt t.tsu.mark.frame).toNat = (s.now .tsu).toNat / 65536 * 65536 ∧
      markSub t.tsu.mark.frame = markResidual s.tsu.b.t ∧ t.tsu.mark.loadNext = false ∧
      t.tsu.mark.lastMark = some (s.tsu.b.t.acc.extractLsb' 48 48) ∧ t = { s with tsu.mark := t.tsu.mark }) ∧
  (∀ (s : State), s.tsu.b.t.held = false ∨ 128 < markResidual s.tsu.b.t ∨
    s.tsu.mark.lastMark = some (s.tsu.b.t.acc.extractLsb' 48 48) → exec .markEmit s = .next s))

/-- The adjustments of a spread sum exactly to the value spread over its 1,024 cycles, each within one of the quotient, and none is left
after the last (R173). MARK_RECEIVE at a region whose clock runs, after the edges before it (R164, R173 to R178): a LOAD frame, or
the first mark of a region not LOADED, loads the copy; a MARK within REGION_ERR_LIMIT is spread without an event; one beyond it is
spread with a suspect event against the die; one beyond 64 tu spreads 64 tu and leaves the region unsynchronised with a hard event;
and a good frame with another ST_MARK is not used and raises a hard event. A stopped clock receives nothing. A missed mark (R164,
R176): the copy keeps its increments and MARK_MISS counts; the fourth in a row leaves the region unsynchronised with a suspect event
against the die. A frame that fails its CHECK is a missed mark, and a stopped clock misses none. -/
def Obligations.MarksCorrectTheirCopy : Prop :=
  (∀ (r : Region) (v : Int),
    ((List.range 1024).map fun j => spreadAdj { spread r v with spreadLeft := 1024 - j }).foldl (· + ·) 0 = v ∧
    (∀ j, j < 1024 → (spreadAdj { spread r v with spreadLeft := 1024 - j } - Int.tdiv v 1024).natAbs ≤ 1) ∧
    spreadAdj { spread r v with spreadLeft := 0 } = 0) ∧
  ((∀ (r phi : Nat) (f : W64) (es : List W32) (s u : State), r < 144 → (s.region r).clockOn = true → u = regionEdges r es s →
    markGood f = true → markKind f = 1 ∨ markKind f = 2 →
    ((u.region r).loaded = true → markSt f = nearestMark (u.region r).copy) → phi ≤ 64 →
    Completes (.markReceive r f phi es) s fun t =>
      let q := u.region r
      let x := ((markSt f).setWidth 80 <<< 16) +
        BitVec.ofNat 80 (markSub f * 32768 + q.lpath.toNat * 256 + phi * q.period.toNat / 64)
      let err := (x - q.copy).toInt
      let lim := (u.cfg .tsu 0x140 16) * 65536
      (markKind f = 2 ∨ q.loaded = false → (t.region r).copy = x ∧ (t.region r).loaded = true ∧
        (t.region r).unsync = false ∧ (t.region r).spreadLeft = 0 ∧ t = u.modRegion r fun _ => t.region r) ∧
      (markKind f = 1 → q.loaded = true → (t.region r).copy = q.copy ∧ (t.region r).loaded = true ∧
        (t.region r).spreadLeft = 1024 ∧ (t.region r).err = clampI (-32767) 32767 (Int.tdiv err 256)) ∧
      (markKind f = 1 → q.loaded = true → err.natAbs ≤ lim →
        (err.natAbs ≤ 64 * 65536 → 1024 * (t.region r).spreadQ + (t.region r).spreadRem = err) ∧
        (t.region r).okRun = q.okRun + 1 ∧ (t.region r).unsync = (q.unsync && decide (q.okRun = 0)) ∧
        t = u.modRegion r fun _ => t.region r) ∧
      (markKind f = 1 → q.loaded = true → lim < err.natAbs → err.natAbs ≤ 64 * 65536 →
        1024 * (t.region r).spreadQ + (t.region r).spreadRem = err ∧ (t.region r).unsync = q.unsync ∧
        (∀ i ∈ reportPorts u .tsu (u.node .tsu), ReportWaits t .tsu i (u.node .tsu) false causeRegion)) ∧
      (markKind f = 1 → q.loaded = true → lim < err.natAbs → 64 * 65536 < err.natAbs →
        1024 * (t.region r).spreadQ + (t.region r).spreadRem = 64 * 65536 * err.sign ∧ (t.region r).unsync = true ∧
        (∀ i ∈ reportPorts u .tsu (u.node .tsu), ReportWaits t .tsu i (u.node .tsu) true causeRegion)) ∧ TsuOnly s t) ∧
  (∀ (r phi : Nat) (f : W64) (es : List W32) (s u : State), r < 144 → (s.region r).clockOn = true → u = regionEdges r es s →
    markGood f = true → markKind f ≠ 3 → (u.region r).loaded = true → markSt f ≠ nearestMark (u.region r).copy →
    Completes (.markReceive r f phi es) s fun t =>
      (∀ k, t.region k = u.region k) ∧
      (∀ i ∈ reportPorts u .tsu (u.node .tsu), ReportWaits t .tsu i (u.node .tsu) true causeRegion) ∧ TsuOnly s t) ∧
  (∀ (r phi : Nat) (f : W64) (es : List W32) (s : State), r < 144 → markGood f = true → markKind f = 3 →
    (s.region r).clockOn = true → exec (.markReceive r f phi es) s = .next (regionEdges r es s)) ∧
  (∀ (r phi : Nat) (f : W64) (es : List W32) (s : State), r < 144 → (s.region r).clockOn = false →
    exec (.markReceive r f phi es) s = .next s)) ∧
  ((∀ (r phi : Nat) (f : W64) (es : List W32) (c : Instr) (s u : State), r < 144 → (s.region r).clockOn = true →
    u = regionEdges r es s → c = .markMiss r es ∨ (c = .markReceive r f phi es ∧ markGood f = false) →
    Completes c s fun t =>
      (t.region r).missRun = (u.region r).missRun + 1 ∧ (t.region r).copy = (u.region r).copy ∧
      (t.base .tsu).ctr .markMiss r = (u.base .tsu).ctr .markMiss r + 1 ∧
      ((u.region r).missRun ≠ 3 → (t.region r).unsync = (u.region r).unsync) ∧
      ((u.region r).missRun = 3 → (t.region r).unsync = true ∧
        ∀ i ∈ reportPorts u .tsu (u.node .tsu), ReportWaits t .tsu i (u.node .tsu) false causeRegion) ∧
      (∀ k, k ≠ r → t.region k = u.region k) ∧ TsuOnly s t) ∧
  (∀ (r : Nat) (es : List W32) (s : State), r < 144 → (s.region r).clockOn = false → exec (.markMiss r es) s = .next s))

/-- A region's clock (R169 to R173, R207). At each edge the copy advances by P + adj and a stopped clock has no edges; stopping clears
LOADED and starting does not set it; a change of frequency takes effect at the present edge, or waits for the launch while an
alignment is in progress. A region number above 143 names nothing. Crossings (R180 to R187). In TRUING, after every copy is loaded,
a port's L_cross is the least whole number of tu at or above D + 139.2 tu, and the last port ends the calibration; CROSS_BUDGET is
held to 128 to 320 tu and frozen by GUARD_LOCK. A word waits at its port, at most 16; at a region that is not synchronised it slips
the step at its arrival; a seventeenth is discarded and slips the step. A word due and usable at an edge is released there without a
mark of lateness; one that was not usable at its release edge is released later, counted in CROSS_LATE, and slips the step. -/
def Obligations.RegionsCountAndCross : Prop :=
  ((∀ (r : Nat) (p : W32) (s : State), (s.region r).clockOn = true →
    ((regionEdge r s p).region r).copy = (s.region r).copy + BitVec.ofInt 80 ((p.toNat : Int) + spreadAdj (s.region r)) ∧
    ((regionEdge r s p).region r).period = p ∧ ((regionEdge r s p).region r).loaded = (s.region r).loaded ∧
    ((regionEdge r s p).region r).unsync = (s.region r).unsync ∧
    (∀ k, k ≠ r → (regionEdge r s p).region k = s.region k) ∧ TsuOnly s (regionEdge r s p)) ∧
  (∀ (r : Nat) (p : W32) (s : State), (s.region r).clockOn = false → regionEdge r s p = s) ∧
  (∀ (r : Nat) (s : State), r < 144 →
    exec (.regionClockStop r) s = .next (s.modRegion r fun q => { q with clockOn := false, loaded := false }) ∧
    exec (.regionClockStart r) s = .next (s.modRegion r fun q => { q with clockOn := true })) ∧
  (∀ (r set : Nat) (es : List W32) (s u : State), r < 144 → set ≤ 64 → u = regionEdges r es s →
    Completes (.regionFreqChange r set es) s fun t =>
      (aligning (u.region r) = false → t = u.modRegion r fun q => { q with setting := set }) ∧
      (aligning (u.region r) = true → t = u.modRegion r fun q => { q with deferred := some set })) ∧
  (∀ (r : Nat) (s : State), 144 ≤ r →
    exec (.regionClockStop r) s = .fault .noSuchRegion ∧ exec (.regionClockStart r) s = .fault .noSuchRegion)) ∧
  ((∀ (r p d : Nat) (s : State), r < 144 → crossExists r p = true → s.tsu.die.state = .truing → s.tsu.mark.crossDone = false →
    copiesLoaded s = true →
    Completes (.crossCal r p d) s fun t =>
      ∃ l, tget {} (t.region r).cross p = { tget {} (s.region r).cross p with lcross := 4 * l, calibrated := true } ∧
        (10 * d + 1392 * 65536 ≤ 10 * 65536 * l ∧ 10 * 65536 * l < 10 * d + 1392 * 65536 + 10 * 65536) ∧
        (t.tsu.mark.crossDone = true ↔ ∀ e ∈ crossPorts, (tget {} (t.region e.1).cross e.2).calibrated = true) ∧
        (t.tsu.mark.crossDone = true →
          (∀ e ∈ crossPorts, (tget {} (t.region e.1).cross e.2).lcross ≤ t.tsu.mark.crossMax) ∧
          t.tsu.mark.crossFault = decide (4 * s.tsu.mark.crossBudget < t.tsu.mark.crossMax)) ∧
        t = { s with tsu := { s.tsu with regions := t.tsu.regions, mark := t.tsu.mark } }) ∧
  (∀ (v : Nat) (s : State), s.tsu.b.hs.guardLock = false →
    Completes (.crossBudgetWrite v) s fun t =>
      t.tsu.mark.crossBudget = clampN 128 320 v ∧
      (t.base .tsu).ctr .clamp 0 = (s.base .tsu).ctr .clamp 0 + (if 128 ≤ v ∧ v ≤ 320 then 0 else 1) ∧
      t = { s with tsu := { s.tsu with mark := t.tsu.mark, b := t.tsu.b } }) ∧
  (∀ (v : Nat) (s : State), s.tsu.b.hs.guardLock = true → exec (.crossBudgetWrite v) s = .next s) ∧
  (∀ (r p : Nat) (tag : BitVec 22) (w : W64) (es : List W32) (s u : State), r < 144 → crossExists r p = true →
    u = regionEdges r es s →
    Completes (.crossingWordArrive r p tag w es) s fun t =>
      let x := tget {} (u.region r).cross p
      let y := tget {} (t.region r).cross p
      (x.waiting.length < 16 → (u.region r).usable = true →
        y = { x with waiting := x.waiting ++ [{ tag, word := w }] } ∧ t = u.modRegion r fun _ => t.region r) ∧
      (x.waiting.length < 16 → (u.region r).usable = false →
        y = { x with waiting := x.waiting ++ [{ tag, word := w, slipped := true }] } ∧ t.tsu.plate.slipped = true) ∧
      (16 ≤ x.waiting.length → y = x ∧ t.tsu.plate.slipped = true ∧
        (t.base .tsu).ctr .crossDrop r = (u.base .tsu).ctr .crossDrop r + 1) ∧ TsuOnly s t) ∧
  (∀ (r p : Nat) (per : W32) (w : CrossWord) (l : List CrossWord) (s : State), r < 144 → crossExists r p = true →
    (s.region r).clockOn = true → (s.region r).usable = true → (tget {} (s.region r).cross p).waiting = w :: l →
    Completes (.crossingRelease r p [per]) s fun t =>
      let x := tget {} (s.region r).cross p
      let y := tget {} (t.region r).cross p
      let due := decide (0 ≤ tagDiff (t.region r).copy w.tag x.lcross)
      (due = false → y.waiting.length = l.length + 1 ∧ y.released = x.released) ∧
      (due = true → w.edges = 0 → y.waiting.length = l.length + 1 ∧ y.released = x.released) ∧
      (due = true → 1 ≤ w.edges → l = [] → y.waiting = [] ∧ y.released = some w.word) ∧
      (due = true → 1 ≤ w.edges → l = [] → w.dueAt = none → w.slipped = false →
        (t.base .tsu).ctr .crossLate (4 * r + p) = (s.base .tsu).ctr .crossLate (4 * r + p)) ∧
      (∀ c, due = true → 1 ≤ w.edges → l = [] → w.dueAt = some c →
        (t.base .tsu).ctr .crossLate (4 * r + p) = (s.base .tsu).ctr .crossLate (4 * r + p) + 1 ∧
        (w.slipped = false → t.tsu.plate.slipped = true)) ∧ TsuOnly s t))

/-- A run of steps yields an entry only in a step that its repeat fields name, (s - PHASE) mod DIV = 0, valid, at or after the cursor,
and with that step's start (R194, R195, R203). ENTRY_ARM (R195, R203, R205, R214, R218): the next entry in fire order, once
ARM_AHEAD before its T has come, its queues have room and 4 ns have passed since the last, is armed with T = start + OFFSET and the
cursor passes it; less than 256 ns ahead it is counted in ARM_SHORT. In NO_TIME, or while the plate is stopped, an entry whose T has
come is counted and passed. An ARM frame joins its region's queue of 16, late after its T and short within 256 ns of it. -/
def Obligations.EntriesAreArmedWhenDue : Prop :=
  (∀ (p : Plate) (q : Piece) (d : Due), pieceNext p q = some d →
    entValid d.e = true ∧ (d.step - BitVec.ofNat 48 (entPhase d.e)).toNat % max 1 (entDiv d.e) = 0 ∧
    d.off = entOffset d.e ∧
    (d.entry, d.e) ∈ (if q.bank = 0 then p.active else if q.bank = 1 then p.other else []) ∧
    (∃ n : Nat, d.step = q.first + BitVec.ofNat 48 n ∧ d.start = q.start + BitVec.ofNat 64 (n * q.len) ∧
      (∀ c, q.count = some c → n < c) ∧ (stepDiff p.curStep q.first).toNat ≤ n)) ∧
  ((∀ (d : Due) (s : State), plateNext s.tsu.plate s.tsu.turn = some (d, 0) → s.tsu.sync.closed = false →
    armBarred s (d.start + tu d.off) = false → s.tsu.b.t.noTime = false → plateStopped s d.step = false →
    stLater (d.start + tu d.off) (s.now .tsu + tu (armAhead s)) = false →
    entAction d.e = 1 → maskOf s.tsu.plate.groups (entTarget d.e % 256) ≠ 0 →
    (∀ c, s.tsu.plate.lastArm = some c → 4 ≤ (s.tsu.b.perf.cycles - c).toNat) →
    armRoom s false (maskOf s.tsu.plate.groups (entTarget d.e % 256)) = true →
    Completes .entryArm s fun t =>
      (∃ a : Armed, t.tsu.plate.armed = s.tsu.plate.armed ++ [a] ∧ a.entry = d.entry ∧ a.e = d.e ∧ a.step = d.step ∧
        a.t = d.start + tu d.off ∧ a.left = maskOf s.tsu.plate.groups (entTarget d.e % 256) ∧
        (a.cond = .none_ ↔ entPolicy d.e = 0) ∧
        (t.base .tsu).ctr .armShort 0 = (s.base .tsu).ctr .armShort 0 +
          (if 0 < stDiff a.t (s.now .tsu) ∧ stDiff a.t (s.now .tsu) < 16384 then 1 else 0)) ∧
      t.tsu.plate.curStep = d.step ∧ t.tsu.plate.curPos = some (d.off, d.entry) ∧
      t.tsu.plate.lastArm = some s.tsu.b.perf.cycles ∧
      t = { s with tsu := { s.tsu with plate := t.tsu.plate, b := t.tsu.b } }) ∧
  (∀ (d : Due) (s : State), plateNext s.tsu.plate s.tsu.turn = some (d, 0) → s.tsu.sync.closed = false →
    armBarred s (d.start + tu d.off) = false → s.tsu.b.t.noTime = true ∨ plateStopped s d.step = true →
    stGe (s.now .tsu) (d.start + tu d.off) = true →
    Completes .entryArm s fun t =>
      t.tsu.plate = platePass d s.tsu.plate ∧
      (s.tsu.b.t.noTime = true → (t.base .tsu).ctr .plateNoTime 0 = (s.base .tsu).ctr .plateNoTime 0 + 1) ∧
      (s.tsu.b.t.noTime = false → (t.base .tsu).ctr .plateStopped 0 = (s.base .tsu).ctr .plateStopped 0 + 1) ∧ TsuOnly s t) ∧
  (∀ (s : State), plateNext s.tsu.plate s.tsu.turn = none → exec .entryArm s = .next s) ∧
  (∀ (r entry : Nat) (cond : Bool) (x : St) (arg : W32) (s : State), r < 144 → (s.region r).armed.length < 16 →
    Completes (.regionArmReceive r entry cond x arg) s fun t =>
      (∃ a : RegArm, (t.region r).armed = (s.region r).armed ++ [a] ∧ a.entry = entry ∧ a.t = x ∧ a.arg = arg ∧
        a.cond = cond ∧ a.released = false ∧ (a.late = true ↔ 0 < copyDiff (s.region r).copy x) ∧
        (a.short = true ↔ copyDiff (s.region r).copy x ≤ 0 ∧ -(16384 * 65536) < copyDiff (s.region r).copy x)) ∧
      t = s.modRegion r fun q => { q with armed := (t.region r).armed }) ∧
  (∀ (r entry : Nat) (cond : Bool) (x : St) (arg : W32) (s : State), r < 144 → 16 ≤ (s.region r).armed.length →
    exec (.regionArmReceive r entry cond x arg) s = .next s))

/-- The planned stretch of the cycle before a launch (R206): from a gap of 1 to 1.5 periods it brings the launch edge to T or less than
P/16 after it; from 2.5 to 3 periods it leaves between 1 and 1.5 periods; from 2 to 2.5 periods none is needed. Launches in a region
(R206 to R208, R443). At the first edge at or past its T a region that is LOADED and synchronised fires an entry that is
unconditional or released: its descriptor goes to the cores and a FIRED frame returns; before its T nothing fires. A release lets a
waiting entry fire, a cancel drops it. -/
def Obligations.EntriesLaunchAtTheirEdge : Prop :=
  (∀ (g p : Int), 0 < p →
    (p ≤ g → 2 * g ≤ 3 * p → planStretch g p ≤ 8 ∧ 16 * g ≤ 16 * p + planStretch g p * p ∧
      16 * p + planStretch g p * p < 16 * g + p) ∧
    (5 * p ≤ 2 * g → g ≤ 3 * p → planStretch g p ≤ 8 ∧ 16 * p ≤ 16 * g - 16 * p - planStretch g p * p ∧
      2 * (16 * g - 16 * p - planStretch g p * p) ≤ 3 * (16 * p)) ∧
    (2 * p ≤ g → 2 * g < 5 * p → planStretch g p = 0 ∧ p ≤ g - p ∧ 2 * (g - p) < 3 * p)) ∧
  ((∀ (r : Nat) (p : W32) (a : RegArm) (s : State), r < 144 → (s.region r).clockOn = true → (s.region r).usable = true →
    (s.region r).armed = [a] →
    Completes (.kernelLaunch r [p]) s fun t =>
      let c := (s.region r).copy + BitVec.ofInt 80 ((p.toNat : Int) + spreadAdj (s.region r))
      (t.region r).copy = c ∧
      (0 ≤ copyDiff c a.t → a.cond = false ∨ a.released = true →
        (t.region r).armed = [] ∧ (t.region r).go = [(a.entry, a.arg)] ∧ (t.region r).lastLaunch = some c ∧
        ∃ f : W64, (t.region r).fired = [f] ∧
          (a.entry < 8192 → bits f.toNat 63 60 = 1 ∧ bits f.toNat 59 47 = a.entry ∧ tbit f.toNat 46 = a.late ∧
            bits f.toNat 31 0 = min 0xFFFFFFFF (copyDiff c a.t / 65536).toNat)) ∧
      (copyDiff c a.t < 0 ∨ (a.cond = true ∧ a.released = false) →
        (t.region r).armed = [a] ∧ (t.region r).go = (s.region r).go ∧ (t.region r).lastLaunch = (s.region r).lastLaunch) ∧
      (∀ k, k ≠ r → t.region k = s.region k) ∧ TsuOnly s t) ∧
  (∀ (r entry : Nat) (x : RegArm) (s : State), r < 144 → regionWaits (s.region r) entry = some x →
    exec (.regionReleaseReceive r entry) s =
      .next (s.modRegion r fun q => { q with armed := q.armed.replace x { x with released := true } }) ∧
    exec (.regionCancelReceive r entry) s = .next (s.modRegion r fun q => { q with armed := q.armed.erase x })) ∧
  (∀ (r entry : Nat) (s : State), r < 144 → regionWaits (s.region r) entry = none →
    exec (.regionReleaseReceive r entry) s = .next s ∧ exec (.regionCancelReceive r entry) s = .next s))

/-- FIRED frames and step faults (R178, R212 to R214, R443). A FIRED frame takes its region off the entry's list; the last one ends the
entry, with a LATE record if any region was late. An entry due in a region that is not synchronised or not LOADED is a step fault:
STEP_FAULT takes its first occurrence with a REGION_UNSYNC record, and the region drops the entry. STEP_FAULT_CLEAR clears
STEP_FAULT alone. Conditions (R209, R210). At the decision edge a condition that holds releases its entry; one that does not is
dropped with a SKIPPED record under SKIP, waits under HOLD, and is dropped with a step fault under FAULT. A held entry is released
at its hold end, T + HOLD_LIMIT or the next step's start, with a HOLD_EXPIRED record to come. -/
def Obligations.FiredEntriesAndConditionsAreRecorded : Prop :=
  ((∀ (r : Nat) (f : W64) (a : Armed) (s : State), r < 144 → bits f.toNat 63 60 = 1 → s.tsu.plate.armed = [a] →
    a.entry = bits f.toNat 59 47 → a.left.getLsbD r = true → a.faulted = 0 → a.mask ≠ 0 →
    Completes (.firedFrameReceive r f) s fun t =>
      (a.left = BitVec.ofNat 144 (2 ^ r) → t.tsu.plate.armed = [] ∧
        (a.kind = 0 → a.lateCount = 0 → a.late = false → tbit f.toNat 46 = false → t.tsu.plate.events = s.tsu.plate.events) ∧
        (a.kind = 0 → a.lateCount = 0 → tbit f.toNat 46 = true → s.tsu.plate.events.length < 256 →
          ∃ e, t.tsu.plate.events = s.tsu.plate.events ++ [e] ∧ e.kind = 1 ∧ e.entry = a.entry ∧ e.count = 1 ∧
            e.lateness = max a.maxLate (bits f.toNat 31 0) ∧ e.step = a.step.extractLsb' 0 32)) ∧
      (a.left ≠ BitVec.ofNat 144 (2 ^ r) → ∃ b, t.tsu.plate.armed = [b] ∧ b.left.getLsbD r = false ∧
        (∀ k, k < 144 → k ≠ r → b.left.getLsbD k = a.left.getLsbD k) ∧
        b.lateCount = a.lateCount + (if tbit f.toNat 46 then 1 else 0) ∧ b.t = a.t ∧ b.entry = a.entry) ∧
      t.tsu.plate.fault = s.tsu.plate.fault ∧ TsuOnly s t) ∧
  (∀ (r : Nat) (es : List W32) (a : Armed) (s u : State), r < 144 → u = regionEdges r es s → (u.region r).usable = false →
    u.tsu.plate.armed = [a] → a.left = BitVec.ofNat 144 (2 ^ r) → a.mask = a.left → a.faulted = 0 →
    stGe (u.now .tsu) a.t = true →
    u.tsu.plate.fault = false → u.tsu.plate.events.length < 256 →
    Completes (.kernelLaunch r es) s fun t =>
      t.tsu.plate.armed = [] ∧ t.tsu.plate.fault = true ∧ t.tsu.plate.faultRegion = r ∧ t.tsu.plate.faultEntry = a.entry ∧
      t.tsu.plate.faultStep = a.step.extractLsb' 0 32 ∧
      (∃ e, t.tsu.plate.events = u.tsu.plate.events ++ [e] ∧ e.kind = 6 ∧ e.entry = a.entry ∧ e.region = r ∧ e.count = 1) ∧
      (∀ x ∈ (t.region r).armed, ¬ (x.entry = a.entry ∧ x.t = a.t)) ∧ TsuOnly s t) ∧
  (∀ (s : State), Completes .stepFaultClear s fun t =>
    t.tsu.plate.fault = false ∧ t = { s with tsu.plate := { s.tsu.plate with fault := t.tsu.plate.fault } })) ∧
  ((∀ (entry : Nat) (a : Armed) (s : State),
    (s.tsu.plate.armed.find? fun x => x.entry == entry && x.cond == .waiting && decisionDue s x) = some a →
    Completes (.conditionDecide entry) s fun t =>
      (entryHolds s a.e = true → t.tsu.plate.armed = s.tsu.plate.armed.replace a { a with cond := .released }) ∧
      (entryHolds s a.e = false → entPolicy a.e = 1 → t.tsu.plate.armed = s.tsu.plate.armed.erase a ∧
        t.tsu.plate.fault = s.tsu.plate.fault ∧ (s.tsu.plate.events.length < 256 →
          ∃ e, t.tsu.plate.events = s.tsu.plate.events ++ [e] ∧ e.kind = 4 ∧ e.entry = a.entry ∧ e.lateness = 0)) ∧
      (entryHolds s a.e = false → entPolicy a.e = 2 →
        t.tsu.plate.armed = s.tsu.plate.armed.replace a { a with cond := .holding }) ∧
      (entryHolds s a.e = false → entPolicy a.e = 3 → t.tsu.plate.armed = s.tsu.plate.armed.erase a ∧
        t.tsu.plate.fault = true ∧ (s.tsu.plate.fault = false → t.tsu.plate.faultEntry = a.entry) ∧
        (s.tsu.plate.events.length < 256 →
          ∃ e, t.tsu.plate.events = s.tsu.plate.events ++ [e] ∧ e.kind = 5 ∧ e.entry = a.entry ∧ e.lateness = 0)) ∧
      t.tsu.sync = s.tsu.sync ∧ t.tsu.regions = s.tsu.regions ∧ TsuOnly s t) ∧
  (∀ (entry : Nat) (a : Armed) (s : State),
    (s.tsu.plate.armed.find? fun x => x.entry == entry && x.cond == .holding && stGe (s.now .tsu) (holdEnd x)) = some a →
    Completes (.holdExpire entry) s fun t =>
      t.tsu.plate.armed = s.tsu.plate.armed.replace a { a with cond := .released, kind := 3 } ∧
      t = { s with tsu.plate := { s.tsu.plate with armed := t.tsu.plate.armed } }) ∧
  (∀ a : Armed, stLater (holdEnd a) a.nextStart = false ∧
    (stLater (a.t + BitVec.ofNat 64 (entHoldLimit a.e * 64)) a.nextStart = false →
      holdEnd a = a.t + BitVec.ofNat 64 (entHoldLimit a.e * 64))))

/-- The plate's actions on die master time (R196 to R201): at the first edge at or past T, in fire order, the entry leaves the queue and
acts. CTR_ADD and CTR_SUB follow the counter rules and name the entry in a fault record; TIM_TRIG stamps T itself or starts an
interval; TS_OUT raises the pin for its width, which only extends; STROBE drives its lane; STEP_CLOSE sends its serving group's
CLOSE on both planes. An action that is not due changes nothing. -/
def Obligations.PlateActionsActAtTheirInstant : Prop :=
  (∀ (entry : Nat) (a : Armed) (s : State), actionReady s entry 2 = some a →
    (ctrOf s (entTarget a.e)).alloc = true →
    Completes (.ctrAdd entry) s fun t =>
      let x := ctrOf s (entTarget a.e)
      (x.value.toNat + (entArg a.e).toNat ≤ x.limit.toNat →
        ctrOf t (entTarget a.e) = { x with value := x.value + entArg a.e }) ∧
      (x.limit.toNat < x.value.toNat + (entArg a.e).toNat → ctrOf t (entTarget a.e) = x ∧
        (s.tsu.sync.faults.length < 256 → ∃ f, t.tsu.sync.faults = s.tsu.sync.faults ++ [f] ∧ f.overflow = true ∧
          f.srcKind = 1 ∧ f.srcId = entry ∧ f.counter = entTarget a.e ∧ f.value = x.value ∧ f.n = entArg a.e)) ∧
      (∀ k, k ≠ entTarget a.e → ctrOf t k = ctrOf s k) ∧
      t.tsu.plate.armed.length + 1 = s.tsu.plate.armed.length ∧ TsuOnly s t) ∧
  (∀ (entry : Nat) (a : Armed) (s : State), actionReady s entry 3 = some a →
    (ctrOf s (entTarget a.e)).alloc = true →
    Completes (.ctrSub entry) s fun t =>
      let x := ctrOf s (entTarget a.e)
      ((entArg a.e).toNat ≤ x.value.toNat → ctrOf t (entTarget a.e) = { x with value := x.value - entArg a.e }) ∧
      (x.value.toNat < (entArg a.e).toNat → ctrOf t (entTarget a.e) = x ∧
        (s.tsu.sync.faults.length < 256 → ∃ f, t.tsu.sync.faults = s.tsu.sync.faults ++ [f] ∧ f.overflow = false ∧
          f.srcKind = 1 ∧ f.srcId = entry ∧ f.counter = entTarget a.e ∧ f.value = x.value ∧ f.n = entArg a.e)) ∧
      (∀ k, k ≠ entTarget a.e → ctrOf t k = ctrOf s k) ∧
      t.tsu.plate.armed.length + 1 = s.tsu.plate.armed.length ∧ TsuOnly s t) ∧
  (∀ (entry : Nat) (a : Armed) (s : State), actionReady s entry 5 = some a →
    Completes (.timTrig entry) s fun t =>
      let ch := entTarget a.e % 8
      ((entArg a.e).toNat % 4 = 0 → (s.chan .tsu ch).queue.length < 256 → ∃ e, (t.chan .tsu ch).queue =
        (s.chan .tsu ch).queue ++ [e] ∧ e.st = a.t ∧ e.trig = true) ∧
      (∀ u, u < 2 → (entArg a.e).toNat % 4 = 1 → (s.unit .tsu u).enable = true → (s.unit .tsu u).start = ch →
        (s.unit .tsu u).open_ = none → ∃ x, (t.unit .tsu u).open_ = some x ∧ x.1 = a.t) ∧
      ((entArg a.e).toNat % 4 = 3 → t.tsu.b.chans = s.tsu.b.chans ∧ t.tsu.b.units = s.tsu.b.units) ∧
      t.tsu.plate.armed = s.tsu.plate.armed.erase a ∧ TsuOnly s t) ∧
  (∀ (entry : Nat) (a : Armed) (s : State), actionReady s entry 6 = some a →
    Completes (.tsOut entry) s fun t =>
      let fall := actionAt s a + BitVec.ofNat 64 (clampN 4 1000000 (entArg a.e).toNat * 64)
      t.tsu.die.tsOut = true ∧ (s.tsu.die.tsOut = false → t.tsu.die.tsOutFall = fall) ∧
      (s.tsu.die.tsOut = true → t.tsu.die.tsOutFall = (if stLater s.tsu.die.tsOutFall fall then s.tsu.die.tsOutFall else fall)) ∧
      t.tsu.plate.armed = s.tsu.plate.armed.erase a ∧ TsuOnly s t) ∧
  (∀ (s : State), s.tsu.die.tsOut = true → Completes .tsOutPulseEnd s fun t =>
    (t.tsu.die.tsOut = true ↔ stGe (s.now .tsu) s.tsu.die.tsOutFall = false) ∧
    t = { s with tsu.die := { s.tsu.die with tsOut := t.tsu.die.tsOut } }) ∧
  (∀ (entry : Nat) (a : Armed) (s : State), actionReady s entry 7 = some a →
    Completes (.strobe entry) s fun t =>
      let lane := entTarget a.e % 8
      tget (0, 0) t.tsu.die.strobes lane = (s.tsu.b.perf.cycles + 1, entArg a.e) ∧
      (∀ l, l ≠ lane → tget (0, 0) t.tsu.die.strobes l = tget (0, 0) s.tsu.die.strobes l) ∧
      (t.base .tsu).ctr .strobeCollide 0 = (s.base .tsu).ctr .strobeCollide 0 +
        (if (tget (0, 0) s.tsu.die.strobes lane).1 = s.tsu.b.perf.cycles + 1 then 1 else 0) ∧
      t.tsu.plate.armed = s.tsu.plate.armed.erase a ∧ TsuOnly s t) ∧
  (∀ (entry : Nat) (a : Armed) (s : State), actionReady s entry 8 = some a →
    Completes (.stepClose entry) s fun t =>
      (∀ i ∈ planesOn s, ∃ c m, c ∈ tget [] (t.port .tsu i).tx.p2 s.tsu.die.sliceId ∧ c.body = .ledger m ∧ m.op = 9 ∧
        m.src = s.node .tsu ∧ m.sg = entTarget a.e % 256 ∧ m.step = a.step ∧ m.arg = entArg a.e) ∧
      t.tsu.sync.opId = s.tsu.sync.opId + 1 ∧ t.tsu.plate.armed = s.tsu.plate.armed.erase a ∧ TsuOnly s t) ∧
  (∀ (entry : Nat) (s : State),
    (actionReady s entry 2 = none → exec (.ctrAdd entry) s = .next s) ∧
    (actionReady s entry 3 = none → exec (.ctrSub entry) s = .next s) ∧
    (actionReady s entry 5 = none → exec (.timTrig entry) s = .next s) ∧
    (actionReady s entry 6 = none → exec (.tsOut entry) s = .next s) ∧
    (actionReady s entry 7 = none → exec (.strobe entry) s = .next s) ∧
    (actionReady s entry 8 = none → exec (.stepClose entry) s = .next s))

/-- A core's counter operations (R220, R221, R224, R446): ADD and SUB change VALUE alone and complete with it; beyond LIMIT, or below 0,
they change nothing, complete with OVERFLOW or UNDERFLOW and write a fault record; READ completes with VALUE; an unallocated counter
gives BAD_COMMAND; SET is DENIED and an unknown operation is a BAD_COMMAND. While the counter port is closed a core's request waits
at it and changes nothing else but its region's count of requests (R252, R446); a core number above 575 names nothing. -/
def Obligations.CountersAnswerTheirCores : Prop :=
  ((∀ (core c : Nat) (ctag : BitVec 16) (n : W32) (s : State), PortOpen s core → dieRefuses s = none → (ctrOf s c).alloc = true →
    Completes (.add core ctag c n) s fun t =>
      ((ctrOf s c).value.toNat + n.toNat ≤ (ctrOf s c).limit.toNat →
        ctrOf t c = { ctrOf s c with value := (ctrOf s c).value + n } ∧
        CoreCompleted t core ctag .ok ((ctrOf s c).value + n)) ∧
      ((ctrOf s c).limit.toNat < (ctrOf s c).value.toNat + n.toNat →
        ctrOf t c = ctrOf s c ∧ CoreCompleted t core ctag .overflow (ctrOf s c).value ∧
        (s.tsu.sync.faults.length < 256 → ∃ f, t.tsu.sync.faults = s.tsu.sync.faults ++ [f] ∧ f.overflow = true ∧
          f.srcKind = 0 ∧ f.srcCore = core ∧ f.counter = c ∧ f.value = (ctrOf s c).value ∧ f.n = n ∧ f.st = s.now .tsu)) ∧
      (∀ k, k ≠ c → ctrOf t k = ctrOf s k) ∧ TsuOnly s t) ∧
  (∀ (core c : Nat) (ctag : BitVec 16) (n : W32) (s : State), PortOpen s core → dieRefuses s = none → (ctrOf s c).alloc = true →
    Completes (.sub core ctag c n) s fun t =>
      (n.toNat ≤ (ctrOf s c).value.toNat →
        ctrOf t c = { ctrOf s c with value := (ctrOf s c).value - n } ∧
        CoreCompleted t core ctag .ok ((ctrOf s c).value - n)) ∧
      ((ctrOf s c).value.toNat < n.toNat →
        ctrOf t c = ctrOf s c ∧ CoreCompleted t core ctag .underflow (ctrOf s c).value ∧
        (s.tsu.sync.faults.length < 256 → ∃ f, t.tsu.sync.faults = s.tsu.sync.faults ++ [f] ∧ f.overflow = false ∧
          f.srcKind = 0 ∧ f.srcCore = core ∧ f.counter = c ∧ f.value = (ctrOf s c).value ∧ f.n = n ∧ f.st = s.now .tsu)) ∧
      (∀ k, k ≠ c → ctrOf t k = ctrOf s k) ∧ TsuOnly s t) ∧
  (∀ (core c : Nat) (ctag : BitVec 16) (s : State), PortOpen s core → dieRefuses s = none → (ctrOf s c).alloc = true →
    Completes (.read core ctag c) s fun t =>
      CoreCompleted t core ctag .ok (ctrOf s c).value ∧ (∀ k, ctrOf t k = ctrOf s k) ∧ TsuOnly s t) ∧
  (∀ (core c : Nat) (ctag : BitVec 16) (n : W32) (i : Instr) (s : State), PortOpen s core → dieRefuses s = none →
    (ctrOf s c).alloc = false → i = .add core ctag c n ∨ i = .sub core ctag c n ∨ i = .read core ctag c →
    Completes i s fun t =>
      CoreCompleted t core ctag .badCommand 0 ∧ t.tsu.sync.ctrs = s.tsu.sync.ctrs ∧ t.tsu.sync.faults = s.tsu.sync.faults ∧
      TsuOnly s t) ∧
  (∀ (core c opc : Nat) (ctag : BitVec 16) (v : W32) (i : Instr) (st : Status) (s : State), PortOpen s core →
    (i = .set core ctag c v ∧ st = .denied) ∨ (i = .unknownCounterOpc core ctag opc ∧ st = .badCommand) →
    Completes i s fun t =>
      CoreCompleted t core ctag st 0 ∧ t = { s with tsu := { s.tsu with
        regions := t.tsu.regions, sync := { s.tsu.sync with cpl := t.tsu.sync.cpl } } }) ∧
  (∀ (core c : Nat) (ctag : BitVec 16) (n : W32) (x : Status) (i : Instr) (s : State), PortOpen s core →
    dieRefuses s = some x → i = .add core ctag c n ∨ i = .sub core ctag c n ∨ i = .read core ctag c →
    Completes i s fun t => CoreCompleted t core ctag x 0 ∧ t.tsu.sync.ctrs = s.tsu.sync.ctrs ∧ TsuOnly s t)) ∧
  ((∀ (core : Nat) (tag : BitVec 16) (a b d : Nat) (n w : W32) (x y : Bool) (g : BitVec 16) (m : BitVec 4) (e : Step) (i : Instr)
    (q : PortReq) (s : State), core < 576 → s.tsu.sync.closed = true →
    (i, q) ∈ [(.add core tag a n, .add core tag a n), (.sub core tag a n, .sub core tag a n), (.read core tag a, .read core tag a),
      (.set core tag a n, .set core tag), (.unknownCounterOpc core tag a, .unknown core tag),
      (.signal core tag a b d n x, .signal core tag a b d n x),
      (.watchReg core tag a x y b g w, .watchReg core tag a x y b g w), (.watchCancel core tag a, .watchCancel core tag a),
      (.localDefine core tag a b m, .localDefine core tag a b m), (.localArrive core tag a, .localArrive core tag a),
      (.hallArrive core tag a, .hallArrive core tag a), (.collectStart core tag a n e, .collectStart core tag a n e)] →
    Completes i s fun t =>
      t.tsu.sync = { s.tsu.sync with waiting := s.tsu.sync.waiting ++ [q] } ∧
      (t.region (core / 4)).ctrOps = (s.region (core / 4)).ctrOps + 1 ∧
      t = { s with tsu := { s.tsu with regions := t.tsu.regions, sync := t.tsu.sync } }) ∧
  (∀ (core a : Nat) (tag : BitVec 16) (n : W32) (s : State), 576 ≤ core →
    exec (.add core tag a n) s = .fault .noSuchCore ∧ exec (.hallArrive core tag a) s = .fault .noSuchCore ∧
    exec (.coreCreditReturn core) s = .fault .noSuchCore))

/-- Watches (R226, R227). WATCH_REG takes the lowest free number and completes with it; a watch whose condition holds at its
registration, or comes to hold with an operation, fires once: its message goes to its target, and a one-shot watch is removed. An
unallocated counter or a target above 575 is a BAD_COMMAND, and none free is FULL. WATCH_CANCEL removes a watch without a message. -/
def Obligations.WatchesFireWhenTheirConditionComes : Prop :=
  (∀ (core c target w : Nat) (ctag tag : BitVec 16) (eq rearm : Bool) (th : W32) (s : State), PortOpen s core →
    dieRefuses s = none → (ctrOf s c).alloc = true → target ≤ 575 →
    w < 2048 → (∀ k, k < w → tget none s.tsu.sync.watches k ≠ none) → tget none s.tsu.sync.watches w = none →
    Completes (.watchReg core ctag c eq rearm target tag th) s fun t =>
      let holds := condCmp eq (ctrOf s c).value th
      CoreCompleted t core ctag .ok (BitVec.ofNat 32 w) ∧
      (holds = false → tget none t.tsu.sync.watches w =
        some { counter := c, eq, rearm, threshold := th, target, tag, held := false } ∧ t.tsu.sync.coreQ = s.tsu.sync.coreQ) ∧
      (holds = true → rearm = false → tget none t.tsu.sync.watches w = none) ∧
      (holds = true → rearm = true → tget none t.tsu.sync.watches w =
        some { counter := c, eq, rearm, threshold := th, target, tag, held := true }) ∧
      (holds = true → CoreTakes s target → ∃ m, tget [] t.tsu.sync.coreQ target = tget [] s.tsu.sync.coreQ target ++ [m] ∧
        m.kind = 1 ∧ m.status = .ok ∧ m.tag = tag ∧ m.id = w ∧ m.count = 1 ∧ m.value = (ctrOf s c).value) ∧
      (∀ k, k ≠ w → tget none t.tsu.sync.watches k = tget none s.tsu.sync.watches k) ∧
      t.tsu.sync.ctrs = s.tsu.sync.ctrs ∧ TsuOnly s t) ∧
  (∀ (core c target : Nat) (ctag tag : BitVec 16) (eq rearm : Bool) (th : W32) (s : State), PortOpen s core →
    dieRefuses s = none →
    Completes (.watchReg core ctag c eq rearm target tag th) s fun t =>
      ((ctrOf s c).alloc = false ∨ 575 < target → CoreCompleted t core ctag .badCommand 0 ∧
        t.tsu.sync.watches = s.tsu.sync.watches) ∧
      ((ctrOf s c).alloc = true → target ≤ 575 → (∀ k, k < 2048 → tget none s.tsu.sync.watches k ≠ none) →
        CoreCompleted t core ctag .full 0 ∧ t.tsu.sync.watches = s.tsu.sync.watches)) ∧
  (∀ (core c w : Nat) (ctag : BitVec 16) (n : W32) (x : Watch) (s : State), PortOpen s core → dieRefuses s = none →
    (ctrOf s c).alloc = true → (ctrOf s c).value.toNat + n.toNat ≤ (ctrOf s c).limit.toNat →
    s.tsu.sync.watches = [(w, some x)] → x.counter = c →
    Completes (.add core ctag c n) s fun t =>
      let holds := condCmp x.eq ((ctrOf s c).value + n) x.threshold
      (holds = true → x.held = false → (x.rearm = false → tget none t.tsu.sync.watches w = none) ∧
        (CoreTakes s x.target → ∃ m, tget [] t.tsu.sync.coreQ x.target = tget [] s.tsu.sync.coreQ x.target ++ [m] ∧
          m.kind = 1 ∧ m.tag = x.tag ∧ m.id = w ∧ m.count = 1 ∧ m.value = (ctrOf s c).value + n)) ∧
      (holds = false ∨ x.held = true → tget none t.tsu.sync.watches w = some { x with held := holds } ∧
        t.tsu.sync.coreQ = s.tsu.sync.coreQ)) ∧
  (∀ (core w : Nat) (ctag : BitVec 16) (s : State), PortOpen s core → dieRefuses s = none →
    Completes (.watchCancel core ctag w) s fun t =>
      (tget none s.tsu.sync.watches w ≠ none → tget none t.tsu.sync.watches w = none ∧
        (∀ k, k ≠ w → tget none t.tsu.sync.watches k = tget none s.tsu.sync.watches k) ∧ CoreCompleted t core ctag .ok 0) ∧
      (tget none s.tsu.sync.watches w = none → t.tsu.sync.watches = s.tsu.sync.watches ∧
        CoreCompleted t core ctag .badCommand 0) ∧
      t.tsu.sync.ctrs = s.tsu.sync.ctrs ∧ t.tsu.sync.coreQ = s.tsu.sync.coreQ ∧ TsuOnly s t)

/-- Local barriers (R238, R239). LOCAL_DEFINE gives a slot with no instance in progress its mask, the local cores of every region of a
group; LOCAL_ARRIVE of a core of the mask is PENDING, and the last one closes the instance and sends LOCAL_DONE to every core; a
core outside the mask is a BAD_COMMAND and one that has arrived is BUSY, with nothing recorded. HALL_ARRIVE and SIGNAL at the
issuing die (R231 to R233, R241). The arrival that makes DIE_ARRIVALS sends BARRIER_ARRIVE on both planes, an earlier one waits, a
later one is BUSY, and a die that is not a member is told so. A SIGNAL to another die of the slice is PENDING, takes the next OP_ID
and goes out on both planes; to a die outside the slice it is NOT_MEMBER and to this die it is the local operation; beyond 512
replies awaited, or 8 of the core, it is BUSY. -/
def Obligations.BarriersAndSignalsLeaveTheDie : Prop :=
  ((∀ (core slot g : Nat) (ctag : BitVec 16) (cores : BitVec 4) (s : State), PortOpen s core → dieRefuses s = none →
    slot < 64 → g < 256 →
    Completes (.localDefine core ctag slot g cores) s fun t =>
      ((localOf s slot).open_ = true → CoreCompleted t core ctag .busy 0 ∧ t.tsu.sync.locals = s.tsu.sync.locals) ∧
      ((localOf s slot).open_ = false → CoreCompleted t core ctag .ok 0 ∧
        localOf t slot = { localOf s slot with mask := (localOf t slot).mask } ∧
        (∀ r j, r < 144 → j < 4 → tbit (localOf t slot).mask (4 * r + j) =
          ((maskOf s.tsu.plate.groups g).getLsbD r && cores.getLsbD j)) ∧
        (∀ k, k ≠ slot → localOf t k = localOf s k)) ∧ TsuOnly s t) ∧
  (∀ (core slot : Nat) (ctag : BitVec 16) (s : State), PortOpen s core → dieRefuses s = none → slot < 64 →
    Completes (.localArrive core ctag slot) s fun t =>
      let b := localOf s slot
      (tbit b.mask core = false → CoreCompleted t core ctag .badCommand 0 ∧ t.tsu.sync.locals = s.tsu.sync.locals) ∧
      (tbit b.mask core = true → tbit b.arrived core = true →
        CoreCompleted t core ctag .busy 0 ∧ t.tsu.sync.locals = s.tsu.sync.locals) ∧
      (tbit b.mask core = true → tbit b.arrived core = false → b.arrived + 2 ^ core ≠ b.mask →
        CoreCompleted t core ctag .pending 0 ∧ (localOf t slot).open_ = true ∧
        (localOf t slot).arrived = b.arrived + 2 ^ core ∧ t.tsu.sync.coreQ = s.tsu.sync.coreQ) ∧
      (tbit b.mask core = true → tbit b.arrived core = false → b.arrived + 2 ^ core = b.mask →
        CoreCompleted t core ctag .pending 0 ∧ (localOf t slot).open_ = false ∧ (localOf t slot).arrived = 0 ∧
        (localOf t slot).mask = b.mask ∧
        ((∀ c ∈ maskBits 576 b.mask, CoreTakes s c) → ∀ c ∈ maskBits 576 b.mask,
          ∃ m, tget [] t.tsu.sync.coreQ c = tget [] s.tsu.sync.coreQ c ++ [m] ∧ m.kind = 2 ∧ m.status = .ok ∧ m.id = slot ∧
            m.count = popcount 576 b.mask)) ∧
      (∀ k, k ≠ slot → localOf t k = localOf s k) ∧ t.tsu.sync.ctrs = s.tsu.sync.ctrs ∧ TsuOnly s t)) ∧
  ((∀ (core g : Nat) (ctag : BitVec 16) (s : State), PortOpen s core → dieRefusesNew s = none → g < 4096 →
    Completes (.hallArrive core ctag g) s fun t =>
      let h := hallOf s g
      (h.valid = false ∨ h.member = false → CoreCompleted t core ctag .notMember 0 ∧ t.tsu.sync.hall = s.tsu.sync.hall) ∧
      (h.valid = true → h.member = true → h.arrivals ≤ h.count →
        CoreCompleted t core ctag .busy 0 ∧ t.tsu.sync.hall = s.tsu.sync.hall) ∧
      (h.valid = true → h.member = true → h.count < h.arrivals →
        CoreCompleted t core ctag .pending 0 ∧ (hallOf t g).count = h.count + 1 ∧ (hallOf t g).gen = h.gen ∧
        (hallOf t g).waiters = h.waiters ++ [(core, s.now .tsu)] ∧ (∀ k, k ≠ g → hallOf t k = hallOf s k) ∧
        (h.count + 1 = h.arrivals → ∀ i ∈ planesOn s, ∃ c b, CellWaits t .tsu i c ∧ c.body = .barrierArrive b ∧ b.group = g ∧
          b.gen = h.gen ∧ b.src = s.node .tsu) ∧
        (h.count + 1 < h.arrivals → t.tsu.b.ports = s.tsu.b.ports)) ∧ TsuOnly s t) ∧
  (∀ (core target c op : Nat) (ctag : BitVec 16) (n : W32) (reply : Bool) (s : State), PortOpen s core →
    dieRefusesNew s = none → 1 ≤ op → op ≤ 3 → target ≠ ownIndex s →
    Completes (.signal core ctag target c op n reply) s fun t =>
      let y := s.tsu.sync
      let room := y.sigOut.length < 512 ∧ (y.sigOut.filter (·.core == core)).length < 8
      (inSliceTable s target = false → CoreCompleted t core ctag .notMember 0 ∧ t.tsu.b.ports = s.tsu.b.ports) ∧
      (inSliceTable s target = true → reply = true → ¬ room → CoreCompleted t core ctag .busy 0 ∧
        t.tsu.b.ports = s.tsu.b.ports ∧ t.tsu.sync.sigOut = y.sigOut) ∧
      (inSliceTable s target = true → (reply = true → room) → CoreCompleted t core ctag .pending 0 ∧
        t.tsu.sync.opId = y.opId + 1 ∧
        (∀ i ∈ planesOn s, ∃ o x, CellWaits t .tsu i o ∧ o.body = .signal x ∧ x.op = op ∧ x.src = s.node .tsu ∧
          x.dst = dieNode target ∧ x.counter = c ∧ x.opId = y.opId ∧ x.srcCore = core ∧ x.n = (if op = 3 then 0 else n) ∧
          x.replyReq = reply) ∧
        (reply = true → ∃ e, t.tsu.sync.sigOut = y.sigOut ++ [e] ∧ e.opId = y.opId ∧ e.core = core ∧ e.got = none) ∧
        (reply = false → t.tsu.sync.sigOut = y.sigOut)) ∧
      t.tsu.sync.ctrs = s.tsu.sync.ctrs ∧ TsuOnly s t) ∧
  (∀ (core c : Nat) (ctag : BitVec 16) (n : W32) (reply : Bool) (s : State), PortOpen s core → dieRefusesNew s = none →
    exec (.signal core ctag (ownIndex s) c 1 n reply) s = exec (.add core ctag c n) s ∧
    exec (.signal core ctag (ownIndex s) c 2 n reply) s = exec (.sub core ctag c n) s ∧
    exec (.signal core ctag (ownIndex s) c 3 n reply) s = exec (.read core ctag c) s))

/-- The message port (R230, R444, R447, R448): a returned credit takes the core's oldest message and lets the oldest message held for
that core through; a core in reset holds no message, no completion and none waiting in the out-queue, and one released has its 16
credits again. A context switch (R211, R251, R252). At its boundary the counter port closes, armed entries, watches and local
barriers end, the plate stands still and the save image is written with the counters, groups and plate as they are; when it reopens,
the restore image is loaded, the plate resumes from the boundary and what waited at the port runs. -/
def Obligations.CoresTakeMessagesAndContextsSwitch : Prop :=
  ((∀ (core : Nat) (s : State), core < 576 → coreInReset s core = false →
    Completes (.coreCreditReturn core) s fun t =>
      ((∀ m ∈ s.tsu.sync.outQ, m.core ≠ core) → s.tsu.sync.pend = [] →
        tget [] t.tsu.sync.coreQ core = (tget [] s.tsu.sync.coreQ core).drop 1 ∧ t.tsu.sync.outQ = s.tsu.sync.outQ) ∧
      (∀ m, (s.tsu.sync.outQ.find? (·.core == core)) = some m → (tget [] s.tsu.sync.coreQ core).length = 16 →
        tget [] t.tsu.sync.coreQ core = (tget [] s.tsu.sync.coreQ core).drop 1 ++ [m]) ∧
      (∀ k, k ≠ core → tget [] t.tsu.sync.coreQ k = tget [] s.tsu.sync.coreQ k) ∧ t.tsu.sync.ctrs = s.tsu.sync.ctrs ∧
      TsuOnly s t) ∧
  (∀ (core : Nat) (s : State), core < 576 → coreInReset s core = false →
    Completes (.coreReset core) s fun t =>
      coreInReset t core = true ∧ tget [] t.tsu.sync.coreQ core = [] ∧ tget none t.tsu.sync.cpl core = none ∧
      (∀ m ∈ t.tsu.sync.outQ, m.core ≠ core) ∧ (∀ k, k ≠ core → coreInReset t k = coreInReset s k) ∧
      (∀ k, k ≠ core → tget [] t.tsu.sync.coreQ k = tget [] s.tsu.sync.coreQ k) ∧ t.tsu.sync.ctrs = s.tsu.sync.ctrs ∧
      TsuOnly s t) ∧
  (∀ (core : Nat) (s : State), core < 576 → coreInReset s core = true →
    exec (.coreReset core) s = .next s ∧
    Completes (.coreResetRelease core) s fun t =>
      coreInReset t core = false ∧ tget [] t.tsu.sync.coreQ core = [] ∧ (∀ k, k ≠ core → coreInReset t k = coreInReset s k) ∧
      t = { s with tsu.sync := { s.tsu.sync with coreReset := t.tsu.sync.coreReset, coreQ := t.tsu.sync.coreQ } }) ∧
  (∀ (core : Nat) (s : State), core < 576 → coreInReset s core = false → exec (.coreResetRelease core) s = .next s)) ∧
  ((∀ (x : CtxSwitch) (s : State), s.tsu.die.ctx = some x → x.active = false →
    stepReached s.tsu.turn (s.now .tsu) x.boundary = true →
    Completes .contextSwitch s fun t =>
      t.tsu.sync.closed = true ∧ t.tsu.plate.armed = [] ∧ t.tsu.plate.stopped = true ∧
      (∀ w, tget none t.tsu.sync.watches w = none) ∧ (∀ k, (localOf t k).open_ = false) ∧
      t.tsu.die.ctx = some { x with active := true } ∧ t.tsu.sync.ctrs = s.tsu.sync.ctrs ∧
      (∀ a, x.save = some a → ∃ img, t.tsu.die.saved = some (a, img) ∧ img.slice = s.tsu.die.sliceId ∧
        img.counters = s.tsu.sync.ctrs.map (fun e => (e.1, e.2.value, e.2.limit)) ∧ img.groups = s.tsu.plate.groups ∧
        img.plate = s.tsu.plate.active ∧ img.st0 = s.tsu.turn.st0 ∧ img.len = s.tsu.turn.len) ∧ TsuOnly s t) ∧
  (∀ (x : CtxSwitch) (s : State), s.tsu.die.ctx = some x → x.active = true → s.tsu.sync.waiting = [] →
    Completes .contextPortReopen s fun t =>
      t.tsu.sync.closed = false ∧ t.tsu.die.ctx = none ∧ t.tsu.plate.curStep = x.boundary ∧ t.tsu.plate.curPos = none ∧
      (x.restore = none → t.tsu.sync.ctrs = s.tsu.sync.ctrs ∧ t.tsu.plate.groups = s.tsu.plate.groups) ∧
      (∀ img, x.restore = some img →
        (∀ c v l, img.counters = [(c, v, l)] → ctrOf t c = { alloc := true, value := v, limit := l } ∧
          ∀ k, k ≠ c → (ctrOf t k).alloc = false) ∧
        (img.counters = [] → ∀ k, ctrOf t k = {}) ∧
        (img.plate = [] → t.tsu.plate.active = [])) ∧ TsuOnly s t) ∧
  (∀ (s : State), s.tsu.die.ctx = none → exec .contextSwitch s = .next s ∧ exec .contextPortReopen s = .next s))

/-- What every traffic cell meets first (R43, R108 to R110, R324). A bad CRC counts in CELL_CRC and the cell goes no further; a gap in
SEQ counts the cells lost; a wrong type is a corrupt cell with a suspect event against the neighbour; a good one-cell message of the
die's slice with the current pair goes on, and one older than the previous pair is stale; one newer is a suspect event against the
sender; and a cell from before the slice's last step reset is discarded. SIGNAL at its target (R235, R236, R252). The first good
copy in time is performed once under the counter rules, recorded against the source core in a fault record, and answered with a
REPLY on both planes where it asked for one; every later copy is compared and discarded, with a split event where it differs; one
past its DEADLINE is counted in SIGNAL_EXPIRED and one that meets a closed port in CTX_DISCARD; and a single copy is counted in
SIGNAL_SINGLE when the deckle passes. SIGNAL replies at the source (R236): the first is kept; the second delivers SIGNAL_REPLY with
the first's status and value, and a split event where it differs; the deckle passing without a second delivers it UNVERIFIED; and no
reply by DEADLINE delivers it LATE. The entry is freed each time. -/
def Obligations.CellsAreCheckedAndSignalsApplied : Prop :=
  ((∀ (a : Arr) (type op : Nat) (bad : Bool) (p : Part) (s : State), a.crcOk = false →
    cellIn s p a type op bad = (s.count p .cellCrc a.port { port := some a.port } 1, false)) ∧
  (∀ (a : Arr) (type op : Nat) (ok : State → Bool) (s : State), a.crcOk = true → a.ctype.toNat = type → a.hver = 1 →
    a.slot0 = false → a.first = true → a.last = true → a.seq = (s.port .tsu a.port).rxSeq →
    (s.port .tsu a.port).openMsg = [] → s.tsu.die.sliceValid = true → s.tsu.die.sliceId = a.slice →
    (∀ c, s.tsu.turn.resetCe = some c → 0 ≤ epochDiff a.ce c) →
    let r := dieIn s a type op false ok
    r.1 = (match r.2 with
      | .ok => s.modPort .tsu a.port fun q => { q with rxSeq := a.seq + 1 }
      | _ => r.1) ∧
    (a.ce = s.tsu.b.ep.ce → a.me = s.tsu.b.ep.me → r.2 = .ok) ∧
    (epochDiff a.ce s.tsu.b.ep.ce ≤ 0 → epochDiff a.me s.tsu.b.ep.me ≤ 0 →
      epochDiff a.ce s.tsu.b.ep.ce < -1 ∨ epochDiff a.me s.tsu.b.ep.me < -1 →
      r.2 = .stale ∧ (r.1.base .tsu).ctr .epochStale 0 = (s.base .tsu).ctr .epochStale 0 + 1) ∧
    (0 < epochDiff a.ce s.tsu.b.ep.ce ∨ 0 < epochDiff a.me s.tsu.b.ep.me → r.2 = .drop ∧
      ∀ i ∈ reportPorts s .tsu (neighbour s .tsu a.port), ReportWaits r.1 .tsu i (neighbour s .tsu a.port) false causeNewer)) ∧
  (∀ (a : Arr) (type op : Nat) (bad : Bool) (p : Part) (s : State), a.port < 128 → a.crcOk = true →
    a.seq = (s.port p a.port).rxSeq →
    (s.port p a.port).openMsg = [] → a.ctype.toNat ≠ type →
    (cellIn s p a type op bad).2 = false ∧
    ((cellIn s p a type op bad).1.base p).ctr .cellCorrupt a.port = (s.base p).ctr .cellCorrupt a.port + 1) ∧
  (∀ (a : Arr) (type op : Nat) (p : Part) (s : State), a.port < 128 → a.crcOk = true → a.seq ≠ (s.port p a.port).rxSeq →
    ((cellIn s p a type op false).1.base p).ctr .cellLost a.port =
      (s.base p).ctr .cellLost a.port + (a.seq - (s.port p a.port).rxSeq).toNat) ∧
  (∀ (a : Arr) (c : Epoch) (b : Bool) (p : Part) (s : State), resetCeOf s p a.slice = some c → epochDiff a.ce c < 0 →
    (epochIn s p a b).2 = .drop ∧ ((epochIn s p a b).1.base p).ctr .sliceCancelled (acctOf p a.slice) =
      (s.base p).ctr .sliceCancelled (acctOf p a.slice) + 1)) ∧
  ((∀ (a : Arr) (c : SignalCell) (s u : State), a.port < 2 →
    dieIn s a 3 c.opId.toNat (decide (0x13 < c.status)) (fun s => inTime s .tsu c.deadline) = (u, .ok) →
    c.dst = u.node .tsu →
    Completes (.signalCellReceive a c) s fun t =>
      let x := ctrOf u (c.counter % 4096)
      let e := u.tsu.sync.sigIn.find? fun e => e.src == c.src && e.opId == c.opId
      let live := inTime u .tsu c.deadline
      (live = true → e = none → u.tsu.sync.closed = false → dieRefuses u = none → u.tsu.die.state ≠ .parted → x.alloc = true →
        (c.op = 1 → x.value.toNat + c.n.toNat ≤ x.limit.toNat →
          ctrOf t (c.counter % 4096) = { x with value := x.value + c.n } ∧
          (c.replyReq = true → ∀ i ∈ planesOn u, ∃ o r, CellWaits t .tsu i o ∧ o.body = .signal r ∧ r.op = 4 ∧ r.dst = c.src ∧
            r.opId = c.opId ∧ r.status = 0 ∧ r.value = x.value + c.n)) ∧
        (c.op = 1 → x.limit.toNat < x.value.toNat + c.n.toNat → ctrOf t (c.counter % 4096) = x ∧
          (u.tsu.sync.faults.length < 256 → ∃ f, t.tsu.sync.faults = u.tsu.sync.faults ++ [f] ∧ f.overflow = true ∧
            f.srcKind = 2 ∧ f.srcCore = c.srcCore ∧ f.srcId = dieIndex c.src ∧ f.opId = c.opId.toNat)) ∧
        (c.op = 2 → c.n.toNat ≤ x.value.toNat → ctrOf t (c.counter % 4096) = { x with value := x.value - c.n }) ∧
        (c.op = 3 → ctrOf t (c.counter % 4096) = x) ∧
        ∃ q ∈ t.tsu.sync.sigIn, q.src = c.src ∧ q.opId = c.opId ∧ q.cell = c) ∧
      (∀ q, live = true → e = some q → t.tsu.sync.ctrs = u.tsu.sync.ctrs ∧ t.tsu.sync.faults = u.tsu.sync.faults ∧
        (q.cell ≠ c → ∀ i ∈ reportPorts u .tsu (neighbour u .tsu 0),
          ReportWaits t .tsu i (neighbour u .tsu 0) false causeDiffer)) ∧
      (live = true → e = none → u.tsu.sync.closed = true → t.tsu.sync.ctrs = u.tsu.sync.ctrs ∧
        (t.base .tsu).ctr .ctxDiscard 0 = (u.base .tsu).ctr .ctxDiscard 0 + 1) ∧
      (live = false → t.tsu.sync = u.tsu.sync ∧
        (t.base .tsu).ctr .signalExpired 0 = (u.base .tsu).ctr .signalExpired 0 + 1) ∧
      (∀ k, k ≠ c.counter % 4096 → ctrOf t k = ctrOf u k) ∧ TsuOnly s t) ∧
  (∀ (src : Node) (id : BitVec 16) (e : SigIn) (s : State),
    (s.tsu.sync.sigIn.find? fun e =>
      e.src == src && e.opId == id && !e.second && !e.counted && deckleOver s e.first) = some e →
    Completes (.signalDeckleExpire src id) s fun t =>
      (t.base .tsu).ctr .signalSingle 0 = (s.base .tsu).ctr .signalSingle 0 + 1 ∧
      t.tsu.sync = { s.tsu.sync with sigIn := s.tsu.sync.sigIn.replace e { e with counted := true } } ∧ TsuOnly s t)) ∧
  ((∀ (a : Arr) (c : SignalCell) (e : SigOut) (s u : State), a.port < 2 →
    dieIn s a 3 c.opId.toNat (decide (0x13 < c.status)) (fun s => inTime s .tsu c.deadline) = (u, .ok) →
    (u.tsu.sync.sigOut.find? fun e => e.opId == c.opId) = some e →
    Completes (.signalReplyReceive a c) s fun t =>
      (e.got = none → t = u.modSync fun y => { y with
        sigOut := y.sigOut.replace e { e with got := some (c, a.port == 1, u.now .tsu) } }) ∧
      (∀ f pb at_, e.got = some (f, pb, at_) → t.tsu.sync.sigOut = u.tsu.sync.sigOut.erase e ∧
        t.tsu.sync.ctrs = u.tsu.sync.ctrs ∧
        (CoreTakes u e.core → ∃ m, tget [] t.tsu.sync.coreQ e.core = tget [] u.tsu.sync.coreQ e.core ++ [m] ∧ m.kind = 4 ∧
          m.tag = e.opId ∧ m.id = e.counter ∧ m.value = f.value ∧ m.status = (statusOf f.status).getD .ok ∧
          m.planeB = pb ∧ m.unverified = false) ∧
        (f ≠ c → ∀ i ∈ reportPorts u .tsu (neighbour u .tsu 0),
          ReportWaits t .tsu i (neighbour u .tsu 0) false causeDiffer)) ∧ TsuOnly s t) ∧
  (∀ (id : BitVec 16) (e : SigOut) (f : SignalCell) (pb : Bool) (x : St) (s : State), e.got = some (f, pb, x) →
    (s.tsu.sync.sigOut.find? fun e => e.opId == id && (e.got.any fun g => deckleOver s g.2.2)) = some e →
    Completes (.replyDeckleExpire id) s fun t =>
      t.tsu.sync.sigOut = s.tsu.sync.sigOut.erase e ∧
      (CoreTakes s e.core → ∃ m, tget [] t.tsu.sync.coreQ e.core = tget [] s.tsu.sync.coreQ e.core ++ [m] ∧ m.kind = 4 ∧
        m.tag = e.opId ∧ m.value = f.value ∧ m.unverified = true) ∧ t.tsu.sync.ctrs = s.tsu.sync.ctrs ∧ TsuOnly s t) ∧
  (∀ (id : BitVec 16) (e : SigOut) (s : State),
    (s.tsu.sync.sigOut.find? fun e => e.opId == id && e.got.isNone && stGe (s.now .tsu) e.deadline) = some e →
    Completes (.signalDeadlineExpire id) s fun t =>
      t.tsu.sync.sigOut = s.tsu.sync.sigOut.erase e ∧
      (CoreTakes s e.core → ∃ m, tget [] t.tsu.sync.coreQ e.core = tget [] s.tsu.sync.coreQ e.core ++ [m] ∧ m.kind = 4 ∧
        m.status = .late ∧ m.tag = e.opId) ∧ t.tsu.sync.ctrs = s.tsu.sync.ctrs ∧ TsuOnly s t))

/-- SIGNAL_FORWARD and the barrier cells at a distributor (R52, R234, R244, R245, R308). A cell is routed by DST, at a row the first of
the roots' copies alone, and one for a die outside its slice is a SLICE_VIOLATION. An arrival joins its record or opens one under
the mask in force; the last sends one ARRIVE upward, or DONE to every port at the top, which frees the record; a second arrival from
one port is a stray; DONE goes to every port of the mask and frees the record. Hall barriers at the die (R246, R249). The first DONE
of the open generation completes it, and the generation counts up; the second plane's DONE, or the deckle passing, adds 1 to
DONE_CTR and sends HALL_DONE to every waiting core, UNVERIFIED in the second case; an instance open past BARRIER_WAIT_LIMIT is noted
once and goes on. -/
def Obligations.DistributorsAndDiesCompleteBarriers : Prop :=
  ((∀ (a : Arr) (c : SignalCell) (s u : State), a.port < 128 →
    distIn s a 3 c.opId.toNat (decide (0x13 < c.status)) (fun s => inTime s .dist c.deadline) = (u, .ok) →
    Completes (.signalForward a c) s fun t =>
      let fromRoot := u.role = .row ∧ portBelow .row a.port = false
      (dstInSlice u a.slice c.dst = false → a.slice < 64 →
        (t.base .dist).ctr .sliceViolation a.slice = (u.base .dist).ctr .sliceViolation a.slice + 1) ∧
      (dstInSlice u a.slice c.dst = true → fromRoot → seenBefore u (signalKind c) c.src c.opId.toNat = true → t = u) ∧
      (dstInSlice u a.slice c.dst = true → ¬ (fromRoot ∧ seenBefore u (signalKind c) c.src c.opId.toNat = true) →
        P1Room u 4 →
        (∀ i ∈ dieRoute u a.port c.dst c.opId.toNat, (portBelow u.role i = true → downOk u a.slice i = true) →
          ∃ o, CellWaits t .dist i o ∧ o.body = .signal c ∧ o.slice = a.slice ∧ o.ce = a.ce ∧ o.me = a.me) ∧
        (fromRoot → ∃ e ∈ t.dist.fab.seen, e.kind = signalKind c ∧ e.src = c.src ∧ e.op = c.opId.toNat ∧
          e.until_ = u.now .dist + BitVec.ofNat 64 131072)) ∧ DistOnly s t) ∧
  (∀ (a : Arr) (c : BarCell) (b : BarRec) (s u : State), a.port < 128 →
    distIn s a 4 (barOp c) false (fun s => inTime s .dist (barDeadline c)) = (u, .ok) →
    ((u.dist.fab.bars.filter fun b => b.group == c.group && b.plane == planeOf (cellPlaneB u a)).find? fun b =>
      b.gen == c.gen) = some b → b.mask.getLsbD (portPos u.role a.port) = true → b.sent = false →
    Completes (.barrierArriveReceive a c) s fun t =>
      let now := b.arrived ||| BitVec.ofNat 96 (2 ^ portPos u.role a.port)
      (b.arrived.getLsbD (portPos u.role a.port) = true → t.dist.fab.bars = u.dist.fab.bars ∧
        (t.base .dist).ctr .barrierStray 0 = (u.base .dist).ctr .barrierStray 0 + 1) ∧
      (b.arrived.getLsbD (portPos u.role a.port) = false → now ≠ b.mask → t.dist.fab.bars = u.dist.fab.bars.replace b
        { b with arrived := now, part_ := b.part_ || c.part_, def_ := b.def_ || c.deferred } ∧ t.dist.b = u.dist.b) ∧
      (b.arrived.getLsbD (portPos u.role a.port) = false → now = b.mask → u.dist.fab.bars = [b] →
        P1Room u 96 →
        (b.top = true → t.dist.fab.bars = [] ∧ ∀ i ∈ barPorts u b, ∃ o x, CellWaits t .dist i o ∧ o.body = .barrierDone x ∧
          x.group = b.group ∧ x.gen = b.gen ∧ x.src = u.node .dist) ∧
        (b.top = false → (∃ q, t.dist.fab.bars = [q] ∧ q.sent = true ∧ q.arrived = b.mask) ∧
          ∀ i ∈ upPorts u b.gen.toNat, ∃ o x, CellWaits t .dist i o ∧ o.body = .barrierArrive x ∧ x.group = b.group ∧
            x.gen = b.gen ∧ x.src = u.node .dist)) ∧ DistOnly s t) ∧
  (∀ (a : Arr) (c : BarCell) (g : HPiece) (s u : State), a.port < 128 →
    distIn s a 4 (barOp c) false (fun s => inTime s .dist (barDeadline c)) = (u, .ok) → u.dist.fab.bars = [] →
    tget none u.dist.fab.hgroups c.group = some g → g.slice = a.slice →
    (groupMask u g (cellPlaneB u a)).getLsbD (portPos u.role a.port) = true →
    groupMask u g (cellPlaneB u a) ≠ BitVec.ofNat 96 (2 ^ portPos u.role a.port) →
    Completes (.barrierArriveReceive a c) s fun t =>
      (∃ b, t.dist.fab.bars = [b] ∧ b.group = c.group ∧ b.gen = c.gen ∧ b.mask = groupMask u g (cellPlaneB u a) ∧
        b.top = g.top ∧ b.arrived = BitVec.ofNat 96 (2 ^ portPos u.role a.port) ∧ b.opened = u.now .dist ∧ b.deferred = false) ∧
      t.dist.b.ports = u.dist.b.ports ∧ DistOnly s t) ∧
  (∀ (a : Arr) (c : BarCell) (b : BarRec) (s u : State), a.port < 128 →
    distIn s a 5 (barOp c) false (fun s => inTime s .dist (barDeadline c)) = (u, .ok) →
    (u.dist.fab.bars.find? fun b => b.group == c.group && b.gen == c.gen) = some b → P1Room u 96 →
    Completes (.barrierDoneForward a c) s fun t =>
      t.dist.fab.bars = u.dist.fab.bars.erase b ∧
      (∀ i ∈ barPorts u b, ∃ o, CellWaits t .dist i o ∧ o.body = .barrierDone c) ∧ DistOnly s t)) ∧
  ((∀ (a : Arr) (c : BarCell) (s u : State), a.port < 2 →
    dieIn s a 5 (barOp c) false (fun s => inTime s .tsu (barDeadline c)) = (u, .ok) →
    (hallOf u c.group).valid = true → (hallOf u c.group).member = true → c.gen = (hallOf u c.group).gen →
    Completes (.barrierDoneReceive a c) s fun t =>
      let h := hallOf u c.group
      (hallOf t c.group).gen = h.gen + 1 ∧ (hallOf t c.group).count = 0 ∧ (hallOf t c.group).waiters = [] ∧
      (∃ d, (hallOf t c.group).done = h.done ++ [d] ∧ d.gen = h.gen ∧ d.waiters = h.waiters ∧ d.planeB = (a.port == 1)) ∧
      (∀ k, k ≠ c.group → hallOf t k = hallOf u k) ∧ t.tsu.sync.ctrs = u.tsu.sync.ctrs ∧ TsuOnly s t) ∧
  (∀ (a : Arr) (c : BarCell) (d : HallDone) (s u : State), a.port < 2 →
    dieIn s a 5 (barOp c) false (fun s => inTime s .tsu (barDeadline c)) = (u, .ok) →
    (hallOf u c.group).valid = true → (hallOf u c.group).member = true → c.gen ≠ (hallOf u c.group).gen →
    ((hallOf u c.group).done.find? fun d => d.gen == c.gen) = some d →
    Completes (.barrierDoneReceive a c) s fun t =>
      (d.planeB = (a.port == 1) → t = u) ∧
      (d.planeB ≠ (a.port == 1) → (hallOf t c.group).done = (hallOf u c.group).done.erase d ∧
        (hallOf t c.group).gen = (hallOf u c.group).gen ∧
        (d.waiters = [] → (hallOf u c.group).doneCtr = 0x1FFF → t.tsu.sync.ctrs = u.tsu.sync.ctrs) ∧
        (∀ w, d.waiters = [w] → CoreTakes u w.1 → (hallOf u c.group).doneCtr = 0x1FFF →
          ∃ m, tget [] t.tsu.sync.coreQ w.1 = tget [] u.tsu.sync.coreQ w.1 ++ [m] ∧ m.kind = 3 ∧ m.status = .ok ∧
            m.id = c.group ∧ m.tag = d.gen ∧ m.unverified = false) ∧
        ((hallOf u c.group).doneCtr ≠ 0x1FFF → (ctrOf u (hallOf u c.group).doneCtr).alloc = true →
          (ctrOf u (hallOf u c.group).doneCtr).value.toNat + 1 ≤ (ctrOf u (hallOf u c.group).doneCtr).limit.toNat →
          (ctrOf t (hallOf u c.group).doneCtr).value = (ctrOf u (hallOf u c.group).doneCtr).value + 1)) ∧ TsuOnly s t) ∧
  (∀ (g : Nat) (d : HallDone) (s : State), ((hallOf s g).done.find? fun d => deckleOver s d.at_) = some d →
    Completes (.barrierDeckleExpire g) s fun t =>
      (hallOf t g).done = (hallOf s g).done.erase d ∧ (hallOf t g).gen = (hallOf s g).gen ∧
      (∀ w, d.waiters = [w] → CoreTakes s w.1 → (hallOf s g).doneCtr = 0x1FFF →
        ∃ m, tget [] t.tsu.sync.coreQ w.1 = tget [] s.tsu.sync.coreQ w.1 ++ [m] ∧ m.kind = 3 ∧ m.id = g ∧
          m.unverified = true) ∧ TsuOnly s t) ∧
  (∀ (g : Nat) (s : State), (hallOf s g).waiters ≠ [] → (hallOf s g).waitRaised = false →
    barrierWaitLimit s < elapsed (s.now .tsu) (hallOf s g).opened →
    Completes (.barrierWaitExpire g) s fun t =>
      hallOf t g = { hallOf s g with waitRaised := true } ∧ (∀ k, k ≠ g → hallOf t k = hallOf s k) ∧
      t.tsu.sync.coreQ = s.tsu.sync.coreQ ∧ t.tsu.sync.ctrs = s.tsu.sync.ctrs ∧ TsuOnly s t) ∧
  (∀ (g : Nat) (s : State), (hallOf s g).waitRaised = true ∨ (hallOf s g).waiters = [] →
    exec (.barrierWaitExpire g) s = .next s))

/-- A record's head and tail read back as they were written, every field at every value that its width admits (R260). -/
def Obligations.RecordHeadsRoundTrip : Prop :=
  (∀ (h : Head) (rest : List Byte), h.shape.op < 16 → h.shape.ty < 16 → h.shape.k < 32 → h.shape.elems < 8192 →
    h.group < 4096 → (headBytes h).length = 32 ∧ headOf (headBytes h ++ rest) = h) ∧
  (∀ (t : Tail) (l : List Byte), t.status < 256 → t.flags < 256 → t.contrib < 2 ^ 17 →
    (tailBytes t).length = 8 ∧ tailOf (l ++ tailBytes t) (l.length + 8) = t)

/-- A start (R198, R256 to R260), from the plate or a core: PENDING, an instance in flight with the DEADLINE and RELEASE of its step,
and the record formed from the snapshot sent in cells on both planes; later than DEADLINE it is LATE and nothing is sent; a start of
an instance already started, or a 65th, is BUSY; a die outside the group is NOT_MEMBER, a descriptor that is not valid a
BAD_COMMAND, and a step that is neither the present nor the next is refused. -/
def Obligations.CollectsStartWithASnapshot : Prop :=
  (∀ (core desc : Nat) (ctag : BitVec 16) (tag : W32) (n : Step) (st : St) (d : Desc) (s : State), PortOpen s core →
    desc < 1024 → dieRefusesNew s = none → s.tsu.turn.started = true → n = s.tsu.turn.step ∨ n = s.tsu.turn.step + 1 →
    s.tsu.turn.stepStart n = some st → descFor s desc st = some d →
    Completes (.collectStart core ctag desc tag n) s fun t =>
      let dup := (s.tsu.fab.insts.any fun i => i.desc == desc && i.step == n) || s.tsu.fab.done.contains (desc, n)
      let late := stLater (s.now .tsu) (st + BitVec.ofNat 64 d.deadlineOfs)
      let bs := startRecord s d tag (st + BitVec.ofNat 64 d.deadlineOfs) (st + BitVec.ofNat 64 d.releaseOfs)
      let go := d.valid = true ∧ dieMember s d.group = true ∧ dup = false ∧ s.tsu.fab.insts.length < 64
      (go → (∃ i, t.tsu.fab.insts = s.tsu.fab.insts ++ [i] ∧ i.desc = desc ∧ i.step = n ∧ i.d = d ∧ i.started = true ∧
          i.lateStart = late ∧ i.release = st + BitVec.ofNat 64 d.releaseOfs ∧ i.a.cells = 0 ∧ i.b.cells = 0)) ∧
      (go → late = true → CoreCompleted t core ctag .late 0 ∧ t.tsu.b.ports = s.tsu.b.ports) ∧
      (go → late = false → CoreCompleted t core ctag .pending 0 ∧ ∀ p ∈ planesOn s, ∃ cs : List OutCell,
        tget [] (t.port .tsu p).tx.p2 s.tsu.die.sliceId = tget [] (s.port .tsu p).tx.p2 s.tsu.die.sliceId ++ cs ∧
        cs.map (·.body) = (cutCells ((bs.length + 49) / 50) bs).map fun x =>
          Body.collectUp { desc, inst := n.toNat % 64, data := x }) ∧
      (d.valid = false → CoreCompleted t core ctag .badCommand 0 ∧ t.tsu.fab.insts = s.tsu.fab.insts) ∧
      (d.valid = true → dieMember s d.group = false → CoreCompleted t core ctag .notMember 0 ∧
        t.tsu.fab.insts = s.tsu.fab.insts ∧ t.tsu.b.ports = s.tsu.b.ports) ∧
      (d.valid = true → dieMember s d.group = true → s.tsu.fab.done.contains (desc, n) = true ∨
          (dup = false ∧ 64 ≤ s.tsu.fab.insts.length) →
        CoreCompleted t core ctag .busy 0 ∧ t.tsu.fab.insts = s.tsu.fab.insts ∧ t.tsu.b.ports = s.tsu.b.ports) ∧
      t.tsu.fab.mem = s.tsu.fab.mem ∧ TsuOnly s t) ∧
  (∀ (core desc : Nat) (ctag : BitVec 16) (tag : W32) (n : Step) (s : State), PortOpen s core → dieRefusesNew s = none →
    s.tsu.turn.started = false ∨ (n ≠ s.tsu.turn.step ∧ n ≠ s.tsu.turn.step + 1) →
    Completes (.collectStart core ctag desc tag n) s fun t =>
      CoreCompleted t core ctag .badCommand 0 ∧ t.tsu.fab = s.tsu.fab ∧ TsuOnly s t) ∧
  (∀ (entry : Nat) (a : Armed) (d : Desc) (s : State), actionReady s entry 4 = some a → dieRefusesNew s = none →
    descFor s (entTarget a.e % 1024) (a.t - BitVec.ofNat 64 (entOffset a.e)) = some d → d.valid = true →
    dieMember s d.group = true → s.tsu.fab.insts = [] → s.tsu.fab.done = [] →
    Completes (.collect entry) s fun t =>
      (∃ i, t.tsu.fab.insts = [i] ∧ i.desc = entTarget a.e % 1024 ∧ i.step = a.step ∧ i.tag = entArg a.e ∧ i.d = d ∧
        i.release = a.t - BitVec.ofNat 64 (entOffset a.e) + BitVec.ofNat 64 d.releaseOfs ∧ i.started = true) ∧
      t.tsu.plate.armed = s.tsu.plate.armed.erase a ∧ t.tsu.fab.mem = s.tsu.fab.mem ∧ TsuOnly s t) ∧
  (∀ (entry : Nat) (s : State), actionReady s entry 4 = none → exec (.collect entry) s = .next s)

/-- A plane's copies at the die (R257, R275 to R278). A cell joins the copy of its plane, and a first cell of an unknown instance opens
it for delivery, unless 64 are in flight. At RELEASE two identical copies that verify are written to RESULT_BUF and nowhere else,
the instance leaves, and COLLECT_DONE tells NOTIFY_CORE; nothing happens before RELEASE or without a copy. An instance without a
copy by its deadline ends LATE, writes nothing and counts in COLLECT_EXPIRED. Differing copies (R276, R329, R330). Two records of
equal CONTRIB of an operation without residues are undecided: the die asks the top on each plane again, once. RESULT_KEEP later it
writes what at least three copies hold, marked LATE, and otherwise nothing, with PLANE_DISAGREE. -/
def Obligations.ResultsAreComparedAndRetried : Prop :=
  ((∀ (a : Arr) (c : CollectCell) (s u : State), a.port < 2 →
    dieIn s a 7 (c.desc * 64 + c.inst) (tailBad true a.last (copyBytes s a c ++ c.data))
      (fun s => instInTime s c.desc c.inst) = (u, .ok) →
    Completes (.collectResultReceive a c) s fun t =>
      let found := u.tsu.fab.insts.find? fun i => i.desc == c.desc && i.step.toNat % 64 == c.inst
      (∀ i, found = some i → i.resent = none → a.port = 0 → i.a.whole = false → i.a.broken = false →
        ∃ x, t.tsu.fab.insts = u.tsu.fab.insts.replace i { i with a := x } ∧ x.bytes = i.a.bytes ++ c.data ∧
          x.cells = i.a.cells + 1 ∧ x.at_ = u.now .tsu ∧
          (i.a.cells + 1 = recordCells (shapeOf i.d) true → x.whole = a.last)) ∧
      (∀ i, found = some i → i.resent = none → a.port = 1 → i.b.whole = true → t = u.modFab fun f => { f with
        insts := f.insts.replace i i }) ∧
      (∀ i, found = none → a.first = true → instOpen u c.desc c.inst c.data = some i → u.tsu.fab.insts.length < 64 →
        a.port = 0 → (u.tsu.fab.insts.find? (· == i)) = none →
        ∃ j, t.tsu.fab.insts = u.tsu.fab.insts ++ [j] ∧ j.desc = c.desc ∧ j.started = false ∧ j.a.bytes = i.a.bytes ++ c.data) ∧
      (∀ i, found = none → a.first = true → instOpen u c.desc c.inst c.data = some i → 64 ≤ u.tsu.fab.insts.length →
        t.tsu.fab = u.tsu.fab ∧ (t.base .tsu).ctr .collectBusy 0 = (u.base .tsu).ctr .collectBusy 0 + 1) ∧
      t.tsu.fab.mem = u.tsu.fab.mem ∧ TsuOnly s t) ∧
  (∀ (desc inst : Nat) (i : Inst) (bs : List Byte) (x : St) (s : State),
    (s.tsu.fab.insts.find? fun i => i.desc == desc && i.step.toNat % 64 == inst) = some i → i.resent = none →
    copyIs i.d i.a = .record bs → copyIs i.d i.b = .record bs → verifies (shapeOf i.d) bs = true → copiesAt i = some x →
    stGe (s.now .tsu) i.release = true → stGe (s.now .tsu) x = true → i.d.doneCtr = 0x1FFF →
    Completes (.collectRelease desc inst) s fun t =>
      let out := resultBytes (shapeOf i.d) i.d.wide bs
      let tl := tailOf bs (recordLen (shapeOf i.d) true)
      (∀ k b, out[k]? = some b → tget 0 t.tsu.fab.mem (i.d.resultBuf * 8 + k) = b) ∧
      (∀ k, k < i.d.resultBuf * 8 ∨ i.d.resultBuf * 8 + out.length ≤ k → tget 0 t.tsu.fab.mem k = tget 0 s.tsu.fab.mem k) ∧
      t.tsu.fab.insts = s.tsu.fab.insts.erase i ∧ (i.desc, i.step) ∈ t.tsu.fab.done ∧
      (CoreTakes s i.d.notifyCore → i.d.notifyCore ≤ 575 →
        ∃ m, tget [] t.tsu.sync.coreQ i.d.notifyCore = tget [] s.tsu.sync.coreQ i.d.notifyCore ++ [m] ∧ m.kind = 5 ∧
          m.id = i.desc ∧ m.tag = i.step.extractLsb' 0 16 ∧ m.count = tl.contrib ∧ m.unverified = false ∧
          m.status = (if tbit tl.flags 7 then .partialResult
            else if stLater x i.release || i.lateStart then .late else .ok)) ∧
      t.tsu.sync.ctrs = s.tsu.sync.ctrs ∧ TsuOnly s t) ∧
  (∀ (desc inst : Nat) (i : Inst) (s : State),
    (s.tsu.fab.insts.find? fun i => i.desc == desc && i.step.toNat % 64 == inst) = some i → i.resent = none →
    stGe (s.now .tsu) i.release = false ∨ (i.a.whole = false ∧ i.b.whole = false) →
    exec (.collectRelease desc inst) s = .next s) ∧
  (∀ (desc inst : Nat) (i : Inst) (s : State),
    (s.tsu.fab.insts.find? fun i => i.desc == desc && i.step.toNat % 64 == inst) = some i → i.a.whole = false →
    i.b.whole = false → stGe (s.now .tsu) i.deadline = true →
    Completes (.collectExpire desc inst) s fun t =>
      t.tsu.fab.insts = s.tsu.fab.insts.erase i ∧ t.tsu.fab.mem = s.tsu.fab.mem ∧ t.tsu.sync.ctrs = s.tsu.sync.ctrs ∧
      (t.base .tsu).ctr .collectExpired 0 = (s.base .tsu).ctr .collectExpired 0 + 1 ∧
      (CoreTakes s i.d.notifyCore → i.d.notifyCore ≤ 575 →
        ∃ m, tget [] t.tsu.sync.coreQ i.d.notifyCore = tget [] s.tsu.sync.coreQ i.d.notifyCore ++ [m] ∧ m.kind = 5 ∧
          m.status = .late ∧ m.late = true ∧ m.count = 0) ∧ TsuOnly s t)) ∧
  ((∀ (desc inst : Nat) (i : Inst) (bs cs : List Byte) (x : St) (s : State),
    (s.tsu.fab.insts.find? fun i => i.desc == desc && i.step.toNat % 64 == inst) = some i → i.resent = none →
    copyIs i.d i.a = .record bs → copyIs i.d i.b = .record cs → bs ≠ cs → hasResidue i.d.op = false →
    (tailOf bs (recordLen (shapeOf i.d) true)).contrib = (tailOf cs (recordLen (shapeOf i.d) true)).contrib →
    copiesAt i = some x → stGe (s.now .tsu) i.release = true → stGe (s.now .tsu) x = true →
    Completes (.collectRelease desc inst) s fun t =>
      t.tsu.fab.insts = s.tsu.fab.insts.replace i { i with resent := some (s.now .tsu) } ∧
      t.tsu.fab.mem = s.tsu.fab.mem ∧
      (∀ p, p < 2 → ∃ o v, CellWaits t .tsu p o ∧ o.body = .vote v ∧
        v.body = .resend s.tsu.die.sliceId (i.desc * 64 + i.step.toNat % 64) false i.step) ∧ TsuOnly s t) ∧
  (∀ (desc inst : Nat) (i : Inst) (x : St) (bs : List Byte) (s : State),
    (s.tsu.fab.insts.find? fun i => i.desc == desc && i.step.toNat % 64 == inst) = some i → i.resent = some x →
    stGe (s.now .tsu) (x + BitVec.ofNat 64 262144) = true ∨ stGe (s.now .tsu) i.deadline = true →
    copyIs i.d i.a = .record bs → i.d.doneCtr = 0x1FFF →
    Completes (.resendWaitExpire desc inst) s fun t =>
      (copyIs i.d i.b = .record bs → copyIs i.d i.a2 = .record bs → copyIs i.d i.b2 = .missing →
        (∀ k b, (resultBytes (shapeOf i.d) i.d.wide bs)[k]? = some b → tget 0 t.tsu.fab.mem (i.d.resultBuf * 8 + k) = b)) ∧
      (copyIs i.d i.a2 = .missing → copyIs i.d i.b2 = .missing → t.tsu.fab.mem = s.tsu.fab.mem ∧
        (CoreTakes s i.d.notifyCore → i.d.notifyCore ≤ 575 →
          ∃ m, tget [] t.tsu.sync.coreQ i.d.notifyCore = tget [] s.tsu.sync.coreQ i.d.notifyCore ++ [m] ∧ m.kind = 5 ∧
            m.status = .planeDisagree)) ∧
      t.tsu.fab.insts = s.tsu.fab.insts.erase i ∧ TsuOnly s t))

/-- The fold of a post (R265, R268): no contribution gives the operation's identity, the first is the start, and each further one is the
second operand. SUM adds modulo 2^128 with its residue modulo 2^61 - 1; AND, OR and XOR act on bits; MIN and MAX of unsigned
integers take the lesser and the greater. COLLECT_UP at a distributor (R262 to R264). The first cell of a key opens a post under the
group's mask in force with its head, where there is room; otherwise the instance is refused, counted and remembered until RELEASE. A
cell for a key already refused is discarded, and one of a closed or unknown key is a stray. At DEADLINE + level x H the ports that
have sent nothing leave the waiting set with PARTIAL, and S + H later those still incomplete with TORN and PARTIAL; not before. -/
def Obligations.PostsFoldAndRefuse : Prop :=
  ((∀ h : Shape, foldElems h [] = (identity h, false)) ∧
  (∀ (h : Shape) (a b : Nat) (l : List Nat), (foldElems h (a :: l ++ [b])).1 = (combine h (foldElems h (a :: l)).1 b).1) ∧
  (∀ (h : Shape) (a b ra rb : Nat), h.op = 1 → a < 2 ^ 128 → b < 2 ^ 128 → ra < resMod → rb < resMod →
    combine h (a * 2 ^ 64 + ra) (b * 2 ^ 64 + rb) = ((a + b) % 2 ^ 128 * 2 ^ 64 + (ra + rb) % resMod, false)) ∧
  (∀ (h : Shape) (a b : Nat), (h.op = 4 → combine h a b = (a &&& b, false)) ∧ (h.op = 5 → combine h a b = (a ||| b, false)) ∧
    (h.op = 6 → combine h a b = (a ^^^ b, false)) ∧ (h.op = 2 → h.ty = 1 → combine h a b = (min a b, false)) ∧
    (h.op = 3 → h.ty = 1 → combine h a b = (max a b, false))) ∧
  (∀ (h : Shape) (x : Int), h.op = 1 → h.ty = 0 → -(2 ^ 63) ≤ x → x < 2 ^ 63 →
    (formElem h (twos 64 x) []).1 = twos 128 x * 2 ^ 64 + (x % (2 ^ 61 - 1)).toNat ∧
    resDiff 1 (formElem h (twos 64 x) []).1 = 0)) ∧
  ((∀ (a : Arr) (c : CollectCell) (g : HPiece) (s u : State), a.port < 128 → a.slice < 64 →
    distIn s a 6 (a.slice * 65536 + (c.desc * 64 + c.inst))
      (tailBad false a.last (upBytes s a (c.desc * 64 + c.inst) (planeOf (cellPlaneB s a)) ++ c.data))
      (distInTime a.slice (c.desc * 64 + c.inst)) = (u, .ok) →
    planeOf (cellPlaneB s a) = planeOf (cellPlaneB u a) →
    (u.dist.fab.posts.find? (·.same a.slice (c.desc * 64 + c.inst) (planeOf (cellPlaneB u a)))) = none →
    (u.dist.fab.refused.find? fun e => e.slice == a.slice && e.id == c.desc * 64 + c.inst &&
      e.plane == planeOf (cellPlaneB u a) && stLater e.until_ (u.now .dist)) = none →
    tget none u.dist.fab.hgroups (headOf c.data).group = some g → g.slice = a.slice →
    (groupMask u g (cellPlaneB u a)).getLsbD (portPos u.role a.port) = true →
    Completes (.collectUpReceive a c) s fun t =>
      let full := postFull u a.slice (headOf c.data).shape
      (a.first = true → full = true → t.dist.fab.posts = u.dist.fab.posts ∧
        (t.base .dist).ctr .collectBusy a.slice = (u.base .dist).ctr .collectBusy a.slice + 1 ∧
        ∃ e ∈ t.dist.fab.refused, e.slice = a.slice ∧ e.id = c.desc * 64 + c.inst ∧ e.closed = false ∧
          e.until_ = (headOf c.data).release) ∧
      (a.first = true → full = false → a.last = false → u.dist.fab.posts = [] →
        2 ≤ popcount 96 (groupMask u g (cellPlaneB u a)).toNat → ∃ q, t.dist.fab.posts = [q] ∧ q.slice = a.slice ∧
          q.id = c.desc * 64 + c.inst ∧ q.head = c.data.take 32 ∧ q.mask = groupMask u g (cellPlaneB u a) ∧ q.top = g.top ∧
          (q.port (portPos u.role a.port)).bytes = c.data) ∧
      (a.first = false → t.dist.fab.posts = u.dist.fab.posts ∧
        (t.base .dist).ctr .postStray 0 = (u.base .dist).ctr .postStray 0 + 1) ∧ DistOnly s t) ∧
  (∀ (slice id : Nat) (plane : Plane) (q : Post) (torn : Bool) (i : Instr) (s : State), s.dist.fab.posts = [q] →
    q.same slice id plane = true → q.done = false →
    (i = .postDeadlineLimit slice id plane ∧ torn = false) ∨ (i = .postTornLimit slice id plane ∧ torn = true) →
    Completes i s fun t =>
      let gone := fun p => if torn then !(q.port p).whole else (q.port p).cells == 0
      (stGe (s.now .dist) (postLimit s q torn) = false → t = s) ∧
      (q.waiting.any gone = false → t = s) ∧
      (stGe (s.now .dist) (postLimit s q torn) = true → q.waiting.any gone = true →
        (∀ r ∈ t.dist.fab.posts, (∀ p ∈ r.waiting, gone p = false) ∧ tbit r.flags 7 = true ∧
          (torn = true → tbit r.flags 3 = true))) ∧ DistOnly s t))

/-- Results on the way down (R264, R267). Below the top, and not at a row distributor, a cell goes at once to every port of its post's
mask, and one of an unknown key is a stray. At a row distributor a lone root's cell waits; 2 ticks after the first copy it is
forwarded; two copies that disagree block the instance. A vote that has closed is dropped at its time. Resends and digests (R330,
R331). The top that still holds a record resends it on the requesting port; a part below it keeps a route for 64 ticks and passes
the request up. What has been kept for RESULT_KEEP is dropped. A post that holds the digest answers a request, the root notes each
answer, and at the end charges one split event to the pair that the digests name, once. -/
def Obligations.ResultsAndResendsGoDown : Prop :=
  ((∀ (a : Arr) (c : CollectCell) (s u : State), a.port < 128 → a.ctype = 7 → c.desc < 1024 → c.inst < 64 → s.role = .rack →
    portBelow .rack a.port = false →
    distIn s a 7 (a.slice * 65536 + (c.desc * 64 + c.inst))
      (tailBad true a.last ((if a.first then [] else
        ((s.dist.fab.downs.find? fun d => d.slice == a.slice && d.id == c.desc * 64 + c.inst).map (·.bytes)).getD []) ++ c.data))
      (distInTime a.slice (c.desc * 64 + c.inst)) = (u, .ok) → u.dist.fab.votes = [] → u.dist.fab.routes = [] →
    Completes (.collectDownReceive a c) s fun t =>
      let ports := downPorts u a.slice (c.desc * 64 + c.inst)
      (ports = [] → t.dist.b.ports = u.dist.b.ports ∧
        (t.base .dist).ctr .postStray 0 = (u.base .dist).ctr .postStray 0 + 1) ∧
      (ports ≠ [] → ∀ i ∈ ports, ∃ o x, CellWaits t .dist i o ∧ o.body = .collectDown x ∧ x.desc = c.desc ∧ x.inst = c.inst ∧
        o.first = a.first ∧ o.last = a.last ∧ o.slice = a.slice) ∧ DistOnly s t) ∧
  (∀ (slice id : Nat) (v : RootVote) (s : State), id < 131072 →
    (s.dist.fab.votes.find? fun v => v.slice == slice && v.id == id) = some v →
    Completes (.rootVoteExpire slice id) s fun t =>
      (∀ x, v.closed = some x → stGe (s.now .dist) x = true →
        t = { s with dist.fab.votes := s.dist.fab.votes.erase v }) ∧
      (v.closed = none → v.blocked = true → t = s) ∧
      (∀ y, v.closed = none → v.blocked = false → v.cells = [y] → y.sent = false →
        stGe (s.now .dist) (y.first + BitVec.ofNat 64 32768) = false → t = s) ∧
      (∀ y x z, v.closed = none → v.blocked = false → v.cells = [y] → y.sent = false → y.copies = [x, z] →
        stGe (s.now .dist) (y.first + BitVec.ofNat 64 32768) = true →
        t = { s with dist.fab.votes := s.dist.fab.votes.replace v { v with blocked := true } }) ∧
      (∀ y x, v.closed = none → v.blocked = false → v.cells = [y] → y.sent = false → y.copies = [x] → v.id = id → v.slice = slice →
        id < 65536 → x.2.1.desc * 64 + x.2.1.inst = id →
        stGe (s.now .dist) (y.first + BitVec.ofNat 64 32768) = true →
        ∀ i ∈ downPorts s slice id, ∃ o z, CellWaits t .dist i o ∧ o.body = .collectDown z ∧ z.desc = x.2.1.desc ∧
          z.inst = x.2.1.inst) ∧ DistOnly s t)) ∧
  ((∀ (port slice id : Nat) (n : Step) (v : Vote) (k : Kept) (s : State), port < 128 → v.body = .resend slice id false n →
    voteFresh s .dist v = true → voteBarred s v = false →
    (s.dist.fab.kept.find? fun k => !false && k.isTop && k.slice == slice && k.id == id &&
      k.plane == planeOf (portPlaneB s .dist port) && k.step == n && stLater (k.sent + tu (keepTu s)) (s.now .dist)) = some k →
    Completes (.resendReceive port v) s fun t =>
      (∃ cs : List OutCell, tget [] (t.port .dist port).tx.p2 slice = tget [] (s.port .dist port).tx.p2 slice ++ cs ∧
        cs.map (·.body) = (cutCells ((k.bytes.length + 49) / 50) k.bytes).map fun x =>
          Body.collectDown { desc := id / 64, inst := id % 64, data := x }) ∧
      t = s.modBase .dist fun b => { b with ports := t.dist.b.ports }) ∧
  (∀ (port slice id : Nat) (n : Step) (v : Vote) (s : State), port < 128 → v.body = .resend slice id false n →
    voteFresh s .dist v = true → voteBarred s v = false → s.role = .rack ∨ s.role = .row → s.dist.fab.kept = [] →
    P1Room s 4 →
    Completes (.resendReceive port v) s fun t =>
      (∃ r ∈ t.dist.fab.routes, r.slice = slice ∧ r.id = id ∧ r.port = port ∧
        r.until_ = s.now .dist + BitVec.ofNat 64 1048576) ∧
      (∀ i ∈ upPorts s id, ∃ o, CellWaits t .dist i o ∧ o.body = .vote v) ∧ DistOnly s t) ∧
  (∀ (slice id : Nat) (s : State), Completes (.resultKeepExpire slice id) s fun t =>
    (∀ k, k ∈ t.dist.fab.kept ↔ k ∈ s.dist.fab.kept ∧
      ¬ (k.slice = slice ∧ k.id = id ∧ stGe (s.now .dist) (k.sent + tu (keepTu s)) = true)) ∧
    t = { s with dist.fab := { s.dist.fab with kept := t.dist.fab.kept } }) ∧
  (∀ (port slice id : Nat) (n : Step) (v : Vote) (k : Kept) (s : State), port < 128 → v.body = .digestReq slice id n →
    voteFresh s .dist v = true → voteBarred s v = false → s.role = .rack → P1Room s 4 →
    (s.dist.fab.kept.find? fun k => !k.isTop && k.slice == slice && k.id == id && k.step == n &&
      stLater (k.sent + tu (keepTu s)) (s.now .dist)) = some k →
    Completes (.digestReqReceive port v) s fun t =>
      (∀ i ∈ voteOut s v.src, ∃ o w, CellWaits t .dist i o ∧ o.body = .vote w ∧ w.body = .postDigest slice id 1 k.digest ∧
        w.dst = v.src) ∧ DistOnly s t) ∧
  (∀ (port slice id level : Nat) (crc : W32) (v : Vote) (d : Digests) (s u : State), port < 128 → voteIn s port v = (u, true) →
    v.body = .postDigest slice id level crc →
    (u.dist.digests.find? fun d => d.slice == slice && d.id == id && !d.charged) = some d →
    exec (.postDigestReceive port v) s = .next { u with dist.digests := u.dist.digests.replace d { d with
      answers := d.answers.filter (fun x => x.1 != v.src) ++ [(v.src, level, crc)] } }) ∧
  (∀ (slice id : Nat) (d : Digests) (s : State),
    (s.dist.digests.find? fun d => d.slice == slice && d.id == id && !d.charged &&
      stGe (s.now .dist) (d.sent + tu (keepTu s))) = some d →
    Completes (.digestWaitExpire slice id) s fun t =>
      t.dist.digests = s.dist.digests.replace d { d with charged := true } ∧
      (∀ k, splitPair d.answers = some k → ∀ n ∈ [k, k ||| 0x10#24], ((tget {} t.dist.mem.nodes n.toNat).events.any fun e =>
        e.1 == s.now .dist && e.2.2.2.1 == s.node .dist && e.2.2.2.2 == causeDiffer) = true) ∧
      t.dist.b = s.dist.b ∧ t.dist.fab = s.dist.fab ∧ DistOnly s t))

/-- Ledger commands at a die (R288, R290, R318): one cell of the operation waits on each plane in use, the command is PENDING and its
deadline runs; a ninth that would wait is BUSY and counted; a die that refuses answers its own status, and a distributor
BAD_COMMAND. An operation without a reply by its deadline ends LATE. Replies and events at the die (R290, R291, R306, R328). The
first reply is held; the second from the other plane completes the command with the first's STATUS, REQ and GEN and, where they
differ, counts a plane disagreement. The first EVENT raises the mailbox's ledger vector, the second none; an orphan is only counted. -/
def Obligations.LedgerCommandsAndRepliesCross : Prop :=
  ((∀ (i : Instr) (c : Cmd) (op req : Nat) (gen : BitVec 16) (e : LedgerEntry) (s : State), hsReady s c = true → c.mbx ≤ 3 →
    (∃ sg pr tk ml dl iv pg sd ow, i = .ledgerSubmit c sg pr tk ml dl iv pg sd ow ∧ op = 1 ∧ req = 0 ∧ gen = 0 ∧
      e = { zeroEntry with sgroup := sg % 256, prio := pr % 8, tokens := tk, maxLen := ml, deadline := dl, interval := iv, page := pg, seed := sd, owner := ow }) ∨
    (e = zeroEntry ∧ req < 65536 ∧ ((i = .ledgerRead c req gen ∧ op = 2) ∨ (i = .ledgerPause c req gen ∧ op = 3) ∨
      (i = .ledgerResume c req gen ∧ op = 4) ∨ (i = .ledgerCancel c req gen ∧ op = 5) ∨
      (i = .ledgerRelease c req gen ∧ op = 6))) →
    Completes i s fun t =>
      (c.part = .tsu → dieRefusesNew s = none → s.tsu.die.sliceValid = true → s.tsu.fab.ops.length < 8 →
        (∃ o, t.tsu.fab.ops = s.tsu.fab.ops ++ [o] ∧ o.opId = s.tsu.sync.opId ∧ o.c = c ∧ o.op = op ∧
          o.submitSt = s.now .tsu ∧ o.deadline = s.now .tsu + BitVec.ofNat 64 (ledgerOpDeadline s) ∧ o.got = none) ∧
        (∀ p ∈ planesOn s, ∃ x m, CellWaits t .tsu p x ∧ x.body = .ledger m ∧ x.slice = s.tsu.die.sliceId ∧ m.op = op ∧
          m.src = s.node .tsu ∧ m.opId = s.tsu.sync.opId ∧ m.req = req ∧ m.gen = gen ∧ m.submitSt = s.now .tsu ∧ m.entry = e) ∧
        t.tsu.sync = { s.tsu.sync with opId := s.tsu.sync.opId + 1 } ∧ Answers c (0x004F + op) .pending t) ∧
      (c.part = .tsu → dieRefusesNew s = none → s.tsu.die.sliceValid = true → 8 ≤ s.tsu.fab.ops.length →
        t.tsu.fab = s.tsu.fab ∧ t.tsu.b.ports = s.tsu.b.ports ∧ Answers c (0x004F + op) .busy t ∧
        (t.base .tsu).ctr .ledgerBusy 0 = (s.base .tsu).ctr .ledgerBusy 0 + 1) ∧
      (∀ st, c.part = .tsu → dieRefusesNew s = some st → t.tsu.fab = s.tsu.fab ∧ t.tsu.b.ports = s.tsu.b.ports ∧
        Answers c (0x004F + op) st t) ∧
      (c.part = .dist → t.dist.led = s.dist.led ∧ Answers c (0x004F + op) .badCommand t) ∧ PartOnly c.part s t) ∧
  (∀ (opId : BitVec 16) (o : LedgerOp) (s : State),
    (s.tsu.fab.ops.find? fun o => o.opId == opId && o.got.isNone && stGe (s.now .tsu) o.deadline) = some o →
    Completes (.ledgerOpDeadlineExpire opId) s fun t =>
      t.tsu.fab = { s.tsu.fab with ops := s.tsu.fab.ops.erase o } ∧
      ((s.mbox o.c.mbx).held = [] → Answers (ofPart .tsu o.c) (0x004F + o.op) .late t) ∧ TsuOnly s t) ∧
  (∀ (opId : BitVec 16) (s : State), (∀ o ∈ s.tsu.fab.ops, o.opId = opId → o.got ≠ none ∨ stGe (s.now .tsu) o.deadline = false) →
    exec (.ledgerOpDeadlineExpire opId) s = .next s)) ∧
  ((∀ (a : Arr) (m : LedgerMsg) (o : LedgerOp) (s u : State), a.port < 2 →
    ledgerDieIn s a m (m.submitSt + BitVec.ofNat 64 (ledgerOpDeadline s)) = (u, .ok) → m.op = 7 →
    (u.tsu.fab.ops.find? fun o => o.opId == m.opId && o.submitSt == m.submitSt && m.op == 7) = some o →
    Completes (.ledgerReplyReceive a m) s fun t =>
      (o.got = none → t = { u with tsu.fab.ops := u.tsu.fab.ops.replace o { o with
        got := some (m, a.port == 1, u.now .tsu) } }) ∧
      (∀ x y, o.got = some (x, a.port == 1, y) → t = u) ∧
      (∀ x y, o.got = some (x, !(a.port == 1), y) → t.tsu.fab = { u.tsu.fab with ops := u.tsu.fab.ops.erase o } ∧
        ((u.mbox o.c.mbx).held = [] → ∃ cp, lastCompletion t (ofPart .tsu o.c) = some cp ∧ cp.tag = o.c.tag ∧
          cp.opcode = 0x004F + o.op ∧ (∀ st, statusOf x.status = some st → cp.status = st) ∧ cp.unverified = false ∧
          cp.r0 = BitVec.ofNat 64 (x.req + x.gen.toNat * 65536)) ∧
        (t.base .tsu).ctr .planeDisagree 0 = (u.base .tsu).ctr .planeDisagree 0 + (if x = m then 0 else 1)) ∧
      TsuOnly s t) ∧
  (∀ (a : Arr) (m : LedgerMsg) (s u : State), a.port < 2 → m.op = 8 → m.mbx < 4 → eventOrphan s a = false →
    ledgerDieIn s a m (m.submitSt + BitVec.ofNat 64 6400000) = (u, .ok) →
    Completes (.ledgerEventReceive a m) s fun t =>
      (u.tsu.fab.events = [] → t.tsu.fab.events = [(m.opId, m, a.port == 1, u.now .tsu)] ∧
        (u.tsu.die.msixOn = true → vecMasked u.tsu.die (4 + m.mbx) = false →
          tget 0 t.tsu.die.msix (4 + m.mbx) = tget 0 u.tsu.die.msix (4 + m.mbx) + 1)) ∧
      (∀ x b y, u.tsu.fab.events = [(m.opId, x, b, y)] → x.submitSt = m.submitSt →
        stLater (m.submitSt + BitVec.ofNat 64 6400000) (u.now .tsu) = true →
        t.tsu.fab.events = [] ∧ (t.base .tsu).ctr .planeDisagree 0 = (u.base .tsu).ctr .planeDisagree 0 + (if x = m then 0 else 1) ∧
        (x = m → t.tsu.die = u.tsu.die ∧ t.tsu.b = u.tsu.b)) ∧ t.tsu.fab.ops = u.tsu.fab.ops ∧ TsuOnly s t) ∧
  (∀ (a : Arr) (m : LedgerMsg) (s u : State), a.port < 2 → m.op = 8 → eventOrphan s a = true →
    cellIn s .tsu a 9 m.opId.toNat (decide (0x13 < m.status)) = (u, true) →
    Completes (.ledgerEventReceive a m) s fun t =>
      (t.base .tsu).ctr .ledgerEventOrphan 0 = (u.base .tsu).ctr .ledgerEventOrphan 0 + 1 ∧ t.tsu.fab = u.tsu.fab ∧
      t.tsu.die.msix = u.tsu.die.msix ∧ TsuOnly s t))

/-- Batch deltas at the die (R300, R301, R505). A record is held for its plane. From its RELEASE two identical copies that verify are
written into the ring of the LEDGER_DIE that names the group, at the write index and wrapping, nowhere else; a delta that no
LEDGER_DIE names is dropped and counted, and one that does not fit is not written and sets LEDGER_RESYNC, which a write of the read
index clears. -/
def Obligations.DeltasAreWrittenIntoTheirRing : Prop :=
  (∀ (a : Arr) (d : DeltaRec) (s u : State), a.port < 2 →
    dieIn s a 10 (d.sgroup * 256 + d.closeStep.toNat % 256) (decide (d.status ≠ 0 ∧ d.status ≠ 0x13)) (fun s =>
      inTime s .tsu (d.release + BitVec.ofNat 64 s.tsu.turn.len)) = (u, .ok) →
    Completes (.batchDeltaReceive a d) s fun t =>
      let found := u.tsu.fab.deltas.find? fun x => x.sgroup == d.sgroup && x.step == d.closeStep
      (found = none → ∃ x ∈ t.tsu.fab.deltas, x.sgroup = d.sgroup ∧ x.step = d.closeStep ∧ x.resent = none ∧
        (a.port = 0 → x.a = some (d, u.now .tsu) ∧ x.b = none) ∧ (a.port = 1 → x.b = some (d, u.now .tsu) ∧ x.a = none)) ∧
      (∀ x, found = some x → x.resent = none → a.port = 0 → x.a = none →
        { x with a := some (d, u.now .tsu) } ∈ t.tsu.fab.deltas) ∧
      (∀ x, found = some x → x.resent = none → a.port = 1 → x.b ≠ none → x ∈ t.tsu.fab.deltas) ∧
      (∀ x, found = some x → x.resent ≠ none → a.port = 1 → { x with b2 := some d } ∈ t.tsu.fab.deltas) ∧
      t.tsu.fab.mem = u.tsu.fab.mem ∧ t.tsu.fab.dies = u.tsu.fab.dies ∧ TsuOnly s t) ∧
  (∀ (sg : Nat) (step : Step) (x : DeltaIn) (d : DeltaRec) (y : St) (s : State),
    (s.tsu.fab.deltas.find? fun x => x.sgroup == sg && x.step == step) = some x → x.resent = none →
    x.a = some (d, y) → x.b = some (d, y) → d.status = 0 →
    stLater y ((s.tsu.turn.stepStart (d.applyStep + 1)).getD (d.release + BitVec.ofNat 64 s.tsu.turn.len)) = false →
    Completes (.deltaRelease sg step) s fun t =>
      let go := stGe (s.now .tsu) d.release && stGe (s.now .tsu) y
      let n := (40 + 32 * d.elems.length + 7) / 8
      (go = false → t = s) ∧
      (go = true → ringOf s sg = none → t.tsu.fab = { s.tsu.fab with deltas := s.tsu.fab.deltas.erase x } ∧
        (t.base .tsu).ctr .ledgerNoRing 0 = (s.base .tsu).ctr .ledgerNoRing 0 + 1) ∧
      (∀ k, go = true → ringOf s sg = some k → deltaGood d = true → ringFree (tget {} s.tsu.fab.dies k) < n * 8 →
        t.tsu.fab.mem = s.tsu.fab.mem ∧ t.tsu.fab.deltas = s.tsu.fab.deltas.erase x ∧
        (tget {} t.tsu.fab.dies k).resync = true ∧ (tget {} t.tsu.fab.dies k).wp = (tget {} s.tsu.fab.dies k).wp) ∧
      (∀ k, go = true → ringOf s sg = some k → deltaGood d = true → n * 8 ≤ ringFree (tget {} s.tsu.fab.dies k) →
        bits (tget {} s.tsu.fab.dies k).config.toNat 28 16 = 0x1FFF →
        let g := tget {} s.tsu.fab.dies k
        let base := bits g.ring.toNat 15 0 * 8
        let size := bits g.ring.toNat 31 16 * 8
        (∀ j b, (deltaBytes d)[j]? = some b → tget 0 t.tsu.fab.mem (base + (g.wp * 8 + j) % size) = b) ∧
        (∀ j, j < base ∨ base + size ≤ j → tget 0 t.tsu.fab.mem j = tget 0 s.tsu.fab.mem j) ∧
        tget {} t.tsu.fab.dies k = { g with wp := (g.wp + n) % (size / 8) } ∧ t.tsu.fab.deltas = s.tsu.fab.deltas.erase x ∧
        t.tsu.sync.ctrs = s.tsu.sync.ctrs) ∧ TsuOnly s t) ∧
  (∀ (k : Nat) (v : BitVec 16) (s : State), k < 8 → Completes (.ldRpWrite k v) s fun t =>
    tget {} t.tsu.fab.dies k = { tget {} s.tsu.fab.dies k with rp := v.toNat, resync := false } ∧
    (∀ j, j ≠ k → tget {} t.tsu.fab.dies j = tget {} s.tsu.fab.dies j) ∧
    t = { s with tsu.fab.dies := t.tsu.fab.dies })

/-- Ledger cells at a distributor (R59, R61, R288, R289). A root holds an operation for its commit, merges the copy of the other plane
and counts one that comes too late; a stale request is answered EPOCH_STALE on both planes; any other distributor passes a message
from below upward as it came. A commit at a tick edge (R285, R287, R289, R290), for one operation held: none before LEDGER_INGEST
has passed. SUBMIT to a serving group of its slice takes the lowest FREE entry with its next GEN, QUEUED, or REFUSED for
PARTITION_FULL at the quota; the others change a matching entry of their own die by the table of R285 and no other entry. A DONE or
REFUSED entry is FREE again RETAIN_TIME after its EVENT. -/
def Obligations.OperationsHoldAndCommit : Prop :=
  ((∀ (a : Arr) (m : LedgerMsg) (s u : State), a.port < 128 → ledgerIn s a m = (u, .ok) → u.role = .root → 1 ≤ m.op → m.op ≤ 6 →
    Completes (.ledgerCellReceive a m) s fun t =>
      let late := stLater (u.now .dist) (m.submitSt + BitVec.ofNat 64 (ledgerIngest u))
      (late = true → t.dist.led = u.dist.led ∧ (t.base .dist).ctr .ledgerLateIn 0 = (u.base .dist).ctr .ledgerLateIn 0 + 1) ∧
      (late = false → (∃ x ∈ u.dist.led.ingest, x.msg.src = m.src ∧ x.msg.opId = m.opId ∧ x.msg.submitSt = m.submitSt) → t = u) ∧
      (late = false → (∀ x ∈ u.dist.led.ingest, ¬ (x.msg.src = m.src ∧ x.msg.opId = m.opId ∧ x.msg.submitSt = m.submitSt)) →
        t = { u with dist.led.ingest := u.dist.led.ingest ++ [{ msg := m, slice := a.slice, ce := a.ce, me := a.me }] }) ∧
      DistOnly s t) ∧
  (∀ (a : Arr) (m : LedgerMsg) (s u : State), a.port < 128 → ledgerIn s a m = (u, .stale) → u.role = .root → 1 ≤ m.op → m.op ≤ 6 →
    u.dist.mem.holdOut = false →
    Completes (.ledgerCellReceive a m) s fun t =>
      (∀ i ∈ [2 * nodeRow m.src, 2 * nodeRow m.src + 1], downOk u a.slice i = true → ∃ o r, CellWaits t .dist i o ∧
        o.body = .ledger r ∧ r.op = 7 ∧ r.status = 0x09 ∧ r.src = m.src ∧ r.opId = m.opId ∧ r.req = m.req) ∧
      t.dist.led = u.dist.led ∧ DistOnly s t) ∧
  (∀ (a : Arr) (m : LedgerMsg) (s u : State), a.port < 128 → ledgerIn s a m = (u, .ok) → u.role ≠ .root →
    portBelow u.role a.port = true →
    Completes (.ledgerCellReceive a m) s fun t =>
      (∀ i ∈ upPorts u m.opId.toNat, ∃ o, CellWaits t .dist i o ∧ o.body = .ledger m ∧ o.slice = a.slice ∧ o.ce = a.ce ∧
        o.me = a.me) ∧ t = { u with dist.b.ports := t.dist.b.ports }) ∧
  (∀ (s : State), s.role ≠ .root → exec .ledgerCommit s = .next s)) ∧
  ((∀ (x : Ingest) (s : State), s.role = .root → s.dist.led.ingest = [x] →
    Completes .ledgerCommit s fun t =>
      let m := x.msg
      let e := s.entry (m.req % 65536)
      let due := !stLater m.submitSt (tickSt (tickOf (s.now .dist)) - BitVec.ofNat 64 (ledgerIngest s))
      let own := e.state ≠ 0 ∧ e.gen = m.gen ∧ e.slice = x.slice ∧ e.ownerDie = dieIndex m.src ∧ e.pendCancel = false ∧
        e.pendPause = false
      (due = false → t = s) ∧
      (due = true → t.dist.led.ingest = []) ∧
      (∀ g r, due = true → m.op = 1 → s.sgroup m.entry.sgroup = some g → g.f.valid = true → g.f.slice = x.slice →
        freeReq s.dist.led.table = some r →
        let y := t.entry r
        y.gen = (s.entry r).gen + 1 ∧ y.slice = x.slice ∧ y.sgroup = m.entry.sgroup ∧ y.prio = m.entry.prio % 8 ∧
        y.tokens = m.entry.tokens ∧ y.arrival = m.submitSt ∧ y.ownerDie = dieIndex m.src ∧ y.ownerMbx = m.mbx ∧
        (m.entry.tokens.toNat < m.entry.maxLen.toNat → y.maxLen = m.entry.maxLen) ∧
        (quotaUse s.dist.led.table x.slice < quotaOf s.dist.led x.slice → y.state = 1 ∧ y.reason = 0) ∧
        (quotaOf s.dist.led x.slice ≤ quotaUse s.dist.led.table x.slice → y.state = 6 ∧ y.reason = 5) ∧
        ∀ k, k ≠ r → t.entry k = s.entry k) ∧
      (due = true → m.op = 1 → s.sgroup m.entry.sgroup = none → t.dist.led.table = s.dist.led.table) ∧
      (due = true → m.op = 1 → freeReq s.dist.led.table = none → t.dist.led.table = s.dist.led.table) ∧
      (due = true → m.op = 2 → t.dist.led.table = s.dist.led.table) ∧
      (due = true → 3 ≤ m.op → m.op ≤ 6 → own →
        (∀ k, k ≠ m.req % 65536 → t.entry k = s.entry k) ∧
        (m.op = 3 → e.state = 1 → t.entry (m.req % 65536) = { e with state := 3, reason := 0xB }) ∧
        (m.op = 3 → e.state = 2 → t.entry (m.req % 65536) = { e with pendPause := true }) ∧
        (m.op = 4 → e.state = 3 → t.entry (m.req % 65536) = { e with state := 1, reason := 0 }) ∧
        (m.op = 5 → e.state = 1 ∨ e.state = 3 → t.entry (m.req % 65536) = { e with state := 5, reason := 8 }) ∧
        (m.op = 5 → e.state = 2 ∨ e.state = 4 → t.entry (m.req % 65536) = { e with pendCancel := true }) ∧
        (m.op = 6 → e.state = 5 ∨ e.state = 6 → t.entry (m.req % 65536) = { e with state := 0, reason := 0 }) ∧
        (m.op = 6 → 1 ≤ e.state → e.state ≤ 4 → t.dist.led.table = s.dist.led.table)) ∧
      (due = true → 2 ≤ m.op → m.op ≤ 6 → e.gen ≠ m.gen ∨ (e.slice ≠ x.slice ∧ m.mbx ≠ 0) ∨ (m.op ≠ 2 ∧
        e.ownerDie ≠ dieIndex m.src ∧ m.mbx ≠ 0) → t.dist.led.table = s.dist.led.table) ∧ DistOnly s t) ∧
  (∀ (req : Nat) (at_ : St) (s : State), tget none s.dist.led.doneAt req = some at_ →
    Completes (.retainExpire req) s fun t =>
      let ended := (s.entry req).state = 5 ∨ (s.entry req).state = 6
      (ended → retainTime s ≤ elapsed (s.now .dist) at_ → t.entry req = { s.entry req with state := 0, reason := 0 } ∧
        tget none t.dist.led.doneAt req = none ∧ ∀ k, k ≠ req → t.entry k = s.entry k) ∧
      (¬ ended ∨ elapsed (s.now .dist) at_ < retainTime s → t = s) ∧ t = { s with dist.led := t.dist.led }))

/-- Closes (R292, R293, R298). The first CLOSE of a step from a member begins it and is logged; one from outside the group is counted
and changes nothing. The sampling result is handed over at its RELEASE, and applied once both planes' have come, one token to each
entry of the table in force. The wait for it ends after SAMPLE_WAIT. A close that no member began by ST_c + DELTA_LEAD is missed and
counted. The decision of a close (R294 to R300): nothing while its sampling result may still come. Then the batch is selected, at
most CAPACITY entries of it served, its table comes into force at the first boundary DELTA_LEAD after ST_c, and the delta to it,
whose CHECK covers its head and elements, goes out on the group's ports. A full selection at any table serves no more than CAPACITY.
Digests (R303, R354). A serving root holds another root's digest of a close; one that agrees with its own releases the outputs held
through an election; one that the third root shares against its own makes it take the majority's table, and is counted. -/
def Obligations.ClosesDecideAndAgree : Prop :=
  ((∀ (a : Arr) (m : LedgerMsg) (s u : State), a.port < 128 → ledgerIn s a m = (u, .ok) → u.role = .root → m.op = 9 → m.sg < 256 →
    Completes (.closeReceive a m) s fun t =>
      let stray := t.dist.led = u.dist.led ∧ (t.base .dist).ctr .closeStray 0 = (u.base .dist).ctr .closeStray 0 + 1
      (u.sgroup m.sg = none → stray) ∧
      (∀ g, u.sgroup m.sg = some g → g.f.valid = false ∨ g.f.slice ≠ a.slice ∨ tget none u.dist.fab.hgroups g.f.group = none → stray) ∧
      (∀ g p, u.sgroup m.sg = some g → g.f.valid = true → g.f.slice = a.slice →
        tget none u.dist.fab.hgroups g.f.group = some p →
        (p.mask.getLsbD (portPos .root a.port) = false → stray) ∧
        (p.mask.getLsbD (portPos .root a.port) = true → closeOver g m.step = true ∨ g.close ≠ none → t = u) ∧
        (p.mask.getLsbD (portPos .root a.port) = true → closeOver g m.step = false → g.close = none →
          t.sgroup m.sg = some { g with close := some { step := m.step, first := u.now .dist }, logStep := m.step, logArg := m.arg, logDie := dieIndex m.src } ∧
          (∀ k, k ≠ m.sg → t.sgroup k = u.sgroup k) ∧ t = { u with dist.led.sgs := t.dist.led.sgs })) ∧ DistOnly s t) ∧
  (∀ (sg : Nat) (step : Step) (g : SGroup) (x : SampleIn) (s : State), s.sgroup sg = some g → g.sampleA = some x → x.step = step →
    x.at_ = none →
    Completes (.samplingResultReceive sg step .a) s fun t =>
      (stGe (s.now .dist) x.release = false → g.sampleB = none → ∀ k, t.sgroup k = s.sgroup k) ∧
      (stGe (s.now .dist) x.release = true → g.sampleB = none →
        t.sgroup sg = some { g with sampleA := some { x with at_ := some (s.now .dist) } } ∧ t.dist.led.table = s.dist.led.table) ∧
      (∀ (y : SampleIn) (z : St) (k v : Nat), stGe (s.now .dist) x.release = true → g.sampleB = some y → y.step = step →
        y.at_ = some z → sampleGood x = true → sampleGood y = true → g.applied = none → closeOver g (step + 1) = false →
        g.tableAt step = [(k, v)] → counted (s.entry (slotReq v)) = true → (s.entry (slotReq v)).gen.toNat = slotGen v →
        (t.entry (slotReq v)).tokens = (s.entry (slotReq v)).tokens + 1 ∧ (∀ r, r ≠ slotReq v → t.entry r = s.entry r) ∧
        (t.sgroup sg).map (·.applied) = some (some step)) ∧ DistOnly s t) ∧
  (∀ (sg : Nat) (step : Step) (g : SGroup) (c : CloseRec) (s : State), s.sgroup sg = some g → g.close = some c →
    Completes (.ledgerSampleWaitExpire sg step) s fun t =>
      let go := c.step = step ∧ c.ready = none ∧ stGe (s.now .dist) (closeSt s g step + BitVec.ofNat 64 (sampleWait s)) = true
      (¬ go → t = s) ∧
      (go → t.sgroup sg = some { g with close := some { c with ready := some (s.now .dist) } } ∧
        ∀ k, k ≠ sg → t.sgroup k = s.sgroup k) ∧ t = { s with dist.led.sgs := t.dist.led.sgs }) ∧
  (∀ (sg : Nat) (g : SGroup) (n : Step) (s : State), g.f.slice < 64 → s.sgroup sg = some g → lastPast s g g.f.deltaLead = some n →
    Completes (.closeMissed sg) s fun t =>
      let go := s.role = .root ∧ g.f.valid = true ∧ g.close = none ∧ closeOver g n = false
      (¬ go → t = s) ∧
      (go → t.sgroup sg = some { g with last := some n } ∧ t.dist.led.table = s.dist.led.table ∧
        (t.base .dist).ctr .closeMissed 0 = (s.base .dist).ctr .closeMissed 0 + 1) ∧ DistOnly s t)) ∧
  ((∀ (g : SGroup) (sg : Nat) (n : Step) (t : LTab) (late : Nat → Bool) (due : Nat → St),
    (closeSelect g sg n t late due).served ≤ g.f.capacity) ∧
  (∀ (sg : Nat) (g : SGroup) (c : CloseRec) (s : State), s.sgroup sg = some g → g.close = some c →
    s.role ≠ .root ∨ sampleReady s g c = false → exec (.closeDecide sg) s = .next s) ∧
  (∀ (sg : Nat) (g : SGroup) (c : CloseRec) (a : Step) (release : St) (s : State), s.sgroup sg = some g → g.close = some c →
    s.role = .root → sampleReady s g c = true → g.sampleA = none → g.sampleB = none → g.f.slice < 64 →
    s.dist.mem.holdOut = false →
    (s.turning .dist g.f.slice).boundaryAfter (closeSt s g c.step + BitVec.ofNat 64 g.f.deltaLead) = some (a, release) →
    Completes (.closeDecide sg) s fun t =>
      let late := fun r => (tget none s.dist.led.changed r).any fun x =>
        stLater x (closeSt s g c.step - BitVec.ofNat 64 (ledgerIngest s))
      let due := fun k => (((s.turning .dist g.f.slice).stepStart (a + BitVec.ofNat 48 k)).getD release)
        + BitVec.ofNat 64 g.f.tokenOfs
      let o := closeSelect g sg c.step s.dist.led.table late due
      t.dist.led.table = o.t ∧
      (∃ h, t.sgroup sg = some h ∧ h.table = o.slots ∧ h.tables.getLast? = some (a, o.slots) ∧ h.close = none ∧
        h.last = some c.step ∧ h.closes = g.closes + 1 ∧ h.f = g.f) ∧
      (∀ k, k ≠ sg → t.sgroup k = s.sgroup k) ∧
      (t.base .dist).ctr .ledgerServed g.f.slice = (s.base .dist).ctr .ledgerServed g.f.slice + o.served ∧
      (t.base .dist).ctr .ledgerDelayed g.f.slice = (s.base .dist).ctr .ledgerDelayed g.f.slice + o.delayed ∧
      (t.base .dist).ctr .ledgerRefused g.f.slice = (s.base .dist).ctr .ledgerRefused g.f.slice + o.refused ∧
      (∃ d, t.dist.led.kept.getLast? = some (d, g.f.slice, s.now .dist) ∧ d.sgroup = sg ∧ d.closeStep = c.step ∧
        d.applyStep = a ∧ d.release = release ∧ d.capacity = g.f.capacity ∧ d.check = crc32c (deltaBody d) ∧
        ∀ i ∈ deltaPorts t g.f.slice sg 0, ∃ x, CellWaits t .dist i x ∧ x.body = .delta d) ∧ DistOnly s t)) ∧
  (∀ (port sg r : Nat) (n : Step) (crc : W32) (v : Vote) (maj : List (Nat × Nat)) (s u : State), port < 128 → sg < 256 →
    voteIn s port v = (u, true) → v.body = .digest sg n crc → servesRoot u = true →
    ((List.range 3).find? fun r => v.src == rootNode u r) = some r → r ≠ ownRootIx u → ownRootIx u < 3 →
    Completes (.ledgerDigestReceive port v maj) s fun t =>
      let own := digestOf u (ownRootIx u) sg n
      let third := fun x => x < 3 ∧ x ≠ r ∧ x ≠ ownRootIx u
      digestOf t r sg n = some crc ∧ t.dist.led.table = u.dist.led.table ∧
      (own = none → ∀ k, t.sgroup k = u.sgroup k) ∧
      (own = some crc → (∀ k, t.sgroup k = u.sgroup k) ∧
        (u.dist.mem.holdOut = true → t.dist.mem.holdOut = false ∧ t.dist.led.heldOut = [])) ∧
      (∀ x y, own = some y → y ≠ crc → third x → digestOf u x sg n ≠ some crc → ∀ k, t.sgroup k = u.sgroup k) ∧
      (∀ x y g, own = some y → y ≠ crc → third x → digestOf u x sg n = some crc → u.sgroup sg = some g →
        (∃ h, t.sgroup sg = some h ∧ h.f = g.f ∧ h.closes = g.closes ∧ (∀ i q, maj = [(i, q)] → i < 4096 → q < 65536 →
          tget 0 h.table i = 1 + q + (u.entry q).gen.toNat * 65536)) ∧
        (t.base .dist).ctr .ledgerDiverge 0 = (u.base .dist).ctr .ledgerDiverge 0 + 1) ∧ DistOnly s t)

/-- Slice step resets (R312, R323 to R325). A die's command is carried to the roots; the leading root holds it and announces one CE
value for it; a mailbox that may not reset the slice is DENIED. At the announced tick a die drops its armed entries and deltas and
sets every counter to 0, a distributor frees the slice's posts, barrier records and votes and queues the slice's ACTIVE and
FINISHING entries again, both drop the slice's waiting cells and pending turning changes, and the reset's CE is the one then in
force. Not before. -/
def Obligations.SliceResetsClearTheSlice : Prop :=
  (∀ (c : Cmd) (slice : Nat) (s : State), hsReady s c = true → c.mbx ≤ 3 →
    Completes (.sliceReset c slice) s fun t =>
      (64 ≤ slice → Answers c 0x0038 .badCommand t) ∧
      (slice < 64 → resetAllowed s c slice = false → Answers c 0x0038 .denied t ∧ t.tsu.turn = s.tsu.turn) ∧
      (slice < 64 → resetAllowed s c slice = true → c.part = .tsu → CarriedToRoots c 0x0038 s t ∧
        (s.tsu.die.sliceId = slice → t.tsu.turn = { s.tsu.turn with resetPending := true })) ∧
      (slice < 64 → c.part = .dist → isLeader s = true → Answers c 0x0038 .pending t ∧
        t.dist.sv.resets = s.dist.sv.resets ++ [(c, slice)] ∧ (t.turning .dist slice).resetPending = true ∧
        ((s.turning .dist slice).resetPending = false → ∃ n x, (t.turning .dist slice).resetTick = some n ∧
          x ∈ t.dist.b.ep.pend ∧ x.tick = n ∧ x.ce ≠ none)) ∧ PartOnly c.part s t) ∧
  (∀ (p : Part) (slice : Nat) (n : Tick) (s : State), slice < 64 → (s.turning p slice).resetTick = some n →
    tickDiff (tickOf (s.now p)) n < 0 → exec (.sliceResetEffect p slice) s = .next s) ∧
  (∀ (p : Part) (slice : Nat) (n : Tick) (s : State), slice < 64 → (s.turning p slice).resetTick = some n →
    0 ≤ tickDiff (tickOf (s.now p)) n → (p = .tsu → s.tsu.die.sliceValid = true ∧ s.tsu.die.sliceId = slice) →
    (s.turning p slice).resetPending = true →
    resetCeOf (adoptEpochs s p) p slice ≠ some ((adoptEpochs s p).base p).ep.ce →
    Completes (.sliceResetEffect p slice) s fun t =>
      resetCeOf t p slice = some (t.base p).ep.ce ∧ (t.base p).ep.ce = ((adoptEpochs s p).base p).ep.ce ∧
      (t.turning p slice).changes = [] ∧ (t.turning p slice).resetPending = false ∧
      (p = .tsu → (∀ i, tget [] (t.port .tsu i).tx.p2 slice = []) ∧ t.tsu.plate.armed = [] ∧ t.tsu.fab.deltas = [] ∧
        t.tsu.fab.done = [] ∧ (∀ k, (ctrOf t k).value = 0) ∧ t.tsu.die.ctx = none) ∧
      (p = .dist → t.dist.fab.posts = s.dist.fab.posts.filter (fun q => q.slice != slice) ∧
        t.dist.fab.bars = s.dist.fab.bars.filter (fun b => b.slice != slice) ∧
        t.dist.fab.votes = s.dist.fab.votes.filter (fun v => v.slice != slice) ∧
        (∀ r, (s.entry r).slice = slice → (s.entry r).state = 2 ∨ (s.entry r).state = 4 →
          t.entry r = { s.entry r with state := 1, reason := 9, slot := 0xFFFF }) ∧
        t.dist.sv.resets = s.dist.sv.resets.filter (fun r => r.2 != slice) ∧
        (∀ c, s.dist.sv.resets.filter (fun r => r.2 == slice) = [(c, slice)] → Answers (ofPart .dist c) 0x0038 .ok t)) ∧
      PartOnly p s t)

/-- MEMBERSHIP_EFFECT (R40, R344 to R348, R367): not before the decision's tick. Then ME takes its new value, and a change applies: to
the die itself (a member joins, a quarantined one drops its armed entries, a parting one is PARTED), to a plane of the die whose
distributor goes (blocked and not usable), and at a distributor to the record of the part and to its own service state. Reports and
decisions (R339, R341, R345). A root enters a new report in the accused die's tally; below QUAR_COUNT events in the window the die
is SUSPECT, and with the event that reaches it the root proposes its quarantine. A proposal of another root stands as its vote, and
the second vote decides: the acting root announces it with the next ME. A part keeps a decision that it is told until its tick. -/
def Obligations.ReportsLeadToDecisions : Prop :=
  ((∀ (p : Part) (s : State), (∀ d ∈ (s.base p).due, tickDiff (tickOf (s.now p)) d.tick < 0) →
    exec (.membershipEffect p) s = .next s) ∧
  (∀ (c : Change) (d : MemberDue) (s : State), s.tsu.b.due = [d] → d.changes = [c] → 0 ≤ tickDiff (tickOf (s.now .tsu)) d.tick →
    Completes (.membershipEffect .tsu) s fun t =>
      t.tsu.b.due = [] ∧ t.tsu.b.ep.me = d.me ∧
      (c.node = s.node .tsu → c.state = 0 → t.tsu.die.member = true ∧ t.tsu.die.suspect = false) ∧
      (c.node = s.node .tsu → c.state = 2 → t.tsu.die.quar = true ∧ t.tsu.die.member = false ∧ t.tsu.plate.armed = [] ∧
        t.tsu.sync.sigOut = []) ∧
      (c.node = s.node .tsu → c.state = 7 → t.tsu.die.member = false ∧ t.tsu.plate.armed = [] ∧
        (s.tsu.die.state = .parting → t.tsu.die.state = .parted)) ∧
      (∀ k, c.node ≠ s.node .tsu → nodeKind c.node ≠ 0 → planeBit s c.node = some k → c.state = 3 ∨ c.state = 4 ∨ c.state = 6 →
        t.tsu.die.planeOff.getLsbD k = true ∧ (t.port .tsu (k % 2)).mark.blocked = true ∧
        (t.port .tsu (k % 2)).mark.usable = false) ∧ TsuOnly s t) ∧
  (∀ (c : Change) (d : MemberDue) (s : State), s.dist.b.due = [d] → d.changes = [c] →
    0 ≤ tickDiff (tickOf (s.now .dist)) d.tick →
    Completes (.membershipEffect .dist) s fun t =>
      let n := t.nodeRec c.node
      n.changeMe = d.me ∧ (c.state = 0 → n.known = true ∧ n.status = 0 ∧ n.draining = false) ∧
      (c.state = 2 ∨ c.state = 3 ∨ c.state = 4 → n.known = true ∧ n.status = c.state) ∧
      (c.state = 6 → n.draining = true) ∧ (c.state = 7 → n.known = false ∧ n.status = 7) ∧
      (c.node = s.node .dist → (c.state = 0 → t.dist.sv.state = .inService) ∧ (c.state = 3 → t.dist.sv.state = .fenced) ∧
        (c.state = 4 → t.dist.sv.state = .drained) ∧ (c.state = 6 → t.dist.sv.state = .draining)) ∧ DistOnly s t)) ∧
  ((∀ (port : Nat) (r : Report) (v : Vote) (s u : State), port < 128 → voteIn s port v = (u, true) → v.body = .report r →
    servesRoot u = true → ((List.range 3).find? fun x => rootNode u x == v.src) = none → r.hard = false → nodeKind r.accused = 0 →
    (∀ e ∈ (u.nodeRec r.accused).events, ¬ (e.1 = v.eventSt ∧ e.2.2.2.1 = v.src ∧ e.2.2.2.2 = r.cause)) →
    (∀ e ∈ u.dist.mem.nodes, e.2.fresh = false) → (u.nodeRec r.accused).known = true → (u.nodeRec r.accused).status ≤ 1 →
    (u.nodeRec r.accused).probation = false → elapsed (u.now .dist) v.eventSt ≤ quarWindow u →
    Completes (.reportReceive port v) s fun t =>
      (∃ l, (t.nodeRec r.accused).events = (v.eventSt, false, r.split, v.src, r.cause) :: l) ∧
      (t.nodeRec r.accused).last = v.eventSt ∧ (t.nodeRec r.accused).fresh = false ∧
      ((recentEvents u r.accused).length + 1 < quarCount u → (t.nodeRec r.accused).status = 1 ∧
        t.dist.mem.proposals = u.dist.mem.proposals ∧ t.dist.b.ports = u.dist.b.ports) ∧
      (quarCount u ≤ (recentEvents u r.accused).length + 1 → r.accused ≠ u.node .dist → u.dist.mem.proposals = [] →
        u.dist.mem.held = [] → u.dist.b.due = [] → quorum u = 2 →
        t.dist.mem.proposals = [{ change := { node := r.accused, state := 2, cause := r.cause }, by_ := [u.node .dist] }]) ∧
      DistOnly s t) ∧
  (∀ (port : Nat) (c : Change) (v : Vote) (s u : State), port < 128 → voteIn s port v = (u, true) → v.body = .propose [c] →
    servesRoot u = true → ((rootsIn u).any fun r => rootNode u r == v.src) = true → c.node ≠ v.src → quorum u = 2 →
    Completes (.proposeReceive port v) s fun t =>
      (u.dist.mem.proposals = [] → t = { u with dist.mem.proposals := [{ change := c, by_ := [v.src] }] }) ∧
      (∀ n k, u.dist.mem.proposals = [{ change := c, by_ := [n] }] → n ≠ v.src → u.dist.mem.electing = false →
        actingRoot u [c] = some (ownRootIx u) → u.dist.b.due = [] → announceTick u = some k →
        t.dist.mem.proposals = [] ∧ t.dist.b.due = [{ changes := [c], me := u.dist.b.ep.me + 1, tick := k, decided := tickOf (u.now .dist) }] ∧
        ∃ x ∈ t.dist.b.ep.pend, x.tick = k ∧ x.me = some (u.dist.b.ep.me + 1)) ∧ DistOnly s t) ∧
  (∀ (port : Nat) (cs : List Change) (me : Epoch) (k : Tick) (v : Vote) (s : State), port < 2 → v.body = .member cs me k →
    s.tsu.b.due = [] →
    (voteFresh s .tsu v = true → exec (.memberReceive .tsu port v) s = .next { s with tsu.b.due := [{ changes := cs, me, tick := k, decided := tickOf (s.now .tsu) }] }) ∧
    (voteFresh s .tsu v = false → exec (.memberReceive .tsu port v) s = .next s)) ∧
  (∀ (port : Nat) (cs : List Change) (me : Epoch) (k : Tick) (v : Vote) (s u : State), port < 128 → v.body = .member cs me k →
    voteIn s port v = (u, true) → u.dist.b.due = [] →
    exec (.memberReceive .dist port v) s = .next { u with dist.b.due := [{ changes := cs, me, tick := k, decided := tickOf (u.now .dist) }] }))

/-- Fences and standing (R336, R337, R341, R344, R348). A die blocks the plane that a notice names. A row distributor whose every port
to a part below has been out for FENCE_WAIT raises the hard event against it. A SUSPECT part without an event for SUSPECT_CLEAR is
in service again, and probation ends at its time. An uncorrectable error is a hard event of the part against itself, with the alert;
an expired watchdog counts and is a suspect event. -/
def Obligations.FencesAndStandingFollowTheirTimes : Prop :=
  (∀ (port k : Nat) (n : Node) (me : Epoch) (v : Vote) (s : State), port < 2 → v.body = .fenceNotice n me →
    voteFresh s .tsu v = true → planeBit s n = some k →
    Completes (.fenceNoticeReceive port v) s fun t =>
      t.tsu.die.planeOff.getLsbD k = true ∧ (t.port .tsu (k % 2)).mark.blocked = true ∧
      (t.port .tsu (k % 2)).mark.usable = false ∧ t.tsu.b.ep = s.tsu.b.ep ∧ TsuOnly s t) ∧
  (∀ (node : Node) (pos : Nat) (s : State), belowPos s node = some pos → nodeKind node ≠ 0 →
    ((posPorts s pos).all (outFor s) = false → exec (.fenceWaitExpire node) s = .next s) ∧
    ((posPorts s pos).all (outFor s) = true → s.role = .row → P1Room s 4 →
      Completes (.fenceWaitExpire node) s fun t =>
        (∀ i ∈ uplinks s .dist, (s.port .dist i).live = true → ReportWaits t .dist i node true causeFence) ∧
        (∀ i ∈ posPorts s pos, (t.port .dist i).link.outAt = none) ∧ DistOnly s t)) ∧
  (∀ (node : Node) (s : State), servesRoot s = true → (s.nodeRec node).known = true → (s.nodeRec node).status = 1 →
    (elapsed (s.now .dist) (s.nodeRec node).last < suspectClear s → exec (.suspectClearExpire node) s = .next s) ∧
    (suspectClear s ≤ elapsed (s.now .dist) (s.nodeRec node).last → Completes (.suspectClearExpire node) s fun t =>
      t.nodeRec node = { s.nodeRec node with status := 0, pairAmbiguous := false } ∧
      (∀ n, n ≠ node → t.nodeRec n = s.nodeRec n) ∧ t = { s with dist.mem.nodes := t.dist.mem.nodes })) ∧
  (∀ (node : Node) (x : St) (s : State), (s.nodeRec node).probEnd = some x →
    (stGe (s.now .dist) x = false → exec (.probationEnd node) s = .next s) ∧
    (stGe (s.now .dist) x = true → Completes (.probationEnd node) s fun t =>
      t.nodeRec node = { s.nodeRec node with probation := false, probEnd := none } ∧
      (∀ n, n ≠ node → t.nodeRec n = s.nodeRec n) ∧ t = { s with dist.mem.nodes := t.dist.mem.nodes })) ∧
  (∀ (p : Part) (s : State), Completes (.eccUncorrectable p) s fun t =>
    (t.base p).hs.alert.getLsbD (match p with | .tsu => 6 | .dist => 8) = true ∧
    (p = .tsu → ∃ i, ReportWaits t .tsu i (s.node .tsu) true causeEcc) ∧ PartOnly p s t) ∧
  (∀ (p : Part) (pc : W32) (s : State), Completes (.watchdogExpire p pc) s fun t =>
    (t.base p).hs.wdResets = (s.base p).hs.wdResets + 1 ∧
    (p = .tsu → ∃ i, ReportWaits t .tsu i (s.node .tsu) false causeWatchdog) ∧ PartOnly p s t)

/-- Lost roots and elections (R350 to R355). A root counts a row distributor's report, and a majority makes a root lost. A candidate
accepts an offer that names it and opens its copy; the accept of an offer made is noted, and the second announces the triad; an
offer unanswered for 16 ticks is passed over. The triad takes effect at its tick and each row leaves ELECTION_HOLD; without accepts
by ELECT_LIMIT the survivor goes on alone and its outputs go out. A member stores the bytes of a copy, and loads the image once it
is whole. -/
def Obligations.ElectionsRestoreATriad : Prop :=
  (∀ (port : Nat) (lost : BitVec 3) (v : Vote) (s u : State), port < 128 → voteIn s port v = (u, true) → v.body = .rootLoss lost →
    servesRoot u = true → nodeKind v.src = 2 →
    Completes (.rootLossReceive port v) s fun t =>
      let u' := { u with dist.mem.lossReports := tset 0 u.dist.mem.lossReports v.src.toNat lost }
      t.dist.mem.lossReports = u'.dist.mem.lossReports ∧ t.dist.led = u.dist.led ∧
      (∀ r, r < 3 → t.dist.mem.lostRoots.getLsbD r =
        (u.dist.mem.lostRoots.getLsbD r || (r != ownRootIx u && mostReport u' r))) ∧ DistOnly s t) ∧
  (∀ (port i : Nat) (snap : Tick) (v : Vote) (s u : State), port < 128 → voteIn s port v = (u, true) → v.body = .electOffer i snap →
    v.dst = u.node .dist →
    (candidateHere u = false → exec (.electOfferReceive port v) s = .next u) ∧
    (candidateHere u = true → P1Room u 1 → Completes (.electOfferReceive port v) s fun t =>
      t.dist.mem = { u.dist.mem with copyActive := true, snapTick := snap, copied := [] } ∧
      (∃ o w, CellWaits t .dist port o ∧ o.body = .vote w ∧ w.body = .electAccept i ∧ w.dst = v.src ∧ w.src = u.node .dist) ∧
      DistOnly s t)) ∧
  (∀ (port i : Nat) (k : Tick) (v : Vote) (s u : State), port < 128 → voteIn s port v = (u, true) → v.body = .electAccept i →
    u.dist.mem.electing = true → (i, v.src, k) ∈ u.dist.mem.offers → (∀ a ∈ u.dist.mem.accepts, a.1 ≠ i) →
    Completes (.electAcceptReceive port v) s fun t =>
      t.dist.mem.accepts = u.dist.mem.accepts ++ [(i, v.src)] ∧
      (∀ a n, u.dist.mem.accepts = [a] → u.role = .root → u.dist.b.triadDue = none → announceTick u = some n →
        t.dist.b.triadDue = some { members := [(ownRootIx u, u.node .dist), a, (i, v.src)], leader := ownRootIx u, tick := n }) ∧
      DistOnly s t) ∧
  (∀ (i : Nat) (o : Nat × Node × Tick) (s : State), (s.dist.mem.offers.find? fun o => o.1 == i) = some o →
    s.dist.mem.electing = true → (∀ a ∈ s.dist.mem.accepts, a.1 ≠ i) →
    (tickDiff (tickOf (s.now .dist)) o.2.2 < 16 → exec (.electOfferTimeout i) s = .next s) ∧
    (16 ≤ tickDiff (tickOf (s.now .dist)) o.2.2 → Completes (.electOfferTimeout i) s fun t =>
      t.dist.mem.refusedBy = s.dist.mem.refusedBy ++ [o.2.1] ∧ t.dist.mem.accepts = s.dist.mem.accepts ∧
      (∃ l, t.dist.mem.offers = s.dist.mem.offers.erase o ++ l) ∧ DistOnly s t)) ∧
  (∀ (port leader : Nat) (ms : List (Nat × Node)) (k : Tick) (v : Vote) (s : State), v.body = .triadSet ms leader k →
    (port < 2 → voteFresh s .tsu v = true → exec (.triadSetReceive .tsu port v) s = .next { s with tsu.b.triadDue := some { members := ms, leader, tick := k } }) ∧
    (∀ u, port < 128 → voteIn s port v = (u, true) → exec (.triadSetReceive .dist port v) s = .next { u with dist.b.triadDue := some { members := ms, leader, tick := k } })) ∧
  (∀ (p : Part) (d : TriadDue) (s : State), (s.base p).triadDue = some d →
    (tickDiff (tickOf (s.now p)) d.tick < 0 → exec (.triadEffect p) s = .next s) ∧
    (0 ≤ tickDiff (tickOf (s.now p)) d.tick → Completes (.triadEffect p) s fun t =>
      (t.base p).triadDue = none ∧ (t.base p).ep.leader = BitVec.ofNat 2 d.leader ∧
      (p = .dist → t.dist.mem.electing = false ∧ t.dist.mem.offers = [] ∧ t.dist.mem.lossReports = [] ∧
        (∀ i n, d.members = [(i, n)] → tget 0 t.dist.mem.triad i = n) ∧
        (t.dist.mem.elected = true ↔ ∃ x ∈ d.members, x.2 = s.node .dist ∧ nodeKind x.2 = 2) ∧
        (s.role = .row → t.dist.b.t.electHold = false)) ∧ PartOnly p s t)) ∧
  (∀ (s : State), elapsed (s.now .dist) s.dist.mem.electAt < electLimit s → exec .electLimitExpire s = .next s) ∧
  (∀ (s : State), electLimit s ≤ elapsed (s.now .dist) s.dist.mem.electAt →
    Completes .electLimitExpire s fun t =>
      (s.role ≠ .row → s.dist.mem.electing = true → s.dist.b.triadDue = none → s.dist.mem.accepts = [] →
        t.dist.mem.electing = false ∧ t.dist.mem.soleRoot = true ∧ t.dist.mem.unchecked = true ∧ t.dist.mem.holdOut = false ∧
        t.dist.led.heldOut = []) ∧
      (s.role = .row → t.dist.mem = s.dist.mem ∧
        (s.dist.b.t.electHold = true → (∃ r, r < 3 ∧ rootVerified s r = true) → t.dist.b.t.electHold = false)) ∧ DistOnly s t) ∧
  (∀ (port at_ : Nat) (data : List Byte) (v : Vote) (s u : State), port < 128 → voteIn s port v = (u, true) →
    v.body = .copy at_ data → u.dist.mem.copyActive = true → v.dst = u.node .dist →
    Completes (.copyReceive port v) s fun t =>
      (∀ k b, data[k]? = some b → tget 0 t.dist.mem.copied (at_ + k) = b) ∧
      (∀ k, k < at_ ∨ at_ + data.length ≤ k → tget 0 t.dist.mem.copied k = tget 0 u.dist.mem.copied k) ∧
      t = { u with dist.mem.copied := t.dist.mem.copied }) ∧
  (∀ (s : State), (s.dist.mem.copyActive = false ∨ s.dist.mem.elected = false → exec .ledgerReplayComplete s = .next s) ∧
    (s.dist.mem.copyActive = true → s.dist.mem.elected = true → Completes .ledgerReplayComplete s fun t =>
      t.dist.led = imageLoad s.dist.mem.copied s.dist.led ∧ t.dist.mem = { s.dist.mem with copyActive := false, copied := [] } ∧
      DistOnly s t))

/-- Resets and boot (R54, R55, R359, R377 to R382, R452, R478, R479, R495). A reset of a part clears it with its ports DOWN and keeps
its fuses; a release counts. FW_GO starts the boot ROM once. An image that passes every test of R380 runs, its guards held to their
hardware maxima and locked; a die's that fails shows the test and the alert, and a distributor tries the other slot. The first write
of a position locks it and names the node. -/
def Obligations.ResetsAndBootFollowTheRom : Prop :=
  (∀ (s : State), Completes .tsuRstNAssert s fun t => t.tsu.die.state = .blank ∧ t.tsu.die.inReset = true ∧
    t.tsu.b.t.held = false ∧ (∀ i, (t.port .tsu i).link.state = .down) ∧ t.tsu.b.fr = {} ∧ t.tsu.fab.mem = [] ∧
    t.tsu.b.hs.running = false ∧ t.tsu.b.hs.minSec = s.tsu.b.hs.minSec ∧ t.tsu.b.hs.revoked = s.tsu.b.hs.revoked ∧
    t.tsu.b.hs.bootCount = s.tsu.b.hs.bootCount ∧ TsuOnly s t) ∧
  (∀ (s : State), (s.tsu.die.inReset = false → exec .tsuResetRelease s = .next s) ∧
    (s.tsu.die.inReset = true → exec .tsuResetRelease s = .next { s with tsu := { s.tsu with
      die := { s.tsu.die with inReset := false }, b := { s.tsu.b with hs := { s.tsu.b.hs with bootCount := s.tsu.b.hs.bootCount + 1 } } } })) ∧
  (∀ (addr : W64) (s : State),
    (s.tsu.die.inReset = true ∨ s.tsu.b.hs.boot = 1 ∨ s.tsu.b.hs.boot = 2 → exec (.fwGo addr) s = .next s) ∧
    (s.tsu.die.inReset = false → s.tsu.b.hs.boot ≠ 1 → s.tsu.b.hs.boot ≠ 2 → exec (.fwGo addr) s = .next
      { s with tsu := { s.tsu with b := { s.tsu.b with hs := { s.tsu.b.hs with fwAddr := addr, boot := 1 } } } })) ∧
  (∀ (p : Part) (h h2 : FwHdr) (k k2 : FwChecks) (s : State),
    ((s.base p).hs.boot ≠ 1 → exec (.bootComplete p h k h2 k2) s = .next s) ∧
    ((s.base p).hs.boot = 1 → Completes (.bootComplete p h k h2 k2) s fun t =>
      let passes := fun (h : FwHdr) (k : FwChecks) => k.readOk = true ∧ h.magic = 0x50564853 ∧
        h.target = (match p with | .tsu => 1 | .dist => 2) ∧ h.keyIndex ≤ 3 ∧ (s.base p).hs.revoked.getLsbD h.keyIndex = false ∧
        k.keyHashOk = true ∧ (s.base p).hs.minSec.toNat ≤ h.secVersion.toNat ∧ k.sigOk = true ∧ k.digestOk = true
      let x := (t.base p).hs
      (passes h k → x.running = true ∧ x.guardLock = true ∧ x.boot = 2 ∧ x.fwVersion = h.fwVersion ∧
        x.minSec = (if h.raiseMin then h.secVersion else (s.base p).hs.minSec) ∧
        ((x.guards[3]?).getD 0).toNat ≤ 256 ∧ ((x.guards[2]?).getD 0).toNat ≤ 2 ^ 46) ∧
      (p = .tsu → ¬ passes h k → x.running = (s.base p).hs.running ∧ 3 ≤ x.boot ∧ x.boot ≤ 9 ∧ x.alert.getLsbD 4 = true ∧
        (k.readOk = false → x.boot = 9)) ∧
      (p = .dist → ¬ passes h k → passes h2 k2 → x.running = true ∧ x.slotBooted = 1 - (s.base p).hs.bootSlot ∧
        x.fallback = true ∧ x.fwVersion = h2.fwVersion ∧ x.alert.getLsbD 7 = true) ∧
      (p = .dist → ¬ passes h k → ¬ passes h2 k2 → x.running = (s.base p).hs.running ∧ 3 ≤ x.boot ∧ x.alert.getLsbD 7 = true) ∧
      PartOnly p s t)) ∧
  (∀ (role : BitVec 2) (pb rc : Bool) (smb : BitVec 3) (s : State), s.dist.sv.strapped = false ∨ s.dist.sv.inReset = true →
    Completes (.powerOnReset role pb rc smb) s fun t =>
      let v := t.dist.sv
      t.role = (if role = 1 then .rack else if role = 2 then .row else if role = 3 then .root else .none_) ∧
      v.strapped = true ∧ v.inReset = false ∧ v.smb = smb ∧ v.posLock = false ∧ v.state = .offline ∧
      (role ≠ 3 → v.planeB = pb) ∧ (role = 2 → v.rootCapable = rc) ∧ t.dist.b.hs.boot = 1 ∧ t.dist.b.node = none ∧
      t.dist.b.t.held = false ∧ (v.dark = true ↔ s.dist.sv.present = false) ∧ DistOnly s t) ∧
  (∀ (role : BitVec 2) (pb rc : Bool) (smb : BitVec 3) (s : State), s.dist.sv.strapped = true → s.dist.sv.inReset = false →
    exec (.powerOnReset role pb rc smb) s = .next s) ∧
  (∀ (i : Instr) (s : State), i = .dResetNAssert ∨ i = .powerGoodLoss → Completes i s fun t =>
    t.dist.sv.inReset = true ∧ t.role = .none_ ∧ t.dist.b.hs.running = false ∧ (∀ k, (t.port .dist k).link.state = .down) ∧
    t.dist.b.hs.minSec = s.dist.b.hs.minSec ∧ t.dist.b.hs.slots = s.dist.b.hs.slots ∧
    (i = .powerGoodLoss → t.dist.b.hs.bootCount = 0) ∧
    (i = .dResetNAssert → t.dist.b.hs.bootCount = s.dist.b.hs.bootCount) ∧ DistOnly s t) ∧
  (∀ (v : W64) (s : State), (s.dist.sv.posLock = true → exec (.nodePositionWrite v) s = .next s) ∧
    (s.dist.sv.posLock = false → s.dist.b.hs.running = true → bits v.toNat 11 10 ≤ 2 → Completes (.nodePositionWrite v) s fun t =>
      t.dist.sv.posLock = true ∧ t.dist.sv.position.toNat = bits v.toNat 11 0 ∧
      (s.role = .rack → t.dist.b.node = some (mkNode 1 (bits v.toNat 4 0) (bits v.toNat 9 5) 0 (bit s.dist.sv.planeB) 0)) ∧
      (s.role = .row → t.dist.b.node = some (mkNode 2 (bits v.toNat 4 0) 0 0 (bit s.dist.sv.planeB) 0)) ∧
      (s.role = .root → t.dist.b.node = some (mkNode 3 0 0 0 0 (bits v.toNat 11 10))) ∧
      (s.role ≠ .none_ → t.dist.sv.state = .joining) ∧ DistOnly s t))

/-- Joining (R357, R360 to R362, R372, R377, R408). A die not LOCKED in time shows TRUING_SLOW. A part that has settled and may join
sends JOIN_READY, and again each 1 ms. A root keeps the report, and discards one of an earlier boot. A part in service answers a
request for its state; a joining one loads a copy whose digest matches, and nothing else. -/
def Obligations.PartsJoinWhenTheyAreReady : Prop :=
  (∀ (x : St) (s : State), s.tsu.die.state = .truing → s.tsu.b.t.locked = false → s.tsu.die.truingSlow = false →
    s.tsu.b.t.lockLimit = some x →
    (elapsed (s.now .tsu) x < lockTime s → exec .truingSlow s = .next s) ∧
    (lockTime s ≤ elapsed (s.now .tsu) x → Completes .truingSlow s fun t =>
      t.tsu.die.truingSlow = true ∧ t.tsu.b.hs.alert.getLsbD 3 = true ∧ t.tsu.die.state = .truing ∧ TsuOnly s t)) ∧
  (∀ (i : Instr) (p : Part) (s : State),
    (i = .joinSettleExpire p ∧ (match p with | .tsu => s.tsu.die.joinAt | .dist => s.dist.sv.joinAt) = none ∧
        mayJoin s p = true) ∨
      (i = .joinReadyRepeat p ∧ ∃ x, (match p with | .tsu => s.tsu.die.joinAt | .dist => s.dist.sv.joinAt) = some x ∧
        64000000 ≤ elapsed (s.now p) x) →
    Completes i s fun t =>
      (match p with | .tsu => t.tsu.die.joinAt | .dist => t.dist.sv.joinAt) = some (s.now p) ∧
      (∀ k ∈ routeOwn s p allRoots (s.base p).hs.msgId.toNat, (s.port p k).tx.mgmtCount + 2 ≤ mgmtGuard (s.base p) →
        ∃ o n j, CellWaits t p k o ∧ o.body = .mgmt allRoots (s.base p).hs.msgId (s.node p) (s.base p).hs.sending n (.joinReady j) ∧
          j.node = s.node p ∧ j.bootCount = BitVec.ofNat 32 (s.base p).hs.bootCount ∧ j.ports = livePorts s p) ∧ PartOnly p s t) ∧
  (∀ (p : Part) (s : State), (match p with | .tsu => s.tsu.die.joinAt | .dist => s.dist.sv.joinAt) = none →
    exec (.joinReadyRepeat p) s = .next s ∧ (mayJoin s p = false → exec (.joinSettleExpire p) s = .next s)) ∧
  (∀ (env : MgmtEnv) (j : JoinReady) (s u : State), mgmtIn s .dist none env = (u, true) → servesRoot u = true → j.node = env.src →
    Completes (.joinReadyReceive env j) s fun t =>
      (∀ b, (u.nodeRec j.node).bootCount = some b → j.bootCount.toNat < b →
        (t.base .dist).ctr .joinStale 0 = (u.base .dist).ctr .joinStale 0 + 1 ∧ t.dist.mem = u.dist.mem) ∧
      ((∀ b, (u.nodeRec j.node).bootCount = some b → b ≤ j.bootCount.toNat) →
        t.nodeRec j.node = { u.nodeRec j.node with bootCount := some j.bootCount.toNat, joinReady := some j }) ∧ DistOnly s t) ∧
  (∀ (port : Nat) (env : MgmtEnv) (s u : State), port < 128 →
    mgmtIn (mgmtRelay s port env .copyReq) .dist (some port) env = (u, true) →
    Completes (.copyReqReceive port env) s fun t =>
      (u.dist.sv.state ≠ .inService → t = u) ∧
      (u.dist.sv.state = .inService → ∀ k ∈ routeOwn u .dist env.src u.dist.b.hs.msgId.toNat,
        (u.port .dist k).tx.mgmtCount + 96 ≤ mgmtGuard u.dist.b → ∃ o m n x, CellWaits t .dist k o ∧
          o.body = .mgmt env.src m (u.node .dist) n x (.copyData (copyOf u) (copyDigest (copyOf u)))) ∧ DistOnly s t) ∧
  (∀ (i : Instr) (env : MgmtEnv) (cs : CopyState) (good : Prop) (s u : State), mgmtIn s .dist none env = (u, true) →
    (∃ d, i = .copyDataReceive env cs d ∧ (good ↔ copyDigest cs = d)) ∨
      (i = .imageReceive env cs ∧ (good ↔ copyDigest cs = Config.stateDigest (u.node .dist) u.dist.b.ep.ce)) →
    Completes i s fun t =>
      (u.dist.sv.state ≠ .joining ∨ u.dist.sv.copyDone = true → t = u) ∧
      (u.dist.sv.state = .joining → u.dist.sv.copyDone = false → good → t.dist.sv.copyDone = true ∧ t.dist.sv.copied = some cs ∧
        (∀ m, cs.maps = [m] → tget 0 t.dist.fab.maps m.1 = m.2) ∧
        (∀ g, cs.groups = [g] → tget none t.dist.fab.hgroups g.1 = some g.2) ∧
        (∀ x, cs.turnings = [x] → (t.turning .dist x.1).len = x.2.2.1 ∧ (t.turning .dist x.1).st0 = x.2.1)) ∧
      (u.dist.sv.state = .joining → u.dist.sv.copyDone = false → ¬ good → t.dist.sv.copyDone = false ∧ t.dist.fab = u.dist.fab ∧
        (i = .imageReceive env cs → (t.base .dist).ctr .imageMismatch 0 = (u.base .dist).ctr .imageMismatch 0 + 1)) ∧ DistOnly s t)

/-- Parting (R364 to R369). At its boundary a running die is PARTING, and no armed entry of a T at or after it is left; not before. Once
nothing of R366 is open it tells the roots; at PART_LIMIT what is open completes CANCELLED and is counted first. The roots then
propose the removal of the die, or that the distributor that sent it is DRAINED; a report for another part changes nothing. Commands
for a membership decision, and draining (R357, R373 to R375, R392). Only mailbox 0 may ask. A die's command is carried to the roots;
the root that decides checks it, refuses with the reason, or proposes the change and holds the command PENDING until the decision. A
draining distributor with nothing open sends PART_DONE, and at DRAIN_LIMIT it frees what remains first. -/
def Obligations.PartingAndDrainingLeaveNothingOpen : Prop :=
  ((∀ (n : Step) (s : State), s.tsu.die.partDue = some n →
    (stepReached s.tsu.turn (s.now .tsu) n = false ∨ s.tsu.die.state ≠ .running → exec .partBoundary s = .next s) ∧
    (stepReached s.tsu.turn (s.now .tsu) n = true → s.tsu.die.state = .running → Completes .partBoundary s fun t =>
      let b := (s.tsu.turn.stepStart n).getD (s.now .tsu)
      t.tsu.die.state = .parting ∧ t.tsu.die.partAt = b ∧ t.tsu.die.partDue = none ∧ t.tsu.die.partDone = false ∧
      t.tsu.plate.armed = s.tsu.plate.armed.filter (fun e => !stGe e.t b) ∧ t.tsu.sync = s.tsu.sync ∧ t.tsu.fab = s.tsu.fab ∧
      TsuOnly s t)) ∧
  (∀ (s : State), s.tsu.die.state = .parting → s.tsu.die.partDone = false →
    (openOps s ≠ 0 → exec .partDrainComplete s = .next s) ∧
    (openOps s = 0 → Completes .partDrainComplete s fun t => t.tsu.die = { s.tsu.die with partDone := true } ∧
      (∀ k, k < 2 → (s.port .tsu k).tx.mgmtCount + 1 ≤ mgmtGuard s.tsu.b → ∃ o m n x, CellWaits t .tsu k o ∧
        o.body = .mgmt allRoots m (s.node .tsu) n x (.partDone (s.node .tsu) (s.now .tsu) ((s.base .tsu).ctr .partCancelled 0 % 2 ^ 32))) ∧
      TsuOnly s t)) ∧
  (∀ (s : State), s.tsu.die.state = .parting → s.tsu.die.partDone = false →
    (elapsed (s.now .tsu) s.tsu.die.partAt < partLimit s → exec .partLimitExpire s = .next s) ∧
    (partLimit s ≤ elapsed (s.now .tsu) s.tsu.die.partAt → Completes .partLimitExpire s fun t =>
      t.tsu.die.partDone = true ∧ t.tsu.fab.insts = [] ∧ t.tsu.fab.ops = [] ∧ t.tsu.sync.sigOut = [] ∧
      (t.base .tsu).ctr .partCancelled 0 = (s.base .tsu).ctr .partCancelled 0 + openOps s ∧ t.tsu.fab.mem = s.tsu.fab.mem ∧
      TsuOnly s t)) ∧
  (∀ (env : MgmtEnv) (node : Node) (x : St) (n : Nat) (s u : State), mgmtIn s .dist none env = (u, true) →
    (env.src ≠ node → exec (.partDoneReceive env node x n) s = .next u) ∧
    (env.src = node → servesRoot u = true → node ≠ u.node .dist → quorum u = 2 → u.dist.mem.proposals = [] → u.dist.mem.held = [] →
      u.dist.b.due = [] → Completes (.partDoneReceive env node x n) s fun t =>
        t.dist.mem = { u.dist.mem with proposals := [{ change := { node, state := if nodeKind node = 0 then 7 else 4, cause := 0 }, by_ := [u.node .dist] }] } ∧
        DistOnly s t))) ∧
  ((∀ (i : Instr) (c : Cmd) (op : Nat) (ch : Change) (bad : State → Option Status) (s : State), hsReady s c = true → c.mbx = 0 →
    (∃ n, i = .drain c n ∧ op = 0x48 ∧ ch = { node := n, state := 6, cause := 0 } ∧ bad = (drainCheck · n) ∧ nodeKind n ≠ 0 ∧
      nodeValid n = true ∧ n ≠ s.node .dist) ∨
    (∃ n, i = .undrain c n ∧ op = 0x49 ∧ ch = { node := n, state := 5, cause := 0 } ∧ bad = (undrainCheck · n) ∧ nodeKind n ≠ 0 ∧
      nodeValid n = true ∧ n ≠ s.node .dist) ∨
    (∃ k, i = .rejoin c k ∧ op = 0x4A ∧ ch = { node := dieNode k, state := 5, cause := 0 } ∧ bad = (rejoinCheck · k) ∧ k < 98304 ∧
      dieNode k ≠ s.node .tsu) ∨
    (∃ n, i = .quarantineClear c n ∧ op = 0x4B ∧ ch = { node := n, state := 5, cause := 0 } ∧ bad = (clearCheck · n) ∧
      nodeValid n = true ∧ n ≠ s.node .tsu) →
    Completes i s fun t =>
      (c.part = .tsu → CarriedToRoots c op s t) ∧
      (c.part = .dist → decides s = true → bad s = none → Answers c op .pending t ∧
        t.dist.sv.waitCmds = s.dist.sv.waitCmds ++ [(c, op, ch.node, ch.state)]) ∧
      (∀ st, c.part = .dist → decides s = true → bad s = some st → Answers c op st t ∧ t.dist.sv.waitCmds = s.dist.sv.waitCmds ∧
        t.dist.mem = s.dist.mem) ∧ PartOnly c.part s t) ∧
  (∀ (i : Instr) (c : Cmd) (op : Nat) (s : State), hsReady s c = true → c.part = .tsu → c.mbx ≠ 0 → c.mbx ≤ 3 →
    (∃ n, (i = .drain c n ∧ op = 0x48) ∨ (i = .undrain c n ∧ op = 0x49) ∨ (i = .quarantineClear c n ∧ op = 0x4B)) ∨
      (∃ k, i = .rejoin c k ∧ op = 0x4A) →
    Completes i s fun t => Answers c op .denied t ∧ t.tsu.remotes = s.tsu.remotes ∧ TsuOnly s t) ∧
  (∀ (x : St) (s : State), s.dist.sv.state = .draining → s.dist.sv.drainAt = some x →
    (drainEmpty s = false → exec .drainComplete s = .next s) ∧
    (drainEmpty s = true → Completes .drainComplete s fun t => t.dist.sv = { s.dist.sv with drainAt := none } ∧
      (∀ k ∈ routeOwn s .dist allRoots s.dist.b.hs.msgId.toNat, (s.port .dist k).tx.mgmtCount + 1 ≤ mgmtGuard s.dist.b →
        ∃ o m n y, CellWaits t .dist k o ∧
          o.body = .mgmt allRoots m (s.node .dist) n y (.partDone (s.node .dist) (s.now .dist) 0)) ∧ DistOnly s t) ∧
    (elapsed (s.now .dist) x < drainLimit s → exec .drainLimitExpire s = .next s) ∧
    (drainLimit s ≤ elapsed (s.now .dist) x → Completes .drainLimitExpire s fun t =>
      t.dist.fab.posts = [] ∧ t.dist.fab.bars = [] ∧ t.dist.sv.drainAt = none ∧
      (∀ k, (t.port .dist k).tx.p1 = [] ∧ (t.port .dist k).tx.p2 = []) ∧ DistOnly s t)))

/-- Staged commands (R189, R391, R392, R394, R489). A staged command that its part, its mailbox and its operands allow joins its open
transaction with its operands clamped, and completes OK; where the transaction is not open or another holds the object it completes
with the reason and nothing is staged. Plate writes show in the staged bank; PLATE_LOAD stages all its entries or none; PLATE_APPEND
beyond a full bank is FULL and is staged so that its prepare fails. A command from a mailbox that may not give it is DENIED. -/
def Obligations.StagedCommandsJoinTheirTransaction : Prop :=
  (∀ (i : Instr) (c : Cmd) (op : Nat) (x : Staged) (s : State), hsReady s c = true → c.mbx ≤ 3 →
    (((isM0 c = true ∨ s.tsu.die.sliceValid = true) ∧ c.part = .tsu ∧
      ((∃ n e y k, i = .plateWrite c n e ∧ op = 0x10 ∧ n < 8192 ∧ entryTake e = some (y, k) ∧ x = .plate n y) ∨
       (∃ n e y k, i = .plateAppend c e ∧ op = 0x11 ∧ freeEntry s = some n ∧ entryTake e = some (y, k) ∧ x = .plate n y) ∨
       (i = .plateClear c ∧ op = 0x13 ∧ x = .plateClear) ∨
       (∃ g m, i = .rgroupWrite c g m ∧ op = 0x14 ∧ 0 < g ∧ g < 256 ∧ x = .rgroup g m) ∨
       (∃ k d, i = .descWrite c k d ∧ op = 0x15 ∧ k < 1024 ∧ opReserved d.op = false ∧ descNames d = true ∧
         descBufsOk s c k (descClamp d).1 = true ∧ x = .desc k (descClamp d).1))) ∨
     (isM0 c = true ∧
      ((∃ l z n b, i = .turningSet c l z n b ∧ op = 0x16 ∧ l < 64 ∧
         x = .turning l ((z.map (originClamp (s.now c.part))).map Prod.fst) ((n.map lenClamp).map Prod.fst) b) ∨
       (∃ l v, i = .sliceAssign c l v ∧ op = 0x17 ∧ c.part = .tsu ∧ l < 64 ∧ x = .assign l v) ∨
       (∃ l m, i = .sliceMapWrite c l m ∧ op = 0x18 ∧ c.part = .dist ∧ l < 64 ∧ x = .sliceMap l (m &&& roleMask s.role)) ∨
       (∃ k l w, i = .sliceWeight c k l w ∧ op = 0x19 ∧ c.part = .dist ∧ k < 128 ∧ l < 64 ∧ x = .weight k l (clampN 1 255 w)) ∨
       (∃ g q, i = .hgroupWrite c g q ∧ op = 0x1A ∧ g < 4096 ∧ q.slice < 64 ∧ groupsUsed s c.part < 4096 ∧
         (c.part = .tsu → (q.doneCtr < 4096 ∨ q.doneCtr = 0x1FFF) ∧
           x = .hgroup g { q with arrivals := clampN 1 576 q.arrivals, top := false, mask := 0 }) ∧
         (c.part = .dist →
           x = .hgroup g { q with member := false, arrivals := 0, doneCtr := 0x1FFF, mask := q.mask &&& roleMask s.role })) ∨
       (∃ g, i = .hgroupFree c g ∧ op = 0x1B ∧ g < 4096 ∧ groupExists s c g = true ∧ x = .hfree g) ∨
       (∃ g f q, i = .sgWrite c g f ∧ op = 0x1C ∧ c.part = .dist ∧ servesRoot s = true ∧ g < 256 ∧ f.slice < 64 ∧ f.group < 4096 ∧
         s.txn .dist c.txn = some q ∧ x = .sg g (sgClamp (hopTu s) (lenAfter s .dist q f.slice) f).1) ∨
       (∃ qs, i = .ledgerPart c qs ∧ op = 0x1D ∧ c.part = .dist ∧ servesRoot s = true ∧
         x = .ledgerPart ((List.range 64).map fun k => (qs[k]?).getD 0)) ∨
       (∃ a n, i = .ctxSave c a n ∧ op = 0x1E ∧ c.part = .tsu ∧ x = .ctxSave a n) ∨
       (∃ m n, i = .ctxRestore c m true n ∧ op = 0x1F ∧ c.part = .tsu ∧ x = .ctxRestore m n) ∨
       (∃ n, i = .part c n ∧ op = 0x20 ∧ c.part = .tsu ∧ x = .part n))) ∨
     ((isM0 c = true ∨ (∃ k v, i = .configWrite c k v ∧ 0x6000 ≤ 8 * k ∧ 8 * k < 0x7000 ∧ s.tsu.die.sliceValid = true)) ∧
      ∃ k v r, i = .configWrite c k v ∧ op = 0x21 ∧ cfgReg c.part (8 * k) = some r ∧
        x = .config k (BitVec.ofNat 64 (cfgClamp r v.toNat).1))) →
    Completes i s fun t =>
      (stageBar s c x = none → Stages c op x s t ∧
        (∀ n y, x = .plate n y → tget zeroPlateEntry t.tsu.plate.other n = y) ∧ (x = .plateClear → t.tsu.plate.other = [])) ∧
      (∀ st, stageBar s c x = some st → Answers c op st t ∧ (t.base c.part).txns = (s.base c.part).txns ∧ PartOnly c.part s t)) ∧
  (∀ (c : Cmd) (e y : Entry) (k : Nat) (s : State), hsReady s c = true → c.mbx ≤ 3 → c.part = .tsu →
    (isM0 c = true ∨ s.tsu.die.sliceValid = true) → entryTake e = some (y, k) → freeEntry s = none →
    stageBar s c (.plateAppend y) = none → Completes (.plateAppend c e) s fun t =>
      (∃ q, s.txn .tsu c.txn = some q ∧ t.txn .tsu c.txn = some { q with staged := stagePut (.plateAppend y) q.staged }) ∧
      Answers c 0x11 .full t ∧ TsuOnly s t) ∧
  (∀ (c : Cmd) (first : Nat) (es : List Entry) (ys : List (Entry × Nat)) (ok : Bool) (s : State), hsReady s c = true → c.mbx ≤ 3 →
    c.part = .tsu → (isM0 c = true ∨ s.tsu.die.sliceValid = true) → es.filterMap entryTake = ys →
    Completes (.plateLoad c first es ok) s fun t =>
      (ok = false ∨ 8192 < first + es.length ∨ ys.length < es.length → Answers c 0x12 .badCommand t ∧
        t.tsu.b.txns = s.tsu.b.txns ∧ t.tsu.plate = s.tsu.plate) ∧
      (ok = true → first + es.length ≤ 8192 → ys.length = es.length → stageBar s c (.plateAppend zeroPlateEntry) = none →
        (∃ q, s.txn .tsu c.txn = some q ∧ t.txn .tsu c.txn = some { q with
          staged := q.staged ++ (ys.zip (List.range ys.length)).map fun y => .plate (first + y.2) y.1.1 }) ∧
        Answers c 0x12 .ok t) ∧ TsuOnly s t) ∧
  (∀ (i : Instr) (c : Cmd) (op : Nat) (s : State), hsReady s c = true → c.part = .tsu → c.mbx ≠ 0 → c.mbx ≤ 3 →
    (∃ l z n b, i = .turningSet c l z n b ∧ op = 0x16) ∨ (∃ l v, i = .sliceAssign c l v ∧ op = 0x17) ∨
      (∃ g q, i = .hgroupWrite c g q ∧ op = 0x1A) ∨ (∃ g, i = .hgroupFree c g ∧ op = 0x1B) ∨
      (∃ a n, i = .ctxSave c a n ∧ op = 0x1E) ∨ (∃ m k n, i = .ctxRestore c m k n ∧ op = 0x1F) ∨ (∃ n, i = .part c n ∧ op = 0x20) ∨
      (∃ n e, i = .plateWrite c n e ∧ op = 0x10 ∧ s.tsu.die.sliceValid = false) ∨
      (∃ k v, i = .configWrite c k v ∧ op = 0x21 ∧ 8 * k < 0x6000) →
    Completes i s fun t => Answers c op .denied t ∧ t.tsu.b.txns = s.tsu.b.txns ∧ t.tsu.plate = s.tsu.plate ∧ TsuOnly s t)

/-- Transactions as commands (R393, R395, R400, R401). BEGIN opens a transaction, unless the number is 0, a hall number comes from a
mailbox other than 0, or four are open. COMMIT and ROLLBACK of an open transaction of the same mailbox are PENDING until the
decision; of none, BAD_COMMAND; of another mailbox's, DENIED; a second one, BUSY. TXN_STATUS gives how a closed one ended. -/
def Obligations.TransactionsBeginCommitAndRollBack : Prop :=
  (∀ (c : Cmd) (n : Nat) (s : State), hsReady s c = true → c.mbx ≤ 3 → Completes (.txnBegin c n) s fun t =>
    let full := (s.txn c.part c.txn).isSome = true ∨ 4 ≤ ((s.base c.part).txns.filter (·.live)).length
    (c.txn = 0 ∨ (c.part = .dist ∧ c.txn.getLsbD 31 = false) → Answers c 0x01 .badCommand t) ∧
    (c.txn.getLsbD 31 = true → isM0 c = false → Answers c 0x01 .denied t) ∧
    (c.txn ≠ 0 → (c.txn.getLsbD 31 = true → isM0 c = true) → (c.part = .dist → c.txn.getLsbD 31 = true) →
      (full → Answers c 0x01 .busy t ∧ (t.base c.part).txns = (s.base c.part).txns) ∧
      (¬ full → Answers c 0x01 .ok t ∧ (c.part = .tsu ∨ servesRoot s = false →
        t.txn c.part c.txn = some { id := c.txn, n := if c.txn.getLsbD 31 then max 1 n else 1, mbx := c.mbx } ∧
        ∀ k, k ≠ c.txn → t.txn c.part k = s.txn c.part k))) ∧ PartOnly c.part s t) ∧
  (∀ (c : Cmd) (w : Bool) (slice : Nat) (step : Step) (s : State), hsReady s c = true → c.mbx ≤ 3 →
    Completes (.commit c w slice step) s fun t =>
      (s.txn c.part c.txn = none → Answers c 0x02 .badCommand t) ∧
      (∀ q, s.txn c.part c.txn = some q →
        (q.mbx ≠ c.mbx → Answers c 0x02 .denied t) ∧
        (q.mbx = c.mbx → (w = true → slice < 64 ∧ sliceOk s c slice = true) →
          (q.phase ≠ .open_ → Answers c 0x02 .busy t) ∧
          (q.phase = .open_ → c.part = .tsu ∨ servesRoot s = false → Answers c 0x02 .pending t ∧
            t.txn c.part c.txn = some { q with phase := .committing, cmd := some c, slice, step }))) ∧ PartOnly c.part s t) ∧
  (∀ (c : Cmd) (s : State), hsReady s c = true → c.mbx ≤ 3 → Completes (.rollback c) s fun t =>
      (s.txn c.part c.txn = none → Answers c 0x03 .badCommand t) ∧
      (∀ q, s.txn c.part c.txn = some q →
        (q.mbx ≠ c.mbx → Answers c 0x03 .denied t) ∧
        (q.mbx = c.mbx → q.phase = .decided → Answers c 0x03 .badCommand t) ∧
        (q.mbx = c.mbx → q.phase ≠ .decided → q.rollCmd ≠ none → Answers c 0x03 .busy t) ∧
        (q.mbx = c.mbx → q.phase ≠ .decided → q.rollCmd = none → c.part = .tsu ∨ servesRoot s = false →
          Answers c 0x03 .pending t ∧ t.txn c.part c.txn = some { q with rollCmd := some c })) ∧ PartOnly c.part s t) ∧
  (∀ (c : Cmd) (txn : W32) (s : State), hsReady s c = true → c.mbx ≤ 3 → Completes (.txnStatus c txn) s fun t =>
      (((s.base c.part).txns.find? fun q => q.id == txn) = none → Answers c 0x04 .badCommand t) ∧
      (∀ q, ((s.base c.part).txns.find? fun q => q.id == txn) = some q → ∃ x, lastCompletion t c = some x ∧ x.tag = c.tag ∧
        x.opcode = 0x04 ∧ x.final = true ∧
        (q.phase = .rolledBack → x.status = .rolledBack ∧ x.r1 = q.at_ ∧
          x.r0 = BitVec.ofNat 64 (Status.code q.reason + q.node.toNat * 2 ^ 8 + q.detail % 2 ^ 16 * 2 ^ 32)) ∧
        (q.phase = .done ∨ q.phase = .decided → x.status = .ok ∧ x.r0 = q.effect ∧
          x.r1 = BitVec.ofNat 64 (q.newCe.toNat + q.step.toNat * 2 ^ 16)) ∧
        (q.phase = .open_ ∨ q.phase = .committing ∨ q.phase = .prepared → x.status = .ok)) ∧
      (t.base c.part).txns = (s.base c.part).txns ∧ PartOnly c.part s t)

/-- A participant of a commit (R396, R399, R401, R402). PREPARE makes an open transaction PREPARED, or the check's reason is answered.
DECIDE rolls it back with the reason, or takes it as decided, or, once its effect has passed, the part leaves the membership. A
PREPARED one asks for the decision when its time has come. At the effect the new CE holds, the transaction has ended and its COMMIT
completes. -/
def Obligations.ParticipantsPrepareAndDecide : Prop :=
  (∀ (p : Part) (env : MgmtEnv) (txn : W32) (dl b : St) (s u : State), mgmtIn s p none env = (u, true) →
    Completes (.prepareReceive p env txn dl b) s fun t =>
      let check := fun (q : Txn) => match p with | .tsu => dieCheck u q b | .dist => distCheck u q
      let tells := fun (body : MgmtBody) => ∀ k ∈ routeOwn u p allRoots (u.base p).hs.msgId.toNat,
        (u.port p k).tx.mgmtCount + 1 ≤ mgmtGuard (u.base p) →
        ∃ o n, CellWaits t p k o ∧ o.body = .mgmt allRoots (u.base p).hs.msgId (u.node p) (u.base p).hs.sending n body
      (u.txn p txn = none → t = u) ∧
      (∀ q, u.txn p txn = some q → q.phase = .prepared ∨ q.phase = .decided → t = u) ∧
      (∀ q, u.txn p txn = some q → q.phase ≠ .prepared → q.phase ≠ .decided → p = .tsu ∨ servesRoot u = false →
        (check q = none → (∃ y, t.txn p txn = some y ∧ y.phase = .prepared ∧ y.deadline = dl ∧ y.boundary = b ∧ y.prepAt = u.now p) ∧
          tells (.prepared txn true .ok 0)) ∧
        (∀ st d, check q = some (st, some d) → t.txn p txn = some { q with phase := .committing, deadline := dl, boundary := b } ∧
          tells (.prepared txn false st d))) ∧ PartOnly p s t) ∧
  (∀ (p : Part) (env : MgmtEnv) (txn : W32) (d : Decision) (s u : State), mgmtIn s p none env = (u, true) →
    Completes (.decideReceive p env txn d) s fun t =>
      (u.txn p txn = none → t = u) ∧
      (∀ q, u.txn p txn = some q → q.phase = .decided →
        t.txn p txn = some (if d.commit && q.effect == d.effect then { q with newCe := d.ce } else q)) ∧
      (∀ q, u.txn p txn = some q → q.phase ≠ .decided → d.commit = false → t.txn p txn = none ∧
        (∀ c, q.cmd = some c → q.rollCmd = none → (p = .tsu → (u.mbox c.mbx).held = []) → Answers (ofPart p c) 0x02 .rolledBack t) ∧
        (∀ c, q.rollCmd = some c → q.cmd = none → (p = .tsu → (u.mbox c.mbx).held = []) → Answers (ofPart p c) 0x03 .ok t)) ∧
      (∀ q, u.txn p txn = some q → q.phase ≠ .decided → d.commit = true → stLater (u.now p) d.effect = true →
        t.txn p txn = none ∧ (p = .tsu → t.tsu.die.state = .truing ∧ t.tsu.die.member = false) ∧
        (p = .dist → t.dist.sv.state = .joining)) ∧
      (∀ q, u.txn p txn = some q → q.phase ≠ .decided → d.commit = true → stLater (u.now p) d.effect = false →
        t.txn p txn = some { q with phase := .decided, effect := d.effect, newCe := d.ce, step := d.step, rollCmd := none }) ∧
      PartOnly p s t) ∧
  (∀ (p : Part) (txn : W32) (q : Txn) (s : State), s.txn p txn = some q →
    (q.phase ≠ .prepared ∨ stGe (s.now p) (queryAt s p q) = false → exec (.decideWaitExpire p txn) s = .next s) ∧
    (q.phase = .prepared → stGe (s.now p) (queryAt s p q) = true → p = .tsu ∨ servesRoot s = false →
      Completes (.decideWaitExpire p txn) s fun t => t.txn p txn = some q ∧
        (∀ k ∈ routeOwn s p allRoots (s.base p).hs.msgId.toNat, (s.port p k).tx.mgmtCount + 1 ≤ mgmtGuard (s.base p) →
          ∃ o n, CellWaits t p k o ∧
            o.body = .mgmt allRoots (s.base p).hs.msgId (s.node p) (s.base p).hs.sending n (.txnQuery txn)) ∧ PartOnly p s t)) ∧
  (∀ (p : Part) (txn : W32) (q : Txn) (s : State), s.txn p txn = some q →
    (q.phase ≠ .decided ∨ stGe (s.now p) q.effect = false → exec (.txnEffect p txn) s = .next s) ∧
    (q.phase = .decided → stGe (s.now p) q.effect = true → Completes (.txnEffect p txn) s fun t =>
      (t.base p).ep.ce = q.newCe ∧ t.txn p txn = none ∧
      (∀ c, q.cmd = some c → (p = .tsu → (s.mbox c.mbx).held = []) → Answers (ofPart p c) 0x02 .ok t) ∧
      (∀ l m, p = .dist → q.staged = [.sliceMap l m] → tget 0 t.dist.fab.maps l = m) ∧
      (∀ k l w, p = .dist → q.staged = [.weight k l w] → tget 8 t.dist.fab.weights (k * 64 + l) = w) ∧
      (∀ g, p = .dist → q.staged = [.hfree g] → tget none t.dist.fab.hgroups g = none) ∧
      (∀ g h, p = .dist → q.staged = [.hgroup g h] → tget none t.dist.fab.hgroups g =
        some { h with mask := h.mask &&& tget 0 s.dist.fab.maps h.slice }) ∧
      (∀ n, p = .tsu → q.staged = [.part n] → t.tsu.die.partDue = some n) ∧
      (∀ l, p = .tsu → q.staged = [.assign l true] → s.tsu.die.sliceValid = false →
        t.tsu.die.sliceId = l ∧ t.tsu.die.sliceValid = true ∧ t.tsu.die.memberCe = q.newCe) ∧
      (∀ l, p = .tsu → q.staged = [.assign l true] → s.tsu.die.sliceValid = true → s.tsu.die.sliceId ≠ l →
        t.tsu.die.moveDue = some (l, true, q.step) ∧ t.tsu.die.sliceId = s.tsu.die.sliceId) ∧
      PartOnly p s t)) ∧
  (∀ (l : Nat) (v : Bool) (n : Step) (s : State), s.tsu.die.moveDue = some (l, v, n) →
    (stepReached s.tsu.turn (s.now .tsu) n = false → exec .sliceMove s = .next s) ∧
    (stepReached s.tsu.turn (s.now .tsu) n = true → Completes .sliceMove s fun t =>
      t.tsu.die.sliceId = l ∧ t.tsu.die.sliceValid = v ∧ t.tsu.die.moveDue = none ∧ t.tsu.die.moveStaged = [] ∧
      t.tsu.plate.armed = [] ∧ t.tsu.sync.ctrs = [] ∧ t.tsu.sync.outQ = [] ∧ t.tsu.fab.mem = [] ∧ t.tsu.fab.deltas = [] ∧
      (∀ k y, s.tsu.die.moveStaged = [.plate k y] → tget zeroPlateEntry t.tsu.plate.active k = y) ∧
      (∀ k y, s.tsu.die.moveStaged = [.desc k y] → tget none t.tsu.fab.descs k = some y) ∧ TsuOnly s t))

/-- A root in a commit (R393, R395 to R402). A join opens the record of a transaction or adds a participant to it. A commit request
gives it step, boundary and deadline, and once all have joined PREPARE goes out; with 64 commits in progress it is rolled back as
BUSY. Any participant that fails rolls it back with its reason; when all are PREPARED the leading root commits at a tick that
carries no other new CE. At the deadline it is rolled back as LATE. A question is answered with the decision. A part that serves as
no root keeps no record. -/
def Obligations.RootsRunTheTwoPhases : Prop :=
  (∀ (env : MgmtEnv) (txn : W32) (n : Nat) (s u : State), mgmtIn s .dist none env = (u, true) →
    Completes (.txnJoinReceive env txn n) s fun t =>
      (servesRoot u = false → t = u) ∧
      (servesRoot u = true → (∀ r, u.rtxn txn env.src = some r → r.decision ≠ none) →
        t.rtxn txn env.src = some { id := txn, src := txnSrc txn env.src, n := max 1 n, joined := [env.src] }) ∧
      (∀ r, servesRoot u = true → u.rtxn txn env.src = some r → r.decision = none → r.requested = false →
        t.rtxn txn env.src = some { r with joined := if r.joined.contains env.src then r.joined else r.joined ++ [env.src] }) ∧
      DistOnly s t) ∧
  (∀ (env : MgmtEnv) (txn : W32) (w : Bool) (slice : Nat) (step : Step) (s u : State), mgmtIn s .dist none env = (u, true) →
    Completes (.commitRequestReceive env txn w slice step) s fun t =>
      (servesRoot u = false ∨ u.rtxn txn env.src = none → t = u) ∧
      (∀ r, servesRoot u = true → u.rtxn txn env.src = some r → r.decision = none → r.requested = false →
        (64 ≤ commitsOpen u → ∃ y d, t.rtxn txn env.src = some y ∧ y.decision = some d ∧ d.commit = false ∧ d.reason = .busy) ∧
        (∀ m b dl moved, commitsOpen u < 64 → commitTimes u w slice step = some (m, b, dl, moved) →
          r.joined.contains (u.node .dist) = false → ∃ y, t.rtxn txn env.src = some y ∧ y.requested = true ∧ y.slice = slice ∧
            y.step = m ∧ y.boundary = b ∧ y.deadline = dl ∧ y.decision = none ∧
            (decides u = true → r.prepareSent = false → r.joined = [env.src] → r.n = 1 → y.prepareSent = true ∧
              ∀ k ∈ routeOwn u .dist env.src u.dist.b.hs.msgId.toNat, (u.port .dist k).tx.mgmtCount + 2 ≤ mgmtGuard u.dist.b →
                ∃ o i x e, CellWaits t .dist k o ∧ o.body = .mgmt env.src i (u.node .dist) x e (.prepare r.id dl b)))) ∧
      DistOnly s t) ∧
  (∀ (env : MgmtEnv) (txn : W32) (r : RootTxn) (s u : State), mgmtIn s .dist none env = (u, true) → servesRoot u = true →
    u.rtxn txn env.src = some r →
    Completes (.preparedReceive env txn) s fun t =>
      let now := if r.prepared.contains env.src then r.prepared else r.prepared ++ [env.src]
      let all := r.whole && r.joined.all (now.contains ·)
      (r.decision ≠ none ∨ r.joined.contains env.src = false → t = u) ∧
      (r.decision = none → r.joined.contains env.src = true →
        (all = false ∨ u.dist.mem.electing = true → t.rtxn txn env.src = some { r with prepared := now }) ∧
        (∀ k, all = true → u.dist.mem.electing = false → decides u = true → commitTick u { r with prepared := now } = some k →
          ∃ y d, t.rtxn txn env.src = some y ∧ y.decision = some d ∧ d.commit = true ∧ d.effect = tickSt k ∧ d.step = r.step ∧
            d.reason = .ok ∧ (pendAt t.dist.b.ep.pend k).ce = some d.ce) ∧
        (all = true → u.dist.mem.electing = false → decides u = false → t.rtxn txn env.src = none)) ∧ DistOnly s t) ∧
  (∀ (env : MgmtEnv) (txn : W32) (reason : Status) (detail : Nat) (r : RootTxn) (s u : State),
    mgmtIn s .dist none env = (u, true) → servesRoot u = true → u.rtxn txn env.src = some r →
    Completes (.prepFailReceive env txn reason detail) s fun t =>
      (r.decision ≠ none ∨ r.joined.contains env.src = false → t = u) ∧
      (r.decision = none → r.joined.contains env.src = true → t.rtxn txn env.src = some { r with decision := some { commit := false, effect := u.now .dist, ce := u.dist.b.ep.ce, step := r.step, reason, node := env.src, detail } }) ∧
      DistOnly s t) ∧
  (∀ (r : RootTxn) (s : State), servesRoot s = true → s.dist.sv.rtxns = [r] → r.src = txnSrc r.id r.src → r.requested = true →
    r.decision = none →
    (stGe (s.now .dist) r.deadline = false → exec (.prepareDeadlineExpire r.id) s = .next s) ∧
    (stGe (s.now .dist) r.deadline = true → Completes (.prepareDeadlineExpire r.id) s fun t =>
      ∃ d, t.dist.sv.rtxns = [{ r with decision := some d }] ∧ d.commit = false ∧ d.reason = .late ∧ d.effect = s.now .dist ∧
        (r.whole = true → d.detail = 1 ∧ d.node = (r.joined.find? fun n => !r.prepared.contains n).getD allRoots) ∧
        (r.whole = false → d.detail = 2) ∧ DistOnly s t)) ∧
  (∀ (env : MgmtEnv) (txn : W32) (s u : State), mgmtIn s .dist none env = (u, true) →
    Completes (.txnQueryReceive env txn) s fun t =>
      ((u.rtxn txn env.src).bind (·.decision) = none ∨ servesRoot u = false → t = u) ∧
      (∀ d, (u.rtxn txn env.src).bind (·.decision) = some d → servesRoot u = true →
        ∀ k ∈ routeOwn u .dist env.src u.dist.b.hs.msgId.toNat, (u.port .dist k).tx.mgmtCount + 2 ≤ mgmtGuard u.dist.b →
          ∃ o n x e, CellWaits t .dist k o ∧ o.body = .mgmt env.src n (u.node .dist) x e (.decide txn d)) ∧ DistOnly s t)

/-- Mailbox rings (R387, R388, R506). A doorbell that would leave more than 64 slots outstanding is ignored with MB_OVERRUN, another is
taken; a completion consumer index beyond the producer is clamped to it, and completions held for want of room follow; an opcode
that the table does not list completes BAD_COMMAND. A mailbox beyond 3 does not exist. IDENT and STATUS (R507, R508, R512). A
distributor, or the ROM of one whose image was refused, answers IDENT with JTAG_IDCODE, its node and straps, and STATUS with one to
three registers read in order, after a masked write if one is asked. Over SMBus the write may name NODE_POSITION alone; an offset
that is not a multiple of 8 below 0x100000 is a BAD_COMMAND, and so are both at a die. -/
def Obligations.MailboxesAnswerFromTheirRings : Prop :=
  ((∀ (m : Nat) (v : BitVec 16) (s : State), m < 4 → Completes (.mbDoorbell m v) s fun t =>
    (64 < (v - (s.mbox m).cons).toNat → t.mbox m = { s.mbox m with overrun := true }) ∧
    ((v - (s.mbox m).cons).toNat ≤ 64 → (t.mbox m).prod = v ∧ (t.mbox m).cons = (s.mbox m).cons ∧
      (t.mbox m).overrun = (s.mbox m).overrun) ∧
    (∀ k, k ≠ m → t.mbox k = s.mbox k) ∧ t = { s with tsu := { s.tsu with mbs := t.tsu.mbs } }) ∧
  (∀ (m : Nat) (v : BitVec 16) (s : State), m < 4 → Completes (.mbCplConsWrite m v) s fun t =>
    let b := s.mbox m
    let far := (b.cplProd - b.cplCons).toNat < (v - b.cplCons).toNat
    (b.held = [] → ¬ far → t.mbox m = { b with cplCons := v } ∧ t.tsu.b = s.tsu.b) ∧
    (b.held = [] → far → t.mbox m = { b with cplCons := b.cplProd } ∧
      (t.base .tsu).ctr .clamp 0 = (s.base .tsu).ctr .clamp 0 + 1) ∧
    (∀ x, b.held = [x] → ¬ far → (b.cplProd - v).toNat < 64 → (t.mbox m).held = [] ∧ (t.mbox m).cplProd = b.cplProd + 1 ∧
      tget none (t.mbox m).ring (b.cplProd.toNat % 64) = some x) ∧
    (∀ k, k ≠ m → t.mbox k = s.mbox k) ∧ TsuOnly s t) ∧
  (∀ (m : Nat) (v : BitVec 16) (s : State), 4 ≤ m → exec (.mbDoorbell m v) s = .fault .noSuchUnit ∧
    exec (.mbCplConsWrite m v) s = .fault .noSuchUnit) ∧
  (∀ (c : Cmd) (op : Nat) (s : State), hsReady s c = true → c.mbx ≤ 3 → Completes (.mailboxUnknownOpcode c op) s fun t =>
    Answers c op .badCommand t ∧ (t.base c.part).txns = (s.base c.part).txns ∧ PartOnly c.part s t) ∧
  (∀ (c : Cmd) (s : State), hsReady s c = true → c.mbx ≤ 3 → Completes (.nop c) s fun t =>
    Answers c 0xFF .ok t ∧ (t.base c.part).txns = (s.base c.part).txns ∧ PartOnly c.part s t)) ∧
  ((∀ (c : Cmd) (s : State), c.mbx = 0 → hsReady s c = true ∨ (c.part = .dist ∧ 3 ≤ s.dist.b.hs.boot) →
    Completes (.ident c) s fun t =>
      (c.part = .tsu → Answers c 0x70 .badCommand t) ∧
      (c.part = .dist → Answers c 0x70 .ok t ∧ ∃ x, lastCompletion t c = some x ∧ x.r0.toNat % 2 ^ 32 = 0x1D1286BB ∧
        x.r0.toNat / 2 ^ 32 % 2 ^ 24 = (s.node .dist).toNat ∧ x.r1 = BitVec.ofNat 64 (bootStatus .dist s.dist.b.hs)) ∧
      PartOnly c.part s t) ∧
  (∀ (c : Cmd) (off n : Nat) (w smb : Bool) (wo : Nat) (wv wm : W64) (s : State), c.mbx = 0 →
    hsReady s c = true ∨ (c.part = .dist ∧ 3 ≤ s.dist.b.hs.boot) →
    Completes (.status c off n w wo wv wm smb) s fun t =>
      (c.part = .tsu → Answers c 0x71 .badCommand t) ∧
      (c.part = .dist → smb = true → w = true → wo ≠ 0x30 → Answers c 0x71 .denied t) ∧
      (c.part = .dist → smb = false ∨ w = false ∨ wo = 0x30 → offOk off = false ∨ (w = true ∧ offOk wo = false) →
        Answers c 0x71 .badCommand t) ∧
      (c.part = .dist → smb = false ∨ w = false ∨ wo = 0x30 → offOk off = true → (w = true → offOk wo = true) → 1 ≤ n → n ≤ 3 →
        Answers c 0x71 .ok t ∧ ∃ x, lastCompletion t c = some x ∧
          let s1 := if w then distWriteMask wo wv.toNat wm.toNat s else s
          let a := distRead off s1
          let b := distRead (off + 8) a.2
          x.r0 = BitVec.ofNat 64 a.1 ∧ (n = 1 → x.r1 = 0 ∧ x.r2 = 0) ∧ (2 ≤ n → x.r1 = BitVec.ofNat 64 b.1) ∧
          (n = 2 → x.r2 = 0) ∧ (n = 3 → x.r2 = BitVec.ofNat 64 (distRead (off + 16) b.2).1)) ∧ PartOnly c.part s t))

/-- Counter commands (R219 to R221, R228). A die that refuses its operations answers with the reason. CTR_ALLOC takes the lowest free
counter, CTR_ALLOC_AT the one named, each with VALUE 0 and LIMIT 0xFFFFFFFF, and gives its number; none free is FULL and one taken
BUSY. CTR_FREE frees it with its watches; CTR_SET, from mailbox 0 alone, sets VALUE, held to the new LIMIT; CTR_READ gives VALUE;
one not allocated is a BAD_COMMAND. -/
def Obligations.CounterCommandsManageTheTable : Prop :=
  (∀ (i : Instr) (c : Cmd) (op : Nat) (st : Status) (s : State), hsReady s c = true → c.mbx ≤ 3 → c.part = .tsu →
    dieRefuses s = some st →
    (i = .ctrAlloc c ∧ op = 0x30) ∨ (∃ k, (i = .ctrAllocAt c k ∧ op = 0x31) ∨ (i = .ctrFree c k ∧ op = 0x32) ∨
      (∃ v l, i = .ctrSet c k v l ∧ op = 0x33 ∧ isM0 c = true) ∨ (i = .ctrRead c k ∧ op = 0x34)) →
    Completes i s fun t => Answers c op st t ∧ t.tsu.sync = s.tsu.sync ∧ TsuOnly s t) ∧
  (∀ (c : Cmd) (s : State), hsReady s c = true → c.mbx ≤ 3 → c.part = .tsu → dieRefuses s = none →
    Completes (.ctrAlloc c) s fun t =>
      ((∀ k, k < 4096 → (ctrOf s k).alloc = true) → Answers c 0x30 .full t ∧ t.tsu.sync = s.tsu.sync) ∧
      (∀ k, k < 4096 → (ctrOf s k).alloc = false → (∀ j, j < k → (ctrOf s j).alloc = true) → Answers c 0x30 .ok t ∧
        ctrOf t k = { alloc := true, value := 0, limit := 0xFFFFFFFF } ∧ (∀ j, j ≠ k → ctrOf t j = ctrOf s j) ∧
        ∃ x, lastCompletion t c = some x ∧ x.r0 = BitVec.ofNat 64 k) ∧ TsuOnly s t) ∧
  (∀ (c : Cmd) (k : Nat) (s : State), hsReady s c = true → c.mbx ≤ 3 → c.part = .tsu → dieRefuses s = none →
    Completes (.ctrAllocAt c k) s fun t =>
      (4096 ≤ k → Answers c 0x31 .badCommand t ∧ t.tsu.sync = s.tsu.sync) ∧
      (k < 4096 → (ctrOf s k).alloc = true → Answers c 0x31 .busy t ∧ t.tsu.sync = s.tsu.sync) ∧
      (k < 4096 → (ctrOf s k).alloc = false → Answers c 0x31 .ok t ∧ (∀ j, j ≠ k → ctrOf t j = ctrOf s j) ∧
        ctrOf t k = { alloc := true, value := 0, limit := 0xFFFFFFFF }) ∧ TsuOnly s t) ∧
  (∀ (c : Cmd) (k : Nat) (s : State), hsReady s c = true → c.mbx ≤ 3 → c.part = .tsu → dieRefuses s = none → k < 4096 →
    Completes (.ctrFree c k) s fun t =>
      ((ctrOf s k).alloc = false → Answers c 0x32 .badCommand t ∧ t.tsu.sync = s.tsu.sync) ∧
      ((ctrOf s k).alloc = true → Answers c 0x32 .ok t ∧ ctrOf t k = {} ∧ (∀ j, j ≠ k → ctrOf t j = ctrOf s j) ∧
        ∀ w x, tget none t.tsu.sync.watches w = some x → x.counter ≠ k) ∧ TsuOnly s t) ∧
  (∀ (c : Cmd) (k : Nat) (v l : W32) (s : State), hsReady s c = true → c.mbx ≤ 3 → c.part = .tsu → dieRefuses s = none →
    Completes (.ctrSet c k v l) s fun t =>
      (isM0 c = false → Answers c 0x33 .denied t ∧ t.tsu.sync = s.tsu.sync) ∧
      (isM0 c = true → 4096 ≤ k ∨ (ctrOf s k).alloc = false → Answers c 0x33 .badCommand t) ∧
      (isM0 c = true → k < 4096 → (ctrOf s k).alloc = true → Answers c 0x33 .ok t ∧ (∀ j, j ≠ k → ctrOf t j = ctrOf s j) ∧
        ctrOf t k = { ctrOf s k with value := if l.toNat < v.toNat then l else v, limit := l }) ∧ TsuOnly s t) ∧
  (∀ (c : Cmd) (k : Nat) (s : State), hsReady s c = true → c.mbx ≤ 3 → c.part = .tsu → dieRefuses s = none →
    Completes (.ctrRead c k) s fun t =>
      (4096 ≤ k ∨ (ctrOf s k).alloc = false → Answers c 0x34 .badCommand t) ∧
      (k < 4096 → (ctrOf s k).alloc = true → Answers c 0x34 .ok t ∧
        ∃ x, lastCompletion t c = some x ∧ x.r1 = (ctrOf s k).value.setWidth 64) ∧
      (∀ j, ctrOf t j = ctrOf s j) ∧ TsuOnly s t)

/-- Keys and firmware (R381, R406, R407). KEY_LOAD marks a slot loaded when its tag verifies; KEY_SELECT names a loaded slot, and at its
tick, not before, that key signs. FW_STAGE, FW_RECOVER and image data write the image slot not named in BOOT_SLOT, whose version is
unknown until it is tested; FW_ACTIVATE names the slot to boot; only mailbox 0 may give these, and only a distributor has slots. -/
def Obligations.KeysAndFirmwareAreLoaded : Prop :=
  (∀ (c : Cmd) (k : Nat) (ok : Bool) (s : State), hsReady s c = true → c.mbx ≤ 3 → Completes (.keyLoad c k ok) s fun t =>
    (isM0 c = false → Answers c 0x60 .denied t ∧ (t.base c.part).hs.keys = (s.base c.part).hs.keys) ∧
    (isM0 c = true → ok = false ∨ 4 ≤ k → Answers c 0x60 .badCommand t ∧ (t.base c.part).hs.keys = (s.base c.part).hs.keys) ∧
    (isM0 c = true → ok = true → k < 4 → Answers c 0x60 .ok t ∧
      (t.base c.part).hs.keys = (s.base c.part).hs.keys ||| BitVec.ofNat 4 (2 ^ k)) ∧ PartOnly c.part s t) ∧
  (∀ (c : Cmd) (k : Nat) (n : Tick) (s : State), hsReady s c = true → c.mbx ≤ 3 → Completes (.keySelect c k n) s fun t =>
    let loaded := (s.base c.part).hs.keys.getLsbD k = true ∧ k < 4
    (isM0 c = false → Answers c 0x61 .denied t ∧ (t.base c.part).hs.pendKey = (s.base c.part).hs.pendKey) ∧
    (isM0 c = true → ¬ loaded → Answers c 0x61 .badCommand t ∧ (t.base c.part).hs.pendKey = (s.base c.part).hs.pendKey) ∧
    (isM0 c = true → loaded → Answers c 0x61 .ok t ∧ (t.base c.part).hs.pendKey = some (k, n)) ∧
    (t.base c.part).hs.sending = (s.base c.part).hs.sending ∧ PartOnly c.part s t) ∧
  (∀ (p : Part) (k : Nat) (n : Tick) (s : State), (s.base p).hs.pendKey = some (k, n) →
    (tickDiff (tickOf (s.now p)) n < 0 → exec (.keySelectEffect p) s = .next s) ∧
    (0 ≤ tickDiff (tickOf (s.now p)) n → Completes (.keySelectEffect p) s fun t =>
      (t.base p).hs = { (s.base p).hs with sending := k, pendKey := none } ∧ PartOnly p s t)) ∧
  (∀ (i : Instr) (c : Cmd) (op : Nat) (data : List Byte) (ok : Bool) (s : State), c.mbx = 0 →
    (i = .fwStage c data ok ∧ op = 0x69 ∧ hsReady s c = true) ∨
      (i = .fwRecover c data ok ∧ op = 0x72 ∧ (hsReady s c = true ∨ (c.part = .dist ∧ 3 ≤ s.dist.b.hs.boot))) →
    Completes i s fun t =>
      (c.part = .tsu → Answers c op .badCommand t) ∧
      (c.part = .dist → ok = false ∨ 131584 < data.length → Answers c op .badCommand t ∧ t.dist.b.hs.slots = s.dist.b.hs.slots) ∧
      (c.part = .dist → ok = true → data.length ≤ 131584 → Answers c op .ok t ∧
        tget [] t.dist.b.hs.slots (1 - s.dist.b.hs.bootSlot) = data ∧ tget 0 t.dist.b.hs.slotBits (1 - s.dist.b.hs.bootSlot) = 0 ∧
        ∀ k, k ≠ 1 - s.dist.b.hs.bootSlot → tget [] t.dist.b.hs.slots k = tget [] s.dist.b.hs.slots k) ∧ PartOnly c.part s t) ∧
  (∀ (c : Cmd) (k : Nat) (s : State), hsReady s c = true → c.mbx = 0 → Completes (.fwActivate c k) s fun t =>
    (c.part = .tsu ∨ 1 < k → Answers c 0x6A .badCommand t ∧ t.dist.b.hs.bootSlot = s.dist.b.hs.bootSlot) ∧
    (c.part = .dist → k ≤ 1 → Answers c 0x6A .ok t ∧ t.dist.b.hs.bootSlot = k) ∧ PartOnly c.part s t) ∧
  (∀ (i : Instr) (c : Cmd) (op : Nat) (s : State), hsReady s c = true → c.part = .tsu → c.mbx ≠ 0 → c.mbx ≤ 3 →
    (∃ d k, (i = .fwStage c d k ∧ op = 0x69) ∨ (i = .fwRecover c d k ∧ op = 0x72)) ∨ (∃ k, i = .fwActivate c k ∧ op = 0x6A) ∨
      (i = .ident c ∧ op = 0x70) ∨ (∃ o n w a v m b, i = .status c o n w a v m b ∧ op = 0x71) →
    Completes i s fun t => Answers c op .denied t ∧ TsuOnly s t) ∧
  (∀ (env : MgmtEnv) (off : Nat) (data : List Byte) (s u : State), mgmtIn s .dist none env = (u, true) →
    Completes (.fwDataReceive env off data) s fun t =>
      let old := tget [] u.dist.b.hs.slots (1 - u.dist.b.hs.bootSlot)
      let new := tget [] t.dist.b.hs.slots (1 - u.dist.b.hs.bootSlot)
      (131584 < off + data.length → t = u) ∧
      (off + data.length ≤ 131584 → (new.drop off).take data.length = data ∧
        (off ≤ old.length → new.take off = old.take off) ∧ new.drop (off + data.length) = old.drop (off + data.length) ∧
        t.dist.b.hs.bootSlot = u.dist.b.hs.bootSlot) ∧ DistOnly s t)

/-- Commands for another part (R390, R392, R403 to R407). REMOTE_CMD at a die is PENDING until the completion comes back. A COMMAND
message that a distributor takes runs as that command of mailbox 0 would, once it is known as open; one for another part is relayed
only. A final COMPLETION completes the command that waits for it; one that is not final, or that nothing waits for, changes nothing. -/
def Obligations.RemoteCommandsRunAsLocalOnes : Prop :=
  (∀ (c : Cmd) (dst : Node) (rc : RemoteCmd) (ok : Bool) (s : State), hsReady s c = true → c.mbx ≤ 3 →
    Completes (.remoteCmd c dst rc ok) s fun t =>
      (isM0 c = false → Answers c 0x68 .denied t ∧ t.tsu.remotes = s.tsu.remotes) ∧
      (isM0 c = true → c.part = .dist ∨ ok = false ∨ takesCmds dst = false → Answers c 0x68 .badCommand t ∧
        t.tsu.remotes = s.tsu.remotes) ∧
      (isM0 c = true → c.part = .tsu → ok = true → takesCmds dst = true → Answers c 0x68 .pending t ∧
        t.tsu.remotes = s.tsu.remotes ++ [{ c, dst, tag := c.tag }] ∧
        ∀ k, k < 2 → (s.port .tsu k).tx.mgmtCount + 3 ≤ mgmtGuard s.tsu.b → ∃ o m n x, CellWaits t .tsu k o ∧
          o.body = .mgmt dst m (s.node .tsu) n x (.command c.tag c.txn rc)) ∧ PartOnly c.part s t) ∧
  (∀ (port : Nat) (env : MgmtEnv) (tag : BitVec 16) (txn : W32) (rc : RemoteCmd) (s u : State), port < 128 →
    mgmtIn (mgmtRelay s port env (.command tag txn rc)) .dist (some port) env = (u, false) →
    exec (.mgmtCommandReceive port env tag txn rc) s = .next u) ∧
  (∀ (port : Nat) (env : MgmtEnv) (tag : BitVec 16) (txn : W32) (rc : RemoteCmd) (i : Instr) (s u : State), port < 128 →
    mgmtIn (mgmtRelay s port env (.command tag txn rc)) .dist (some port) env = (u, true) →
    (env.dst = allRoots → decides u = true ∧ rc ≠ .rollback) →
    (let c : Cmd := { part := .dist, mbx := 0, tag, txn }
     (∃ n, rc = .txnBegin n ∧ i = .txnBegin c n) ∨ (∃ w l n, rc = .commit w l n ∧ i = .commit c w l n) ∨
     (rc = .rollback ∧ i = .rollback c) ∨ (∃ k, rc = .txnStatus k ∧ i = .txnStatus c k) ∨
     (∃ l z n b, rc = .turningSet l z n b ∧ i = .turningSet c l z n b) ∨ (∃ l m, rc = .sliceMapWrite l m ∧ i = .sliceMapWrite c l m) ∨
     (∃ k l w, rc = .sliceWeight k l w ∧ i = .sliceWeight c k l w) ∨ (∃ g q, rc = .hgroupWrite g q ∧ i = .hgroupWrite c g q) ∨
     (∃ g, rc = .hgroupFree g ∧ i = .hgroupFree c g) ∨ (∃ g f, rc = .sgWrite g f ∧ i = .sgWrite c g f) ∨
     (∃ q, rc = .ledgerPart q ∧ i = .ledgerPart c q) ∨ (∃ k v, rc = .configWrite k v ∧ i = .configWrite c k v) ∨
     (∃ l, rc = .sliceReset l ∧ i = .sliceReset c l) ∨ (∃ a b k, rc = .timeMap a b k ∧ i = .timeMap c a b k) ∨
     (∃ a l n, rc = .align a l n ∧ i = .align c a l n) ∨ (∃ n, rc = .drain n ∧ i = .drain c n) ∨
     (∃ n, rc = .undrain n ∧ i = .undrain c n) ∨ (∃ k, rc = .rejoin k ∧ i = .rejoin c k) ∨
     (∃ n, rc = .quarantineClear n ∧ i = .quarantineClear c n) ∨ (∃ k b, rc = .keyLoad k b ∧ i = .keyLoad c k b) ∨
     (∃ k n, rc = .keySelect k n ∧ i = .keySelect c k n) ∨ (∃ d b, rc = .fwStage d b ∧ i = .fwStage c d b) ∨
     (∃ k, rc = .fwActivate k ∧ i = .fwActivate c k) ∨ (rc = .nop ∧ i = .nop c) ∨ (rc = .ident ∧ i = .ident c) ∨
     (∃ o n w a v m, rc = .status o n w a v m ∧ i = .status c o n w a v m false) ∨
     (∃ d b, rc = .fwRecover d b ∧ i = .fwRecover c d b) ∨ (∃ op, rc = .other op ∧ i = .mailboxUnknownOpcode c op)) →
    exec (.mgmtCommandReceive port env tag txn rc) s =
      exec i { u with dist := { u.dist with sv := { u.dist.sv with mbOpen := u.dist.sv.mbOpen ++ [(tag, env.src, u.now .dist)] } } }) ∧
  (∀ (port : Nat) (env : MgmtEnv) (tag : BitVec 16) (txn : W32) (g : Nat) (x : SGroup) (s u : State), port < 128 →
    mgmtIn (mgmtRelay s port env (.command tag txn (.resync g))) .dist (some port) env = (u, true) → u.sgroup g = some x →
    Completes (.mgmtCommandReceive port env tag txn (.resync g)) s fun t =>
      t.sgroup g = some { x with fullDue := true } ∧ DistOnly s t) ∧
  (∀ (env : MgmtEnv) (cp : Completion) (s u : State), s.tsu.b.node = some env.dst → mgmtIn s .tsu none env = (u, true) →
    Completes (.mgmtCompletionReceive env cp) s fun t =>
      let found := u.tsu.remotes.find? fun r => r.tag == cp.tag && (r.dst == env.src || r.dst == allRoots)
      (found = none ∨ cp.final = false → t = u) ∧
      (∀ r, found = some r → cp.final = true → t.tsu.remotes = u.tsu.remotes.erase r ∧ ((u.mbox r.c.mbx).held = [] →
        ∃ x, lastCompletion t (ofPart .tsu r.c) = some x ∧ x.tag = r.c.tag ∧ x.status = cp.status ∧ x.r0 = cp.r0 ∧ x.r1 = cp.r1 ∧
          x.r2 = cp.r2 ∧ x.final = true)) ∧ TsuOnly s t) ∧
  (∀ (env : MgmtEnv) (cp : Completion) (s u : State), s.tsu.b.node ≠ some env.dst → mgmtIn s .dist none env = (u, true) →
    Completes (.mgmtCompletionReceive env cp) s fun t =>
      (cp.final = false → t = u) ∧
      (cp.final = true → (∃ e ∈ u.dist.sv.mbOpen, e.1 = cp.tag) → t.dist.sv.remoteCpl.head? = some cp) ∧
      (cp.final = true → (∀ e ∈ u.dist.sv.mbOpen, e.1 ≠ cp.tag) → cp.opcode ≠ 0x48 → t = u) ∧ DistOnly s t)

/-- A full completion ring (R388): the Headstock takes no further command from that mailbox, and a completion that comes is held behind
those held already, with the ring as it was. When software advances the consumer index, held completions that fit follow into the
ring in their order. A completion written where there is room takes the producer's place and leaves every one that is still
outstanding. -/
def Obligations.FullRingsHoldTheirCompletions : Prop :=
  (∀ (i : Instr) (c : Cmd) (s : State), mailboxCmd i = some c → c.part = .tsu → c.mbx ≤ 3 → ringFull (s.mbox c.mbx) = true →
    exec i s = .next s) ∧
  (∀ (m : Nat) (x : Completion) (s : State), ringFull (s.mbox m) = true →
    (cplPost s m x).mbox m = { s.mbox m with held := (s.mbox m).held ++ [x] }) ∧
  (∀ (m : Nat) (x : Completion) (s : State), ringFull (s.mbox m) = false →
    let b := s.mbox m
    let d := (cplPost s m x).mbox m
    d.held = b.held ∧ d.cplProd = b.cplProd + 1 ∧ tget none d.ring (b.cplProd.toNat % 64) = some x ∧
    ∀ k, k < (b.cplProd - b.cplCons).toNat →
      tget none d.ring ((b.cplCons.toNat + k) % 64) = tget none b.ring ((b.cplCons.toNat + k) % 64)) ∧
  (∀ (m : Nat) (v : BitVec 16) (s : State), m ≤ 3 → let b := s.mbox m
    (b.cplProd - v).toNat + b.held.length ≤ 64 → (v - b.cplCons).toNat ≤ (b.cplProd - b.cplCons).toNat →
    Completes (.mbCplConsWrite m v) s fun t => (t.mbox m).held = [] ∧ (t.mbox m).cplCons = v ∧
      (t.mbox m).cplProd = b.cplProd + BitVec.ofNat 16 b.held.length ∧
      ∀ k x, b.held[k]? = some x → tget none (t.mbox m).ring ((b.cplProd.toNat + k) % 64) = some x)

/-- Stamps (R409 to R415, R419, R498, R499). An edge that a channel does not take leaves all; before its interpolators lock it is
counted in TIM_UNLOCKED, and with both busy in TIM_DROP. Else it is stamped: every QUEUE_DIV-th stamp enters the queue of 256 or
counts in TIM_OVERRUN, a statistics unit takes it, an interval unit that starts on the channel opens, and one that stops on it
closes. The self-check of an interpolator (R335, R413): one that is not due leaves all. A result within 2 tu clears its count of
failures; one beyond sets TIM_FAULT, adds to it, and is reported against the part itself, as a hard event from the second failure in
a row on. -/
def Obligations.StampsAreTakenAndChecked : Prop :=
  ((∀ (p : Part) (n tap : Nat) (fall tx : Bool) (s : State), n < chanCount p → tap < 64 → chanTakes s p n fall = false →
    exec (.timEvent p n fall tx tap) s = .next s) ∧
  (∀ (p : Part) (n tap : Nat) (fall tx : Bool) (s : State), n < chanCount p → tap < 64 → chanTakes s p n fall = true →
    Completes (.timEvent p n fall tx tap) s fun t =>
      let c := s.chan p n
      let d := t.chan p n
      let st := stampOf s p n tap
      let free := interpFor p n c tx (s.now p + tu tap)
      let turn := c.queueEn = true ∧ (c.seen + 1) % chanDiv p n c = 0
      (c.lock = false → (t.base p).ctr .timUnlocked n = (s.base p).ctr .timUnlocked n + 1 ∧ (t.base p).chans = (s.base p).chans) ∧
      (c.lock = true → free = none → (t.base p).ctr .timDrop n = (s.base p).ctr .timDrop n + 1 ∧
        (t.base p).chans = (s.base p).chans) ∧
      (∀ b, c.lock = true → free = some b →
        d.seen = (c.seen + 1) % chanDiv p n c ∧ d.checkDue = (c.checkDue || decide (c.stamps + 1 = 1024)) ∧
        (¬ turn → d.queue = c.queue) ∧
        (turn → c.queue.length < 256 → ∃ e, d.queue = c.queue ++ [e] ∧ e.st = st ∧ e.fall = fall ∧ e.tx = tx ∧ e.interpB = b) ∧
        (turn → 256 ≤ c.queue.length → d.queue = c.queue ∧ (t.base p).ctr .timOverrun n = (s.base p).ctr .timOverrun n + 1) ∧
        tget {} (t.base p).stats n = statStamp (s.base p).map.alignAt st (tget {} (s.base p).stats n) ∧
        (∀ k, k < unitCount p → (s.unit p k).enable = true → (s.unit p k).start = n → (s.unit p k).stop ≠ n →
          (s.unit p k).open_ = none → (t.unit p k).open_ = some (st, (s.base p).perf.cycles.toNat, tap)) ∧
        (∀ k a, k < unitCount p → (s.unit p k).enable = true → (s.unit p k).start ≠ n → (s.unit p k).stop = n →
          (s.unit p k).open_ = some a → stLater st a.1 = true → (s.unit p k).queue.length < 256 →
          (t.unit p k).open_ = none ∧
          (t.unit p k).queue = (s.unit p k).queue ++ [intResult a (st, (s.base p).perf.cycles.toNat, tap)])) ∧ PartOnly p s t) ∧
  (∀ (p : Part) (n : Nat) (s : State), n < chanCount p → Completes (.dllLock p n) s fun t =>
    t.chan p n = { s.chan p n with lock := true } ∧ (∀ k, k ≠ n → t.chan p k = s.chan p k) ∧ PartOnly p s t) ∧
  (∀ (p : Part) (n tap : Nat) (fall tx : Bool) (s : State), chanCount p ≤ n → exec (.dllLock p n) s = .fault .noSuchUnit ∧
    exec (.timEvent p n fall tx tap) s = .fault .noSuchUnit) ∧
  (∀ (p : Part) (k : Nat) (v : W64) (s : State), k < unitCount p → Completes (.intControlWrite p k v) s fun t =>
    let n := v.toNat
    let a := match p with | .tsu => bits n 6 4 | .dist => bits n 15 8
    let b := match p with | .tsu => bits n 10 8 | .dist => bits n 23 16
    t.unit p k = { s.unit p k with
      enable := n.testBit 0, start := min a (chanCount p - 1), stop := min b (chanCount p - 1), open_ := none } ∧
    (∀ j, j ≠ k → t.unit p j = s.unit p j) ∧ PartOnly p s t) ∧
  (∀ (p : Part) (k : Nat) (s : State), k < unitCount p →
    let u := s.unit p k
    (u.open_ = none ∨ u.timeout = 0 → exec (.intLegacyTimeout p k) s = .next s) ∧
    (∀ a, u.open_ = some a → (s.base p).perf.cycles.toNat < a.2.1 + u.timeout.toNat → exec (.intLegacyTimeout p k) s = .next s) ∧
    (∀ a, u.open_ = some a → u.timeout ≠ 0 → a.2.1 + u.timeout.toNat ≤ (s.base p).perf.cycles.toNat → u.queue.length < 256 →
      Completes (.intLegacyTimeout p k) s fun t => (t.unit p k).open_ = none ∧ (∃ e, (t.unit p k).queue = u.queue ++ [e] ∧
        e.timeout = true ∧ e.ns = u.timeout ∧ e.tu.toNat = u.timeout.toNat * 64) ∧ PartOnly p s t)) ∧
  (∀ (p : Part) (k : Nat) (v : W64) (s : State), k < chanCount p + unitCount p → Completes (.statStart p k v) s fun t =>
    let q := tget {} (t.base p).stats k
    let r := tget {} (s.base p).stats k
    q.src = min 2 (bits v.toNat 4 3) ∧ q.phaseAlign = v.toNat.testBit 5 ∧ q.n = r.n ∧ q.period = r.period ∧
    (v.toNat.testBit 0 = true → q.running = true ∧ q.count = 0 ∧ q.sum = 0 ∧ q.prev = none ∧ q.done = false) ∧
    (v.toNat.testBit 0 = false → q.running = r.running ∧ q.count = r.count ∧ q.sum = r.sum ∧ q.done = r.done) ∧
    (∀ j, j ≠ k → tget {} (t.base p).stats j = tget {} (s.base p).stats j) ∧
    (bits v.toNat 4 3 = 3 → (t.base p).ctr .clamp 0 = (s.base p).ctr .clamp 0 + 1) ∧ PartOnly p s t)) ∧
  (∀ (p : Part) (n : Nat) (b : Bool) (v : Int) (s : State), n < chanCount p →
    let c := s.chan p n
    let old := if b then c.failsB else c.failsA
    (c.checkDue = false ∨ c.checkB ≠ b → exec (.timSelfCheck p n b v) s = .next s) ∧
    (c.checkDue = true → c.checkB = b → Completes (.timSelfCheck p n b v) s fun t =>
      let d := t.chan p n
      let fails := if b then d.failsB else d.failsA
      d.checkDue = false ∧ d.checkB = !b ∧ (if b then d.checkValB else d.checkValA) = v ∧ d.queue = c.queue ∧
      (v.natAbs ≤ 2 → fails = 0 ∧ d.fault = c.fault ∧ (t.base p).fr = (s.base p).fr) ∧
      (2 < v.natAbs → fails = old + 1 ∧ d.fault = true ∧ ((p = .dist → P1Room s 4) →
        ∀ k ∈ reportPorts s p (s.node p), ReportWaits t p k (s.node p) (decide (2 ≤ old + 1)) causeInterp)) ∧ PartOnly p s t))

/-- The flight recorder (R424 to R428, R500). FR_ARM clears a FROZEN or IDLE one, which is ARMED once clear; FR_DISARM stops it.
FR_TRIGGER with its source selected starts the count of entries after the trigger, and in FROZEN counts as missed. It is FROZEN when
that count is done. A SOFTWARE write goes into the ring of an ARMED one; in FROZEN it counts in FR_LOST, and with its class masked
it leaves the ring. Performance counters and histograms (R430 to R432, R439). PERF_SEL holds what R430 and R431 allow of a write,
and CLEAR zeroes the counter's value; PERF_FREEZE stops all; a snapshot latches them with the time, once in a cycle; HIST_CLEAR
empties a unit. -/
def Obligations.TheRecorderAndTheCountersObserve : Prop :=
  (∀ (p : Part) (s : State),
    let r := (s.base p).fr
    (r.state ≠ .frozen → r.state ≠ .idle → exec (.frArm p) s = .next s) ∧
    (r.state = .frozen ∨ r.state = .idle → Completes (.frArm p) s fun t => (t.base p).fr = { r with
      state := .rearming, ring := [], wp := 0, written := 0, preCount := 0, left := 0, first := 0 } ∧ PartOnly p s t) ∧
    (Completes (.frDisarm p) s fun t => (t.base p).fr = { r with state := .idle } ∧ PartOnly p s t) ∧
    (r.trigMask.toNat.testBit 5 = false ∨ r.state = .idle → exec (.frTrigger p) s = .next s) ∧
    (r.trigMask.toNat.testBit 5 = true → r.state = .armed → r.classMask.toNat.testBit 9 = true → Completes (.frTrigger p) s fun t =>
      let d := (t.base p).fr
      d.state = .triggered ∧ d.left = frCap p - frDepth p r - 1 ∧ d.preCount = min (frDepth p r) r.written ∧
      d.written = r.written + 1 ∧ (∃ e, tget none d.ring (r.wp % frCap p) = some e ∧ e.trig = true ∧ e.st = s.now p) ∧
      PartOnly p s t) ∧
    (r.trigMask.toNat.testBit 5 = true → r.state = .frozen → Completes (.frTrigger p) s fun t =>
      (t.base p).fr.missed = min 65535 (r.missed + 1) ∧ (t.base p).fr.ring = r.ring ∧
      (r.missed = 0 → (t.base p).fr.missedFirst = s.now p) ∧ PartOnly p s t) ∧
    (Completes (.missedClr p) s fun t => (t.base p).fr = { r with missed := 0, missedFirst := 0 } ∧ PartOnly p s t) ∧
    (r.state = .rearming → Completes (.frRearmComplete p) s fun t => (t.base p).fr = { r with state := .armed } ∧ PartOnly p s t) ∧
    (r.state ≠ .rearming → exec (.frRearmComplete p) s = .next s) ∧
    (r.state = .triggered → r.left = 0 → Completes (.frFreeze p) s fun t => (t.base p).fr = { r with state := .frozen } ∧ PartOnly p s t) ∧
    (r.state ≠ .triggered ∨ r.left ≠ 0 → exec (.frFreeze p) s = .next s) ∧
    ∀ (v : W64), Completes (.frSoftwareWrite p v) s fun t =>
      let d := (t.base p).fr
      d.soft = r.soft.take 5 ++ [v] ∧
      (r.classMask.toNat.testBit 10 = false → d.ring = r.ring ∧ d.state = r.state) ∧
      (r.classMask.toNat.testBit 10 = true → r.state = .armed → frIsTrig r 10 false = false →
        (∃ e, tget none d.ring (r.wp % frCap p) = some e ∧ e.st = s.now p ∧ e.cls = 10 ∧ e.trig = false ∧
          e.body = d.soft.flatMap fun w => leBytes 8 w.toNat) ∧
        d.wp = (r.wp + 1) % frCap p ∧ d.written = r.written + 1 ∧ d.state = .armed) ∧
      (r.classMask.toNat.testBit 10 = true → r.state = .frozen → d.ring = r.ring ∧
        (t.base p).ctr .frLost 0 = (s.base p).ctr .frLost 0 + 1) ∧ PartOnly p s t) ∧
  ((∀ (p : Part) (n : Nat) (v : W64) (s : State), n < 8 → (perfSelOf p v.toNat).2 = false → Completes (.perfSelWrite p n v) s fun t =>
    let old := tget {} (s.base p).perf.ctrs n
    tget {} (t.base p).perf.ctrs n = { old with
      sel := BitVec.ofNat 64 (perfSelOf p v.toNat).1, val := if v.toNat.testBit 62 then 0 else old.val } ∧
    (∀ k, k ≠ n → tget {} (t.base p).perf.ctrs k = tget {} (s.base p).perf.ctrs k) ∧ PartOnly p s t) ∧
  (∀ (p : Part) (n : Nat) (v : W64) (s : State), n < 8 → (perfSelOf p v.toNat).2 = true → Completes (.perfSelWrite p n v) s fun t =>
    (t.base p).ctr .clamp 0 = (s.base p).ctr .clamp 0 + 1 ∧ PartOnly p s t) ∧
  (∀ (p : Part) (n : Nat) (v : W64) (s : State), 8 ≤ n → exec (.perfSelWrite p n v) s = .fault .noSuchUnit ∧
    exec (.perfClear p n) s = .fault .noSuchUnit) ∧
  (∀ (p : Part) (n : Nat) (s : State), n < 8 → Completes (.perfClear p n) s fun t =>
    tget {} (t.base p).perf.ctrs n = { tget {} (s.base p).perf.ctrs n with val := 0 } ∧
    (∀ k, k ≠ n → tget {} (t.base p).perf.ctrs k = tget {} (s.base p).perf.ctrs k) ∧ PartOnly p s t) ∧
  (∀ (p : Part) (b : Bool) (s : State), Completes (.perfFreeze p b) s fun t =>
    (t.base p).perf = { (s.base p).perf with freeze := b } ∧ PartOnly p s t) ∧
  (∀ (p : Part) (s : State),
    ((s.base p).perf.lastSnap = some (s.base p).perf.cycles → exec (.perfSnap p) s = .next s) ∧
    ((s.base p).perf.lastSnap ≠ some (s.base p).perf.cycles → Completes (.perfSnap p) s fun t =>
      (t.base p).perf.snapSt = s.now p ∧ (t.base p).perf.lastSnap = some (s.base p).perf.cycles ∧
      (∀ n, (tget {} (s.base p).perf.ctrs n).val ≠ 0 →
        tget {} (t.base p).perf.ctrs n = { tget {} (s.base p).perf.ctrs n with snap := (tget {} (s.base p).perf.ctrs n).val }) ∧
      PartOnly p s t)) ∧
  (∀ (p : Part) (h : Nat) (s : State), h < 4 → Completes (.histClear p h) s fun t =>
    tget {} (t.base p).perf.hists h = { tget {} (s.base p).perf.hists h with bins := [], samples := 0, max := 0, neg := 0, drop := 0 } ∧
    (∀ k, k ≠ h → tget {} (t.base p).perf.hists k = tget {} (s.base p).perf.hists k) ∧ PartOnly p s t))

/-- Reads (R9, R48, R434, R488, R490, R502, R521). A read gives its value and changes nothing of the other part. The lowest word of a
queue removes and captures the oldest entry, whose next word the next register gives; a read of an RC counter gives it, held to its
field, and clears it; the ledger window captures an entry where the part serves it, else reads 0; the slice view shows a counter to
its owner alone, and a refused access counts. -/
def Obligations.ReadsCaptureAndClear : Prop :=
  (∀ (p : Part) (off : Nat) (i : Instr) (s : State), i = .queueRead p off ∨ i = .rcRegisterRead p off → Completes i s fun t =>
    t.pending = s.pending ∧ (p = .tsu → t.dist = s.dist) ∧ (p = .dist → t.tsu = s.tsu) ∧
    (p = .dist → off % 8 ≠ 0 → t = { s with rdata := 0 })) ∧
  (∀ (p : Part) (n : Nat) (s : State), n < chanCount p →
    let off := match p with | .tsu => 0x4100 + 16 * n | .dist => 0x20800 + 16 * n
    Completes (.queueRead p off) s fun t =>
      (t.chan p n).queue = (s.chan p n).queue.drop 1 ∧ (t.chan p n).captured = (s.chan p n).queue.head? ∧
      t.rdata = BitVec.ofNat 64 ((timWords (s.chan p n).queue.head?)[0]?.getD 0) ∧
      (∀ k, k ≠ n → t.chan p k = s.chan p k)) ∧
  (∀ (p : Part) (n : Nat) (s : State), n < chanCount p →
    let off := match p with | .tsu => 0x4108 + 16 * n | .dist => 0x20808 + 16 * n
    exec (.queueRead p off) s =
      .next { s with rdata := match (s.chan p n).captured with | some e => e.st | none => 0 }) ∧
  (∀ (s : State), Completes (.queueRead .tsu 0x6060) s fun t =>
    t.tsu.plate.events = s.tsu.plate.events.drop 1 ∧ t.tsu.plate.evCap = s.tsu.plate.events.head?) ∧
  (∀ (s : State), Completes (.queueRead .tsu 0x6160) s fun t =>
    t.tsu.sync.faults = s.tsu.sync.faults.drop 1 ∧ t.tsu.sync.faultCap = s.tsu.sync.faults.head? ∧
    ∀ f, s.tsu.sync.faults.head? = some f → t.rdata = ((ctrFaultWords f)[0]?).getD 0) ∧
  (∀ (c : Ctr) (k : Nat) (s : State), page0Ctrs[k]? = some c → Completes (.rcRegisterRead .tsu (0x80 + 4 * k)) s fun t =>
    t.rdata = BitVec.ofNat 64 (min (2 ^ 32 - 1) ((s.base .tsu).ctr c 0)) ∧ (t.base .tsu).ctr c 0 = 0 ∧
    (∀ d j, (d, j) ≠ (c, 0) → j < 2 ^ 20 → (t.base .tsu).ctr d j = (s.base .tsu).ctr d j)) ∧
  (∀ (s : State), Completes (.rcRegisterRead .dist 0x4800) s fun t =>
    t.rdata = BitVec.ofNat 64 (min (2 ^ 32 - 1) ((s.base .dist).ctr .postStray 0)) ∧ (t.base .dist).ctr .postStray 0 = 0) ∧
  (∀ (s : State), Completes .ledgerEntryRead s fun t =>
    (s.role = .root ∨ s.dist.mem.elected = true → t.dist.led.cap = entryBytes (s.entry s.dist.led.sel) ∧
      t.rdata = BitVec.ofNat 64 (beNat ((entryBytes (s.entry s.dist.led.sel)).take 8)) ∧
      t = { s with dist := { s.dist with led := { s.dist.led with cap := t.dist.led.cap } }, rdata := t.rdata }) ∧
    (s.role ≠ .root → s.dist.mem.elected = false → t = { s with rdata := 0 })) ∧
  (∀ (off : Nat) (w : Bool) (v : W64) (s : State), Completes (.slicePagePerfAccess off w v) s fun t =>
    t.dist = s.dist ∧ t.pending = s.pending ∧ (w = true → t.rdata = s.rdata) ∧
    (off = 0x18 → w = false → t.rdata = BitVec.ofNat 64 s.tsu.b.perf.access) ∧ (off = 0x18 → w = true → t = s) ∧
    (∀ n, n < 8 → off = 0x80 + 8 * n → w = false → (tget {} s.tsu.b.perf.ctrs n).sel.toNat.testBit 61 = true →
      s.tsu.b.perf.access ≠ 0 → t.rdata = BitVec.ofNat 64 (tget {} s.tsu.b.perf.ctrs n).val) ∧
    (∀ n, n < 8 → off = 0x80 + 8 * n → w = false →
      (tget {} s.tsu.b.perf.ctrs n).sel.toNat.testBit 61 = false ∨ s.tsu.b.perf.access = 0 → t.rdata = 0) ∧
    (∀ n, n < 8 → off = 0x40 + 8 * n → w = true →
      (tget {} s.tsu.b.perf.ctrs n).sel.toNat.testBit 61 = false ∨ s.tsu.b.perf.access < 2 →
      s.tsu.b.perf.freeze = true ∨ (tget {} s.tsu.b.perf.ctrs n).sel ≠ 0 →
      (tget {} t.tsu.b.perf.ctrs n).sel = (tget {} s.tsu.b.perf.ctrs n).sel) ∧
    (∀ n, n < 8 → off = 0x40 + 8 * n → w = true → (tget {} s.tsu.b.perf.ctrs n).sel.toNat.testBit 61 = true →
      s.tsu.b.perf.access = 2 → (perfSelOf .tsu (sliceFilter s v.toNat)).2 = false →
      (tget {} t.tsu.b.perf.ctrs n).sel = BitVec.ofNat 64 (perfSelOf .tsu (sliceFilter s v.toNat)).1))

/-- Writes (R9, R238, R457, R485 to R490, R500, R503, R510). A write changes nothing of the other part; one to a register that software
may not write leaves all. An alert cause is cleared by 1s, unless at a die it persists, and with none left the alert line is
released. A word of LB_MASK is set, but while its barrier is open LB_BUSY is set instead. Selectors, TIM_CONTROL, TIM_FAULT and
ST_INIT take their fields. -/
def Obligations.WritesSetTheirFields : Prop :=
  (∀ (p : Part) (off : Nat) (v : W64) (i : Instr) (s : State), i = .registerWrite p off v ∨ i = .rw1cWrite p off v →
    Completes i s fun t => PartOnly p s t ∧
      (p = .dist → off % 8 ≠ 0 → t = s) ∧
      (p = .tsu → off = 0x00 ∨ off = 0x08 ∨ off = 0x10 ∨ off = 0x18 ∨ off = 0x40 ∨ off = 0x6000 ∨ off = 0x6018 → t = s) ∧
      (p = .tsu → off = 0x60C0 → t.tsu.sync = { s.tsu.sync with ctrSel := bits v.toNat 11 0 }) ∧
      (p = .tsu → off = 0x6070 → t.tsu.plate = { s.tsu.plate with sel := bits v.toNat 12 0, selStaged := v.toNat.testBit 16 }) ∧
      (p = .tsu → off = 0x4000 → ∀ n, n < 8 → (t.chan .tsu n).fault = ((s.chan .tsu n).fault && !v.toNat.testBit (8 + n))) ∧
      (p = .tsu → ∀ n, n < 8 → off = 0x4040 + 8 * n → (t.chan .tsu n).queueEn = v.toNat.testBit 4 ∧
        (t.chan .tsu n).div = max 1 (bits v.toNat 31 16) ∧ (n = 4 ∨ n = 5 → (t.chan .tsu n).edge = min 2 (bits v.toNat 1 0)) ∧
        (n = 6 ∨ n = 7 → (t.chan .tsu n).intSrc = bits v.toNat 3 2) ∧ (t.chan .tsu n).queue = (s.chan .tsu n).queue) ∧
      (p = .dist → off = 0x1200 → t.dist.refs.stInit =
        if s.role = .root ∧ s.dist.b.t.held = false ∧ s.dist.refs.stInitLocked = false then v else s.dist.refs.stInit) ∧
      (p = .dist → off = 0x53000 → t.dist.fab.acctSlice = bits v.toNat 5 0 ∧ t.dist.fab.acctPort = bits v.toNat 22 16)) ∧
  (∀ (p : Part) (v : W64) (s : State), Completes (.alertCauseClear p v) s fun t =>
    (p = .tsu → t.tsu.b.hs.alert = (s.tsu.b.hs.alert &&& ~~~v) ||| BitVec.ofNat 64 (alertNow s) ∧
      t.tsu.die.alertN = decide (t.tsu.b.hs.alert ≠ 0) ∧
      (s.tsu.b.t.noTime = true → t.tsu.b.hs.alert.getLsbD 1 = true) ∧
      (s.tsu.b.t.disagree = true → t.tsu.b.hs.alert.getLsbD 0 = true)) ∧
    (p = .dist → t.dist.b.hs.alert = s.dist.b.hs.alert &&& ~~~v ∧ t.dist.sv.alertN = decide (t.dist.b.hs.alert ≠ 0)) ∧
    PartOnly p s t) ∧
  (∀ (w : Nat) (v : W64) (s : State), w < 9 → Completes (.lbMaskWrite w v) s fun t =>
    let k := s.tsu.sync.lbSel
    ((localOf s k).open_ = true → t = { s with tsu := { s.tsu with sync := { s.tsu.sync with lbBusy := true } } }) ∧
    ((localOf s k).open_ = false → bits (localOf t k).mask (64 * w + 63) (64 * w) = v.toNat ∧
      (∀ j, j ≠ w → bits (localOf t k).mask (64 * j + 63) (64 * j) = bits (localOf s k).mask (64 * j + 63) (64 * j)) ∧
      (∀ j, j ≠ k → localOf t j = localOf s j) ∧ TsuOnly s t)) ∧
  (∀ (w : Nat) (v : W64) (s : State), 9 ≤ w → exec (.lbMaskWrite w v) s = .fault .noSuchUnit) ∧
  (∀ (s : State), Completes .functionLevelReset s fun t => t.tsu.mbs = [] ∧ t.tsu.remotes = [] ∧ t.tsu.fab.ops = [] ∧
    t.tsu.die.msixOn = false ∧ t.tsu.die.msixOpen = 0 ∧ t.tsu.die.pba = 0 ∧
    t.tsu.b.txns = s.tsu.b.txns.map (fun q => { q with cmd := none, rollCmd := none }) ∧
    t.tsu.sync = s.tsu.sync ∧ t.tsu.plate = s.tsu.plate ∧ t.tsu.turn = s.tsu.turn ∧ t.tsu.b.t = s.tsu.b.t ∧
    t.tsu.b.ports = s.tsu.b.ports ∧ t.tsu.fab.mem = s.tsu.fab.mem ∧ TsuOnly s t)

/-- Hardware events (R454, R470, R476, R479 to R482). A broken presence, JTAG EXTEST and the trip at 120 degrees put every port DOWN; a
board that is not DRAINED stops with its presence. A removal request shows and is sent on once, and a DRAINED board may be
withdrawn. Junction temperature is shown; below 0 the ports wait, above TJ_WARN_LEVEL it warns, at 110 it is a hard event. A module
that is present and ready has its power set within GUARD_LASER; one that is gone takes its port DOWN. REFCLK_RANGE follows its
detector. -/
def Obligations.HardwareEventsReachThePorts : Prop :=
  (∀ (s : State), Completes .presenceMate s fun t => t.dist.sv.present = true ∧ t.dist.sv.dark = s.dist.sv.lostPresence ∧
    (s.dist.sv.lostPresence = true → t = { s with dist := { s.dist with sv := { s.dist.sv with present := true, dark := true } } }) ∧
    (∀ i, i < 128 → s.dist.sv.lostPresence = false → (s.port .dist i).link.state = .down →
      portArmed { s with dist := { s.dist with sv := { s.dist.sv with present := true, dark := false } } } .dist i = true →
      (tget {} (s.port .dist i).link.lanes 0).signal = true → (t.port .dist i).link.state = .train) ∧ DistOnly s t) ∧
  (∀ (s : State), Completes .presenceBreak s fun t => t.dist.sv.present = false ∧ t.dist.sv.dark = true ∧
    (∀ i, i < 128 → (t.port .dist i).link.state = .down ∧ (t.port .dist i).lasersOn = false) ∧
    (s.dist.sv.state ≠ .drained → t.dist.sv.lostPresence = true ∧ t.dist.b.hs.running = false) ∧
    (s.dist.sv.state = .drained → t.dist.sv.lostPresence = s.dist.sv.lostPresence ∧ t.dist.b.hs.running = s.dist.b.hs.running) ∧
    DistOnly s t) ∧
  (∀ (s : State), (s.dist.sv.removeReq = true → exec .removeRequest s = .next s) ∧
    (s.dist.sv.removeReq = false → Completes .removeRequest s fun t =>
      t.dist.sv.removeReq = true ∧ t.dist.b.hs.alert.getLsbD 6 = true ∧ t.dist.sv.alertN = true ∧
      (s.dist.sv.state = .drained → t.dist.sv.removeOk = true ∧ t.dist.sv.attnLow = true) ∧
      (s.dist.sv.state ≠ .drained → t.dist.sv.removeOk = s.dist.sv.removeOk) ∧
      (∀ k ∈ routeOwn s .dist allRoots s.dist.b.hs.msgId.toNat, (s.port .dist k).tx.mgmtCount + 1 ≤ mgmtGuard s.dist.b →
        ∃ o m n x, CellWaits t .dist k o ∧ o.body = .mgmt allRoots m (s.node .dist) n x (.removeRequest (s.node .dist))) ∧
      DistOnly s t)) ∧
  (∀ (tj : Int) (s : State), exec (.junctionTempChange .tsu tj) s = .next { s with tsu := { s.tsu with b := { s.tsu.b with tj } } }) ∧
  (∀ (tj : Int) (s : State), Completes (.junctionTempChange .dist tj) s fun t => t.dist.b.tj = tj ∧
    t.dist.sv.coldHold = decide (tj < 0) ∧ t.dist.sv.tjWarn = decide ((tjWarnLevel s : Int) < tj) ∧
    (tj < 0 → s.dist.sv.coldHold = false → ∀ i, i < 128 → (t.port .dist i).link.state = .down) ∧
    ((tjWarnLevel s : Int) < tj → s.dist.sv.tjWarn = false → t.dist.b.hs.alert.getLsbD 5 = true) ∧
    (110 ≤ tj → s.dist.b.tj < 110 → t.dist.b.hs.alert.getLsbD 8 = true) ∧
    (120 ≤ tj → s.dist.sv.tripped = false → t.dist.sv.tripped = true ∧ ∀ i, i < 128 → (t.port .dist i).link.state = .down) ∧
    DistOnly s t) ∧
  (∀ (s : State), Completes .jtagExtest s fun t => t.dist.sv.jtag = true ∧
    (∀ i, i < 128 → (t.port .dist i).link.state = .down ∧ (t.port .dist i).lasersOn = false) ∧ DistOnly s t) ∧
  (∀ (p : Part) (b : Bool) (s : State), Completes (.refclkRange p b) s fun t =>
    (t.base p).t = { (s.base p).t with refclkRange := b } ∧ PartOnly p s t) ∧
  (∀ (i : Instr) (bus : Nat) (here ready : BitVec 8) (s : State), i = .moduleInterrupt bus here ready ∨ i = .modulePoll bus here ready →
    (16 ≤ bus → exec i s = .fault .noSuchUnit) ∧ (bus < 16 → s.dist.b.hs.running = false → exec i s = .next s) ∧
    (bus < 16 → s.dist.b.hs.running = true → Completes i s fun t =>
      (∀ k, k < 8 → here.getLsbD k = true → (t.port .dist (8 * bus + k)).modPresent = true ∧
        (t.port .dist (8 * bus + k)).modReady = ready.getLsbD k ∧ (t.port .dist (8 * bus + k)).link.optical = true ∧
        (ready.getLsbD k = true → (t.port .dist (8 * bus + k)).laser = laserSetting s ∧ (t.port .dist (8 * bus + k)).laser ≤ 300)) ∧
      (∀ k, k < 8 → here.getLsbD k = false → (s.port .dist (8 * bus + k)).modPresent = true →
        (t.port .dist (8 * bus + k)).modPresent = false ∧ (t.port .dist (8 * bus + k)).modReady = false ∧
        (t.port .dist (8 * bus + k)).laser = 0 ∧ (t.port .dist (8 * bus + k)).link.state = .down) ∧
      (∀ j, j < 8 * bus ∨ 8 * bus + 8 ≤ j → (t.port .dist j).link = (s.port .dist j).link ∧
        (t.port .dist j).modPresent = (s.port .dist j).modPresent) ∧ DistOnly s t))

/-- The machine after reset (R23, R24, R359, R426, R436, R491, R492, R500, R503, R512 to R514): no command waits, neither part holds
time, every port is DOWN, every configured register reads its reset value, the recorder of each part is ARMED with three quarters of
its ring before a trigger, and the tables are in their canonical form. -/
def Obligations.ResetLeavesTheGivenValues : Prop :=
  State.reset.pending = [] ∧ Canonical State.reset ∧
  (∀ p : Part, (State.reset.base p).t.held = false ∧ (State.reset.base p).hs.running = false ∧
    (∀ i, (State.reset.port p i).link.state = .down ∧ (State.reset.port p i).live = false) ∧
    (State.reset.base p).fr.state = .armed ∧ (State.reset.base p).fr.classMask = 0x7FE ∧
    frDepth p (State.reset.base p).fr = 3 * frCap p / 4 ∧ (∀ r ∈ cfgRegs p, cfgValue State.reset p r.off = r.reset)) ∧
  (tsuRead 0x00 State.reset).1 = 0x17504 ∧ (distRead 0x00 State.reset).1 = 0x0102D128 ∧ (distRead 0x38 State.reset).1 = 0x1D1286BB ∧
  State.reset.tsu.die.state = .blank ∧ State.reset.dist.sv.state = .offline

/-- Collect memory and both parts' tables of ports keep their canonical form: addresses strictly rising, and no entry equal to what an
unlisted one reads as. It holds after every step from every state in which it holds, whatever command is at the front. -/
def Obligations.EveryStepKeepsTheCanonicalForm : Prop :=
 ∀ (s t : State), Canonical s → step s = .next t → Canonical t
end

