-- ==== Sys2Proof/Laws/State.lean ====
section
/-! SUPPORT. One lemma per field for each update of a component of the state. -/

namespace Sys2Proof.Machine

/-! ### The state of a part -/

@[simp] theorem base_tsu (s : State) : s.base .tsu = s.tsu.b := rfl
@[simp] theorem base_dist (s : State) : s.base .dist = s.dist.b := rfl

/-! ### modDie -/

@[simp] theorem State.modDie_b (s : State) (f : Die → Die) : (s.modDie f).tsu.b = s.tsu.b := rfl
@[simp] theorem State.modDie_die (s : State) (f : Die → Die) : (s.modDie f).tsu.die = f s.tsu.die := rfl
@[simp] theorem State.modDie_mark (s : State) (f : Die → Die) : (s.modDie f).tsu.mark = s.tsu.mark := rfl
@[simp] theorem State.modDie_regions (s : State) (f : Die → Die) : (s.modDie f).tsu.regions = s.tsu.regions := rfl
@[simp] theorem State.modDie_turn (s : State) (f : Die → Die) : (s.modDie f).tsu.turn = s.tsu.turn := rfl
@[simp] theorem State.modDie_plate (s : State) (f : Die → Die) : (s.modDie f).tsu.plate = s.tsu.plate := rfl
@[simp] theorem State.modDie_sync (s : State) (f : Die → Die) : (s.modDie f).tsu.sync = s.tsu.sync := rfl
@[simp] theorem State.modDie_fab (s : State) (f : Die → Die) : (s.modDie f).tsu.fab = s.tsu.fab := rfl
@[simp] theorem State.modDie_mbs (s : State) (f : Die → Die) : (s.modDie f).tsu.mbs = s.tsu.mbs := rfl
@[simp] theorem State.modDie_remotes (s : State) (f : Die → Die) : (s.modDie f).tsu.remotes = s.tsu.remotes := rfl
@[simp] theorem State.modDie_dist (s : State) (f : Die → Die) : (s.modDie f).dist = s.dist := rfl
@[simp] theorem State.modDie_rdata (s : State) (f : Die → Die) : (s.modDie f).rdata = s.rdata := rfl
@[simp] theorem State.modDie_pending (s : State) (f : Die → Die) : (s.modDie f).pending = s.pending := rfl

/-! ### modMark -/

@[simp] theorem State.modMark_b (s : State) (f : MarkPath → MarkPath) : (s.modMark f).tsu.b = s.tsu.b := rfl
@[simp] theorem State.modMark_die (s : State) (f : MarkPath → MarkPath) : (s.modMark f).tsu.die = s.tsu.die := rfl
@[simp] theorem State.modMark_mark (s : State) (f : MarkPath → MarkPath) : (s.modMark f).tsu.mark = f s.tsu.mark := rfl
@[simp] theorem State.modMark_regions (s : State) (f : MarkPath → MarkPath) : (s.modMark f).tsu.regions = s.tsu.regions := rfl
@[simp] theorem State.modMark_turn (s : State) (f : MarkPath → MarkPath) : (s.modMark f).tsu.turn = s.tsu.turn := rfl
@[simp] theorem State.modMark_plate (s : State) (f : MarkPath → MarkPath) : (s.modMark f).tsu.plate = s.tsu.plate := rfl
@[simp] theorem State.modMark_sync (s : State) (f : MarkPath → MarkPath) : (s.modMark f).tsu.sync = s.tsu.sync := rfl
@[simp] theorem State.modMark_fab (s : State) (f : MarkPath → MarkPath) : (s.modMark f).tsu.fab = s.tsu.fab := rfl
@[simp] theorem State.modMark_mbs (s : State) (f : MarkPath → MarkPath) : (s.modMark f).tsu.mbs = s.tsu.mbs := rfl
@[simp] theorem State.modMark_remotes (s : State) (f : MarkPath → MarkPath) : (s.modMark f).tsu.remotes = s.tsu.remotes := rfl
@[simp] theorem State.modMark_dist (s : State) (f : MarkPath → MarkPath) : (s.modMark f).dist = s.dist := rfl
@[simp] theorem State.modMark_rdata (s : State) (f : MarkPath → MarkPath) : (s.modMark f).rdata = s.rdata := rfl
@[simp] theorem State.modMark_pending (s : State) (f : MarkPath → MarkPath) : (s.modMark f).pending = s.pending := rfl

/-! ### modPlate -/

@[simp] theorem State.modPlate_b (s : State) (f : Plate → Plate) : (s.modPlate f).tsu.b = s.tsu.b := rfl
@[simp] theorem State.modPlate_die (s : State) (f : Plate → Plate) : (s.modPlate f).tsu.die = s.tsu.die := rfl
@[simp] theorem State.modPlate_mark (s : State) (f : Plate → Plate) : (s.modPlate f).tsu.mark = s.tsu.mark := rfl
@[simp] theorem State.modPlate_regions (s : State) (f : Plate → Plate) : (s.modPlate f).tsu.regions = s.tsu.regions := rfl
@[simp] theorem State.modPlate_turn (s : State) (f : Plate → Plate) : (s.modPlate f).tsu.turn = s.tsu.turn := rfl
@[simp] theorem State.modPlate_plate (s : State) (f : Plate → Plate) : (s.modPlate f).tsu.plate = f s.tsu.plate := rfl
@[simp] theorem State.modPlate_sync (s : State) (f : Plate → Plate) : (s.modPlate f).tsu.sync = s.tsu.sync := rfl
@[simp] theorem State.modPlate_fab (s : State) (f : Plate → Plate) : (s.modPlate f).tsu.fab = s.tsu.fab := rfl
@[simp] theorem State.modPlate_mbs (s : State) (f : Plate → Plate) : (s.modPlate f).tsu.mbs = s.tsu.mbs := rfl
@[simp] theorem State.modPlate_remotes (s : State) (f : Plate → Plate) : (s.modPlate f).tsu.remotes = s.tsu.remotes := rfl
@[simp] theorem State.modPlate_dist (s : State) (f : Plate → Plate) : (s.modPlate f).dist = s.dist := rfl
@[simp] theorem State.modPlate_rdata (s : State) (f : Plate → Plate) : (s.modPlate f).rdata = s.rdata := rfl
@[simp] theorem State.modPlate_pending (s : State) (f : Plate → Plate) : (s.modPlate f).pending = s.pending := rfl

/-! ### modSync -/

@[simp] theorem State.modSync_b (s : State) (f : Sync → Sync) : (s.modSync f).tsu.b = s.tsu.b := rfl
@[simp] theorem State.modSync_die (s : State) (f : Sync → Sync) : (s.modSync f).tsu.die = s.tsu.die := rfl
@[simp] theorem State.modSync_mark (s : State) (f : Sync → Sync) : (s.modSync f).tsu.mark = s.tsu.mark := rfl
@[simp] theorem State.modSync_regions (s : State) (f : Sync → Sync) : (s.modSync f).tsu.regions = s.tsu.regions := rfl
@[simp] theorem State.modSync_turn (s : State) (f : Sync → Sync) : (s.modSync f).tsu.turn = s.tsu.turn := rfl
@[simp] theorem State.modSync_plate (s : State) (f : Sync → Sync) : (s.modSync f).tsu.plate = s.tsu.plate := rfl
@[simp] theorem State.modSync_sync (s : State) (f : Sync → Sync) : (s.modSync f).tsu.sync = f s.tsu.sync := rfl
@[simp] theorem State.modSync_fab (s : State) (f : Sync → Sync) : (s.modSync f).tsu.fab = s.tsu.fab := rfl
@[simp] theorem State.modSync_mbs (s : State) (f : Sync → Sync) : (s.modSync f).tsu.mbs = s.tsu.mbs := rfl
@[simp] theorem State.modSync_remotes (s : State) (f : Sync → Sync) : (s.modSync f).tsu.remotes = s.tsu.remotes := rfl
@[simp] theorem State.modSync_dist (s : State) (f : Sync → Sync) : (s.modSync f).dist = s.dist := rfl
@[simp] theorem State.modSync_rdata (s : State) (f : Sync → Sync) : (s.modSync f).rdata = s.rdata := rfl
@[simp] theorem State.modSync_pending (s : State) (f : Sync → Sync) : (s.modSync f).pending = s.pending := rfl

/-! ### modFab -/

@[simp] theorem State.modFab_b (s : State) (f : DieFabric → DieFabric) : (s.modFab f).tsu.b = s.tsu.b := rfl
@[simp] theorem State.modFab_die (s : State) (f : DieFabric → DieFabric) : (s.modFab f).tsu.die = s.tsu.die := rfl
@[simp] theorem State.modFab_mark (s : State) (f : DieFabric → DieFabric) : (s.modFab f).tsu.mark = s.tsu.mark := rfl
@[simp] theorem State.modFab_regions (s : State) (f : DieFabric → DieFabric) : (s.modFab f).tsu.regions = s.tsu.regions := rfl
@[simp] theorem State.modFab_turn (s : State) (f : DieFabric → DieFabric) : (s.modFab f).tsu.turn = s.tsu.turn := rfl
@[simp] theorem State.modFab_plate (s : State) (f : DieFabric → DieFabric) : (s.modFab f).tsu.plate = s.tsu.plate := rfl
@[simp] theorem State.modFab_sync (s : State) (f : DieFabric → DieFabric) : (s.modFab f).tsu.sync = s.tsu.sync := rfl
@[simp] theorem State.modFab_fab (s : State) (f : DieFabric → DieFabric) : (s.modFab f).tsu.fab = f s.tsu.fab := rfl
@[simp] theorem State.modFab_mbs (s : State) (f : DieFabric → DieFabric) : (s.modFab f).tsu.mbs = s.tsu.mbs := rfl
@[simp] theorem State.modFab_remotes (s : State) (f : DieFabric → DieFabric) : (s.modFab f).tsu.remotes = s.tsu.remotes := rfl
@[simp] theorem State.modFab_dist (s : State) (f : DieFabric → DieFabric) : (s.modFab f).dist = s.dist := rfl
@[simp] theorem State.modFab_rdata (s : State) (f : DieFabric → DieFabric) : (s.modFab f).rdata = s.rdata := rfl
@[simp] theorem State.modFab_pending (s : State) (f : DieFabric → DieFabric) : (s.modFab f).pending = s.pending := rfl

/-! ### modSv -/

@[simp] theorem State.modSv_b (s : State) (f : Service → Service) : (s.modSv f).dist.b = s.dist.b := rfl
@[simp] theorem State.modSv_sv (s : State) (f : Service → Service) : (s.modSv f).dist.sv = f s.dist.sv := rfl
@[simp] theorem State.modSv_fab (s : State) (f : Service → Service) : (s.modSv f).dist.fab = s.dist.fab := rfl
@[simp] theorem State.modSv_refs (s : State) (f : Service → Service) : (s.modSv f).dist.refs = s.dist.refs := rfl
@[simp] theorem State.modSv_mem (s : State) (f : Service → Service) : (s.modSv f).dist.mem = s.dist.mem := rfl
@[simp] theorem State.modSv_led (s : State) (f : Service → Service) : (s.modSv f).dist.led = s.dist.led := rfl
@[simp] theorem State.modSv_digests (s : State) (f : Service → Service) : (s.modSv f).dist.digests = s.dist.digests := rfl
@[simp] theorem State.modSv_tsu (s : State) (f : Service → Service) : (s.modSv f).tsu = s.tsu := rfl
@[simp] theorem State.modSv_rdata (s : State) (f : Service → Service) : (s.modSv f).rdata = s.rdata := rfl
@[simp] theorem State.modSv_pending (s : State) (f : Service → Service) : (s.modSv f).pending = s.pending := rfl

/-! ### modFabric -/

@[simp] theorem State.modFabric_b (s : State) (f : Fabric → Fabric) : (s.modFabric f).dist.b = s.dist.b := rfl
@[simp] theorem State.modFabric_sv (s : State) (f : Fabric → Fabric) : (s.modFabric f).dist.sv = s.dist.sv := rfl
@[simp] theorem State.modFabric_fab (s : State) (f : Fabric → Fabric) : (s.modFabric f).dist.fab = f s.dist.fab := rfl
@[simp] theorem State.modFabric_refs (s : State) (f : Fabric → Fabric) : (s.modFabric f).dist.refs = s.dist.refs := rfl
@[simp] theorem State.modFabric_mem (s : State) (f : Fabric → Fabric) : (s.modFabric f).dist.mem = s.dist.mem := rfl
@[simp] theorem State.modFabric_led (s : State) (f : Fabric → Fabric) : (s.modFabric f).dist.led = s.dist.led := rfl
@[simp] theorem State.modFabric_digests (s : State) (f : Fabric → Fabric) : (s.modFabric f).dist.digests = s.dist.digests := rfl
@[simp] theorem State.modFabric_tsu (s : State) (f : Fabric → Fabric) : (s.modFabric f).tsu = s.tsu := rfl
@[simp] theorem State.modFabric_rdata (s : State) (f : Fabric → Fabric) : (s.modFabric f).rdata = s.rdata := rfl
@[simp] theorem State.modFabric_pending (s : State) (f : Fabric → Fabric) : (s.modFabric f).pending = s.pending := rfl

/-! ### modRefs -/

@[simp] theorem State.modRefs_b (s : State) (f : Refs → Refs) : (s.modRefs f).dist.b = s.dist.b := rfl
@[simp] theorem State.modRefs_sv (s : State) (f : Refs → Refs) : (s.modRefs f).dist.sv = s.dist.sv := rfl
@[simp] theorem State.modRefs_fab (s : State) (f : Refs → Refs) : (s.modRefs f).dist.fab = s.dist.fab := rfl
@[simp] theorem State.modRefs_refs (s : State) (f : Refs → Refs) : (s.modRefs f).dist.refs = f s.dist.refs := rfl
@[simp] theorem State.modRefs_mem (s : State) (f : Refs → Refs) : (s.modRefs f).dist.mem = s.dist.mem := rfl
@[simp] theorem State.modRefs_led (s : State) (f : Refs → Refs) : (s.modRefs f).dist.led = s.dist.led := rfl
@[simp] theorem State.modRefs_digests (s : State) (f : Refs → Refs) : (s.modRefs f).dist.digests = s.dist.digests := rfl
@[simp] theorem State.modRefs_tsu (s : State) (f : Refs → Refs) : (s.modRefs f).tsu = s.tsu := rfl
@[simp] theorem State.modRefs_rdata (s : State) (f : Refs → Refs) : (s.modRefs f).rdata = s.rdata := rfl
@[simp] theorem State.modRefs_pending (s : State) (f : Refs → Refs) : (s.modRefs f).pending = s.pending := rfl

/-! ### modMem -/

@[simp] theorem State.modMem_b (s : State) (f : Membership → Membership) : (s.modMem f).dist.b = s.dist.b := rfl
@[simp] theorem State.modMem_sv (s : State) (f : Membership → Membership) : (s.modMem f).dist.sv = s.dist.sv := rfl
@[simp] theorem State.modMem_fab (s : State) (f : Membership → Membership) : (s.modMem f).dist.fab = s.dist.fab := rfl
@[simp] theorem State.modMem_refs (s : State) (f : Membership → Membership) : (s.modMem f).dist.refs = s.dist.refs := rfl
@[simp] theorem State.modMem_mem (s : State) (f : Membership → Membership) : (s.modMem f).dist.mem = f s.dist.mem := rfl
@[simp] theorem State.modMem_led (s : State) (f : Membership → Membership) : (s.modMem f).dist.led = s.dist.led := rfl
@[simp] theorem State.modMem_digests (s : State) (f : Membership → Membership) : (s.modMem f).dist.digests = s.dist.digests := rfl
@[simp] theorem State.modMem_tsu (s : State) (f : Membership → Membership) : (s.modMem f).tsu = s.tsu := rfl
@[simp] theorem State.modMem_rdata (s : State) (f : Membership → Membership) : (s.modMem f).rdata = s.rdata := rfl
@[simp] theorem State.modMem_pending (s : State) (f : Membership → Membership) : (s.modMem f).pending = s.pending := rfl

/-! ### modLed -/

@[simp] theorem State.modLed_b (s : State) (f : Ledger → Ledger) : (s.modLed f).dist.b = s.dist.b := rfl
@[simp] theorem State.modLed_sv (s : State) (f : Ledger → Ledger) : (s.modLed f).dist.sv = s.dist.sv := rfl
@[simp] theorem State.modLed_fab (s : State) (f : Ledger → Ledger) : (s.modLed f).dist.fab = s.dist.fab := rfl
@[simp] theorem State.modLed_refs (s : State) (f : Ledger → Ledger) : (s.modLed f).dist.refs = s.dist.refs := rfl
@[simp] theorem State.modLed_mem (s : State) (f : Ledger → Ledger) : (s.modLed f).dist.mem = s.dist.mem := rfl
@[simp] theorem State.modLed_led (s : State) (f : Ledger → Ledger) : (s.modLed f).dist.led = f s.dist.led := rfl
@[simp] theorem State.modLed_digests (s : State) (f : Ledger → Ledger) : (s.modLed f).dist.digests = s.dist.digests := rfl
@[simp] theorem State.modLed_tsu (s : State) (f : Ledger → Ledger) : (s.modLed f).tsu = s.tsu := rfl
@[simp] theorem State.modLed_rdata (s : State) (f : Ledger → Ledger) : (s.modLed f).rdata = s.rdata := rfl
@[simp] theorem State.modLed_pending (s : State) (f : Ledger → Ledger) : (s.modLed f).pending = s.pending := rfl

/-! ### modBase: the common state of one part -/

@[simp] theorem State.modBase_tsu_b (s : State) (f : Base → Base) : (s.modBase .tsu f).tsu.b = f s.tsu.b := rfl
@[simp] theorem State.modBase_tsu_die (s : State) (f : Base → Base) : (s.modBase .tsu f).tsu.die = s.tsu.die := rfl
@[simp] theorem State.modBase_tsu_mark (s : State) (f : Base → Base) : (s.modBase .tsu f).tsu.mark = s.tsu.mark := rfl
@[simp] theorem State.modBase_tsu_regions (s : State) (f : Base → Base) : (s.modBase .tsu f).tsu.regions = s.tsu.regions := rfl
@[simp] theorem State.modBase_tsu_turn (s : State) (f : Base → Base) : (s.modBase .tsu f).tsu.turn = s.tsu.turn := rfl
@[simp] theorem State.modBase_tsu_plate (s : State) (f : Base → Base) : (s.modBase .tsu f).tsu.plate = s.tsu.plate := rfl
@[simp] theorem State.modBase_tsu_sync (s : State) (f : Base → Base) : (s.modBase .tsu f).tsu.sync = s.tsu.sync := rfl
@[simp] theorem State.modBase_tsu_fab (s : State) (f : Base → Base) : (s.modBase .tsu f).tsu.fab = s.tsu.fab := rfl
@[simp] theorem State.modBase_tsu_mbs (s : State) (f : Base → Base) : (s.modBase .tsu f).tsu.mbs = s.tsu.mbs := rfl
@[simp] theorem State.modBase_tsu_remotes (s : State) (f : Base → Base) : (s.modBase .tsu f).tsu.remotes = s.tsu.remotes := rfl
@[simp] theorem State.modBase_tsu_dist (s : State) (f : Base → Base) : (s.modBase .tsu f).dist = s.dist := rfl
@[simp] theorem State.modBase_dist_b (s : State) (f : Base → Base) : (s.modBase .dist f).dist.b = f s.dist.b := rfl
@[simp] theorem State.modBase_dist_sv (s : State) (f : Base → Base) : (s.modBase .dist f).dist.sv = s.dist.sv := rfl
@[simp] theorem State.modBase_dist_fab (s : State) (f : Base → Base) : (s.modBase .dist f).dist.fab = s.dist.fab := rfl
@[simp] theorem State.modBase_dist_refs (s : State) (f : Base → Base) : (s.modBase .dist f).dist.refs = s.dist.refs := rfl
@[simp] theorem State.modBase_dist_mem (s : State) (f : Base → Base) : (s.modBase .dist f).dist.mem = s.dist.mem := rfl
@[simp] theorem State.modBase_dist_led (s : State) (f : Base → Base) : (s.modBase .dist f).dist.led = s.dist.led := rfl
@[simp] theorem State.modBase_dist_digests (s : State) (f : Base → Base) : (s.modBase .dist f).dist.digests = s.dist.digests := rfl
@[simp] theorem State.modBase_dist_tsu (s : State) (f : Base → Base) : (s.modBase .dist f).tsu = s.tsu := rfl
@[simp] theorem State.modBase_base (s : State) (p : Part) (f : Base → Base) : (s.modBase p f).base p = f (s.base p) := by cases p <;> rfl
@[simp] theorem State.modBase_rdata (s : State) (p : Part) (f : Base → Base) : (s.modBase p f).rdata = s.rdata := by cases p <;> rfl
@[simp] theorem State.modBase_pending (s : State) (p : Part) (f : Base → Base) : (s.modBase p f).pending = s.pending := by cases p <;> rfl

/-! ### modTime -/

@[simp] theorem State.modTime_node (s : State) (p : Part) (f : TimeState → TimeState) : ((s.modTime p f).base p).node = (s.base p).node := by cases p <;> rfl
@[simp] theorem State.modTime_t (s : State) (p : Part) (f : TimeState → TimeState) : ((s.modTime p f).base p).t = f (s.base p).t := by cases p <;> rfl
@[simp] theorem State.modTime_ports (s : State) (p : Part) (f : TimeState → TimeState) : ((s.modTime p f).base p).ports = (s.base p).ports := by cases p <;> rfl
@[simp] theorem State.modTime_ep (s : State) (p : Part) (f : TimeState → TimeState) : ((s.modTime p f).base p).ep = (s.base p).ep := by cases p <;> rfl
@[simp] theorem State.modTime_map (s : State) (p : Part) (f : TimeState → TimeState) : ((s.modTime p f).base p).map = (s.base p).map := by cases p <;> rfl
@[simp] theorem State.modTime_chans (s : State) (p : Part) (f : TimeState → TimeState) : ((s.modTime p f).base p).chans = (s.base p).chans := by cases p <;> rfl
@[simp] theorem State.modTime_stats (s : State) (p : Part) (f : TimeState → TimeState) : ((s.modTime p f).base p).stats = (s.base p).stats := by cases p <;> rfl
@[simp] theorem State.modTime_units (s : State) (p : Part) (f : TimeState → TimeState) : ((s.modTime p f).base p).units = (s.base p).units := by cases p <;> rfl
@[simp] theorem State.modTime_fr (s : State) (p : Part) (f : TimeState → TimeState) : ((s.modTime p f).base p).fr = (s.base p).fr := by cases p <;> rfl
@[simp] theorem State.modTime_perf (s : State) (p : Part) (f : TimeState → TimeState) : ((s.modTime p f).base p).perf = (s.base p).perf := by cases p <;> rfl
@[simp] theorem State.modTime_hs (s : State) (p : Part) (f : TimeState → TimeState) : ((s.modTime p f).base p).hs = (s.base p).hs := by cases p <;> rfl
@[simp] theorem State.modTime_txns (s : State) (p : Part) (f : TimeState → TimeState) : ((s.modTime p f).base p).txns = (s.base p).txns := by cases p <;> rfl
@[simp] theorem State.modTime_due (s : State) (p : Part) (f : TimeState → TimeState) : ((s.modTime p f).base p).due = (s.base p).due := by cases p <;> rfl
@[simp] theorem State.modTime_triadDue (s : State) (p : Part) (f : TimeState → TimeState) : ((s.modTime p f).base p).triadDue = (s.base p).triadDue := by cases p <;> rfl
@[simp] theorem State.modTime_cnt (s : State) (p : Part) (f : TimeState → TimeState) : ((s.modTime p f).base p).cnt = (s.base p).cnt := by cases p <;> rfl
@[simp] theorem State.modTime_cfg (s : State) (p : Part) (f : TimeState → TimeState) : ((s.modTime p f).base p).cfg = (s.base p).cfg := by cases p <;> rfl
@[simp] theorem State.modTime_tj (s : State) (p : Part) (f : TimeState → TimeState) : ((s.modTime p f).base p).tj = (s.base p).tj := by cases p <;> rfl
@[simp] theorem State.modTime_drawn (s : State) (p : Part) (f : TimeState → TimeState) : ((s.modTime p f).base p).drawn = (s.base p).drawn := by cases p <;> rfl
@[simp] theorem State.modTime_rdata (s : State) (p : Part) (f : TimeState → TimeState) : (s.modTime p f).rdata = s.rdata := by cases p <;> rfl
@[simp] theorem State.modTime_pending (s : State) (p : Part) (f : TimeState → TimeState) : (s.modTime p f).pending = s.pending := by cases p <;> rfl
@[simp] theorem State.modTime_tsu_dist (s : State) (f : TimeState → TimeState) : (s.modTime .tsu f).dist = s.dist := rfl
@[simp] theorem State.modTime_dist_tsu (s : State) (f : TimeState → TimeState) : (s.modTime .dist f).tsu = s.tsu := rfl

/-! ### modEp -/

@[simp] theorem State.modEp_node (s : State) (p : Part) (f : Epochs → Epochs) : ((s.modEp p f).base p).node = (s.base p).node := by cases p <;> rfl
@[simp] theorem State.modEp_t (s : State) (p : Part) (f : Epochs → Epochs) : ((s.modEp p f).base p).t = (s.base p).t := by cases p <;> rfl
@[simp] theorem State.modEp_ports (s : State) (p : Part) (f : Epochs → Epochs) : ((s.modEp p f).base p).ports = (s.base p).ports := by cases p <;> rfl
@[simp] theorem State.modEp_ep (s : State) (p : Part) (f : Epochs → Epochs) : ((s.modEp p f).base p).ep = f (s.base p).ep := by cases p <;> rfl
@[simp] theorem State.modEp_map (s : State) (p : Part) (f : Epochs → Epochs) : ((s.modEp p f).base p).map = (s.base p).map := by cases p <;> rfl
@[simp] theorem State.modEp_chans (s : State) (p : Part) (f : Epochs → Epochs) : ((s.modEp p f).base p).chans = (s.base p).chans := by cases p <;> rfl
@[simp] theorem State.modEp_stats (s : State) (p : Part) (f : Epochs → Epochs) : ((s.modEp p f).base p).stats = (s.base p).stats := by cases p <;> rfl
@[simp] theorem State.modEp_units (s : State) (p : Part) (f : Epochs → Epochs) : ((s.modEp p f).base p).units = (s.base p).units := by cases p <;> rfl
@[simp] theorem State.modEp_fr (s : State) (p : Part) (f : Epochs → Epochs) : ((s.modEp p f).base p).fr = (s.base p).fr := by cases p <;> rfl
@[simp] theorem State.modEp_perf (s : State) (p : Part) (f : Epochs → Epochs) : ((s.modEp p f).base p).perf = (s.base p).perf := by cases p <;> rfl
@[simp] theorem State.modEp_hs (s : State) (p : Part) (f : Epochs → Epochs) : ((s.modEp p f).base p).hs = (s.base p).hs := by cases p <;> rfl
@[simp] theorem State.modEp_txns (s : State) (p : Part) (f : Epochs → Epochs) : ((s.modEp p f).base p).txns = (s.base p).txns := by cases p <;> rfl
@[simp] theorem State.modEp_due (s : State) (p : Part) (f : Epochs → Epochs) : ((s.modEp p f).base p).due = (s.base p).due := by cases p <;> rfl
@[simp] theorem State.modEp_triadDue (s : State) (p : Part) (f : Epochs → Epochs) : ((s.modEp p f).base p).triadDue = (s.base p).triadDue := by cases p <;> rfl
@[simp] theorem State.modEp_cnt (s : State) (p : Part) (f : Epochs → Epochs) : ((s.modEp p f).base p).cnt = (s.base p).cnt := by cases p <;> rfl
@[simp] theorem State.modEp_cfg (s : State) (p : Part) (f : Epochs → Epochs) : ((s.modEp p f).base p).cfg = (s.base p).cfg := by cases p <;> rfl
@[simp] theorem State.modEp_tj (s : State) (p : Part) (f : Epochs → Epochs) : ((s.modEp p f).base p).tj = (s.base p).tj := by cases p <;> rfl
@[simp] theorem State.modEp_drawn (s : State) (p : Part) (f : Epochs → Epochs) : ((s.modEp p f).base p).drawn = (s.base p).drawn := by cases p <;> rfl
@[simp] theorem State.modEp_rdata (s : State) (p : Part) (f : Epochs → Epochs) : (s.modEp p f).rdata = s.rdata := by cases p <;> rfl
@[simp] theorem State.modEp_pending (s : State) (p : Part) (f : Epochs → Epochs) : (s.modEp p f).pending = s.pending := by cases p <;> rfl
@[simp] theorem State.modEp_tsu_dist (s : State) (f : Epochs → Epochs) : (s.modEp .tsu f).dist = s.dist := rfl
@[simp] theorem State.modEp_dist_tsu (s : State) (f : Epochs → Epochs) : (s.modEp .dist f).tsu = s.tsu := rfl

/-! ### modMap -/

@[simp] theorem State.modMap_node (s : State) (p : Part) (f : MapState → MapState) : ((s.modMap p f).base p).node = (s.base p).node := by cases p <;> rfl
@[simp] theorem State.modMap_t (s : State) (p : Part) (f : MapState → MapState) : ((s.modMap p f).base p).t = (s.base p).t := by cases p <;> rfl
@[simp] theorem State.modMap_ports (s : State) (p : Part) (f : MapState → MapState) : ((s.modMap p f).base p).ports = (s.base p).ports := by cases p <;> rfl
@[simp] theorem State.modMap_ep (s : State) (p : Part) (f : MapState → MapState) : ((s.modMap p f).base p).ep = (s.base p).ep := by cases p <;> rfl
@[simp] theorem State.modMap_map (s : State) (p : Part) (f : MapState → MapState) : ((s.modMap p f).base p).map = f (s.base p).map := by cases p <;> rfl
@[simp] theorem State.modMap_chans (s : State) (p : Part) (f : MapState → MapState) : ((s.modMap p f).base p).chans = (s.base p).chans := by cases p <;> rfl
@[simp] theorem State.modMap_stats (s : State) (p : Part) (f : MapState → MapState) : ((s.modMap p f).base p).stats = (s.base p).stats := by cases p <;> rfl
@[simp] theorem State.modMap_units (s : State) (p : Part) (f : MapState → MapState) : ((s.modMap p f).base p).units = (s.base p).units := by cases p <;> rfl
@[simp] theorem State.modMap_fr (s : State) (p : Part) (f : MapState → MapState) : ((s.modMap p f).base p).fr = (s.base p).fr := by cases p <;> rfl
@[simp] theorem State.modMap_perf (s : State) (p : Part) (f : MapState → MapState) : ((s.modMap p f).base p).perf = (s.base p).perf := by cases p <;> rfl
@[simp] theorem State.modMap_hs (s : State) (p : Part) (f : MapState → MapState) : ((s.modMap p f).base p).hs = (s.base p).hs := by cases p <;> rfl
@[simp] theorem State.modMap_txns (s : State) (p : Part) (f : MapState → MapState) : ((s.modMap p f).base p).txns = (s.base p).txns := by cases p <;> rfl
@[simp] theorem State.modMap_due (s : State) (p : Part) (f : MapState → MapState) : ((s.modMap p f).base p).due = (s.base p).due := by cases p <;> rfl
@[simp] theorem State.modMap_triadDue (s : State) (p : Part) (f : MapState → MapState) : ((s.modMap p f).base p).triadDue = (s.base p).triadDue := by cases p <;> rfl
@[simp] theorem State.modMap_cnt (s : State) (p : Part) (f : MapState → MapState) : ((s.modMap p f).base p).cnt = (s.base p).cnt := by cases p <;> rfl
@[simp] theorem State.modMap_cfg (s : State) (p : Part) (f : MapState → MapState) : ((s.modMap p f).base p).cfg = (s.base p).cfg := by cases p <;> rfl
@[simp] theorem State.modMap_tj (s : State) (p : Part) (f : MapState → MapState) : ((s.modMap p f).base p).tj = (s.base p).tj := by cases p <;> rfl
@[simp] theorem State.modMap_drawn (s : State) (p : Part) (f : MapState → MapState) : ((s.modMap p f).base p).drawn = (s.base p).drawn := by cases p <;> rfl
@[simp] theorem State.modMap_rdata (s : State) (p : Part) (f : MapState → MapState) : (s.modMap p f).rdata = s.rdata := by cases p <;> rfl
@[simp] theorem State.modMap_pending (s : State) (p : Part) (f : MapState → MapState) : (s.modMap p f).pending = s.pending := by cases p <;> rfl
@[simp] theorem State.modMap_tsu_dist (s : State) (f : MapState → MapState) : (s.modMap .tsu f).dist = s.dist := rfl
@[simp] theorem State.modMap_dist_tsu (s : State) (f : MapState → MapState) : (s.modMap .dist f).tsu = s.tsu := rfl

/-! ### modHs -/

@[simp] theorem State.modHs_node (s : State) (p : Part) (f : Headstock → Headstock) : ((s.modHs p f).base p).node = (s.base p).node := by cases p <;> rfl
@[simp] theorem State.modHs_t (s : State) (p : Part) (f : Headstock → Headstock) : ((s.modHs p f).base p).t = (s.base p).t := by cases p <;> rfl
@[simp] theorem State.modHs_ports (s : State) (p : Part) (f : Headstock → Headstock) : ((s.modHs p f).base p).ports = (s.base p).ports := by cases p <;> rfl
@[simp] theorem State.modHs_ep (s : State) (p : Part) (f : Headstock → Headstock) : ((s.modHs p f).base p).ep = (s.base p).ep := by cases p <;> rfl
@[simp] theorem State.modHs_map (s : State) (p : Part) (f : Headstock → Headstock) : ((s.modHs p f).base p).map = (s.base p).map := by cases p <;> rfl
@[simp] theorem State.modHs_chans (s : State) (p : Part) (f : Headstock → Headstock) : ((s.modHs p f).base p).chans = (s.base p).chans := by cases p <;> rfl
@[simp] theorem State.modHs_stats (s : State) (p : Part) (f : Headstock → Headstock) : ((s.modHs p f).base p).stats = (s.base p).stats := by cases p <;> rfl
@[simp] theorem State.modHs_units (s : State) (p : Part) (f : Headstock → Headstock) : ((s.modHs p f).base p).units = (s.base p).units := by cases p <;> rfl
@[simp] theorem State.modHs_fr (s : State) (p : Part) (f : Headstock → Headstock) : ((s.modHs p f).base p).fr = (s.base p).fr := by cases p <;> rfl
@[simp] theorem State.modHs_perf (s : State) (p : Part) (f : Headstock → Headstock) : ((s.modHs p f).base p).perf = (s.base p).perf := by cases p <;> rfl
@[simp] theorem State.modHs_hs (s : State) (p : Part) (f : Headstock → Headstock) : ((s.modHs p f).base p).hs = f (s.base p).hs := by cases p <;> rfl
@[simp] theorem State.modHs_txns (s : State) (p : Part) (f : Headstock → Headstock) : ((s.modHs p f).base p).txns = (s.base p).txns := by cases p <;> rfl
@[simp] theorem State.modHs_due (s : State) (p : Part) (f : Headstock → Headstock) : ((s.modHs p f).base p).due = (s.base p).due := by cases p <;> rfl
@[simp] theorem State.modHs_triadDue (s : State) (p : Part) (f : Headstock → Headstock) : ((s.modHs p f).base p).triadDue = (s.base p).triadDue := by cases p <;> rfl
@[simp] theorem State.modHs_cnt (s : State) (p : Part) (f : Headstock → Headstock) : ((s.modHs p f).base p).cnt = (s.base p).cnt := by cases p <;> rfl
@[simp] theorem State.modHs_cfg (s : State) (p : Part) (f : Headstock → Headstock) : ((s.modHs p f).base p).cfg = (s.base p).cfg := by cases p <;> rfl
@[simp] theorem State.modHs_tj (s : State) (p : Part) (f : Headstock → Headstock) : ((s.modHs p f).base p).tj = (s.base p).tj := by cases p <;> rfl
@[simp] theorem State.modHs_drawn (s : State) (p : Part) (f : Headstock → Headstock) : ((s.modHs p f).base p).drawn = (s.base p).drawn := by cases p <;> rfl
@[simp] theorem State.modHs_rdata (s : State) (p : Part) (f : Headstock → Headstock) : (s.modHs p f).rdata = s.rdata := by cases p <;> rfl
@[simp] theorem State.modHs_pending (s : State) (p : Part) (f : Headstock → Headstock) : (s.modHs p f).pending = s.pending := by cases p <;> rfl
@[simp] theorem State.modHs_tsu_dist (s : State) (f : Headstock → Headstock) : (s.modHs .tsu f).dist = s.dist := rfl
@[simp] theorem State.modHs_dist_tsu (s : State) (f : Headstock → Headstock) : (s.modHs .dist f).tsu = s.tsu := rfl

/-! ### modFr -/

@[simp] theorem State.modFr_node (s : State) (p : Part) (f : Recorder → Recorder) : ((s.modFr p f).base p).node = (s.base p).node := by cases p <;> rfl
@[simp] theorem State.modFr_t (s : State) (p : Part) (f : Recorder → Recorder) : ((s.modFr p f).base p).t = (s.base p).t := by cases p <;> rfl
@[simp] theorem State.modFr_ports (s : State) (p : Part) (f : Recorder → Recorder) : ((s.modFr p f).base p).ports = (s.base p).ports := by cases p <;> rfl
@[simp] theorem State.modFr_ep (s : State) (p : Part) (f : Recorder → Recorder) : ((s.modFr p f).base p).ep = (s.base p).ep := by cases p <;> rfl
@[simp] theorem State.modFr_map (s : State) (p : Part) (f : Recorder → Recorder) : ((s.modFr p f).base p).map = (s.base p).map := by cases p <;> rfl
@[simp] theorem State.modFr_chans (s : State) (p : Part) (f : Recorder → Recorder) : ((s.modFr p f).base p).chans = (s.base p).chans := by cases p <;> rfl
@[simp] theorem State.modFr_stats (s : State) (p : Part) (f : Recorder → Recorder) : ((s.modFr p f).base p).stats = (s.base p).stats := by cases p <;> rfl
@[simp] theorem State.modFr_units (s : State) (p : Part) (f : Recorder → Recorder) : ((s.modFr p f).base p).units = (s.base p).units := by cases p <;> rfl
@[simp] theorem State.modFr_fr (s : State) (p : Part) (f : Recorder → Recorder) : ((s.modFr p f).base p).fr = f (s.base p).fr := by cases p <;> rfl
@[simp] theorem State.modFr_perf (s : State) (p : Part) (f : Recorder → Recorder) : ((s.modFr p f).base p).perf = (s.base p).perf := by cases p <;> rfl
@[simp] theorem State.modFr_hs (s : State) (p : Part) (f : Recorder → Recorder) : ((s.modFr p f).base p).hs = (s.base p).hs := by cases p <;> rfl
@[simp] theorem State.modFr_txns (s : State) (p : Part) (f : Recorder → Recorder) : ((s.modFr p f).base p).txns = (s.base p).txns := by cases p <;> rfl
@[simp] theorem State.modFr_due (s : State) (p : Part) (f : Recorder → Recorder) : ((s.modFr p f).base p).due = (s.base p).due := by cases p <;> rfl
@[simp] theorem State.modFr_triadDue (s : State) (p : Part) (f : Recorder → Recorder) : ((s.modFr p f).base p).triadDue = (s.base p).triadDue := by cases p <;> rfl
@[simp] theorem State.modFr_cnt (s : State) (p : Part) (f : Recorder → Recorder) : ((s.modFr p f).base p).cnt = (s.base p).cnt := by cases p <;> rfl
@[simp] theorem State.modFr_cfg (s : State) (p : Part) (f : Recorder → Recorder) : ((s.modFr p f).base p).cfg = (s.base p).cfg := by cases p <;> rfl
@[simp] theorem State.modFr_tj (s : State) (p : Part) (f : Recorder → Recorder) : ((s.modFr p f).base p).tj = (s.base p).tj := by cases p <;> rfl
@[simp] theorem State.modFr_drawn (s : State) (p : Part) (f : Recorder → Recorder) : ((s.modFr p f).base p).drawn = (s.base p).drawn := by cases p <;> rfl
@[simp] theorem State.modFr_rdata (s : State) (p : Part) (f : Recorder → Recorder) : (s.modFr p f).rdata = s.rdata := by cases p <;> rfl
@[simp] theorem State.modFr_pending (s : State) (p : Part) (f : Recorder → Recorder) : (s.modFr p f).pending = s.pending := by cases p <;> rfl
@[simp] theorem State.modFr_tsu_dist (s : State) (f : Recorder → Recorder) : (s.modFr .tsu f).dist = s.dist := rfl
@[simp] theorem State.modFr_dist_tsu (s : State) (f : Recorder → Recorder) : (s.modFr .dist f).tsu = s.tsu := rfl

/-! ### modPerf -/

@[simp] theorem State.modPerf_node (s : State) (p : Part) (f : Perf → Perf) : ((s.modPerf p f).base p).node = (s.base p).node := by cases p <;> rfl
@[simp] theorem State.modPerf_t (s : State) (p : Part) (f : Perf → Perf) : ((s.modPerf p f).base p).t = (s.base p).t := by cases p <;> rfl
@[simp] theorem State.modPerf_ports (s : State) (p : Part) (f : Perf → Perf) : ((s.modPerf p f).base p).ports = (s.base p).ports := by cases p <;> rfl
@[simp] theorem State.modPerf_ep (s : State) (p : Part) (f : Perf → Perf) : ((s.modPerf p f).base p).ep = (s.base p).ep := by cases p <;> rfl
@[simp] theorem State.modPerf_map (s : State) (p : Part) (f : Perf → Perf) : ((s.modPerf p f).base p).map = (s.base p).map := by cases p <;> rfl
@[simp] theorem State.modPerf_chans (s : State) (p : Part) (f : Perf → Perf) : ((s.modPerf p f).base p).chans = (s.base p).chans := by cases p <;> rfl
@[simp] theorem State.modPerf_stats (s : State) (p : Part) (f : Perf → Perf) : ((s.modPerf p f).base p).stats = (s.base p).stats := by cases p <;> rfl
@[simp] theorem State.modPerf_units (s : State) (p : Part) (f : Perf → Perf) : ((s.modPerf p f).base p).units = (s.base p).units := by cases p <;> rfl
@[simp] theorem State.modPerf_fr (s : State) (p : Part) (f : Perf → Perf) : ((s.modPerf p f).base p).fr = (s.base p).fr := by cases p <;> rfl
@[simp] theorem State.modPerf_perf (s : State) (p : Part) (f : Perf → Perf) : ((s.modPerf p f).base p).perf = f (s.base p).perf := by cases p <;> rfl
@[simp] theorem State.modPerf_hs (s : State) (p : Part) (f : Perf → Perf) : ((s.modPerf p f).base p).hs = (s.base p).hs := by cases p <;> rfl
@[simp] theorem State.modPerf_txns (s : State) (p : Part) (f : Perf → Perf) : ((s.modPerf p f).base p).txns = (s.base p).txns := by cases p <;> rfl
@[simp] theorem State.modPerf_due (s : State) (p : Part) (f : Perf → Perf) : ((s.modPerf p f).base p).due = (s.base p).due := by cases p <;> rfl
@[simp] theorem State.modPerf_triadDue (s : State) (p : Part) (f : Perf → Perf) : ((s.modPerf p f).base p).triadDue = (s.base p).triadDue := by cases p <;> rfl
@[simp] theorem State.modPerf_cnt (s : State) (p : Part) (f : Perf → Perf) : ((s.modPerf p f).base p).cnt = (s.base p).cnt := by cases p <;> rfl
@[simp] theorem State.modPerf_cfg (s : State) (p : Part) (f : Perf → Perf) : ((s.modPerf p f).base p).cfg = (s.base p).cfg := by cases p <;> rfl
@[simp] theorem State.modPerf_tj (s : State) (p : Part) (f : Perf → Perf) : ((s.modPerf p f).base p).tj = (s.base p).tj := by cases p <;> rfl
@[simp] theorem State.modPerf_drawn (s : State) (p : Part) (f : Perf → Perf) : ((s.modPerf p f).base p).drawn = (s.base p).drawn := by cases p <;> rfl
@[simp] theorem State.modPerf_rdata (s : State) (p : Part) (f : Perf → Perf) : (s.modPerf p f).rdata = s.rdata := by cases p <;> rfl
@[simp] theorem State.modPerf_pending (s : State) (p : Part) (f : Perf → Perf) : (s.modPerf p f).pending = s.pending := by cases p <;> rfl
@[simp] theorem State.modPerf_tsu_dist (s : State) (f : Perf → Perf) : (s.modPerf .tsu f).dist = s.dist := rfl
@[simp] theorem State.modPerf_dist_tsu (s : State) (f : Perf → Perf) : (s.modPerf .dist f).tsu = s.tsu := rfl

end Sys2Proof.Machine
end

