-- ==== Sys2Proof/Laws/Tab.lean ====
section
/-! SUPPORT. The laws of sparse arrays: reading after writing, and that every write keeps the canonical form. -/

namespace Sys2Proof.Machine

variable {α : Type}

@[simp] theorem tget_nil (d : α) (k : Nat) : tget d [] k = d := rfl

/-! ### Reading after writing -/

theorem tget_tput_eq (d : α) (t : Tab α) (k : Nat) (v : α) : tget d (tput t k v) k = v := by
  induction t with
  | nil => simp [tput, tget]
  | cons e t ih =>
    simp only [tput]
    split
    · simp [tget]
    · split
      · simp [tget]
      · rename_i h
        simp [tget, h, ih]

theorem tget_tput_ne (d : α) (t : Tab α) {k j : Nat} (v : α) (h : j ≠ k) : tget d (tput t k v) j = tget d t j := by
  induction t with
  | nil => simp [tput, tget, h]
  | cons e t ih =>
    simp only [tput]
    split
    · simp [tget, h]
    · split
      · rename_i h2
        subst h2
        simp [tget, h]
      · simp [tget, ih]

theorem tget_filter_eq (d : α) (t : Tab α) (k : Nat) : tget d (t.filter fun e => e.1 != k) k = d := by
  induction t with
  | nil => rfl
  | cons e t ih =>
    by_cases h : e.1 = k
    · simp [h, ih]
    · simp [h, tget, ih, Ne.symm h]

theorem tget_filter_ne (d : α) (t : Tab α) {k j : Nat} (h : j ≠ k) :
    tget d (t.filter fun e => e.1 != k) j = tget d t j := by
  induction t with
  | nil => rfl
  | cons e t ih =>
    by_cases h2 : e.1 = k
    · have : j ≠ e.1 := by omega
      simp [h2, tget, ih, h]
    · simp [h2, tget, ih]

/-! ### Rising keys -/

/-- A weaker lower bound stands when keys rise. -/
theorem sortedFrom_weaken {b c : Nat} (h : c ≤ b) : ∀ (t : Tab α), sortedFrom (some b) t = true → sortedFrom (some c) t = true
  | [], _ => rfl
  | (k, v) :: t, hs => by
    simp only [sortedFrom, Bool.and_eq_true, decide_eq_true_eq] at hs ⊢
    exact ⟨by omega, hs.2⟩

theorem sortedFrom_none {b : Nat} : ∀ (t : Tab α), sortedFrom (some b) t = true → sortedFrom none t = true
  | [], _ => rfl
  | (k, v) :: t, hs => by
    simp only [sortedFrom, Bool.and_eq_true] at hs ⊢
    exact hs.2

/-- The tail of an array whose keys rise lies above its head. -/
theorem sortedFrom_tail {b : Option Nat} {a : Nat} {x : α} {t : Tab α} (h : sortedFrom b ((a, x) :: t) = true) :
    sortedFrom (some a) t = true := by
  cases b <;> simp only [sortedFrom, Bool.and_eq_true] at h
  · exact h
  · exact h.2

theorem sortedFrom_tput (k : Nat) (v : α) : ∀ (t : Tab α) (b : Option Nat), sortedFrom b t = true →
    (∀ c, b = some c → c < k) → sortedFrom b (tput t k v) = true
  | [], b, _, hb => by cases b <;> simp_all [tput, sortedFrom]
  | (a, x) :: t, b, hs, hb => by
    have ht := sortedFrom_tail hs
    simp only [tput]
    split
    · cases b <;> simp_all [sortedFrom]
    · split
      · rename_i h1 h2
        subst h2
        cases b <;> simp_all [sortedFrom]
      · rename_i h1 h2
        have hk : ∀ c, some a = some c → c < k := by intro c hc; cases hc; omega
        have := sortedFrom_tput k v t (some a) ht hk
        cases b <;> simp_all [sortedFrom]

theorem sortedFrom_filter (f : Nat × α → Bool) : ∀ (t : Tab α) (b : Option Nat), sortedFrom b t = true →
    sortedFrom b (t.filter f) = true
  | [], _, h => h
  | (a, x) :: t, b, hs => by
    have ih := sortedFrom_filter f t (some a) (sortedFrom_tail hs)
    simp only [List.filter_cons]
    split
    · cases b <;> simp_all [sortedFrom]
    · cases b with
      | none => exact sortedFrom_none _ ih
      | some c =>
        simp only [sortedFrom, Bool.and_eq_true, decide_eq_true_eq] at hs
        exact sortedFrom_weaken (Nat.le_of_lt hs.1) _ ih

theorem all_tput {p : Nat × α → Bool} (k : Nat) (v : α) (t : Tab α) (h : t.all p = true) (hv : p (k, v) = true) :
    (tput t k v).all p = true := by
  induction t with
  | nil => simp [tput, hv]
  | cons e t ih =>
    simp only [List.all_cons, Bool.and_eq_true] at h
    simp only [tput]
    split
    · simp [h.1, h.2, hv]
    · split <;> simp [h.1, h.2, hv, ih h.2]

variable [DecidableEq α]

/-! ### Writes -/

/-- A read after a write of the same key gives the value written. -/
@[simp] theorem tget_tset_eq (d : α) (t : Tab α) (k : Nat) (v : α) : tget d (tset d t k v) k = v := by
  unfold tset
  split
  · rename_i h
    rw [tget_filter_eq, h]
  · exact tget_tput_eq d t k v

/-- A write leaves every other key alone. -/
@[simp] theorem tget_tset_ne (d : α) (t : Tab α) {k j : Nat} (v : α) (h : j ≠ k) :
    tget d (tset d t k v) j = tget d t j := by
  unfold tset
  split
  · exact tget_filter_ne d t h
  · exact tget_tput_ne d t v h

theorem tget_tset (d : α) (t : Tab α) (k j : Nat) (v : α) :
    tget d (tset d t k v) j = if j = k then v else tget d t j := by
  by_cases h : j = k
  · subst h; simp
  · simp [h]

@[simp] theorem tget_tmod_eq (d : α) (t : Tab α) (k : Nat) (f : α → α) : tget d (tmod d t k f) k = f (tget d t k) :=
  tget_tset_eq d t k _

@[simp] theorem tget_tmod_ne (d : α) (t : Tab α) {k j : Nat} (f : α → α) (h : j ≠ k) :
    tget d (tmod d t k f) j = tget d t j := tget_tset_ne d t _ h

theorem tget_tmod (d : α) (t : Tab α) (k j : Nat) (f : α → α) :
    tget d (tmod d t k f) j = if j = k then f (tget d t k) else tget d t j := tget_tset d t k j _

/-! ### The canonical form -/

/-- A write keeps the canonical form. -/
theorem tcanon_tset (d : α) (t : Tab α) (k : Nat) (v : α) (h : tcanon d t = true) : tcanon d (tset d t k v) = true := by
  simp only [tcanon, Bool.and_eq_true] at h ⊢
  unfold tset
  split
  · exact ⟨sortedFrom_filter _ t none h.1, by
      rw [List.all_eq_true] at h ⊢
      intro e he
      exact h.2 e (List.mem_filter.mp he).1⟩
  · exact ⟨sortedFrom_tput k v t none h.1 (by simp), all_tput k v t h.2 (by simpa using ‹¬v = d›)⟩

theorem tcanon_tmod (d : α) (t : Tab α) (k : Nat) (f : α → α) (h : tcanon d t = true) : tcanon d (tmod d t k f) = true :=
  tcanon_tset d t k _ h

@[simp] theorem tcanon_nil (d : α) : tcanon d ([] : Tab α) = true := rfl

/-- The keys of a canonical array rise. -/
theorem sorted_of_tcanon (d : α) (t : Tab α) (h : tcanon d t = true) : sortedFrom none t = true := by
  simp only [tcanon, Bool.and_eq_true] at h
  exact h.1

theorem sortedFrom_tmapAll (d : α) (f : Nat → α → α) : ∀ (t : Tab α) (b : Option Nat), sortedFrom b t = true →
    sortedFrom b (tmapAll d f t) = true
  | [], b, _ => by cases b <;> rfl
  | (a, x) :: t, b, hs => by
    have ih := sortedFrom_tmapAll d f t (some a) (sortedFrom_tail hs)
    simp only [tmapAll]
    split
    · cases b with
      | none => exact sortedFrom_none _ ih
      | some c =>
        simp only [sortedFrom, Bool.and_eq_true, decide_eq_true_eq] at hs
        exact sortedFrom_weaken (Nat.le_of_lt hs.1) _ ih
    · cases b <;> simp_all [sortedFrom]

theorem all_tmapAll (d : α) (f : Nat → α → α) (t : Tab α) : (tmapAll d f t).all (fun e => decide (e.2 ≠ d)) = true := by
  induction t with
  | nil => rfl
  | cons e t ih =>
    obtain ⟨a, x⟩ := e
    simp only [tmapAll]
    split
    · exact ih
    · rename_i hne
      simp only [List.all_cons, Bool.and_eq_true, decide_eq_true_eq]
      exact ⟨hne, ih⟩

/-- Applying a function to every entry keeps the canonical form. -/
theorem tcanon_tmapAll (d : α) (f : Nat → α → α) (t : Tab α) (h : sortedFrom none t = true) :
    tcanon d (tmapAll d f t) = true := by
  simp only [tcanon, Bool.and_eq_true]
  exact ⟨sortedFrom_tmapAll d f t none h, all_tmapAll d f t⟩

/-- Where keys rise, a function that keeps the default acts on every entry. -/
theorem tget_tmapAll (d : α) (f : Nat → α → α) (k : Nat) (hf : f k d = d) : ∀ (t : Tab α), sortedFrom none t = true →
    tget d (tmapAll d f t) k = f k (tget d t k)
  | [], _ => by simp [tmapAll, hf]
  | (a, x) :: t, hs => by
    have ht := sortedFrom_tail hs
    have ih := tget_tmapAll d f k hf t (sortedFrom_none t ht)
    simp only [tmapAll, tget]
    by_cases h : k = a
    · subst h
      have hb : tget d t k = d := by
        suffices H : ∀ (t : Tab α) (b : Nat), k ≤ b → sortedFrom (some b) t = true → tget d t k = d from H t k (Nat.le_refl k) ht
        intro t
        induction t with
        | nil => intros; rfl
        | cons e t ih2 =>
          intro b hb hs
          simp only [sortedFrom, Bool.and_eq_true, decide_eq_true_eq] at hs
          have : ¬ k = e.1 := by omega
          simp only [tget, this, if_false]
          exact ih2 e.1 (by omega) hs.2
      rw [hb, hf] at ih
      split
      · rename_i h2
        simp [ih, h2]
      · simp [tget]
    · split
      · simp [ih]
      · simp [tget, h, ih]

end Sys2Proof.Machine
end

