-- ==== Sys2Proof/Laws/Ops.lean ====
section
/-! SUPPORT. What each shared operation can do, said once: counting and recording, sending cells, raising an event against a part,
completing a command, and writes to collect memory. -/

namespace Sys2Proof.Machine

open Sys2Proof

/-! ### One part alone -/

theorem partOnly_refl (p : Part) (s : State) : PartOnly p s s := by cases p <;> exact ⟨rfl, rfl, rfl⟩

theorem partOnly_trans {p : Part} {s t u : State} (h : PartOnly p s t) (k : PartOnly p t u) : PartOnly p s u := by
  cases p <;> exact ⟨k.1.trans h.1, k.2.1.trans h.2.1, k.2.2.trans h.2.2⟩

theorem modBase_partOnly (s : State) (p : Part) (f : Base → Base) : PartOnly p s (s.modBase p f) := by
  cases p <;> exact ⟨rfl, rfl, rfl⟩

@[simp] theorem base_modBase (s : State) (p : Part) (f : Base → Base) : (s.modBase p f).base p = f (s.base p) := by
  cases p <;> rfl

theorem base_modBase_ne (s : State) {p q : Part} (h : q ≠ p) (f : Base → Base) : (s.modBase p f).base q = s.base q := by
  cases p <;> cases q <;> first | rfl | exact absurd rfl h

/-- A command that names a unit that the part has answers a next state, and one that it has not a fault. -/
theorem onUnit_eq (ok : Bool) (s : State) (f : State → State) :
    onUnit ok s f = if ok = true then .next (f s) else .fault .noSuchUnit := rfl

theorem onPort_next {p : Part} {i : Nat} {s t : State} {f : State → State} :
    onPort p i s f = .next t ↔ i < portCount p ∧ t = f s := by
  unfold onPort; split <;> simp_all [eq_comm]

theorem onRegion_next {r : Nat} {s t : State} {f : State → State} : onRegion r s f = .next t ↔ r < 144 ∧ t = f s := by
  unfold onRegion; split <;> simp_all [eq_comm]

theorem onCore_next {c : Nat} {s t : State} {f : State → State} : onCore c s f = .next t ↔ c < 576 ∧ t = f s := by
  unfold onCore; split <;> simp_all [eq_comm]

/-! ### Counting and recording -/

/-- `t` differs from `s` in what part `p` counts, in its recorder and, at a die, in its MSI-X messages. -/
structure CountsOnly (p : Part) (s t : State) : Prop where
  part : PartOnly p s t
  base : t.base p = { s.base p with cnt := (t.base p).cnt, perf := (t.base p).perf, fr := (t.base p).fr }
  tsu : t.tsu = { s.tsu with b := t.tsu.b, die := { s.tsu.die with pba := t.tsu.die.pba, msix := t.tsu.die.msix } }
  dist : t.dist = { s.dist with b := t.dist.b }

theorem CountsOnly.refl (p : Part) (s : State) : CountsOnly p s s := ⟨partOnly_refl p s, rfl, rfl, rfl⟩

theorem CountsOnly.trans {p : Part} {s t u : State} (h : CountsOnly p s t) (k : CountsOnly p t u) : CountsOnly p s u where
  part := partOnly_trans h.part k.part
  base := by rw [k.base, h.base]
  tsu := by rw [k.tsu, h.tsu]
  dist := by rw [k.dist, h.dist]

/-- An update of counters, performance counters and the recorder alone. -/
theorem CountsOnly.of_modBase (s : State) (p : Part) (f : Base → Base)
    (h : ∀ b, f b = { b with cnt := (f b).cnt, perf := (f b).perf, fr := (f b).fr }) : CountsOnly p s (s.modBase p f) where
  part := modBase_partOnly s p f
  base := by rw [base_modBase]; exact h _
  tsu := by cases p <;> rfl
  dist := by cases p <;> rfl

theorem event_counts (s : State) (p : Part) (ev : Nat) (f : Flt) (n : Nat) : CountsOnly p s (s.event p ev f n) :=
  .of_modBase s p _ fun _ => rfl

/-- An interrupt sends one message, or sets a pending bit, at the die alone (R313, R459). -/
theorem irq_counts (s : State) (v : Nat) : CountsOnly .tsu s (irq s v) := by
  unfold irq
  dsimp only
  split
  · exact .refl _ _
  · split <;> exact ⟨⟨rfl, rfl, rfl⟩, rfl, rfl, rfl⟩

theorem irq_base (s : State) (v : Nat) (p : Part) : (irq s v).base p = s.base p := by
  unfold irq
  dsimp only
  split
  · rfl
  · split <;> cases p <;> rfl

theorem acctCheck_counts (s : State) (p : Part) (c : Ctr) (i old new : Nat) : CountsOnly p s (acctCheck s p c i old new) := by
  cases p with
  | tsu =>
    unfold acctCheck
    dsimp only
    split
    · exact irq_counts _ _
    · exact .refl _ _
  | dist => exact .refl _ _

theorem acctCheck_base (s : State) (p : Part) (c : Ctr) (i old new : Nat) : (acctCheck s p c i old new).base p = s.base p := by
  cases p with
  | tsu =>
    unfold acctCheck
    dsimp only
    split
    · exact irq_base _ _ _
    · rfl
  | dist => rfl

theorem count_counts (s : State) (p : Part) (c : Ctr) (i : Nat) (f : Flt) (n : Nat) : CountsOnly p s (s.count p c i f n) := by
  unfold State.count
  dsimp only
  refine .trans (.of_modBase s p (·.setCtr c i ((s.base p).ctr c i + n)) fun _ => rfl) (.trans ?_ (acctCheck_counts _ _ _ _ _ _))
  split
  · exact .refl _ _
  · exact event_counts _ _ _ _ _

theorem event_cnt (s : State) (p : Part) (ev : Nat) (f : Flt) (n : Nat) : ((s.event p ev f n).base p).cnt = (s.base p).cnt := by
  cases p <;> rfl

theorem event_fr (s : State) (p : Part) (ev : Nat) (f : Flt) (n : Nat) : ((s.event p ev f n).base p).fr = (s.base p).fr := by
  cases p <;> rfl

theorem count_cnt (s : State) (p : Part) (c : Ctr) (i : Nat) (f : Flt) (n : Nat) :
    ((s.count p c i f n).base p).cnt = ((s.base p).setCtr c i ((s.base p).ctr c i + n)).cnt := by
  unfold State.count
  dsimp only
  rw [acctCheck_base]
  split
  · rw [base_modBase]
  · rw [event_cnt, base_modBase]

/-- Counting leaves the recorder. -/
theorem count_fr (s : State) (p : Part) (c : Ctr) (i : Nat) (f : Flt) (n : Nat) :
    ((s.count p c i f n).base p).fr = (s.base p).fr := by
  unfold State.count
  dsimp only
  rw [acctCheck_base]
  split
  · rw [base_modBase]; rfl
  · rw [event_fr, base_modBase]; rfl

/-- A counter counted is up by `n`. -/
theorem count_ctr (s : State) (p : Part) (c : Ctr) (i : Nat) (f : Flt) (n : Nat) :
    ((s.count p c i f n).base p).ctr c i = (s.base p).ctr c i + n := by
  unfold Base.ctr
  rw [count_cnt]
  unfold Base.setCtr Base.ctr
  rw [tget_tset, if_pos rfl]

/-- Every other counter stays. -/
theorem count_ctr_ne (s : State) (p : Part) (c d : Ctr) (i j : Nat) (f : Flt) (n : Nat) (h : ctrKey d j ≠ ctrKey c i) :
    ((s.count p c i f n).base p).ctr d j = (s.base p).ctr d j := by
  unfold Base.ctr
  rw [count_cnt]
  unfold Base.setCtr
  rw [tget_tset, if_neg h]

theorem ctrKey_ne {c d : Ctr} {i j : Nat} (hi : i < 2 ^ 20) (hj : j < 2 ^ 20) (h : (d, j) ≠ (c, i)) : ctrKey d j ≠ ctrKey c i := by
  intro k
  unfold ctrKey at k
  have e : d.ctorIdx = c.ctorIdx ∧ j = i := by omega
  have e' : d = c := by rw [← Ctr.ofNat_ctorIdx d, e.1, Ctr.ofNat_ctorIdx]
  exact h (by rw [e', e.2])

theorem clamped_counts (s : State) (p : Part) (b : Bool) : CountsOnly p s (s.clamped p b) := by
  unfold State.clamped; split
  · exact count_counts _ _ _ _ _ _
  · exact .refl _ _

theorem stale_counts (s : State) (p : Part) (port slice : Nat) : CountsOnly p s (s.stale p port slice) := count_counts _ _ _ _ _ _

theorem maxCtr_counts (s : State) (p : Part) (c : Ctr) (i v : Nat) : CountsOnly p s (s.maxCtr p c i v) :=
  .of_modBase s p _ fun b => by split <;> rfl

/-- A recorder entry changes the recorder, and counts what is lost (R424 to R428). -/
theorem fr_counts (s : State) (p : Part) (cls : Nat) (body : List Byte) (hard : Bool) : CountsOnly p s (s.fr p cls body hard) := by
  unfold State.fr
  dsimp only
  have h : CountsOnly p s (s.modBase p fun b =>
      { b with fr := (frStep p (s.now p) cls body (frIsTrig (s.base p).fr cls hard) (s.base p).fr).1 }) := .of_modBase s p _ fun _ => rfl
  split
  · exact h.trans (count_counts _ _ _ _ _ _)
  · exact h

/-- The recorder after an entry (R424 to R428). -/
theorem fr_fr (s : State) (p : Part) (cls : Nat) (body : List Byte) (hard : Bool) : ((s.fr p cls body hard).base p).fr =
    (frStep p (s.now p) cls body (frIsTrig (s.base p).fr cls hard) (s.base p).fr).1 := by
  unfold State.fr
  dsimp only
  split
  · rw [count_fr, base_modBase]
  · rw [base_modBase]

theorem frTrigger_counts (s : State) (p : Part) (code chan : Nat) (stamp : St) : CountsOnly p s (s.frTrigger p code chan stamp) := by
  unfold State.frTrigger
  dsimp only
  split
  · exact .refl _ _
  · split
    · exact .refl _ _
    · exact .of_modBase s p _ fun _ => rfl
    · exact .of_modBase s p _ fun _ => rfl
    · exact .of_modBase s p _ fun _ => rfl

theorem hist_counts (s : State) (p : Part) (src : Nat) (v : Int) (f : Flt) : CountsOnly p s (s.hist p src v f) :=
  .of_modBase s p _ fun _ => rfl

theorem sample_counts (s : State) (p : Part) (r : Sample) : CountsOnly p s (s.sample p r) := by
  unfold State.sample
  dsimp only
  split
  · exact .refl _ _
  · split
    · exact .of_modBase s p _ fun _ => rfl
    · split
      · exact .of_modBase s p _ fun _ => rfl
      · split
        · exact .of_modBase s p _ fun _ => rfl
        · exact .trans (.of_modBase s p _ fun _ => rfl) (count_counts _ _ _ _ _ _)

/-! ### Sending cells -/

/-- `t` differs from `s` in part `p`'s ports and in what it counts. -/
structure SendsOnly (p : Part) (s t : State) : Prop where
  part : PartOnly p s t
  base : t.base p = { s.base p with ports := (t.base p).ports, cnt := (t.base p).cnt, perf := (t.base p).perf, fr := (t.base p).fr }
  tsu : t.tsu = { s.tsu with b := t.tsu.b, die := { s.tsu.die with pba := t.tsu.die.pba, msix := t.tsu.die.msix } }
  dist : t.dist = { s.dist with b := t.dist.b }

theorem CountsOnly.sends {p : Part} {s t : State} (h : CountsOnly p s t) : SendsOnly p s t where
  part := h.part
  base := by rw [h.base]
  tsu := h.tsu
  dist := h.dist

theorem SendsOnly.refl (p : Part) (s : State) : SendsOnly p s s := (CountsOnly.refl p s).sends

theorem SendsOnly.trans {p : Part} {s t u : State} (h : SendsOnly p s t) (k : SendsOnly p t u) : SendsOnly p s u where
  part := partOnly_trans h.part k.part
  base := by rw [k.base, h.base]
  tsu := by rw [k.tsu, h.tsu]
  dist := by rw [k.dist, h.dist]

theorem modPort_sends (s : State) (p : Part) (i : Nat) (f : Port → Port) : SendsOnly p s (s.modPort p i f) where
  part := modBase_partOnly s p _
  base := by unfold State.modPort; rw [base_modBase]; rfl
  tsu := by cases p <;> rfl
  dist := by cases p <;> rfl

theorem SendsOnly.foldl {α : Type} {p : Part} (f : State → α → State) (h : ∀ s a, SendsOnly p s (f s a)) :
    ∀ (l : List α) (s : State), SendsOnly p s (l.foldl f s)
  | [], s => .refl p s
  | a :: l, s => (h s a).trans (SendsOnly.foldl f h l (f s a))

theorem sendP1_sends (s : State) (p : Part) (i : Nat) (c : OutCell) : SendsOnly p s (sendP1 s p i c) := by
  unfold sendP1
  dsimp only
  split
  · rename_i h
    have e : p = .dist := by cases p <;> first | rfl | simp at h
    subst e
    exact (count_counts _ _ _ _ _ _).sends
  · exact (modPort_sends _ _ _ _).trans (maxCtr_counts _ _ _ _ _).sends

theorem sendP2_sends (s : State) (p : Part) (i : Nat) (c : OutCell) : SendsOnly p s (sendP2 s p i c) := modPort_sends _ _ _ _

theorem sendP3_sends (s : State) (p : Part) (i : Nat) (c : OutCell) : SendsOnly p s (sendP3 s p i c) := modPort_sends _ _ _ _

theorem sendVote_sends (s : State) (p : Part) (i : Nat) (v : Vote) : SendsOnly p s (sendVote s p i v) := by
  unfold sendVote
  dsimp only
  split
  · exact modPort_sends _ _ _ _
  · exact (modPort_sends _ _ _ _).trans (sendP1_sends _ _ _ _)

theorem sendVotes_sends (s : State) (p : Part) (is : List Nat) (v : Vote) : SendsOnly p s (sendVotes s p is v) :=
  SendsOnly.foldl _ (fun s i => sendVote_sends s p i v) is s

theorem sendMgmt_sends (s : State) (p : Part) (i : Nat) (c : OutCell) : SendsOnly p s (sendMgmt s p i c) := by
  unfold sendMgmt
  dsimp only
  split
  · exact (modPort_sends _ _ _ _).trans (sendP3_sends _ _ _ _)
  · split
    · exact (modPort_sends _ _ _ _).trans (count_counts _ _ _ _ _ _).sends
    · exact (count_counts _ _ _ _ _ _).sends

/-! ### Messages, alerts and events against a part -/

/-- `t` differs from `s` in part `p`'s ports, in what it counts, in its Headstock, in its alert line, and in a root's tally. -/
structure ReportsOnly (p : Part) (s t : State) : Prop where
  part : PartOnly p s t
  base : t.base p = { s.base p with
    ports := (t.base p).ports, cnt := (t.base p).cnt, perf := (t.base p).perf, fr := (t.base p).fr, hs := (t.base p).hs }
  tsu : t.tsu = { s.tsu with
    b := t.tsu.b, die := { s.tsu.die with pba := t.tsu.die.pba, msix := t.tsu.die.msix, alertN := t.tsu.die.alertN } }
  dist : t.dist = { s.dist with
    b := t.dist.b, sv := { s.dist.sv with alertN := t.dist.sv.alertN }, mem := { s.dist.mem with nodes := t.dist.mem.nodes } }

theorem SendsOnly.reports {p : Part} {s t : State} (h : SendsOnly p s t) : ReportsOnly p s t where
  part := h.part
  base := by rw [h.base]
  tsu := by rw [h.tsu]
  dist := by rw [h.dist]

theorem ReportsOnly.refl (p : Part) (s : State) : ReportsOnly p s s := (SendsOnly.refl p s).reports

theorem ReportsOnly.trans {p : Part} {s t u : State} (h : ReportsOnly p s t) (k : ReportsOnly p t u) : ReportsOnly p s u where
  part := partOnly_trans h.part k.part
  base := by rw [k.base, h.base]
  tsu := by rw [k.tsu, h.tsu]
  dist := by rw [k.dist, h.dist]

theorem modHs_reports (s : State) (p : Part) (f : Headstock → Headstock) : ReportsOnly p s (s.modHs p f) where
  part := modBase_partOnly s p _
  base := by unfold State.modHs; rw [base_modBase]
  tsu := by cases p <;> rfl
  dist := by cases p <;> rfl

/-- A management message changes the ports, MSG_ID and the NONCE of the sending slot (R403 to R407). -/
theorem mgmt_reports (s : State) (p : Part) (dst : Node) (b : MgmtBody) : ReportsOnly p s (mgmt s p dst b) := by
  unfold mgmt
  dsimp only
  exact (modHs_reports s p fun h => { h with
    msgId := (s.base p).hs.msgId + 1, nonce := tmod 0 (s.base p).hs.nonce (s.base p).hs.sending (· + 1) }).trans
    (SendsOnly.foldl _ (fun s i => sendMgmt_sends s p i _) _ _).reports

/-- An alert sets its cause, asserts the line and may trigger the recorder (R457, R512). -/
theorem alert_reports (s : State) (p : Part) (i : Nat) : ReportsOnly p s (s.alert p i) := by
  have h : ReportsOnly p s (s.modBase p fun b => { b with hs := { b.hs with
      alert := (s.base p).hs.alert ||| BitVec.ofNat 64 (2 ^ i) } }) :=
    modHs_reports s p fun h => { h with alert := (s.base p).hs.alert ||| BitVec.ofNat 64 (2 ^ i) }
  have k : ∀ t, ReportsOnly p s t → ReportsOnly p s (if (s.base p).hs.alert = 0 then t.frTrigger p 4 0 0 else t) := by
    intro t ht
    split
    · exact ht.trans (frTrigger_counts _ _ _ _ _).sends.reports
    · exact ht
  unfold State.alert
  dsimp only
  have m := k _ h
  cases p with
  | tsu =>
    dsimp only
    have n := m.trans (u := { (if (s.base .tsu).hs.alert = 0 then _ else _ : State) with tsu.die.alertN := true })
      ⟨⟨rfl, rfl, rfl⟩, rfl, rfl, rfl⟩
    split
    · exact n
    · exact n.trans (irq_counts _ _).sends.reports
  | dist => exact m.trans ⟨⟨rfl, rfl, rfl⟩, rfl, rfl, rfl⟩

theorem tallyEvent_reports (s : State) (src : Node) (at_ : St) (hard : Bool) (r : Report) :
    ReportsOnly .dist s (tallyEvent s src at_ hard r) := ⟨⟨rfl, rfl, rfl⟩, rfl, rfl, rfl⟩

theorem tallyPut_reports (s : State) (src : Node) (at_ : St) (r : Report) : ReportsOnly .dist s (tallyPut s src at_ r) := by
  unfold tallyPut
  dsimp only
  split
  · exact .refl _ _
  · split
    · exact tallyEvent_reports _ _ _ _ _
    · have h : ∀ n : Tab NodeRec, ReportsOnly .dist s { s with dist.mem.nodes := n } := fun n => ⟨⟨rfl, rfl, rfl⟩, rfl, rfl, rfl⟩
      split
      · exact ((h _).trans (tallyEvent_reports _ _ _ _ _)).trans (tallyEvent_reports _ _ _ _ _)
      · exact (h _).trans (tallyEvent_reports _ _ _ _ _)

/-- Raising an event sends reports, writes an entry, may alert, and enters a root's own tally (R339, R340); nothing else of the part
and nothing of the other part changes. -/
theorem raise_reports (s : State) (p : Part) (accused : Node) (hard split_ : Bool) (cause : Nat) (x : Ctx) :
    ReportsOnly p s (raise s p accused hard split_ cause x) := by
  unfold raise
  dsimp only
  have h1 : ∀ body is v, SendsOnly p s (sendVotes (s.fr p 1 body hard) p is v) := fun _ _ _ =>
    (fr_counts s p 1 _ hard).sends.trans (sendVotes_sends _ _ _ _)
  have h2 : ∀ (t : State) (i : Nat) (b : Bool), ReportsOnly p s t → ReportsOnly p s (if b = true then t.alert p i else t) := by
    intro t i b ht
    split
    · exact ht.trans (alert_reports _ _ _)
    · exact ht
  have h3 : ∀ (t : State) (b : Bool) (src : Node) (at_ : St) (r : Report), ReportsOnly p s t →
      ReportsOnly p s (if (p == .dist && b) = true then tallyPut t src at_ r else t) := by
    intro t b src at_ r ht
    split
    · rename_i h
      have e : p = .dist := by cases p <;> first | rfl | exact absurd h (by simp)
      subst e
      exact ht.trans (tallyPut_reports _ _ _ _)
    · exact ht
  exact h3 _ _ _ _ _ (h2 _ _ _ (h1 _ _ _).reports)

theorem suspect_reports (s : State) (p : Part) (accused : Node) (cause : Nat) (x : Ctx) :
    ReportsOnly p s (suspect s p accused cause x) := raise_reports _ _ _ _ _ _ _

theorem hardEvent_reports (s : State) (p : Part) (accused : Node) (cause : Nat) (x : Ctx) :
    ReportsOnly p s (hardEvent s p accused cause x) := raise_reports _ _ _ _ _ _ _

theorem suspectPort_reports (s : State) (p : Part) (i : Nat) (cause : Nat) (detail : W32) :
    ReportsOnly p s (suspectPort s p i cause detail) := raise_reports _ _ _ _ _ _ _

/-! ### Completions (R386 to R390) -/

theorem modMbox_other (s : State) {m k : Nat} (f : Mailbox → Mailbox) (h : k ≠ m) : (s.modMbox m f).mbox k = s.mbox k :=
  (tget_tmod _ _ _ _ _).trans (if_neg h)

/-- Writing a completion changes that mailbox, and may send its interrupt (R386, R388). -/
theorem cplPost_frame (s : State) (m : Nat) (cp : Completion) : let t := cplPost s m cp
    PartOnly .tsu s t ∧ (∀ k, k ≠ m → t.mbox k = s.mbox k) ∧
    t.tsu = { s.tsu with mbs := t.tsu.mbs, die := { s.tsu.die with pba := t.tsu.die.pba, msix := t.tsu.die.msix } } := by
  have h : ∀ f : Mailbox → Mailbox, let t := irq (s.modMbox m f) m
      PartOnly .tsu s t ∧ (∀ k, k ≠ m → t.mbox k = s.mbox k) ∧
      t.tsu = { s.tsu with mbs := t.tsu.mbs, die := { s.tsu.die with pba := t.tsu.die.pba, msix := t.tsu.die.msix } } := by
    intro f
    unfold irq
    dsimp only
    split
    · exact ⟨⟨rfl, rfl, rfl⟩, fun _ => modMbox_other s f, rfl⟩
    · split <;> exact ⟨⟨rfl, rfl, rfl⟩, fun _ => modMbox_other s f, rfl⟩
  unfold cplPost
  dsimp only
  split
  · exact ⟨⟨rfl, rfl, rfl⟩, fun _ => modMbox_other s _, rfl⟩
  · exact h _

/-- Completing a command changes its own part alone (R386 to R390). -/
theorem complete_partOnly (s : State) (c : Cmd) (cp : Completion) : PartOnly c.part s (complete_ s c cp) := by
  obtain ⟨p, m, tag, txn⟩ := c
  have tail : ∀ (t : State) (x : Sample), PartOnly p s t → PartOnly p s (if cp.final = true then
      ((if cp.status = .denied then (t.event p 0x060 {} 1).event p 0x061 {} 1 else t.event p 0x060 {} 1).sample p x) else t) := by
    intro t x h
    split
    · refine partOnly_trans ?_ (sample_counts _ _ _).part
      have k := partOnly_trans h (event_counts t p 0x060 {} 1).part
      split
      · exact partOnly_trans k (event_counts _ p 0x061 {} 1).part
      · exact k
    · exact h
  have sv : ∀ (t : State) (f : Service → Service), PartOnly .dist t (t.modSv f) := fun _ _ => ⟨rfl, rfl, rfl⟩
  unfold complete_
  cases p with
  | tsu =>
    refine tail _ _ ?_
    dsimp only
    refine partOnly_trans ?_ (cplPost_frame _ _ _).1
    split
    · exact ⟨rfl, rfl, rfl⟩
    · exact partOnly_refl _ _
  | dist =>
    refine tail _ _ ?_
    dsimp only
    have h : ∀ o : Option (St × Node), PartOnly .dist s (match o with
        | some (_, src) => mgmt (s.modSv fun v => { v with remoteCpl := cp :: v.remoteCpl }) .dist src (.completion cp)
        | none => s.modSv fun v => { v with remoteCpl := cp :: v.remoteCpl }) := by
      intro o
      cases o with
      | none => exact sv _ _
      | some x => exact partOnly_trans (sv _ _) (mgmt_reports _ _ _ _).part
    split
    · exact partOnly_trans (h _) (sv _ _)
    · exact h _

theorem done_partOnly (s : State) (c : Cmd) (op : Nat) (st : Status) : PartOnly c.part s (done s c op st) := complete_partOnly _ _ _

theorem doneR_partOnly (s : State) (c : Cmd) (op : Nat) (st : Status) (a b d : W64) : PartOnly c.part s (doneR s c op st a b d) :=
  complete_partOnly _ _ _

theorem pend_partOnly (s : State) (c : Cmd) (op : Nat) : PartOnly c.part s (pend s c op) := complete_partOnly _ _ _

/-! ### Counters and messages to cores (R221, R229, R230) -/

theorem modSync_only (s : State) (f : Sync → Sync) : PartOnly .tsu s (s.modSync f) := ⟨rfl, rfl, rfl⟩
theorem modPlate_only (s : State) (f : Plate → Plate) : PartOnly .tsu s (s.modPlate f) := ⟨rfl, rfl, rfl⟩

theorem foldl_partOnly {α : Type} {p : Part} (f : State → α → State) (h : ∀ s a, PartOnly p s (f s a)) :
    ∀ (l : List α) (s : State), PartOnly p s (l.foldl f s)
  | [], s => partOnly_refl p s
  | a :: l, s => partOnly_trans (h s a) (foldl_partOnly f h l (f s a))

theorem deliver_only (core : Nat) (s : State) : PartOnly .tsu s (deliver core s) := by
  refine foldl_partOnly _ (fun t _ => ?_) _ _
  unfold deliver1
  split
  · exact partOnly_refl _ _
  · split
    · exact partOnly_trans (modSync_only _ _) (count_counts _ _ _ _ _ _).part
    · split
      · dsimp only
        split
        · exact partOnly_trans (modSync_only _ _) (hist_counts _ _ _ _ _).part
        · exact modSync_only _ _
      · split
        · exact partOnly_refl _ _
        · exact partOnly_trans (modSync_only _ _) (count_counts _ _ _ _ _ _).part

theorem msgPut_only (s : State) (m : Msg) : PartOnly .tsu s (msgPut s m) := by
  unfold msgPut
  dsimp only
  split
  · exact modSync_only _ _
  · split
    · exact partOnly_trans (modSync_only _ _) (deliver_only _ _)
    · exact modSync_only _ _

theorem watchEval_only (c : Nat) (s : State) (w : Nat) : PartOnly .tsu s (watchEval c s w) := by
  unfold watchEval
  split
  · exact partOnly_refl _ _
  · split
    · exact partOnly_refl _ _
    · dsimp only
      split
      · exact partOnly_trans (partOnly_trans (modSync_only _ _) (event_counts _ _ _ _ _).part) (msgPut_only _ _)
      · exact modSync_only _ _

theorem ctrWrite_only (s : State) (c : Nat) (x : SyncCtr) : PartOnly .tsu s (ctrWrite s c x) :=
  partOnly_trans (partOnly_trans (partOnly_trans (modSync_only _ _) (event_counts _ _ _ _ _).part)
    (foldl_partOnly _ (fun s w => watchEval_only c s w) _ _)) (modPlate_only _ _)

theorem ctrFault_only (s : State) (overflow : Bool) (src : Src) (c : Nat) (n : W32) : PartOnly .tsu s (ctrFault s overflow src c n) := by
  unfold ctrFault
  dsimp only
  split
  · exact partOnly_trans (event_counts _ _ _ _ _).part (count_counts _ _ _ _ _ _).part
  · have h := partOnly_trans (event_counts s .tsu 0x031 (dieFlt s) 1).part (modSync_only (s.event .tsu 0x031 (dieFlt s) 1) fun y =>
      { y with faults := y.faults ++ [{ overflow, srcKind := src.kind, srcCore := src.core, srcId := src.id, counter := c
                                        delivery := src.delivery, opId := src.opId, value := (ctrOf s c).value, n, st := s.now .tsu }] })
    split
    · exact partOnly_trans h (irq_counts _ _).part
    · exact h

/-- A counter operation changes the die alone (R221). -/
theorem ctrOp_only (s : State) (c : Nat) (op : CtrOp) (src : Src) : PartOnly .tsu s (ctrOp s c op src).1 := by
  unfold ctrOp
  dsimp only
  split
  · exact partOnly_refl _ _
  · split
    · split
      · exact ctrFault_only _ _ _ _ _
      · exact ctrWrite_only _ _ _
    · split
      · exact ctrFault_only _ _ _ _ _
      · exact ctrWrite_only _ _ _
    · exact ctrWrite_only _ _ _
    · exact partOnly_trans (clamped_counts _ _ _).part (ctrWrite_only _ _ _)

/-! ### Collect memory -/

/-- Reading a byte after a write of `bs` at `a`. -/
theorem tget_writes (f : Nat → Nat) (d : Byte) : ∀ (l : List (Byte × Nat)) (m : Tab Byte) (k : Nat), (∀ x ∈ l, f x.2 ≠ k) →
    tget d (l.foldl (fun m x => tset d m (f x.2) x.1) m) k = tget d m k
  | [], _, _, _ => rfl
  | x :: l, m, k, h => by
    rw [List.foldl_cons, tget_writes f d l _ k fun y hy => h y (List.mem_cons_of_mem _ hy), tget_tset,
      if_neg fun e => h x (List.mem_cons_self ..) e.symm]

/-- Every write of bytes keeps the canonical form. -/
theorem tcanon_writes (f : Nat → Nat) (d : Byte) : ∀ (l : List (Byte × Nat)) (m : Tab Byte), tcanon d m = true →
    tcanon d (l.foldl (fun m x => tset d m (f x.2) x.1) m) = true
  | [], _, h => h
  | _ :: l, _, h => tcanon_writes f d l _ (tcanon_tset _ _ _ _ h)

/-- Collect memory keeps its canonical form under a write. -/
theorem memWrite_wf (s : State) (a : Nat) (bs : List Byte) (h : Memory.wf s.tsu.fab.mem = true) :
    Memory.wf (memWrite s a bs).tsu.fab.mem = true := tcanon_writes (a + ·) 0 _ _ h

/-- Every byte outside a write stays. -/
theorem memWrite_outside (s : State) (a : Nat) (bs : List Byte) (k : Nat) (h : k < a ∨ a + bs.length ≤ k) :
    tget 0 (memWrite s a bs).tsu.fab.mem k = tget 0 s.tsu.fab.mem k := by
  refine tget_writes (a + ·) 0 _ _ _ fun x hx => ?_
  have := List.mem_range.mp (List.of_mem_zip (show (x.1, x.2) ∈ bs.zip (List.range bs.length) from hx)).2
  omega

theorem memWrite_only (s : State) (a : Nat) (bs : List Byte) : PartOnly .tsu s (memWrite s a bs) := ⟨rfl, rfl, rfl⟩

theorem reset_mem_wf : Memory.wf State.reset.tsu.fab.mem = true := rfl

end Sys2Proof.Machine
end

