-- ==== Sys2Proof/Tests/Slice0.lean ====
section
/-! SUPPORT. Tests: worked examples of the manual, the checks of well-formedness, reset, and for each statement with premises a state and
operands that meet them all. -/

namespace Sys2Proof.Tests

set_option Elab.async false

open Sys2Proof Sys2Proof.Machine

/-! ### States for the tests -/

/-- A time count at an ST value. -/
def heldAt (n : Nat) : TimeState := { held := true, acc := BitVec.ofNat 96 (n * 2 ^ 32), shadow := n * 2 ^ 32 % (2 ^ 61 - 1) }

/-- A link that carries traffic, to a neighbour. -/
def upTo (n : Node) (port : Nat) : Link := { enable := true, state := .up, rxNode := n, rxPort := port, map := 0x24 }

/-- A die of row 0, rack 0, slot 0 in service: it holds time, runs in slice 1, and both links are up. -/
def die : State := { State.reset with
  tsu := { b := { node := some (mkNode 0 0 0 0 0 0), t := heldAt (2 ^ 30), hs := { running := true }
                  ports := [(0, { link := upTo (mkNode 1 0 0 0 0 0) 0 }), (1, { link := upTo (mkNode 1 0 0 0 1 0) 0 })]
                  ep := { have_ := true, ce := 3, me := 5, leader := 0 } }
           die := { state := .running, member := true, sliceId := 1, sliceValid := true }
           turn := { exists_ := true, len := 2 ^ 24, started := true, st0 := 0, start := 0x3F000000#64, step := 63 }
           mark := { calDone := true } } }

/-- A distributor in service in a role, at a position, holding time. -/
def distAt (r : Role) (pos : BitVec 12) (n : Node) : State := { State.reset with
  dist := { b := { node := some n, t := heldAt (2 ^ 30), hs := { running := true }
                   ep := { have_ := true, ce := 3, me := 5, leader := 0 } }
            sv := { role := r, position := pos, rootCapable := decide (r = .root), state := .inService, strapped := true } } }

/-- The leading root, root 0, alone in the record. -/
def root : State := { distAt .root 0 (mkNode 3 0 0 0 0 0) with
  dist.mem.nodes := [((mkNode 3 0 0 0 0 0).toNat, { known := true, status := 0 })] }

/-- The row distributor of row 0, plane A. -/
def row : State := distAt .row 0 (mkNode 2 0 0 0 0 0)

/-- The rack distributor of row 0, rack 0, plane A. -/
def rack : State := distAt .rack 0 (mkNode 1 0 0 0 0 0)

/-- A command on a mailbox of the die. -/
def mb (m : Nat) : Cmd := { part := .tsu, mbx := m, tag := 7, txn := 0 }

/-- A command that a distributor's Headstock executes. -/
def dcmd : Cmd := { part := .dist, mbx := 0, tag := 7, txn := 0 }

/-! ### Worked examples of the manual -/

/-- Worked turning across the wrap: 5,242,880 tu after its origin the slice is in step 3. -/
def wrapTurning : Turning := { exists_ := true, started := true, st0 := 0xFFFFFFFFFFF00000#64, start := 0xFFFFFFFFFFF00000#64, len := 1600000 }

theorem test_turning_across_the_wrap : stepAt wrapTurning 0x400000#64 = 3 := by decide +kernel

theorem test_turning_step_three_starts :
    stepAt wrapTurning 0x393DFF#64 = 2 ∧ stepAt wrapTurning 0x393E00#64 = 3 ∧ stepAt wrapTurning 5351424#64 = 4 := by
  decide +kernel

/-- Worked correction (chapter 6): the spread of +9,309 over 1,024 cycles. -/
theorem test_worked_spread :
    (spread { ({} : Region) with setting := 48 } 9309).spreadQ = 9 ∧ (spread { ({} : Region) with setting := 48 } 9309).spreadRem = 93 ∧
    spreadAdj { spread {} 9309 with spreadLeft := 1024 - 92 } = 10 ∧ spreadAdj { spread {} 9309 with spreadLeft := 1024 - 93 } = 9 := by
  decide +kernel

/-- A region at 2,200 MHz, and a cycle of it stretched by k = 3. -/
theorem test_worked_periods : periodK 48 0 = 0x1D1746 ∧ periodK 48 3 = 0x228BA3 := by decide +kernel

/-- Entry 4 of the plate for one decode step (R193). -/
def plateEntry4 : Entry := ⟨0x00000EA6001C07D0, 0x0001000002800002, 0x0000021000000001⟩

theorem test_plate_entry_word_0 :
    entOffset plateEntry4 = 960000 ∧ entAction plateEntry4 = 1 ∧ entValid plateEntry4 = true ∧ entPolicy plateEntry4 = 2 ∧
    entCmpEq plateEntry4 = false ∧ entHoldLimit plateEntry4 = 2000 := by decide +kernel

theorem test_plate_entry_words_1_and_2 :
    entDiv plateEntry4 = 1 ∧ entPhase plateEntry4 = 0 ∧ entCondCtr plateEntry4 = 40 ∧ entTarget plateEntry4 = 2 ∧
    entArg plateEntry4 = 0x210 ∧ entThreshold plateEntry4 = 1 := by decide +kernel

/-- The counter-fault record of the over-eager producer (R224). -/
theorem test_counter_fault_record :
    ctrFaultWords { overflow := true, srcKind := 2, srcCore := 200, srcId := 52745, counter := 40, delivery := 0, opId := 0x1A2B
                    value := 1, n := 1, st := 5284864 } =
      [0x28C8670481401A2B, 0x0000000100000001, 0x000000000050A400] := by decide +kernel

/-- An exact sum that ordinary arithmetic loses: in FP32 the three contributions give 0. -/
theorem test_fp32_sum_is_lost : fadd (fadd 0x71800000 0x3F800000) 0xF1800000 = 0 := by decide +kernel

/-- The same contributions under SUM_FP32_EXACT, in port order: 1.0, with a residue that verifies (R268, R269, R276). -/
def exact3 : List Nat := [0x71800000, 0x3F800000, 0xF1800000].map fun v => (formElem { op := 12, ty := 0, k := 0, elems := 1 } v []).1

theorem test_exact_sum_keeps_it : roundExact (foldElems { op := 12, ty := 0, k := 0, elems := 1 } exact3).1 = 0x3F800000 := by
  decide +kernel

theorem test_exact_sum_verifies :
    (foldElems { op := 12, ty := 0, k := 0, elems := 1 } exact3).1 % 2 ^ 61 = 2 ^ 27 ∧
    resDiff 12 (foldElems { op := 12, ty := 0, k := 0, elems := 1 } exact3).1 = 0 := by decide +kernel

/-- Sampling a full batch: the argmax of slot 7 is (13.25, 15,000). -/
theorem test_sampled_token :
    foldElems { op := 7, ty := 0, k := 0, elems := 2048 }
      [0x413D000000000403, 0x4154000000003A98, 0x41540000000182B9, 0x415400000001E240] = (0x4154000000003A98, false) := by
  decide +kernel

/-- An overloaded close: requests A to J as 1 to 10, serving group 9 of capacity 4. -/
def closeReq (state prio slot deadline : Nat) (none_ : Bool) : LedgerEntry := { zeroEntry with slice := 1, sgroup := 9, state, prio, slot, deadline := BitVec.ofNat 64 deadline, dueNone := none_ }

def closeTable : Tab LedgerEntry :=
  [(1, closeReq leActive 2 0 0 true), (2, closeReq leActive 4 1 0 true), (3, { closeReq leFinishing 4 2 0 true with reason := 6 }), (4, closeReq leActive 5 3 7936000 false),
   (5, closeReq leQueued 1 0xFFFF 12800000 false), (6, closeReq leQueued 4 0xFFFF 9600000 false), (7, closeReq leQueued 4 0xFFFF 7680000 false),
   (8, closeReq leQueued 6 0xFFFF 5760000 false), (9, closeReq leQueued 3 0xFFFF 6400000 false), (10, closeReq leQueued 2 0xFFFF 4480000 false)]

def closeGroup : SGroup := { f := { valid := true, slice := 1, group := 7, capacity := 4, closeOfs := 1536000, tokenOfs := 1536000, deltaLead := 512000, fullPeriod := 4 }, table := [(0, slotVal 1 zeroEntry), (1, slotVal 2 zeroEntry), (2, slotVal 3 zeroEntry), (3, slotVal 4 zeroEntry)] }

def closed10 : CloseOut := closeSelect closeGroup 9 10 closeTable (fun _ => false) fun k => BitVec.ofNat 64 (4736000 + 1600000 * k)

theorem test_overloaded_close_states :
    [1, 2, 3, 4, 5, 6, 7, 8, 9, 10].map (fun r => ((LTab.entry closed10.t r).state, (LTab.entry closed10.t r).reason)) =
      [(leActive, 0), (leActive, 0), (leDone, 6), (leQueued, 2), (leActive, 0), (leQueued, 1), (leQueued, 1), (leRefused, 4), (leActive, 0),
       (leRefused, 3)] := by decide +kernel

theorem test_overloaded_close_slots :
    (LTab.entry closed10.t 5).slot = 2 ∧ (LTab.entry closed10.t 9).slot = 3 ∧ closed10.events = [3, 10, 8] ∧ closed10.served = 4 := by
  decide +kernel

/-! ### Premises of the statements of part 01 -/

/-- The root with a time-map record on port 96 that its block gives whole, at the odd or even block's last tick. -/
def mapRx (p : Part) (s : State) (i : Nat) (odd : Bool) : State :=
  s.modPort p i fun q => { q with mark := { q.mark with
    blockOk := true, blockBytes := mapBlock { version := 1, originSec := 1700000000, utc := 37, effect := 70000 }
    rxSt := tickSt (if odd then 31 else 15) } }

/-- A turning in its first step. -/
def turn0 : Turning := { exists_ := true, st0 := 1000, len := 2 ^ 20, started := true, start := 1000 }

theorem witness_empty_queue_passes_one_nanosecond : ∃ (s : State), s.pending = [] :=
  ⟨die, by decide +kernel⟩

theorem witness_run_start_loads_st_init : ∃ (s : State), s.role = .root ∧ s.dist.b.t.held = false ∧ leaderOf s .dist = s.ownRoot :=
  ⟨{ root with dist.b.t := {}, dist.refs.stInit := 77 }, by decide +kernel⟩

theorem witness_time_map_block_round_trips : ∃ (r : MapRec), r.originTu < 2 ^ 36 ∧ -2 ^ 15 ≤ r.utc ∧ r.utc < 2 ^ 15 :=
  ⟨{ originSec := 1700000000, originTu := 2 ^ 36 - 1, utc := -2 ^ 15, version := 255, effect := 0x3FFFFFFFFFFFF#50, absValid := true }, by decide +kernel⟩

theorem witness_time_map_records_take_effect_1 : ∃ (p : Part) (port : Nat) (s : State), port < portCount p ∧ (s.port p port).mark.blockOk = true ∧ blockGood (s.port p
    port).mark.blockBytes = true ∧ blockPos (tickOf (s.port p port).mark.rxSt) = 15 ∧ tbit (blockOf (tickOf (s.port p
    port).mark.rxSt)) 0 = false ∧ takes s p port = true ∧ newerVersion (mapOfBlock (s.port p port).mark.blockBytes).version (s.base
    p).map.newest.version = true :=
  ⟨.tsu, 0, mapRx .tsu die 0 false, by decide +kernel⟩

theorem witness_time_map_records_take_effect_2 : ∃ (p : Part) (port : Nat) (s : State), port < portCount p ∧ (s.port p port).mark.blockOk = true ∧ blockGood (s.port p
    port).mark.blockBytes = true ∧ blockPos (tickOf (s.port p port).mark.rxSt) = 15 ∧ tbit (blockOf (tickOf (s.port p
    port).mark.rxSt)) 0 = true ∧ takes s p port = true ∧ newerVersion (mapOfBlock (s.port p port).mark.blockBytes).version (s.base
    p).map.newest.version = true ∧ mapOfBlock (s.port p port).mark.blockBytes ≠ (s.base p).map.cur :=
  ⟨.tsu, 1, mapRx .tsu die 1 true, by decide +kernel⟩

theorem witness_time_map_records_take_effect_3 : ∃ (p : Part) (r : MapRec) (s : State), (s.base p).map.next = some r ∧ 0 ≤ tickDiff (tickOf (s.now p)) r.effect ∧ ((p = .dist →
    isLeader s = false)) :=
  ⟨.tsu, { effect := 65536, version := 4 }, { die with tsu.b.map.next := some { effect := 65536, version := 4 } }, by decide +kernel⟩

theorem witness_time_map_records_take_effect_4 : ∃ (p : Part) (v : Byte) (e : Tick) (s : State), (s.base p).map.next = none ∧ (s.base p).map.announced = some (v, e) ∧ 0 ≤
    tickDiff (tickOf (s.now p)) e :=
  ⟨.dist, 4, 65536, { rack with dist.b.map.announced := some (4, 65536) }, by decide +kernel⟩

theorem witness_time_map_records_take_effect_5 : ∃ (s : State), isLeader s = true ∧ s.dist.b.t.held = true ∧ s.dist.b.map.next = none ∧ 2048 ≤ 2 ^ 50 - (tickOf (s.now
    .dist)).toNat ∧ 2 ^ 50 - (tickOf (s.now .dist)).toNat ≤ 4096 :=
  ⟨{ root with dist.b.t := heldAt (2 ^ 64 - 2048 * 16384) }, by decide +kernel⟩

theorem witness_time_map_records_take_effect_6 : ∃ (c : Cmd) (s : State), c.part = .tsu ∧ c.mbx = 0 ∧ hsReady s c = true :=
  ⟨mb 0, die, by decide +kernel⟩

theorem witness_time_map_records_take_effect_7 : ∃ (c : Cmd) (s : State), c.part = .dist ∧ hsReady s c = true ∧ isLeader s = true ∧ s.dist.b.map.next = none ∧
    s.dist.refs.pendCmds = [] ∧ s.dist.refs.pendStep = 0 :=
  ⟨dcmd, root, by decide +kernel⟩

theorem witness_time_map_records_take_effect_8 : ∃ (c : Cmd) (s : State), c.part = .dist ∧ hsReady s c = true ∧ isLeader s = true ∧ s.dist.b.map.next.isSome = true :=
  ⟨dcmd, { root with dist.b.map.next := some {} }, by decide +kernel⟩

theorem witness_boundaries_agree_with_the_step_formula : ∃ (u : Turning) (k : Nat) (x : Nat), u.exists_ = true ∧ u.started = true ∧ u.restart = none ∧ u.idleUntil = none ∧ u.changes =
    [] ∧ u.start = u.st0 ∧ u.step = 0 ∧ 0 < u.len ∧ u.len ≤ 2 ^ 40 ∧ k * u.len ≤ x ∧ x < k * u.len + u.len + 2 ^ 40 :=
  ⟨turn0, 3, 3 * 2 ^ 20 + 5, by decide +kernel⟩

theorem witness_turning_steps_at_its_boundaries_1 : ∃ (slice : Nat) (s : State), slice < 64 ∧ (s.turning .dist slice).due (s.now .dist) = true :=
  ⟨63, { rack with dist.fab.turnings := [(63, turn0)] }, by decide +kernel⟩

theorem witness_turning_steps_at_its_boundaries_2 : ∃ (s : State), s.tsu.die.sliceId < 64 ∧ s.tsu.turn.due (s.now .tsu) = true :=
  ⟨die, by decide +kernel⟩

theorem witness_turning_steps_at_its_boundaries_3 : ∃ (slice : Nat) (s : State), slice < 64 ∧ (s.turning .dist slice).exists_ = true ∧ (s.turning .dist slice).started = false ∧
    stGe (s.now .dist) (s.turning .dist slice).first = true :=
  ⟨0, { rack with dist.fab.turnings := [(0, { exists_ := true, len := 5000000, first := 2 ^ 20, firstStep := 3 }), (5, turn0)] }, by decide +kernel⟩

theorem witness_turning_steps_at_its_boundaries_4 : ∃ (s : State), s.tsu.die.sliceId < 64 ∧ s.tsu.turn.exists_ = true ∧ s.tsu.turn.started = false ∧ stGe (s.now .tsu)
    s.tsu.turn.first = true :=
  ⟨{ die with tsu.turn := { exists_ := true, len := 5000000, first := 2 ^ 20, firstStep := 3 } }, by decide +kernel⟩

theorem witness_turning_steps_at_its_boundaries_5 : ∃ (s : State), s.tsu.plate.copyDue = true :=
  ⟨{ die with tsu.plate := { copyDue := true, bankA := [(3, { w0 := 1, w1 := 2, w2 := 3 })] } }, by decide +kernel⟩

/-! ### Premises of the statements of part 02 -/

/-- A marker of tick `n` from a node. -/
def markerOf (n : Tick) (node : Node) : Marker :=
  { ce := 3, me := 5, tickSt := tickSt n, sendOfs := 10, dir := false, planeB := false, holding := false, noTime := false
    retValid := false, newLeader := 3, node, refState := 0, leader := 0, cePend := false, mePend := false, leadPend := false
    pendCe := 0, pendMe := 0, pendTick := 0, rot := 0, retTag := 0, retDelta := 0, ownRes := 0, ofsEst := 0, accUnc := 7
    depth := 1, calLane := 0, calValid := false, calTx := 0, calRx := 0, wm := 0 }

/-- The die's links carry markers: the last was that of tick 65,535 on both. -/
def chained : State :=
  (die.modPort .tsu 0 fun q => { q with mark := { q.mark with rxAnchored := true, rxSt := tickSt 65535, rxWm := 9 } }).modPort
    .tsu 1 fun q => { q with mark := { q.mark with rxAnchored := true, rxSt := tickSt 65535 } }

/-- The marker that is expected next on the die's plane A link. -/
def markerNext : Marker :=
  let m := markerOf 65536 (mkNode 1 0 0 0 0 0)
  { m with wm := crc32c (beBytes 4 9 ++ markerBytes m) }

/-- A die in TIMECAL on plane A that holds no time, its marks calibrated. -/
def calib : State := { die.modPort .tsu 0 fun q => { q with link := { q.link with state := .timecal } } with
  tsu.b.t := {}, tsu.die.state := .blank }

/-- The die has sampled its plane A offset: `n` valid samples, each of 3 half tu. -/
def sampled (n : Nat) : State := { die.modPort .tsu 0 fun q => { q with off := { q.off with count := n, sum := 3 * n } } with
  tsu.b.t := { heldAt (2 ^ 30) with input := some 0, window := 3, inputAt := 1 } }

theorem witness_tick_edge_sends_the_marker_of_its_tick : ∃ (p : Part) (s : State), (s.base p).t.held = true ∧ (s.base p).t.framed ≠ some (tickOf (s.now p)) :=
  ⟨.dist, root.modPort .dist 96 fun q => { q with link := upTo 0xC00001#24 98 }, by decide +kernel⟩

theorem witness_marker_slots_follow_their_cases_1 : ∃ (p : Part) (i : Nat) (m : Marker) (s : State), i < portCount p ∧ (s.port p i).live = true ∧ markerCorrupt m = false ∧ (s.port
    p i).mark.rxSeeded = false ∧ (s.port p i).mark.rxAnchored = true ∧ m.tickSt = (s.port p i).mark.rxSt + 16384#64 ∧ m.wm = crc32c
    (beBytes 4 (s.port p i).mark.rxWm.toNat ++ markerBytes m) :=
  ⟨.tsu, 0, markerNext, chained, by decide +kernel⟩

theorem witness_marker_slots_follow_their_cases_2 : ∃ (p : Part) (i : Nat) (m : Marker) (s : State), i < portCount p ∧ (s.port p i).live = true ∧ markerCorrupt m = false ∧ (s.port
    p i).mark.rxSeeded = false ∧ (s.port p i).mark.rxAnchored = true ∧ ((m.tickSt ≠ (s.port p i).mark.rxSt + 16384#64 ∨ m.wm ≠
    crc32c (beBytes 4 (s.port p i).mark.rxWm.toNat ++ markerBytes m))) :=
  ⟨.tsu, 0, { markerNext with wm := 5 }, chained, by decide +kernel⟩

theorem witness_marker_slots_follow_their_cases_3 : ∃ (p : Part) (i : Nat) (s : State), i < portCount p ∧ (s.port p i).live = true :=
  ⟨.tsu, 1, chained, by decide +kernel⟩

theorem witness_marker_slots_follow_their_cases_4 : ∃ (p : Part) (i : Nat) (m : Marker) (s : State), i < portCount p ∧ (s.port p i).link.state = .timecal ∧ (s.base p).t.held =
    false ∧ takes s p i = true ∧ markerCorrupt m = false ∧ (s.port p i).mark.rxAnchored = false :=
  ⟨.tsu, 0, markerNext, calib, by decide +kernel⟩

theorem witness_loop_window_sets_the_trim_1 : ∃ (p : Part) (i : Nat) (s : State), (s.base p).t.held = true ∧ (s.base p).t.window ≠ (tickOf (s.now p)).toNat / 1024 ∧ ((p =
    .dist → isLeader s = false)) ∧ (s.base p).t.input = some i ∧ i < portCount p ∧ (s.port p i).live = true ∧ (s.base p).t.inputAt <
    (s.base p).t.window ∧ (s.base p).t.holdSince = none ∧ 512 ≤ (s.port p i).off.count :=
  ⟨.tsu, 0, sampled 512, by decide +kernel⟩

theorem witness_loop_window_sets_the_trim_2 : ∃ (p : Part) (i : Nat) (s : State), (s.base p).t.held = true ∧ (s.base p).t.window ≠ (tickOf (s.now p)).toNat / 1024 ∧ ((p =
    .dist → isLeader s = false)) ∧ (s.base p).t.input = some i ∧ i < portCount p ∧ (s.port p i).live = true ∧ (s.port p i).off.count
    < 512 :=
  ⟨.tsu, 0, sampled 511, by decide +kernel⟩

theorem witness_holdover_ends_in_no_time_1 : ∃ (p : Part) (x : St) (s : State), (s.base p).t.holdSince = some x ∧ holdBudget s p ≤ elapsed (s.now p) x ∧ (s.base p).t.noTime
    = false :=
  ⟨.tsu, 0x100#64, { die with tsu.b.t := { heldAt (2 ^ 50) with holdSince := some 0x100#64 } }, by decide +kernel⟩

theorem witness_holdover_ends_in_no_time_2 : ∃ (p : Part) (x : St) (s : State), (s.base p).t.holdSince = some x ∧ elapsed (s.now p) x < holdBudget s p :=
  ⟨.tsu, 0x3FFFFF00#64, { die with tsu.b.t.holdSince := some 0x3FFFFF00#64 }, by decide +kernel⟩

theorem witness_leader_changes_at_its_tick : ∃ (p : Part) (x : Pend) (l : BitVec 2) (s : State), (s.base p).ep.pend = [x] ∧ x.lead = some l ∧ 0 ≤ tickDiff (tickOf (s.now p))
    x.tick :=
  ⟨.tsu, { tick := 65536, lead := some 1, me := some 6 }, 1, { die with tsu.b.ep.pend := [{ tick := 65536, lead := some 1, me := some 6 }] }, by decide +kernel⟩

/-! ### Premises of the statements of part 03 -/

/-- A root whose inputs 0 and 2 are valid and eligible. -/
def refs2 : State := { root with dist.refs := { running := true, ins := [(0, { valid := true, eligible := true, validSince := some 0, phase := some 3000 }), (2, { valid := true, eligible := true, validSince := some 0 })] } }

/-- A root's votes as received: `l` gives their phase errors, by root index. -/
def votesOf (l : List Int) : Refs :=
  { votes := (List.range l.length).map fun i => (i, { have_ := true, state := 2, ePs := (l[i]?).getD 0 }) }

/-- A root whose PTP port 0 is enabled, in a state. -/
def ptpAt (st : Nat) (sync : Bool) : State := { root with dist.b.cfg := [(0x10A8, 0x1000)], dist.refs.ptp := [(0, { state := st, gotSync := sync })] }

/-- Root 2's REF vote to root 0. -/
def refVote : Vote := { src := mkNode 3 0 0 0 0 2, dst := mkNode 3 0 0 0 0 0, me := 5, eventSt := 0x3FFFFFF0#64, body := .ref 2 2 0x1234 5000 (-7) 90 }

/-- An ALIGN whose boundary has come. -/
def alignDue (c : Option Cmd) : AlignDue := { scope := 0, slice := 1, step := 63, at_ := 0x3F000000#64, cmd := c }

theorem witness_selection_run_slews_within_its_limits : ∃ (s : State), s.role = .root ∧ s.dist.sv.state = .inService ∧ s.dist.b.t.held = true ∧ s.dist.refs.ran ≠ some ((tickOf (s.now
    .dist)).toNat / 1024) ∧ s.dist.refs.yc.natAbs ≤ 5000000000 :=
  ⟨refs2, by decide +kernel⟩

theorem witness_reference_news_is_taken_1 : ∃ (port : Nat) (root : Nat) (st : Nat) (key : BitVec 16) (e : Int) (yc : Int) (ab : Nat) (v : Vote) (s : State), port < 128 ∧
    s.role = .root ∧ s.dist.sv.state = .inService ∧ v.body = .ref root st key e yc ab ∧ root ≤ 2 ∧ v.src = rootNode s root ∧ v.dst =
    s.node .dist ∧ v.dst ≠ allRoots ∧ voteFresh s .dist v = true ∧ voteBarred s v = false ∧ leaderOf s .dist ≠ root :=
  ⟨98, 2, 2, 0x1234, 5000, -7, 90, refVote, root, by decide +kernel⟩

theorem witness_reference_news_is_taken_2 : ∃ (port : Nat) (s : State), port < 2 ∧ s.role = .root ∧ tbit (s.cfg .dist (0x10A8 + 8 * port) 0) 12 = true ∧ (tget {}
    s.dist.refs.ptp port).state = 2 ∧ (s.refIn (2 + port)).valid = false :=
  ⟨0, ptpAt 2 false, by decide +kernel⟩

theorem witness_reference_news_is_taken_3 : ∃ (port : Nat) (s : State), port < 2 ∧ s.role = .root ∧ tbit (s.cfg .dist (0x10A8 + 8 * port) 0) 12 = true ∧ (tget {}
    s.dist.refs.ptp port).state = 1 ∧ (s.refIn (2 + port)).valid = false :=
  ⟨0, ptpAt 1 false, by decide +kernel⟩

theorem witness_reference_news_is_taken_4 : ∃ (port : Nat) (s : State), port < 2 ∧ s.role = .root ∧ tbit (s.cfg .dist (0x10A8 + 8 * port) 0) 12 = true ∧ (tget {}
    s.dist.refs.ptp port).state = 2 ∧ (tget {} s.dist.refs.ptp port).gotSync = true :=
  ⟨0, ptpAt 2 true, by decide +kernel⟩

theorem witness_reference_news_is_taken_5 : ∃ (port : Nat) (s : State), port < 2 ∧ s.role = .root ∧ s.cfg .dist 0x10A0 0 % 2 = port :=
  ⟨0, { refs2 with dist.refs.ins := [(4, { valid := true })] }, by decide +kernel⟩

theorem witness_reference_news_is_taken_6 : ∃ (i : Nat) (s : State), (i = 0 ∨ i = 1 ∨ i = 4) ∧ s.role = .root :=
  ⟨0, refs2, by decide +kernel⟩

theorem witness_reference_news_is_taken_7 : ∃ (count : Nat) (s : State), s.role = .root ∧ countGood 5 count = false :=
  ⟨7, root, by decide +kernel⟩

theorem witness_failed_inputs_wait_to_restore_1 : ∃ (i : Nat) (why : RefFail) (s : State), i < 5 ∧ s.role = .root ∧ (s.refIn i).valid = true ∧ refFails s i why = true ∧
    s.dist.b.t.held = true :=
  ⟨0, .tenMhz, refs2, by decide +kernel⟩

theorem witness_failed_inputs_wait_to_restore_2 : ∃ (i : Nat) (x : St) (s : State), i < 6 ∧ (s.refIn i).valid = true ∧ (s.refIn i).wtr = true ∧ (s.refIn i).validSince = some x ∧
    wtrTime s ≤ elapsed (s.now .dist) x :=
  ⟨2, 0, { root with dist.b.t := heldAt (2 ^ 50), dist.refs.ins := [(2, { valid := true, wtr := true, validSince := some 0 })] }, by decide +kernel⟩

theorem witness_failed_inputs_wait_to_restore_3 : ∃ (i : Nat) (x : St) (s : State), i < 6 ∧ (s.refIn i).validSince = some x ∧ elapsed (s.now .dist) x < wtrTime s :=
  ⟨2, 0x3FFFFFFF#64, { root with dist.refs.ins := [(2, { valid := true, wtr := true, validSince := some 0x3FFFFFFF#64 })] }, by decide +kernel⟩

theorem witness_align_moves_the_outputs_1 : ∃ (c : Cmd) (scope : Nat) (slice : Nat) (n : Step) (a : Step × St × Bool) (s : State), c.part = .dist ∧ hsReady s c = true ∧
    isLeader s = true ∧ scope ≤ 2 ∧ slice < 64 ∧ alignStep s .dist slice n = some a :=
  ⟨dcmd, 1, 1, 70, (70, 70 * 2 ^ 24, false), { root with dist.fab.turnings := [(1, die.tsu.turn)] }, by decide +kernel⟩

theorem witness_align_moves_the_outputs_2 : ∃ (c : Cmd) (scope : Nat) (slice : Nat) (s : State), c.part = .tsu ∧ c.mbx = 0 ∧ hsReady s c = true ∧ scope ≤ 2 ∧ slice < 64 :=
  ⟨mb 0, 2, 63, die, by decide +kernel⟩

theorem witness_align_moves_the_outputs_3 : ∃ (p : Part) (d : AlignDue) (s : State), (s.base p).map.aligns = [d] ∧ stGe (s.now p) d.at_ = true ∧ d.scope = 0 ∧ d.at_.toNat +
    64000000000 < 2 ^ 64 :=
  ⟨.tsu, alignDue (some (mb 0)), { die with tsu.b.map.aligns := [alignDue (some (mb 0))] }, by decide +kernel⟩

theorem witness_align_moves_the_outputs_4 : ∃ (s : State), s.role = .root ∧ s.dist.b.t.held = true ∧ (tget {} s.dist.refs.outs 0).high = false ∧ ((∀ x, (tget {}
    s.dist.refs.outs 0).last = some x → 32000000000 ≤ elapsed (s.now .dist) x)) ∧ (s.now .dist - s.dist.refs.outA).toNat %
    64000000000 ≤ 64 :=
  ⟨{ root with dist.b.t := heldAt (64000000000 + 64), dist.refs.outA := 64000000000 }, by refine ⟨rfl, rfl, by decide +kernel, ?_, by decide +kernel⟩; intro x h; cases h⟩

theorem witness_align_moves_the_outputs_5 : ∃ (x : St) (s : State), s.role = .root ∧ s.dist.b.t.held = true ∧ tget {} s.dist.refs.outs 0 = { high := true, last := some x }
    ∧ clampN 1 500000 (s.cfg .dist 0x178 0x3E8) * 64000 ≤ elapsed (s.now .dist) x :=
  ⟨64000000000, { root with dist.b.t := heldAt (64000000000 * 2), dist.refs.outs := [(0, { high := true, last := some 64000000000 })] }, by decide +kernel⟩

/-! ### Premises of the statements of part 04 -/

/-- A TRAIN cell. -/
def trainOf (kind : Nat) (n : Node) (port : Nat) (map : BitVec 6) (tick : Tick) (id : BitVec 16) : Train :=
  { tkind := kind, node := n, port, phys := 0, good := 7, cap := 4, ckind := kind, map, ntick := tick, orderId := id }

/-- Rack distributor A of row 0, as the die's plane A neighbour. -/
def rackN : Node := mkNode 1 0 0 0 0 0

/-- Die 0 of rack 0. -/
def dieN : Node := mkNode 0 0 0 0 0 0

/-- Port 0 of the die with another link. -/
def dieLink (k : Link) : State := die.modPort .tsu 0 fun q => { q with link := k }

/-- Port 0 of the rack distributor with a link to the die. -/
def rackLink (k : Link) : State := { rack.modPort .dist 0 fun q => { q with link := k } with dist.sv.dark := false, dist.sv.posLock := true }

/-- Three lanes in block lock. -/
def locked3 : Tab Lane := [(0, { lock := true, signal := true, calValid := true }), (1, { lock := true, signal := true }), (2, { lock := true, signal := true })]

/-- A link that carries traffic on lanes 0 and 1 with its spare trained. -/
def upLink (n : Node) : Link := { upTo n 0 with lanes := locked3, nbrGood := 7, spareHere := true, spareThere := true }

/-- An order for a change. -/
def orderOf (kind : Nat) (n : Tick) : Order := { kind, map := 0x18, tick := n, id := 4 }

/-- A SIGNAL cell that waits. -/
def cellOf (slice : Nat) : OutCell := { slice, ce := 3, me := 5, at_ := 0, body := .signal { op := 1, replyReq := false, src := dieN, srcCore := 0, dst := dieN, counter := 0, opId := 1, n := 1, deadline := 0, status := 0, value := 0 } }

/-- The die's plane A port with these cells to send, in a tick under way. -/
def sending (x : Sender) : State := die.modPort .tsu 0 fun q => { q with link := upLink rackN, tx := { x with slotTick := some 65536 } }

theorem witness_training_brings_a_link_up_1 : ∃ (p : Part) (i : Nat) (lane : Nat) (s : State), i < portCount p ∧ lane < 3 ∧ (s.port p i).link.state = .down ∧ portArmed s p i
    = true :=
  ⟨.tsu, 0, 2, dieLink { enable := true }, by decide +kernel⟩

theorem witness_training_brings_a_link_up_2 : ∃ (i : Nat) (s : State), i < 2 ∧ s.tsu.die.inReset = false ∧ (s.port .tsu i).link.state = .down ∧ (((s.port .tsu
    i).link.lanes.any fun l => l.2.signal) = true) :=
  ⟨0, dieLink { lanes := [(1, { signal := true })] }, by decide +kernel⟩

theorem witness_training_brings_a_link_up_3 : ∃ (p : Part) (i : Nat) (r : Train) (s : State), i < portCount p ∧ r.crcOk = true ∧ (s.port p i).link.state = .train :=
  ⟨.tsu, 0, trainOf 1 rackN 0 0x24 0 0, dieLink { enable := true, state := .train, sendKind := 1 }, by decide +kernel⟩

theorem witness_training_brings_a_link_up_4 : ∃ (p : Part) (i : Nat) (r : Train) (s : State), i < portCount p ∧ r.crcOk = true ∧ (s.port p i).link.state = .train ∧ nbrOk s p
    i r.node r.port = true ∧ (s.port p i).link.ts2Rx = 15 ∧ (s.port p i).link.sendKind = 2 ∧ (s.base p).t.refclkRange = false :=
  ⟨.tsu, 0, trainOf 2 rackN 0 0x24 0 0, dieLink { enable := true, state := .train, sendKind := 2, ts2Rx := 15, lanes := locked3, nbrGood := 7 }, by decide +kernel⟩

theorem witness_training_brings_a_link_up_5 : ∃ (p : Part) (i : Nat) (r : Train) (s : State), i < portCount p ∧ r.crcOk = true ∧ (s.port p i).link.state = .train ∧ nbrOk s p
    i r.node r.port = false :=
  ⟨.tsu, 0, trainOf 2 rackN 1 0x24 0 0, dieLink { enable := true, state := .train, sendKind := 2, ts2Rx := 15, lanes := locked3 }, by decide +kernel⟩

theorem witness_training_brings_a_link_up_6 : ∃ (p : Part) (i : Nat) (r : Train) (s : State), i < portCount p ∧ r.crcOk = true ∧ (s.port p i).link.state = .align ∧ linkLeader
    s p i = false :=
  ⟨.tsu, 0, trainOf 3 rackN 0 0x24 0 0, { dieLink { upLink rackN with state := .align } with tsu.b.node := none }, by decide +kernel⟩

theorem witness_training_brings_a_link_up_7 : ∃ (p : Part) (i : Nat) (r : Train) (s : State), i < portCount p ∧ r.crcOk = true ∧ (s.port p i).link.state = .align ∧ linkLeader
    s p i = true ∧ (s.port p i).link.alignMap = some r.map :=
  ⟨.dist, 0, trainOf 4 dieN 0 0x24 0 0, rackLink { upLink dieN with state := .align, alignMap := some 0x24 }, by decide +kernel⟩

theorem witness_training_brings_a_link_up_8 : ∃ (p : Part) (i : Nat) (r : Train) (s : State), i < portCount p ∧ r.crcOk = true ∧ (s.port p i).link.state = .timecal ∧
    linkLeader s p i = false :=
  ⟨.tsu, 1, trainOf 5 rackN 0 0x24 900 0, die.modPort .tsu 1 fun q => { q with link := { upLink rackN with state := .timecal } }, by decide +kernel⟩

theorem witness_training_brings_a_link_up_9 : ∃ (p : Part) (i : Nat) (s : State), i < portCount p ∧ (s.port p i).link.state = .timecal ∧ calLanes (s.port p i).link = [] ∧ 2 ≤
    (goodLanes (s.port p i).link).length ∧ (s.port p i).link.range = false :=
  ⟨.tsu, 0, dieLink { upLink rackN with state := .timecal, alignMap := some 0x24, lanes := locked3.map fun l => (l.1, { l.2 with measured := true, calValid := true, nbrValid := true }) }, by decide +kernel⟩

theorem witness_training_brings_a_link_up_10 : ∃ (i : Nat) (s : State), i < 128 ∧ (s.port .dist i).link.state = .timecal ∧ calLanes (s.port .dist i).link = [] ∧ 2 ≤ (goodLanes
    (s.port .dist i).link).length ∧ (s.port .dist i).link.range = true :=
  ⟨0, rackLink { upLink dieN with state := .timecal, range := true, lanes := locked3.map fun l => (l.1, { l.2 with measured := true, calValid := true, nbrValid := true }) }, by decide +kernel⟩

theorem witness_links_fall_back_to_training_1 : ∃ (p : Part) (i : Nat) (s : State), i < portCount p ∧ ((p = .dist → portUse s.role i ≠ 0)) :=
  ⟨.tsu, 0, dieLink (upLink rackN), by decide +kernel⟩

theorem witness_links_fall_back_to_training_2 : ∃ (i : Nat) (s : State), i < 128 ∧ portUse s.role i = 0 :=
  ⟨127, rack, by decide +kernel⟩

theorem witness_links_fall_back_to_training_3 : ∃ (p : Part) (i : Nat) (s : State), i < portCount p ∧ (s.port p i).link.state ≠ .down :=
  ⟨.tsu, 0, dieLink (upLink rackN), by decide +kernel⟩

theorem witness_links_fall_back_to_training_4 : ∃ (p : Part) (i : Nat) (s : State), i < portCount p ∧ (s.port p i).link.state = .train ∧ (((s.port p i).link.lanes.any fun l =>
    l.2.lock) = false) ∧ 10000000 ≤ ((s.base p).perf.cycles - (s.port p i).link.since).toNat :=
  ⟨.tsu, 0, { dieLink { state := .train } with tsu.b.perf.cycles := 10000000 }, by decide +kernel⟩

theorem witness_links_fall_back_to_training_5 : ∃ (p : Part) (i : Nat) (s : State), i < portCount p ∧ (s.port p i).link.state = .align ∧ 1000000 ≤ ((s.base p).perf.cycles -
    (s.port p i).link.since).toNat :=
  ⟨.dist, 0, { rackLink { state := .align, alignMap := some 0x24 } with dist.b.perf.cycles := 1000000 }, by decide +kernel⟩

theorem witness_links_fall_back_to_training_6 : ∃ (p : Part) (i : Nat) (s : State), i < portCount p ∧ (s.port p i).live = true ∧ 64 ≤ (s.port p i).mark.noSlot0 :=
  ⟨.tsu, 0, (dieLink (upLink rackN)).modPort .tsu 0 fun q => { q with mark := { q.mark with noSlot0 := 64, usable := true } }, by decide +kernel⟩

theorem witness_lanes_ask_for_a_change_1 : ∃ (p : Part) (i : Nat) (lane : Nat) (c : Instr) (s : State), (c = .laneFail p i lane ∨ c = .laneWarn p i lane) ∧ i < portCount p
    ∧ lane < 3 ∧ (s.port p i).live = true ∧ mapActive (s.port p i).link.map lane = true ∧ spareOk (s.port p i).link = true ∧ mapSp
    (s.port p i).link.map ≠ lane ∧ (s.port p i).link.order = none :=
  ⟨.tsu, 0, 1, .laneFail .tsu 0 1, dieLink (upLink rackN), by decide +kernel⟩

theorem witness_lanes_ask_for_a_change_2 : ∃ (p : Part) (i : Nat) (lane : Nat) (c : Instr) (s : State), (c = .laneFail p i lane ∨ c = .laneWarn p i lane) ∧ i < portCount p
    ∧ lane < 3 ∧ (s.port p i).live = true ∧ mapActive (s.port p i).link.map lane = true ∧ width2 (s.port p i).link.map = true ∧
    (s.port p i).link.spareHere = false ∧ (s.port p i).link.order = none :=
  ⟨.dist, 0, 0, .laneFail .dist 0 0, rackLink { upLink dieN with spareHere := false }, by decide +kernel⟩

theorem witness_lanes_ask_for_a_change_3 : ∃ (p : Part) (i : Nat) (s : State), i < portCount p ∧ (s.port p i).live = true ∧ mapSp (s.port p i).link.map ≠ 3 :=
  ⟨.dist, 0, rackLink { upLink dieN with map := 0x2C }, by decide +kernel⟩

theorem witness_lanes_ask_for_a_change_4 : ∃ (p : Part) (i : Nat) (s : State), i < portCount p ∧ (s.port p i).live = true :=
  ⟨.dist, 0, rackLink (upLink dieN), by decide +kernel⟩

theorem witness_lanes_ask_for_a_change_5 : ∃ (p : Part) (i : Nat) (s : State), i < portCount p ∧ (s.port p i).live = true ∧ (s.port p i).link.order = none :=
  ⟨.dist, 0, rackLink (upLink dieN), by decide +kernel⟩

theorem witness_changes_apply_at_an_agreed_tick_1 : ∃ (i : Nat) (r : Train) (s : State), i < 128 ∧ r.crcOk = true ∧ (s.port .dist i).live = true ∧ linkLeader s .dist i = true ∧
    (s.port .dist i).link.order = none ∧ r.ckind ≠ 2 :=
  ⟨0, trainOf 1 dieN 0 0x18 0 0, rackLink (upLink dieN), by decide +kernel⟩

theorem witness_changes_apply_at_an_agreed_tick_2 : ∃ (i : Nat) (r : Train) (o : Order) (s : State), i < 128 ∧ r.crcOk = true ∧ (s.port .dist i).live = true ∧ linkLeader s .dist i
    = true ∧ (s.port .dist i).link.order = some o ∧ r.ckind ≠ 2 :=
  ⟨0, trainOf 4 dieN 0 0x18 0 0, orderOf 1 65541, rackLink { upLink dieN with order := some (orderOf 1 65541) }, by decide +kernel⟩

theorem witness_changes_apply_at_an_agreed_tick_3 : ∃ (p : Part) (i : Nat) (r : Train) (s : State), i < portCount p ∧ r.crcOk = true ∧ (s.port p i).live = true ∧ linkLeader s p i =
    false ∧ (s.port p i).link.order = none ∧ 0 < epochDiff r.orderId (s.port p i).link.seenId :=
  ⟨.tsu, 0, trainOf 1 rackN 0 0x18 65544 3, dieLink { upLink rackN with request := some { kind := 1, map := 0x18 } }, by decide +kernel⟩

theorem witness_changes_apply_at_an_agreed_tick_4 : ∃ (p : Part) (i : Nat) (r : Train) (o : Order) (s : State), i < portCount p ∧ r.crcOk = true ∧ (s.port p i).link.order = some o
    ∧ o.id = r.orderId :=
  ⟨.dist, 0, trainOf 1 dieN 0 0x18 0 4, orderOf 1 65541, rackLink { upLink dieN with order := some (orderOf 1 65541) }, by decide +kernel⟩

theorem witness_changes_apply_at_an_agreed_tick_5 : ∃ (p : Part) (i : Nat) (o : Order) (s : State), i < portCount p ∧ (s.port p i).link.order = some o ∧ (o.kind = 1 ∨ o.kind = 5) ∧
    tickDiff o.tick (tickOf (s.now p)) ≤ 2 :=
  ⟨.dist, 0, orderOf 1 65538, rackLink { upLink dieN with order := some (orderOf 1 65538) }, by decide +kernel⟩

theorem witness_changes_apply_at_an_agreed_tick_6 : ∃ (p : Part) (i : Nat) (o : Order) (s : State), i < portCount p ∧ (s.port p i).live = true ∧ (s.port p i).link.order = some o ∧
    0 ≤ tickDiff (tickOf (s.now p)) o.tick ∧ (o.kind = 1 ∨ o.kind = 2 ∨ o.kind = 3) :=
  ⟨.dist, 0, orderOf 1 65536, rackLink { upLink dieN with order := some (orderOf 1 65536) }, by decide +kernel⟩

theorem witness_changes_apply_at_an_agreed_tick_7 : ∃ (p : Part) (i : Nat) (o : Order) (s : State), i < portCount p ∧ (s.port p i).live = true ∧ (s.port p i).link.order = some o ∧
    0 ≤ tickDiff (tickOf (s.now p)) o.tick ∧ o.kind = 4 :=
  ⟨.tsu, 0, orderOf 4 65536, dieLink { upLink dieN with order := some (orderOf 4 65536) }, by decide +kernel⟩

theorem witness_changes_apply_at_an_agreed_tick_8 : ∃ (p : Part) (i : Nat) (o : Order) (s : State), i < portCount p ∧ (s.port p i).live = true ∧ (s.port p i).link.order = some o ∧
    tickDiff (tickOf (s.now p)) o.tick < 0 :=
  ⟨.tsu, 0, orderOf 4 65537, dieLink { upLink dieN with order := some (orderOf 4 65537) }, by decide +kernel⟩

theorem witness_slots_are_filled_by_class : ∃ (p : Part) (i : Nat) (k : Nat) (s : State), i < portCount p ∧ (s.port p i).live = true ∧ 0 < k ∧ k ≤ lastSlot (s.port p
    i).link ∧ (s.base p).ep.have_ = true ∧ (s.port p i).tx.slotTick = some (tickOf (s.now p)) :=
  ⟨.tsu, 0, 1, sending { p1 := [cellOf 0, cellOf 1], p2 := [(1, [cellOf 1])], p3 := [cellOf 2] }, by decide +kernel⟩

theorem witness_lane_measurements_are_adopted_or_rejected_1 : ∃ (p : Part) (i : Nat) (s : State), i < portCount p ∧ linkLeader s p i = true ∧ (s.port p i).link.state = .up ∧ (((s.base
    p).ports.any fun e => decide (0 < e.2.link.rotLeft)) = false) ∧ (s.port p i).link.order = none ∧ rotPeriod s p ≤ ((s.base
    p).perf.cycles - (s.port p i).link.rotAt).toNat :=
  ⟨.dist, 0, { rackLink (upLink dieN) with dist.b.perf.cycles := 0xFFFFFFFFFFFFFF#64 }, by decide +kernel⟩

theorem witness_lane_measurements_are_adopted_or_rejected_2 : ∃ (p : Part) (i : Nat) (lane : Nat) (s : State), i < portCount p ∧ lane < 3 ∧ (s.port p i).live = true ∧ (laneOf (s.port p i)
    lane).lock = true ∧ mapActive (s.port p i).link.map lane = false :=
  ⟨.tsu, 0, 2, dieLink (upLink rackN), by decide +kernel⟩

theorem witness_lane_measurements_are_adopted_or_rejected_3 : ∃ (p : Part) (i : Nat) (s : State), i < portCount p ∧ laneCal (s.port p i) = true :=
  ⟨.tsu, 0, { dieLink { upLink rackN with lanes := locked3.map fun l => (l.1, { l.2 with nbrValid := true, calValid := true }) } with tsu.b.perf.cycles := 800000000000 }, by decide +kernel⟩

/-! ### Premises of the statements of part 05 -/

/-- The die with one region, of number `r`. -/
def withRegion (r : Nat) (q : Region) : State := { die with tsu.regions := [(r, q)] }

/-- A synchronised region at 1,600 MHz whose copy reads 2^30 tu and `d` x 2^-16 tu. -/
def reg (d : Int) : Region := { loaded := true, copy := BitVec.ofInt 80 (2 ^ 46 + d), period := 2621440 }

/-- A die in BLANK whose regions have round trips as given. -/
def paths (f : Nat → Option Nat) : State :=
  { die with tsu.b.t := {}, tsu.die.state := .blank, tsu.mark := {}, tsu.regions := (List.range 144).map fun r => (r, { rt := f r }) }

/-- A mark of a kind at a multiple of 65,536 tu. -/
def markOf (kind n sub : Nat) : W64 := markFrame kind (n * 256 + sub)

/-- The die in TRUING with every copy loaded. -/
def loadedAll : State := { die with tsu.die.state := .truing, tsu.regions := (List.range 144).map fun r => (r, reg 0) }

/-- Port 1 of region 5 with these words. -/
def crossAt (q : Region) (l : List CrossWord) : State := withRegion 5 { q with cross := [(1, { lcross := 200, waiting := l })] }

theorem witness_mark_paths_are_calibrated_in_blank_1 : ∃ (r : Nat) (s : State), r < 144 ∧ s.tsu.die.state = .blank ∧ s.tsu.mark.calDone = false ∧ s.tsu.b.t.held = false :=
  ⟨143, paths fun _ => none, by decide +kernel⟩

theorem witness_mark_paths_are_calibrated_in_blank_2 : ∃ (turn : Nat) (s : State), s.tsu.die.state = .blank ∧ s.tsu.mark.calDone = false ∧ s.tsu.b.t.held = false ∧ ((∀ r, r < 144 → ∃
    rt, (s.region r).rt = some rt ∧ turn + 2 * 16 * 256 ≤ rt ∧ rt ≤ turn + 2 * 512 * 256)) :=
  ⟨500, paths fun _ => some 10000, by exact ⟨by decide +kernel, by decide +kernel, by decide +kernel, fun r h => ⟨10000, (by decide +kernel : ∀ r < 144, ((paths fun _ => some 10000).region r).rt = some 10000) r h, by decide, by decide⟩⟩⟩

theorem witness_mark_paths_are_calibrated_in_blank_3 : ∃ (turn : Nat) (f : Nat) (s : State), s.tsu.die.state = .blank ∧ s.tsu.mark.calDone = false ∧ s.tsu.b.t.held = false ∧ f < 144 ∧
    (s.region f).rt = none ∧ ((∀ r, r < f → pathBad turn (s.region r) = false)) :=
  ⟨500, 7, paths fun r => if r = 7 then none else some 10000, by decide +kernel⟩

theorem witness_mark_paths_are_calibrated_in_blank_4 : ∃ (r : Nat) (s : State), r < 144 ∧ (s.tsu.die.state ≠ .blank ∨ s.tsu.mark.calDone = true ∨ s.tsu.b.t.held = true) :=
  ⟨143, die, by decide +kernel⟩

theorem witness_marks_carry_master_time_1 : ∃ (s : State), s.tsu.b.t.held = true ∧ markResidual s.tsu.b.t ≤ 128 ∧ s.tsu.mark.lastMark ≠ some (s.tsu.b.t.acc.extractLsb' 48
    48) :=
  ⟨{ die with tsu.b.t := heldAt (2 ^ 30 + 64) }, by decide +kernel⟩

theorem witness_marks_carry_master_time_2 : ∃ (s : State), (s.tsu.b.t.held = false ∨ 128 < markResidual s.tsu.b.t ∨ s.tsu.mark.lastMark = some (s.tsu.b.t.acc.extractLsb' 48
    48)) :=
  ⟨{ die with tsu.b.t := heldAt (2 ^ 30 + 65) }, by decide +kernel⟩

theorem witness_marks_correct_the_copy_1 : ∃ (r : Nat) (phi : Nat) (f : W64) (es : List W32) (s : State) (u : State), r < 144 ∧ (s.region r).clockOn = true ∧ u =
    regionEdges r es s ∧ markGood f = true ∧ (markKind f = 1 ∨ markKind f = 2) ∧ (((u.region r).loaded = true → markSt f =
    nearestMark (u.region r).copy)) ∧ phi ≤ 64 :=
  ⟨9, 64, markOf 1 16384 0, [2621440], withRegion 9 (reg (-7000000)), regionEdges 9 [2621440] (withRegion 9 (reg (-7000000))), by decide +kernel⟩

theorem witness_marks_correct_the_copy_2 : ∃ (r : Nat) (f : W64) (es : List W32) (s : State) (u : State), r < 144 ∧ (s.region r).clockOn = true ∧ u = regionEdges r es s ∧
    markGood f = true ∧ markKind f ≠ 3 ∧ (u.region r).loaded = true ∧ markSt f ≠ nearestMark (u.region r).copy :=
  ⟨9, markOf 1 16385 0, [], withRegion 9 (reg 0), withRegion 9 (reg 0), by decide +kernel⟩

theorem witness_marks_correct_the_copy_3 : ∃ (r : Nat) (f : W64) (s : State), r < 144 ∧ markGood f = true ∧ markKind f = 3 ∧ (s.region r).clockOn = true :=
  ⟨9, markOf 3 16385 0, withRegion 9 (reg 0), by decide +kernel⟩

theorem witness_marks_correct_the_copy_4 : ∃ (r : Nat) (s : State), r < 144 ∧ (s.region r).clockOn = false :=
  ⟨9, withRegion 9 { clockOn := false }, by decide +kernel⟩

theorem witness_four_missed_marks_unsynchronise_1 : ∃ (r : Nat) (phi : Nat) (f : W64) (es : List W32) (c : Instr) (s : State) (u : State), r < 144 ∧ (s.region r).clockOn = true ∧ u
    = regionEdges r es s ∧ (c = .markMiss r es ∨ (c = .markReceive r f phi es ∧ markGood f = false)) :=
  ⟨9, 0, markOf 1 16384 0, [2621440], .markMiss 9 [2621440], withRegion 9 { reg 0 with missRun := 3 }, regionEdges 9 [2621440] (withRegion 9 { reg 0 with missRun := 3 }), by decide +kernel⟩

theorem witness_four_missed_marks_unsynchronise_2 : ∃ (r : Nat) (s : State), r < 144 ∧ (s.region r).clockOn = false :=
  ⟨9, withRegion 9 { clockOn := false }, by decide +kernel⟩

theorem witness_region_copies_advance_at_their_edges_1 : ∃ (r : Nat) (s : State), (s.region r).clockOn = true :=
  ⟨9, withRegion 9 (reg 0), by decide +kernel⟩

theorem witness_region_copies_advance_at_their_edges_2 : ∃ (r : Nat) (s : State), (s.region r).clockOn = false :=
  ⟨9, withRegion 9 { clockOn := false }, by decide +kernel⟩

theorem witness_region_copies_advance_at_their_edges_3 : ∃ (r : Nat), r < 144 :=
  ⟨143, by decide +kernel⟩

theorem witness_region_copies_advance_at_their_edges_4 : ∃ (r : Nat) (set : Nat) (es : List W32) (s : State) (u : State), r < 144 ∧ set ≤ 64 ∧ u = regionEdges r es s :=
  ⟨9, 64, [2621440], withRegion 9 (reg 0), regionEdges 9 [2621440] (withRegion 9 (reg 0)), by decide +kernel⟩

theorem witness_region_copies_advance_at_their_edges_5 : ∃ (r : Nat), 144 ≤ r :=
  ⟨144, by decide +kernel⟩

theorem witness_crossings_release_words_when_due_1 : ∃ (r : Nat) (p : Nat) (s : State), r < 144 ∧ crossExists r p = true ∧ s.tsu.die.state = .truing ∧ s.tsu.mark.crossDone = false ∧
    copiesLoaded s = true :=
  ⟨0, 1, loadedAll, by decide +kernel⟩

theorem witness_crossings_release_words_when_due_2 : ∃ (s : State), s.tsu.b.hs.guardLock = false :=
  ⟨die, by decide +kernel⟩

theorem witness_crossings_release_words_when_due_3 : ∃ (s : State), s.tsu.b.hs.guardLock = true :=
  ⟨{ die with tsu.b.hs.guardLock := true }, by decide +kernel⟩

theorem witness_crossings_release_words_when_due_4 : ∃ (r : Nat) (p : Nat) (es : List W32) (s : State) (u : State), r < 144 ∧ crossExists r p = true ∧ u = regionEdges r es s :=
  ⟨5, 1, [2621440], crossAt (reg 0) [], regionEdges 5 [2621440] (crossAt (reg 0) []), by decide +kernel⟩

theorem witness_crossings_release_words_when_due_5 : ∃ (r : Nat) (p : Nat) (w : CrossWord) (l : List CrossWord) (s : State), r < 144 ∧ crossExists r p = true ∧ (s.region r).clockOn
    = true ∧ (s.region r).usable = true ∧ (tget {} (s.region r).cross p).waiting = w :: l :=
  ⟨5, 1, { tag := 0x3FFF00#22, word := 7, edges := 1 }, [], crossAt (reg 0) [{ tag := 0x3FFF00#22, word := 7, edges := 1 }], by decide +kernel⟩

/-! ### Premises of the statements of part 06 -/

/-- An index-plate entry that fires in every step (R193). -/
def ent (off action policy target arg : Nat) : Entry :=
  { w0 := BitVec.ofNat 64 (off * 2 ^ 24 + action * 2 ^ 20 + 2 ^ 19 + policy * 2 ^ 17 + 100)
    w1 := BitVec.ofNat 64 (2 ^ 48 + target), w2 := BitVec.ofNat 64 (arg * 2 ^ 32 + 5) }

/-- The die at the start of step 64 with one entry, 3, on its active bank. -/
def plateWith (e : Entry) : State :=
  { die with tsu.plate := { bankA := [(3, e)], curStep := 64, curStart := 0x40000000#64, groups := [(1, 6)] }, tsu.turn.step := 64, tsu.turn.start := 0x40000000#64 }

/-- Entry 3, armed for `t`. -/
def armedAt (e : Entry) (t : St) : Armed := { entry := 3, e, step := 64, t, nextStart := 0x41000000#64 }

/-- The die with one armed entry. -/
def armedDie (a : Armed) : State := { die with tsu.plate.armed := [a], tsu.sync.ctrs := [(9, { alloc := true, value := 4, limit := 10 })] }

/-- An armed entry of a region. -/
def regArm (t : Nat) : RegArm := { entry := 3, t := BitVec.ofNat 64 t, arg := 77, cond := false }

/-- The die that arms entry 3 next. -/
def nextDue (e : Entry) : Due := { step := 64, start := 0x40000000#64, off := entOffset e, entry := 3, e }

theorem witness_due_entries_follow_the_repeat_rule : ∃ (p : Plate) (q : Piece) (d : Due), pieceNext p q = some d :=
  ⟨(plateWith (ent 100 1 0 1 0)).tsu.plate, { first := 64, start := 0x40000000#64, len := 2 ^ 24, count := none, bank := 0 }, nextDue (ent 100 1 0 1 0), by decide +kernel⟩

theorem witness_entries_are_armed_in_fire_order_1 : ∃ (d : Due) (s : State), plateNext s.tsu.plate s.tsu.turn = some (d, 0) ∧ s.tsu.sync.closed = false ∧ armBarred s (d.start + tu
    d.off) = false ∧ s.tsu.b.t.noTime = false ∧ plateStopped s d.step = false ∧ stLater (d.start + tu d.off) (s.now .tsu + tu
    (armAhead s)) = false ∧ entAction d.e = 1 ∧ maskOf s.tsu.plate.groups (entTarget d.e % 256) ≠ 0 ∧ ((∀ c, s.tsu.plate.lastArm =
    some c → 4 ≤ (s.tsu.b.perf.cycles - c).toNat)) ∧ armRoom s false (maskOf s.tsu.plate.groups (entTarget d.e % 256)) = true :=
  ⟨nextDue (ent 100 1 0 1 0), plateWith (ent 100 1 0 1 0), by refine ⟨by decide +kernel, by decide +kernel, by decide +kernel, by decide +kernel, by decide +kernel, by decide +kernel, by decide +kernel, by decide +kernel, ?_, by decide +kernel⟩; intro x h; cases h⟩

theorem witness_entries_are_armed_in_fire_order_2 : ∃ (d : Due) (s : State), plateNext s.tsu.plate s.tsu.turn = some (d, 0) ∧ s.tsu.sync.closed = false ∧ armBarred s (d.start + tu
    d.off) = false ∧ (s.tsu.b.t.noTime = true ∨ plateStopped s d.step = true) ∧ stGe (s.now .tsu) (d.start + tu d.off) = true :=
  ⟨nextDue (ent 0 1 0 1 0), { plateWith (ent 0 1 0 1 0) with tsu.b.t.noTime := true }, by decide +kernel⟩

theorem witness_entries_are_armed_in_fire_order_3 : ∃ (s : State), plateNext s.tsu.plate s.tsu.turn = none :=
  ⟨die, by decide +kernel⟩

theorem witness_entries_are_armed_in_fire_order_4 : ∃ (r : Nat) (s : State), r < 144 ∧ (s.region r).armed.length < 16 :=
  ⟨143, { die with tsu.regions := [(143, { loaded := true, copy := BitVec.ofNat 80 (2 ^ 46) })] }, by decide +kernel⟩

theorem witness_entries_are_armed_in_fire_order_5 : ∃ (r : Nat) (s : State), r < 144 ∧ 16 ≤ (s.region r).armed.length :=
  ⟨7, { die with tsu.regions := [(7, { armed := List.replicate 16 (regArm 5) })] }, by decide +kernel⟩

theorem witness_planned_stretch_aligns_the_launch : ∃ (p : Int), 0 < p :=
  ⟨100, by decide +kernel⟩

theorem witness_regions_launch_at_their_edge_1 : ∃ (r : Nat) (a : RegArm) (s : State), r < 144 ∧ (s.region r).clockOn = true ∧ (s.region r).usable = true ∧ (s.region r).armed =
    [a] :=
  ⟨9, regArm (2 ^ 30 + 40), { die with tsu.regions := [(9, { loaded := true, copy := BitVec.ofNat 80 (2 ^ 46), period := 2621440, armed := [regArm (2 ^ 30 + 40)] })] }, by decide +kernel⟩

theorem witness_regions_launch_at_their_edge_2 : ∃ (r : Nat) (entry : Nat) (x : RegArm) (s : State), r < 144 ∧ regionWaits (s.region r) entry = some x :=
  ⟨9, 3, { regArm 5 with cond := true }, { die with tsu.regions := [(9, { armed := [{ regArm 5 with cond := true }] })] }, by decide +kernel⟩

theorem witness_regions_launch_at_their_edge_3 : ∃ (r : Nat) (entry : Nat) (s : State), r < 144 ∧ regionWaits (s.region r) entry = none :=
  ⟨143, 3, die, by decide +kernel⟩

theorem witness_fired_frames_and_step_faults_are_recorded_1 : ∃ (r : Nat) (f : W64) (a : Armed) (s : State), r < 144 ∧ bits f.toNat 63 60 = 1 ∧ s.tsu.plate.armed = [a] ∧ a.entry = bits
    f.toNat 59 47 ∧ a.left.getLsbD r = true ∧ a.faulted = 0 ∧ a.mask ≠ 0 :=
  ⟨9, BitVec.ofNat 64 (2 ^ 60 + 3 * 2 ^ 47), { armedAt (ent 0 1 0 1 0) 5 with left := 0x200, mask := 0x200 }, armedDie { armedAt (ent 0 1 0 1 0) 5 with left := 0x200, mask := 0x200 }, by decide +kernel⟩

theorem witness_fired_frames_and_step_faults_are_recorded_2 : ∃ (r : Nat) (es : List W32) (a : Armed) (s : State) (u : State), r < 144 ∧ u = regionEdges r es s ∧ (u.region r).usable = false
    ∧ u.tsu.plate.armed = [a] ∧ a.left = BitVec.ofNat 144 (2 ^ r) ∧ a.mask = a.left ∧ a.faulted = 0 ∧ stGe (u.now .tsu) a.t = true ∧
    u.tsu.plate.fault = false ∧ u.tsu.plate.events.length < 256 :=
  ⟨9, [], { armedAt (ent 0 1 0 1 0) 5 with left := 0x200, mask := 0x200 }, armedDie { armedAt (ent 0 1 0 1 0) 5 with left := 0x200, mask := 0x200 }, armedDie { armedAt (ent 0 1 0 1 0) 5 with left := 0x200, mask := 0x200 }, by decide +kernel⟩

theorem witness_conditions_follow_their_policy_1 : ∃ (entry : Nat) (a : Armed) (s : State), ((s.tsu.plate.armed.find? fun x => x.entry == entry && x.cond == .waiting &&
    decisionDue s x) = some a) :=
  ⟨3, { armedAt (ent 0 1 1 1 0) 0x40000010#64 with cond := .waiting }, armedDie { armedAt (ent 0 1 1 1 0) 0x40000010#64 with cond := .waiting }, by decide +kernel⟩

theorem witness_conditions_follow_their_policy_2 : ∃ (entry : Nat) (a : Armed) (s : State), ((s.tsu.plate.armed.find? fun x => x.entry == entry && x.cond == .holding && stGe
    (s.now .tsu) (holdEnd x)) = some a) :=
  ⟨3, { armedAt (ent 0 1 2 1 0) 0x3FFF0000#64 with cond := .holding }, armedDie { armedAt (ent 0 1 2 1 0) 0x3FFF0000#64 with cond := .holding }, by decide +kernel⟩

theorem witness_plate_actions_act_at_their_instant_1 : ∃ (entry : Nat) (a : Armed) (s : State), actionReady s entry 2 = some a ∧ (ctrOf s (entTarget a.e)).alloc = true :=
  ⟨3, armedAt (ent 0 2 0 9 6) 5, armedDie (armedAt (ent 0 2 0 9 6) 5), by decide +kernel⟩

theorem witness_plate_actions_act_at_their_instant_2 : ∃ (entry : Nat) (a : Armed) (s : State), actionReady s entry 3 = some a ∧ (ctrOf s (entTarget a.e)).alloc = true :=
  ⟨3, armedAt (ent 0 3 0 9 4) 5, armedDie (armedAt (ent 0 3 0 9 4) 5), by decide +kernel⟩

theorem witness_plate_actions_act_at_their_instant_3 : ∃ (entry : Nat) (a : Armed) (s : State), actionReady s entry 5 = some a :=
  ⟨3, armedAt (ent 0 5 0 7 0) 5, armedDie (armedAt (ent 0 5 0 7 0) 5), by decide +kernel⟩

theorem witness_plate_actions_act_at_their_instant_4 : ∃ (entry : Nat) (a : Armed) (s : State), actionReady s entry 6 = some a :=
  ⟨3, armedAt (ent 0 6 0 0 3) 5, armedDie (armedAt (ent 0 6 0 0 3) 5), by decide +kernel⟩

theorem witness_plate_actions_act_at_their_instant_5 : ∃ (s : State), s.tsu.die.tsOut = true :=
  ⟨{ die with tsu.die.tsOut := true, tsu.die.tsOutFall := 9 }, by decide +kernel⟩

theorem witness_plate_actions_act_at_their_instant_6 : ∃ (entry : Nat) (a : Armed) (s : State), actionReady s entry 7 = some a :=
  ⟨3, armedAt (ent 0 7 0 15 300) 5, armedDie (armedAt (ent 0 7 0 15 300) 5), by decide +kernel⟩

theorem witness_plate_actions_act_at_their_instant_7 : ∃ (entry : Nat) (a : Armed) (s : State), actionReady s entry 8 = some a :=
  ⟨3, armedAt (ent 0 8 0 255 300) 5, armedDie (armedAt (ent 0 8 0 255 300) 5), by decide +kernel⟩

/-! ### Premises of the statements of part 07 -/

/-- The die with counter 9 at a value of limit 10. -/
def ctrDie (v : W32) : State := { die with tsu.sync.ctrs := [(9, { alloc := true, value := v, limit := 10 })] }

/-- A watch on counter 9. -/
def watch9 (eq rearm : Bool) (th : W32) : Watch := { counter := 9, eq, rearm, threshold := th, target := 30, tag := 6, held := false }

/-- The die with a hall-group entry. -/
def hallDie (h : HallEntry) : State := { die with tsu.sync.hall := [(4095, h)] }

/-- A local barrier of cores 0 and 5. -/
def localDie (arrived : Nat) : State := { die with tsu.sync.locals := [(63, { mask := 33, open_ := true, arrived, times := [] })] }

/-- A message for core 8. -/
def msg8 (tag : BitVec 16) : Msg := { core := 8, kind := 1, status := .ok, tag }

theorem witness_counter_operations_follow_their_rules_1 : ∃ (core : Nat) (c : Nat) (s : State), PortOpen s core ∧ dieRefuses s = none ∧ (ctrOf s c).alloc = true :=
  ⟨575, 9, ctrDie 4, by unfold PortOpen; decide +kernel⟩

theorem witness_counter_operations_follow_their_rules_2 : ∃ (core : Nat) (c : Nat) (s : State), PortOpen s core ∧ dieRefuses s = none ∧ (ctrOf s c).alloc = true :=
  ⟨0, 9, ctrDie 4, by unfold PortOpen; decide +kernel⟩

theorem witness_counter_operations_follow_their_rules_3 : ∃ (core : Nat) (c : Nat) (s : State), PortOpen s core ∧ dieRefuses s = none ∧ (ctrOf s c).alloc = true :=
  ⟨0, 9, ctrDie 4, by unfold PortOpen; decide +kernel⟩

theorem witness_counter_operations_follow_their_rules_4 : ∃ (core : Nat) (c : Nat) (ctag : BitVec 16) (n : W32) (i : Instr) (s : State), PortOpen s core ∧ dieRefuses s = none ∧ (ctrOf s
    c).alloc = false ∧ (i = .add core ctag c n ∨ i = .sub core ctag c n ∨ i = .read core ctag c) :=
  ⟨0, 8, 1, 2, .sub 0 1 8 2, ctrDie 4, by unfold PortOpen; decide +kernel⟩

theorem witness_counter_operations_follow_their_rules_5 : ∃ (core : Nat) (c : Nat) (opc : Nat) (ctag : BitVec 16) (v : W32) (i : Instr) (st : Status) (s : State), PortOpen s core ∧ ((i =
    .set core ctag c v ∧ st = .denied) ∨ (i = .unknownCounterOpc core ctag opc ∧ st = .badCommand)) :=
  ⟨0, 8, 77, 1, 2, .set 0 1 8 2, .denied, ctrDie 4, by unfold PortOpen; decide +kernel⟩

theorem witness_counter_operations_follow_their_rules_6 : ∃ (core : Nat) (c : Nat) (ctag : BitVec 16) (n : W32) (x : Status) (i : Instr) (s : State), PortOpen s core ∧ dieRefuses s =
    some x ∧ (i = .add core ctag c n ∨ i = .sub core ctag c n ∨ i = .read core ctag c) :=
  ⟨0, 9, 1, 2, .noTime, .read 0 1 9, { ctrDie 4 with tsu.b.t.noTime := true }, by unfold PortOpen; decide +kernel⟩

theorem witness_closed_port_holds_requests_1 : ∃ (core : Nat) (tag : BitVec 16) (a : Nat) (b : Nat) (d : Nat) (n : W32) (w : W32) (x : Bool) (y : Bool) (g : BitVec 16) (m :
    BitVec 4) (e : Step) (i : Instr) (q : PortReq) (s : State), core < 576 ∧ s.tsu.sync.closed = true ∧ (i, q) ∈ [(.add core tag a
    n, .add core tag a n), (.sub core tag a n, .sub core tag a n), (.read core tag a, .read core tag a), (.set core tag a n, .set
    core tag), (.unknownCounterOpc core tag a, .unknown core tag), (.signal core tag a b d n x, .signal core tag a b d n x),
    (.watchReg core tag a x y b g w, .watchReg core tag a x y b g w), (.watchCancel core tag a, .watchCancel core tag a),
    (.localDefine core tag a b m, .localDefine core tag a b m), (.localArrive core tag a, .localArrive core tag a), (.hallArrive
    core tag a, .hallArrive core tag a), (.collectStart core tag a n e, .collectStart core tag a n e)] :=
  ⟨575, 3, 1, 2, 5, 4, 5, true, false, 6, 7, 8, .watchReg 575 3 1 true false 2 6 5, .watchReg 575 3 1 true false 2 6 5, { die with tsu.sync.closed := true }, by decide +kernel⟩

theorem witness_closed_port_holds_requests_2 : ∃ (core : Nat), 576 ≤ core :=
  ⟨576, by decide +kernel⟩

theorem witness_watches_fire_when_their_condition_comes_1 : ∃ (core : Nat) (c : Nat) (target : Nat) (w : Nat) (s : State), PortOpen s core ∧ dieRefuses s = none ∧ (ctrOf s c).alloc = true
    ∧ target ≤ 575 ∧ w < 2048 ∧ ((∀ k, k < w → tget none s.tsu.sync.watches k ≠ none)) ∧ tget none s.tsu.sync.watches w = none :=
  ⟨0, 9, 575, 1, { ctrDie 4 with tsu.sync.watches := [(0, some (watch9 true true 7))] }, by unfold PortOpen; decide +kernel⟩

theorem witness_watches_fire_when_their_condition_comes_2 : ∃ (core : Nat) (s : State), PortOpen s core ∧ dieRefuses s = none :=
  ⟨0, ctrDie 4, by unfold PortOpen; decide +kernel⟩

theorem witness_watches_fire_when_their_condition_comes_3 : ∃ (core : Nat) (c : Nat) (w : Nat) (n : W32) (x : Watch) (s : State), PortOpen s core ∧ dieRefuses s = none ∧ (ctrOf s c).alloc
    = true ∧ (ctrOf s c).value.toNat + n.toNat ≤ (ctrOf s c).limit.toNat ∧ s.tsu.sync.watches = [(w, some x)] ∧ x.counter = c :=
  ⟨0, 9, 2047, 3, watch9 true false 7, { ctrDie 4 with tsu.sync.watches := [(2047, some (watch9 true false 7))] }, by unfold PortOpen; decide +kernel⟩

theorem witness_watches_fire_when_their_condition_comes_4 : ∃ (core : Nat) (s : State), PortOpen s core ∧ dieRefuses s = none :=
  ⟨0, { ctrDie 4 with tsu.sync.watches := [(2047, some (watch9 true true 8))] }, by unfold PortOpen; decide +kernel⟩

theorem witness_local_barriers_wait_for_every_core_1 : ∃ (core : Nat) (slot : Nat) (g : Nat) (s : State), PortOpen s core ∧ dieRefuses s = none ∧ slot < 64 ∧ g < 256 :=
  ⟨0, 63, 255, { die with tsu.plate.groups := [(255, 5)] }, by unfold PortOpen; decide +kernel⟩

theorem witness_local_barriers_wait_for_every_core_2 : ∃ (core : Nat) (slot : Nat) (s : State), PortOpen s core ∧ dieRefuses s = none ∧ slot < 64 :=
  ⟨5, 63, localDie 1, by unfold PortOpen; decide +kernel⟩

theorem witness_arrivals_and_signals_leave_the_die_1 : ∃ (core : Nat) (g : Nat) (s : State), PortOpen s core ∧ dieRefusesNew s = none ∧ g < 4096 :=
  ⟨0, 4095, hallDie { valid := true, member := true, slice := 1, arrivals := 1, gen := 7 }, by unfold PortOpen; decide +kernel⟩

theorem witness_arrivals_and_signals_leave_the_die_2 : ∃ (core : Nat) (target : Nat) (op : Nat) (s : State), PortOpen s core ∧ dieRefusesNew s = none ∧ 1 ≤ op ∧ op ≤ 3 ∧ target ≠
    ownIndex s :=
  ⟨0, 5, 3, ctrDie 4, by unfold PortOpen; decide +kernel⟩

theorem witness_arrivals_and_signals_leave_the_die_3 : ∃ (core : Nat) (s : State), PortOpen s core ∧ dieRefusesNew s = none :=
  ⟨0, ctrDie 4, by unfold PortOpen; decide +kernel⟩

theorem witness_cores_take_messages_by_credit_1 : ∃ (core : Nat) (s : State), core < 576 ∧ coreInReset s core = false :=
  ⟨8, { die with tsu.sync.coreQ := [(8, List.replicate 16 (msg8 1))], tsu.sync.outQ := [msg8 2] }, by decide +kernel⟩

theorem witness_cores_take_messages_by_credit_2 : ∃ (core : Nat) (s : State), core < 576 ∧ coreInReset s core = false :=
  ⟨8, { die with tsu.sync.coreQ := [(8, [msg8 1])], tsu.sync.outQ := [msg8 2] }, by decide +kernel⟩

theorem witness_cores_take_messages_by_credit_3 : ∃ (core : Nat) (s : State), core < 576 ∧ coreInReset s core = true :=
  ⟨575, { die with tsu.sync.coreReset := 2 ^ 575 }, by decide +kernel⟩

theorem witness_cores_take_messages_by_credit_4 : ∃ (core : Nat) (s : State), core < 576 ∧ coreInReset s core = false :=
  ⟨575, die, by decide +kernel⟩

/-! ### Premises of the statements of part 08 -/

/-- A one-cell message as it arrives in order on a port of the slice, with the current pair. -/
def arr (port : Nat) (type : BitVec 4) : Arr := { port, ctype := type, slice := 1, ce := 3, me := 5, seq := 0 }

/-- A SIGNAL from die 1 to die 0, in time. -/
def sig (op : Nat) (n : W32) : SignalCell :=
  { op, replyReq := true, src := mkNode 0 0 0 1 0 0, srcCore := 4, dst := mkNode 0 0 0 0 0 0, counter := 9, opId := 6, n, deadline := 0x40010000#64, status := 0, value := 0 }

/-- A reply to the die's SIGNAL 6. -/
def reply (v : W32) : SignalCell := { sig 4 0 with src := mkNode 0 0 0 1 0 0, value := v, replyReq := false }

/-- The die's SIGNAL 6, which awaits its reply. -/
def sigOut6 (got : Option (SignalCell × Bool × St)) : SigOut := { opId := 6, core := 4, counter := 9, deadline := 0x40010000#64, got }

/-- What a die or a distributor does with an arriving cell before its type's own rules. -/
def inDie (a : Arr) (type op : Nat) (s : State) : State := (dieIn s a type op false fun _ => true).1

/-- The same at a distributor. -/
def inDist (a : Arr) (type op : Nat) (s : State) : State := (distIn s a type op false fun _ => true).1

/-- A rack distributor in slice 1 with dies 0 and 1, hall group 7, and these barrier records. -/
def rackBars (l : List BarRec) : State :=
  { rack with dist.fab.maps := [(1, 3)], dist.fab.hgroups := [(7, some { slice := 1, member := false, arrivals := 0, doneCtr := 0x1FFF, top := false, mask := 3 })], dist.fab.bars := l }

/-- A barrier cell of group 7. -/
def barCell (gen : BitVec 16) : BarCell := { group := 7, gen, src := mkNode 0 0 0 0 0 0, part_ := false, deferred := false, sentSt := 0x3FFFFF00#64 }

/-- A barrier record of group 7. -/
def bar (arrived : BitVec 96) (top : Bool) : BarRec := { group := 7, gen := 2, plane := .a, slice := 1, mask := 3, arrived, top, opened := 0x3FFFFF00#64 }

/-- The die as a member of hall group 7. -/
def hall7 (h : HallEntry) : State := { die with tsu.sync.hall := [(7, h)], tsu.sync.ctrs := [(9, { alloc := true, value := 4, limit := 10 })] }

/-- A generation of group 7 completed by plane A. -/
def done7 : HallDone := { gen := 2, cell := barCell 2, planeB := false, at_ := 0x3FFF0000#64, waiters := [(4, 0x3FFF0000#64)] }

theorem witness_arriving_cells_are_checked_1 : ∃ (a : Arr), a.crcOk = false :=
  ⟨{ arr 0 3 with crcOk := false }, by decide +kernel⟩

theorem witness_arriving_cells_are_checked_2 : ∃ (a : Arr) (type : Nat) (s : State), a.crcOk = true ∧ a.ctype.toNat = type ∧ a.hver = 1 ∧ a.slot0 = false ∧ a.first = true ∧
    a.last = true ∧ a.seq = (s.port .tsu a.port).rxSeq ∧ (s.port .tsu a.port).openMsg = [] ∧ s.tsu.die.sliceValid = true ∧
    s.tsu.die.sliceId = a.slice ∧ ((∀ c, s.tsu.turn.resetCe = some c → 0 ≤ epochDiff a.ce c)) :=
  ⟨arr 1 3, 3, die, by refine ⟨rfl, rfl, rfl, rfl, rfl, rfl, by decide +kernel, by decide +kernel, rfl, rfl, ?_⟩; intro c h; cases h⟩

theorem witness_arriving_cells_are_checked_3 : ∃ (a : Arr) (type : Nat) (p : Part) (s : State), a.port < 128 ∧ a.crcOk = true ∧ a.seq = (s.port p a.port).rxSeq ∧ (s.port p
    a.port).openMsg = [] ∧ a.ctype.toNat ≠ type :=
  ⟨arr 127 6, 3, .dist, rack, by decide +kernel⟩

theorem witness_arriving_cells_are_checked_4 : ∃ (a : Arr) (p : Part) (s : State), a.port < 128 ∧ a.crcOk = true ∧ a.seq ≠ (s.port p a.port).rxSeq :=
  ⟨{ arr 127 6 with seq := 65535 }, .dist, rack, by decide +kernel⟩

theorem witness_arriving_cells_are_checked_5 : ∃ (a : Arr) (c : Epoch) (p : Part) (s : State), resetCeOf s p a.slice = some c ∧ epochDiff a.ce c < 0 :=
  ⟨{ arr 0 6 with ce := 2 }, 3, .tsu, { die with tsu.turn.resetCe := some 3 }, by decide +kernel⟩

theorem witness_signals_are_applied_once_1 : ∃ (a : Arr) (c : SignalCell) (s : State) (u : State), a.port < 2 ∧ (dieIn s a 3 c.opId.toNat (decide (0x13 < c.status)) (fun s
    => inTime s .tsu c.deadline) = (u, .ok)) ∧ c.dst = u.node .tsu :=
  ⟨arr 0 3, sig 1 6, ctrDie 4, inDie (arr 0 3) 3 6 (ctrDie 4), by decide +kernel⟩

theorem witness_signals_are_applied_once_2 : ∃ (src : Node) (id : BitVec 16) (e : SigIn) (s : State), ((s.tsu.sync.sigIn.find? fun e => e.src == src && e.opId == id &&
    !e.second && !e.counted && deckleOver s e.first) = some e) :=
  ⟨mkNode 0 0 0 1 0 0, 6, { src := mkNode 0 0 0 1 0 0, opId := 6, cell := sig 1 5, first := 0x3FFC0000#64, planeB := false }, { die with tsu.sync.sigIn := [{ src := mkNode 0 0 0 1 0 0, opId := 6, cell := sig 1 5, first := 0x3FFC0000#64, planeB := false }] }, by decide +kernel⟩

theorem witness_signal_replies_reach_their_core_1 : ∃ (a : Arr) (c : SignalCell) (e : SigOut) (s : State) (u : State), a.port < 2 ∧ (dieIn s a 3 c.opId.toNat (decide (0x13 <
    c.status)) (fun s => inTime s .tsu c.deadline) = (u, .ok)) ∧ ((u.tsu.sync.sigOut.find? fun e => e.opId == c.opId) = some e) :=
  ⟨arr 0 3, reply 5, sigOut6 none, { die with tsu.sync.sigOut := [sigOut6 none] }, inDie (arr 0 3) 3 6 { die with tsu.sync.sigOut := [sigOut6 none] }, by decide +kernel⟩

theorem witness_signal_replies_reach_their_core_2 : ∃ (id : BitVec 16) (e : SigOut) (f : SignalCell) (pb : Bool) (x : St) (s : State), e.got = some (f, pb, x) ∧
    ((s.tsu.sync.sigOut.find? fun e => e.opId == id && (e.got.any fun g => deckleOver s g.2.2)) = some e) :=
  ⟨6, sigOut6 (some (reply 6, false, 0x3FFC0000#64)), reply 6, false, 0x3FFC0000#64, { die with tsu.sync.sigOut := [sigOut6 (some (reply 6, false, 0x3FFC0000#64))] }, by decide +kernel⟩

theorem witness_signal_replies_reach_their_core_3 : ∃ (id : BitVec 16) (e : SigOut) (s : State), ((s.tsu.sync.sigOut.find? fun e => e.opId == id && e.got.isNone && stGe (s.now
    .tsu) e.deadline) = some e) :=
  ⟨6, { sigOut6 none with deadline := 0x40000000#64 }, { die with tsu.sync.sigOut := [{ sigOut6 none with deadline := 0x40000000#64 }] }, by decide +kernel⟩

theorem witness_distributors_route_signals_and_barriers_1 : ∃ (a : Arr) (c : SignalCell) (s : State) (u : State), a.port < 128 ∧ (distIn s a 3 c.opId.toNat (decide (0x13 < c.status)) (fun
    s => inTime s .dist c.deadline) = (u, .ok)) :=
  ⟨arr 0 3, { sig 1 4 with dst := mkNode 0 0 0 1 0 0 }, rackBars [], inDist (arr 0 3) 3 6 (rackBars []), by decide +kernel⟩

theorem witness_distributors_route_signals_and_barriers_2 : ∃ (a : Arr) (c : BarCell) (b : BarRec) (s : State) (u : State), a.port < 128 ∧ (distIn s a 4 (barOp c) false (fun s => inTime s
    .dist (barDeadline c)) = (u, .ok)) ∧ (((u.dist.fab.bars.filter fun b => b.group == c.group && b.plane == planeOf (cellPlaneB u
    a)).find? fun b => b.gen == c.gen) = some b) ∧ b.mask.getLsbD (portPos u.role a.port) = true ∧ b.sent = false :=
  ⟨arr 1 4, barCell 2, bar 1 true, rackBars [bar 1 true], inDist (arr 1 4) 4 (barOp (barCell 2)) (rackBars [bar 1 true]), by decide +kernel⟩

theorem witness_distributors_route_signals_and_barriers_3 : ∃ (a : Arr) (c : BarCell) (g : HPiece) (s : State) (u : State), a.port < 128 ∧ (distIn s a 4 (barOp c) false (fun s => inTime s
    .dist (barDeadline c)) = (u, .ok)) ∧ u.dist.fab.bars = [] ∧ tget none u.dist.fab.hgroups c.group = some g ∧ g.slice = a.slice ∧
    (groupMask u g (cellPlaneB u a)).getLsbD (portPos u.role a.port) = true ∧ groupMask u g (cellPlaneB u a) ≠ BitVec.ofNat 96 (2 ^
    portPos u.role a.port) :=
  ⟨arr 1 4, barCell 2, { slice := 1, member := false, arrivals := 0, doneCtr := 0x1FFF, top := false, mask := 3 }, rackBars [], inDist (arr 1 4) 4 (barOp (barCell 2)) (rackBars []), by decide +kernel⟩

theorem witness_distributors_route_signals_and_barriers_4 : ∃ (a : Arr) (c : BarCell) (b : BarRec) (s : State) (u : State), a.port < 128 ∧ (distIn s a 5 (barOp c) false (fun s => inTime s
    .dist (barDeadline c)) = (u, .ok)) ∧ ((u.dist.fab.bars.find? fun b => b.group == c.group && b.gen == c.gen) = some b) ∧ P1Room u
    96 :=
  ⟨arr 96 5, barCell 2, bar 3 false, rackBars [bar 3 false], inDist (arr 96 5) 5 (barOp (barCell 2)) (rackBars [bar 3 false]), by unfold P1Room; decide +kernel⟩

theorem witness_hall_barriers_complete_at_the_die_1 : ∃ (a : Arr) (c : BarCell) (s : State) (u : State), a.port < 2 ∧ (dieIn s a 5 (barOp c) false (fun s => inTime s .tsu
    (barDeadline c)) = (u, .ok)) ∧ (hallOf u c.group).valid = true ∧ (hallOf u c.group).member = true ∧ c.gen = (hallOf u
    c.group).gen :=
  ⟨arr 0 5, barCell 2, hall7 { valid := true, slice := 1, member := true, arrivals := 1, gen := 2, count := 1, waiters := [(4, 7)] }, inDie (arr 0 5) 5 (barOp (barCell 2)) (hall7 { valid := true, slice := 1, member := true, arrivals := 1, gen := 2, count := 1, waiters := [(4, 7)] }), by decide +kernel⟩

theorem witness_hall_barriers_complete_at_the_die_2 : ∃ (a : Arr) (c : BarCell) (d : HallDone) (s : State) (u : State), a.port < 2 ∧ (dieIn s a 5 (barOp c) false (fun s => inTime s
    .tsu (barDeadline c)) = (u, .ok)) ∧ (hallOf u c.group).valid = true ∧ (hallOf u c.group).member = true ∧ c.gen ≠ (hallOf u
    c.group).gen ∧ (((hallOf u c.group).done.find? fun d => d.gen == c.gen) = some d) :=
  ⟨arr 1 5, barCell 2, done7, hall7 { valid := true, slice := 1, member := true, arrivals := 1, gen := 3, done := [done7] }, inDie (arr 1 5) 5 (barOp (barCell 2)) (hall7 { valid := true, slice := 1, member := true, arrivals := 1, gen := 3, done := [done7] }), by decide +kernel⟩

theorem witness_hall_barriers_complete_at_the_die_3 : ∃ (g : Nat) (d : HallDone) (s : State), (((hallOf s g).done.find? fun d => deckleOver s d.at_) = some d) :=
  ⟨7, { done7 with at_ := 0x3FFC0000#64 }, hall7 { valid := true, slice := 1, member := true, gen := 3, done := [{ done7 with at_ := 0x3FFC0000#64 }] }, by decide +kernel⟩

theorem witness_hall_barriers_complete_at_the_die_4 : ∃ (g : Nat) (s : State), (hallOf s g).waiters ≠ [] ∧ (hallOf s g).waitRaised = false ∧ barrierWaitLimit s < elapsed (s.now .tsu)
    (hallOf s g).opened :=
  ⟨7, { hall7 { valid := true, slice := 1, member := true, gen := 3, waiters := [(4, 7)] } with tsu.b.t := heldAt (2 ^ 45) }, by decide +kernel⟩

theorem witness_hall_barriers_complete_at_the_die_5 : ∃ (g : Nat) (s : State), ((hallOf s g).waitRaised = true ∨ (hallOf s g).waiters = []) :=
  ⟨7, die, by decide +kernel⟩

theorem witness_context_switches_save_and_restore_1 : ∃ (x : CtxSwitch) (s : State), s.tsu.die.ctx = some x ∧ x.active = false ∧ stepReached s.tsu.turn (s.now .tsu) x.boundary = true :=
  ⟨{ boundary := 63, save := some 0x1000, restore := none }, { armedDie (armedAt (ent 0 1 0 1 0) 5) with tsu.die.ctx := some { boundary := 63, save := some 0x1000, restore := none }, tsu.sync.watches := [(5, some (watch9 true true 5))] }, by decide +kernel⟩

theorem witness_context_switches_save_and_restore_2 : ∃ (x : CtxSwitch) (s : State), s.tsu.die.ctx = some x ∧ x.active = true ∧ s.tsu.sync.waiting = [] :=
  ⟨{ boundary := 63, save := none, restore := none, active := true }, { ctrDie 4 with tsu.die.ctx := some { boundary := 63, save := none, restore := none, active := true }, tsu.sync.closed := true }, by decide +kernel⟩

theorem witness_context_switches_save_and_restore_3 : ∃ (s : State), s.tsu.die.ctx = none :=
  ⟨die, by decide +kernel⟩

/-! ### Premises of the statements of part 09 -/

/-- A descriptor of group 7: XOR of one word. -/
def desc7 : Desc := { valid := true, op := 6, type := 0, k := 0, elems := 1, group := 7, deadlineOfs := 10000000, releaseOfs := 12000000, ledger := 0x1FF, wide := false, contribBuf := 0, resultBuf := 64, doneCtr := 0x1FFF, notifyCore := 30 }

/-- The head of its records, for step 63. -/
def head7 : Head := { shape := { op := 6, ty := 0, k := 0, elems := 1 }, group := 7, tag := 5, deadline := 0x3F989680#64, release := 0x3FB71B00#64 }

/-- A record of group 7 that holds `v` and `n` contributions. -/
def record7 (v n : Nat) : List Byte := headBytes head7 ++ beBytes 8 v ++ tailBytes { status := 0, flags := 0, contrib := n }

/-- Its one cell, padded to 50 bytes. -/
def cell7 (v n : Nat) : CollectCell := { desc := 3, inst := 63, data := record7 v n ++ [0, 0] }

/-- The die as a member of group 7 with descriptor 3 and these instances in flight. -/
def collDie (l : List Inst) : State :=
  { hall7 { valid := true, member := true, slice := 1, arrivals := 1 } with tsu.fab := { descs := [(3, some desc7)], insts := l, mem := [(0, 9)] } }

/-- An instance of descriptor 3 and step 63 with its copies. -/
def inst7 (a b : Copy) : Inst :=
  { desc := 3, d := desc7, step := 63, start := 0x3F000000#64, deadline := 0x5F000000#64, release := 0x3FB71B00#64, opened := 0x3F000000#64, started := true, a, b }

/-- A whole copy. -/
def copy7 (v n : Nat) : Copy := { bytes := record7 v n ++ [0, 0], cells := 1, whole := true, at_ := 0x3FA00000#64 }

/-- A post of group 7 at the rack distributor, with the contribution of position 0. -/
def post7 : Post :=
  { slice := 1, id := 255, plane := .a, head := headBytes head7, ce := 3, me := 5, top := true, mask := 3, waiting := [0, 1], opened := 0x3F000000#64, ports := [(0, { port := 0, bytes := record7 5 1, cells := 1, whole := true })] }

/-- The rack distributor with posts of group 7, its turning of slice 1 in step 63. -/
def rackPosts (l : List Post) : State := { rackBars [] with dist.fab.posts := l, dist.fab.turnings := [(1, die.tsu.turn)] }

/-- A COLLECT cell as it arrives at the rack distributor. -/
def inPost (a : Arr) (c : CollectCell) (s : State) : State :=
  (distIn s a 6 (a.slice * 65536 + (c.desc * 64 + c.inst)) (tailBad false a.last (upBytes s a (c.desc * 64 + c.inst) (planeOf (cellPlaneB s a)) ++ c.data)) (distInTime a.slice (c.desc * 64 + c.inst))).1

/-- The same on the way down. -/
def inDown (a : Arr) (c : CollectCell) (s : State) : State :=
  (distIn s a 7 (a.slice * 65536 + (c.desc * 64 + c.inst)) (tailBad true a.last ((if a.first then [] else ((s.dist.fab.downs.find? fun d => d.slice == a.slice && d.id == c.desc * 64 + c.inst).map (·.bytes)).getD []) ++ c.data)) (distInTime a.slice (c.desc * 64 + c.inst))).1

/-- A RESEND of a die's result of step 63. -/
def voteOf (b : VoteBody) (dst : Node) : Vote := { src := mkNode 0 0 0 1 0 0, dst, me := 5, eventSt := 0x3FFFFFF0#64, body := b }

/-- A record that the top keeps. -/
def kept7 (top : Bool) : Kept := { slice := 1, id := 255, plane := .a, isTop := top, ce := 3, me := 5, bytes := record7 5 2, mask := 3, digest := 0x1234, sent := 0x3FFFFF00#64, step := 63 }

theorem witness_record_heads_round_trip_1 : ∃ (h : Head), h.shape.op < 16 ∧ h.shape.ty < 16 ∧ h.shape.k < 32 ∧ h.shape.elems < 8192 ∧ h.group < 4096 :=
  ⟨{ shape := { op := 15, ty := 15, k := 31, elems := 8191 }, group := 4095, tag := 0xFFFFFFFF, deadline := 0xFFFFFFFFFFFFFFFF, release := 7 }, by decide +kernel⟩

theorem witness_record_heads_round_trip_2 : ∃ (t : Tail), t.status < 256 ∧ t.flags < 256 ∧ t.contrib < 2 ^ 17 :=
  ⟨{ status := 255, flags := 255, contrib := 0x1FFFF }, by decide +kernel⟩

theorem witness_collects_start_with_a_snapshot_1 : ∃ (core : Nat) (desc : Nat) (n : Step) (st : St) (d : Desc) (s : State), PortOpen s core ∧ desc < 1024 ∧ dieRefusesNew s = none
    ∧ s.tsu.turn.started = true ∧ (n = s.tsu.turn.step ∨ n = s.tsu.turn.step + 1) ∧ s.tsu.turn.stepStart n = some st ∧ descFor s
    desc st = some d :=
  ⟨575, 3, 63, 0x3F000000#64, desc7, { collDie [] with tsu.b.t := heldAt 0x3F100000 }, by unfold PortOpen; decide +kernel⟩

theorem witness_collects_start_with_a_snapshot_2 : ∃ (core : Nat) (n : Step) (s : State), PortOpen s core ∧ dieRefusesNew s = none ∧ (s.tsu.turn.started = false ∨ (n ≠
    s.tsu.turn.step ∧ n ≠ s.tsu.turn.step + 1)) :=
  ⟨575, 65, collDie [], by unfold PortOpen; decide +kernel⟩

theorem witness_collects_start_with_a_snapshot_3 : ∃ (entry : Nat) (a : Armed) (d : Desc) (s : State), actionReady s entry 4 = some a ∧ dieRefusesNew s = none ∧ descFor s
    (entTarget a.e % 1024) (a.t - BitVec.ofNat 64 (entOffset a.e)) = some d ∧ d.valid = true ∧ dieMember s d.group = true ∧
    s.tsu.fab.insts = [] ∧ s.tsu.fab.done = [] :=
  ⟨3, armedAt (ent 100 4 0 3 5) 0x40000064#64, desc7, { collDie [] with tsu.plate.armed := [armedAt (ent 100 4 0 3 5) 0x40000064#64], tsu.b.t := heldAt 0x40000100 }, by decide +kernel⟩

theorem witness_collects_start_with_a_snapshot_4 : ∃ (entry : Nat) (s : State), actionReady s entry 4 = none :=
  ⟨3, die, by decide +kernel⟩

theorem witness_results_are_compared_and_written_1 : ∃ (a : Arr) (c : CollectCell) (s : State) (u : State), a.port < 2 ∧ (dieIn s a 7 (c.desc * 64 + c.inst) (tailBad true a.last
    (copyBytes s a c ++ c.data)) (fun s => instInTime s c.desc c.inst) = (u, .ok)) :=
  ⟨{ arr 0 7 with seq := 0 }, cell7 5 2, collDie [inst7 {} {}], (dieIn (collDie [inst7 {} {}]) (arr 0 7) 7 255 false fun _ => true).1, by decide +kernel⟩

theorem witness_results_are_compared_and_written_2 : ∃ (desc : Nat) (inst : Nat) (i : Inst) (bs : List Byte) (x : St) (s : State), ((s.tsu.fab.insts.find? fun i => i.desc == desc &&
    i.step.toNat % 64 == inst) = some i) ∧ i.resent = none ∧ copyIs i.d i.a = .record bs ∧ copyIs i.d i.b = .record bs ∧ verifies
    (shapeOf i.d) bs = true ∧ copiesAt i = some x ∧ stGe (s.now .tsu) i.release = true ∧ stGe (s.now .tsu) x = true ∧ i.d.doneCtr =
    0x1FFF :=
  ⟨3, 63, inst7 (copy7 5 2) (copy7 5 2), record7 5 2, 0x3FA00000#64, collDie [inst7 (copy7 5 2) (copy7 5 2)], by decide +kernel⟩

theorem witness_results_are_compared_and_written_3 : ∃ (desc : Nat) (inst : Nat) (i : Inst) (s : State), ((s.tsu.fab.insts.find? fun i => i.desc == desc && i.step.toNat % 64 ==
    inst) = some i) ∧ i.resent = none ∧ (stGe (s.now .tsu) i.release = false ∨ (i.a.whole = false ∧ i.b.whole = false)) :=
  ⟨3, 63, inst7 {} {}, collDie [inst7 {} {}], by decide +kernel⟩

theorem witness_results_are_compared_and_written_4 : ∃ (desc : Nat) (inst : Nat) (i : Inst) (s : State), ((s.tsu.fab.insts.find? fun i => i.desc == desc && i.step.toNat % 64 ==
    inst) = some i) ∧ i.a.whole = false ∧ i.b.whole = false ∧ stGe (s.now .tsu) i.deadline = true :=
  ⟨3, 63, { inst7 {} {} with deadline := 0x40000000#64 }, collDie [{ inst7 {} {} with deadline := 0x40000000#64 }], by decide +kernel⟩

theorem witness_differing_copies_are_retried_once_1 : ∃ (desc : Nat) (inst : Nat) (i : Inst) (bs : List Byte) (cs : List Byte) (x : St) (s : State), ((s.tsu.fab.insts.find? fun i =>
    i.desc == desc && i.step.toNat % 64 == inst) = some i) ∧ i.resent = none ∧ copyIs i.d i.a = .record bs ∧ copyIs i.d i.b =
    .record cs ∧ bs ≠ cs ∧ hasResidue i.d.op = false ∧ (tailOf bs (recordLen (shapeOf i.d) true)).contrib = (tailOf cs (recordLen
    (shapeOf i.d) true)).contrib ∧ copiesAt i = some x ∧ stGe (s.now .tsu) i.release = true ∧ stGe (s.now .tsu) x = true :=
  ⟨3, 63, inst7 (copy7 5 2) (copy7 6 2), record7 5 2, record7 6 2, 0x3FA00000#64, collDie [inst7 (copy7 5 2) (copy7 6 2)], by decide +kernel⟩

theorem witness_differing_copies_are_retried_once_2 : ∃ (desc : Nat) (inst : Nat) (i : Inst) (x : St) (bs : List Byte) (s : State), ((s.tsu.fab.insts.find? fun i => i.desc == desc &&
    i.step.toNat % 64 == inst) = some i) ∧ i.resent = some x ∧ (stGe (s.now .tsu) (x + BitVec.ofNat 64 262144) = true ∨ stGe (s.now
    .tsu) i.deadline = true) ∧ copyIs i.d i.a = .record bs ∧ i.d.doneCtr = 0x1FFF :=
  ⟨3, 63, { inst7 (copy7 5 2) (copy7 5 2) with resent := some 0x3FB80000#64, a2 := copy7 5 2 }, 0x3FB80000#64, record7 5 2, collDie [{ inst7 (copy7 5 2) (copy7 5 2) with resent := some 0x3FB80000#64, a2 := copy7 5 2 }], by decide +kernel⟩

theorem witness_posts_fold_in_port_order_3 : ∃ (h : Shape) (a : Nat) (b : Nat) (ra : Nat) (rb : Nat), h.op = 1 ∧ a < 2 ^ 128 ∧ b < 2 ^ 128 ∧ ra < resMod ∧ rb < resMod :=
  ⟨{ op := 1, ty := 0, k := 0, elems := 1 }, 2 ^ 128 - 1, 5, 2 ^ 61 - 2, 7, by decide +kernel⟩

theorem witness_posts_fold_in_port_order_5 : ∃ (h : Shape) (x : Int), h.op = 1 ∧ h.ty = 0 ∧ -(2 ^ 63) ≤ x ∧ x < 2 ^ 63 :=
  ⟨{ op := 1, ty := 0, k := 0, elems := 1 }, -2 ^ 63, by decide +kernel⟩

theorem witness_posts_open_wait_and_refuse_1 : ∃ (a : Arr) (c : CollectCell) (g : HPiece) (s : State) (u : State), a.port < 128 ∧ a.slice < 64 ∧ distIn s a 6 (a.slice * 65536
    + (c.desc * 64 + c.inst)) (tailBad false a.last (upBytes s a (c.desc * 64 + c.inst) (planeOf (cellPlaneB s a)) ++ c.data))
    (distInTime a.slice (c.desc * 64 + c.inst)) = (u, .ok) ∧ planeOf (cellPlaneB s a) = planeOf (cellPlaneB u a) ∧
    (u.dist.fab.posts.find? (·.same a.slice (c.desc * 64 + c.inst) (planeOf (cellPlaneB u a)))) = none ∧ ((u.dist.fab.refused.find?
    fun e => e.slice == a.slice && e.id == c.desc * 64 + c.inst && e.plane == planeOf (cellPlaneB u a) && stLater e.until_ (u.now
    .dist)) = none) ∧ tget none u.dist.fab.hgroups (headOf c.data).group = some g ∧ g.slice = a.slice ∧ (groupMask u g (cellPlaneB u
    a)).getLsbD (portPos u.role a.port) = true :=
  ⟨arr 0 6, cell7 5 1, { slice := 1, member := false, arrivals := 0, doneCtr := 0x1FFF, top := false, mask := 3 }, rackPosts [], inPost (arr 0 6) (cell7 5 1) (rackPosts []), by decide +kernel⟩

theorem witness_posts_open_wait_and_refuse_2 : ∃ (slice : Nat) (id : Nat) (plane : Plane) (q : Post) (torn : Bool) (i : Instr) (s : State), s.dist.fab.posts = [q] ∧ q.same
    slice id plane = true ∧ q.done = false ∧ ((i = .postDeadlineLimit slice id plane ∧ torn = false) ∨ (i = .postTornLimit slice id
    plane ∧ torn = true)) :=
  ⟨1, 255, .a, post7, false, .postDeadlineLimit 1 255 .a, rackPosts [post7], by decide +kernel⟩

theorem witness_results_go_down_by_the_vote_1 : ∃ (a : Arr) (c : CollectCell) (s : State) (u : State), a.port < 128 ∧ a.ctype = 7 ∧ c.desc < 1024 ∧ c.inst < 64 ∧ s.role = .rack
    ∧ portBelow .rack a.port = false ∧ (distIn s a 7 (a.slice * 65536 + (c.desc * 64 + c.inst)) (tailBad true a.last ((if a.first
    then [] else ((s.dist.fab.downs.find? fun d => d.slice == a.slice && d.id == c.desc * 64 + c.inst).map (·.bytes)).getD []) ++
    c.data)) (distInTime a.slice (c.desc * 64 + c.inst)) = (u, .ok)) ∧ u.dist.fab.votes = [] ∧ u.dist.fab.routes = [] :=
  ⟨arr 96 7, cell7 5 2, rackPosts [post7], inDown (arr 96 7) (cell7 5 2) (rackPosts [post7]), by decide +kernel⟩

theorem witness_results_go_down_by_the_vote_2 : ∃ (slice : Nat) (id : Nat) (v : RootVote) (s : State), id < 131072 ∧ ((s.dist.fab.votes.find? fun v => v.slice == slice && v.id
    == id) = some v) :=
  ⟨1, 255, { slice := 1, id := 255, ce := 3, me := 5, cells := [{ copies := [(96, cell7 5 2, true, true)], first := 0x3FFF8000#64 }] }, { row with dist.fab.maps := [(1, 3)], dist.fab.votes := [{ slice := 1, id := 255, ce := 3, me := 5, cells := [{ copies := [(96, cell7 5 2, true, true)], first := 0x3FFF8000#64 }] }], dist.fab.posts := [post7] }, by decide +kernel⟩

theorem witness_resends_and_digests_are_answered_1 : ∃ (port : Nat) (slice : Nat) (id : Nat) (n : Step) (v : Vote) (k : Kept) (s : State), port < 128 ∧ v.body = .resend slice id
    false n ∧ voteFresh s .dist v = true ∧ voteBarred s v = false ∧ ((s.dist.fab.kept.find? fun k => !false && k.isTop && k.slice ==
    slice && k.id == id && k.plane == planeOf (portPlaneB s .dist port) && k.step == n && stLater (k.sent + tu (keepTu s)) (s.now
    .dist)) = some k) :=
  ⟨0, 1, 255, 63, voteOf (.resend 1 255 false 63) allRoots, kept7 true, { rackPosts [] with dist.fab.kept := [kept7 true] }, by decide +kernel⟩

theorem witness_resends_and_digests_are_answered_2 : ∃ (port : Nat) (slice : Nat) (id : Nat) (n : Step) (v : Vote) (s : State), port < 128 ∧ v.body = .resend slice id false n ∧
    voteFresh s .dist v = true ∧ voteBarred s v = false ∧ (s.role = .rack ∨ s.role = .row) ∧ s.dist.fab.kept = [] ∧ P1Room s 4 :=
  ⟨0, 1, 255, 63, voteOf (.resend 1 255 false 63) allRoots, rackPosts [], by unfold P1Room; decide +kernel⟩

theorem witness_resends_and_digests_are_answered_4 : ∃ (port : Nat) (slice : Nat) (id : Nat) (n : Step) (v : Vote) (k : Kept) (s : State), port < 128 ∧ v.body = .digestReq slice id
    n ∧ voteFresh s .dist v = true ∧ voteBarred s v = false ∧ s.role = .rack ∧ P1Room s 4 ∧ ((s.dist.fab.kept.find? fun k =>
    !k.isTop && k.slice == slice && k.id == id && k.step == n && stLater (k.sent + tu (keepTu s)) (s.now .dist)) = some k) :=
  ⟨96, 1, 255, 63, voteOf (.digestReq 1 255 63) (mkNode 1 0 0 0 0 0), kept7 false, { rackPosts [] with dist.fab.kept := [kept7 false] }, by unfold P1Room; decide +kernel⟩

theorem witness_resends_and_digests_are_answered_5 : ∃ (port : Nat) (slice : Nat) (id : Nat) (level : Nat) (crc : W32) (v : Vote) (d : Digests) (s : State) (u : State), port < 128 ∧
    voteIn s port v = (u, true) ∧ v.body = .postDigest slice id level crc ∧ ((u.dist.digests.find? fun d => d.slice == slice && d.id
    == id && !d.charged) = some d) :=
  ⟨3, 1, 255, 1, 0x1234, voteOf (.postDigest 1 255 1 0x1234) (mkNode 3 0 0 0 0 0), { slice := 1, id := 255, step := 63, sent := 5, reporters := [], answers := [] }, { root with dist.digests := [{ slice := 1, id := 255, step := 63, sent := 5, reporters := [], answers := [] }] }, (voteIn { root with dist.digests := [{ slice := 1, id := 255, step := 63, sent := 5, reporters := [], answers := [] }] } 3 (voteOf (.postDigest 1 255 1 0x1234) (mkNode 3 0 0 0 0 0))).1, by decide +kernel⟩

theorem witness_resends_and_digests_are_answered_6 : ∃ (slice : Nat) (id : Nat) (d : Digests) (s : State), ((s.dist.digests.find? fun d => d.slice == slice && d.id == id &&
    !d.charged && stGe (s.now .dist) (d.sent + tu (keepTu s))) = some d) :=
  ⟨1, 255, { slice := 1, id := 255, step := 63, sent := 5, reporters := [], answers := [(mkNode 1 0 3 0 0 0, 1, 5), (mkNode 1 0 3 0 1 0, 1, 6)] }, { root with dist.digests := [{ slice := 1, id := 255, step := 63, sent := 5, reporters := [], answers := [(mkNode 1 0 3 0 0 0, 1, 5), (mkNode 1 0 3 0 1 0, 1, 6)] }] }, by decide +kernel⟩

/-! ### Premises of the statements of part 10 -/

/-- A LEDGER message of die 0's mailbox 1. -/
def ledMsg (op : Nat) : LedgerMsg :=
  { op, src := dieN, opId := 6, req := 2, gen := 3, status := 0, mbx := 1, submitSt := 0x3FF00000#64, entry := { zeroEntry with sgroup := 5, maxLen := 8 }, sg := 5, step := 62, arg := 9 }

/-- The die's READ of entry 2, which awaits its reply. -/
def ledOp (got : Option (LedgerMsg × Bool × St)) : LedgerOp := { opId := 6, c := mb 1, op := 2, submitSt := 0x3FF00000#64, deadline := 0x3FFF0000#64, got }

/-- The die with these ledger operations. -/
def opsDie (l : List LedgerOp) : State := { die with tsu.fab.ops := l }

/-- What a die does with an arriving LEDGER message before its own rules. -/
def ledDie (a : Arr) (m : LedgerMsg) (s : State) : State := (ledgerDieIn s a m (m.submitSt + BitVec.ofNat 64 (ledgerOpDeadline s))).1

/-- The same for an EVENT. -/
def evDie (a : Arr) (m : LedgerMsg) (s : State) : State := (ledgerDieIn s a m (m.submitSt + BitVec.ofNat 64 6400000)).1

/-- An empty delta of serving group 5, for step 64, with its CHECK. -/
def delta5 : DeltaRec :=
  let d : DeltaRec := { sgroup := 5, full := false, closeStep := 62, applyStep := 64, release := 0x40000000#64, capacity := 4, elems := [], status := 0, check := 0 }
  { d with check := crc32c (deltaBody d) }

/-- The die with ring 2 of 64 bytes at byte 128 for group 5, and the delta as it has come. -/
def ringDie (size wp rp : Nat) (l : List DeltaIn) : State := { die with tsu.fab := { deltas := l, dies := [(2, { config := BitVec.ofNat 64 (1 + 5 * 256 + 0x1FFF * 65536 + 0x3FF * 2 ^ 32), ring := BitVec.ofNat 64 (16 + size * 65536), wp, rp, resync := false })], mem := [(7, 1), (200, 2)] } }

/-- Both copies of the delta, in time. -/
def both5 : DeltaIn := { sgroup := 5, step := 62, a := some (delta5, 0x3FFF0000#64), b := some (delta5, 0x3FFF0000#64) }

/-- What a die does with an arriving delta before its own rules. -/
def deltaDie (a : Arr) (s : State) : State := (dieIn s a 10 (5 * 256 + 62) false (fun s => inTime s .tsu (delta5.release + BitVec.ofNat 64 s.tsu.turn.len))).1

/-- Serving group 5 of slice 1, whose members are hall group 7. -/
def sg5 : SGroup := { f := { valid := true, slice := 1, group := 7, capacity := 1, closeOfs := 100, tokenOfs := 5000, deltaLead := 32768, fullPeriod := 4 }, last := some 60 }

/-- Die 0's entry 2, of group 5. -/
def ent5 (state : Nat) : LedgerEntry := { zeroEntry with slice := 1, sgroup := 5, state, gen := 3, slot := if state = 2 then 0 else 0xFFFF, maxLen := 8, dueNone := true }

/-- Root 0 with the ledger as given, serving slice 1 to rows 0 of both planes. -/
def ledRoot (l : Ledger) : State := { root with dist.led := l, dist.fab.maps := [(1, 0x100000001)], dist.fab.hgroups := [(7, some { slice := 1, member := false, arrivals := 0, doneCtr := 0x1FFF, top := false, mask := 0x100000001 })], dist.fab.turnings := [(1, die.tsu.turn)] }

/-- Its state after what an arriving LEDGER message meets first. -/
def ledIn (a : Arr) (m : LedgerMsg) (s : State) : State := (ledgerIn s a m).1

/-- An operation held for commit. -/
def held5 (m : LedgerMsg) : Ingest := { msg := m, slice := 1, ce := 3, me := 5 }

/-- A root with one operation held and the entry in a state. -/
def oneOp (m : LedgerMsg) (t : Tab LedgerEntry) : State := ledRoot { ingest := [held5 m], table := t, sgs := [(5, some sg5)] }

/-- A result of the sampling collect. -/
def sample (step : Step) (at_ : Option St) : SampleIn := { step, bytes := record7 5 1, release := 0x3FF00000#64, at_ }

/-- A close of step 62 begun. -/
def close62 (ready : Option St) : CloseRec := { step := 62, first := 0x3EFF0000#64, ready }

/-- The root with group 5 as given and entry 2 active. -/
def sgRoot (g : SGroup) : State := ledRoot { table := [(2, ent5 2)], sgs := [(5, some g)] }

/-- The root in the start of step 64. -/
def sgRoot64 (g : SGroup) : State := sgRoot g

/-- A root's digest of the close of step 62. -/
def digVote (r crc : Nat) : Vote := { src := mkNode 3 0 0 0 0 r, dst := mkNode 3 0 0 0 0 0, me := 5, eventSt := 0x3FFFFFF0#64, body := .digest 5 62 (BitVec.ofNat 32 crc) }

/-- The root with digests of that close. -/
def digRoot (own : List (Step × W32)) (third : List (Step × W32)) : State := ledRoot { digests := (if own = [] then [] else [(5, own)]) ++ (if third = [] then [] else [(517, third)]), sgs := [(5, some sg5)], table := [(2, ent5 2)] }

theorem witness_ledger_commands_are_carried_to_the_roots_1 : ∃ (i : Instr) (c : Cmd) (op : Nat) (req : Nat) (gen : BitVec 16) (e : LedgerEntry) (s : State), hsReady s c = true ∧ c.mbx ≤ 3 ∧
    ((∃ sg pr tk ml dl iv pg sd ow, i = .ledgerSubmit c sg pr tk ml dl iv pg sd ow ∧ op = 1 ∧ req = 0 ∧ gen = 0 ∧ e =
    { zeroEntry with sgroup := sg % 256, prio := pr % 8, tokens := tk, maxLen := ml, deadline := dl, interval := iv, page := pg, seed := sd, owner := ow })
    ∨ (e = zeroEntry ∧ req < 65536 ∧ ((i = .ledgerRead c req gen ∧ op = 2) ∨ (i = .ledgerPause c req gen ∧ op = 3) ∨ (i =
    .ledgerResume c req gen ∧ op = 4) ∨ (i = .ledgerCancel c req gen ∧ op = 5) ∨ (i = .ledgerRelease c req gen ∧ op = 6)))) :=
  ⟨.ledgerRead (mb 1) 65535 3, mb 1, 2, 65535, 3, zeroEntry, die, by refine ⟨by decide +kernel, by decide, Or.inr ⟨rfl, by decide, Or.inl ⟨rfl, rfl⟩⟩⟩⟩

theorem witness_ledger_commands_are_carried_to_the_roots_1b : ∃ (i : Instr) (c : Cmd) (op : Nat) (req : Nat) (gen : BitVec 16) (e : LedgerEntry) (s : State), hsReady s c = true ∧ c.mbx ≤ 3 ∧
    ((∃ sg pr tk ml dl iv pg sd ow, i = .ledgerSubmit c sg pr tk ml dl iv pg sd ow ∧ op = 1 ∧ req = 0 ∧ gen = 0 ∧ e =
    { zeroEntry with sgroup := sg % 256, prio := pr % 8, tokens := tk, maxLen := ml, deadline := dl, interval := iv, page := pg, seed := sd, owner := ow })
    ∨ (e = zeroEntry ∧ req < 65536 ∧ ((i = .ledgerRead c req gen ∧ op = 2) ∨ (i = .ledgerPause c req gen ∧ op = 3) ∨ (i =
    .ledgerResume c req gen ∧ op = 4) ∨ (i = .ledgerCancel c req gen ∧ op = 5) ∨ (i = .ledgerRelease c req gen ∧ op = 6)))) :=
  ⟨.ledgerSubmit (mb 0) 5 9 1 8 0 7 6 5 4, mb 0, 1, 0, 0, { zeroEntry with sgroup := 5, prio := 1, tokens := 1, maxLen := 8, deadline := 0, interval := 7, page := 6, seed := 5, owner := 4 }, die, by exact ⟨by decide +kernel, by decide, Or.inl ⟨5, 9, 1, 8, 0, 7, 6, 5, 4, rfl, rfl, rfl, rfl, rfl⟩⟩⟩

theorem witness_ledger_commands_are_carried_to_the_roots_2 : ∃ (opId : BitVec 16) (o : LedgerOp) (s : State), ((s.tsu.fab.ops.find? fun o => o.opId == opId && o.got.isNone && stGe (s.now
    .tsu) o.deadline) = some o) :=
  ⟨6, ledOp none, opsDie [ledOp none], by decide +kernel⟩

theorem witness_ledger_commands_are_carried_to_the_roots_3 : ∃ (opId : BitVec 16) (s : State), ((∀ o ∈ s.tsu.fab.ops, o.opId = opId → o.got ≠ none ∨ stGe (s.now .tsu) o.deadline = false)) :=
  ⟨6, opsDie [{ ledOp none with deadline := 0x40000001#64 }, ledOp (some (ledMsg 7, true, 5))], by decide +kernel⟩

theorem witness_replies_and_events_reach_their_mailbox_1 : ∃ (a : Arr) (m : LedgerMsg) (o : LedgerOp) (s : State) (u : State), a.port < 2 ∧ ledgerDieIn s a m (m.submitSt + BitVec.ofNat 64
    (ledgerOpDeadline s)) = (u, .ok) ∧ m.op = 7 ∧ ((u.tsu.fab.ops.find? fun o => o.opId == m.opId && o.submitSt == m.submitSt &&
    m.op == 7) = some o) :=
  ⟨{ arr 0 9 with seq := 0 }, ledMsg 7, ledOp none, opsDie [ledOp none], ledDie (arr 0 9) (ledMsg 7) (opsDie [ledOp none]), by decide +kernel⟩

theorem witness_replies_and_events_reach_their_mailbox_2 : ∃ (a : Arr) (m : LedgerMsg) (s : State) (u : State), a.port < 2 ∧ m.op = 8 ∧ m.mbx < 4 ∧ eventOrphan s a = false ∧ ledgerDieIn s
    a m (m.submitSt + BitVec.ofNat 64 6400000) = (u, .ok) :=
  ⟨arr 0 9, ledMsg 8, die, evDie (arr 0 9) (ledMsg 8) die, by decide +kernel⟩

theorem witness_replies_and_events_reach_their_mailbox_3 : ∃ (a : Arr) (m : LedgerMsg) (s : State) (u : State), a.port < 2 ∧ m.op = 8 ∧ eventOrphan s a = true ∧ cellIn s .tsu a 9
    m.opId.toNat (decide (0x13 < m.status)) = (u, true) :=
  ⟨{ arr 0 9 with slice := 2 }, ledMsg 8, die, (cellIn die .tsu { arr 0 9 with slice := 2 } 9 6 false).1, by decide +kernel⟩

theorem witness_deltas_are_written_into_their_ring_1 : ∃ (a : Arr) (d : DeltaRec) (s : State) (u : State), a.port < 2 ∧ (dieIn s a 10 (d.sgroup * 256 + d.closeStep.toNat % 256)
    (decide (d.status ≠ 0 ∧ d.status ≠ 0x13)) (fun s => inTime s .tsu (d.release + BitVec.ofNat 64 s.tsu.turn.len)) = (u, .ok)) :=
  ⟨arr 0 10, delta5, ringDie 8 6 0 [], deltaDie (arr 0 10) (ringDie 8 6 0 []), by decide +kernel⟩

theorem witness_deltas_are_written_into_their_ring_2 : ∃ (sg : Nat) (step : Step) (x : DeltaIn) (d : DeltaRec) (y : St) (s : State), ((s.tsu.fab.deltas.find? fun x => x.sgroup == sg
    && x.step == step) = some x) ∧ x.resent = none ∧ x.a = some (d, y) ∧ x.b = some (d, y) ∧ d.status = 0 ∧ stLater y
    ((s.tsu.turn.stepStart (d.applyStep + 1)).getD (d.release + BitVec.ofNat 64 s.tsu.turn.len)) = false :=
  ⟨5, 62, both5, delta5, 0x3FFF0000#64, ringDie 8 6 0 [both5], by decide +kernel⟩

theorem witness_deltas_are_written_into_their_ring_3 : ∃ (k : Nat), k < 8 :=
  ⟨2, by decide +kernel⟩

theorem witness_roots_hold_operations_for_commit_1 : ∃ (a : Arr) (m : LedgerMsg) (s : State) (u : State), a.port < 128 ∧ ledgerIn s a m = (u, .ok) ∧ u.role = .root ∧ 1 ≤ m.op ∧ m.op
    ≤ 6 :=
  ⟨arr 0 9, { ledMsg 1 with submitSt := 0x3FFF0000#64 }, ledRoot {}, ledIn (arr 0 9) { ledMsg 1 with submitSt := 0x3FFF0000#64 } (ledRoot {}), by decide +kernel⟩

theorem witness_roots_hold_operations_for_commit_2 : ∃ (a : Arr) (m : LedgerMsg) (s : State) (u : State), a.port < 128 ∧ ledgerIn s a m = (u, .stale) ∧ u.role = .root ∧ 1 ≤ m.op ∧
    m.op ≤ 6 ∧ u.dist.mem.holdOut = false :=
  ⟨{ arr 0 9 with ce := 1 }, ledMsg 3, ledRoot {}, ledIn { arr 0 9 with ce := 1 } (ledMsg 3) (ledRoot {}), by decide +kernel⟩

theorem witness_roots_hold_operations_for_commit_3 : ∃ (a : Arr) (m : LedgerMsg) (s : State) (u : State), a.port < 128 ∧ ledgerIn s a m = (u, .ok) ∧ u.role ≠ .root ∧ portBelow
    u.role a.port = true :=
  ⟨arr 0 9, ledMsg 1, { row with dist.fab.maps := [(1, 1)] }, ledIn (arr 0 9) (ledMsg 1) { row with dist.fab.maps := [(1, 1)] }, by decide +kernel⟩

theorem witness_roots_hold_operations_for_commit_4 : ∃ (s : State), s.role ≠ .root :=
  ⟨row, by decide +kernel⟩

theorem witness_operations_commit_by_the_state_table_1 : ∃ (x : Ingest) (s : State), s.role = .root ∧ s.dist.led.ingest = [x] :=
  ⟨held5 (ledMsg 1), oneOp (ledMsg 1) [], by decide +kernel⟩

theorem witness_operations_commit_by_the_state_table_2 : ∃ (req : Nat) (at_ : St) (s : State), tget none s.dist.led.doneAt req = some at_ :=
  ⟨2, 0, ledRoot { table := [(2, ent5 5)], doneAt := [(2, some 0)] }, by decide +kernel⟩

theorem witness_closes_begin_and_take_their_samples_1 : ∃ (a : Arr) (m : LedgerMsg) (s : State) (u : State), a.port < 128 ∧ ledgerIn s a m = (u, .ok) ∧ u.role = .root ∧ m.op = 9 ∧ m.sg
    < 256 :=
  ⟨arr 0 9, ledMsg 9, sgRoot sg5, ledIn (arr 0 9) (ledMsg 9) (sgRoot sg5), by decide +kernel⟩

theorem witness_closes_begin_and_take_their_samples_2 : ∃ (sg : Nat) (step : Step) (g : SGroup) (x : SampleIn) (s : State), s.sgroup sg = some g ∧ g.sampleA = some x ∧ x.step = step ∧
    x.at_ = none :=
  ⟨5, 61, { sg5 with sampleA := some (sample 61 none) }, sample 61 none, sgRoot { sg5 with sampleA := some (sample 61 none) }, by decide +kernel⟩

theorem witness_closes_begin_and_take_their_samples_3 : ∃ (sg : Nat) (g : SGroup) (c : CloseRec) (s : State), s.sgroup sg = some g ∧ g.close = some c :=
  ⟨5, { sg5 with close := some (close62 none) }, close62 none, sgRoot { sg5 with close := some (close62 none) }, by decide +kernel⟩

theorem witness_closes_begin_and_take_their_samples_4 : ∃ (sg : Nat) (g : SGroup) (n : Step) (s : State), g.f.slice < 64 ∧ s.sgroup sg = some g ∧ lastPast s g g.f.deltaLead = some n :=
  ⟨5, sg5, 63, sgRoot sg5, by decide +kernel⟩

theorem witness_closes_decide_the_batch_2 : ∃ (sg : Nat) (g : SGroup) (c : CloseRec) (s : State), s.sgroup sg = some g ∧ g.close = some c ∧ (s.role ≠ .root ∨ sampleReady s
    g c = false) :=
  ⟨5, { sg5 with close := some (close62 none) }, close62 none, sgRoot { sg5 with close := some (close62 none) }, by decide +kernel⟩

theorem witness_closes_decide_the_batch_3 : ∃ (sg : Nat) (g : SGroup) (c : CloseRec) (a : Step) (release : St) (s : State), s.sgroup sg = some g ∧ g.close = some c ∧ s.role
    = .root ∧ sampleReady s g c = true ∧ g.sampleA = none ∧ g.sampleB = none ∧ g.f.slice < 64 ∧ s.dist.mem.holdOut = false ∧
    (s.turning .dist g.f.slice).boundaryAfter (closeSt s g c.step + BitVec.ofNat 64 g.f.deltaLead) = some (a, release) :=
  ⟨5, { sg5 with close := some (close62 (some 0x3FFF0000)) }, close62 (some 0x3FFF0000), 63, 0x3F000000#64, sgRoot { sg5 with close := some (close62 (some 0x3FFF0000)) }, by decide +kernel⟩

theorem witness_digests_keep_the_roots_together : ∃ (port : Nat) (sg : Nat) (r : Nat) (n : Step) (crc : W32) (v : Vote) (s : State) (u : State), port < 128 ∧ sg < 256 ∧ voteIn s
    port v = (u, true) ∧ v.body = .digest sg n crc ∧ servesRoot u = true ∧ (((List.range 3).find? fun r => v.src == rootNode u r) =
    some r) ∧ r ≠ ownRootIx u ∧ ownRootIx u < 3 :=
  ⟨96, 5, 1, 62, 0x77, digVote 1 0x77, digRoot [] [], (voteIn (digRoot [] []) 96 (digVote 1 0x77)).1, by decide +kernel⟩

/-! ### Premises of the statements of part 11 -/

/-- Root r. -/
def rootN (r : Nat) : Node := mkNode 3 0 0 0 0 r

/-- Root 0, leading, with the other roots in service and these parts in the record. -/
def roots (l : List (Nat × NodeRec)) (m : Membership) : State :=
  { root with dist.mem := { m with nodes := l ++ [((rootN 0).toNat, { known := true, status := 0 }), ((rootN 1).toNat, { known := true, status := 0 }), ((rootN 2).toNat, { known := true, status := 0 })] } }

/-- A VOTE to every root, or to one part. -/
def voteTo (src dst : Node) (b : VoteBody) : Vote := { src, dst, me := 5, eventSt := 0x3FFFFFF0#64, body := b }

/-- A suspect report of rack distributor A against die 0. -/
def rep (hard : Bool) : Report :=
  { accused := dieN, hard, split := false, cause := 3, tj := 40, region := 255, freq := 255, opref := 0, p2Slots := 0, p1Depth := 0, stretch := 0, detail := 0 }

/-- What a distributor does with an arriving VOTE before its own rules. -/
def votedIn (s : State) (port : Nat) (v : Vote) : State := (voteIn s port v).1

/-- Root 0 with die 0 in the record and `k` earlier events against it. -/
def accusedBy (k : Nat) : State := roots [(dieN.toNat, { known := true, status := 0, events := (List.range k).map fun i => (BitVec.ofNat 64 (0x3FFF0000 + i), false, false, rackN, 3) })] {}

/-- A decision for the tick. -/
def dueOf (c : Change) (k : Tick) : MemberDue := { changes := [c], me := 6, tick := k, decided := 65500 }

/-- The die with a slice reset announced for a tick; its counter 9 is 4. -/
def resetDie (n : Tick) : State := { ctrDie 4 with tsu.turn.resetPending := true, tsu.turn.resetTick := some n, tsu.b.ep.pend := [{ tick := n, ce := some 4 }] }

/-- The leading root with one announced and held. -/
def resetRoot (n : Tick) : State := { ledRoot { table := [(2, ent5 2)] } with dist.fab.turnings := [(1, { die.tsu.turn with resetPending := true, resetTick := some n })], dist.b.ep.leader := 0, dist.b.ep.pend := [{ tick := n, ce := some 4 }], dist.sv.resets := [(dcmd, 1)] }

/-- The row distributor with its ports to rack 0 out since an ST. -/
def rowOut (x : Nat) : State := (row.modLink .dist 0 fun k => { k with outAt := some (BitVec.ofNat 64 x) }).modLink .dist 1 fun k => { k with outAt := some (BitVec.ofNat 64 x) }

/-- Row distributor A of row 5, a candidate. -/
def row5 : Node := mkNode 2 0 5 0 0 0

/-- A row distributor with a live uplink 96. -/
def rowLive : State := row.modPort .dist 96 fun q => { q with link := upTo (rootN 0) 0 }

/-- Root 0 that elects, its candidate row distributor offered index 1. -/
def electRoot (acc : List (Nat × Node)) : State := { root with dist.mem.electing := true, dist.mem.offers := [(1, row5, 65530), (2, mkNode 2 0 6 0 0 1, 65530)], dist.mem.accepts := acc }

theorem witness_slice_resets_clear_the_slice_1 : ∃ (c : Cmd) (s : State), hsReady s c = true ∧ c.mbx ≤ 3 :=
  ⟨mb 0, die, by decide +kernel⟩

theorem witness_slice_resets_clear_the_slice_2 : ∃ (p : Part) (slice : Nat) (n : Tick) (s : State), slice < 64 ∧ (s.turning p slice).resetTick = some n ∧ tickDiff (tickOf (s.now
    p)) n < 0 :=
  ⟨.tsu, 1, 65537, resetDie 65537, by decide +kernel⟩

theorem witness_slice_resets_clear_the_slice_3 : ∃ (p : Part) (slice : Nat) (n : Tick) (s : State), slice < 64 ∧ (s.turning p slice).resetTick = some n ∧ 0 ≤ tickDiff (tickOf
    (s.now p)) n ∧ ((p = .tsu → s.tsu.die.sliceValid = true ∧ s.tsu.die.sliceId = slice)) ∧ (s.turning p slice).resetPending = true
    ∧ resetCeOf (adoptEpochs s p) p slice ≠ some ((adoptEpochs s p).base p).ep.ce :=
  ⟨.tsu, 1, 65536, resetDie 65536, by decide +kernel⟩

theorem witness_slice_resets_clear_the_slice_3b : ∃ (p : Part) (slice : Nat) (n : Tick) (s : State), slice < 64 ∧ (s.turning p slice).resetTick = some n ∧ 0 ≤ tickDiff (tickOf
    (s.now p)) n ∧ ((p = .tsu → s.tsu.die.sliceValid = true ∧ s.tsu.die.sliceId = slice)) ∧ (s.turning p slice).resetPending = true
    ∧ resetCeOf (adoptEpochs s p) p slice ≠ some ((adoptEpochs s p).base p).ep.ce :=
  ⟨.dist, 1, 65536, { resetRoot 65536 with dist.fab.posts := [post7, { post7 with slice := 2 }], dist.fab.bars := [bar 1 true] }, by decide +kernel⟩

theorem witness_decisions_apply_at_their_tick_1 : ∃ (p : Part) (s : State), ((∀ d ∈ (s.base p).due, tickDiff (tickOf (s.now p)) d.tick < 0)) :=
  ⟨.tsu, { die with tsu.b.due := [dueOf { node := dieN, state := 0, cause := 0 } 65537] }, by decide +kernel⟩

theorem witness_decisions_apply_at_their_tick_2 : ∃ (c : Change) (d : MemberDue) (s : State), s.tsu.b.due = [d] ∧ d.changes = [c] ∧ 0 ≤ tickDiff (tickOf (s.now .tsu)) d.tick :=
  ⟨{ node := dieN, state := 0, cause := 0 }, dueOf { node := dieN, state := 0, cause := 0 } 65536, { die with tsu.b.due := [dueOf { node := dieN, state := 0, cause := 0 } 65536] }, by decide +kernel⟩

theorem witness_decisions_apply_at_their_tick_3 : ∃ (c : Change) (d : MemberDue) (s : State), s.dist.b.due = [d] ∧ d.changes = [c] ∧ 0 ≤ tickDiff (tickOf (s.now .dist)) d.tick :=
  ⟨{ node := dieN, state := 2, cause := 0 }, dueOf { node := dieN, state := 2, cause := 0 } 65536, { rackBars [bar 1 true] with dist.b.due := [dueOf { node := dieN, state := 2, cause := 0 } 65536] }, by decide +kernel⟩

theorem witness_reports_lead_to_decisions_1 : ∃ (port : Nat) (r : Report) (v : Vote) (s : State) (u : State), port < 128 ∧ voteIn s port v = (u, true) ∧ v.body = .report r ∧
    servesRoot u = true ∧ (((List.range 3).find? fun x => rootNode u x == v.src) = none) ∧ r.hard = false ∧ nodeKind r.accused = 0 ∧
    ((∀ e ∈ (u.nodeRec r.accused).events, ¬ (e.1 = v.eventSt ∧ e.2.2.2.1 = v.src ∧ e.2.2.2.2 = r.cause))) ∧ ((∀ e ∈
    u.dist.mem.nodes, e.2.fresh = false)) ∧ (u.nodeRec r.accused).known = true ∧ (u.nodeRec r.accused).status ≤ 1 ∧ (u.nodeRec
    r.accused).probation = false ∧ elapsed (u.now .dist) v.eventSt ≤ quarWindow u :=
  ⟨0, rep false, voteTo rackN allRoots (.report (rep false)), accusedBy 1, votedIn (accusedBy 1) 0 (voteTo rackN allRoots (.report (rep false))), by decide +kernel⟩

theorem witness_reports_lead_to_decisions_2 : ∃ (port : Nat) (c : Change) (v : Vote) (s : State) (u : State), port < 128 ∧ voteIn s port v = (u, true) ∧ v.body = .propose [c]
    ∧ servesRoot u = true ∧ (((rootsIn u).any fun r => rootNode u r == v.src) = true) ∧ c.node ≠ v.src ∧ quorum u = 2 :=
  ⟨96, { node := dieN, state := 2, cause := 3 }, voteTo (rootN 1) allRoots (.propose [{ node := dieN, state := 2, cause := 3 }]), accusedBy 0, votedIn (accusedBy 0) 96 (voteTo (rootN 1) allRoots (.propose [{ node := dieN, state := 2, cause := 3 }])), by decide +kernel⟩

theorem witness_reports_lead_to_decisions_3 : ∃ (port : Nat) (cs : List Change) (me : Epoch) (k : Tick) (v : Vote) (s : State), port < 2 ∧ v.body = .member cs me k ∧
    s.tsu.b.due = [] :=
  ⟨1, [{ node := dieN, state := 2, cause := 3 }], 6, 65600, voteTo (rootN 0) allRoots (.member [{ node := dieN, state := 2, cause := 3 }] 6 65600), die, by decide +kernel⟩

theorem witness_reports_lead_to_decisions_4 : ∃ (port : Nat) (cs : List Change) (me : Epoch) (k : Tick) (v : Vote) (s : State) (u : State), port < 128 ∧ v.body = .member cs
    me k ∧ voteIn s port v = (u, true) ∧ u.dist.b.due = [] :=
  ⟨96, [{ node := dieN, state := 2, cause := 3 }], 6, 65600, voteTo (rootN 0) allRoots (.member [{ node := dieN, state := 2, cause := 3 }] 6 65600), rowLive, votedIn rowLive 96 (voteTo (rootN 0) allRoots (.member [{ node := dieN, state := 2, cause := 3 }] 6 65600)), by decide +kernel⟩

theorem witness_fences_and_standing_follow_their_times_1 : ∃ (port : Nat) (k : Nat) (n : Node) (me : Epoch) (v : Vote) (s : State), port < 2 ∧ v.body = .fenceNotice n me ∧ voteFresh s
    .tsu v = true ∧ planeBit s n = some k :=
  ⟨0, 1, mkNode 1 0 0 0 1 0, 5, voteTo (rootN 0) allRoots (.fenceNotice (mkNode 1 0 0 0 1 0) 5), chained, by decide +kernel⟩

theorem witness_fences_and_standing_follow_their_times_2 : ∃ (node : Node) (pos : Nat) (s : State), belowPos s node = some pos ∧ nodeKind node ≠ 0 :=
  ⟨rackN, 0, { rowOut 0 with dist.b.perf.cycles := 1000000000 }, by decide +kernel⟩

theorem witness_fences_and_standing_follow_their_times_3 : ∃ (node : Node) (s : State), servesRoot s = true ∧ (s.nodeRec node).known = true ∧ (s.nodeRec node).status = 1 :=
  ⟨dieN, roots [(dieN.toNat, { known := true, status := 1, last := 0 })] {}, by decide +kernel⟩

theorem witness_fences_and_standing_follow_their_times_4 : ∃ (node : Node) (x : St) (s : State), (s.nodeRec node).probEnd = some x :=
  ⟨dieN, 0x40000000#64, roots [(dieN.toNat, { known := true, status := 0, probation := true, probEnd := some 0x40000000#64 })] {}, by decide +kernel⟩

theorem witness_elections_restore_a_triad_1 : ∃ (port : Nat) (lost : BitVec 3) (v : Vote) (s : State) (u : State), port < 128 ∧ voteIn s port v = (u, true) ∧ v.body =
    .rootLoss lost ∧ servesRoot u = true ∧ nodeKind v.src = 2 :=
  ⟨0, 2, voteTo row5 allRoots (.rootLoss 2), roots [(row5.toNat, { known := true, status := 0 })] {}, votedIn (roots [(row5.toNat, { known := true, status := 0 })] {}) 0 (voteTo row5 allRoots (.rootLoss 2)), by decide +kernel⟩

theorem witness_elections_restore_a_triad_2 : ∃ (port : Nat) (i : Nat) (snap : Tick) (v : Vote) (s : State) (u : State), port < 128 ∧ voteIn s port v = (u, true) ∧ v.body =
    .electOffer i snap ∧ v.dst = u.node .dist :=
  ⟨96, 1, 65530, voteTo (rootN 0) (mkNode 2 0 0 0 0 0) (.electOffer 1 65530), rowLive, votedIn rowLive 96 (voteTo (rootN 0) (mkNode 2 0 0 0 0 0) (.electOffer 1 65530)), by decide +kernel⟩

theorem witness_elections_restore_a_triad_3 : ∃ (port : Nat) (i : Nat) (k : Tick) (v : Vote) (s : State) (u : State), port < 128 ∧ voteIn s port v = (u, true) ∧ v.body =
    .electAccept i ∧ u.dist.mem.electing = true ∧ (i, v.src, k) ∈ u.dist.mem.offers ∧ ((∀ a ∈ u.dist.mem.accepts, a.1 ≠ i)) :=
  ⟨10, 1, 65530, voteTo row5 (rootN 0) (.electAccept 1), electRoot [], votedIn (electRoot []) 10 (voteTo row5 (rootN 0) (.electAccept 1)), by decide +kernel⟩

theorem witness_elections_restore_a_triad_4 : ∃ (i : Nat) (o : Nat × Node × Tick) (s : State), ((s.dist.mem.offers.find? fun o => o.1 == i) = some o) ∧ s.dist.mem.electing =
    true ∧ ((∀ a ∈ s.dist.mem.accepts, a.1 ≠ i)) :=
  ⟨1, (1, row5, 65530), electRoot [], by decide +kernel⟩

theorem witness_elections_restore_a_triad_5 : ∃ (leader : Nat) (ms : List (Nat × Node)) (k : Tick) (v : Vote), v.body = .triadSet ms leader k :=
  ⟨0, [(0, rootN 0), (1, row5)], 65600, voteTo (rootN 0) allRoots (.triadSet [(0, rootN 0), (1, row5)] 0 65600), by decide +kernel⟩

theorem witness_elections_restore_a_triad_6 : ∃ (p : Part) (d : TriadDue) (s : State), (s.base p).triadDue = some d :=
  ⟨.dist, { members := [(1, mkNode 2 0 0 0 0 0)], leader := 0, tick := 65536 }, { rowLive with dist.b.triadDue := some { members := [(1, mkNode 2 0 0 0 0 0)], leader := 0, tick := 65536 }, dist.b.t.electHold := true }, by decide +kernel⟩

theorem witness_elections_restore_a_triad_7 : ∃ (s : State), elapsed (s.now .dist) s.dist.mem.electAt < electLimit s :=
  ⟨{ root with dist.mem.electAt := 0x3FFFFFFF }, by decide +kernel⟩

theorem witness_elections_restore_a_triad_8 : ∃ (s : State), electLimit s ≤ elapsed (s.now .dist) s.dist.mem.electAt :=
  ⟨electRoot [], by decide +kernel⟩

theorem witness_elections_restore_a_triad_9 : ∃ (port : Nat) (at_ : Nat) (data : List Byte) (v : Vote) (s : State) (u : State), port < 128 ∧ voteIn s port v = (u, true) ∧
    v.body = .copy at_ data ∧ u.dist.mem.copyActive = true ∧ v.dst = u.node .dist :=
  ⟨96, 64, [1, 0, 3], voteTo (rootN 0) (mkNode 2 0 0 0 0 0) (.copy 64 [1, 0, 3]), { rowLive with dist.mem.copyActive := true, dist.mem.copied := [(65, 9)] }, votedIn { rowLive with dist.mem.copyActive := true, dist.mem.copied := [(65, 9)] } 96 (voteTo (rootN 0) (mkNode 2 0 0 0 0 0) (.copy 64 [1, 0, 3])), by decide +kernel⟩

/-! ### Premises of the statements of part 12 -/

/-- A firmware image's header for a part (R380). -/
def fw (target : Nat) : FwHdr := { magic := 0x50564853, target := BitVec.ofNat 8 target, keyIndex := 2, raiseMin := true, secVersion := 3, fwVersion := 0x10203, guards := [0, 0, 0x7FFFFFFFFFFFFFFF, 0xFFFF, 0] }

/-- Its tests, all passed. -/
def passed : FwChecks := { readOk := true, keyHashOk := true, sigOk := true, digestOk := true }

/-- A die in the ROM. -/
def booting : State := { State.reset with tsu.b.hs.boot := 1 }

/-- A distributor in the ROM. -/
def bootingD : State := { State.reset with dist.b.hs.boot := 1 }

/-- A management message under key slot 1. -/
def env (src dst : Node) : MgmtEnv := { src, dst, msgId := 6, key := 1, nonce := 9, tagOk := true }

/-- A distributor with key slot 1 loaded. -/
def keyed (s : State) : State := { s with dist.b.hs.keys := 2 }

/-- Root 0 with its peers in the record and key slot 1. -/
def keyRoot : State := keyed (accusedBy 0)

/-- The state after a message's authentication. -/
def authed (s : State) (port : Option Nat) (e : MgmtEnv) : State := (mgmtIn s .dist port e).1

/-- A die in TRUING that has been LOCKED for 10 s and may join. -/
def joiner : State :=
  { die.modPort .tsu 0 (fun q => { q with link := { q.link with lanes := (List.range 6).map fun k => (k, { calValid := true, nbrValid := true }) } }) with tsu.b.t := { heldAt (2 ^ 40) with locked := true, lockSince := some 0, input := some 0 }, tsu.die.state := .truing, tsu.die.member := false, tsu.mark.crossDone := true }

/-- A JOIN_READY of die 0. -/
def joinOf (n : W32) : JoinReady := { node := dieN, kind := 0, accUnc := 100, bootCount := n, ports := 3, digest := 0 }

/-- A copy with one map, one group and one turning. -/
def copy1 : CopyState := { groups := [(7, { slice := 1, member := false, arrivals := 0, doneCtr := 0x1FFF, top := true, mask := 3 })], maps := [(1, 3)], weights := [], turnings := [(1, 0, 2 ^ 24, 0x3F000000#64, 63)], collectHop := 0x8000 }

/-- Rack distributor B of rack 0, joining, with key slot 1. -/
def joinRack : State := { keyed (distAt .rack 0 (mkNode 1 0 0 0 1 0)) with dist.sv.state := .joining, dist.sv.planeB := true }

/-- The die with a parting due at step 64, in step `n`. -/
def partDie (n : Nat) : State := { plateWith (ent 100 1 0 1 0) with tsu.die.partDue := some 64, tsu.turn.step := BitVec.ofNat 48 n, tsu.turn.start := BitVec.ofNat 64 (n * 2 ^ 24) }

/-- A parting die. -/
def parting : State := { die with tsu.die.state := .parting, tsu.die.partAt := 0x3F000000 }

/-- A draining rack distributor. -/
def drainingRack : State := { rackBars [] with dist.sv.state := .draining, dist.sv.drainAt := some 0x3F000000 }

theorem witness_resets_and_boot_follow_the_rom_5 : ∃ (s : State), (s.dist.sv.strapped = false ∨ s.dist.sv.inReset = true) :=
  ⟨State.reset, by decide +kernel⟩

theorem witness_resets_and_boot_follow_the_rom_6 : ∃ (s : State), s.dist.sv.strapped = true ∧ s.dist.sv.inReset = false :=
  ⟨root, by decide +kernel⟩

theorem witness_resets_and_boot_follow_the_rom_7 : ∃ (i : Instr), (i = .dResetNAssert ∨ i = .powerGoodLoss) :=
  ⟨.dResetNAssert, by decide +kernel⟩

theorem witness_parts_join_when_they_are_ready_1 : ∃ (x : St) (s : State), s.tsu.die.state = .truing ∧ s.tsu.b.t.locked = false ∧ s.tsu.die.truingSlow = false ∧
    s.tsu.b.t.lockLimit = some x :=
  ⟨0, { joiner with tsu.b.t.locked := false, tsu.b.t.lockLimit := some 0 }, by decide +kernel⟩

theorem witness_parts_join_when_they_are_ready_2 : ∃ (i : Instr) (p : Part) (s : State), ((i = .joinSettleExpire p ∧
    (match p with | .tsu => s.tsu.die.joinAt | .dist => s.dist.sv.joinAt) = none ∧ mayJoin s p = true) ∨ (i = .joinReadyRepeat p ∧ ∃
    x, (match p with | .tsu => s.tsu.die.joinAt | .dist => s.dist.sv.joinAt) = some x ∧ 64000000 ≤ elapsed (s.now p) x)) :=
  ⟨.joinSettleExpire .tsu, .tsu, joiner, by exact Or.inl ⟨rfl, rfl, by decide +kernel⟩⟩

theorem witness_parts_join_when_they_are_ready_3 : ∃ (p : Part) (s : State), ((match p with | .tsu => s.tsu.die.joinAt | .dist => s.dist.sv.joinAt) = none) :=
  ⟨.tsu, die, by decide +kernel⟩

theorem witness_parts_join_when_they_are_ready_4 : ∃ (env : MgmtEnv) (j : JoinReady) (s : State) (u : State), mgmtIn s .dist none env = (u, true) ∧ servesRoot u = true ∧ j.node =
    env.src :=
  ⟨env dieN allRoots, joinOf 2, keyRoot, authed keyRoot none (env dieN allRoots), by decide +kernel⟩

theorem witness_parts_join_when_they_are_ready_5 : ∃ (port : Nat) (env : MgmtEnv) (s : State) (u : State), port < 128 ∧ mgmtIn (mgmtRelay s port env .copyReq) .dist (some port)
    env = (u, true) :=
  ⟨98, env (mkNode 1 0 0 0 1 0) rackN, keyed (rackPosts []), authed (keyed (rackPosts [])) (some 98) (env (mkNode 1 0 0 0 1 0) rackN), by decide +kernel⟩

theorem witness_parts_join_when_they_are_ready_6 : ∃ (i : Instr) (env : MgmtEnv) (cs : CopyState) (good : Prop) (s : State) (u : State), mgmtIn s .dist none env = (u, true) ∧ ((∃
    d, i = .copyDataReceive env cs d ∧ (good ↔ copyDigest cs = d)) ∨ (i = .imageReceive env cs ∧ (good ↔ copyDigest cs =
    Config.stateDigest (u.node .dist) u.dist.b.ep.ce))) :=
  ⟨.copyDataReceive (env rackN (mkNode 1 0 0 0 1 0)) copy1 (copyDigest copy1), env rackN (mkNode 1 0 0 0 1 0), copy1, True, joinRack, authed joinRack none (env rackN (mkNode 1 0 0 0 1 0)), by exact ⟨by decide +kernel, Or.inl ⟨_, rfl, ⟨fun _ => rfl, fun _ => trivial⟩⟩⟩⟩

theorem witness_parting_dies_drain_and_leave_1 : ∃ (n : Step) (s : State), s.tsu.die.partDue = some n :=
  ⟨64, partDie 64, by decide +kernel⟩

theorem witness_parting_dies_drain_and_leave_2 : ∃ (s : State), s.tsu.die.state = .parting ∧ s.tsu.die.partDone = false :=
  ⟨parting, by decide +kernel⟩

theorem witness_parting_dies_drain_and_leave_3 : ∃ (s : State), s.tsu.die.state = .parting ∧ s.tsu.die.partDone = false :=
  ⟨parting, by decide +kernel⟩

theorem witness_parting_dies_drain_and_leave_4 : ∃ (env : MgmtEnv) (s : State) (u : State), mgmtIn s .dist none env = (u, true) :=
  ⟨env dieN allRoots, keyRoot, authed keyRoot none (env dieN allRoots), by decide +kernel⟩

theorem witness_drains_and_rejoins_ask_the_roots_1 : ∃ (i : Instr) (c : Cmd) (op : Nat) (ch : Change) (bad : State → Option Status) (s : State), hsReady s c = true ∧ c.mbx = 0 ∧ ((∃
    n, i = .drain c n ∧ op = 0x48 ∧ ch = { node := n, state := 6, cause := 0 } ∧ bad = (drainCheck · n) ∧ nodeKind n ≠ 0 ∧ nodeValid
    n = true ∧ n ≠ s.node .dist) ∨ (∃ n, i = .undrain c n ∧ op = 0x49 ∧ ch = { node := n, state := 5, cause := 0 } ∧ bad =
    (undrainCheck · n) ∧ nodeKind n ≠ 0 ∧ nodeValid n = true ∧ n ≠ s.node .dist) ∨ (∃ k, i = .rejoin c k ∧ op = 0x4A ∧ ch =
    { node := dieNode k, state := 5, cause := 0 } ∧ bad = (rejoinCheck · k) ∧ k < 98304 ∧ dieNode k ≠ s.node .tsu) ∨ (∃ n, i =
    .quarantineClear c n ∧ op = 0x4B ∧ ch = { node := n, state := 5, cause := 0 } ∧ bad = (clearCheck · n) ∧ nodeValid n = true ∧ n
    ≠ s.node .tsu)) :=
  ⟨.drain (mb 0) rackN, mb 0, 0x48, { node := rackN, state := 6, cause := 0 }, (drainCheck · rackN), die, by refine ⟨by decide +kernel, by decide, Or.inl ⟨rackN, rfl, rfl, rfl, rfl, by decide, by decide, by decide⟩⟩⟩

theorem witness_drains_and_rejoins_ask_the_roots_2 : ∃ (i : Instr) (c : Cmd) (op : Nat) (s : State), hsReady s c = true ∧ c.part = .tsu ∧ c.mbx ≠ 0 ∧ c.mbx ≤ 3 ∧ ((∃ n, (i = .drain
    c n ∧ op = 0x48) ∨ (i = .undrain c n ∧ op = 0x49) ∨ (i = .quarantineClear c n ∧ op = 0x4B)) ∨ (∃ k, i = .rejoin c k ∧ op =
    0x4A)) :=
  ⟨.drain (mb 2) rackN, mb 2, 0x48, die, by refine ⟨by decide +kernel, rfl, by decide, by decide, Or.inl ⟨rackN, Or.inl ⟨rfl, rfl⟩⟩⟩⟩

theorem witness_drains_and_rejoins_ask_the_roots_3 : ∃ (x : St) (s : State), s.dist.sv.state = .draining ∧ s.dist.sv.drainAt = some x :=
  ⟨0x3F000000, drainingRack, by decide +kernel⟩

/-! ### Premises of the statements of part 13 -/

/-- Transaction 5 of mailbox 0. -/
def txn5 (ph : TxnPhase) (l : List Staged) : Txn := { id := 5, phase := ph, staged := l }

/-- The die with transaction 5. -/
def txnDie (ph : TxnPhase) (l : List Staged) : State := { die with tsu.b.txns := [txn5 ph l] }

/-- A command on it. -/
def mbt (m : Nat) : Cmd := { mb m with txn := 5 }

/-- A hall transaction's command at a distributor. -/
def dct : Cmd := { dcmd with txn := 0x80000005 }

/-- Root 0, leading, with hall transaction 0x80000005 open. -/
def txnRoot : State := { accusedBy 0 with dist.b.txns := [{ txn5 .open_ [] with id := 0x80000005 }], dist.b.ep.leader := 0, dist.b.hs.keys := 2, dist.fab.turnings := [(1, die.tsu.turn)] }

/-- A rack distributor with it. -/
def txnRack (ph : TxnPhase) (l : List Staged) : State := { keyed (rackBars []) with dist.b.txns := [{ txn5 ph l with id := 0x80000005 }] }

/-- A die with key slot 1 loaded. -/
def keyDie (s : State) : State := { s with tsu.b.hs.keys := 2 }

/-- The state of a die after a message's authentication. -/
def authDie (s : State) (e : MgmtEnv) : State := (mgmtIn s .tsu none e).1

/-- A descriptor of one XOR word. -/
def descX : Desc := { desc7 with deadlineOfs := 100, releaseOfs := 0 }

/-- A commit decided. -/
def decision (c : Bool) (e : Nat) : Decision := { commit := c, effect := BitVec.ofNat 64 e, ce := 4, step := 66, reason := if c then .ok else .late, node := dieN, detail := 1 }

/-- Transaction 5 decided for an effect that has come. -/
def decided5 (l : List Staged) : Txn := { txn5 .decided l with effect := 0x40000000#64, newCe := 4, step := 66, cmd := some (mb 0) }

/-- The die with it. -/
def decidedDie (l : List Staged) : State := { die with tsu.b.txns := [decided5 l] }

/-- A rack distributor with it. -/
def decidedRack (l : List Staged) : State := { rackBars [] with dist.b.txns := [{ decided5 l with id := 0x80000005, cmd := some dcmd }] }

/-- The record of die 0's transaction 5 at a root. -/
def rtxn5 (pr : List Node) (req : Bool) : RootTxn := { id := 5, src := dieN, n := 1, joined := [dieN], prepared := pr, requested := req, slice := 1, step := 66, deadline := 0x40000000#64 }

/-- Root 0, leading, with records. -/
def rtxnRoot (l : List RootTxn) : State := { keyRoot with dist.sv.rtxns := l, dist.b.ep.leader := 0, dist.fab.turnings := [(1, die.tsu.turn)] }

/-- A message of die 0 to the roots, taken. -/
def dieTold (s : State) : State := authed s none (env dieN allRoots)
/-- The die with these entries of its staged bank valid. -/
def bankOf (l : List Nat) : State := { txnDie .open_ [] with tsu.plate.bankB := l.map fun k => (k, ent 5 1 0 2 7) }

theorem bankOf_other (l : List Nat) : (bankOf l).tsu.plate.other = l.map fun k => (k, ent 5 1 0 2 7) := rfl

theorem tget_mem {α : Type} (d e : α) (k : Nat) : ∀ l : List Nat, k ∈ l → tget d (l.map fun k => (k, e)) k = e
  | [], h => by cases h
  | j :: l, h => by
    simp only [List.map_cons, tget]
    split
    · rfl
    · exact tget_mem d e k l ((List.mem_cons.mp h).resolve_left (by assumption))

theorem full_bank : freeEntry (bankOf (List.range 8192)) = none := by
  unfold freeEntry lowestFree
  rw [List.find?_eq_none, bankOf_other]
  intro k hk
  rw [tget_mem zeroPlateEntry _ k _ hk]
  decide +kernel

theorem witness_staged_commands_join_their_transaction_1 : ∃ (i : Instr) (c : Cmd) (op : Nat) (x : Staged) (s : State), hsReady s c = true ∧ c.mbx ≤ 3 ∧ ((((isM0 c = true ∨
    s.tsu.die.sliceValid = true) ∧ c.part = .tsu ∧ ((∃ n e y k, i = .plateWrite c n e ∧ op = 0x10 ∧ n < 8192 ∧ entryTake e = some
    (y, k) ∧ x = .plate n y) ∨ (∃ n e y k, i = .plateAppend c e ∧ op = 0x11 ∧ freeEntry s = some n ∧ entryTake e = some (y, k) ∧ x =
    .plate n y) ∨ (i = .plateClear c ∧ op = 0x13 ∧ x = .plateClear) ∨ (∃ g m, i = .rgroupWrite c g m ∧ op = 0x14 ∧ 0 < g ∧ g < 256 ∧
    x = .rgroup g m) ∨ (∃ k d, i = .descWrite c k d ∧ op = 0x15 ∧ k < 1024 ∧ opReserved d.op = false ∧ descNames d = true ∧
    descBufsOk s c k (descClamp d).1 = true ∧ x = .desc k (descClamp d).1))) ∨ (isM0 c = true ∧ ((∃ l z n b, i = .turningSet c l z n
    b ∧ op = 0x16 ∧ l < 64 ∧ x = .turning l ((z.map (originClamp (s.now c.part))).map Prod.fst) ((n.map lenClamp).map Prod.fst) b) ∨
    (∃ l v, i = .sliceAssign c l v ∧ op = 0x17 ∧ c.part = .tsu ∧ l < 64 ∧ x = .assign l v) ∨ (∃ l m, i = .sliceMapWrite c l m ∧ op =
    0x18 ∧ c.part = .dist ∧ l < 64 ∧ x = .sliceMap l (m &&& roleMask s.role)) ∨ (∃ k l w, i = .sliceWeight c k l w ∧ op = 0x19 ∧
    c.part = .dist ∧ k < 128 ∧ l < 64 ∧ x = .weight k l (clampN 1 255 w)) ∨ (∃ g q, i = .hgroupWrite c g q ∧ op = 0x1A ∧ g < 4096 ∧
    q.slice < 64 ∧ groupsUsed s c.part < 4096 ∧ (c.part = .tsu → (q.doneCtr < 4096 ∨ q.doneCtr = 0x1FFF) ∧ x = .hgroup g
    { q with arrivals := clampN 1 576 q.arrivals, top := false, mask := 0 }) ∧ (c.part = .dist → x = .hgroup g
    { q with member := false, arrivals := 0, doneCtr := 0x1FFF, mask := q.mask &&& roleMask s.role })) ∨ (∃ g, i = .hgroupFree c g ∧
    op = 0x1B ∧ g < 4096 ∧ groupExists s c g = true ∧ x = .hfree g) ∨ (∃ g f q, i = .sgWrite c g f ∧ op = 0x1C ∧ c.part = .dist ∧
    servesRoot s = true ∧ g < 256 ∧ f.slice < 64 ∧ f.group < 4096 ∧ s.txn .dist c.txn = some q ∧ x = .sg g (sgClamp (hopTu s)
    (lenAfter s .dist q f.slice) f).1) ∨ (∃ qs, i = .ledgerPart c qs ∧ op = 0x1D ∧ c.part = .dist ∧ servesRoot s = true ∧ x =
    .ledgerPart ((List.range 64).map fun k => (qs[k]?).getD 0)) ∨ (∃ a n, i = .ctxSave c a n ∧ op = 0x1E ∧ c.part = .tsu ∧ x =
    .ctxSave a n) ∨ (∃ m n, i = .ctxRestore c m true n ∧ op = 0x1F ∧ c.part = .tsu ∧ x = .ctxRestore m n) ∨ (∃ n, i = .part c n ∧ op
    = 0x20 ∧ c.part = .tsu ∧ x = .part n))) ∨ ((isM0 c = true ∨ (∃ k v, i = .configWrite c k v ∧ 0x6000 ≤ 8 * k ∧ 8 * k < 0x7000 ∧
    s.tsu.die.sliceValid = true)) ∧ ∃ k v r, i = .configWrite c k v ∧ op = 0x21 ∧ cfgReg c.part (8 * k) = some r ∧ x = .config k
    (BitVec.ofNat 64 (cfgClamp r v.toNat).1)))) :=
  ⟨.part (mbt 0) 70, mbt 0, 0x20, .part 70, txnDie .open_ [], by exact ⟨by decide +kernel, by decide, Or.inr (Or.inl ⟨by decide, Or.inr (Or.inr (Or.inr (Or.inr (Or.inr (Or.inr (Or.inr (Or.inr (Or.inr (Or.inr ⟨70, rfl, rfl, rfl, rfl⟩)))))))))⟩)⟩⟩

theorem witness_staged_commands_join_their_transaction_2 : ∃ (c : Cmd) (e : Entry) (y : Entry) (k : Nat) (s : State), hsReady s c = true ∧ c.mbx ≤ 3 ∧ c.part = .tsu ∧ ((isM0 c = true ∨
    s.tsu.die.sliceValid = true)) ∧ entryTake e = some (y, k) ∧ freeEntry s = none ∧ stageBar s c (.plateAppend y) = none :=
  ⟨mbt 0, ent 5 1 0 2 7, ent 5 1 0 2 7, 0, bankOf (List.range 8192), by exact ⟨by decide +kernel, by decide, rfl, by decide +kernel, by decide +kernel, full_bank, by decide +kernel⟩⟩

theorem witness_staged_commands_join_their_transaction_3 : ∃ (c : Cmd) (es : List Entry) (ys : List (Entry × Nat)) (s : State), hsReady s c = true ∧ c.mbx ≤ 3 ∧ c.part = .tsu ∧ ((isM0 c =
    true ∨ s.tsu.die.sliceValid = true)) ∧ es.filterMap entryTake = ys :=
  ⟨mbt 0, [ent 5 1 0 2 7, ent 6 1 0 2 7], [(ent 5 1 0 2 7, 0), (ent 6 1 0 2 7, 0)], txnDie .open_ [], by decide +kernel⟩

theorem witness_staged_commands_join_their_transaction_4 : ∃ (i : Instr) (c : Cmd) (op : Nat) (s : State), hsReady s c = true ∧ c.part = .tsu ∧ c.mbx ≠ 0 ∧ c.mbx ≤ 3 ∧ ((∃ l z n b, i =
    .turningSet c l z n b ∧ op = 0x16) ∨ (∃ l v, i = .sliceAssign c l v ∧ op = 0x17) ∨ (∃ g q, i = .hgroupWrite c g q ∧ op = 0x1A) ∨
    (∃ g, i = .hgroupFree c g ∧ op = 0x1B) ∨ (∃ a n, i = .ctxSave c a n ∧ op = 0x1E) ∨ (∃ m k n, i = .ctxRestore c m k n ∧ op =
    0x1F) ∨ (∃ n, i = .part c n ∧ op = 0x20) ∨ (∃ n e, i = .plateWrite c n e ∧ op = 0x10 ∧ s.tsu.die.sliceValid = false) ∨ (∃ k v, i
    = .configWrite c k v ∧ op = 0x21 ∧ 8 * k < 0x6000)) :=
  ⟨.part (mbt 1) 70, mbt 1, 0x20, txnDie .open_ [], by exact ⟨by decide +kernel, rfl, by decide, by decide, Or.inr (Or.inr (Or.inr (Or.inr (Or.inr (Or.inr (Or.inl ⟨70, rfl, rfl⟩))))))⟩⟩

theorem witness_transactions_begin_commit_and_roll_back_1 : ∃ (c : Cmd) (s : State), hsReady s c = true ∧ c.mbx ≤ 3 :=
  ⟨mbt 1, die, by decide +kernel⟩

theorem witness_transactions_begin_commit_and_roll_back_2 : ∃ (c : Cmd) (s : State), hsReady s c = true ∧ c.mbx ≤ 3 :=
  ⟨mbt 0, txnDie .open_ [], by decide +kernel⟩

theorem witness_transactions_begin_commit_and_roll_back_3 : ∃ (c : Cmd) (s : State), hsReady s c = true ∧ c.mbx ≤ 3 :=
  ⟨mbt 0, txnDie .open_ [], by decide +kernel⟩

theorem witness_transactions_begin_commit_and_roll_back_4 : ∃ (c : Cmd) (s : State), hsReady s c = true ∧ c.mbx ≤ 3 :=
  ⟨mb 3, { die with tsu.b.txns := [{ txn5 .rolledBack [] with reason := .late, node := dieN, detail := 2, at_ := 77 }] }, by decide +kernel⟩

theorem witness_participants_prepare_and_decide_1 : ∃ (p : Part) (env : MgmtEnv) (s : State) (u : State), mgmtIn s p none env = (u, true) :=
  ⟨.tsu, env (rootN 0) dieN, keyDie (txnDie .committing [.plate 3 (ent (2 ^ 25) 1 0 2 7)]), authDie (keyDie (txnDie .committing [.plate 3 (ent (2 ^ 25) 1 0 2 7)])) (env (rootN 0) dieN), by decide +kernel⟩

theorem witness_participants_prepare_and_decide_2 : ∃ (p : Part) (env : MgmtEnv) (s : State) (u : State), mgmtIn s p none env = (u, true) :=
  ⟨.tsu, env (rootN 0) dieN, keyDie { die with tsu.b.txns := [{ txn5 .prepared [.plate 3 (ent 5 1 0 2 7)] with cmd := some (mb 0) }] }, authDie (keyDie { die with tsu.b.txns := [{ txn5 .prepared [.plate 3 (ent 5 1 0 2 7)] with cmd := some (mb 0) }] }) (env (rootN 0) dieN), by decide +kernel⟩

theorem witness_participants_prepare_and_decide_3 : ∃ (p : Part) (txn : W32) (q : Txn) (s : State), s.txn p txn = some q :=
  ⟨.tsu, 5, txn5 .prepared [], txnDie .prepared [], by decide +kernel⟩

theorem witness_participants_prepare_and_decide_4 : ∃ (p : Part) (txn : W32) (q : Txn) (s : State), s.txn p txn = some q :=
  ⟨.tsu, 5, decided5 [.part 70], decidedDie [.part 70], by decide +kernel⟩

theorem witness_participants_prepare_and_decide_5 : ∃ (l : Nat) (v : Bool) (n : Step) (s : State), s.tsu.die.moveDue = some (l, v, n) :=
  ⟨3, true, 64, { partDie 64 with tsu.die.moveDue := some (3, true, 64), tsu.die.moveStaged := [.plate 9 (ent 5 1 0 2 7)], tsu.sync.ctrs := [(9, { alloc := true, value := 4, limit := 10 })] }, by decide +kernel⟩

theorem witness_roots_run_the_two_phases_1 : ∃ (env : MgmtEnv) (s : State) (u : State), mgmtIn s .dist none env = (u, true) :=
  ⟨env dieN allRoots, rtxnRoot [], dieTold (rtxnRoot []), by decide +kernel⟩

theorem witness_roots_run_the_two_phases_2 : ∃ (env : MgmtEnv) (s : State) (u : State), mgmtIn s .dist none env = (u, true) :=
  ⟨env dieN allRoots, rtxnRoot [rtxn5 [] false], dieTold (rtxnRoot [rtxn5 [] false]), by decide +kernel⟩

theorem witness_roots_run_the_two_phases_3 : ∃ (env : MgmtEnv) (txn : W32) (r : RootTxn) (s : State) (u : State), mgmtIn s .dist none env = (u, true) ∧ servesRoot u = true ∧
    u.rtxn txn env.src = some r :=
  ⟨env dieN allRoots, 5, rtxn5 [] true, rtxnRoot [rtxn5 [] true], dieTold (rtxnRoot [rtxn5 [] true]), by decide +kernel⟩

theorem witness_roots_run_the_two_phases_4 : ∃ (env : MgmtEnv) (txn : W32) (r : RootTxn) (s : State) (u : State), mgmtIn s .dist none env = (u, true) ∧ servesRoot u = true ∧
    u.rtxn txn env.src = some r :=
  ⟨env dieN allRoots, 5, rtxn5 [] true, rtxnRoot [rtxn5 [] true], dieTold (rtxnRoot [rtxn5 [] true]), by decide +kernel⟩

theorem witness_roots_run_the_two_phases_5 : ∃ (r : RootTxn) (s : State), servesRoot s = true ∧ s.dist.sv.rtxns = [r] ∧ r.src = txnSrc r.id r.src ∧ r.requested = true ∧
    r.decision = none :=
  ⟨rtxn5 [] true, rtxnRoot [rtxn5 [] true], by decide +kernel⟩

theorem witness_roots_run_the_two_phases_6 : ∃ (env : MgmtEnv) (s : State) (u : State), mgmtIn s .dist none env = (u, true) :=
  ⟨env dieN allRoots, rtxnRoot [{ rtxn5 [] true with decision := some (decision true 7) }], dieTold (rtxnRoot [{ rtxn5 [] true with decision := some (decision true 7) }]), by decide +kernel⟩

/-! ### Premises of the statements of part 14 -/

/-- The die with mailbox 1 as given. -/
def mbDie (b : Mailbox) : State := { die with tsu.mbs := [(1, b)] }

/-- A completion of TAG `n`. -/
def cplN (n : Nat) : Completion := { tag := BitVec.ofNat 16 n, opcode := 0xFF, status := .ok }

/-- A mailbox whose completion ring is full, with these completions held. -/
def fullRing (l : List Completion) : Mailbox := { cplProd := 66, cplCons := 2, held := l, ring := [(2, some (cplN 9))] }

/-- The die with counters. -/
def ctrsDie (l : Tab SyncCtr) : State := { die with tsu.sync.ctrs := l }

/-- The rack distributor's image slots. -/
def slotRack (l : Tab (List Byte)) : State := { rack with dist.b.hs.slots := l, dist.b.hs.bootSlot := 1 }

/-- A distributor whose image was refused. -/
def refusedRack : State := { rack with dist.b.hs.running := false, dist.b.hs.boot := 3 }

/-- A REMOTE_CMD of the die that waits. -/
def remoteDie : State := { keyDie (mbDie { open_ := [(7, 0x68, 5)] }) with tsu.remotes := [{ c := mb 1, dst := rackN, tag := 7 }] }

/-- The state in which a distributor executes a message's command. -/
def cmdIn (s : State) (port : Nat) (e : MgmtEnv) (rc : RemoteCmd) : State := authed (mgmtRelay s port e (.command 7 5 rc)) (some port) e

/-- Its result as the message's authentication answers it. -/
theorem mgmtIn_authed (s : State) (port : Option Nat) (e : MgmtEnv) (h : (mgmtIn s .dist port e).2 = true) :
    mgmtIn s .dist port e = (authed s port e, true) := Prod.ext rfl h

theorem witness_mailbox_rings_take_their_indices_1 : ∃ (m : Nat), m < 4 :=
  ⟨3, by decide +kernel⟩

theorem witness_mailbox_rings_take_their_indices_2 : ∃ (m : Nat), m < 4 :=
  ⟨1, by decide +kernel⟩

theorem witness_mailbox_rings_take_their_indices_3 : ∃ (m : Nat), 4 ≤ m :=
  ⟨4, by decide +kernel⟩

theorem witness_mailbox_rings_take_their_indices_4 : ∃ (c : Cmd) (s : State), hsReady s c = true ∧ c.mbx ≤ 3 :=
  ⟨mb 3, die, by decide +kernel⟩

theorem witness_mailbox_rings_take_their_indices_5 : ∃ (c : Cmd) (s : State), hsReady s c = true ∧ c.mbx ≤ 3 :=
  ⟨mb 3, die, by decide +kernel⟩

theorem witness_counter_commands_manage_the_table_1 : ∃ (i : Instr) (c : Cmd) (op : Nat) (st : Status) (s : State), hsReady s c = true ∧ c.mbx ≤ 3 ∧ c.part = .tsu ∧ dieRefuses s =
    some st ∧ ((i = .ctrAlloc c ∧ op = 0x30) ∨ (∃ k, (i = .ctrAllocAt c k ∧ op = 0x31) ∨ (i = .ctrFree c k ∧ op = 0x32) ∨ (∃ v l, i
    = .ctrSet c k v l ∧ op = 0x33 ∧ isM0 c = true) ∨ (i = .ctrRead c k ∧ op = 0x34))) :=
  ⟨.ctrRead (mb 3) 4095, mb 3, 0x34, .notMember, { die with tsu.die.sliceValid := false }, by exact ⟨by decide +kernel, by decide, rfl, by decide +kernel, Or.inr ⟨4095, Or.inr (Or.inr (Or.inr ⟨rfl, rfl⟩))⟩⟩⟩

theorem witness_counter_commands_manage_the_table_2 : ∃ (c : Cmd) (s : State), hsReady s c = true ∧ c.mbx ≤ 3 ∧ c.part = .tsu ∧ dieRefuses s = none :=
  ⟨mb 3, ctrsDie [(0, { alloc := true }), (1, { alloc := true, value := 3 })], by decide +kernel⟩

theorem witness_counter_commands_manage_the_table_3 : ∃ (c : Cmd) (s : State), hsReady s c = true ∧ c.mbx ≤ 3 ∧ c.part = .tsu ∧ dieRefuses s = none :=
  ⟨mb 3, ctrsDie [(0, { alloc := true })], by decide +kernel⟩

theorem witness_counter_commands_manage_the_table_4 : ∃ (c : Cmd) (k : Nat) (s : State), hsReady s c = true ∧ c.mbx ≤ 3 ∧ c.part = .tsu ∧ dieRefuses s = none ∧ k < 4096 :=
  ⟨mb 3, 4095, { ctrsDie [(4095, { alloc := true })] with tsu.sync.watches := [(3, some { counter := 4095, threshold := 3, eq := false, target := 4, rearm := true, tag := 9, held := false })] }, by decide +kernel⟩

theorem witness_counter_commands_manage_the_table_5 : ∃ (c : Cmd) (s : State), hsReady s c = true ∧ c.mbx ≤ 3 ∧ c.part = .tsu ∧ dieRefuses s = none :=
  ⟨mb 0, ctrsDie [(4095, { alloc := true })], by decide +kernel⟩

theorem witness_counter_commands_manage_the_table_6 : ∃ (c : Cmd) (s : State), hsReady s c = true ∧ c.mbx ≤ 3 ∧ c.part = .tsu ∧ dieRefuses s = none :=
  ⟨mb 2, ctrsDie [(4095, { alloc := true, value := 5, limit := 9 })], by decide +kernel⟩

theorem witness_keys_and_firmware_are_loaded_1 : ∃ (c : Cmd) (s : State), hsReady s c = true ∧ c.mbx ≤ 3 :=
  ⟨mb 0, die, by decide +kernel⟩

theorem witness_keys_and_firmware_are_loaded_2 : ∃ (c : Cmd) (s : State), hsReady s c = true ∧ c.mbx ≤ 3 :=
  ⟨mb 0, keyDie die, by decide +kernel⟩

theorem witness_keys_and_firmware_are_loaded_3 : ∃ (p : Part) (k : Nat) (n : Tick) (s : State), (s.base p).hs.pendKey = some (k, n) :=
  ⟨.tsu, 1, tickOf (2 ^ 30), { die with tsu.b.hs.pendKey := some (1, tickOf (2 ^ 30)) }, by decide +kernel⟩

theorem witness_keys_and_firmware_are_loaded_4 : ∃ (i : Instr) (c : Cmd) (op : Nat) (data : List Byte) (ok : Bool) (s : State), c.mbx = 0 ∧ ((i = .fwStage c data ok ∧ op = 0x69
    ∧ hsReady s c = true) ∨ (i = .fwRecover c data ok ∧ op = 0x72 ∧ (hsReady s c = true ∨ (c.part = .dist ∧ 3 ≤ s.dist.b.hs.boot)))) :=
  ⟨.fwStage dcmd [1, 2] true, dcmd, 0x69, [1, 2], true, rack, by exact ⟨rfl, Or.inl ⟨rfl, rfl, by decide +kernel⟩⟩⟩

theorem witness_keys_and_firmware_are_loaded_4b : ∃ (i : Instr) (c : Cmd) (op : Nat) (data : List Byte) (ok : Bool) (s : State), c.mbx = 0 ∧ ((i = .fwStage c data ok ∧ op = 0x69
    ∧ hsReady s c = true) ∨ (i = .fwRecover c data ok ∧ op = 0x72 ∧ (hsReady s c = true ∨ (c.part = .dist ∧ 3 ≤ s.dist.b.hs.boot)))) :=
  ⟨.fwRecover dcmd [1, 2] true, dcmd, 0x72, [1, 2], true, refusedRack, by exact ⟨rfl, Or.inr ⟨rfl, rfl, by decide +kernel⟩⟩⟩

theorem witness_keys_and_firmware_are_loaded_5 : ∃ (c : Cmd) (s : State), hsReady s c = true ∧ c.mbx = 0 :=
  ⟨dcmd, rack, by decide +kernel⟩

theorem witness_keys_and_firmware_are_loaded_6 : ∃ (i : Instr) (c : Cmd) (op : Nat) (s : State), hsReady s c = true ∧ c.part = .tsu ∧ c.mbx ≠ 0 ∧ c.mbx ≤ 3 ∧ ((∃ d k, (i =
    .fwStage c d k ∧ op = 0x69) ∨ (i = .fwRecover c d k ∧ op = 0x72)) ∨ (∃ k, i = .fwActivate c k ∧ op = 0x6A) ∨ (i = .ident c ∧ op
    = 0x70) ∨ (∃ o n w a v m b, i = .status c o n w a v m b ∧ op = 0x71)) :=
  ⟨.ident (mb 1), mb 1, 0x70, die, by exact ⟨by decide +kernel, rfl, by decide, by decide, Or.inr (Or.inr (Or.inl ⟨rfl, rfl⟩))⟩⟩

theorem witness_keys_and_firmware_are_loaded_7 : ∃ (env : MgmtEnv) (s : State) (u : State), mgmtIn s .dist none env = (u, true) :=
  ⟨env (rootN 0) rackN, keyed (slotRack [(0, [1, 2, 3])]), authed (keyed (slotRack [(0, [1, 2, 3])])) none (env (rootN 0) rackN), by decide +kernel⟩

theorem witness_ident_and_status_read_the_distributor_1 : ∃ (c : Cmd) (s : State), c.mbx = 0 ∧ (hsReady s c = true ∨ (c.part = .dist ∧ 3 ≤ s.dist.b.hs.boot)) :=
  ⟨dcmd, refusedRack, by decide +kernel⟩

theorem witness_ident_and_status_read_the_distributor_2 : ∃ (c : Cmd) (s : State), c.mbx = 0 ∧ (hsReady s c = true ∨ (c.part = .dist ∧ 3 ≤ s.dist.b.hs.boot)) :=
  ⟨dcmd, rack, by decide +kernel⟩

theorem witness_remote_commands_run_as_local_ones_1 : ∃ (c : Cmd) (s : State), hsReady s c = true ∧ c.mbx ≤ 3 :=
  ⟨mb 0, die, by decide +kernel⟩

theorem witness_remote_commands_run_as_local_ones_2 : ∃ (port : Nat) (env : MgmtEnv) (tag : BitVec 16) (txn : W32) (rc : RemoteCmd) (s : State) (u : State), port < 128 ∧ mgmtIn
    (mgmtRelay s port env (.command tag txn rc)) .dist (some port) env = (u, false) :=
  ⟨0, env dieN (rootN 0), 7, 5, .nop, keyed rack, mgmtRelay (keyed rack) 0 (env dieN (rootN 0)) (.command 7 5 .nop), by decide +kernel⟩

theorem witness_remote_commands_run_as_local_ones_3 : ∃ (port : Nat) (env : MgmtEnv) (tag : BitVec 16) (txn : W32) (rc : RemoteCmd) (i : Instr) (s : State) (u : State), port < 128 ∧
    mgmtIn (mgmtRelay s port env (.command tag txn rc)) .dist (some port) env = (u, true) ∧ ((env.dst = allRoots → decides u = true
    ∧ rc ≠ .rollback)) ∧ ((let c : Cmd := { part := .dist, mbx := 0, tag, txn }; (∃ n, rc = .txnBegin n ∧ i = .txnBegin c n) ∨ (∃ w
    l n, rc = .commit w l n ∧ i = .commit c w l n) ∨ (rc = .rollback ∧ i = .rollback c) ∨ (∃ k, rc = .txnStatus k ∧ i = .txnStatus c
    k) ∨ (∃ l z n b, rc = .turningSet l z n b ∧ i = .turningSet c l z n b) ∨ (∃ l m, rc = .sliceMapWrite l m ∧ i = .sliceMapWrite c
    l m) ∨ (∃ k l w, rc = .sliceWeight k l w ∧ i = .sliceWeight c k l w) ∨ (∃ g q, rc = .hgroupWrite g q ∧ i = .hgroupWrite c g q) ∨
    (∃ g, rc = .hgroupFree g ∧ i = .hgroupFree c g) ∨ (∃ g f, rc = .sgWrite g f ∧ i = .sgWrite c g f) ∨ (∃ q, rc = .ledgerPart q ∧ i
    = .ledgerPart c q) ∨ (∃ k v, rc = .configWrite k v ∧ i = .configWrite c k v) ∨ (∃ l, rc = .sliceReset l ∧ i = .sliceReset c l) ∨
    (∃ a b k, rc = .timeMap a b k ∧ i = .timeMap c a b k) ∨ (∃ a l n, rc = .align a l n ∧ i = .align c a l n) ∨ (∃ n, rc = .drain n
    ∧ i = .drain c n) ∨ (∃ n, rc = .undrain n ∧ i = .undrain c n) ∨ (∃ k, rc = .rejoin k ∧ i = .rejoin c k) ∨ (∃ n, rc =
    .quarantineClear n ∧ i = .quarantineClear c n) ∨ (∃ k b, rc = .keyLoad k b ∧ i = .keyLoad c k b) ∨ (∃ k n, rc = .keySelect k n ∧
    i = .keySelect c k n) ∨ (∃ d b, rc = .fwStage d b ∧ i = .fwStage c d b) ∨ (∃ k, rc = .fwActivate k ∧ i = .fwActivate c k) ∨ (rc
    = .nop ∧ i = .nop c) ∨ (rc = .ident ∧ i = .ident c) ∨ (∃ o n w a v m, rc = .status o n w a v m ∧ i = .status c o n w a v m
    false) ∨ (∃ d b, rc = .fwRecover d b ∧ i = .fwRecover c d b) ∨ (∃ op, rc = .other op ∧ i = .mailboxUnknownOpcode c op))) :=
  ⟨127, env dieN rackN, 7, 5, .nop, .nop { part := .dist, mbx := 0, tag := 7, txn := 5 }, keyed rack, cmdIn (keyed rack) 127 (env dieN rackN) .nop, by exact ⟨by decide, mgmtIn_authed _ _ _ (by decide +kernel), fun h => by revert h; decide, by simp⟩⟩

theorem witness_remote_commands_run_as_local_ones_3b : ∃ (port : Nat) (env : MgmtEnv) (tag : BitVec 16) (txn : W32) (rc : RemoteCmd) (i : Instr) (s : State) (u : State), port < 128 ∧
    mgmtIn (mgmtRelay s port env (.command tag txn rc)) .dist (some port) env = (u, true) ∧ ((env.dst = allRoots → decides u = true
    ∧ rc ≠ .rollback)) ∧ ((let c : Cmd := { part := .dist, mbx := 0, tag, txn }; (∃ n, rc = .txnBegin n ∧ i = .txnBegin c n) ∨ (∃ w
    l n, rc = .commit w l n ∧ i = .commit c w l n) ∨ (rc = .rollback ∧ i = .rollback c) ∨ (∃ k, rc = .txnStatus k ∧ i = .txnStatus c
    k) ∨ (∃ l z n b, rc = .turningSet l z n b ∧ i = .turningSet c l z n b) ∨ (∃ l m, rc = .sliceMapWrite l m ∧ i = .sliceMapWrite c
    l m) ∨ (∃ k l w, rc = .sliceWeight k l w ∧ i = .sliceWeight c k l w) ∨ (∃ g q, rc = .hgroupWrite g q ∧ i = .hgroupWrite c g q) ∨
    (∃ g, rc = .hgroupFree g ∧ i = .hgroupFree c g) ∨ (∃ g f, rc = .sgWrite g f ∧ i = .sgWrite c g f) ∨ (∃ q, rc = .ledgerPart q ∧ i
    = .ledgerPart c q) ∨ (∃ k v, rc = .configWrite k v ∧ i = .configWrite c k v) ∨ (∃ l, rc = .sliceReset l ∧ i = .sliceReset c l) ∨
    (∃ a b k, rc = .timeMap a b k ∧ i = .timeMap c a b k) ∨ (∃ a l n, rc = .align a l n ∧ i = .align c a l n) ∨ (∃ n, rc = .drain n
    ∧ i = .drain c n) ∨ (∃ n, rc = .undrain n ∧ i = .undrain c n) ∨ (∃ k, rc = .rejoin k ∧ i = .rejoin c k) ∨ (∃ n, rc =
    .quarantineClear n ∧ i = .quarantineClear c n) ∨ (∃ k b, rc = .keyLoad k b ∧ i = .keyLoad c k b) ∨ (∃ k n, rc = .keySelect k n ∧
    i = .keySelect c k n) ∨ (∃ d b, rc = .fwStage d b ∧ i = .fwStage c d b) ∨ (∃ k, rc = .fwActivate k ∧ i = .fwActivate c k) ∨ (rc
    = .nop ∧ i = .nop c) ∨ (rc = .ident ∧ i = .ident c) ∨ (∃ o n w a v m, rc = .status o n w a v m ∧ i = .status c o n w a v m
    false) ∨ (∃ d b, rc = .fwRecover d b ∧ i = .fwRecover c d b) ∨ (∃ op, rc = .other op ∧ i = .mailboxUnknownOpcode c op))) :=
  ⟨0, env dieN allRoots, 7, 5, .drain dieN, .drain { part := .dist, mbx := 0, tag := 7, txn := 5 } dieN, keyRoot, cmdIn keyRoot 0 (env dieN allRoots) (.drain dieN), by exact ⟨by decide, mgmtIn_authed _ _ _ (by decide +kernel), fun _ => ⟨by decide +kernel, by decide⟩, by simp⟩⟩

theorem witness_remote_commands_run_as_local_ones_4 : ∃ (port : Nat) (env : MgmtEnv) (tag : BitVec 16) (txn : W32) (g : Nat) (x : SGroup) (s : State) (u : State), port < 128 ∧ mgmtIn
    (mgmtRelay s port env (.command tag txn (.resync g))) .dist (some port) env = (u, true) ∧ u.sgroup g = some x :=
  ⟨0, env dieN allRoots, 7, 5, 5, sg5, keyed (sgRoot sg5), cmdIn (keyed (sgRoot sg5)) 0 (env dieN allRoots) (.resync 5), by exact ⟨by decide, mgmtIn_authed _ _ _ (by decide +kernel), by decide +kernel⟩⟩

theorem witness_remote_commands_run_as_local_ones_5 : ∃ (env : MgmtEnv) (s : State) (u : State), s.tsu.b.node = some env.dst ∧ mgmtIn s .tsu none env = (u, true) :=
  ⟨env rackN dieN, remoteDie, authDie remoteDie (env rackN dieN), by decide +kernel⟩

theorem witness_remote_commands_run_as_local_ones_6 : ∃ (env : MgmtEnv) (s : State) (u : State), s.tsu.b.node ≠ some env.dst ∧ mgmtIn s .dist none env = (u, true) :=
  ⟨env (rootN 0) rackN, { keyed rack with dist.sv.mbOpen := [(7, dieN, 5)] }, authed { keyed rack with dist.sv.mbOpen := [(7, dieN, 5)] } none (env (rootN 0) rackN), by decide +kernel⟩

theorem witness_full_rings_hold_their_completions_1 : ∃ (i : Instr) (c : Cmd) (s : State), mailboxCmd i = some c ∧ c.part = .tsu ∧ c.mbx ≤ 3 ∧ ringFull (s.mbox c.mbx) = true :=
  ⟨.nop (mb 1), mb 1, mbDie (fullRing []), by decide +kernel⟩

theorem witness_full_rings_hold_their_completions_2 : ∃ (m : Nat) (s : State), ringFull (s.mbox m) = true :=
  ⟨1, mbDie (fullRing [cplN 9]), by decide +kernel⟩

theorem witness_full_rings_hold_their_completions_3 : ∃ (m : Nat) (s : State), ringFull (s.mbox m) = false :=
  ⟨1, mbDie { cplProd := 65, cplCons := 2, ring := [(2, some (cplN 9))] }, by decide +kernel⟩

theorem witness_full_rings_hold_their_completions_4 : ∃ (m : Nat), m ≤ 3 :=
  ⟨1, by decide +kernel⟩

/-! ### Premises of the statements of part 15 -/

/-- A part's measurement: channel `n`, interval unit 0 and statistics as given. -/
def timBase (b : Base) (n : Nat) (c : Channel) (u : IntUnit) : Base := { b with chans := [(n, c)], units := [(0, u)], perf := { cycles := 1000 } }

/-- The die with them. -/
def timDie (n : Nat) (c : Channel) (u : IntUnit) : State := { die with tsu.b := timBase die.tsu.b n c u }

/-- A queue of 256 stamps. -/
def fullQ : List TimEntry := List.replicate 256 { st := 5 }

/-- The die with its recorder as given. -/
def frDie (r : Recorder) : State := { die with tsu.b.fr := r }

/-- The die with counter 3 as given. -/
def perfDie (c : PerfCtr) : State := { die with tsu.b.perf := { ctrs := [(3, c)], cycles := 7 } }

theorem witness_edges_are_stamped_and_queued_1 : ∃ (p : Part) (n : Nat) (tap : Nat) (fall : Bool) (s : State), n < chanCount p ∧ tap < 64 ∧ chanTakes s p n fall = false :=
  ⟨.tsu, 4, 63, true, timDie 4 { edge := 0 } {}, by decide +kernel⟩

theorem witness_edges_are_stamped_and_queued_2 : ∃ (p : Part) (n : Nat) (tap : Nat) (fall : Bool) (s : State), n < chanCount p ∧ tap < 64 ∧ chanTakes s p n fall = true :=
  ⟨.tsu, 5, 63, true, timDie 5 { edge := 1, lock := true } { enable := true, start := 5, stop := 4 }, by decide +kernel⟩

theorem witness_edges_are_stamped_and_queued_3 : ∃ (p : Part) (n : Nat), n < chanCount p :=
  ⟨.dist, 137, by decide +kernel⟩

theorem witness_edges_are_stamped_and_queued_4 : ∃ (p : Part) (n : Nat), chanCount p ≤ n :=
  ⟨.tsu, 8, by decide +kernel⟩

theorem witness_edges_are_stamped_and_queued_5 : ∃ (p : Part) (k : Nat), k < unitCount p :=
  ⟨.tsu, 1, by decide +kernel⟩

theorem witness_edges_are_stamped_and_queued_6 : ∃ (p : Part) (k : Nat), k < unitCount p :=
  ⟨.tsu, 0, by decide +kernel⟩

theorem witness_edges_are_stamped_and_queued_7 : ∃ (p : Part) (k : Nat), k < chanCount p + unitCount p :=
  ⟨.tsu, 9, by decide +kernel⟩

theorem witness_interpolators_check_themselves : ∃ (p : Part) (n : Nat), n < chanCount p :=
  ⟨.tsu, 7, by decide +kernel⟩

theorem witness_counters_are_selected_cleared_and_latched_1 : ∃ (p : Part) (n : Nat) (v : W64), n < 8 ∧ (perfSelOf p v.toNat).2 = false :=
  ⟨.tsu, 7, 0xA000_1A02_8F00_0010#64, by decide +kernel⟩

theorem witness_counters_are_selected_cleared_and_latched_2 : ∃ (p : Part) (n : Nat) (v : W64), n < 8 ∧ (perfSelOf p v.toNat).2 = true :=
  ⟨.tsu, 7, 0x9000_0000#64, by decide +kernel⟩

theorem witness_counters_are_selected_cleared_and_latched_3 : ∃ (n : Nat), 8 ≤ n :=
  ⟨8, by decide +kernel⟩

theorem witness_counters_are_selected_cleared_and_latched_4 : ∃ (n : Nat), n < 8 :=
  ⟨3, by decide +kernel⟩

theorem witness_counters_are_selected_cleared_and_latched_7 : ∃ (h : Nat), h < 4 :=
  ⟨3, by decide +kernel⟩

/-! ### Premises of the statements of part 16 -/

/-- Both parts: the die and a rack distributor. -/
def pair : State := { die with dist := rack.dist }

/-- The die with its counter 3's SEL and the slice's access. -/
def viewDie (a sel : Nat) : State := { perfDie { sel := BitVec.ofNat 64 sel, val := 5 } with tsu.b.perf.access := a }

/-- The distributor's ports UP. -/
def upRack (s : State) : State := { s with dist.b.ports := [(0, { lasersOn := true, link := upTo dieN 0 }), (127, { lasersOn := true, modPresent := true, link := upTo dieN 0 })] }

/-- A fault of counter 9. -/
def fault9 : CtrFault := { overflow := true, srcKind := 1, srcCore := 4, srcId := 6, counter := 9, delivery := 0, opId := 6, value := 5, n := 7, st := 0x40000000#64 }

/-- Local barrier 0 of the die. -/
def lbDie (b : LocalBar) : State := { die with tsu.sync.locals := [(0, b)] }

theorem witness_reads_capture_and_clear_1 : ∃ (p : Part) (off : Nat) (i : Instr), (i = .queueRead p off ∨ i = .rcRegisterRead p off) :=
  ⟨.tsu, 0x44, .queueRead .tsu 0x44, by exact Or.inl rfl⟩

theorem witness_reads_capture_and_clear_2 : ∃ (p : Part) (n : Nat), n < chanCount p :=
  ⟨.dist, 137, by decide +kernel⟩

theorem witness_reads_capture_and_clear_3 : ∃ (p : Part) (n : Nat), n < chanCount p :=
  ⟨.tsu, 7, by decide +kernel⟩

theorem witness_reads_capture_and_clear_6 : ∃ (c : Ctr) (k : Nat), page0Ctrs[k]? = some c :=
  ⟨.partCancelled, 7, by decide +kernel⟩

theorem witness_writes_set_their_fields_1 : ∃ (p : Part) (off : Nat) (v : W64) (i : Instr), (i = .registerWrite p off v ∨ i = .rw1cWrite p off v) :=
  ⟨.tsu, 0x6070, 0x11FFF, .registerWrite .tsu 0x6070 0x11FFF, by exact Or.inl rfl⟩

theorem witness_writes_set_their_fields_3 : ∃ (w : Nat), w < 9 :=
  ⟨8, by decide +kernel⟩

theorem witness_writes_set_their_fields_4 : ∃ (w : Nat), 9 ≤ w :=
  ⟨9, by decide +kernel⟩

theorem witness_hardware_events_reach_the_ports_8 : ∃ (i : Instr) (bus : Nat) (here : BitVec 8) (ready : BitVec 8), (i = .moduleInterrupt bus here ready ∨ i = .modulePoll bus here
    ready) :=
  ⟨.modulePoll 15 0x01 1, 15, 0x01, 1, by exact Or.inr rfl⟩

/-! ### Premises of the statements of part 17 -/

/-- The machine after reset with one command waiting. -/
def resetWith (i : Instr) : State := { State.reset with pending := [i] }

theorem step_freeze : step (resetWith (.perfFreeze .tsu true)) = .next { State.reset with tsu.b.perf.freeze := true } := by rfl

theorem witness_every_step_keeps_the_canonical_form : ∃ (s : State) (t : State), Canonical s ∧ step s = .next t :=
  ⟨resetWith (.perfFreeze .tsu true), { State.reset with tsu.b.perf.freeze := true }, by exact ⟨by unfold Canonical; decide +kernel, step_freeze⟩⟩

/-! ### Well-formed commands: each check refuses one that names what the part has not -/

theorem test_wf_port : (Instr.portRetrainWrite .tsu 1).wf = true ∧ (Instr.portRetrainWrite .tsu 2).wf = false ∧
    (Instr.portRetrainWrite .dist 127).wf = true ∧ (Instr.portRetrainWrite .dist 128).wf = false := by decide +kernel

theorem test_wf_lane : (Instr.laneFail .tsu 0 2).wf = true ∧ (Instr.laneFail .tsu 0 3).wf = false ∧
    (Instr.laneFail .tsu 2 2).wf = false := by decide +kernel

theorem test_wf_region : (Instr.regionClockStop 143).wf = true ∧ (Instr.regionClockStop 144).wf = false := by decide +kernel

theorem test_wf_crossing : (Instr.crossingRelease 0 1 []).wf = true ∧ (Instr.crossingRelease 0 0 []).wf = false ∧
    (Instr.crossingRelease 143 2 []).wf = false ∧ (Instr.crossingRelease 144 3 []).wf = false := by decide +kernel

theorem test_wf_core : (Instr.coreReset 575).wf = true ∧ (Instr.coreReset 576).wf = false := by decide +kernel

theorem test_wf_mailbox : (Instr.nop (mb 3)).wf = true ∧ (Instr.nop (mb 4)).wf = false ∧ (Instr.nop dcmd).wf = true ∧
    (Instr.mbDoorbell 4 0).wf = false := by decide +kernel

theorem test_wf_slice : (Instr.turningStart .tsu 63).wf = true ∧ (Instr.turningStart .tsu 64).wf = false := by decide +kernel

theorem test_wf_channel : (Instr.dllLock .tsu 7).wf = true ∧ (Instr.dllLock .tsu 8).wf = false ∧ (Instr.dllLock .dist 137).wf = true ∧
    (Instr.dllLock .dist 138).wf = false := by decide +kernel

theorem test_wf_tap : (Instr.timEvent .tsu 0 false false 63).wf = true ∧ (Instr.timEvent .tsu 0 false false 64).wf = false := by
  decide +kernel

theorem test_wf_unit : (Instr.intControlWrite .tsu 1 0).wf = true ∧ (Instr.intControlWrite .tsu 2 0).wf = false ∧
    (Instr.statStart .tsu 9 0).wf = true ∧ (Instr.statStart .tsu 10 0).wf = false := by decide +kernel

theorem test_wf_counter : (Instr.perfClear .tsu 7).wf = true ∧ (Instr.perfClear .tsu 8).wf = false ∧
    (Instr.histClear .tsu 3).wf = true ∧ (Instr.histClear .tsu 4).wf = false := by decide +kernel

theorem test_wf_reference : (Instr.wtrExpire 5).wf = true ∧ (Instr.wtrExpire 6).wf = false ∧ (Instr.refPresenceWindow 6 false 0 false).wf = false := by
  decide +kernel

theorem test_wf_word_ring_and_bus : (Instr.lbMaskWrite 9 0).wf = false ∧ (Instr.ldRpWrite 8 0).wf = false ∧
    (Instr.modulePoll 16 0 0).wf = false ∧ (Instr.lbMaskWrite 8 0).wf = true := by decide +kernel

/-- A command that is not well formed ends in its fault; here a port that the part has not. -/
theorem test_ill_formed_faults : exec (.portRetrainWrite .tsu 2) State.reset = .fault .noSuchPort := by rfl

/-! ### Reset (R491, R512) -/

theorem test_reset_config : (cfgRegs .tsu).all (fun r => cfgValue State.reset .tsu r.off == r.reset) = true := by decide +kernel

theorem test_reset_config_distributor : (cfgRegs .dist).all (fun r => cfgValue State.reset .dist r.off == r.reset) = true := by
  decide +kernel

theorem test_reset_ids : (tsuRead 0 State.reset).1 = 0x17504 ∧ (distRead 0x38 State.reset).1 = 0x1D1286BB := by decide +kernel

/-- The front command runs, and the queue keeps the rest. -/
theorem test_step_runs_the_front : step { State.reset with pending := [.perfFreeze .tsu true, .frDisarm .tsu] } =
    .next { State.reset with tsu.b.perf.freeze := true, pending := [.frDisarm .tsu] } := by rfl

theorem test_idle_step_counts : ∃ t, step State.reset = .next t ∧ t.pending = [] := ⟨_, rfl, rfl⟩

/-! ### Premises of the statements that have several cases over one state -/

theorem witness_recorder_cases :
    (∃ s : State, s.tsu.b.fr.state = .armed ∧ s.tsu.b.fr.trigMask.toNat.testBit 5 = true ∧ s.tsu.b.fr.classMask.toNat.testBit 9 = true) ∧
    (∃ s : State, s.tsu.b.fr.state = .frozen ∧ s.tsu.b.fr.trigMask.toNat.testBit 5 = true ∧ s.tsu.b.fr.classMask.toNat.testBit 10 = true) ∧
    (∃ s : State, s.tsu.b.fr.state = .triggered ∧ s.tsu.b.fr.left = 0) ∧ ∃ s : State, s.tsu.b.fr.state = .rearming :=
  ⟨⟨frDie { state := .armed, trigMask := 0x20 }, by decide +kernel⟩, ⟨frDie { state := .frozen, trigMask := 0x20 }, by decide +kernel⟩,
   ⟨frDie { state := .triggered, left := 0 }, by decide +kernel⟩, ⟨frDie { state := .rearming }, by decide +kernel⟩⟩

theorem witness_boot_cases : (∃ s : State, s.tsu.die.inReset = true) ∧
    (∃ s : State, s.tsu.die.inReset = false ∧ s.tsu.b.hs.boot ≠ 1 ∧ s.tsu.b.hs.boot ≠ 2) ∧ ∃ s : State, (s.base .tsu).hs.boot = 1 :=
  ⟨⟨{ die with tsu.die.inReset := true }, rfl⟩, ⟨die, by decide +kernel⟩, ⟨booting, rfl⟩⟩

theorem witness_snapshot_and_timeout :
    (∃ s : State, s.tsu.b.perf.lastSnap ≠ some s.tsu.b.perf.cycles) ∧
    ∃ (s : State) (a : St × Nat × Nat), (s.unit .tsu 0).open_ = some a ∧ (s.unit .tsu 0).timeout ≠ 0 ∧
      a.2.1 + (s.unit .tsu 0).timeout.toNat ≤ s.tsu.b.perf.cycles.toNat ∧ (s.unit .tsu 0).queue.length < 256 :=
  ⟨⟨perfDie { val := 5 }, by decide +kernel⟩, ⟨timDie 5 {} { timeout := 10, open_ := some (5, 990, 7) }, (5, 990, 7), by decide +kernel⟩⟩

theorem witness_removal_and_heat :
    (∃ s : State, s.dist.sv.removeReq = false ∧ s.dist.sv.state = .drained) ∧ (∃ s : State, s.dist.sv.tripped = false ∧ s.dist.b.tj < 110) ∧
    ∃ s : State, s.dist.sv.lostPresence = false ∧ (s.port .dist 0).link.state = .up :=
  ⟨⟨{ rack with dist.sv.state := .drained }, by decide +kernel⟩, ⟨rack, by decide +kernel⟩, ⟨upRack rack, by decide +kernel⟩⟩

end Sys2Proof.Tests
end

namespace Sys2Proof.Machine

/-! ### The command at the front of the queue -/

/-- What `step` does in any state that is known to hold a command. That there is one queue, first in first
out, is the model's choice (log 4). -/
theorem step_of_pending_cons {s : State} {c : Instr} {rest : List Instr} (h : s.pending = c :: rest) :
    step s = exec c { s with pending := rest } := by
  unfold step
  rw [h]

/-- Settles O1: the state is one whose queue begins with `c`. -/
theorem stepRunsTheFrontCommand : Obligations.StepRunsTheFrontCommand := by
  unfold Obligations.StepRunsTheFrontCommand
  intro c rest s
  have hfront : State.pending { s with pending := c :: rest } = c :: rest := rfl
  exact step_of_pending_cons hfront

end Sys2Proof.Machine

namespace Sys2Proof.Machine

/-! ### Bytes and the time-map block (R7, R26, R131) -/

@[simp] theorem length_beBytes (n v : Nat) : (beBytes n v).length = n := by
  induction n with
  | zero => rfl
  | succ n ih => simp [beBytes, ih]

theorem drop_beBytes_of_le {n k : Nat} (v : Nat) (h : n ≤ k) : (beBytes n v).drop k = [] :=
  List.drop_eq_nil_of_le (by simpa using h)

theorem foldl_beBytes (n v a : Nat) :
    (beBytes n v).foldl (fun a b => a * 256 + b.toNat) a = a * 2 ^ (8 * n) + v % 2 ^ (8 * n) := by
  induction n generalizing a with
  | zero => simp [beBytes, Nat.mod_one]
  | succ n ih =>
    have hpow : 2 ^ (8 * (n + 1)) = 2 ^ (8 * n) * 256 := Nat.pow_add 2 (8 * n) 8
    rw [beBytes, List.foldl_cons, ih, BitVec.toNat_ofNat, Nat.shiftRight_eq_div_pow, hpow, Nat.mod_mul]
    ring

/-- The bytes of a number, most significant first, spell it modulo what they can hold. -/
theorem beNat_beBytes (n v : Nat) : beNat (beBytes n v) = v % 2 ^ (8 * n) := by
  rw [beNat, foldl_beBytes, Nat.zero_mul, Nat.zero_add]

/-- A two's complement number of 16 bits reads back. -/
theorem signedOf_twos_16 (x : Int) (hlo : -2 ^ 15 ≤ x) (hhi : x < 2 ^ 15) : signedOf 16 (twos 16 x % 2 ^ 16) = x := by
  unfold signedOf twos
  split <;> omega

theorem tbit_bit_mul_128 (b : Bool) : tbit (bit b * 128 % 256) 7 = b := by cases b <;> rfl

/-- The 28 bytes that a block's CRC covers (R26). -/
def mapBody (r : MapRec) : List Byte :=
  beBytes 1 (bit r.absValid * 128) ++ beBytes 1 r.version.toNat ++ beBytes 6 r.originSec.toNat
    ++ beBytes 5 r.originTu ++ beBytes 2 (twos 16 r.utc) ++ beBytes 7 r.effect.toNat ++ beBytes 6 0

@[simp] theorem length_mapBody (r : MapRec) : (mapBody r).length = 28 := by simp [mapBody]

theorem mapBlock_eq (r : MapRec) : mapBlock r = mapBody r ++ beBytes 4 (crc32c (mapBody r)).toNat := rfl

/-- Each field of a block lies in the body, and the fields are cut at the body's own seams. -/
theorem mapOfBlock_mapBlock (r : MapRec) : mapOfBlock (mapBlock r) =
    { absValid := r.absValid, version := r.version, originSec := r.originSec, originTu := r.originTu % 2 ^ 40 % 2 ^ 36
      utc := signedOf 16 (twos 16 r.utc % 2 ^ 16), effect := r.effect } := by
  rw [mapBlock_eq]
  simp only [mapOfBlock, mapBody]
  simp [List.drop_append, drop_beBytes_of_le, beNat_beBytes, tbit_bit_mul_128, Nat.mod_eq_of_lt r.originSec.isLt]
  constructor <;> bv_omega

/-- Settles O5: the fields are cut at the seams of the block (`mapOfBlock_mapBlock`), and the last four bytes spell the
CRC of the ones before. -/
theorem timeMapBlockRoundTrips : Obligations.TimeMapBlockRoundTrips := by
  unfold Obligations.TimeMapBlockRoundTrips
  intro r htu hlo hhi
  refine ⟨?_, ?_, ?_⟩
  · have htu' : r.originTu % 2 ^ 40 % 2 ^ 36 = r.originTu := by omega
    rw [mapOfBlock_mapBlock, htu', signedOf_twos_16 _ hlo hhi]
  · simp [mapBlock_eq]
  · have hcrc : (crc32c (mapBody r)).toNat % 2 ^ (8 * 4) = (crc32c (mapBody r)).toNat := Nat.mod_eq_of_lt (crc32c (mapBody r)).isLt
    have hbody : (mapBlock r).take 28 = mapBody r := List.take_left' (length_mapBody r)
    have htail : (mapBlock r).drop 28 = beBytes 4 (crc32c (mapBody r)).toNat := List.drop_left' (length_mapBody r)
    have hlen : (mapBlock r).length = 32 := by simp [mapBlock_eq]
    simp only [blockGood, hbody, htail, hlen, beNat_beBytes, hcrc, beq_self_eq_true, Bool.and_self]
end Sys2Proof.Machine

namespace Sys2Proof.Machine

/-! ### The order of two times (R17) -/

/-- The signed modular difference, as a residue of the two times read as numbers. -/
theorem stDiff_eq (a b : St) : stDiff a b = if (a.toNat + 2 ^ 64 - b.toNat) % 2 ^ 64 < 2 ^ 63
    then (((a.toNat + 2 ^ 64 - b.toNat) % 2 ^ 64 : Nat) : Int) else (((a.toNat + 2 ^ 64 - b.toNat) % 2 ^ 64 : Nat) : Int) - 2 ^ 64 := by
  have hsub : (a - b).toNat = (a.toNat + 2 ^ 64 - b.toNat) % 2 ^ 64 := by
    have := b.isLt
    rw [BitVec.toNat_sub]
    congr 1
    omega
  rw [← hsub, stDiff, BitVec.toInt_eq_toNat_cond]
  split <;> split <;> omega

theorem stDiff_eq_zero (a b : St) : stDiff a b = 0 ↔ a = b := by
  rw [stDiff, ← BitVec.toInt_zero (w := 64), BitVec.toInt_inj]
  exact sub_eq_zero

/-- Settles O3: `stDiff_eq` gives the difference as a number, and the order reads its sign. -/
theorem signedDifferenceOrdersTimes : Obligations.SignedDifferenceOrdersTimes := by
  unfold Obligations.SignedDifferenceOrdersTimes
  intro a b
  refine ⟨stDiff_eq a b, decide_eq_true_iff, (stDiff_eq_zero a b).symm, ?_⟩
  rintro rfl
  have hhalf : stDiff (b + 0x8000000000000000#64) b = -2 ^ 63 := by
    rw [stDiff, add_sub_cancel_left]
    rfl
  exact ⟨hhalf, by rw [stLater, hhalf]; rfl⟩

/-! ### One nanosecond (R16, R139, R334, R429) -/

/-- The shadow count stays the residue of the master count through one advance: at the ST wrap the master loses 2^96, which is
8 tu more than a multiple of the shadow's modulus. -/
theorem shadowAdv_eq (acc : BitVec 96) (inc : Int) (h0 : 0 ≤ inc) (h1 : inc < 2 ^ 90) :
    shadowAdv acc (acc.toNat % shadowMod) inc = (acc + BitVec.ofInt 96 inc).toNat % shadowMod := by
  have hacc := acc.isLt
  obtain ⟨n, rfl⟩ := Int.eq_ofNat_of_zero_le h0
  have hn : (BitVec.ofInt 96 (n : Int)).toNat = n := by
    rw [BitVec.ofInt_natCast, BitVec.toNat_ofNat]; omega
  rw [BitVec.toNat_add, hn]
  unfold shadowAdv shadowMod
  by_cases hc : (2 ^ 96 : Int) ≤ (acc.toNat : Int) + n
  · have hwrap : (acc.toNat + n) % 2 ^ 96 = acc.toNat + n - 2 ^ 96 := by omega
    simp only [hc, decide_true, if_true, hwrap]; omega
  · have hfits : (acc.toNat + n) % 2 ^ 96 = acc.toNat + n := by omega
    simp only [hc, decide_false, if_false, Bool.false_eq_true, hfits]; omega

theorem advance_of_not_held {t : TimeState} (h : t.held = false) : t.advance = t := by
  rw [TimeState.advance, h]; rfl

theorem advance_of_held {t : TimeState} (h : t.held = true) : t.advance = { t with
    acc := t.acc + BitVec.ofInt 96 (tickInc t.trim), shadow := shadowAdv t.acc t.shadow (tickInc t.trim)
    hCount := t.hCount + BitVec.ofInt 96 (tickInc (meanTrim t)) } := by
  rw [TimeState.advance, h]; rfl

/-- A part that is out of reset takes one edge of its clock. -/
theorem idle_base (s : State) (p : Part)
    (h : (match p with | .tsu => s.tsu.die.inReset | .dist => s.dist.sv.inReset) = false) :
    (idle s).base p = (s.base p).clock := by
  cases p <;> simp only at h <;> simp [idle, h]

/-- Settles O2: on an empty queue the step is `idle`, which clocks each part; the shadow's residue is `shadowAdv_eq`. -/
theorem emptyQueuePassesOneNanosecond : Obligations.EmptyQueuePassesOneNanosecond := by
  unfold Obligations.EmptyQueuePassesOneNanosecond
  intro s hs
  refine ⟨idle s, by rw [step, hs], rfl, hs, fun p hp => ?_⟩
  rw [idle_base s p hp]
  refine ⟨rfl, advance_of_not_held, fun hheld => ?_⟩
  rw [Base.clock, advance_of_held hheld]
  refine ⟨rfl, rfl, fun h0 h1 hsh => ?_⟩
  rw [hsh]
  exact shadowAdv_eq _ _ h0 h1

/-! ### Reset -/

/-- Settles O59. -/
theorem resetLeavesTheGivenValues : Obligations.ResetLeavesTheGivenValues := by
  unfold Obligations.ResetLeavesTheGivenValues
  have hcfg : ∀ p : Part, ∀ r ∈ cfgRegs p, cfgValue State.reset p r.off = r.reset := by
    intro p
    cases p <;> decide +kernel
  refine ⟨rfl, ⟨rfl, rfl, rfl⟩, fun p => ?_, by decide +kernel, by decide +kernel, by decide +kernel, rfl, rfl⟩
  cases p <;> exact ⟨rfl, rfl, fun _ => ⟨rfl, rfl⟩, rfl, rfl, rfl, hcfg _⟩
end Sys2Proof.Machine

namespace Sys2Proof.Machine

/-! ### Reads of time and RUN_START (R23, R48, R86, R491) -/

/-- The low half of the ST that a count shows, as a number. -/
theorem toNat_lowHalf (acc : BitVec 96) :
    (((acc.extractLsb' 32 64).extractLsb' 0 32).setWidth 64).toNat = acc.toNat / 2 ^ 32 % 2 ^ 32 := by
  simp only [BitVec.toNat_setWidth, BitVec.extractLsb'_toNat, Nat.shiftRight_eq_div_pow]
  omega

/-- The upper half of the ST that a count shows. -/
theorem highHalf (acc : BitVec 96) : (acc.extractLsb' 32 64).extractLsb' 32 32 = acc.extractLsb' 64 32 := by
  apply BitVec.eq_of_toNat_eq
  simp only [BitVec.extractLsb'_toNat, Nat.shiftRight_eq_div_pow]
  omega

theorem st_of_count (n : Nat) (h : n < 2 ^ 64) : n * 2 ^ 32 % 2 ^ 96 / 2 ^ 32 % 2 ^ 64 = n := by
  omega

/-- A count set to an ST shows that ST (R137). -/
theorem set_now (t : TimeState) (x : St) : (t.set (x.toNat : Int)).acc.extractLsb' 32 64 = x := by
  have hacc : (t.set (x.toNat : Int)).acc = BitVec.ofNat 96 (x.toNat * 2 ^ 32) :=
    BitVec.ofInt_natCast 96 (x.toNat * 2 ^ 32)
  apply BitVec.eq_of_toNat_eq
  rw [hacc, BitVec.extractLsb'_toNat, BitVec.toNat_ofNat, Nat.shiftRight_eq_div_pow]
  exact st_of_count _ x.isLt

/-- The leading root that holds no ST starts the run. -/
theorem runStart_starts {s : State} (hrole : s.role = .root) (hheld : s.dist.b.t.held = false)
    (hlead : leaderOf s .dist = s.ownRoot) : Completes .runStart s fun t =>
      t.dist.b.t.held = true ∧ t.now .dist = s.dist.refs.stInit ∧ t.dist.refs.running = true ∧
      t.dist.refs.stInitLocked = true ∧ t.dist.refs.state = .freeRun ∧ t.dist.refs.yc = 0 ∧
      t.dist.sv.state = .inService ∧ t.dist.b.t.shadow = t.dist.b.t.acc.toNat % shadowMod ∧
      t = { s with dist := { s.dist with
        b := { s.dist.b with t := t.dist.b.t, ep := t.dist.b.ep, drawn := s.dist.b.drawn + 1 }
        sv := { s.dist.sv with state := .inService }, refs := t.dist.refs, mem := t.dist.mem } } := by
  refine ⟨_, congrArg Host.Outcome.next (if_neg (by simp [hrole, hheld, hlead])), ?_⟩
  exact ⟨rfl, set_now s.dist.b.t _, rfl, rfl, rfl, rfl, rfl, rfl, rfl⟩

/-- Settles O4. -/
theorem timeIsLoadedAndRead : Obligations.TimeIsLoadedAndRead := by
  unfold Obligations.TimeIsLoadedAndRead
  refine ⟨⟨fun p s => rfl, fun p s => ?_, fun p s => ?_⟩, fun s => runStart_starts⟩
  · refine ⟨_, rfl, toNat_lowHalf _, ?_⟩
    have hhigh : (s.now p).extractLsb' 32 32 = (s.base p).t.acc.extractLsb' 64 32 := highHalf _
    simp only [hhigh]
    rfl
  · have hsec := (s.base p).map.cur.originSec.isLt
    refine ⟨_, rfl, ?_, by cases p <;> rfl⟩
    show ((s.base p).map.cur.originSec.setWidth 64).toNat = _
    rw [BitVec.toNat_setWidth]
    omega

end Sys2Proof.Machine

namespace Sys2Proof.Machine

/-! ### Commands that name a unit or a port -/

theorem onUnit_completes {s : State} {ok : Bool} {f : State → State} {post : State → Prop} (hok : ok = true)
    (hpost : post (f s)) : ∃ t, onUnit ok s f = .next t ∧ post t :=
  ⟨f s, by rw [onUnit_eq, if_pos hok], hpost⟩

theorem onPort_completes {s : State} {p : Part} {i : Nat} {f : State → State} {post : State → Prop} (hi : i < portCount p)
    (hpost : post (f s)) : ∃ t, onPort p i s f = .next t ∧ post t :=
  ⟨f s, onPort_next.mpr ⟨hi, rfl⟩, hpost⟩

/-! ### A turning that nothing changes (R34, R35) -/

/-- A started turning with no change, no idle stretch and no reset announced: every boundary only counts. -/
structure Turning.Steady (u : Turning) : Prop where
  exists_ : u.exists_ = true
  started : u.started = true
  restart : u.restart = none
  idle : u.idleUntil = none
  changes : u.changes = []

theorem Turning.Steady.boundary_eq {u : Turning} (h : u.Steady) :
    u.boundary = { u with start := u.start + tu u.len, step := u.step + 1 } := by
  simp only [Turning.boundary, h.restart, h.changes, h.idle, List.find?_nil, Turning.enter, Option.getD_none]

/-- `k` boundaries advance the start by `k` lengths and the number by `k`. -/
theorem Turning.Steady.iterate_boundary {u : Turning} (h : u.Steady) (k : Nat) :
    Turning.boundary^[k] u = { u with start := u.start + tu (k * u.len), step := u.step + BitVec.ofNat 48 k } := by
  induction k with
  | zero => simp [tu]
  | succ k ih =>
    have hsteady : ∀ x n, ({ u with start := x, step := n } : Turning).Steady := fun _ _ => ⟨h.1, h.2, h.3, h.4, h.5⟩
    rw [Function.iterate_succ_apply', ih, (hsteady _ _).boundary_eq]
    have hstart : u.start + tu (k * u.len) + tu u.len = u.start + tu ((k + 1) * u.len) := by
      rw [Nat.succ_mul, BitVec.add_assoc]; simp [tu, BitVec.ofNat_add]
    have hstep : u.step + BitVec.ofNat 48 k + 1 = u.step + BitVec.ofNat 48 (k + 1) := by
      rw [BitVec.add_assoc, BitVec.ofNat_add]; rfl
    simp only [hstart, hstep]

theorem Turning.Steady.due_eq {u : Turning} (h : u.Steady) (now : St) : u.due now = stGe now (u.start + tu u.len) := by
  simp [Turning.due, Turning.base, h.exists_, h.started, h.restart, h.idle]

/-- Two times less than 2^63 tu apart are ordered as the numbers they lie from a common one. -/
theorem stGe_add_tu (o : St) (a b : Nat) (hab : a < b + 2 ^ 63) (hba : b < a + 2 ^ 63) :
    stGe (o + tu a) (o + tu b) = decide (b ≤ a) := by
  have hdiff : stDiff (o + tu a) (o + tu b) = (a : Int) - b := by
    have hsub : o + tu a - (o + tu b) = BitVec.ofInt 64 ((a : Int) - b) := by
      rw [add_sub_add_left_eq_sub, sub_eq_iff_eq_add, tu, tu, ← BitVec.ofInt_natCast, ← BitVec.ofInt_natCast,
        ← BitVec.ofInt_add, sub_add_cancel]
    rw [stDiff, hsub, BitVec.toInt_ofInt]
    exact Int.bmod_eq_of_le (by omega) (by omega)
  rw [stGe, hdiff]
  congr 1
  exact propext (by omega)

/-- Where `x` lies in step `k` the step formula gives `k`. -/
theorem div_len_eq {k len x : Nat} (hlo : k * len ≤ x) (hhi : x < k * len + len) : x / len = k := by
  rw [Nat.div_eq_of_lt_le hlo (by rwa [Nat.succ_mul])]

/-! ### What a boundary brings at the die (R35, R36, R191, R192, R214) -/

/-- `t` differs from `s` in what a boundary can bring at the die beyond the turning's own step: its state, the plate, the regions'
queues, the descriptors in force, and what is counted. -/
def BoundaryOnly (s t : State) : Prop := t = { s with tsu := { s.tsu with
  b := { s.tsu.b with cnt := t.tsu.b.cnt, perf := t.tsu.b.perf }, die := t.tsu.die
  regions := t.tsu.regions, plate := t.tsu.plate, fab := t.tsu.fab } }

theorem BoundaryOnly.refl (s : State) : BoundaryOnly s s := rfl

theorem BoundaryOnly.trans {s t u : State} (h : BoundaryOnly s t) (k : BoundaryOnly t u) : BoundaryOnly s u := by
  unfold BoundaryOnly at *
  rw [k, h]

theorem BoundaryOnly.turn_eq {s t : State} (h : BoundaryOnly s t) : t.tsu.turn = s.tsu.turn := by
  rw [h]

theorem count_plate (s : State) (c : Ctr) (i : Nat) (f : Flt) (n : Nat) : (s.count .tsu c i f n).tsu.plate = s.tsu.plate := by
  rw [(count_counts s .tsu c i f n).tsu]

theorem count_boundaryOnly (s : State) (c : Ctr) (i : Nat) (f : Flt) (n : Nat) : BoundaryOnly s (s.count .tsu c i f n) := by
  obtain ⟨⟨hdist, hrdata, hpending⟩, hbase, htsu, -⟩ := count_counts s .tsu c i f n
  have hfr : (s.count .tsu c i f n).tsu.b.fr = s.tsu.b.fr := count_fr s .tsu c i f n
  generalize s.count .tsu c i f n = t at *
  obtain ⟨tsu, dist, rdata, pending⟩ := t
  simp only [base_tsu] at *
  subst hdist hrdata hpending
  rw [hfr] at hbase
  unfold BoundaryOnly
  rw [htsu, hbase]

theorem dieRuns_boundaryOnly (s : State) : BoundaryOnly s (dieRuns s) := by
  unfold dieRuns
  dsimp only
  split <;> rfl

@[simp] theorem dieRuns_plate (s : State) : (dieRuns s).tsu.plate = s.tsu.plate := by
  unfold dieRuns
  dsimp only
  split <;> rfl

theorem plateShorten_boundaryOnly (s : State) (len : Nat) : BoundaryOnly s (plateShorten s len) := by
  unfold plateShorten
  dsimp only
  split
  · exact .refl s
  · refine .trans ?_ (count_boundaryOnly _ _ _ _ _)
    rfl

/-- A shorter length clamps entries of the active bank and nothing else of the plate (R192). -/
theorem plateShorten_plate (s : State) (len : Nat) : (plateShorten s len).tsu.plate =
    { s.tsu.plate with bankA := (plateShorten s len).tsu.plate.bankA, bankB := (plateShorten s len).tsu.plate.bankB } := by
  unfold plateShorten
  dsimp only
  split
  · rfl
  · rw [count_plate, State.modPlate_plate]
    split <;> rfl

theorem plateBoundary_boundaryOnly (s : State) (b : St) : BoundaryOnly s (plateBoundary s b) := by
  unfold plateBoundary
  extract_lets groups s0 s1 stop fresh gone s2 tsu2 s3
  have h1 : BoundaryOnly s s1 := by
    simp only [s1]
    split <;> rfl
  split
  · exact h1.trans rfl
  · have h3 : BoundaryOnly s s3 := h1.trans rfl
    exact h3.trans (count_boundaryOnly s3 _ _ _ _)

/-- The bank that was not active in `s` is active in `t`, and is still to be copied into the other (R191). -/
def PlateSwitched (s t : State) : Prop :=
  t.tsu.plate.activeB = (!s.tsu.plate.activeB) ∧ t.tsu.plate.switchAt = none ∧ t.tsu.plate.copyDue = true

/-- A committed plate whose boundary has come becomes the active bank (R191). -/
theorem plateBoundary_switches {s : State} {b : St} (h : (s.tsu.plate.switchAt.any fun x => stGe b x) = true) :
    PlateSwitched s (plateBoundary s b) := by
  unfold plateBoundary
  extract_lets groups s0 s1 stop fresh gone s2 tsu2 s3
  have h1 : PlateSwitched s s1 := by
    simp only [s1, if_pos h]
    exact ⟨rfl, rfl, rfl⟩
  split
  · exact h1
  · unfold PlateSwitched
    rw [count_plate]
    exact h1

/-- The entries of the active bank held to the turning's length, where that has become shorter than `len` (R192). -/
def shortened (len : Nat) (s : State) : State := if s.tsu.turn.len < len then plateShorten s s.tsu.turn.len else s

theorem shortened_boundaryOnly (len : Nat) (s : State) : BoundaryOnly s (shortened len s) := by
  unfold shortened
  split
  · exact plateShorten_boundaryOnly _ _
  · exact .refl s

theorem PlateSwitched.shortened {s t : State} (h : PlateSwitched s t) (len : Nat) : PlateSwitched s (shortened len t) := by
  unfold Machine.shortened
  split
  · unfold PlateSwitched
    rw [plateShorten_plate]
    exact h
  · exact h

/-- A boundary at the die: the turning takes its next step, and a committed plate whose boundary it is becomes active. -/
theorem stepBoundary_die {s : State} (hslice : s.tsu.die.sliceId < 64) (hdue : s.tsu.turn.due (s.now .tsu) = true) :
    Completes (.stepBoundary .tsu s.tsu.die.sliceId) s fun t =>
      (s.tsu.turn.boundary.idleUntil = none → (s.tsu.plate.switchAt.any fun x => stGe s.tsu.turn.boundary.start x) = true →
        PlateSwitched s t) ∧ BoundaryOnly { s with tsu.turn := s.tsu.turn.boundary } t := by
  have hturn : s.turning .tsu s.tsu.die.sliceId = s.tsu.turn := if_pos rfl
  have hmod : s.modTurning .tsu s.tsu.die.sliceId Turning.boundary = { s with tsu.turn := s.tsu.turn.boundary } := if_pos rfl
  unfold Completes exec execStepBoundary
  refine onUnit_completes (decide_eq_true hslice) ?_
  simp only [hturn, hdue, hmod, Bool.not_true, Bool.false_eq_true, if_false]
  cases hidle : s.tsu.turn.boundary.idleUntil with
  | some z =>
    dsimp only
    refine ⟨fun h => absurd h (Option.some_ne_none z), ?_⟩
    split
    · exact .refl _
    · exact shortened_boundaryOnly _ _
  | none =>
    have hsame : (dieRuns { s with tsu.turn := s.tsu.turn.boundary }).tsu.plate = s.tsu.plate := dieRuns_plate _
    refine ⟨fun _ hswitch => ?_, ?_⟩
    · rw [← hsame] at hswitch
      have h := (plateBoundary_switches hswitch).shortened s.tsu.turn.len
      unfold PlateSwitched at h ⊢
      rw [hsame] at h
      exact h
    · exact ((dieRuns_boundaryOnly _).trans (plateBoundary_boundaryOnly _ _)).trans (shortened_boundaryOnly s.tsu.turn.len _)

/-- The first step of a new turning at the die (R36). -/
theorem turningStart_die {s : State} (hslice : s.tsu.die.sliceId < 64) (hexists : s.tsu.turn.exists_ = true)
    (hnew : s.tsu.turn.started = false) (hdue : stGe (s.now .tsu) s.tsu.turn.first = true) :
    Completes (.turningStart .tsu s.tsu.die.sliceId) s fun t =>
      BoundaryOnly { s with tsu.turn := s.tsu.turn.begin_ } t := by
  have hturn : s.turning .tsu s.tsu.die.sliceId = s.tsu.turn := if_pos rfl
  have hmod : s.modTurning .tsu s.tsu.die.sliceId Turning.begin_ = { s with tsu.turn := s.tsu.turn.begin_ } := if_pos rfl
  unfold Completes exec execTurningStart
  refine onUnit_completes (decide_eq_true hslice) ?_
  simp only [hturn, hexists, hnew, hdue, hmod, Bool.not_true, Bool.false_eq_true, Bool.or_self, if_false]
  exact (dieRuns_boundaryOnly _).trans (plateBoundary_boundaryOnly _ _)

/-- The first step of a new turning at a distributor, which keeps one turning per slice (R36). -/
theorem turningStart_dist {s : State} {slice : Nat} (hslice : slice < 64) (hexists : (s.turning .dist slice).exists_ = true)
    (hnew : (s.turning .dist slice).started = false) (hdue : stGe (s.now .dist) (s.turning .dist slice).first = true) :
    exec (.turningStart .dist slice) s = .next (s.modTurning .dist slice Turning.begin_) := by
  unfold exec execTurningStart
  simp only [onUnit_eq, hslice, hexists, hnew, hdue, decide_true, Bool.not_true, Bool.false_eq_true, Bool.or_self, if_false, if_true]

theorem stepBoundary_dist {s : State} {slice : Nat} (hslice : slice < 64)
    (hdue : (s.turning .dist slice).due (s.now .dist) = true) :
    exec (.stepBoundary .dist slice) s = .next (s.modTurning .dist slice Turning.boundary) := by
  unfold exec execStepBoundary
  simp only [onUnit_eq, hslice, hdue, decide_true, Bool.not_true, Bool.false_eq_true, if_false, if_true]

/-- After a switch the active bank stands in both places (R191). -/
theorem plateBankCopy_copies {s : State} (h : s.tsu.plate.copyDue = true) :
    Completes .plateBankCopy s fun t =>
      t.tsu.plate = { s.tsu.plate with
        bankA := (if s.tsu.plate.activeB then s.tsu.plate.bankB else s.tsu.plate.bankA)
        bankB := (if s.tsu.plate.activeB then s.tsu.plate.bankB else s.tsu.plate.bankA), copyDue := false } ∧
      t = { s with tsu.plate := t.tsu.plate } := by
  refine ⟨_, congrArg Host.Outcome.next (if_pos h), ?_, rfl⟩
  rw [State.modPlate_plate]
  unfold Plate.setOther Plate.active
  generalize s.tsu.plate = p
  obtain ⟨bankA, bankB, activeB⟩ := p
  cases activeB <;> rfl

/-- Settles O7: the arithmetic of a steady turning, then one command at a time. -/
theorem turningsStepAtTheirBoundaries : Obligations.TurningsStepAtTheirBoundaries := by
  unfold Obligations.TurningsStepAtTheirBoundaries
  refine ⟨?_, ?_, ?_, ?_, ?_, fun s => plateBankCopy_copies⟩
  · intro u k x hex hst hre hidle hch hstart hstep hpos hlen hlo hhi
    have hsteady : u.Steady := ⟨hex, hst, hre, hidle, hch⟩
    have hk := hsteady.iterate_boundary k
    have hdue : (Turning.boundary^[k] u).Steady := by rw [hk]; exact ⟨hex, hst, hre, hidle, hch⟩
    have hnext : u.st0 + tu (k * u.len) + tu u.len = u.st0 + tu (k * u.len + u.len) := by
      rw [BitVec.add_assoc, tu, tu, tu, BitVec.ofNat_add]
    have hnumber : (Turning.boundary^[k] u).step = BitVec.ofNat 48 k := by simp [hk, hstep]
    refine ⟨by rw [hk, hstart], hnumber, fun hx => ?_, ?_⟩
    · rw [hnumber, div_len_eq hlo hx]
    · rw [hdue.due_eq, hk, hstart, hnext, stGe_add_tu _ _ _ (by omega) (by omega)]
      congr 1
      exact propext (by omega)
  · intro slice s hslice hdue
    exact stepBoundary_dist hslice hdue
  · intro s hslice hdue
    obtain ⟨t, ht, hswitch, honly⟩ := stepBoundary_die hslice hdue
    refine ⟨t, ht, honly.turn_eq, hswitch, ?_⟩
    rw [honly.turn_eq]
    exact honly
  · intro slice s hslice hex hnew hdue
    have hown : (s.modTurning .dist slice Turning.begin_).turning .dist slice = (s.turning .dist slice).begin_ :=
      tget_tmod_eq _ _ _ _
    refine ⟨_, turningStart_dist hslice hex hnew hdue, ?_, ?_, ?_, fun k hk => tget_tmod_ne _ _ _ hk, rfl⟩
    · rw [hown]; rfl
    · rw [hown]; rfl
    · rw [hown]; rfl
  · intro s hslice hex hnew hdue
    obtain ⟨t, ht, honly⟩ := turningStart_die hslice hex hnew hdue
    refine ⟨t, ht, honly.turn_eq, ?_⟩
    rw [honly.turn_eq]
    exact honly

end Sys2Proof.Machine

namespace Sys2Proof.Machine

theorem State.eq_of_parts {s t : State} (htsu : t.tsu = s.tsu) (hdist : t.dist = s.dist) (hrdata : t.rdata = s.rdata)
    (hpending : t.pending = s.pending) : t = s := by
  obtain ⟨_, _, _, _⟩ := s
  obtain ⟨_, _, _, _⟩ := t
  cases htsu; cases hdist; cases hrdata; cases hpending
  rfl

/-! ### Messages to cores (R221, R227, R230)

What a message to a core, or a watch after an operation on its counter, can change of the die. -/

/-- `t` differs from `s` in the die's message queues and watches, in held plate entries, and in what is counted. -/
structure DeliversOnly (s t : State) : Prop where
  frame : t = { s with tsu := { s.tsu with
    b := { s.tsu.b with cnt := t.tsu.b.cnt, perf := t.tsu.b.perf, fr := t.tsu.b.fr }
    die := { s.tsu.die with pba := t.tsu.die.pba, msix := t.tsu.die.msix }
    plate := { s.tsu.plate with armed := t.tsu.plate.armed }
    sync := { s.tsu.sync with outQ := t.tsu.sync.outQ, pend := t.tsu.sync.pend, coreQ := t.tsu.sync.coreQ
                              watches := t.tsu.sync.watches } } }
  armed : s.tsu.plate.armed = [] → t.tsu.plate.armed = []

theorem DeliversOnly.refl (s : State) : DeliversOnly s s := ⟨rfl, id⟩

theorem DeliversOnly.trans {s t u : State} (h : DeliversOnly s t) (k : DeliversOnly t u) : DeliversOnly s u where
  frame := by rw [k.frame, h.frame]
  armed := k.armed ∘ h.armed

theorem DeliversOnly.foldl {α : Type} (f : State → α → State) (h : ∀ s a, DeliversOnly s (f s a)) :
    ∀ (l : List α) (s : State), DeliversOnly s (l.foldl f s)
  | [], s => .refl s
  | a :: l, s => (h s a).trans (DeliversOnly.foldl f h l (f s a))

theorem CountsOnly.delivers {s t : State} (h : CountsOnly .tsu s t) : DeliversOnly s t := by
  obtain ⟨⟨hdist, hrdata, hpending⟩, hbase, htsu, -⟩ := h
  simp only [State.base] at hbase
  refine ⟨?_, fun e => by rw [htsu]; exact e⟩
  refine State.eq_of_parts ?_ hdist hrdata hpending
  rw [htsu, hbase]

theorem deliver1_delivers (core : Nat) (s : State) : DeliversOnly s (deliver1 core s) := by
  have refill : ∀ (t : State) (y : Sync), y = { t.tsu.sync with outQ := y.outQ, pend := y.pend, coreQ := y.coreQ, watches := y.watches } →
      DeliversOnly t (t.modSync fun _ => outRefill y) := by
    intro t y hy
    refine ⟨congrArg (fun z => t.modSync fun _ => z) (?_ : outRefill y = _), id⟩
    unfold outRefill
    split
    · split <;> rw [hy] <;> rfl
    · exact hy
  unfold deliver1
  split
  · exact .refl s
  next m _ =>
    split
    · exact (refill s { s.tsu.sync with outQ := s.tsu.sync.outQ.erase m } rfl).trans (count_counts ..).delivers
    · split
      · have h := refill s { s.tsu.sync with
          outQ := s.tsu.sync.outQ.erase m, coreQ := tmod [] s.tsu.sync.coreQ core (· ++ [m]) } rfl
        dsimp only
        split
        · exact h.trans (hist_counts ..).delivers
        · exact h
      · split
        · exact .refl s
        · refine .trans ?_ (count_counts ..).delivers
          exact ⟨rfl, id⟩

theorem deliver_delivers (core : Nat) (s : State) : DeliversOnly s (deliver core s) :=
  .foldl _ (fun s _ => deliver1_delivers core s) _ s

theorem msgPut_delivers (s : State) (m : Msg) : DeliversOnly s (msgPut s m) := by
  unfold msgPut
  dsimp only
  split
  · exact ⟨rfl, id⟩
  · split
    · refine .trans ?_ (deliver_delivers ..)
      exact ⟨rfl, id⟩
    · exact ⟨rfl, id⟩

theorem watchEval_delivers (c : Nat) (s : State) (w : Nat) : DeliversOnly s (watchEval c s w) := by
  unfold watchEval
  split
  · exact .refl s
  · split
    · exact .refl s
    · dsimp only
      split
      · refine .trans (.trans ?_ (event_counts ..).delivers) (msgPut_delivers ..)
        exact ⟨rfl, id⟩
      · exact ⟨rfl, id⟩

theorem watchesEval_delivers (s : State) (c : Nat) : DeliversOnly s (watchesEval s c) :=
  .foldl _ (watchEval_delivers c) _ s

/-! ### Operations of the die that end (R251, R280, R304, R365 to R369) -/

/-- `t` differs from `s` in what the die's operations hold, and in what is counted; nothing armed and no SIGNAL awaiting its reply
is added where there was none. -/
structure EndsOnly (s t : State) : Prop where
  frame : t = { s with tsu := { s.tsu with
    b := { s.tsu.b with cnt := t.tsu.b.cnt, perf := t.tsu.b.perf, fr := t.tsu.b.fr }
    die := { s.tsu.die with pba := t.tsu.die.pba, msix := t.tsu.die.msix }
    regions := t.tsu.regions, plate := { s.tsu.plate with armed := t.tsu.plate.armed }
    sync := t.tsu.sync, fab := t.tsu.fab, mbs := t.tsu.mbs } }
  armed : s.tsu.plate.armed = [] → t.tsu.plate.armed = []
  sigOut : s.tsu.sync.sigOut = [] → t.tsu.sync.sigOut = []

theorem EndsOnly.refl (s : State) : EndsOnly s s := ⟨rfl, id, id⟩

theorem EndsOnly.trans {s t u : State} (h : EndsOnly s t) (k : EndsOnly t u) : EndsOnly s u where
  frame := by rw [k.frame, h.frame]
  armed := k.armed ∘ h.armed
  sigOut := k.sigOut ∘ h.sigOut

theorem EndsOnly.foldl {α : Type} (f : State → α → State) (h : ∀ s a, EndsOnly s (f s a)) :
    ∀ (l : List α) (s : State), EndsOnly s (l.foldl f s)
  | [], s => .refl s
  | a :: l, s => (h s a).trans (EndsOnly.foldl f h l (f s a))

theorem DeliversOnly.ends {s t : State} (h : DeliversOnly s t) : EndsOnly s t where
  frame := by rw [h.frame]
  armed := h.armed
  sigOut := fun e => by rw [h.frame]; exact e

theorem DeliversOnly.sigOut_eq {s t : State} (h : DeliversOnly s t) : t.tsu.sync.sigOut = s.tsu.sync.sigOut := by
  rw [h.frame]

theorem plateCancel_ends (s : State) (which : Armed → Bool) : EndsOnly s (plateCancel s which) := by
  unfold plateCancel
  dsimp only
  split
  · exact .refl s
  · refine .trans ?_ (count_counts ..).delivers.ends
    exact ⟨rfl, fun e => by simp [State.modPlate, e], id⟩

/-- Cancelling every armed entry leaves none. -/
theorem plateCancel_all_armed (s : State) : (plateCancel s fun _ => true).tsu.plate.armed = [] := by
  unfold plateCancel
  dsimp only
  split
  · rename_i h
    simpa using h
  · exact (count_counts ..).delivers.armed (by simp [State.modPlate])

theorem collectDone_ends (s : State) (d : Desc) (desc : Nat) (n : Step) (st : Status) (x : Fin) :
    EndsOnly s (collectDone s d desc n st x) := by
  have event_if : ∀ (t : State) (c : Bool) (ev : Nat), EndsOnly s t → EndsOnly s (if c = true then t.event .tsu ev (dieFlt t) 1 else t) := by
    intro t c ev ht
    split
    · exact ht.trans (event_counts ..).delivers.ends
    · exact ht
  unfold collectDone
  extract_lets s1 s2 s3
  have h3 : EndsOnly s s3 := by
    have h2 : EndsOnly s s2 := event_if _ _ _ (event_if _ _ _ (.refl s))
    simp only [s3]
    split
    · exact h2.trans (count_counts ..).delivers.ends
    · exact h2
  split
  · exact h3
  · exact h3.trans (msgPut_delivers ..).ends

theorem instEnd_ends (s : State) (i : Inst) (st : Status) (x : Fin) : EndsOnly s (instEnd s i st x) := by
  unfold instEnd
  refine .trans ?_ (collectDone_ends ..)
  exact ⟨rfl, id, id⟩

theorem instsEnd_ends (s : State) (st : Status) : EndsOnly s (instsEnd s st) :=
  .foldl _ (fun s i => instEnd_ends s i st {}) _ s

/-- A SIGNAL that ends frees its entry; the others stay. -/
theorem sigOutDone_sigOut (s : State) (e : SigOut) (st : Status) (v : W32) (planeB unverified : Bool) :
    (sigOutDone s e st v planeB unverified).tsu.sync.sigOut = s.tsu.sync.sigOut.erase e := by
  unfold sigOutDone
  dsimp only
  rw [(msgPut_delivers _ _).sigOut_eq]
  split <;> rfl

theorem sigOutDone_ends (s : State) (e : SigOut) (st : Status) (v : W32) (planeB unverified : Bool) :
    EndsOnly s (sigOutDone s e st v planeB unverified) := by
  unfold sigOutDone
  dsimp only
  refine .trans ?_ (msgPut_delivers ..).ends
  have h : EndsOnly s (s.modSync fun y => { y with sigOut := y.sigOut.erase e }) := ⟨rfl, id, fun k => by simp [State.modSync, k]⟩
  split
  · exact h.trans (event_counts ..).delivers.ends
  · exact h

theorem signalsEnd_ends (s : State) (st : Status) : EndsOnly s (signalsEnd s st) :=
  .foldl _ (fun s e => sigOutDone_ends s e st 0 false false) _ s

/-- Erasing each entry of a list empties it. -/
theorem foldl_erase_self {α : Type} [BEq α] [LawfulBEq α] (l : List α) : l.foldl List.erase l = [] := by
  induction l with
  | nil => rfl
  | cons a l ih => rwa [List.foldl_cons, List.erase_cons_head]

theorem foldl_sigOutDone_sigOut (st : Status) (l : List SigOut) (s : State) :
    (l.foldl (fun s e => sigOutDone s e st 0 false false) s).tsu.sync.sigOut = l.foldl List.erase s.tsu.sync.sigOut := by
  induction l generalizing s with
  | nil => rfl
  | cons e l ih => rw [List.foldl_cons, ih, sigOutDone_sigOut, List.foldl_cons]

/-- No SIGNAL awaits a reply once all have ended. -/
theorem signalsEnd_sigOut (s : State) (st : Status) : (signalsEnd s st).tsu.sync.sigOut = [] := by
  unfold signalsEnd
  rw [foldl_sigOutDone_sigOut, foldl_erase_self]

theorem hallsEnd_ends (s : State) (st : Status) : EndsOnly s (hallsEnd s st) := by
  refine .foldl _ (fun s h => ?_) _ s
  unfold hallEnd
  dsimp only
  refine .trans ?_ (.foldl _ (fun s w => (msgPut_delivers ..).ends) _ _)
  exact ⟨rfl, id, id⟩

theorem cplPost_ends (s : State) (m : Nat) (cp : Completion) : EndsOnly s (cplPost s m cp) := by
  unfold cplPost
  dsimp only
  split
  · exact ⟨rfl, id, id⟩
  · refine .trans ?_ (irq_counts ..).delivers.ends
    exact ⟨rfl, id, id⟩

theorem complete_ends (s : State) (m : Nat) (tag : BitVec 16) (txn : W32) (cp : Completion) :
    EndsOnly s (complete_ s ⟨.tsu, m, tag, txn⟩ cp) := by
  unfold complete_
  extract_lets now found sched s1 s2 s3 s4 s5 s6
  have h1 : EndsOnly s s1 := by
    simp only [s1]
    split
    · exact ⟨rfl, id, id⟩
    · exact .refl s
  have h4 : EndsOnly s s4 := h1.trans (cplPost_ends s1 m cp)
  have h5 : EndsOnly s s5 := h4.trans (event_counts ..).delivers.ends
  have h6 : EndsOnly s s6 := by
    simp only [s6]
    split
    · exact h5.trans (event_counts ..).delivers.ends
    · exact h5
  split
  · exact h6.trans (sample_counts ..).delivers.ends
  · exact h4

theorem ledgerOpsEnd_ends (s : State) (st : Status) : EndsOnly s (ledgerOpsEnd s st) := by
  unfold ledgerOpsEnd
  refine .trans (t := s.modFab fun f => { f with ops := [] }) ⟨rfl, id, id⟩ ?_
  exact .foldl _ (fun s o => complete_ends s ..) _ _

theorem dieOpsEnd_ends (s : State) (st : Status) : EndsOnly s (dieOpsEnd s st) :=
  (((instsEnd_ends s st).trans (signalsEnd_ends ..)).trans (hallsEnd_ends ..)).trans (ledgerOpsEnd_ends ..)

/-- No SIGNAL awaits a reply once the die's operations have ended. -/
theorem dieOpsEnd_sigOut (s : State) (st : Status) : (dieOpsEnd s st).tsu.sync.sigOut = [] :=
  ((hallsEnd_ends ..).trans (ledgerOpsEnd_ends ..)).sigOut (signalsEnd_sigOut ..)

end Sys2Proof.Machine

namespace Sys2Proof.Machine

/-! ### Ports -/

theorem port_modPort (s : State) (p : Part) (i : Nat) (f : Port → Port) : (s.modPort p i f).port p i = f (s.port p i) := by
  unfold State.port State.modPort
  rw [base_modBase]
  exact (tget_tmod ..).trans (if_pos rfl)

theorem port_modPort_ne (s : State) (p : Part) {i j : Nat} (h : j ≠ i) (f : Port → Port) :
    (s.modPort p i f).port p j = s.port p j := by
  unfold State.port State.modPort
  rw [base_modBase]
  exact (tget_tmod ..).trans (if_neg h)

/-! ### The choice of an input (R140, R147 to R149, R153) -/

/-- `t` differs from `s` in part `p`'s loop, not its master count, in what is counted and alerted, and in the other units of the die,
not the planes it has lost. -/
structure ChoiceOnly (p : Part) (s t : State) : Prop where
  part : PartOnly p s t
  base : t.base p = { s.base p with
    t := (t.base p).t, cnt := (t.base p).cnt, perf := (t.base p).perf, fr := (t.base p).fr, hs := (t.base p).hs }
  acc : (t.base p).t.acc = (s.base p).t.acc
  framed : (t.base p).t.framed = (s.base p).t.framed
  planeOff : t.tsu.die.planeOff = s.tsu.die.planeOff

theorem ChoiceOnly.due_eq {p : Part} {s t : State} (h : ChoiceOnly p s t) : (t.base p).due = (s.base p).due := by rw [h.base]

theorem ChoiceOnly.ep_eq {p : Part} {s t : State} (h : ChoiceOnly p s t) : (t.base p).ep = (s.base p).ep := by rw [h.base]

theorem ChoiceOnly.port_eq {p : Part} {s t : State} (h : ChoiceOnly p s t) (i : Nat) : t.port p i = s.port p i := by
  unfold State.port; rw [h.base]; rfl

theorem ChoiceOnly.refl (p : Part) (s : State) : ChoiceOnly p s s := ⟨partOnly_refl p s, rfl, rfl, rfl, rfl⟩

theorem ChoiceOnly.trans {p : Part} {s t u : State} (h : ChoiceOnly p s t) (k : ChoiceOnly p t u) : ChoiceOnly p s u where
  part := partOnly_trans h.part k.part
  base := by rw [k.base, h.base]
  acc := k.acc.trans h.acc
  framed := k.framed.trans h.framed
  planeOff := k.planeOff.trans h.planeOff

theorem CountsOnly.choice {p : Part} {s t : State} (h : CountsOnly p s t) : ChoiceOnly p s t where
  part := h.part
  base := by rw [h.base]
  acc := by rw [h.base]
  framed := by rw [h.base]
  planeOff := by rw [h.tsu]

theorem modTime_choice (s : State) (p : Part) (f : TimeState → TimeState)
    (h : ∀ t, (f t).acc = t.acc ∧ (f t).framed = t.framed) : ChoiceOnly p s (s.modTime p f) where
  part := modBase_partOnly s p _
  base := by unfold State.modTime; rw [base_modBase]
  acc := by unfold State.modTime; rw [base_modBase]; exact (h _).1
  framed := by unfold State.modTime; rw [base_modBase]; exact (h _).2
  planeOff := by cases p <;> rfl

/-- An alert leaves the ports and the loop (R457, R512). -/
theorem alert_choice (s : State) (p : Part) (i : Nat) : ChoiceOnly p s (s.alert p i) := by
  unfold State.alert
  extract_lets first s1 s2
  have h1 : ChoiceOnly p s s1 := by cases p <;> exact ⟨⟨rfl, rfl, rfl⟩, rfl, rfl, rfl, rfl⟩
  have h2 : ChoiceOnly p s s2 := by
    simp only [s2]
    split
    · exact h1.trans (frTrigger_counts ..).choice
    · exact h1
  cases p with
  | tsu =>
    have h3 : ChoiceOnly .tsu s { s2 with tsu.die.alertN := true } := h2.trans ⟨⟨rfl, rfl, rfl⟩, rfl, rfl, rfl, rfl⟩
    dsimp only
    split
    · exact h3
    · exact h3.trans (irq_counts ..).choice
  | dist => exact h2.trans ⟨⟨rfl, rfl, rfl⟩, rfl, rfl, rfl, rfl⟩

theorem EndsOnly.choice {s t : State} (h : EndsOnly s t) : ChoiceOnly .tsu s t := by
  obtain ⟨h, -, -⟩ := h
  constructor
  · exact ⟨by rw [h], by rw [h], by rw [h]⟩
  · show t.tsu.b = _
    rw [h]
    rfl
  · show t.tsu.b.t.acc = _
    rw [h]
    rfl
  · show t.tsu.b.t.framed = _
    rw [h]
    rfl
  · rw [h]

theorem enterTruing_choice (s : State) : ChoiceOnly .tsu s (enterTruing s) := by
  unfold enterTruing
  refine .trans (plateCancel_ends s fun _ => true).choice ?_
  exact ⟨⟨rfl, rfl, rfl⟩, rfl, rfl, rfl, rfl⟩

theorem takeInput_choice (s : State) (p : Part) (i : Nat) (holding : Bool) : ChoiceOnly p s (takeInput s p i holding) := by
  unfold takeInput
  extract_lets t s1 s2
  have h1 : ChoiceOnly p s s1 := by
    cases p with
    | tsu =>
      simp only [s1]
      split
      · exact (event_counts ..).choice
      · exact .refl _ s
    | dist => exact .refl _ s
  have h2 : ChoiceOnly p s s2 := by
    cases p with
    | tsu =>
      simp only [s2]
      split
      · exact h1.trans (enterTruing_choice s1)
      · exact h1
    | dist => exact h1
  refine h2.trans (modTime_choice _ _ _ fun t => ⟨rfl, rfl⟩)

theorem startHold_choice (s : State) (p : Part) : ChoiceOnly p s (startHold s p) := by
  unfold startHold
  extract_lets t s1
  split
  · exact .refl p s
  · have h1 : ChoiceOnly p s s1 := modTime_choice _ _ _ fun t => ⟨rfl, rfl⟩
    cases p with
    | tsu => exact h1
    | dist => exact h1.trans (alert_choice s1 _ _)

theorem chooseInput_choice (s : State) (p : Part) : ChoiceOnly p s (chooseInput s p) := by
  unfold chooseInput
  split
  · exact modTime_choice _ _ _ fun t => ⟨rfl, rfl⟩
  · dsimp only
    split
    · exact takeInput_choice ..
    · split
      · exact startHold_choice ..
      · split
        · exact takeInput_choice ..
        · exact startHold_choice ..

end Sys2Proof.Machine

namespace Sys2Proof.Machine

/-! ### The decisions of a tick (R40, R345) -/

/-- Before its tick no decision is due. -/
theorem execMembershipEffect_of_early {p : Part} {s : State}
    (h : ∀ d ∈ (s.base p).due, tickDiff (tickOf (s.now p)) d.tick < 0) : execMembershipEffect p s = .next s := by
  have hnone : (s.base p).due.filter (fun d => decide (0 ≤ tickDiff (tickOf (s.now p)) d.tick)) = [] := by
    simpa using h
  unfold execMembershipEffect
  dsimp only
  rw [hnone]
  rfl

/-- The state in which the changes of a decision apply: the decision taken from the queue, the epochs of its tick in force, and its
ME (R40, R41). -/
def decisionTaken (s : State) (p : Part) (d : MemberDue) : State :=
  (adoptEpochs (s.modBase p fun b => { b with due := [] }) p).modEp p fun e => { e with me := d.me }

/-- A decision alone in the queue applies its one change at its tick. -/
theorem execMembershipEffect_of_due {p : Part} {s : State} {d : MemberDue} {c : Change} (hdue : (s.base p).due = [d])
    (hchanges : d.changes = [c]) (htick : 0 ≤ tickDiff (tickOf (s.now p)) d.tick) : execMembershipEffect p s =
    .next (match p with
      | .tsu => tsuChange (decisionTaken s .tsu d) c
      | .dist => distChange d.me (decisionTaken s .dist d) c) := by
  have hbase : (s.modBase p fun b => { b with due := b.due.filter fun d' => !decide (0 ≤ tickDiff (tickOf (s.now p)) d'.tick) }) =
      s.modBase p fun b => { b with due := [] } := by
    cases p
    all_goals
      simp only [State.base] at hdue
      simp only [State.modBase, hdue, List.filter_cons, List.filter_nil, htick, decide_true, Bool.not_true]
      rfl
  have hfilter : (s.base p).due.filter (fun d' => decide (0 ≤ tickDiff (tickOf (s.now p)) d'.tick)) = [d] := by
    simp [hdue, htick]
  unfold execMembershipEffect
  dsimp only
  rw [hfilter, hbase]
  cases p <;> simp only [List.isEmpty_cons, List.foldl_cons, List.foldl_nil, hchanges] <;> rfl

/-- What a decision taken changes before its change applies. -/
structure TakenOnly (p : Part) (d : MemberDue) (s t : State) : Prop where
  part : PartOnly p s t
  base : t.base p = { s.base p with due := [], ep := (t.base p).ep }
  me : (t.base p).ep.me = d.me
  tsu : t.tsu = { s.tsu with b := t.tsu.b }
  dist : t.dist = { s.dist with b := t.dist.b }

theorem decisionTaken_only (s : State) (p : Part) (d : MemberDue) : TakenOnly p d s (decisionTaken s p d) := by
  unfold decisionTaken adoptEpochs State.modEp
  cases p <;> exact ⟨⟨rfl, rfl, rfl⟩, rfl, rfl, rfl, rfl⟩

/-! ### A change at a die (R344, R348, R357, R367) -/

/-- A change at the die leaves its decisions and epochs. -/
structure ChangeOnly (s t : State) : Prop where
  part : TsuOnly s t
  due : t.tsu.b.due = s.tsu.b.due
  ep : t.tsu.b.ep = s.tsu.b.ep

theorem ChangeOnly.refl (s : State) : ChangeOnly s s := ⟨⟨rfl, rfl, rfl⟩, rfl, rfl⟩

theorem ChangeOnly.trans {s t u : State} (h : ChangeOnly s t) (k : ChangeOnly t u) : ChangeOnly s u where
  part := partOnly_trans (p := .tsu) h.part k.part
  due := k.due.trans h.due
  ep := k.ep.trans h.ep

theorem ChoiceOnly.change {s t : State} (h : ChoiceOnly .tsu s t) : ChangeOnly s t where
  part := h.part
  due := h.due_eq
  ep := h.ep_eq

theorem dieChange_only (s : State) (state : Nat) : ChangeOnly s (dieChange s state) := by
  have modDie_only : ∀ (t : State) (f : Die → Die), ChangeOnly t (t.modDie f) := fun _ _ => ⟨⟨rfl, rfl, rfl⟩, rfl, rfl⟩
  unfold dieChange
  split
  · exact modDie_only ..
  · exact modDie_only ..
  · refine .trans (.trans ?_ (plateCancel_ends ..).choice.change) (dieOpsEnd_ends ..).choice.change
    exact modDie_only ..
  · split
    · exact (enterTruing_choice s).change
    · exact .refl s
  · exact (plateCancel_ends ..).choice.change.trans (modDie_only ..)
  · exact .refl s

theorem planeLost_only (s : State) (k : Nat) : ChangeOnly s (planeLost s k) := by
  unfold planeLost
  extract_lets s1
  have h1 : ChangeOnly s s1 := ⟨⟨rfl, rfl, rfl⟩, rfl, rfl⟩
  split
  · exact h1.trans (chooseInput_choice ..).change
  · exact h1

theorem tsuChange_only (s : State) (c : Change) : ChangeOnly s (tsuChange s c) := by
  unfold tsuChange
  split
  · exact dieChange_only ..
  · split
    · split
      · exact ⟨⟨rfl, rfl, rfl⟩, rfl, rfl⟩
      · exact .refl s
    · split
      · exact .refl s
      · split
        · exact planeLost_only ..
        · split
          · unfold planeFound
            dsimp only
            split <;> exact ⟨⟨rfl, rfl, rfl⟩, rfl, rfl⟩
          · exact .refl s

/-- A quarantined die is no member, nothing of it is armed and no SIGNAL awaits its reply (R344, R367). -/
theorem dieChange_quarantine (s : State) : let t := dieChange s 2
    t.tsu.die.quar = true ∧ t.tsu.die.member = false ∧ t.tsu.plate.armed = [] ∧ t.tsu.sync.sigOut = [] := by
  intro t
  have hcancel := plateCancel_ends (s.modDie fun d => { d with quar := true, member := false }) fun _ => true
  have h := hcancel.trans (dieOpsEnd_ends _ .quarantined)
  refine ⟨?_, ?_, ?_, dieOpsEnd_sigOut _ _⟩
  · exact congrArg (·.tsu.die.quar) h.frame
  · exact congrArg (·.tsu.die.member) h.frame
  · exact (dieOpsEnd_ends _ _).armed (plateCancel_all_armed _)

/-- A parting die is PARTED, no member, and nothing of it is armed (R367). -/
theorem dieChange_parting (s : State) : let t := dieChange s 7
    t.tsu.die.member = false ∧ t.tsu.plate.armed = [] ∧ (s.tsu.die.state = .parting → t.tsu.die.state = .parted) := by
  intro t
  have hstate : (plateCancel s fun _ => true).tsu.die.state = s.tsu.die.state :=
    congrArg (·.tsu.die.state) (plateCancel_ends s fun _ => true).frame
  refine ⟨rfl, plateCancel_all_armed s, fun h => ?_⟩
  show (if (plateCancel s fun _ => true).tsu.die.state == .parting then _ else _) = _
  rw [hstate, h]
  rfl

/-- A plane lost is marked, blocked and not usable, whatever input is then chosen (R140, R348). -/
theorem planeLost_blocked {s : State} {k : Nat} (hk : k < 4) : let t := planeLost s k
    t.tsu.die.planeOff.getLsbD k = true ∧ (t.port .tsu (k % 2)).mark.blocked = true ∧
    (t.port .tsu (k % 2)).mark.usable = false := by
  intro t
  have choice_kept : ∀ u v : State, ChoiceOnly .tsu u v → u.tsu.die.planeOff.getLsbD k = true ∧
      (u.port .tsu (k % 2)).mark.blocked = true ∧ (u.port .tsu (k % 2)).mark.usable = false →
      v.tsu.die.planeOff.getLsbD k = true ∧ (v.port .tsu (k % 2)).mark.blocked = true ∧
      (v.port .tsu (k % 2)).mark.usable = false := by
    intro u v h hu
    have hport : v.port .tsu (k % 2) = u.port .tsu (k % 2) := h.port_eq (k % 2)
    rwa [h.planeOff, hport]
  simp only [t]
  unfold planeLost
  extract_lets s1
  have h1 : s1.tsu.die.planeOff.getLsbD k = true ∧ (s1.port .tsu (k % 2)).mark.blocked = true ∧
      (s1.port .tsu (k % 2)).mark.usable = false := by
    have hport : s1.port .tsu (k % 2) = _ := port_modPort ..
    rw [hport]
    refine ⟨?_, rfl, rfl⟩
    show (s.tsu.die.planeOff ||| BitVec.ofNat 4 (2 ^ k)).getLsbD k = true
    interval_cases k <;> simp
  split
  · exact choice_kept _ _ (chooseInput_choice ..) h1
  · exact h1

theorem planeBit_lt {s : State} {n : Node} {k : Nat} (h : planeBit s n = some k) : k < 4 := by
  have hbit : bit (nodePlaneB n) < 2 := by unfold bit; split <;> decide
  unfold planeBit at h
  dsimp only at h
  split at h
  · obtain rfl := Option.some.inj h
    omega
  · split at h
    · obtain rfl := Option.some.inj h
      omega
    · exact absurd h (by simp)

/-- MEMBERSHIP_EFFECT at a die, a decision of one change alone in the queue. -/
theorem membershipEffect_tsu {c : Change} {d : MemberDue} {s : State} (hdue : s.tsu.b.due = [d]) (hchanges : d.changes = [c])
    (htick : 0 ≤ tickDiff (tickOf (s.now .tsu)) d.tick) : Completes (.membershipEffect .tsu) s fun t =>
      t.tsu.b.due = [] ∧ t.tsu.b.ep.me = d.me ∧
      (c.node = s.node .tsu → c.state = 0 → t.tsu.die.member = true ∧ t.tsu.die.suspect = false) ∧
      (c.node = s.node .tsu → c.state = 2 → t.tsu.die.quar = true ∧ t.tsu.die.member = false ∧ t.tsu.plate.armed = [] ∧
        t.tsu.sync.sigOut = []) ∧
      (c.node = s.node .tsu → c.state = 7 → t.tsu.die.member = false ∧ t.tsu.plate.armed = [] ∧
        (s.tsu.die.state = .parting → t.tsu.die.state = .parted)) ∧
      (∀ k, c.node ≠ s.node .tsu → nodeKind c.node ≠ 0 → planeBit s c.node = some k → c.state = 3 ∨ c.state = 4 ∨ c.state = 6 →
        t.tsu.die.planeOff.getLsbD k = true ∧ (t.port .tsu (k % 2)).mark.blocked = true ∧
        (t.port .tsu (k % 2)).mark.usable = false) ∧ TsuOnly s t := by
  refine ⟨_, execMembershipEffect_of_due (p := .tsu) hdue hchanges htick, ?_⟩
  have htaken := decisionTaken_only s .tsu d
  generalize decisionTaken s .tsu d = s1 at htaken
  have hnode : s1.node .tsu = s.node .tsu := (congrArg (fun b : Base => b.node.getD 0xFFFFFF) htaken.base :)
  have hbit : ∀ n, planeBit s1 n = planeBit s n := fun n => by unfold planeBit; rw [hnode]
  have hdie : s1.tsu.die = s.tsu.die := by rw [htaken.tsu]
  have hchange := tsuChange_only s1 c
  have own : c.node = s.node .tsu → tsuChange s1 c = dieChange s1 c.state := fun h => by
    unfold tsuChange; rw [if_pos (h.trans hnode.symm)]
  refine ⟨?_, ?_, ?_, ?_, ?_, ?_, partOnly_trans (p := .tsu) htaken.part hchange.part⟩
  · rw [hchange.due]
    exact (congrArg Base.due htaken.base :)
  · rw [hchange.ep]
    exact htaken.me
  · intro h hstate
    rw [own h, hstate]
    exact ⟨rfl, rfl⟩
  · intro h hstate
    rw [own h, hstate]
    exact dieChange_quarantine s1
  · intro h hstate
    rw [own h, hstate, ← hdie]
    exact dieChange_parting s1
  · intro k hne hkind hplane hstate
    have h : tsuChange s1 c = planeLost s1 k := by
      unfold tsuChange
      rw [if_neg (by rwa [hnode]), if_neg hkind, hbit, hplane]
      rcases hstate with h | h | h <;> simp [h]
    rw [h]
    exact planeLost_blocked (planeBit_lt hplane)

/-! ### A decision that is told (R338, R345) -/

theorem dueAdd_of_empty {b : Base} (h : b.due = []) (cs : List Change) (me : Epoch) (k : Tick) :
    dueAdd b cs me k = { b with due := [{ changes := cs, me, tick := k, decided := tickOf b.now }] } := by
  unfold dueAdd
  rw [h]
  rfl

/-- A die keeps a decision that it is told by a fresh VOTE. -/
theorem memberReceive_tsu {port : Nat} {cs : List Change} {me : Epoch} {k : Tick} {v : Vote} {s : State} (hport : port < 2)
    (hbody : v.body = .member cs me k) (hdue : s.tsu.b.due = []) : exec (.memberReceive .tsu port v) s =
    .next (if voteFresh s .tsu v = true then
      { s with tsu.b.due := [{ changes := cs, me, tick := k, decided := tickOf (s.now .tsu) }] } else s) := by
  unfold exec execMemberReceive
  refine onPort_next.mpr ⟨hport, ?_⟩
  dsimp only
  rw [hbody]
  refine if_congr Iff.rfl ?_ rfl
  exact congrArg (fun b => { s with tsu.b := b }) (dueAdd_of_empty hdue cs me k).symm

/-- A distributor keeps a decision that it is told by a VOTE it takes. -/
theorem memberReceive_dist {port : Nat} {cs : List Change} {me : Epoch} {k : Tick} {v : Vote} {s u : State} (hport : port < 128)
    (hbody : v.body = .member cs me k) (hvote : voteIn s port v = (u, true)) (hdue : u.dist.b.due = []) :
    exec (.memberReceive .dist port v) s =
      .next { u with dist.b.due := [{ changes := cs, me, tick := k, decided := tickOf (u.now .dist) }] } := by
  unfold exec execMemberReceive
  refine onPort_next.mpr ⟨hport, ?_⟩
  dsimp only
  rw [hvote, hbody]
  exact congrArg (fun b => { u with dist.b := b }) (dueAdd_of_empty hdue cs me k).symm

end Sys2Proof.Machine

namespace Sys2Proof.Machine

/-! ### What sending leaves of a port -/

/-- `t` differs from `s`, as far as part `p`'s ports go, in what waits to be sent. -/
structure TxOnly (p : Part) (s t : State) : Prop where
  port : ∀ i, t.port p i = { s.port p i with tx := (t.port p i).tx }

theorem TxOnly.refl (p : Part) (s : State) : TxOnly p s s := ⟨fun _ => rfl⟩

theorem TxOnly.trans {p : Part} {s t u : State} (h : TxOnly p s t) (k : TxOnly p t u) : TxOnly p s u :=
  ⟨fun i => by rw [k.port i, h.port i]⟩

theorem TxOnly.of_port_eq {p : Part} {s t : State} (h : ∀ i, t.port p i = s.port p i) : TxOnly p s t := ⟨fun i => by rw [h i]⟩

theorem TxOnly.foldl {α : Type} {p : Part} (f : State → α → State) (h : ∀ s a, TxOnly p s (f s a)) :
    ∀ (l : List α) (s : State), TxOnly p s (l.foldl f s)
  | [], s => .refl p s
  | a :: l, s => (h s a).trans (TxOnly.foldl f h l (f s a))

theorem CountsOnly.port_eq {p : Part} {s t : State} (h : CountsOnly p s t) (i : Nat) : t.port p i = s.port p i := by
  unfold State.port
  rw [h.base]
  rfl

theorem CountsOnly.tx {p : Part} {s t : State} (h : CountsOnly p s t) : TxOnly p s t := .of_port_eq h.port_eq

theorem ChoiceOnly.tx {p : Part} {s t : State} (h : ChoiceOnly p s t) : TxOnly p s t := .of_port_eq h.port_eq

theorem modPort_tx (s : State) (p : Part) (i : Nat) {f : Port → Port} (h : ∀ q, f q = { q with tx := (f q).tx }) :
    TxOnly p s (s.modPort p i f) := ⟨fun j => by
  by_cases hj : j = i
  · subst hj
    rw [port_modPort]
    exact h _
  · rw [port_modPort_ne s p hj]⟩

theorem sendP1_tx (s : State) (p : Part) (i : Nat) (c : OutCell) : TxOnly p s (sendP1 s p i c) := by
  unfold sendP1
  dsimp only
  split
  · rename_i h
    obtain rfl : p = .dist := by cases p <;> simp_all
    exact (count_counts ..).tx
  · refine .trans (modPort_tx s p i ?_) (maxCtr_counts ..).tx
    exact fun _ => rfl

theorem sendVote_tx (s : State) (p : Part) (i : Nat) (v : Vote) : TxOnly p s (sendVote s p i v) := by
  unfold sendVote
  dsimp only
  split
  · exact modPort_tx _ _ _ fun _ => rfl
  · refine .trans (modPort_tx s p i ?_) (sendP1_tx ..)
    exact fun _ => rfl

theorem sendVotes_tx (s : State) (p : Part) (is : List Nat) (v : Vote) : TxOnly p s (sendVotes s p is v) :=
  .foldl _ (fun s i => sendVote_tx s p i v) is s

theorem sendMgmt_tx (s : State) (p : Part) (i : Nat) (c : OutCell) : TxOnly p s (sendMgmt s p i c) := by
  unfold sendMgmt
  dsimp only
  split
  · refine .trans (modPort_tx s p i ?_) (modPort_tx _ _ _ ?_)
    all_goals exact fun _ => rfl
  · split
    · refine .trans (modPort_tx s p i ?_) (count_counts ..).tx
      exact fun _ => rfl
    · exact (count_counts ..).tx

theorem mgmt_tx (s : State) (p : Part) (dst : Node) (b : MgmtBody) : TxOnly p s (mgmt s p dst b) := by
  unfold mgmt
  dsimp only
  refine .trans (.of_port_eq fun i => ?_) (.foldl _ (fun s i => sendMgmt_tx s p i _) _ _)
  unfold State.port
  rw [base_modBase]
  rfl

/-- A report entered in the tally changes the records of parts alone (R339). -/
theorem tallyPut_eq (s : State) (src : Node) (at_ : St) (r : Report) :
    tallyPut s src at_ r = { s with dist.mem.nodes := (tallyPut s src at_ r).dist.mem.nodes } := by
  unfold tallyPut
  dsimp only
  split
  · rfl
  · split
    · rfl
    · split <;> rfl

theorem raise_tx (s : State) (p : Part) (accused : Node) (hard split_ : Bool) (cause : Nat) (x : Ctx) :
    TxOnly p s (raise s p accused hard split_ cause x) := by
  unfold raise
  extract_lets q r v s1 s2 s3
  have h2 : TxOnly p s s2 := (fr_counts s p 1 _ hard).tx.trans (sendVotes_tx ..)
  have h3 : TxOnly p s s3 := by
    simp only [s3]
    split
    · exact h2.trans (alert_choice ..).tx
    · exact h2
  split
  · rename_i h
    obtain rfl : p = .dist := by cases p <;> simp_all
    refine h3.trans (.of_port_eq fun i => ?_)
    rw [tallyPut_eq]
    rfl
  · exact h3

/-! ### What leaves a part's time, its epochs and what its ports receive -/

/-- `t` keeps of part `p` what a tick is framed by: its node, its master count, the tick framed, CE and ME, and of its ports
everything but what waits to be sent. -/
structure TickKeeps (p : Part) (s t : State) : Prop where
  part : PartOnly p s t
  node : (t.base p).node = (s.base p).node
  acc : (t.base p).t.acc = (s.base p).t.acc
  framed : (t.base p).t.framed = (s.base p).t.framed
  ce : (t.base p).ep.ce = (s.base p).ep.ce
  me : (t.base p).ep.me = (s.base p).ep.me
  tx : TxOnly p s t

theorem TickKeeps.refl (p : Part) (s : State) : TickKeeps p s s := ⟨partOnly_refl p s, rfl, rfl, rfl, rfl, rfl, .refl p s⟩

theorem TickKeeps.trans {p : Part} {s t u : State} (h : TickKeeps p s t) (k : TickKeeps p t u) : TickKeeps p s u where
  part := partOnly_trans h.part k.part
  node := k.node.trans h.node
  acc := k.acc.trans h.acc
  framed := k.framed.trans h.framed
  ce := k.ce.trans h.ce
  me := k.me.trans h.me
  tx := h.tx.trans k.tx

theorem TickKeeps.foldl {α : Type} {p : Part} (f : State → α → State) (h : ∀ s a, TickKeeps p s (f s a)) :
    ∀ (l : List α) (s : State), TickKeeps p s (l.foldl f s)
  | [], s => .refl p s
  | a :: l, s => (h s a).trans (TickKeeps.foldl f h l (f s a))

theorem ReportsOnly.tick {p : Part} {s t : State} (h : ReportsOnly p s t) (k : TxOnly p s t) : TickKeeps p s t where
  part := h.part
  node := by rw [h.base]
  acc := by rw [h.base]
  framed := by rw [h.base]
  ce := by rw [h.base]
  me := by rw [h.base]
  tx := k

theorem ChoiceOnly.tick {p : Part} {s t : State} (h : ChoiceOnly p s t) : TickKeeps p s t where
  part := h.part
  node := by rw [h.base]
  acc := h.acc
  framed := h.framed
  ce := by rw [h.base]
  me := by rw [h.base]
  tx := h.tx

/-! ### What the roots send and decide of one another -/

/-- `t` keeps what a tick of the distributor is framed by, the records of the parts, and its own service state. -/
structure VotesOnly (s t : State) : Prop extends TickKeeps .dist s t where
  nodes : t.dist.mem.nodes = s.dist.mem.nodes
  state : t.dist.sv.state = s.dist.sv.state

theorem VotesOnly.refl (s : State) : VotesOnly s s := ⟨.refl _ s, rfl, rfl⟩

theorem VotesOnly.trans {s t u : State} (h : VotesOnly s t) (k : VotesOnly t u) : VotesOnly s u :=
  ⟨h.toTickKeeps.trans k.toTickKeeps, k.nodes.trans h.nodes, k.state.trans h.state⟩

theorem VotesOnly.foldl {α : Type} (f : State → α → State) (h : ∀ s a, VotesOnly s (f s a)) :
    ∀ (l : List α) (s : State), VotesOnly s (l.foldl f s)
  | [], s => .refl s
  | a :: l, s => (h s a).trans (VotesOnly.foldl f h l (f s a))

theorem CountsOnly.votes {s t : State} (h : CountsOnly .dist s t) : VotesOnly s t :=
  ⟨h.sends.reports.tick h.tx, by rw [h.dist], by rw [h.dist]⟩

theorem modMem_votes {s : State} {f : Membership → Membership} (h : (f s.dist.mem).nodes = s.dist.mem.nodes) :
    VotesOnly s (s.modMem f) :=
  ⟨⟨⟨rfl, rfl, rfl⟩, rfl, rfl, rfl, rfl, rfl, ⟨fun _ => rfl⟩⟩, h, rfl⟩

theorem modSv_votes {s : State} {f : Service → Service} (h : (f s.dist.sv).state = s.dist.sv.state) : VotesOnly s (s.modSv f) :=
  ⟨⟨⟨rfl, rfl, rfl⟩, rfl, rfl, rfl, rfl, rfl, ⟨fun _ => rfl⟩⟩, rfl, h⟩

theorem modEp_votes {s : State} {f : Epochs → Epochs} (hce : (f s.dist.b.ep).ce = s.dist.b.ep.ce)
    (hme : (f s.dist.b.ep).me = s.dist.b.ep.me) : VotesOnly s (s.modEp .dist f) :=
  ⟨⟨⟨rfl, rfl, rfl⟩, rfl, rfl, rfl, hce, hme, ⟨fun _ => rfl⟩⟩, rfl, rfl⟩

theorem sendVotes_votes (s : State) (is : List Nat) (v : Vote) : VotesOnly s (sendVotes s .dist is v) :=
  have h := sendVotes_sends s .dist is v
  ⟨h.reports.tick (sendVotes_tx ..), by rw [h.dist], by rw [h.dist]⟩

theorem mgmt_dist (s : State) (dst : Node) (b : MgmtBody) :
    (mgmt s .dist dst b).dist = { s.dist with b := (mgmt s .dist dst b).dist.b } := by
  unfold mgmt
  dsimp only
  exact (SendsOnly.foldl _ (fun s i => sendMgmt_sends s .dist i _) _ _).dist

theorem mgmt_votes (s : State) (dst : Node) (b : MgmtBody) : VotesOnly s (mgmt s .dist dst b) :=
  ⟨(mgmt_reports ..).tick (mgmt_tx ..), by rw [mgmt_dist], by rw [mgmt_dist]⟩

theorem alert_votes (s : State) (i : Nat) : VotesOnly s (s.alert .dist i) := by
  unfold State.alert
  extract_lets first s1 s2
  have h1 : VotesOnly s s1 := ⟨⟨⟨rfl, rfl, rfl⟩, rfl, rfl, rfl, rfl, rfl, ⟨fun _ => rfl⟩⟩, rfl, rfl⟩
  have h2 : VotesOnly s s2 := by
    simp only [s2]
    split
    · exact h1.trans (frTrigger_counts ..).votes
    · exact h1
  refine h2.trans ?_
  exact ⟨⟨⟨rfl, rfl, rfl⟩, rfl, rfl, rfl, rfl, rfl, ⟨fun _ => rfl⟩⟩, rfl, rfl⟩

theorem announceVote_votes (s : State) (b : VoteBody) : VotesOnly s (announceVote s b) := sendVotes_votes ..

theorem sendOwnVote_votes (s : State) (dst : Node) (b : VoteBody) : VotesOnly s (sendOwnVote s dst b) := by
  unfold sendOwnVote
  dsimp only
  split
  · exact (sendVotes_votes ..).trans (.foldl _ (fun s n => sendVotes_votes ..) _ _)
  · exact sendVotes_votes ..

theorem announceLeader_votes (s : State) (r : Nat) : VotesOnly s (announceLeader s r) := modEp_votes rfl rfl

theorem memberVotes_votes (me : Epoch) (k : Tick) : ∀ (n : Nat) (cs : List Change) (s : State),
    VotesOnly s (memberVotes s n cs me k)
  | 0, _, s => .refl s
  | n + 1, cs, s => by
    unfold memberVotes
    split
    · exact .refl s
    · exact (announceVote_votes ..).trans (memberVotes_votes me k n _ _)

theorem announceMembers_votes (s : State) (cs : List Change) : VotesOnly s (announceMembers s cs) := by
  unfold announceMembers
  extract_lets n e
  split
  · split
    · refine .trans ?_ (memberVotes_votes ..)
      exact ⟨⟨⟨rfl, rfl, rfl⟩, rfl, rfl, rfl, rfl, rfl, ⟨fun _ => rfl⟩⟩, rfl, rfl⟩
    · exact modMem_votes rfl
  · exact modMem_votes rfl
  · extract_lets s1 s2 s3
    have h1 : VotesOnly s s1 := modEp_votes rfl rfl
    have h2 : VotesOnly s s2 := h1.trans ⟨⟨⟨rfl, rfl, rfl⟩, rfl, rfl, rfl, rfl, rfl, ⟨fun _ => rfl⟩⟩, rfl, rfl⟩
    have h3 : VotesOnly s s3 := h2.trans (memberVotes_votes ..)
    split
    · exact h3.trans (announceLeader_votes ..)
    · exact h3

theorem decided_votes (s : State) (c : Change) : VotesOnly s (decided s c) := by
  unfold decided
  extract_lets s1
  have h1 : VotesOnly s s1 := modMem_votes rfl
  split
  · exact h1.trans (modMem_votes rfl)
  · split
    · exact h1.trans (announceMembers_votes ..)
    · exact h1

theorem voteFor_votes (s : State) (root : Node) (c : Change) : VotesOnly s (voteFor s root c) := by
  unfold voteFor
  split
  · exact .refl s
  · extract_lets same old new s1
    have h1 : VotesOnly s s1 := modMem_votes rfl
    split
    · exact h1.trans (decided_votes ..)
    · exact h1

theorem propose_votes (s : State) (c : Change) : VotesOnly s (propose s c) := by
  unfold propose
  split
  · exact .refl s
  · exact (sendOwnVote_votes ..).trans (voteFor_votes ..)

/-- A completion at a distributor goes back to the part that sent the command (R390). -/
theorem complete_votes (s : State) (m : Nat) (tag : BitVec 16) (txn : W32) (cp : Completion) :
    VotesOnly s (complete_ s ⟨.dist, m, tag, txn⟩ cp) := by
  unfold complete_
  extract_lets now found sched s1 s2 s3 s4 s5 s6
  have h2 : VotesOnly s s2 := modSv_votes rfl
  have h3 : VotesOnly s s3 := by
    simp only [s3]
    generalize found = o
    cases o with
    | none => exact h2
    | some x => exact h2.trans (mgmt_votes ..)
  have h4 : VotesOnly s s4 := by
    simp only [s4]
    split
    · exact h3.trans (modSv_votes rfl)
    · exact h3
  have h5 : VotesOnly s s5 := h4.trans (event_counts ..).votes
  have h6 : VotesOnly s s6 := by
    simp only [s6]
    split
    · exact h5.trans (event_counts ..).votes
    · exact h5
  split
  · exact h6.trans (sample_counts ..).votes
  · exact h4

theorem done_votes (s : State) (c : Cmd) (op : Nat) (st : Status) : VotesOnly s (done s (ofPart .dist c) op st) := complete_votes ..

theorem doneR_votes (s : State) (c : Cmd) (op : Nat) (st : Status) (a b d : W64) :
    VotesOnly s (doneR s (ofPart .dist c) op st a b d) := complete_votes ..

end Sys2Proof.Machine

namespace Sys2Proof.Machine

/-! ### A change at a distributor (R344, R347, R348, R370 to R375) -/

/-- `t` keeps the distributor's node, the records of the parts and its own service state. -/
structure RecordsKept (s t : State) : Prop where
  part : DistOnly s t
  node : t.dist.b.node = s.dist.b.node
  nodes : t.dist.mem.nodes = s.dist.mem.nodes
  state : t.dist.sv.state = s.dist.sv.state

theorem RecordsKept.refl (s : State) : RecordsKept s s := ⟨⟨rfl, rfl, rfl⟩, rfl, rfl, rfl⟩

theorem RecordsKept.trans {s t u : State} (h : RecordsKept s t) (k : RecordsKept t u) : RecordsKept s u where
  part := partOnly_trans (p := .dist) h.part k.part
  node := k.node.trans h.node
  nodes := k.nodes.trans h.nodes
  state := k.state.trans h.state

theorem RecordsKept.foldl {α : Type} (f : State → α → State) (h : ∀ s a, RecordsKept s (f s a)) :
    ∀ (l : List α) (s : State), RecordsKept s (l.foldl f s)
  | [], s => .refl s
  | a :: l, s => (h s a).trans (RecordsKept.foldl f h l (f s a))

theorem VotesOnly.records {s t : State} (h : VotesOnly s t) : RecordsKept s t := ⟨h.part, h.node, h.nodes, h.state⟩

theorem SendsOnly.records {s t : State} (h : SendsOnly .dist s t) : RecordsKept s t :=
  ⟨h.part, (congrArg Base.node h.base :), by rw [h.dist], by rw [h.dist]⟩

theorem CountsOnly.records {s t : State} (h : CountsOnly .dist s t) : RecordsKept s t := h.sends.records

theorem modFabric_records (s : State) (f : Fabric → Fabric) : RecordsKept s (s.modFabric f) := ⟨⟨rfl, rfl, rfl⟩, rfl, rfl, rfl⟩

/-! #### Barrier records and posts that lose a position -/

theorem bars_records (s : State) (l : List BarRec) : RecordsKept s { s with dist.fab.bars := l } :=
  ⟨⟨rfl, rfl, rfl⟩, rfl, rfl, rfl⟩

theorem sendBar_records (s : State) (b : BarRec) (body : Body) (ports : List Nat) : RecordsKept s (sendBar s b body ports) :=
  (SendsOnly.foldl _ (fun s i => sendP1_sends s .dist i _) ports s).records

theorem barFree_records (s : State) (b : BarRec) : RecordsKept s (barFree s b) :=
  (bars_records s _).trans (hist_counts ..).records

theorem barAdvance_records (s : State) (b : BarRec) : RecordsKept s (barAdvance s b) := by
  unfold barAdvance
  split
  · exact .refl s
  · dsimp only
    split
    · exact (sendBar_records ..).trans (barFree_records ..)
    · exact (bars_records ..).trans (sendBar_records ..)

theorem sampleHand_records (s : State) (q : Post) : RecordsKept s (sampleHand s q) := by
  unfold sampleHand
  split
  · exact .refl s
  · exact ⟨⟨rfl, rfl, rfl⟩, rfl, rfl, rfl⟩

theorem postFree_records (s : State) (q : Post) : RecordsKept s (postFree s q) := by
  unfold postFree keyPut
  extract_lets s1 h s2
  have h2 : RecordsKept s s2 := (modFabric_records ..).trans (modFabric_records ..)
  exact h2.trans (hist_counts ..).records

theorem postClose_records (s : State) (q q' : Post) : RecordsKept s (postClose s q q') := by
  unfold postClose keepRecord putPost
  extract_lets _ s1
  have h1 : RecordsKept s s1 := (modFabric_records ..).trans (modFabric_records ..)
  split
  · exact (h1.trans (sampleHand_records ..)).trans (postFree_records ..)
  · exact h1

theorem postFlush_records (s : State) (q : Post) (fin : Bool) : RecordsKept s (postFlush s q fin).1 := by
  refine SendsOnly.records (.foldl _ (fun s x => ?_) _ s)
  exact .foldl _ (fun s i => sendP2_sends ..) _ s

theorem postAdvance_records (s : State) (q : Post) : RecordsKept s (postAdvance s q) := by
  unfold postAdvance
  split
  · exact .refl s
  · dsimp only
    split
    · exact (postFlush_records ..).trans (postClose_records ..)
    · split
      · exact (postFlush_records ..).trans (postClose_records ..)
      · exact (postFlush_records ..).trans (modFabric_records ..)

theorem postsClear_records (s : State) (gone : Plane → Nat → Bool) : RecordsKept s (postsClear s gone) := by
  refine .foldl _ (fun s q => ?_) _ s
  unfold postRemove
  split
  · exact .refl s
  · exact (modFabric_records ..).trans (postAdvance_records ..)

theorem recordsClear_records (s : State) (pos : Nat) : RecordsKept s (recordsClear s pos) := by
  unfold recordsClear
  refine .trans (.foldl _ (fun s b => ?_) _ s) (postsClear_records ..)
  refine .trans ?_ (barAdvance_records ..)
  exact bars_records ..

/-! #### Ports that go down and come back -/

theorem rootLostCheck_records (s : State) (port : Nat) : RecordsKept s (rootLostCheck s port) := by
  unfold rootLostCheck
  extract_lets r s1 left s2
  have h1 : RecordsKept s s1 := ⟨⟨rfl, rfl, rfl⟩, rfl, rfl, rfl⟩
  have h2 : RecordsKept s s2 := h1.trans (sendVotes_votes ..).records
  split
  · exact .refl s
  · split
    · exact .refl s
    · split
      · exact h2.trans ⟨⟨rfl, rfl, rfl⟩, rfl, rfl, rfl⟩
      · exact h2

theorem setLink_records (s : State) (i : Nat) (x : LinkState) : RecordsKept s (setLink s .dist i x) := by
  unfold setLink
  extract_lets old now s1 s2
  have h2 : RecordsKept s s2 := (modPort_sends ..).records.trans (fr_counts ..).records
  split
  · exact .refl s
  · split
    · exact h2.trans (rootLostCheck_records ..)
    · exact h2

theorem modLink_records (s : State) (i : Nat) (f : Link → Link) : RecordsKept s (s.modLink .dist i f) := (modPort_sends ..).records

theorem portsDown_records (s : State) (is : List Nat) : RecordsKept s (portsDown s is) :=
  .foldl _ (fun _ _ => .trans (.trans (modPort_sends ..).records (setLink_records ..)) (modPort_sends ..).records) is s

theorem portsBack_records (s : State) (is : List Nat) : RecordsKept s (portsBack s is) := by
  refine .foldl _ (fun s i => .trans (modLink_records s i fun k => { k with enable := true }) ?_) is s
  unfold tryTrain
  dsimp only
  split
  · exact (setLink_records ..).trans (modPort_sends ..).records
  · exact .refl _

/-! #### The steps of a change -/

theorem dieClear_records (s : State) (pos : Nat) (maps : Bool) : RecordsKept s (dieClear s pos maps) :=
  (modFabric_records ..).trans (recordsClear_records ..)

theorem distExclude_records (s : State) (pos : Nat) (all : Bool) : RecordsKept s (distExclude s pos all) := by
  unfold distExclude
  extract_lets g s1
  have h1 : RecordsKept s s1 := modFabric_records ..
  split
  · exact h1.trans (recordsClear_records ..)
  · exact h1

theorem belowChange_records (s : State) (c : Change) : RecordsKept s (belowChange s c) := by
  unfold belowChange
  split
  · exact .refl s
  · split
    · split
      · exact dieClear_records ..
      · exact dieClear_records ..
      · exact .refl s
    · split
      · unfold distAdmit
        exact modFabric_records ..
      · exact (distExclude_records ..).trans (portsDown_records ..)
      · exact distExclude_records ..
      · exact portsBack_records ..
      · exact distExclude_records ..
      · exact .refl s

theorem sisterNotice_records (s : State) (c : Change) (me : Epoch) : RecordsKept s (sisterNotice s c me) := by
  unfold sisterNotice
  split
  · exact (sendVotes_votes ..).records
  · exact .refl s

theorem offer_votes (s : State) (i : Nat) (n : Node) : VotesOnly s (offer s i n) :=
  (modMem_votes rfl).trans (sendVotes_votes ..)

theorem electionCall_votes (s : State) : VotesOnly s (electionCall s) := by
  unfold electionCall
  extract_lets now s1
  have h1 : VotesOnly s s1 := .trans (modMem_votes rfl) (alert_votes ..)
  split
  · extract_lets s2
    have h2 : VotesOnly s s2 := h1.trans (offer_votes ..)
    split
    · exact h2.trans (offer_votes ..)
    · exact h2
  · exact h1

theorem lossAct_votes (s : State) : VotesOnly s (lossAct s) := by
  unfold lossAct
  dsimp only
  split
  · exact .refl s
  · split
    · split
      · exact announceLeader_votes ..
      · exact .refl s
    · split
      · exact electionCall_votes s
      · exact .refl s
    · exact .refl s

theorem rootChange_records (s : State) (c : Change) : RecordsKept s (rootChange s c) := by
  unfold rootChange
  split
  · exact .refl s
  · dsimp only
    split
    · exact ⟨⟨rfl, rfl, rfl⟩, rfl, rfl, rfl⟩
    · split
      · exact VotesOnly.records (.trans (modMem_votes rfl) (lossAct_votes _))
      · exact .refl s

theorem groupsFull_records (s : State) (c : Change) : RecordsKept s (groupsFull s c) := by
  unfold groupsFull
  split
  · exact .refl s
  · exact ⟨⟨rfl, rfl, rfl⟩, rfl, rfl, rfl⟩

theorem txnRollback_votes (s : State) (t : Txn) (reason : Status) (node : Node) (detail : Nat) (at_ : St) :
    VotesOnly s (txnRollback s .dist t reason node detail at_) := by
  unfold txnRollback
  extract_lets s1 end_ s2 s3
  have h2 : VotesOnly s s2 := ⟨⟨⟨rfl, rfl, rfl⟩, rfl, rfl, rfl, rfl, rfl, ⟨fun _ => rfl⟩⟩, rfl, rfl⟩
  have h3 : VotesOnly s s3 := by
    simp only [s3]
    split
    · exact h2.trans (doneR_votes ..)
    · exact h2
  split
  · exact h3.trans (done_votes ..)
  · exact h3

theorem sendDecide_votes (s : State) (r : RootTxn) (d : Decision) : VotesOnly s (sendDecide s r d) :=
  .foldl _ (fun _ _ => mgmt_votes ..) _ s

/-- A decision notes itself in its record and goes to the participants, before this part takes it. -/
theorem decideTxn_rel {s : State} {r : RootTxn} {d : Decision} {R : State → State → Prop}
    (hpart : ∀ u, VotesOnly s u → R s (partDecide u .dist r.id d)) (hvotes : ∀ u, VotesOnly s u → R s u) :
    R s (decideTxn s r d) := by
  unfold decideTxn
  extract_lets s1 s2
  have h1 : VotesOnly s s1 := modSv_votes rfl
  have h2 : VotesOnly s s2 := by
    simp only [s2]
    split
    · exact h1.trans (sendDecide_votes ..)
    · exact h1
  split
  · exact hpart s2 h2
  · exact hvotes s2 h2

/-- A part that is told of a rollback misses no boundary. -/
theorem partDecide_rollback_votes (s : State) (id : W32) (d : Decision) (h : d.commit = false) :
    VotesOnly s (partDecide s .dist id d) := by
  unfold partDecide
  split
  · exact .refl s
  · simp only [h, Bool.false_and, Bool.false_eq_true, if_false, Bool.not_false, if_true]
    split
    · exact .refl s
    · exact txnRollback_votes ..

theorem rootsRemoved_votes (s : State) (n : Node) : VotesOnly s (rootsRemoved s n) := by
  refine .foldl _ (fun s r => ?_) _ s
  exact decideTxn_rel (fun u hu => hu.trans (partDecide_rollback_votes _ _ _ rfl)) fun _ hu => hu

theorem joinTry_votes (s : State) (n : Node) : VotesOnly s (joinTry s n) := by
  unfold joinTry
  dsimp only
  split
  · exact .refl s
  · split
    · exact .refl s
    · exact propose_votes ..

theorem rootsAct_records (s : State) (c : Change) : RecordsKept s (rootsAct s c) := by
  unfold rootsAct
  extract_lets s1 s2 s3
  have h1 : RecordsKept s s1 := rootChange_records s c
  have h3 : RecordsKept s s3 := by
    have h2 : RecordsKept s s2 := h1.trans (groupsFull_records ..)
    simp only [s3]
    split
    · exact h2.trans (rootsRemoved_votes ..).records
    · exact h2
  split
  · exact h1
  · split
    · exact h3.trans (.foldl _ (fun s n => (joinTry_votes s n).records) _ _)
    · exact h3

theorem waitDone_records (s : State) (c : Change) (me : Epoch) : RecordsKept s (waitDone s c me) :=
  VotesOnly.records (.trans (modSv_votes rfl) (.foldl _ (fun _ _ => doneR_votes ..) _ _))

theorem startHold_votes (s : State) : VotesOnly s (startHold s .dist) := by
  unfold startHold
  extract_lets t s1
  split
  · exact .refl s
  · have h1 : VotesOnly s s1 := ⟨⟨⟨rfl, rfl, rfl⟩, rfl, rfl, rfl, rfl, rfl, ⟨fun _ => rfl⟩⟩, rfl, rfl⟩
    exact h1.trans (alert_votes s1 2)

theorem copyAsk_votes (s : State) : VotesOnly s (copyAsk s) := by
  unfold copyAsk
  dsimp only
  split
  · split
    · exact mgmt_votes ..
    · exact .refl s
  · exact .refl s

theorem removeReady_votes (s : State) : VotesOnly s (removeReady s) := by
  unfold removeReady
  dsimp only
  split
  · exact modSv_votes rfl
  · exact .refl s

/-- A change at the distributor itself: only its service state may change of what `RecordsKept` keeps. -/
theorem ownChange_only (s : State) (c : Change) : let t := ownChange s c
    DistOnly s t ∧ t.dist.b.node = s.dist.b.node ∧ t.dist.mem.nodes = s.dist.mem.nodes := by
  have after : ∀ (v : Service) (t : State), VotesOnly { s with dist.sv := v } t →
      DistOnly s t ∧ t.dist.b.node = s.dist.b.node ∧ t.dist.mem.nodes = s.dist.mem.nodes := fun v t h =>
    ⟨h.part, h.node, h.nodes⟩
  unfold ownChange
  split
  · exact ⟨⟨rfl, rfl, rfl⟩, rfl, rfl⟩
  · dsimp only
    split
    · exact after _ _ (.refl _)
    · exact after _ _ (startHold_votes _)
    · exact after _ _ (removeReady_votes _)
    · split
      · exact after _ _ (copyAsk_votes _)
      · exact ⟨⟨rfl, rfl, rfl⟩, rfl, rfl⟩
    · exact after _ _ (.refl _)
    · exact ⟨⟨rfl, rfl, rfl⟩, rfl, rfl⟩

/-- The service state that a change at the distributor itself brings (R348, R370 to R375). -/
theorem ownChange_state {s : State} {c : Change} (h : c.node = s.node .dist) :
    (c.state = 0 → (ownChange s c).dist.sv.state = .inService) ∧ (c.state = 3 → (ownChange s c).dist.sv.state = .fenced) ∧
    (c.state = 4 → (ownChange s c).dist.sv.state = .drained) ∧ (c.state = 6 → (ownChange s c).dist.sv.state = .draining) := by
  refine ⟨?_, ?_, ?_, ?_⟩
  all_goals
    intro hstate
    unfold ownChange
    rw [if_neg (not_not_intro h)]
    simp only [hstate]
  · rfl
  · exact (startHold_votes _).state
  · exact (removeReady_votes _).state
  · rfl

/-- What a change leaves at a distributor: the record of its part, and the service state where it is the distributor's own. -/
theorem distChange_only (s : State) (me : Epoch) (c : Change) : let t := distChange me s c
    DistOnly s t ∧ t.nodeRec c.node = nodeChange (s.now .dist) me c.state (s.nodeRec c.node) ∧
    ∃ u, u.node .dist = s.node .dist ∧ t.dist.sv.state = (ownChange u c).dist.sv.state := by
  unfold distChange
  extract_lets now s1 t
  have h1 : DistOnly s s1 := ⟨rfl, rfl, rfl⟩
  have hrec : s1.nodeRec c.node = nodeChange now me c.state (s.nodeRec c.node) := (tget_tmod ..).trans (if_pos rfl)
  have hnode : s1.node .dist = s.node .dist := rfl
  clear_value s1
  have hbelow := belowChange_records s1 c
  obtain ⟨hown, -, hnodes⟩ := ownChange_only (belowChange s1 c) c
  have hrest : RecordsKept (ownChange (belowChange s1 c) c) t :=
    ((sisterNotice_records _ c me).trans (rootsAct_records _ c)).trans (waitDone_records _ c me)
  clear_value t
  have hkept : t.nodeRec c.node = s1.nodeRec c.node :=
    congrArg (fun l : Tab NodeRec => tget ({} : NodeRec) l c.node.toNat) (hrest.nodes.trans (hnodes.trans hbelow.nodes))
  refine ⟨?_, hkept.trans hrec, _, ?_, hrest.state⟩
  · exact partOnly_trans (p := .dist) h1
      (partOnly_trans (p := .dist) hbelow.part (partOnly_trans (p := .dist) hown hrest.part))
  · exact (congrArg (·.getD 0xFFFFFF) hbelow.node :).trans hnode

/-- MEMBERSHIP_EFFECT at a distributor, a decision of one change alone in the queue. -/
theorem membershipEffect_dist {c : Change} {d : MemberDue} {s : State} (hdue : s.dist.b.due = [d]) (hchanges : d.changes = [c])
    (htick : 0 ≤ tickDiff (tickOf (s.now .dist)) d.tick) : Completes (.membershipEffect .dist) s fun t =>
      let n := t.nodeRec c.node
      n.changeMe = d.me ∧ (c.state = 0 → n.known = true ∧ n.status = 0 ∧ n.draining = false) ∧
      (c.state = 2 ∨ c.state = 3 ∨ c.state = 4 → n.known = true ∧ n.status = c.state) ∧
      (c.state = 6 → n.draining = true) ∧ (c.state = 7 → n.known = false ∧ n.status = 7) ∧
      (c.node = s.node .dist → (c.state = 0 → t.dist.sv.state = .inService) ∧ (c.state = 3 → t.dist.sv.state = .fenced) ∧
        (c.state = 4 → t.dist.sv.state = .drained) ∧ (c.state = 6 → t.dist.sv.state = .draining)) ∧ DistOnly s t := by
  refine ⟨_, execMembershipEffect_of_due (p := .dist) hdue hchanges htick, ?_⟩
  have htaken := decisionTaken_only s .dist d
  have hnode : (decisionTaken s .dist d).node .dist = s.node .dist :=
    (congrArg (fun b : Base => b.node.getD 0xFFFFFF) htaken.base :)
  generalize decisionTaken s .dist d = s1 at htaken hnode
  obtain ⟨honly, hrec, u, hu, hstate⟩ := distChange_only s1 d.me c
  dsimp only
  rw [hrec, hstate]
  refine ⟨?_, ?_, ?_, ?_, ?_, fun h => ownChange_state (h.trans (hu.trans hnode).symm), partOnly_trans (p := .dist) htaken.part honly⟩
  · unfold nodeChange
    dsimp only
    split <;> rfl
  · intro h
    rw [h]
    exact ⟨rfl, rfl, rfl⟩
  · rintro (h | h | h)
    all_goals
      rw [h]
      exact ⟨rfl, rfl⟩
  · intro h
    rw [h]
    rfl
  · intro h
    rw [h]
    exact ⟨rfl, rfl⟩

end Sys2Proof.Machine

namespace Sys2Proof.Machine

/-! ### Announced changes of a tick (R41, R132) -/

theorem tickDiff_self (k : Tick) : tickDiff k k = 0 := by simp [tickDiff]

theorem tickDiff_ne_zero {a b : Tick} (h : a ≠ b) : tickDiff a b ≠ 0 := fun e => by
  have hsub : a - b = 0 := BitVec.eq_of_toInt_eq (by simpa [tickDiff] using e)
  exact h (sub_eq_zero.mp hsub)

theorem pendAt_tick (l : List Pend) (k : Tick) : (pendAt l k).tick = k := by
  unfold pendAt
  cases h : l.find? (·.tick == k) with
  | none => rfl
  | some x => simpa using List.find?_some h

/-- A change of another tick stays where one is put in its place. -/
theorem mem_pendPut_of_ne {l : List Pend} {x y : Pend} (hy : y ∈ l) (h : y.tick ≠ x.tick) : y ∈ pendPut l x := by
  have hne := tickDiff_ne_zero h
  unfold pendPut
  rcases lt_or_gt_of_ne hne with hlt | hgt
  · simp [hy, hlt]
  · simp [hy, hgt]

theorem pendPut_eq {l : List Pend} {x : Pend} (h : x.me ≠ none ∨ x.lead ≠ none) : pendPut l x =
    l.filter (fun y => decide (tickDiff y.tick x.tick < 0)) ++ [x] ++ l.filter (fun y => decide (0 < tickDiff y.tick x.tick)) := by
  unfold pendPut
  rw [if_neg]
  rcases h with h | h <;> simp [h]

theorem mem_pendPut_self {l : List Pend} {x : Pend} (h : x.me ≠ none ∨ x.lead ≠ none) : x ∈ pendPut l x := by
  rw [pendPut_eq h]
  simp

/-- The changes at the tick where some were put are those. -/
theorem pendAt_pendPut {l : List Pend} {x : Pend} (h : x.me ≠ none ∨ x.lead ≠ none) : pendAt (pendPut l x) x.tick = x := by
  have hnone : (l.filter fun y => decide (tickDiff y.tick x.tick < 0)).find? (·.tick == x.tick) = none := by
    rw [List.find?_eq_none]
    intro y hy he
    obtain ⟨-, hlt⟩ := List.mem_filter.mp hy
    rw [eq_of_beq he, tickDiff_self] at hlt
    exact absurd hlt (by decide)
  unfold pendAt
  rw [pendPut_eq h, List.append_assoc, List.find?_append, hnone]
  simp

/-- A ME change announced for a tick stands there, also where a leader change is then announced for any tick. -/
theorem me_mem_pendLeadAt (l : List Pend) (k n : Tick) (me : Epoch) (r : BitVec 2) :
    ∃ x ∈ pendLeadAt (pendMeAt l k me) n r, x.tick = k ∧ x.me = some me := by
  have hx : ({ pendAt l k with me := some me } : Pend).me ≠ none ∨ ({ pendAt l k with me := some me } : Pend).lead ≠ none :=
    .inl (by simp)
  have htick : ({ pendAt l k with me := some me } : Pend).tick = k := pendAt_tick l k
  by_cases hn : k = n
  · subst hn
    have hat : pendAt (pendMeAt l k me) k = { pendAt l k with me := some me } := by
      have h := pendAt_pendPut (l := l) hx
      rwa [htick] at h
    refine ⟨_, mem_pendPut_self (.inr (by simp)), ?_, ?_⟩
    · exact pendAt_tick ..
    · rw [hat]
  · refine ⟨_, mem_pendPut_of_ne (mem_pendPut_self hx) ?_, htick, rfl⟩
    rw [htick]
    exact fun e => hn (e.trans (pendAt_tick ..))

theorem me_mem_pendMeAt (l : List Pend) (k : Tick) (me : Epoch) : ∃ x ∈ pendMeAt l k me, x.tick = k ∧ x.me = some me :=
  ⟨_, mem_pendPut_self (.inl (by simp)), pendAt_tick l k, rfl⟩

/-! ### Votes and decisions at the roots (R345) -/

/-- A VOTE that is taken is passed on, nothing else. -/
theorem voteIn_sends {s u : State} {port : Nat} {v : Vote} (h : voteIn s port v = (u, true)) : SendsOnly .dist s u := by
  unfold voteIn at h
  split at h
  · exact absurd (Prod.mk.inj h).2 (by simp)
  · split at h
    · exact absurd (Prod.mk.inj h).2 (by simp)
    · obtain rfl := (Prod.mk.inj h).1
      exact .foldl _ (fun s i => sendP1_sends s .dist i _) _ s

theorem memberVotes_sends (me : Epoch) (k : Tick) : ∀ (n : Nat) (cs : List Change) (s : State),
    SendsOnly .dist s (memberVotes s n cs me k)
  | 0, _, s => .refl _ s
  | n + 1, cs, s => by
    unfold memberVotes
    split
    · exact .refl _ s
    · exact (sendVotes_sends ..).trans (memberVotes_sends me k n _ _)

/-- Changes announced where no decision waits: they wait for the tick announced, which brings the next ME. -/
theorem announceMembers_of_announced {s : State} {cs : List Change} {k : Tick} (hdue : s.dist.b.due = [])
    (htick : announceTick s = some k) : let t := announceMembers s cs
    t.dist.mem = s.dist.mem ∧
    t.dist.b.due = [{ changes := cs, me := s.dist.b.ep.me + 1, tick := k, decided := tickOf (s.now .dist) }] ∧
    ∃ x ∈ t.dist.b.ep.pend, x.tick = k ∧ x.me = some (s.dist.b.ep.me + 1) := by
  unfold announceMembers
  rw [hdue, htick]
  dsimp -zeta only [List.getLast?_nil]
  extract_lets n e s1 s2 s3 t
  have h3 : SendsOnly .dist s2 s3 := memberVotes_sends ..
  have hmem : s3.dist.mem = s.dist.mem := by rw [h3.dist]; rfl
  have hdue3 : s3.dist.b.due = [{ changes := cs, me := e.me + 1, tick := k, decided := n }] := (congrArg Base.due h3.base :)
  have hpend3 : s3.dist.b.ep.pend = pendMeAt s.dist.b.ep.pend k (e.me + 1) := (congrArg (fun b : Base => b.ep.pend) h3.base :)
  simp only [t]
  split
  · refine ⟨hmem, hdue3, ?_⟩
    show ∃ x ∈ pendLeadAt s3.dist.b.ep.pend _ _, _
    rw [hpend3]
    exact me_mem_pendLeadAt ..
  · refine ⟨hmem, hdue3, ?_⟩
    rw [hpend3]
    exact me_mem_pendMeAt ..

/-- PROPOSE_RECEIVE with one change (R345): the first vote stands as the proposal, the second decides. -/
theorem proposeReceive {port : Nat} {c : Change} {v : Vote} {s u : State} (hport : port < 128) (hvote : voteIn s port v = (u, true))
    (hbody : v.body = .propose [c]) (hserves : servesRoot u = true)
    (hroot : ((rootsIn u).any fun r => rootNode u r == v.src) = true) (hsrc : c.node ≠ v.src) (hquorum : quorum u = 2) :
    Completes (.proposeReceive port v) s fun t =>
      (u.dist.mem.proposals = [] → t = { u with dist.mem.proposals := [{ change := c, by_ := [v.src] }] }) ∧
      (∀ n k, u.dist.mem.proposals = [{ change := c, by_ := [n] }] → n ≠ v.src → u.dist.mem.electing = false →
        actingRoot u [c] = some (ownRootIx u) → u.dist.b.due = [] → announceTick u = some k →
        t.dist.mem.proposals = [] ∧ t.dist.b.due = [{ changes := [c], me := u.dist.b.ep.me + 1, tick := k, decided := tickOf (u.now .dist) }] ∧
        ∃ x ∈ t.dist.b.ep.pend, x.tick = k ∧ x.me = some (u.dist.b.ep.me + 1)) ∧ DistOnly s t := by
  unfold Completes exec execProposeReceive
  refine onPort_completes hport ?_
  simp only [hvote, hbody, hserves, hroot, Bool.and_self, if_true, List.foldl_cons, List.foldl_nil]
  refine ⟨?_, ?_, partOnly_trans (p := .dist) (voteIn_sends hvote).part (voteFor_votes u v.src c).part⟩
  · intro hnone
    unfold voteFor
    rw [if_neg hsrc]
    extract_lets same old new s1
    have hnew : new = { change := c, by_ := [v.src] } := by simp [new, old, hnone]
    have h1 : s1 = { u with dist.mem.proposals := [{ change := c, by_ := [v.src] }] } := by
      simp only [s1, hnew, State.modMem, hnone, List.filter_nil, List.nil_append]
    have hq : quorum s1 = 2 := by rw [h1]; exact hquorum
    rw [if_neg (by rw [hq, hnew]; exact Nat.not_succ_le_self 1), h1]
  · intro n k hone hn helect hact hdue htick
    unfold voteFor
    rw [if_neg hsrc]
    extract_lets same old new s1
    have hsame : same { change := c, by_ := [n] } = true := by simp [same]
    have hold : old = { change := c, by_ := [n] } := by
      simp only [old, hone, List.find?_cons, hsame, Option.getD_some]
    have hnew : new = { change := c, by_ := [n, v.src] } := by
      have hne : (old.by_.contains v.src) = false := by simp [hold, hn.symm]
      simp only [new, hne]
      simp [hold]
    have h1 : s1 = { u with dist.mem.proposals := [{ change := c, by_ := [n, v.src] }] } := by
      simp only [s1, hnew, State.modMem, hone, List.filter_cons, hsame, List.filter_nil]
      rfl
    have hq : quorum s1 = 2 := by rw [h1]; exact hquorum
    rw [if_pos (by rw [hq, hnew]; exact Nat.le_refl 2), h1]
    have hdecided : decided { u with dist.mem.proposals := [{ change := c, by_ := [n, v.src] }] } c =
        announceMembers { u with dist.mem.proposals := [] } [c] := by
      unfold decided
      have hgone : (({ u with dist.mem.proposals := [{ change := c, by_ := [n, v.src] }] } : State).modMem fun m => { m with
          proposals := m.proposals.filter fun p => p.change.node != c.node || p.change.state != c.state }) =
          { u with dist.mem.proposals := [] } := by
        simp only [State.modMem, List.filter_cons, List.filter_nil, bne_self_eq_false, Bool.or_self, Bool.false_eq_true, if_false]
      dsimp only
      rw [hgone, if_neg (by simp [helect]), if_pos]
      exact beq_iff_eq.mpr hact
    rw [hdecided]
    obtain ⟨hmem, hrest⟩ := announceMembers_of_announced (s := { u with dist.mem.proposals := [] }) (cs := [c]) hdue htick
    exact ⟨congrArg Membership.proposals hmem, hrest⟩

/-! ### A report in the tally (R339, R341) -/

/-- The record of a part after a new suspect event (R339). -/
def tallied (u : State) (v : Vote) (r : Report) : NodeRec :=
  let n := u.nodeRec r.accused
  { n with
    events := (v.eventSt, false, r.split, v.src, r.cause) ::
      n.events.filter fun e => decide (elapsed (u.now .dist) e.1 ≤ quarWindow u)
    reports := ((v.eventSt, v.src, r) :: n.reports).take 16, last := v.eventSt, fresh := true }

/-- A suspect event that the tally does not hold yet is entered. -/
theorem tallyPut_of_new {u : State} {v : Vote} {r : Report} (hhard : r.hard = false)
    (hnew : ∀ e ∈ (u.nodeRec r.accused).events, ¬ (e.1 = v.eventSt ∧ e.2.2.2.1 = v.src ∧ e.2.2.2.2 = r.cause)) :
    tallyPut u v.src v.eventSt r = u.modNode r.accused fun _ => tallied u v r := by
  unfold tallyPut
  rw [if_neg, if_pos (by simp [hhard]), hhard]
  · rfl
  · simp only [List.any_eq_true, not_exists, not_and, Bool.and_eq_true, beq_iff_eq]
    exact fun e he ⟨h1, h2⟩ h3 => hnew e he ⟨h1, h2, h3⟩

/-- Only the entry written passes a filter that no other entry passes. -/
theorem filter_tput {α : Type} {q : Nat × α → Bool} (k : Nat) (v : α) (hq : q (k, v) = true) :
    ∀ (l : Tab α), (∀ e ∈ l, q e = false) → (tput l k v).filter q = [(k, v)]
  | [], _ => by simp [tput, hq]
  | (k', v') :: l, h => by
    obtain ⟨hhead, htail⟩ := List.forall_mem_cons.mp h
    have hnone : l.filter q = [] := List.filter_eq_nil_iff.mpr fun e he => by simp [htail e he]
    unfold tput
    split
    · simp [hq, hhead, hnone]
    · split
      · simp [hq, hnone]
      · rw [List.filter_cons, hhead]
        exact filter_tput k v hq l htail

/-- Where no event waited to be weighed, the one entered is weighed. -/
theorem judgeFresh_modNode {u : State} {a : Node} {n : NodeRec} (hserves : servesRoot u = true) (hfresh : n.fresh = true)
    (hold : ∀ e ∈ u.dist.mem.nodes, e.2.fresh = false) :
    judgeFresh (u.modNode a fun _ => n) = judge (u.modNode a fun _ => n) a := by
  have hn : n ≠ ({} : NodeRec) := fun e => by rw [e] at hfresh; exact absurd hfresh (by decide)
  have hnodes : (u.modNode a fun _ => n).dist.mem.nodes = tput u.dist.mem.nodes a.toNat n := if_neg hn
  have hserves' : servesRoot (u.modNode a fun _ => n) = true := hserves
  unfold judgeFresh
  rw [hserves', hnodes, filter_tput _ _ hfresh _ hold]
  simp only [Bool.not_true, Bool.false_eq_true, if_false, List.map_cons, List.map_nil, List.foldl_cons, List.foldl_nil,
    BitVec.ofNat_toNat, BitVec.setWidth_eq]

theorem nodeRec_modNode (s : State) (n : Node) (f : NodeRec → NodeRec) : (s.modNode n f).nodeRec n = f (s.nodeRec n) :=
  (tget_tmod ..).trans (if_pos rfl)

theorem nodeRec_modNode_ne (s : State) {n m : Node} (h : m ≠ n) (f : NodeRec → NodeRec) : (s.modNode n f).nodeRec m = s.nodeRec m :=
  (tget_tmod ..).trans (if_neg fun e => h (BitVec.eq_of_toNat_eq e))

/-- A suspect event against a known die, in service and not on probation, by the number of its events in the window (R341). -/
theorem judge_of_suspect {w : State} {a : Node} {at_ : St} {split_ : Bool} {src : Node} {cause : Nat}
    {l : List (St × Bool × Bool × Node × Nat)} (hevents : (w.nodeRec a).events = (at_, false, split_, src, cause) :: l)
    (hknown : (w.nodeRec a).known = true) (hstatus : (w.nodeRec a).status ≤ 1) (hprob : (w.nodeRec a).probation = false)
    (hkind : nodeKind a = 0) : judge w a =
      if quarCount w ≤ (recentEvents w a).length then
        propose (w.modNode a fun r => { r with fresh := false }) { node := a, state := 2, cause := cause }
      else (w.modNode a fun r => { r with fresh := false }).modNode a fun r => { r with status := 1 } := by
  unfold judge
  extract_lets r s1
  have hrecent : recentEvents s1 a = recentEvents w a := by
    unfold recentEvents
    have hrec : s1.nodeRec a = { w.nodeRec a with fresh := false } := nodeRec_modNode ..
    rw [hrec]
    rfl
  have hcount : quarCount s1 = quarCount w := rfl
  have hpair : pairOnly s1 a = false := by unfold pairOnly; simp [hkind]
  have hquar : quarantineOf a cause = { node := a, state := 2, cause := cause } := by unfold quarantineOf; rw [if_pos hkind]
  simp only [r, hevents, List.head?_cons, hknown, hprob, hpair, hrecent, hcount, hquar, Nat.not_lt.mpr hstatus]
  simp
  rfl

theorem recentEvents_tallied {u : State} {v : Vote} {r : Report} (hage : elapsed (u.now .dist) v.eventSt ≤ quarWindow u) :
    (recentEvents (u.modNode r.accused fun _ => tallied u v r) r.accused).length = (recentEvents u r.accused).length + 1 := by
  have hevents : (tallied u v r).events = (v.eventSt, false, r.split, v.src, r.cause) :: recentEvents u r.accused := rfl
  have hnow : (u.modNode r.accused fun _ => tallied u v r).now .dist = u.now .dist := rfl
  have hwindow : quarWindow (u.modNode r.accused fun _ => tallied u v r) = quarWindow u := rfl
  conv_lhs => unfold recentEvents
  rw [nodeRec_modNode, hnow, hwindow, hevents, List.filter_cons_of_pos (by simpa using hage), List.length_cons]
  unfold recentEvents
  rw [List.filter_filter]
  simp only [Bool.and_self]

theorem sendOwnVote_sends (s : State) (dst : Node) (b : VoteBody) : SendsOnly .dist s (sendOwnVote s dst b) := by
  unfold sendOwnVote
  dsimp only
  split
  · exact (sendVotes_sends ..).trans (.foldl _ (fun s n => sendVotes_sends ..) _ _)
  · exact sendVotes_sends ..

/-- A quorum depends on the roots' records of one another, on the triad and on the leader. -/
theorem quorum_congr {s t : State} (hsv : t.dist.sv = s.dist.sv) (hleader : leaderOf t .dist = leaderOf s .dist)
    (hmem : ∃ n q, t.dist.mem = { s.dist.mem with nodes := n, proposals := q }) (hstatus : ∀ n, nodeStatus t n = nodeStatus s n) :
    quorum t = quorum s := by
  obtain ⟨n, q, hmem⟩ := hmem
  have hnode : ∀ r, rootNode t r = rootNode s r := fun r => by unfold rootNode; rw [hmem]
  have hserves : servesRoot t = servesRoot s := by unfold servesRoot State.role; rw [hsv, hmem]
  have hown : ownRootIx t = ownRootIx s := by unfold ownRootIx State.ownRoot; rw [hsv, hmem]
  have hlost : t.dist.mem.lostRoots = s.dist.mem.lostRoots := by rw [hmem]
  have hsole : t.dist.mem.soleRoot = s.dist.mem.soleRoot := by rw [hmem]
  have halive : rootAlive t = rootAlive s := funext fun r => by
    unfold rootAlive
    rw [hnode, hstatus, hserves, hown, hlost, hleader]
  unfold quorum rootsIn
  rw [halive, hsole]

/-- The first vote for a change leaves it a proposal of this root alone. -/
theorem propose_of_first {w : State} {c : Change} (hserves : servesRoot w = true) (hnode : c.node ≠ w.node .dist)
    (hproposals : w.dist.mem.proposals = []) (hheld : w.dist.mem.held = []) (hdue : w.dist.b.due = []) (hquorum : quorum w = 2) :
    (propose w c).dist.mem.proposals = [{ change := c, by_ := [w.node .dist] }] := by
  have hsend := sendOwnVote_sends w allRoots (.propose [c])
  have hhand : inHand w c = false := by unfold inHand; simp [hdue, hheld, hproposals]
  have hmem : (sendOwnVote w allRoots (.propose [c])).dist.mem = w.dist.mem := by rw [hsend.dist]
  have hsv : (sendOwnVote w allRoots (.propose [c])).dist.sv = w.dist.sv := by rw [hsend.dist]
  have hleader : leaderOf (sendOwnVote w allRoots (.propose [c])) .dist = leaderOf w .dist :=
    (congrArg (fun b : Base => b.ep.leader.toNat) hsend.base :)
  unfold propose
  rw [if_neg (by simp [hserves, hhand, hnode])]
  unfold voteFor
  rw [if_neg hnode]
  extract_lets same old new s1
  have hold : old = { change := c, by_ := [] } := by simp only [old, hmem, hproposals]; rfl
  have hnew : new = { change := c, by_ := [w.node .dist] } := by simp only [new, hold]; rfl
  have hq : quorum s1 = 2 := by
    rw [← hquorum]
    refine quorum_congr hsv hleader ⟨w.dist.mem.nodes, s1.dist.mem.proposals, ?_⟩ fun n => ?_
    · simp only [s1, State.modMem, hmem]
    · unfold nodeStatus
      simp only [s1, State.modMem, hmem]
  rw [if_neg (by rw [hq, hnew]; exact Nat.not_succ_le_self 1)]
  simp only [s1, State.modMem, hmem, hproposals, hnew, List.filter_nil, List.nil_append]

/-- REPORT_RECEIVE of a new suspect event against a die: its record takes the event; below QUAR_COUNT the die is SUSPECT, and with
the event that reaches it its quarantine is proposed (R339, R341). -/
theorem reportReceive {port : Nat} {r : Report} {v : Vote} {s u : State} (hport : port < 128) (hvote : voteIn s port v = (u, true))
    (hbody : v.body = .report r) (hserves : servesRoot u = true)
    (hroot : ((List.range 3).find? fun x => rootNode u x == v.src) = none) (hhard : r.hard = false) (hkind : nodeKind r.accused = 0)
    (hnew : ∀ e ∈ (u.nodeRec r.accused).events, ¬ (e.1 = v.eventSt ∧ e.2.2.2.1 = v.src ∧ e.2.2.2.2 = r.cause))
    (hfresh : ∀ e ∈ u.dist.mem.nodes, e.2.fresh = false) (hknown : (u.nodeRec r.accused).known = true)
    (hstatus : (u.nodeRec r.accused).status ≤ 1) (hprob : (u.nodeRec r.accused).probation = false)
    (hage : elapsed (u.now .dist) v.eventSt ≤ quarWindow u) : Completes (.reportReceive port v) s fun t =>
      (∃ l, (t.nodeRec r.accused).events = (v.eventSt, false, r.split, v.src, r.cause) :: l) ∧
      (t.nodeRec r.accused).last = v.eventSt ∧ (t.nodeRec r.accused).fresh = false ∧
      ((recentEvents u r.accused).length + 1 < quarCount u → (t.nodeRec r.accused).status = 1 ∧
        t.dist.mem.proposals = u.dist.mem.proposals ∧ t.dist.b.ports = u.dist.b.ports) ∧
      (quarCount u ≤ (recentEvents u r.accused).length + 1 → r.accused ≠ u.node .dist → u.dist.mem.proposals = [] →
        u.dist.mem.held = [] → u.dist.b.due = [] → quorum u = 2 →
        t.dist.mem.proposals = [{ change := { node := r.accused, state := 2, cause := r.cause }, by_ := [u.node .dist] }]) ∧
      DistOnly s t := by
  unfold Completes exec execReportReceive
  refine onPort_completes hport ?_
  simp only [hvote, hbody, hserves, if_true, reportIn, hroot]
  rw [tallyPut_of_new hhard hnew, judgeFresh_modNode hserves rfl hfresh,
    judge_of_suspect (w := u.modNode r.accused fun _ => tallied u v r) (congrArg NodeRec.events (nodeRec_modNode ..))
      ((congrArg NodeRec.known (nodeRec_modNode ..)).trans hknown)
      ((congrArg NodeRec.status (nodeRec_modNode ..)).trans_le hstatus)
      ((congrArg NodeRec.probation (nodeRec_modNode ..)).trans hprob) hkind, recentEvents_tallied hage]
  set w := (u.modNode r.accused fun _ => tallied u v r).modNode r.accused fun n => { n with fresh := false } with hw
  have hrec : w.nodeRec r.accused = { tallied u v r with fresh := false } :=
    (nodeRec_modNode ..).trans (congrArg (fun n : NodeRec => { n with fresh := false }) (nodeRec_modNode ..))
  have hcount : quarCount (u.modNode r.accused fun _ => tallied u v r) = quarCount u := rfl
  have hpart : DistOnly s w := (voteIn_sends hvote).part
  rw [hcount]
  by_cases hc : quarCount u ≤ (recentEvents u r.accused).length + 1
  · rw [if_pos hc]
    have hvotes := propose_votes w { node := r.accused, state := 2, cause := r.cause }
    have hkept : (propose w { node := r.accused, state := 2, cause := r.cause }).nodeRec r.accused = w.nodeRec r.accused :=
      congrArg (fun l : Tab NodeRec => tget ({} : NodeRec) l r.accused.toNat) hvotes.nodes
    rw [hkept, hrec]
    refine ⟨⟨_, rfl⟩, rfl, rfl, fun h => absurd hc (by omega), fun _ hnode hproposals hheld hdue hquorum => ?_,
      partOnly_trans (p := .dist) hpart hvotes.part⟩
    refine propose_of_first hserves hnode hproposals hheld hdue (.trans ?_ hquorum)
    refine quorum_congr rfl rfl ⟨w.dist.mem.nodes, u.dist.mem.proposals, rfl⟩ fun n => ?_
    show (if (w.nodeRec n).known then (w.nodeRec n).status else 7) = if (u.nodeRec n).known then (u.nodeRec n).status else 7
    by_cases hn : n = r.accused
    · rw [hn, hrec]
      rfl
    · rw [hw, nodeRec_modNode_ne _ hn, nodeRec_modNode_ne _ hn]
  · rw [if_neg hc, nodeRec_modNode, hrec]
    exact ⟨⟨_, rfl⟩, rfl, rfl, fun _ => ⟨rfl, rfl, rfl⟩, fun h => absurd h hc, hpart⟩

/-- Settles O39: a decision and its change at the die and at the distributor, a report, a proposal and a decision told, each by its
own lemma above. -/
theorem reportsLeadToDecisions : Obligations.ReportsLeadToDecisions := by
  refine ⟨⟨fun p s => execMembershipEffect_of_early, fun c d s => membershipEffect_tsu, fun c d s => membershipEffect_dist⟩,
    ?_, ?_, ?_, ?_⟩
  · exact fun port r v s u hport hvote hbody hserves hroot hhard hkind hnew hfresh hknown hstatus hprob hage =>
      reportReceive hport hvote hbody hserves hroot hhard hkind hnew hfresh hknown hstatus hprob hage
  · exact fun port c v s u hport hvote hbody hserves hroot hsrc hquorum =>
      proposeReceive hport hvote hbody hserves hroot hsrc hquorum
  · intro port cs me k v s hport hbody hdue
    have h := memberReceive_tsu hport hbody hdue
    exact ⟨fun hfresh => by rw [h, if_pos hfresh], fun hfresh => by rw [h, if_neg (by simp [hfresh])]⟩
  · exact fun port cs me k v s u hport hbody hvote hdue => memberReceive_dist hport hbody hvote hdue

end Sys2Proof.Machine

namespace Sys2Proof.Machine

/-! ### Cells that wait to be sent -/

/-- A cell waits in a port's sender. -/
def Sender.Waits (x : Sender) (c : OutCell) : Prop :=
  c ∈ x.p1 ∨ (∃ l, c ∈ tget [] x.p2 l) ∨ c ∈ x.p3 ∨ c ∈ x.votes ∨ c ∈ x.mgmtHeld ∨ c ∈ x.copy

theorem cellWaits_iff {t : State} {p : Part} {i : Nat} {c : OutCell} : CellWaits t p i c ↔ (t.port p i).tx.Waits c := Iff.rfl

/-- What waits to be sent in `s` still waits in `t`. -/
structure WaitsKept (p : Part) (s t : State) : Prop where
  waits : ∀ i c, CellWaits s p i c → CellWaits t p i c

theorem WaitsKept.refl (p : Part) (s : State) : WaitsKept p s s := ⟨fun _ _ => id⟩

theorem WaitsKept.trans {p : Part} {s t u : State} (h : WaitsKept p s t) (k : WaitsKept p t u) : WaitsKept p s u :=
  ⟨fun i c => k.waits i c ∘ h.waits i c⟩

theorem WaitsKept.foldl {α : Type} {p : Part} (f : State → α → State) (h : ∀ s a, WaitsKept p s (f s a)) :
    ∀ (l : List α) (s : State), WaitsKept p s (l.foldl f s)
  | [], s => .refl p s
  | a :: l, s => (h s a).trans (WaitsKept.foldl f h l (f s a))

theorem WaitsKept.of_port_eq {p : Part} {s t : State} (h : ∀ i, t.port p i = s.port p i) : WaitsKept p s t :=
  ⟨fun i c hc => by rw [cellWaits_iff, h i]; exact hc⟩

theorem CountsOnly.waits {p : Part} {s t : State} (h : CountsOnly p s t) : WaitsKept p s t := .of_port_eq h.port_eq

theorem ChoiceOnly.waits {p : Part} {s t : State} (h : ChoiceOnly p s t) : WaitsKept p s t := .of_port_eq h.port_eq

theorem modPort_waits (s : State) (p : Part) (i : Nat) {f : Port → Port} (h : ∀ q c, q.tx.Waits c → (f q).tx.Waits c) :
    WaitsKept p s (s.modPort p i f) := ⟨fun j c hc => by
  rw [cellWaits_iff] at hc ⊢
  by_cases hj : j = i
  · subst hj
    rw [port_modPort]
    exact h _ _ hc
  · rwa [port_modPort_ne s p hj]⟩

/-- A sender with more in its P1 queue and among its VOTE cells, and the rest as it was. -/
theorem Sender.Waits.mono {x y : Sender} {c : OutCell} (h : x.Waits c) (hp1 : x.p1 ⊆ y.p1) (hvotes : x.votes ⊆ y.votes)
    (hp2 : y.p2 = x.p2) (hp3 : y.p3 = x.p3) (hheld : y.mgmtHeld = x.mgmtHeld) (hcopy : y.copy = x.copy) : y.Waits c := by
  unfold Sender.Waits at *
  rw [hp2, hp3, hheld, hcopy]
  exact h.imp (@hp1 c) (Or.imp_right (Or.imp_right (Or.imp_left (@hvotes c))))

theorem sendP1_waits (s : State) (p : Part) (i : Nat) (c : OutCell) : WaitsKept p s (sendP1 s p i c) := by
  unfold sendP1
  dsimp only
  split
  · rename_i h
    obtain rfl : p = .dist := by cases p <;> simp_all
    exact (count_counts ..).waits
  · refine .trans (modPort_waits s p i ?_) (maxCtr_counts ..).waits
    exact fun q c h => h.mono (List.subset_append_left ..) (fun _ => id) rfl rfl rfl rfl

/-- A die always has room in its P1 queue (R319). -/
theorem sendP1_self (s : State) (i : Nat) (c : OutCell) : CellWaits (sendP1 s .tsu i c) .tsu i c := by
  unfold sendP1
  rw [if_neg (by simp)]
  refine (maxCtr_counts ..).waits.waits i c ?_
  rw [cellWaits_iff, port_modPort]
  exact .inl (List.mem_append_right _ (List.mem_singleton_self c))

theorem sendVote_waits (s : State) (p : Part) (i : Nat) (v : Vote) : WaitsKept p s (sendVote s p i v) := by
  unfold sendVote
  dsimp only
  split
  · refine modPort_waits s p i ?_
    exact fun q c h => h.mono (fun _ => id) (List.subset_append_left ..) rfl rfl rfl rfl
  · refine .trans (modPort_waits s p i ?_) (sendP1_waits ..)
    exact fun q c h => h.mono (fun _ => id) (fun _ => id) rfl rfl rfl rfl

theorem sendVotes_waits (s : State) (p : Part) (is : List Nat) (v : Vote) : WaitsKept p s (sendVotes s p is v) :=
  .foldl _ (fun s i => sendVote_waits s p i v) is s

theorem sendVote_self (s : State) (i : Nat) (v : Vote) : ∃ c, CellWaits (sendVote s .tsu i v) .tsu i c ∧ c.body = .vote v := by
  refine ⟨cellNow s .tsu 0 (.vote v), ?_, rfl⟩
  unfold sendVote
  dsimp only
  split
  · rw [cellWaits_iff, port_modPort]
    exact .inr (.inr (.inr (.inl (List.mem_append_right _ (List.mem_singleton_self _)))))
  · exact sendP1_self ..

/-- A die's VOTE waits on every port it is sent on. -/
theorem sendVotes_self {i : Nat} {v : Vote} {is : List Nat} (s : State) (h : i ∈ is) :
    ∃ c, CellWaits (sendVotes s .tsu is v) .tsu i c ∧ c.body = .vote v := by
  unfold sendVotes
  induction is generalizing s with
  | nil => exact absurd h (by simp)
  | cons j is ih =>
    rw [List.foldl_cons]
    rcases List.mem_cons.mp h with rfl | h
    · obtain ⟨c, hc, hbody⟩ := sendVote_self s i v
      exact ⟨c, (sendVotes_waits (sendVote s .tsu i v) .tsu is v).waits i c hc, hbody⟩
    · exact ih _ h

/-! ### Events at a die (R339, R340) -/

theorem raise_tsu_waits (s : State) (accused : Node) (hard split_ : Bool) (cause : Nat) (x : Ctx) :
    WaitsKept .tsu s (raise s .tsu accused hard split_ cause x) := by
  unfold raise
  extract_lets q r v s1 s2 s3
  have h2 : WaitsKept .tsu s s2 := (fr_counts s .tsu 1 _ hard).waits.trans (sendVotes_waits ..)
  have h3 : WaitsKept .tsu s s3 := by
    simp only [s3]
    split
    · exact h2.trans (alert_choice ..).waits
    · exact h2
  exact h3

/-- An event at a die waits to be reported on every port that avoids the accused part. -/
theorem raise_reportWaits {s : State} {accused : Node} {hard split_ : Bool} {cause : Nat} {x : Ctx} {i : Nat}
    (hi : i ∈ reportPorts s .tsu accused) : ReportWaits (raise s .tsu accused hard split_ cause x) .tsu i accused hard cause := by
  have hnode : (raise s .tsu accused hard split_ cause x).node .tsu = s.node .tsu :=
    (congrArg (fun b : Base => b.node.getD 0xFFFFFF) (raise_reports ..).base :)
  unfold ReportWaits
  rw [hnode]
  unfold raise
  extract_lets q r v s1 s2 s3
  obtain ⟨c, hc, hbody⟩ := sendVotes_self (v := v) s1 hi
  have h3 : CellWaits s3 .tsu i c := by
    simp only [s3]
    split
    · exact (alert_choice ..).waits.waits i c hc
    · exact hc
  exact ⟨c, v, r, h3, hbody, rfl, rfl, rfl, rfl, rfl⟩

theorem ReportWaits.mono {s t : State} {i : Nat} {accused : Node} {hard : Bool} {cause : Nat}
    (h : ReportWaits s .tsu i accused hard cause) (hnode : t.node .tsu = s.node .tsu) (k : WaitsKept .tsu s t) :
    ReportWaits t .tsu i accused hard cause := by
  obtain ⟨c, v, r, hc, hbody, hreport, hsrc, hrest⟩ := h
  exact ⟨c, v, r, k.waits i c hc, hbody, hreport, hsrc.trans hnode.symm, hrest⟩

theorem ReportsOnly.node_eq {p : Part} {s t : State} (h : ReportsOnly p s t) : t.node p = s.node p :=
  (congrArg (fun b : Base => b.node.getD 0xFFFFFF) h.base :)

theorem ChoiceOnly.node_eq {p : Part} {s t : State} (h : ChoiceOnly p s t) : t.node p = s.node p :=
  (congrArg (fun b : Base => b.node.getD 0xFFFFFF) h.base :)

/-- A split event is reported against each of the die's two rack distributors (R331). -/
theorem splitEvent_reportWaits {s : State} {opref : Nat} {detail : W32} {i : Nat}
    (hi : i ∈ reportPorts s .tsu (neighbour s .tsu 0)) :
    ReportWaits (splitEvent s opref detail) .tsu i (neighbour s .tsu 0) false causeDiffer := by
  unfold splitEvent
  exact (raise_reportWaits hi).mono (raise_reports ..).node_eq (raise_tsu_waits ..)

theorem splitEvent_reports (s : State) (opref : Nat) (detail : W32) : ReportsOnly .tsu s (splitEvent s opref detail) := by
  unfold splitEvent
  exact (raise_reports ..).trans (raise_reports ..)

/-! ### Counters that sending and reporting leave -/

theorem ctr_eq_of_cnt {b c : Base} (h : c.cnt = b.cnt) (x : Ctr) (i : Nat) : c.ctr x i = b.ctr x i := by
  unfold Base.ctr; rw [h]

/-- What sending on ports and an event may count (R319, R424). -/
def Ctr.ofSending (x : Ctr) : Prop := x = .frLost ∨ x = .p1DepthMax ∨ x = .p1Overrun

/-- Counters that sending does not count are the same in `s` and `t`. -/
structure CtrsKept (p : Part) (s t : State) : Prop where
  ctr : ∀ x i, ¬ x.ofSending → i < 2 ^ 20 → (t.base p).ctr x i = (s.base p).ctr x i

theorem CtrsKept.refl (p : Part) (s : State) : CtrsKept p s s := ⟨fun _ _ _ _ => rfl⟩

theorem CtrsKept.trans {p : Part} {s t u : State} (h : CtrsKept p s t) (k : CtrsKept p t u) : CtrsKept p s u :=
  ⟨fun x i hx hi => (k.ctr x i hx hi).trans (h.ctr x i hx hi)⟩

theorem CtrsKept.of_cnt {p : Part} {s t : State} (h : (t.base p).cnt = (s.base p).cnt) : CtrsKept p s t :=
  ⟨fun x i _ _ => ctr_eq_of_cnt h x i⟩

theorem CtrsKept.foldl {α : Type} {p : Part} (f : State → α → State) :
    ∀ (l : List α) (s : State), (∀ s, ∀ a ∈ l, CtrsKept p s (f s a)) → CtrsKept p s (l.foldl f s)
  | [], s, _ => .refl p s
  | a :: l, s, h => (h s a (List.mem_cons_self ..)).trans
    (CtrsKept.foldl f l (f s a) fun s b hb => h s b (List.mem_cons_of_mem _ hb))

theorem count_ctrs (s : State) (p : Part) {x : Ctr} {i : Nat} (f : Flt) (n : Nat) (hx : x.ofSending) (hi : i < 2 ^ 20) :
    CtrsKept p s (s.count p x i f n) :=
  ⟨fun _ _ hy hj => count_ctr_ne _ _ _ _ _ _ _ _ (ctrKey_ne hi hj fun e => hy (by rw [(Prod.mk.inj e).1]; exact hx))⟩

theorem modPort_ctrs (s : State) (p : Part) (i : Nat) (f : Port → Port) : CtrsKept p s (s.modPort p i f) :=
  .of_cnt (by unfold State.modPort; rw [base_modBase]; rfl)

theorem maxCtr_ctrs (s : State) (p : Part) {x : Ctr} {i : Nat} (v : Nat) (hx : x.ofSending) (hi : i < 2 ^ 20) :
    CtrsKept p s (s.maxCtr p x i v) := ⟨fun y j hy hj => by
  unfold State.maxCtr
  rw [base_modBase]
  split
  · exact (tget_tset ..).trans (if_neg (ctrKey_ne hi hj fun e => hy (by rw [(Prod.mk.inj e).1]; exact hx)))
  · rfl⟩

theorem fr_ctrs (s : State) (p : Part) (cls : Nat) (body : List Byte) (hard : Bool) : CtrsKept p s (s.fr p cls body hard) := by
  unfold State.fr
  dsimp only
  split
  · refine .trans (.of_cnt ?_) (count_ctrs _ p _ _ (.inl rfl) (by decide))
    rw [base_modBase]
  · exact .of_cnt (by rw [base_modBase])

theorem sendP1_ctrs (s : State) (p : Part) {i : Nat} {c : OutCell} (hi : i < 2 ^ 20)
    (hc : p = .dist → c.slice < 2 ^ 20) :
    CtrsKept p s (sendP1 s p i c) := by
  unfold sendP1
  dsimp only
  split
  · rename_i h
    obtain rfl : p = .dist := by cases p <;> simp_all
    exact count_ctrs _ _ _ _ (.inr (.inr rfl)) (hc rfl)
  · exact (modPort_ctrs ..).trans (maxCtr_ctrs _ _ _ (.inr (.inl rfl)) hi)

theorem sendVote_ctrs (s : State) (p : Part) {i : Nat} (v : Vote) (hi : i < 2 ^ 20) : CtrsKept p s (sendVote s p i v) := by
  unfold sendVote
  dsimp only
  split
  · exact modPort_ctrs ..
  · exact (modPort_ctrs ..).trans (sendP1_ctrs _ _ hi fun _ => Nat.two_pow_pos 20)

theorem frTrigger_cnt (s : State) (p : Part) (code chan : Nat) (stamp : St) :
    ((s.frTrigger p code chan stamp).base p).cnt = (s.base p).cnt := by
  unfold State.frTrigger
  dsimp only
  split
  · rfl
  · split
    · rfl
    all_goals rw [base_modBase]

theorem alert_ctrs (s : State) (p : Part) (i : Nat) : CtrsKept p s (s.alert p i) := by
  refine .of_cnt ?_
  unfold State.alert
  extract_lets first s1 s2
  have h1 : (s1.base p).cnt = (s.base p).cnt := by rw [base_modBase]
  have h2 : (s2.base p).cnt = (s.base p).cnt := by
    simp only [s2]
    split
    · exact (frTrigger_cnt ..).trans h1
    · exact h1
  cases p with
  | tsu =>
    dsimp only
    split
    · exact h2
    · rw [irq_base]
      exact h2
  | dist => exact h2

theorem reportPorts_lt {s : State} {p : Part} {accused : Node} : ∀ i ∈ reportPorts s p accused, i < 2 ^ 20 := by
  intro i hi
  unfold reportPorts at hi
  cases p with
  | tsu =>
    dsimp only at hi
    split at hi
    · split at hi <;> simp at hi <;> omega
    · simp at hi
      omega
  | dist =>
    dsimp only at hi
    split at hi
    · simp at hi
      omega
    · have hup := (List.mem_filter.mp hi).1
      unfold uplinks at hup
      dsimp only at hup
      split at hup <;> simp at hup <;> omega

theorem raise_ctrs (s : State) (p : Part) (accused : Node) (hard split_ : Bool) (cause : Nat) (x : Ctx) :
    CtrsKept p s (raise s p accused hard split_ cause x) := by
  unfold raise
  extract_lets q r v s1 s2 s3
  have h2 : CtrsKept p s s2 := (fr_ctrs s p 1 _ hard).trans
    (.foldl _ _ _ fun s i hi => sendVote_ctrs s p v (reportPorts_lt i hi))
  have h3 : CtrsKept p s s3 := by
    simp only [s3]
    split
    · exact h2.trans (alert_ctrs ..)
    · exact h2
  split
  · rename_i h
    obtain rfl : p = .dist := by cases p <;> simp_all
    refine h3.trans (.of_cnt ?_)
    rw [tallyPut_eq]
    rfl
  · exact h3

end Sys2Proof.Machine

namespace Sys2Proof.Machine

/-! ### Writing an entry twice -/

theorem tput_tput_same {α : Type} (k : Nat) (v w : α) : ∀ l : Tab α, tput (tput l k v) k w = tput l k w
  | [] => by simp [tput]
  | (k', v') :: l => by
    by_cases hlt : k < k'
    · simp [tput, hlt]
    · by_cases heq : k = k'
      · simp [tput, heq]
      · simp [tput, hlt, heq, tput_tput_same k v w l]

theorem tset_tset_same {α : Type} [DecidableEq α] (d : α) (l : Tab α) (k : Nat) (v : α) :
    tset d (tset d l k v) k v = tset d l k v := by
  unfold tset
  split
  · rw [List.filter_filter]
    simp only [Bool.and_self]
  · exact tput_tput_same k v v l

/-- Writing what the entry just written holds changes nothing. -/
theorem tmod_tmod_of_same {α : Type} [DecidableEq α] (d : α) (l : Tab α) (k : Nat) (f g : α → α)
    (h : g (f (tget d l k)) = f (tget d l k)) : tmod d (tmod d l k f) k g = tmod d l k f := by
  unfold tmod
  rw [tget_tset, if_pos rfl, h, tset_tset_same]

theorem modPort_modPort_of_same (s : State) (p : Part) (i : Nat) (f g : Port → Port) (h : g (f (s.port p i)) = f (s.port p i)) :
    (s.modPort p i f).modPort p i g = s.modPort p i f := by
  cases p
  all_goals
    unfold State.modPort State.modBase Base.modPort
    dsimp only
    rw [tmod_tmod_of_same]
    exact h

/-! ### Arriving cells (R43, R108 to R110, R324) -/

theorem gap_eq_zero {a b : BitVec 16} (h : a = b) : (a - b).toNat = 0 := by simp [h]

theorem gap_ne_zero {a b : BitVec 16} (h : a ≠ b) : (a - b).toNat ≠ 0 := fun e =>
  h (sub_eq_zero.mp (BitVec.eq_of_toNat_eq e))

/-- A good cell of one, the next in SEQ on a port without open messages, goes on. -/
theorem cellIn_of_good {a : Arr} {type op : Nat} {p : Part} {s : State} (hcrc : a.crcOk = true) (htype : a.ctype.toNat = type)
    (hver : a.hver = 1) (hslot : a.slot0 = false) (hfirst : a.first = true) (hlast : a.last = true)
    (hseq : a.seq = (s.port p a.port).rxSeq) (hopen : (s.port p a.port).openMsg = []) :
    cellIn s p a type op false = (s.modPort p a.port fun q => { q with rxSeq := a.seq + 1 }, true) := by
  have hport : (s.modPort p a.port fun q => { q with rxSeq := a.seq + 1 }).port p a.port = { s.port p a.port with rxSeq := a.seq + 1 } :=
    port_modPort ..
  have hframing : framingBad { s.port p a.port with rxSeq := a.seq + 1 } a op = false := by
    unfold framingBad
    simp [hfirst, hopen]
  have hsame : (s.modPort p a.port fun q => { q with rxSeq := a.seq + 1 }).modPort p a.port
      (fun q => { q with openMsg := openAfter q a op }) = s.modPort p a.port fun q => { q with rxSeq := a.seq + 1 } := by
    refine modPort_modPort_of_same _ _ _ _ _ ?_
    unfold openAfter
    simp [hfirst, hlast, hopen]
  unfold cellIn
  simp only [hcrc, gap_eq_zero hseq, if_true, hport, hframing, htype, hver, hslot, hfirst, hsame]
  simp

/-- Without a step reset since, the pair of epochs decides (R43, R324). -/
theorem epochIn_of_kept {s : State} {p : Part} {a : Arr} {b : Bool}
    (h : ∀ c, resetCeOf s p a.slice = some c → 0 ≤ epochDiff a.ce c) : epochIn s p a b = epochIn.epochGo s p a b := by
  unfold epochIn
  split
  · rename_i c hc
    rw [if_neg (Int.not_lt.mpr (h c hc))]
  · rfl

theorem epochIn_of_reset {s : State} {p : Part} {a : Arr} {b : Bool} {c : Epoch} (hreset : resetCeOf s p a.slice = some c)
    (h : epochDiff a.ce c < 0) : epochIn s p a b =
      (s.count p .sliceCancelled (acctOf p a.slice) { slice := some a.slice, port := some a.port } 1, .drop) := by
  unfold epochIn
  rw [hreset]
  exact if_pos h

theorem pairClass_current {b : Base} {ce me : Epoch} (hce : ce = b.ep.ce) (hme : me = b.ep.me) : pairClass b ce me = 0 := by
  simp [pairClass, hce, hme, epochDiff]

theorem pairClass_older {b : Base} {ce me : Epoch} (hce : epochDiff ce b.ep.ce ≤ 0) (hme : epochDiff me b.ep.me ≤ 0)
    (h : epochDiff ce b.ep.ce < -1 ∨ epochDiff me b.ep.me < -1) : pairClass b ce me = 2 := by
  unfold pairClass
  dsimp only
  rw [if_neg (by omega), if_neg (by omega), if_neg (by omega)]

theorem pairClass_newer {b : Base} {ce me : Epoch} (h : 0 < epochDiff ce b.ep.ce ∨ 0 < epochDiff me b.ep.me) :
    pairClass b ce me = 3 := if_pos h

/-- A good cell of one and of the die's slice is judged by its pair of epochs, whatever else it is. -/
theorem dieIn_of_good {a : Arr} {type op : Nat} {ok : State → Bool} {s : State} (hcrc : a.crcOk = true)
    (htype : a.ctype.toNat = type) (hver : a.hver = 1) (hslot : a.slot0 = false) (hfirst : a.first = true) (hlast : a.last = true)
    (hseq : a.seq = (s.port .tsu a.port).rxSeq) (hopen : (s.port .tsu a.port).openMsg = []) (hvalid : s.tsu.die.sliceValid = true)
    (hslice : s.tsu.die.sliceId = a.slice) (hreset : ∀ c, s.tsu.turn.resetCe = some c → 0 ≤ epochDiff a.ce c) :
    let u := s.modPort .tsu a.port fun q => { q with rxSeq := a.seq + 1 }
    dieIn s a type op false ok = epochIn.epochGo u .tsu a (ok u) := by
  intro u
  have hkept : ∀ c, resetCeOf u .tsu a.slice = some c → 0 ≤ epochDiff a.ce c := fun c hc => by
    have h : resetCeOf u .tsu a.slice = s.tsu.turn.resetCe := if_pos hslice
    exact hreset c (h.symm.trans hc)
  have hvalid' : u.tsu.die.sliceValid = true := hvalid
  have hslice' : u.tsu.die.sliceId = a.slice := hslice
  unfold dieIn
  rw [cellIn_of_good hcrc htype hver hslot hfirst hlast hseq hopen, ← epochIn_of_kept hkept]
  dsimp only
  rw [if_neg (by rw [hvalid', hslice']; simp)]

/-- What a die does with a good cell of one of its slice, by the cell's pair of epochs. -/
theorem dieIn_good_cases {a : Arr} {type op : Nat} {ok : State → Bool} {s : State} (hcrc : a.crcOk = true)
    (htype : a.ctype.toNat = type) (hver : a.hver = 1) (hslot : a.slot0 = false) (hfirst : a.first = true) (hlast : a.last = true)
    (hseq : a.seq = (s.port .tsu a.port).rxSeq) (hopen : (s.port .tsu a.port).openMsg = []) (hvalid : s.tsu.die.sliceValid = true)
    (hslice : s.tsu.die.sliceId = a.slice) (hreset : ∀ c, s.tsu.turn.resetCe = some c → 0 ≤ epochDiff a.ce c) :
    let r := dieIn s a type op false ok
    r.1 = (match r.2 with
      | .ok => s.modPort .tsu a.port fun q => { q with rxSeq := a.seq + 1 }
      | _ => r.1) ∧
    (a.ce = s.tsu.b.ep.ce → a.me = s.tsu.b.ep.me → r.2 = .ok) ∧
    (epochDiff a.ce s.tsu.b.ep.ce ≤ 0 → epochDiff a.me s.tsu.b.ep.me ≤ 0 →
      epochDiff a.ce s.tsu.b.ep.ce < -1 ∨ epochDiff a.me s.tsu.b.ep.me < -1 →
      r.2 = .stale ∧ (r.1.base .tsu).ctr .epochStale 0 = (s.base .tsu).ctr .epochStale 0 + 1) ∧
    (0 < epochDiff a.ce s.tsu.b.ep.ce ∨ 0 < epochDiff a.me s.tsu.b.ep.me → r.2 = .drop ∧
      ∀ i ∈ reportPorts s .tsu (neighbour s .tsu a.port), ReportWaits r.1 .tsu i (neighbour s .tsu a.port) false causeNewer) := by
  rw [dieIn_of_good hcrc htype hver hslot hfirst hlast hseq hopen hvalid hslice hreset]
  set u := s.modPort .tsu a.port fun q => { q with rxSeq := a.seq + 1 } with hu
  have hep : (u.base .tsu).ep = s.tsu.b.ep := rfl
  refine ⟨?_, fun hce hme => ?_, fun hce hme h => ?_, fun h => ?_⟩
  · unfold epochIn.epochGo
    split
    · rfl
    · split <;> rfl
    · rfl
    · rfl
  · unfold epochIn.epochGo
    rw [pairClass_current (by rw [hep]; exact hce) (by rw [hep]; exact hme)]
    rfl
  · unfold epochIn.epochGo
    rw [pairClass_older (by rw [hep]; exact hce) (by rw [hep]; exact hme) (by rw [hep]; exact h)]
    exact ⟨rfl, count_ctr u .tsu .epochStale 0 _ 1⟩
  · have hneighbour : neighbour u .tsu a.port = neighbour s .tsu a.port := by
      unfold neighbour
      rw [hu, port_modPort]
    unfold epochIn.epochGo
    rw [pairClass_newer (by rw [hep]; exact h)]
    refine ⟨rfl, fun i hi => ?_⟩
    rw [← hneighbour] at hi ⊢
    exact raise_reportWaits hi

theorem postFlush_ctrs (s : State) (q : Post) (fin : Bool) : CtrsKept .dist s (postFlush s q fin).1 :=
  .foldl _ _ _ fun _ _ _ => .foldl _ _ _ fun _ _ _ => modPort_ctrs ..

theorem postClose_ctrs (s : State) (q q' : Post) : CtrsKept .dist s (postClose s q q') := by
  refine .of_cnt ?_
  unfold postClose sampleHand
  dsimp only
  split
  · split <;> rfl
  · rfl

theorem postAdvance_ctrs (s : State) (q : Post) : CtrsKept .dist s (postAdvance s q) := by
  unfold postAdvance
  split
  · exact .refl _ s
  · dsimp only
    split
    · exact (postFlush_ctrs ..).trans (postClose_ctrs ..)
    · split
      · exact (postFlush_ctrs ..).trans (postClose_ctrs ..)
      · refine .trans (postFlush_ctrs s (postFold q q.shape.elems) false) ?_
        exact .of_cnt rfl

/-- Breaking open messages counts nothing (R109, R263). -/
theorem breakOpen_ctrs (s : State) (p : Part) (port : Nat) (which : Nat → Bool) : CtrsKept p s (breakOpen s p port which) := by
  cases p with
  | tsu => exact .of_cnt rfl
  | dist =>
    refine .foldl _ _ _ fun s q _ => ?_
    dsimp only
    split
    · unfold postRemove
      split
      · exact .refl _ s
      · refine .trans ?_ (postAdvance_ctrs ..)
        exact .of_cnt rfl
    · exact .refl _ s

theorem suspectPort_ctrs (s : State) (p : Part) (i cause : Nat) (detail : W32) : CtrsKept p s (suspectPort s p i cause detail) :=
  raise_ctrs ..

/-- A corrupt cell is counted on its port, and counts nothing else but what its event sends. -/
theorem cellCorrupt_ctr (s : State) (p : Part) (a : Arr) (op : Nat) (hport : a.port < 2 ^ 20) :
    ((cellCorrupt s p a op).base p).ctr .cellCorrupt a.port = (s.base p).ctr .cellCorrupt a.port + 1 ∧
    ((cellCorrupt s p a op).base p).ctr .cellLost a.port = (s.base p).ctr .cellLost a.port := by
  unfold cellCorrupt
  extract_lets s1
  have h1 : CtrsKept p s s1 := by
    simp only [s1]
    split
    · exact (breakOpen_ctrs ..).trans (modPort_ctrs ..)
    · exact .refl p s
  have hsuspect := suspectPort_ctrs (s1.count p .cellCorrupt a.port { port := some a.port } 1) p a.port causeCell 0
  constructor
  · rw [hsuspect.ctr _ _ (by simp [Ctr.ofSending]) hport, count_ctr, h1.ctr _ _ (by simp [Ctr.ofSending]) hport]
  · rw [hsuspect.ctr _ _ (by simp [Ctr.ofSending]) hport, count_ctr_ne _ _ _ _ _ _ _ _ (ctrKey_ne hport hport (by simp)),
      h1.ctr _ _ (by simp [Ctr.ofSending]) hport]

/-- A cell of a type that its place does not allow is corrupt. -/
theorem cellIn_of_type {a : Arr} {type op : Nat} {bad : Bool} {p : Part} {s : State} (hport : a.port < 128) (hcrc : a.crcOk = true)
    (hseq : a.seq = (s.port p a.port).rxSeq) (htype : a.ctype.toNat ≠ type) : (cellIn s p a type op bad).2 = false ∧
      ((cellIn s p a type op bad).1.base p).ctr .cellCorrupt a.port = (s.base p).ctr .cellCorrupt a.port + 1 := by
  have h : cellIn s p a type op bad = (cellCorrupt (s.modPort p a.port fun q => { q with rxSeq := a.seq + 1 }) p a op, false) := by
    unfold cellIn
    simp only [hcrc, gap_eq_zero hseq, if_true]
    simp [htype]
  rw [h]
  refine ⟨rfl, ?_⟩
  rw [(cellCorrupt_ctr _ p a op (by omega)).1, (modPort_ctrs ..).ctr _ _ (by simp [Ctr.ofSending]) (by omega)]

/-- A gap in SEQ counts the cells lost, whatever becomes of the cell. -/
theorem cellIn_of_gap {a : Arr} {type op : Nat} {p : Part} {s : State} (hport : a.port < 128) (hcrc : a.crcOk = true)
    (hseq : a.seq ≠ (s.port p a.port).rxSeq) : ((cellIn s p a type op false).1.base p).ctr .cellLost a.port =
      (s.base p).ctr .cellLost a.port + (a.seq - (s.port p a.port).rxSeq).toNat := by
  have kept : ∀ t u : State, CtrsKept p t u → (u.base p).ctr .cellLost a.port = (t.base p).ctr .cellLost a.port := fun t u h =>
    h.ctr _ _ (by simp [Ctr.ofSending]) (by omega)
  unfold cellIn
  rw [if_neg (by simp [hcrc])]
  extract_lets gap s1 s2 lost
  have h1 : (s1.base p).ctr .cellLost a.port = (s.base p).ctr .cellLost a.port + gap := by
    simp only [s1]
    rw [if_neg (gap_ne_zero hseq), kept _ _ (modPort_ctrs ..), kept _ _ (breakOpen_ctrs ..), count_ctr]
  have h2 : (s2.base p).ctr .cellLost a.port = (s.base p).ctr .cellLost a.port + gap := (kept _ _ (modPort_ctrs ..)).trans h1
  split
  · exact (cellCorrupt_ctr s2 p a op (by omega)).2.trans h2
  · exact (kept _ _ (modPort_ctrs ..)).trans h2

end Sys2Proof.Machine

namespace Sys2Proof.Machine

/-! ### What a counter operation leaves (R221, R224, R227) -/

theorem DeliversOnly.ctrs_eq {s t : State} (h : DeliversOnly s t) : t.tsu.sync.ctrs = s.tsu.sync.ctrs := by rw [h.frame]

/-- `t` keeps the SIGNALs performed and the planes in use of `s`, and every counter but one. -/
structure OneCounter (k : Nat) (s t : State) : Prop where
  sigIn : t.tsu.sync.sigIn = s.tsu.sync.sigIn
  planeOff : t.tsu.die.planeOff = s.tsu.die.planeOff
  others : ∀ j, j ≠ k → ctrOf t j = ctrOf s j

theorem OneCounter.refl (k : Nat) (s : State) : OneCounter k s s := ⟨rfl, rfl, fun _ _ => rfl⟩

theorem OneCounter.trans {k : Nat} {s t u : State} (h : OneCounter k s t) (g : OneCounter k t u) : OneCounter k s u :=
  ⟨g.sigIn.trans h.sigIn, g.planeOff.trans h.planeOff, fun j hj => (g.others j hj).trans (h.others j hj)⟩

theorem OneCounter.of_tsu {k : Nat} {s t : State} (hsync : t.tsu.sync = s.tsu.sync) (hdie : t.tsu.die.planeOff = s.tsu.die.planeOff) :
    OneCounter k s t := ⟨by rw [hsync], hdie, fun _ _ => by unfold ctrOf; rw [hsync]⟩

theorem CountsOnly.sync_eq {p : Part} {s t : State} (h : CountsOnly p s t) : t.tsu.sync = s.tsu.sync := by rw [h.tsu]

theorem CountsOnly.oneCounter {p : Part} {s t : State} (h : CountsOnly p s t) (k : Nat) : OneCounter k s t :=
  .of_tsu h.sync_eq (by rw [h.tsu])

theorem holdCheck_delivers (s : State) (k : Nat) : DeliversOnly s (holdCheck s k) :=
  ⟨rfl, fun h => by simp [holdCheck, State.modPlate, h]⟩

/-- A counter written, and what its watches and the conditions held on it then do. -/
theorem ctrWrite_delivers (s : State) (k : Nat) (x : SyncCtr) :
    DeliversOnly (s.modSync fun y => { y with ctrs := tset {} y.ctrs k x }) (ctrWrite s k x) := by
  unfold ctrWrite
  dsimp only
  exact .trans (.trans (event_counts ..).delivers (watchesEval_delivers ..)) (holdCheck_delivers ..)

theorem ctrWrite_ctrOf (s : State) (k : Nat) (x : SyncCtr) : ctrOf (ctrWrite s k x) k = x := by
  unfold ctrOf
  rw [(ctrWrite_delivers s k x).ctrs_eq]
  exact (tget_tset ..).trans (if_pos rfl)

theorem ctrWrite_oneCounter (s : State) (k : Nat) (x : SyncCtr) : OneCounter k s (ctrWrite s k x) := by
  have h := ctrWrite_delivers s k x
  refine ⟨by rw [h.frame]; rfl, by rw [h.frame]; rfl, fun j hj => ?_⟩
  unfold ctrOf
  rw [h.ctrs_eq]
  exact (tget_tset ..).trans (if_neg hj)

/-- A rejected operation leaves the counters (R224). -/
theorem ctrFault_ctrs (s : State) (overflow : Bool) (src : Src) (k : Nat) (n : W32) :
    (ctrFault s overflow src k n).tsu.sync.ctrs = s.tsu.sync.ctrs ∧ OneCounter k s (ctrFault s overflow src k n) := by
  unfold ctrFault
  extract_lets y f s1 s2
  have h1 := event_counts s .tsu 0x031 (dieFlt s) 1
  split
  · have h := h1.trans (count_counts (s.event .tsu 0x031 (dieFlt s) 1) .tsu .ctrFaultLost 0 {} 1)
    exact ⟨by rw [h.sync_eq], h.oneCounter k⟩
  · have h2 : OneCounter k s s2 := (h1.oneCounter k).trans ⟨rfl, rfl, fun _ _ => rfl⟩
    split
    · exact ⟨by rw [(irq_counts ..).sync_eq]; rfl, h2.trans ((irq_counts ..).oneCounter k)⟩
    · exact ⟨rfl, h2⟩

/-- A rejected operation is recorded while the queue has room (R224). -/
theorem ctrFault_faults {s : State} (overflow : Bool) (src : Src) (k : Nat) (n : W32) (h : s.tsu.sync.faults.length < 256) :
    ∃ f, (ctrFault s overflow src k n).tsu.sync.faults = s.tsu.sync.faults ++ [f] ∧ f.overflow = overflow ∧ f.srcKind = src.kind ∧
      f.srcCore = src.core ∧ f.srcId = src.id ∧ f.opId = src.opId := by
  unfold ctrFault
  extract_lets y f s1 s2
  refine ⟨f, ?_, rfl, rfl, rfl, rfl, rfl⟩
  rw [if_neg (Nat.not_le.mpr h)]
  split
  · rw [(irq_counts ..).sync_eq]
    rfl
  · rfl

theorem ctrOp_oneCounter (s : State) (k : Nat) (op : CtrOp) (src : Src) : OneCounter k s (ctrOp s k op src).1 := by
  unfold ctrOp
  dsimp only
  split
  · exact .refl k s
  · split
    · split
      · exact (ctrFault_ctrs ..).2
      · exact ctrWrite_oneCounter ..
    · split
      · exact (ctrFault_ctrs ..).2
      · exact ctrWrite_oneCounter ..
    · exact ctrWrite_oneCounter ..
    · exact ((clamped_counts ..).oneCounter k).trans (ctrWrite_oneCounter ..)

theorem ctrOp_add_of_le {s : State} {k : Nat} {n : W32} {src : Src} (halloc : (ctrOf s k).alloc = true)
    (h : (ctrOf s k).value.toNat + n.toNat ≤ (ctrOf s k).limit.toNat) : ctrOp s k (.add n) src =
      (ctrWrite s k { ctrOf s k with value := (ctrOf s k).value + n }, .ok, (ctrOf s k).value + n) := by
  unfold ctrOp
  simp only [halloc, Nat.not_lt.mpr h]
  simp

theorem ctrOp_add_of_gt {s : State} {k : Nat} {n : W32} {src : Src} (halloc : (ctrOf s k).alloc = true)
    (h : (ctrOf s k).limit.toNat < (ctrOf s k).value.toNat + n.toNat) : ctrOp s k (.add n) src =
      (ctrFault s true src k n, .overflow, (ctrOf s k).value) := by
  unfold ctrOp
  simp only [halloc, h]
  simp

theorem ctrOp_sub_of_le {s : State} {k : Nat} {n : W32} {src : Src} (halloc : (ctrOf s k).alloc = true)
    (h : n.toNat ≤ (ctrOf s k).value.toNat) : ctrOp s k (.sub n) src =
      (ctrWrite s k { ctrOf s k with value := (ctrOf s k).value - n }, .ok, (ctrOf s k).value - n) := by
  unfold ctrOp
  simp only [halloc, Nat.not_lt.mpr h]
  simp

theorem ctrOp_read {s : State} {k : Nat} {src : Src} (halloc : (ctrOf s k).alloc = true) :
    ctrOp s k .read src = (ctrWrite s k (ctrOf s k), .ok, (ctrOf s k).value) := by
  unfold ctrOp
  simp only [halloc]
  simp

/-! ### The answer of a SIGNAL (R235, R236) -/

theorem sendBoth_sends (s : State) (c : OutCell) : SendsOnly .tsu s (sendBoth s c) :=
  .foldl _ (fun s i => sendP1_sends s .tsu i c) _ s

theorem planesOn_lt {s : State} {i : Nat} (h : i ∈ planesOn s) : i < 2 := by
  have := (List.mem_filter.mp h).1
  simp at this
  omega

theorem sendBoth_ctrs (s : State) (c : OutCell) : CtrsKept .tsu s (sendBoth s c) :=
  .foldl _ _ _ fun _ _ hi => sendP1_ctrs _ _ ((planesOn_lt hi).trans (by decide)) fun h => absurd h (by decide)

/-- A cell sent on both planes waits on each of them. -/
theorem sendBoth_self {s : State} {c : OutCell} {i : Nat} (h : i ∈ planesOn s) : CellWaits (sendBoth s c) .tsu i c := by
  unfold sendBoth
  generalize planesOn s = is at h
  induction is generalizing s with
  | nil => exact absurd h (by simp)
  | cons j is ih =>
    rw [List.foldl_cons]
    rcases List.mem_cons.mp h with rfl | h
    · exact (WaitsKept.foldl (fun s i => sendP1 s .tsu i c) (fun s i => sendP1_waits s .tsu i c) is _).waits _ _ (sendP1_self ..)
    · exact ih h

theorem signalAnswer_sends (s : State) (ce me : Epoch) (c : SignalCell) (st : Status) (v : W32) :
    SendsOnly .tsu s (signalAnswer s ce me c st v) := by
  unfold signalAnswer signalReply
  split
  · exact sendBoth_sends ..
  · exact .refl _ s

theorem signalAnswer_sync (s : State) (ce me : Epoch) (c : SignalCell) (st : Status) (v : W32) :
    (signalAnswer s ce me c st v).tsu.sync = s.tsu.sync := by rw [(signalAnswer_sends ..).tsu]

theorem signalAnswer_ctrs (s : State) (ce me : Epoch) (c : SignalCell) (st : Status) (v : W32) :
    CtrsKept .tsu s (signalAnswer s ce me c st v) := by
  unfold signalAnswer signalReply
  split
  · exact sendBoth_ctrs ..
  · exact .refl _ s

/-- A SIGNAL that asked for a REPLY gets one on every plane in use (R236). -/
theorem signalAnswer_waits {s : State} {ce me : Epoch} {c : SignalCell} {st : Status} {v : W32} {i : Nat} (hreply : c.replyReq = true)
    (hi : i ∈ planesOn s) : ∃ o r, CellWaits (signalAnswer s ce me c st v) .tsu i o ∧ o.body = .signal r ∧ r.op = 4 ∧ r.dst = c.src ∧
      r.opId = c.opId ∧ r.status = Status.code st ∧ r.value = v := by
  unfold signalAnswer signalReply
  rw [if_pos hreply]
  exact ⟨_, _, sendBoth_self hi, rfl, rfl, rfl, rfl, rfl, rfl⟩

/-! ### SIGNAL at its target (R235, R236, R252) -/

/-- The checks of an arriving cell change the die alone. -/
theorem dieIn_only (s : State) (a : Arr) (type op : Nat) (bad : Bool) (ok : State → Bool) :
    PartOnly .tsu s (dieIn s a type op bad ok).1 := by
  have break_only : ∀ (t : State) (which : Nat → Bool), PartOnly .tsu t
      ((breakOpen t .tsu a.port which).modPort .tsu a.port (markBroken which)) := fun t which => ⟨rfl, rfl, rfl⟩
  have cell_only : PartOnly .tsu s (cellIn s .tsu a type op bad).1 := by
    unfold cellIn
    split
    · exact (count_counts s .tsu .cellCrc a.port { port := some a.port } 1).part
    · extract_lets gap s1 s2 lost
      have h1 : PartOnly .tsu s s1 := by
        simp only [s1]
        split
        · exact partOnly_refl _ s
        · exact partOnly_trans (count_counts ..).part (break_only _ _)
      have h2 : PartOnly .tsu s s2 := partOnly_trans h1 (modPort_sends ..).part
      split
      · refine partOnly_trans h2 ?_
        unfold cellCorrupt
        extract_lets s3
        have h3 : PartOnly .tsu s2 s3 := by
          simp only [s3]
          split
          · exact break_only _ _
          · exact partOnly_refl _ _
        exact partOnly_trans (partOnly_trans h3 (count_counts ..).part) (suspectPort_reports ..).part
      · exact partOnly_trans h2 (modPort_sends ..).part
  have epoch_only : ∀ (t : State) (b : Bool), PartOnly .tsu t (epochIn t .tsu a b).1 := by
    have go_only : ∀ (t : State) (b : Bool), PartOnly .tsu t (epochIn.epochGo t .tsu a b).1 := by
      intro t b
      unfold epochIn.epochGo
      split
      · exact partOnly_refl _ t
      · split
        · exact partOnly_refl _ t
        · exact (stale_counts ..).part
      · exact (stale_counts ..).part
      · exact (suspectPort_reports ..).part
    intro t b
    unfold epochIn
    split
    · split
      · exact (count_counts ..).part
      · exact go_only t b
    · exact go_only t b
  unfold dieIn
  generalize cellIn s .tsu a type op bad = r at cell_only
  obtain ⟨u, b⟩ := r
  cases b with
  | false => exact cell_only
  | true =>
    dsimp only
    split
    · exact cell_only
    · exact partOnly_trans cell_only (epoch_only ..)

/-- The entry of a SIGNAL performed (R235). -/
def sigInOf (u : State) (a : Arr) (c : SignalCell) : SigIn :=
  { src := c.src, opId := c.opId, cell := c, first := u.now .tsu, planeB := a.port == 1 }

/-- `u` with that entry noted, before the operation. -/
def signalNoted (u : State) (a : Arr) (c : SignalCell) : State :=
  u.modSync fun y => { y with sigIn := (y.sigIn.filter fun e => !stLater (u.now .tsu) e.cell.deadline) ++ [sigInOf u a c] }

/-- A SIGNAL performed leaves every other counter, notes its entry, and changes the die alone. -/
theorem signalPerform_only (u : State) (a : Arr) (c : SignalCell) :
    OneCounter (c.counter % 4096) (signalNoted u a c) (signalPerform u a c) ∧ PartOnly .tsu u (signalPerform u a c) := by
  have answer : ∀ (t : State) (st : Status) (v : W32), OneCounter (c.counter % 4096) t (signalAnswer t a.ce a.me c st v) ∧
      PartOnly .tsu t (signalAnswer t a.ce a.me c st v) := fun t st v =>
    ⟨.of_tsu (signalAnswer_sync ..) (by rw [(signalAnswer_sends ..).tsu]), (signalAnswer_sends ..).part⟩
  have noted : PartOnly .tsu u (signalNoted u a c) := modSync_only _ _
  have done : ∀ t, OneCounter (c.counter % 4096) (signalNoted u a c) t ∧ PartOnly .tsu (signalNoted u a c) t →
      OneCounter (c.counter % 4096) (signalNoted u a c) t ∧ PartOnly .tsu u t := fun t h => ⟨h.1, partOnly_trans noted h.2⟩
  refine done _ ?_
  unfold signalPerform
  dsimp only
  split
  · exact answer ..
  · exact answer ..
  · split
    · exact answer ..
    · have hop := ctrOp_oneCounter (signalNoted u a c) (c.counter % 4096)
      obtain ⟨h, hpart⟩ := answer (ctrOp (signalNoted u a c) (c.counter % 4096) _ (signalSrc c)).1 _ _
      exact ⟨(hop _ _).trans h, partOnly_trans (ctrOp_only ..) hpart⟩

/-- A die that refuses nothing performs the operation of a SIGNAL and answers with its outcome. -/
theorem signalPerform_of_op {u : State} {a : Arr} {c : SignalCell} {o : CtrOp} (hrefuses : dieRefuses u = none)
    (hstate : u.tsu.die.state ≠ .parted) (hop : signalOp c.op c.n = some o) : signalPerform u a c =
      signalAnswer (ctrOp (signalNoted u a c) (c.counter % 4096) o (signalSrc c)).1 a.ce a.me c
        (ctrOp (signalNoted u a c) (c.counter % 4096) o (signalSrc c)).2.1
        (ctrOp (signalNoted u a c) (c.counter % 4096) o (signalSrc c)).2.2 := by
  have hrefuses' : dieRefuses (signalNoted u a c) = none := hrefuses
  unfold signalPerform
  extract_lets now s1
  have h1 : s1 = signalNoted u a c := rfl
  clear_value s1
  subst h1
  rw [hrefuses', hop]
  dsimp only
  have hstate' : (signalNoted u a c).tsu.die.state ≠ .parted := hstate
  rw [if_neg (by simpa using hstate')]

theorem ctrOf_signalAnswer (s : State) (ce me : Epoch) (c : SignalCell) (st : Status) (v : W32) (k : Nat) :
    ctrOf (signalAnswer s ce me c st v) k = ctrOf s k := by
  unfold ctrOf
  rw [signalAnswer_sync]

theorem ctrOf_signalNoted (u : State) (a : Arr) (c : SignalCell) (k : Nat) : ctrOf (signalNoted u a c) k = ctrOf u k := rfl

section
variable {u : State} {a : Arr} {c : SignalCell} (hrefuses : dieRefuses u = none) (hstate : u.tsu.die.state ≠ .parted)
  (halloc : (ctrOf u (c.counter % 4096)).alloc = true)
include hrefuses hstate halloc

/-- A SIGNAL ADD within the limit adds, and answers OK with the new value (R235, R236). -/
theorem signalPerform_add (hop : c.op = 1) (hle : (ctrOf u (c.counter % 4096)).value.toNat + c.n.toNat ≤
      (ctrOf u (c.counter % 4096)).limit.toNat) : let t := signalPerform u a c
    ctrOf t (c.counter % 4096) = { ctrOf u (c.counter % 4096) with value := (ctrOf u (c.counter % 4096)).value + c.n } ∧
    (c.replyReq = true → ∀ i ∈ planesOn u, ∃ o r, CellWaits t .tsu i o ∧ o.body = .signal r ∧ r.op = 4 ∧ r.dst = c.src ∧
      r.opId = c.opId ∧ r.status = 0 ∧ r.value = (ctrOf u (c.counter % 4096)).value + c.n) := by
  intro t
  have ht : t = _ := signalPerform_of_op (o := .add c.n) hrefuses hstate (by simp [signalOp, hop])
  rw [ctrOp_add_of_le (s := signalNoted u a c) halloc hle] at ht
  rw [ht]
  refine ⟨(ctrOf_signalAnswer ..).trans (ctrWrite_ctrOf ..), fun hreply i hi => signalAnswer_waits hreply ?_⟩
  have hplanes := (ctrWrite_oneCounter (signalNoted u a c) (c.counter % 4096)
    { ctrOf u (c.counter % 4096) with value := (ctrOf u (c.counter % 4096)).value + c.n }).planeOff
  unfold planesOn at hi ⊢
  rw [ctrOf_signalNoted, hplanes]
  exact hi

/-- A SIGNAL ADD beyond the limit leaves the counter, and is recorded against the source core (R224, R235). -/
theorem signalPerform_overflow (hop : c.op = 1) (hgt : (ctrOf u (c.counter % 4096)).limit.toNat <
      (ctrOf u (c.counter % 4096)).value.toNat + c.n.toNat) : let t := signalPerform u a c
    ctrOf t (c.counter % 4096) = ctrOf u (c.counter % 4096) ∧
    (u.tsu.sync.faults.length < 256 → ∃ f, t.tsu.sync.faults = u.tsu.sync.faults ++ [f] ∧ f.overflow = true ∧
      f.srcKind = 2 ∧ f.srcCore = c.srcCore ∧ f.srcId = dieIndex c.src ∧ f.opId = c.opId.toNat) := by
  intro t
  have ht : t = _ := signalPerform_of_op (o := .add c.n) hrefuses hstate (by simp [signalOp, hop])
  rw [ctrOp_add_of_gt (s := signalNoted u a c) halloc hgt] at ht
  rw [ht]
  refine ⟨(ctrOf_signalAnswer ..).trans ?_, fun hroom => ?_⟩
  · unfold ctrOf
    rw [(ctrFault_ctrs ..).1]
    rfl
  · rw [signalAnswer_sync]
    exact ctrFault_faults (s := signalNoted u a c) true (signalSrc c) (c.counter % 4096) c.n hroom

theorem signalPerform_sub (hop : c.op = 2) (hle : c.n.toNat ≤ (ctrOf u (c.counter % 4096)).value.toNat) :
    ctrOf (signalPerform u a c) (c.counter % 4096) =
      { ctrOf u (c.counter % 4096) with value := (ctrOf u (c.counter % 4096)).value - c.n } := by
  rw [signalPerform_of_op (o := .sub c.n) hrefuses hstate (by simp [signalOp, hop]), ctrOp_sub_of_le (s := signalNoted u a c) halloc hle, ctrOf_signalAnswer]
  exact ctrWrite_ctrOf ..

theorem signalPerform_read (hop : c.op = 3) : ctrOf (signalPerform u a c) (c.counter % 4096) = ctrOf u (c.counter % 4096) := by
  rw [signalPerform_of_op (o := .read) hrefuses hstate (by simp [signalOp, hop]), ctrOp_read (s := signalNoted u a c) halloc, ctrOf_signalAnswer]
  exact ctrWrite_ctrOf ..

end

/-- A SIGNAL performed keeps its payload (R235). -/
theorem sigInOf_mem_signalPerform (u : State) (a : Arr) (c : SignalCell) : sigInOf u a c ∈ (signalPerform u a c).tsu.sync.sigIn := by
  rw [(signalPerform_only u a c).1.sigIn]
  exact List.mem_append_right _ (List.mem_singleton_self _)

/-- A further copy changes no counter; one that differs is a split event (R235, R328). -/
theorem signalCopy_only (u : State) (e : SigIn) (c : SignalCell) : let t := signalCopy u e c
    t.tsu.sync.ctrs = u.tsu.sync.ctrs ∧ t.tsu.sync.faults = u.tsu.sync.faults ∧ PartOnly .tsu u t ∧
    (e.cell ≠ c → ∀ i ∈ reportPorts u .tsu (neighbour u .tsu 0), ReportWaits t .tsu i (neighbour u .tsu 0) false causeDiffer) := by
  unfold signalCopy
  extract_lets s1 t
  have hpart : PartOnly .tsu u s1 := modSync_only _ _
  simp only [t]
  split
  · rename_i heq
    exact ⟨rfl, rfl, hpart, fun h => absurd heq h⟩
  · have h := splitEvent_reports s1 c.opId.toNat 0
    have hsync : (splitEvent s1 c.opId.toNat 0).tsu.sync = s1.tsu.sync := by rw [h.tsu]
    refine ⟨by rw [hsync]; rfl, by rw [hsync]; rfl, partOnly_trans hpart h.part, fun _ i hi => ?_⟩
    exact splitEvent_reportWaits (s := s1) hi

end Sys2Proof.Machine

namespace Sys2Proof.Machine

theorem dieIn_part {s u : State} {a : Arr} {type op : Nat} {bad : Bool} {ok : State → Bool} {r : Rx}
    (h : dieIn s a type op bad ok = (u, r)) : TsuOnly s u := by
  have hpart := dieIn_only s a type op bad ok
  rwa [h] at hpart

/-- SIGNAL_CELL_RECEIVE at the target, by the cases of R235. -/
theorem signalCellReceive {a : Arr} {c : SignalCell} {s u : State} (hport : a.port < 2)
    (hin : dieIn s a 3 c.opId.toNat (decide (0x13 < c.status)) (fun s => inTime s .tsu c.deadline) = (u, .ok))
    (hdst : c.dst = u.node .tsu) : Completes (.signalCellReceive a c) s fun t =>
      let x := ctrOf u (c.counter % 4096)
      let e := u.tsu.sync.sigIn.find? fun e => e.src == c.src && e.opId == c.opId
      let live := inTime u .tsu c.deadline
      (live = true → e = none → u.tsu.sync.closed = false → dieRefuses u = none → u.tsu.die.state ≠ .parted → x.alloc = true →
        (c.op = 1 → x.value.toNat + c.n.toNat ≤ x.limit.toNat →
          ctrOf t (c.counter % 4096) = { x with value := x.value + c.n } ∧
          (c.replyReq = true → ∀ i ∈ planesOn u, ∃ o r, CellWaits t .tsu i o ∧ o.body = .signal r ∧ r.op = 4 ∧ r.dst = c.src ∧
            r.opId = c.opId ∧ r.status = 0 ∧ r.value = x.value + c.n)) ∧
        (c.op = 1 → x.limit.toNat < x.value.toNat + c.n.toNat → ctrOf t (c.counter % 4096) = x ∧
          (u.tsu.sync.faults.length < 256 → ∃ f, t.tsu.sync.faults = u.tsu.sync.faults ++ [f] ∧ f.overflow = true ∧
            f.srcKind = 2 ∧ f.srcCore = c.srcCore ∧ f.srcId = dieIndex c.src ∧ f.opId = c.opId.toNat)) ∧
        (c.op = 2 → c.n.toNat ≤ x.value.toNat → ctrOf t (c.counter % 4096) = { x with value := x.value - c.n }) ∧
        (c.op = 3 → ctrOf t (c.counter % 4096) = x) ∧
        ∃ q ∈ t.tsu.sync.sigIn, q.src = c.src ∧ q.opId = c.opId ∧ q.cell = c) ∧
      (∀ q, live = true → e = some q → t.tsu.sync.ctrs = u.tsu.sync.ctrs ∧ t.tsu.sync.faults = u.tsu.sync.faults ∧
        (q.cell ≠ c → ∀ i ∈ reportPorts u .tsu (neighbour u .tsu 0),
          ReportWaits t .tsu i (neighbour u .tsu 0) false causeDiffer)) ∧
      (live = true → e = none → u.tsu.sync.closed = true → t.tsu.sync.ctrs = u.tsu.sync.ctrs ∧
        (t.base .tsu).ctr .ctxDiscard 0 = (u.base .tsu).ctr .ctxDiscard 0 + 1) ∧
      (live = false → t.tsu.sync = u.tsu.sync ∧
        (t.base .tsu).ctr .signalExpired 0 = (u.base .tsu).ctr .signalExpired 0 + 1) ∧
      (∀ k, k ≠ c.counter % 4096 → ctrOf t k = ctrOf u k) ∧ TsuOnly s t := by
  have hpart : TsuOnly s u := dieIn_part hin
  unfold Completes exec execSignalCellReceive
  refine onPort_completes hport ?_
  simp only [hin]
  rw [if_neg (not_not_intro hdst)]
  cases hlive : inTime u .tsu c.deadline with
  | false =>
    have h := count_counts u .tsu .signalExpired 0 (dieFlt u) 1
    simp only [Bool.not_false, if_true]
    refine ⟨by simp, by simp, by simp, fun _ => ⟨h.sync_eq, count_ctr ..⟩, fun k _ => ?_, partOnly_trans (p := .tsu) hpart h.part⟩
    unfold ctrOf
    rw [h.sync_eq]
  | true =>
    simp only [Bool.not_true, Bool.false_eq_true, if_false]
    cases he : u.tsu.sync.sigIn.find? fun e => e.src == c.src && e.opId == c.opId with
    | some q =>
      obtain ⟨hctrs, hfaults, honly, hreport⟩ := signalCopy_only u q c
      refine ⟨by simp, fun q' _ hq => ?_, by simp, by simp, fun k _ => ?_, partOnly_trans (p := .tsu) hpart honly⟩
      · obtain rfl := Option.some.inj hq
        exact ⟨hctrs, hfaults, hreport⟩
      · unfold ctrOf
        rw [hctrs]
    | none =>
      dsimp only
      cases hclosed : u.tsu.sync.closed with
      | true =>
        have hcount := count_counts u .tsu .ctxDiscard 0 {} 1
        have hanswer := signalAnswer_sends (u.count .tsu .ctxDiscard 0 {} 1) a.ce a.me c .cancelled 0
        have hsync : (signalAnswer (u.count .tsu .ctxDiscard 0 {} 1) a.ce a.me c .cancelled 0).tsu.sync = u.tsu.sync :=
          (signalAnswer_sync ..).trans hcount.sync_eq
        simp only [if_true]
        refine ⟨by simp, by simp, fun _ _ _ => ⟨by rw [hsync], ?_⟩, by simp, fun k _ => ?_,
          partOnly_trans (p := .tsu) hpart (partOnly_trans (p := .tsu) hcount.part hanswer.part)⟩
        · rw [(signalAnswer_ctrs ..).ctr _ _ (by simp [Ctr.ofSending]) (Nat.two_pow_pos 20), count_ctr]
        · unfold ctrOf
          rw [hsync]
      | false =>
        obtain ⟨hone, honly⟩ := signalPerform_only u a c
        simp only [Bool.false_eq_true, if_false]
        refine ⟨fun _ _ _ hrefuses hstate halloc => ?_, by simp, by simp, by simp, fun k hk => ?_,
          partOnly_trans (p := .tsu) hpart honly⟩
        · exact ⟨signalPerform_add hrefuses hstate halloc, signalPerform_overflow hrefuses hstate halloc,
            signalPerform_sub hrefuses hstate halloc, signalPerform_read hrefuses hstate halloc,
            _, sigInOf_mem_signalPerform u a c, rfl, rfl, rfl⟩
        · exact hone.others k hk

/-- A single copy is counted when the deckle passes (R235). -/
theorem signalDeckleExpire {src : Node} {id : BitVec 16} {e : SigIn} {s : State}
    (he : (s.tsu.sync.sigIn.find? fun e => e.src == src && e.opId == id && !e.second && !e.counted && deckleOver s e.first) = some e) :
    Completes (.signalDeckleExpire src id) s fun t =>
      (t.base .tsu).ctr .signalSingle 0 = (s.base .tsu).ctr .signalSingle 0 + 1 ∧
      t.tsu.sync = { s.tsu.sync with sigIn := s.tsu.sync.sigIn.replace e { e with counted := true } } ∧ TsuOnly s t := by
  have h : exec (.signalDeckleExpire src id) s = .next ((s.modSync fun y => { y with
      sigIn := y.sigIn.replace e { e with counted := true } }).count .tsu .signalSingle 0 (dieFlt s) 1) := by
    show execSignalDeckleExpire src id s = _
    unfold execSignalDeckleExpire
    rw [he]
  refine ⟨_, h, count_ctr .., ?_, ?_⟩
  · rw [(count_counts ..).sync_eq]
    rfl
  · exact partOnly_trans (p := .tsu) (modSync_only _ _) (count_counts ..).part

/-! ### SIGNAL replies at the source (R236) -/

/-- The one message of the out-queue goes to its core, which takes it (R230). -/
theorem deliver1_of_takes {s : State} {m : Msg} (hout : s.tsu.sync.outQ = [m]) (hpend : s.tsu.sync.pend = [])
    (hreset : coreInReset s m.core = false) (hcredit : (tget [] s.tsu.sync.coreQ m.core).length < 16) (hkind : m.kind ≠ 1) :
    deliver1 m.core s = s.modSync fun y => { y with outQ := [], coreQ := tmod [] y.coreQ m.core (· ++ [m]) } := by
  unfold deliver1
  rw [hout]
  simp only [List.find?_cons, beq_self_eq_true, hreset, Bool.false_eq_true, if_false, if_pos hcredit, if_neg hkind]
  simp [State.modSync, outRefill, hout, hpend]

theorem deliver1_of_empty {s : State} (core : Nat) (hout : s.tsu.sync.outQ = []) : deliver1 core s = s := by
  unfold deliver1
  rw [hout]
  rfl

/-- A message that its core takes at once stands last in the core's queue (R230). -/
theorem msgPut_of_coreTakes {s : State} {m : Msg} (h : CoreTakes s m.core) (hkind : m.kind ≠ 1) (hrearm : m.rearm = false) :
    tget [] (msgPut s m).tsu.sync.coreQ m.core = tget [] s.tsu.sync.coreQ m.core ++ [m] := by
  obtain ⟨hreset, hcredit, hout, hpend⟩ := h
  have hput : msgPut s m = deliver m.core (s.modSync fun y => { y with outQ := y.outQ ++ [m] }) := by
    unfold msgPut
    simp [hrearm, hout]
  have hout' : (s.modSync fun y => { y with outQ := y.outQ ++ [m] }).tsu.sync.outQ = [m] := by simp [State.modSync, hout]
  have hpend' : (s.modSync fun y => { y with outQ := y.outQ ++ [m] }).tsu.sync.pend = [] := hpend
  rw [hput]
  unfold deliver
  rw [hout', hpend']
  simp only [List.length_cons, List.length_nil, List.range_succ, List.range_zero, List.nil_append, List.foldl_append,
    List.foldl_cons, List.foldl_nil]
  rw [deliver1_of_takes hout' hpend hreset hcredit hkind, deliver1_of_empty _ rfl]
  show tget [] (tmod [] s.tsu.sync.coreQ m.core (· ++ [m])) m.core = _
  rw [tget_tmod, if_pos rfl]

/-- The SIGNAL_REPLY that a core takes, and what ending a SIGNAL leaves (R236). -/
theorem sigOutDone_delivers (s : State) (e : SigOut) (st : Status) (v : W32) (planeB unverified : Bool) :
    let t := sigOutDone s e st v planeB unverified
    t.tsu.sync.sigOut = s.tsu.sync.sigOut.erase e ∧ t.tsu.sync.ctrs = s.tsu.sync.ctrs ∧
    (CoreTakes s e.core → ∃ m, tget [] t.tsu.sync.coreQ e.core = tget [] s.tsu.sync.coreQ e.core ++ [m] ∧ m.kind = 4 ∧
      m.tag = e.opId ∧ m.id = e.counter ∧ m.value = v ∧ m.status = st ∧ m.planeB = planeB ∧ m.unverified = unverified) := by
  intro t
  refine ⟨sigOutDone_sigOut .., ?_, fun h => ?_⟩
  · simp only [t]
    unfold sigOutDone
    dsimp only
    rw [(msgPut_delivers _ _).ctrs_eq]
    split <;> rfl
  · simp only [t]
    unfold sigOutDone
    extract_lets s1 s2
    have hsync : s2.tsu.sync = { s.tsu.sync with sigOut := s.tsu.sync.sigOut.erase e } := by
      simp only [s2]
      split <;> rfl
    have htakes : CoreTakes s2 e.core := by
      unfold CoreTakes coreInReset at h ⊢
      rw [hsync]
      exact h
    refine ⟨_, (msgPut_of_coreTakes (m := { core := e.core, kind := 4, status := st, unverified, planeB, tag := e.opId, id := e.counter
                                            value := v, stLo := stLo s2 }) htakes (show (4 : Nat) ≠ 1 by decide) rfl).trans (by rw [hsync]),
      rfl, rfl, rfl, rfl, rfl, rfl, rfl⟩

theorem sigOutDone_only (s : State) (e : SigOut) (st : Status) (v : W32) (planeB unverified : Bool) :
    TsuOnly s (sigOutDone s e st v planeB unverified) := (sigOutDone_ends ..).choice.part

/-- SIGNAL_REPLY_RECEIVE (R236): the first reply is kept, the second delivers the message. -/
theorem signalReplyReceive {a : Arr} {c : SignalCell} {e : SigOut} {s u : State} (hport : a.port < 2)
    (hin : dieIn s a 3 c.opId.toNat (decide (0x13 < c.status)) (fun s => inTime s .tsu c.deadline) = (u, .ok))
    (he : (u.tsu.sync.sigOut.find? fun e => e.opId == c.opId) = some e) :
    Completes (.signalReplyReceive a c) s fun t =>
      (e.got = none → t = u.modSync fun y => { y with
        sigOut := y.sigOut.replace e { e with got := some (c, a.port == 1, u.now .tsu) } }) ∧
      (∀ f pb at_, e.got = some (f, pb, at_) → t.tsu.sync.sigOut = u.tsu.sync.sigOut.erase e ∧
        t.tsu.sync.ctrs = u.tsu.sync.ctrs ∧
        (CoreTakes u e.core → ∃ m, tget [] t.tsu.sync.coreQ e.core = tget [] u.tsu.sync.coreQ e.core ++ [m] ∧ m.kind = 4 ∧
          m.tag = e.opId ∧ m.id = e.counter ∧ m.value = f.value ∧ m.status = (statusOf f.status).getD .ok ∧
          m.planeB = pb ∧ m.unverified = false) ∧
        (f ≠ c → ∀ i ∈ reportPorts u .tsu (neighbour u .tsu 0),
          ReportWaits t .tsu i (neighbour u .tsu 0) false causeDiffer)) ∧ TsuOnly s t := by
  have hpart := dieIn_part hin
  unfold Completes exec execSignalReplyReceive
  refine onPort_completes hport ?_
  simp only [hin, he]
  cases hgot : e.got with
  | none => exact ⟨fun _ => rfl, by simp, partOnly_trans (p := .tsu) hpart (modSync_only _ _)⟩
  | some g =>
    obtain ⟨f, pb, at_⟩ := g
    have hdiffer : ∀ s1, s1 = (if f = c then u else splitEvent (u.count .tsu .planeDisagree 0 (dieFlt u) 1) c.opId.toNat 0) →
        s1.tsu.sync = u.tsu.sync ∧ TsuOnly u s1 ∧ (f ≠ c → ∀ i ∈ reportPorts u .tsu (neighbour u .tsu 0),
          ReportWaits s1 .tsu i (neighbour u .tsu 0) false causeDiffer) := by
      rintro s1 rfl
      split
      · rename_i hf
        exact ⟨rfl, ⟨rfl, rfl, rfl⟩, fun h => absurd hf h⟩
      · have hcount := count_counts u .tsu .planeDisagree 0 (dieFlt u) 1
        have hsplit := splitEvent_reports (u.count .tsu .planeDisagree 0 (dieFlt u) 1) c.opId.toNat 0
        have hneighbour : neighbour (u.count .tsu .planeDisagree 0 (dieFlt u) 1) .tsu 0 = neighbour u .tsu 0 := by
          unfold neighbour
          rw [hcount.port_eq]
        refine ⟨?_, partOnly_trans (p := .tsu) hcount.part hsplit.part, fun _ i hi => ?_⟩
        · rw [hsplit.tsu, hcount.sync_eq]
        · rw [← hneighbour] at hi ⊢
          exact splitEvent_reportWaits hi
    dsimp only
    generalize hs1 : (if f = c then u else splitEvent (u.count .tsu .planeDisagree 0 (dieFlt u) 1) c.opId.toNat 0) = s1
    obtain ⟨hsync, honly, hreport⟩ := hdiffer s1 hs1.symm
    obtain ⟨hout, hctrs, hput⟩ := sigOutDone_delivers s1 e ((statusOf f.status).getD .ok) f.value pb false
    have hends := sigOutDone_ends s1 e ((statusOf f.status).getD .ok) f.value pb false
    have htakes : CoreTakes u e.core → CoreTakes s1 e.core := fun h => by
      unfold CoreTakes coreInReset at h ⊢
      rwa [hsync]
    refine ⟨by simp, fun f' pb' at' hg => ?_, partOnly_trans (p := .tsu) hpart (partOnly_trans (p := .tsu) honly hends.choice.part)⟩
    simp only [Option.some.injEq, Prod.mk.injEq] at hg
    obtain ⟨rfl, rfl, rfl⟩ := hg
    rw [hsync] at hout hctrs hput
    exact ⟨hout, hctrs, fun h => hput (htakes h), fun hf i hi =>
      (hreport hf i hi).mono hends.choice.node_eq hends.choice.waits⟩

/-- The deckle passes without a second reply: the first is delivered UNVERIFIED (R236). -/
theorem replyDeckleExpire {id : BitVec 16} {e : SigOut} {f : SignalCell} {pb : Bool} {x : St} {s : State}
    (hgot : e.got = some (f, pb, x))
    (he : (s.tsu.sync.sigOut.find? fun e => e.opId == id && (e.got.any fun g => deckleOver s g.2.2)) = some e) :
    Completes (.replyDeckleExpire id) s fun t =>
      t.tsu.sync.sigOut = s.tsu.sync.sigOut.erase e ∧
      (CoreTakes s e.core → ∃ m, tget [] t.tsu.sync.coreQ e.core = tget [] s.tsu.sync.coreQ e.core ++ [m] ∧ m.kind = 4 ∧
        m.tag = e.opId ∧ m.value = f.value ∧ m.unverified = true) ∧ t.tsu.sync.ctrs = s.tsu.sync.ctrs ∧ TsuOnly s t := by
  have h : exec (.replyDeckleExpire id) s = .next (sigOutDone s e ((statusOf f.status).getD .ok) f.value pb true) := by
    show execReplyDeckleExpire id s = _
    unfold execReplyDeckleExpire
    rw [he]
    simp only [hgot]
  obtain ⟨hout, hctrs, hput⟩ := sigOutDone_delivers s e ((statusOf f.status).getD .ok) f.value pb true
  refine ⟨_, h, hout, fun ht => ?_, hctrs, sigOutDone_only ..⟩
  obtain ⟨m, hq, hkind, htag, -, hvalue, -, -, hunverified⟩ := hput ht
  exact ⟨m, hq, hkind, htag, hvalue, hunverified⟩

/-- Without a reply by its DEADLINE a SIGNAL is delivered LATE (R236). -/
theorem signalDeadlineExpire {id : BitVec 16} {e : SigOut} {s : State}
    (he : (s.tsu.sync.sigOut.find? fun e => e.opId == id && e.got.isNone && stGe (s.now .tsu) e.deadline) = some e) :
    Completes (.signalDeadlineExpire id) s fun t =>
      t.tsu.sync.sigOut = s.tsu.sync.sigOut.erase e ∧
      (CoreTakes s e.core → ∃ m, tget [] t.tsu.sync.coreQ e.core = tget [] s.tsu.sync.coreQ e.core ++ [m] ∧ m.kind = 4 ∧
        m.status = .late ∧ m.tag = e.opId) ∧ t.tsu.sync.ctrs = s.tsu.sync.ctrs ∧ TsuOnly s t := by
  have h : exec (.signalDeadlineExpire id) s = .next (sigOutDone s e .late 0 false false) := by
    show execSignalDeadlineExpire id s = _
    unfold execSignalDeadlineExpire
    rw [he]
  obtain ⟨hout, hctrs, hput⟩ := sigOutDone_delivers s e .late 0 false false
  refine ⟨_, h, hout, fun ht => ?_, hctrs, sigOutDone_only ..⟩
  obtain ⟨m, hq, hkind, htag, -, -, hstatus, -, -⟩ := hput ht
  exact ⟨m, hq, hkind, hstatus, htag⟩

/-- Settles O27: the checks of an arriving cell, SIGNAL at its target and its replies at the source, each case by its own lemma. -/
theorem cellsAreCheckedAndSignalsApplied : Obligations.CellsAreCheckedAndSignalsApplied := by
  refine ⟨⟨?_, ?_, ?_, ?_, ?_⟩, ⟨?_, ?_⟩, ?_, ?_, ?_⟩
  · intro a type op bad p s hcrc
    unfold cellIn
    rw [if_pos (by simp [hcrc])]
  · exact fun a type op ok s hcrc htype hver hslot hfirst hlast hseq hopen hvalid hslice hreset =>
      dieIn_good_cases hcrc htype hver hslot hfirst hlast hseq hopen hvalid hslice hreset
  · exact fun a type op bad p s hport hcrc hseq _ htype => cellIn_of_type hport hcrc hseq htype
  · exact fun a type op p s hport hcrc hseq => cellIn_of_gap hport hcrc hseq
  · intro a c b p s hreset hce
    rw [epochIn_of_reset hreset hce]
    exact ⟨rfl, count_ctr ..⟩
  · exact fun a c s u hport hin hdst => signalCellReceive hport hin hdst
  · exact fun src id e s he => signalDeckleExpire he
  · exact fun a c e s u hport hin he => signalReplyReceive hport hin he
  · exact fun id e f pb x s hgot he => replyDeckleExpire hgot he
  · exact fun id e s he => signalDeadlineExpire he

end Sys2Proof.Machine

namespace Sys2Proof.Machine

/-! ### What a part does at a tick besides framing it (R41, R96, R151, R154, R334, R345, R398) -/

theorem raise_tick (s : State) (p : Part) (accused : Node) (hard split_ : Bool) (cause : Nat) (x : Ctx) :
    TickKeeps p s (raise s p accused hard split_ cause x) := (raise_reports ..).tick (raise_tx ..)

/-! #### Decisions of a distributor -/

theorem modNode_tick (s : State) (n : Node) (f : NodeRec → NodeRec) : TickKeeps .dist s (s.modNode n f) :=
  ⟨⟨rfl, rfl, rfl⟩, rfl, rfl, rfl, rfl, rfl, ⟨fun _ => rfl⟩⟩

theorem judge_tick (s : State) (n : Node) : TickKeeps .dist s (judge s n) := by
  unfold judge
  extract_lets r s1
  have h1 : TickKeeps .dist s s1 := modNode_tick ..
  split
  · exact h1
  · split
    · exact h1
    · extract_lets c
      split
      · split
        · exact h1
        · exact h1.trans (decided_votes ..).toTickKeeps
      · split
        · exact h1.trans (propose_votes ..).toTickKeeps
        · split
          · split
            · exact ((h1.trans (modNode_tick ..)).trans (modNode_tick ..)).trans (alert_votes ..).toTickKeeps
            · exact h1.trans (propose_votes ..).toTickKeeps
          · exact h1.trans (modNode_tick ..)

theorem judgeFresh_tick (s : State) : TickKeeps .dist s (judgeFresh s) := by
  unfold judgeFresh
  split
  · exact .refl _ s
  · exact .foldl _ judge_tick _ s

theorem announceCe_votes (s : State) (k : Tick) : VotesOnly s (announceCe s k) := by
  unfold announceCe
  extract_lets s1 l
  have h1 : VotesOnly s s1 := modEp_votes rfl rfl
  exact h1.trans (modSv_votes rfl)

theorem announceResets_tick (s : State) : TickKeeps .dist s (announceResets s) := by
  unfold announceResets
  dsimp only
  split
  · exact .refl _ s
  · refine .foldl _ (fun s slice => ?_) _ s
    exact (announceCe_votes ..).toTickKeeps.trans ⟨⟨rfl, rfl, rfl⟩, rfl, rfl, rfl, rfl, rfl, ⟨fun _ => rfl⟩⟩

theorem announceHeld_tick (s : State) : TickKeeps .dist s (announceHeld s) := by
  unfold announceHeld
  dsimp only
  split
  · exact .refl _ s
  · exact (VotesOnly.trans (modMem_votes rfl) (announceMembers_votes ..)).toTickKeeps

theorem modSv_tick (s : State) (f : Service → Service) : TickKeeps .dist s (s.modSv f) :=
  ⟨⟨rfl, rfl, rfl⟩, rfl, rfl, rfl, rfl, rfl, ⟨fun _ => rfl⟩⟩

theorem missedBoundary_tick (s : State) (id : W32) : TickKeeps .dist s (missedBoundary s .dist id) := by
  unfold missedBoundary
  extract_lets s1 s2
  have h1 : TickKeeps .dist s s1 := ⟨⟨rfl, rfl, rfl⟩, rfl, rfl, rfl, rfl, rfl, ⟨fun _ => rfl⟩⟩
  have h2 : TickKeeps .dist s s2 := h1.trans (raise_tick ..)
  exact (h2.trans (modSv_tick ..)).trans (copyAsk_votes _).toTickKeeps

theorem modTxn_tick (s : State) (id : W32) (f : Txn → Txn) : TickKeeps .dist s (s.modTxn .dist id f) :=
  ⟨⟨rfl, rfl, rfl⟩, rfl, rfl, rfl, rfl, rfl, ⟨fun _ => rfl⟩⟩

theorem partDecide_tick (s : State) (id : W32) (d : Decision) : TickKeeps .dist s (partDecide s .dist id d) := by
  unfold partDecide
  split
  · exact .refl _ s
  · split
    · split
      · exact modTxn_tick ..
      · exact .refl _ s
    · split
      · exact (txnRollback_votes ..).toTickKeeps
      · split
        · exact missedBoundary_tick ..
        · extract_lets s1 s2
          have h1 : TickKeeps .dist s s1 := by
            simp only [s1]
            split
            · exact (done_votes ..).toTickKeeps
            · exact .refl _ s
          exact h1.trans (modTxn_tick ..)

theorem rootCommit_tick (s : State) (r : RootTxn) : TickKeeps .dist s (rootCommit s r) := by
  unfold rootCommit
  split
  · exact .refl _ s
  · split
    · exact (modSv_votes rfl).toTickKeeps
    · split
      · exact .refl _ s
      · extract_lets s1 ce
        have h1 : TickKeeps .dist s s1 := (announceCe_votes ..).toTickKeeps
        refine h1.trans ?_
        exact decideTxn_rel (fun u hu => hu.toTickKeeps.trans (partDecide_tick ..)) fun _ hu => hu.toTickKeeps

theorem rootTick_tick (s : State) : TickKeeps .dist s (rootTick s) := by
  unfold rootTick
  split
  · exact .refl _ s
  · refine .trans (.foldl _ (fun s r => ?_) _ s) (.foldl _ rootCommit_tick _ _)
    unfold rootRepeat
    split
    · split
      · exact (sendDecide_votes ..).toTickKeeps
      · exact .refl _ s
    · exact .refl _ s

theorem triadSend_tick (s : State) : TickKeeps .dist s (triadSend s) := by
  unfold triadSend
  split
  · exact .refl _ s
  · extract_lets m own members s1 s2 s3 image
    have h2 : TickKeeps .dist s s2 := ⟨⟨rfl, rfl, rfl⟩, rfl, rfl, rfl, rfl, rfl, ⟨fun _ => rfl⟩⟩
    have h3 : TickKeeps .dist s s3 := h2.trans (announceVote_votes ..).toTickKeeps
    refine h3.trans (.foldl _ (fun t a => ?_) _ _)
    exact (modPort_sends ..).reports.tick (modPort_tx _ _ _ fun _ => rfl)

theorem triadTry_tick (s : State) : TickKeeps .dist s (triadTry s) := by
  unfold triadTry
  dsimp only
  split
  · exact triadSend_tick s
  · exact .refl _ s

/-! #### The planes of a die -/

theorem modTime_tick (s : State) (p : Part) (f : TimeState → TimeState) (h : ∀ t, (f t).acc = t.acc ∧ (f t).framed = t.framed) :
    TickKeeps p s (s.modTime p f) := (modTime_choice s p f h).tick

theorem planesDisagree_tick (s : State) : TickKeeps .tsu s (planesDisagree s) := by
  unfold planesDisagree
  extract_lets lim a b s1
  have h1 : TickKeeps .tsu s s1 := by
    refine .trans (modTime_tick s .tsu (fun t => { t with disagree := true, agreeRun := 0 }) ?_) (alert_choice ..).tick
    exact fun _ => ⟨rfl, rfl⟩
  split
  · exact h1.trans (takeInput_choice ..).tick
  · split
    · exact (h1.trans (takeInput_choice ..).tick).trans (raise_tick ..)
    · split
      · exact (h1.trans (takeInput_choice ..).tick).trans (raise_tick ..)
      · refine h1.trans (.trans (modTime_tick s1 .tsu (fun t => { t with neither := true, onHold := true }) ?_)
          (startHold_choice ..).tick)
        exact fun _ => ⟨rfl, rfl⟩

theorem planesCompare_tick (s : State) : TickKeeps .tsu s (planesCompare s) := by
  unfold planesCompare
  extract_lets ok d agree s1 t
  have h1 : TickKeeps .tsu s s1 := modTime_tick _ _ _ fun _ => ⟨rfl, rfl⟩
  split
  · exact .refl _ s
  · split
    · split
      · exact h1.trans (modTime_tick _ _ _ fun _ => ⟨rfl, rfl⟩)
      · exact h1
    · split
      · exact h1.trans (planesDisagree_tick ..)
      · exact h1

end Sys2Proof.Machine

namespace Sys2Proof.Machine

/-! ### The check of the master count (R154, R334) -/

/-- `t` keeps what a tick is framed by, and all announced epochs. -/
structure EpochsKept (p : Part) (s t : State) : Prop extends TickKeeps p s t where
  ep : (t.base p).ep = (s.base p).ep

theorem EpochsKept.refl (p : Part) (s : State) : EpochsKept p s s := ⟨.refl p s, rfl⟩

theorem EpochsKept.trans {p : Part} {s t u : State} (h : EpochsKept p s t) (k : EpochsKept p t u) : EpochsKept p s u :=
  ⟨h.toTickKeeps.trans k.toTickKeeps, k.ep.trans h.ep⟩

theorem ChoiceOnly.epochs {p : Part} {s t : State} (h : ChoiceOnly p s t) : EpochsKept p s t := ⟨h.tick, h.ep_eq⟩

theorem ReportsOnly.epochs {p : Part} {s t : State} (h : ReportsOnly p s t) (k : TxOnly p s t) : EpochsKept p s t :=
  ⟨h.tick k, by rw [h.base]⟩

theorem modDie_epochs (s : State) (f : Die → Die) : EpochsKept .tsu s (s.modDie f) :=
  ⟨⟨⟨rfl, rfl, rfl⟩, rfl, rfl, rfl, rfl, rfl, ⟨fun _ => rfl⟩⟩, rfl⟩

theorem localsCancel_ends (s : State) : EndsOnly s (localsCancel s) := by
  refine .foldl _ (fun s slot => ?_) _ s
  unfold localCancel
  extract_lets b s1
  have h1 : EndsOnly s s1 := ⟨rfl, id, id⟩
  split
  · exact .refl s
  · exact h1.trans (.foldl _ (fun _ _ => (msgPut_delivers ..).ends) _ _)

theorem noTimeClears_ends (s : State) : EndsOnly s (noTimeClears s) :=
  (((plateCancel_ends ..).trans (instsEnd_ends ..)).trans (signalsEnd_ends ..)).trans (localsCancel_ends _)

theorem sendPartDone_epochs (s : State) : EpochsKept .tsu s (sendPartDone s) :=
  (modDie_epochs ..).trans ((mgmt_reports ..).epochs (mgmt_tx ..))

theorem enterNoTime_epochs (s : State) (p : Part) : EpochsKept p s (enterNoTime s p) := by
  unfold enterNoTime
  extract_lets s1
  have h1 : EpochsKept p s s1 := (modTime_choice s p (fun t => { t with noTime := true }) fun _ => ⟨rfl, rfl⟩).epochs
  split
  · exact .refl p s
  · cases p with
    | tsu =>
      dsimp only
      have h2 : EpochsKept .tsu s (noTimeClears (s1.alert .tsu 1)) :=
        (h1.trans (alert_choice ..).epochs).trans (noTimeClears_ends _).choice.epochs
      split
      · have h3 := (h2.trans (dieOpsEnd_ends _ .noTime).choice.epochs).trans (modDie_epochs _ fun d => { d with state := .parted })
        exact h3.trans (sendPartDone_epochs _)
      · exact h2
    | dist => exact h1.trans (alert_choice ..).epochs

theorem shadowCheck_epochs (s : State) (p : Part) : EpochsKept p s (shadowCheck s p) := by
  unfold shadowCheck
  extract_lets t s1 s2
  have h1 : EpochsKept p s s1 := (modTime_choice s p (fun t => { t with shadowFault := true }) fun _ => ⟨rfl, rfl⟩).epochs
  have h2 : EpochsKept p s s2 := by
    cases p with
    | tsu => exact h1.trans (enterNoTime_epochs s1 .tsu)
    | dist => exact h1
  split
  · exact .refl p s
  · exact h2.trans ((raise_reports ..).epochs (raise_tx ..))

/-! ### The adoption of announced epochs (R41) -/

/-- The epochs adopted change the part's epochs alone. -/
theorem adoptEpochs_base (s : State) (p : Part) :
    ((adoptEpochs s p).base p) = { s.base p with ep := ((adoptEpochs s p).base p).ep } := by
  unfold adoptEpochs State.modEp
  rw [base_modBase]

theorem adoptEpochs_partOnly (s : State) (p : Part) : PartOnly p s (adoptEpochs s p) := by
  unfold adoptEpochs State.modEp
  exact modBase_partOnly ..

theorem adoptEpochs_of_due {s : State} {p : Part} {x : Pend} (hpend : (s.base p).ep.pend = [x])
    (hdue : 0 ≤ tickDiff (tickOf (s.now p)) x.tick) : ((adoptEpochs s p).base p).ep.ce = (x.ce).getD (s.base p).ep.ce ∧
      ((adoptEpochs s p).base p).ep.me = (x.me).getD (s.base p).ep.me := by
  unfold adoptEpochs State.modEp
  rw [base_modBase]
  simp [hpend, hdue]

/-! ### The senders of a new tick (R338, R382) -/

/-- An entry that a map over the table leaves listed reads as the map of what it read. -/
theorem tget_tmapAll_of_ne {α : Type} [DecidableEq α] (d : α) (f : α → α) (k : Nat) :
    ∀ l : Tab α, f (tget d l k) ≠ d → tget d l k ≠ d → tget d (tmapAll d (fun _ => f) l) k = f (tget d l k)
  | [], _, h => absurd rfl h
  | (k', v) :: l, hf, h => by
    unfold tmapAll
    by_cases hk : k = k'
    · subst hk
      simp only [tget, if_true] at hf ⊢
      rw [if_neg hf]
      simp [tget]
    · simp only [tget, if_neg hk] at hf h ⊢
      split
      · exact tget_tmapAll_of_ne d f k l hf h
      · rw [tget, if_neg hk]
        exact tget_tmapAll_of_ne d f k l hf h

/-- `s` as a tick begins to be framed: the tick noted, and every sender with its new allowances. -/
def tickBegun (s : State) (p : Part) : State :=
  let s1 := s.modTime p fun t => { t with framed := some (tickOf (s.now p)) }
  s1.modBase p fun b => { b with ports := tmapAll {} (fun _ q => { q with
    tx := q.tx.newTick (mgmtGuard (s1.base p)) (tickOf (s.now p)) }) b.ports }

/-- A port from TIMECAL on keeps all but its sender. -/
theorem port_tickBegun {s : State} {p : Part} {i : Nat} (h : (s.port p i).live = true ∨ (s.port p i).link.state = .timecal) :
    ∃ x, (tickBegun s p).port p i = { s.port p i with tx := x } := by
  have hne : ∀ x, { s.port p i with tx := x } ≠ ({} : Port) := fun x e => by
    have hstate : (s.port p i).link.state = .down := congrArg (fun q : Port => q.link.state) e
    rcases h with h | h
    · simp [Port.live, hstate] at h
    · simp [hstate] at h
  have hports : ∃ g, ((tickBegun s p).base p).ports =
      tmapAll {} (fun _ q => { q with tx := q.tx.newTick g (tickOf (s.now p)) }) (s.base p).ports := by
    cases p <;> exact ⟨_, rfl⟩
  obtain ⟨g, hports⟩ := hports
  refine ⟨Sender.newTick g (tickOf (s.now p)) (s.port p i).tx, ?_⟩
  unfold State.port at hne ⊢
  unfold Base.port at hne ⊢
  rw [hports]
  exact tget_tmapAll_of_ne _ _ _ _ (hne _) (hne _)

/-- What the beginning of a tick leaves of a part, its ports aside. -/
theorem tickBegun_base (s : State) (p : Part) : PartOnly p s (tickBegun s p) ∧ ((tickBegun s p).base p).node = (s.base p).node ∧
    ((tickBegun s p).base p).t.acc = (s.base p).t.acc ∧ ((tickBegun s p).base p).t.framed = some (tickOf (s.now p)) ∧
    ((tickBegun s p).base p).ep = (s.base p).ep := by
  cases p <;> exact ⟨⟨rfl, rfl, rfl⟩, rfl, rfl, rfl, rfl⟩

/-! ### The markers of a tick (R44, R45, R102, R129) -/

/-- `m` is the marker that a part sends on a port in the tick, as that port stands in `q`. -/
def MarkerSent (p : Part) (i : Nat) (n : Tick) (ofs : Nat) (node : Node) (q : Port) (t : State) : Prop :=
  ∃ m, (t.port p i).mark.txMarker = some m ∧ m.tickSt = tickSt n ∧ m.node = node ∧ m.sendOfs.toNat = ofs ∧
    (t.port p i).mark.txWm = m.wm ∧
    (q.live = true → m.wm = crc32c (beBytes 4 (if q.mark.txSeeded then q.mark.txWm
      else wmSeed node q.link.rxNode m.tickSt).toNat ++ markerBytes m))

theorem sendMarker_port_ne (p : Part) (n : Tick) (ofs : Nat) (s : State) {i j : Nat} (h : j ≠ i) :
    (sendMarker p n ofs s i).port p j = s.port p j := by
  unfold sendMarker
  dsimp only
  split
  · rfl
  · exact port_modPort_ne s p h _

theorem sendMarker_base (p : Part) (n : Tick) (ofs : Nat) (s : State) (i : Nat) :
    PartOnly p s (sendMarker p n ofs s i) ∧ (sendMarker p n ofs s i).base p =
      { s.base p with ports := ((sendMarker p n ofs s i).base p).ports } := by
  unfold sendMarker
  dsimp only
  split
  · exact ⟨partOnly_refl p s, rfl⟩
  · refine ⟨(modPort_sends ..).part, ?_⟩
    unfold State.modMark_ State.modPort
    rw [base_modBase]
    rfl

theorem sendMarker_sent {p : Part} {n : Tick} {ofs : Nat} {s : State} {i : Nat} (hofs : ofs < 2 ^ 16)
    (h : (s.port p i).live = true ∨ (s.port p i).link.state = .timecal) :
    MarkerSent p i n ofs (s.node p) (s.port p i) (sendMarker p n ofs s i) := by
  have hsends : (!((s.port p i).live || (s.port p i).link.state == .timecal)) = false := by
    rcases h with h | h <;> simp [h]
  unfold sendMarker
  extract_lets q m w newest
  rw [if_neg (by simp [q, hsends])]
  refine ⟨{ m with wm := w }, ?_⟩
  unfold State.modMark_
  rw [port_modPort]
  refine ⟨rfl, rfl, rfl, Nat.mod_eq_of_lt hofs, rfl, fun hlive => ?_⟩
  have hstate : (q.link.state == .timecal) = false := by
    have hlive' : q.live = true := hlive
    cases hq : q.link.state <;> simp_all [Port.live]
  have hw : w = wmNext (if q.mark.txSeeded then q.mark.txWm else wmSeed (s.node p) q.link.rxNode m.tickSt) m := by
    simp only [w, hstate]
    rfl
  show w = _
  rw [hw]
  rfl

/-- A step at index `i` alone makes `Post` hold, and the steps at the other indices keep `Pre` and `Post`. -/
theorem foldl_at {f : State → Nat → State} {i : Nat} {Pre Post : State → Prop} (hpre : ∀ s j, j ≠ i → Pre s → Pre (f s j))
    (hat : ∀ s, Pre s → Post (f s i)) (hpost : ∀ s j, j ≠ i → Post s → Post (f s j)) :
    ∀ (l : List Nat) (s : State), l.Nodup → i ∈ l → Pre s → Post (l.foldl f s) := by
  have after : ∀ (l : List Nat) (s : State), i ∉ l → Post s → Post (l.foldl f s) := by
    intro l
    induction l with
    | nil => exact fun s _ h => h
    | cons j l ih =>
      intro s hl h
      obtain ⟨hj, hl⟩ := not_or.mp (mt List.mem_cons.mpr hl)
      exact ih _ hl (hpost s j (Ne.symm hj) h)
  intro l
  induction l with
  | nil => exact fun s _ hi => absurd hi (by simp)
  | cons j l ih =>
    intro s hnodup hi hs
    obtain ⟨hj, hl⟩ := List.nodup_cons.mp hnodup
    by_cases hji : j = i
    · subst hji
      exact after l _ hj (hat s hs)
    · exact ih _ hl ((List.mem_cons.mp hi).resolve_left fun e => hji e.symm) (hpre s j hji hs)

end Sys2Proof.Machine

namespace Sys2Proof.Machine

/-! ### TICK_EDGE (R41, R102, R129) -/

/-- What follows the adoption of a tick's epochs before its markers: the checks of a die's planes, or a distributor's decisions, and
the choice of an input (R140, R151, R345). -/
def tickSettled (s : State) (p : Part) : State :=
  let s := match p with
    | .tsu => planesCompare s
    | .dist => triadTry (rootTick (announceHeld (announceResets (judgeFresh s))))
  let s := if (s.base p).t.electHold then s else chooseInput s p
  if p == .tsu && s.tsu.b.t.holdSince.isSome then s.event .tsu 0x014 {} 1 else s

theorem tickSettled_tick (s : State) (p : Part) : TickKeeps p s (tickSettled s p) := by
  unfold tickSettled
  extract_lets s1 s2
  have h1 : TickKeeps p s s1 := by
    cases p with
    | tsu => exact planesCompare_tick s
    | dist =>
      have hannounced := ((judgeFresh_tick s).trans (announceResets_tick _)).trans (announceHeld_tick _)
      exact (hannounced.trans (rootTick_tick _)).trans (triadTry_tick _)
  have h2 : TickKeeps p s s2 := by
    simp only [s2]
    split
    · exact h1
    · exact h1.trans (chooseInput_choice ..).tick
  split
  · rename_i h
    obtain rfl : p = .tsu := by cases p <;> simp_all
    exact h2.trans (event_counts ..).choice.tick
  · exact h2

/-- `s` with a new tick begun and settled, as its markers find it. -/
def tickFramed (s : State) (p : Part) : State := tickSettled (adoptEpochs (shadowCheck (tickBegun s p) p) p) p

theorem execTickEdge_of_new {p : Part} {ofs : Nat} {s : State} (hheld : (s.base p).t.held = true)
    (hframed : (s.base p).t.framed ≠ some (tickOf (s.now p))) : execTickEdge p ofs s =
      .next ((List.range (portCount p)).foldl (sendMarker p (tickOf (s.now p)) (min ofs 164)) (tickFramed s p)) := by
  unfold execTickEdge
  extract_lets n t s1 g s2 s3
  have hguard : ¬ (!t.held || t.framed == some n) = true := by simp [t, n, hheld, hframed]
  rw [if_neg hguard]
  rfl

/-- What a tick leaves of a part before its markers. -/
structure TickFramed (p : Part) (s t : State) : Prop where
  part : PartOnly p s t
  node : (t.base p).node = (s.base p).node
  acc : (t.base p).t.acc = (s.base p).t.acc
  framed : (t.base p).t.framed = some (tickOf (s.now p))
  epochs : ∀ x, (s.base p).ep.pend = [x] → 0 ≤ tickDiff (tickOf (s.now p)) x.tick →
    (t.base p).ep.ce = (x.ce).getD (s.base p).ep.ce ∧ (t.base p).ep.me = (x.me).getD (s.base p).ep.me
  port : ∀ i, ((s.port p i).live = true ∨ (s.port p i).link.state = .timecal) → ∃ x, t.port p i = { s.port p i with tx := x }

theorem tickFramed_only (s : State) (p : Part) : TickFramed p s (tickFramed s p) := by
  obtain ⟨bpart, bnode, bacc, bframed, bep⟩ := tickBegun_base s p
  have hshadow := shadowCheck_epochs (tickBegun s p) p
  have hadopt := adoptEpochs_base (shadowCheck (tickBegun s p) p) p
  have hsettled := tickSettled_tick (adoptEpochs (shadowCheck (tickBegun s p) p) p) p
  have hnow : (shadowCheck (tickBegun s p) p).now p = s.now p := by
    unfold State.now Base.now
    rw [hshadow.acc, bacc]
  refine ⟨?_, ?_, ?_, ?_, fun x hpend hdue => ?_, fun i hi => ?_⟩
  · exact partOnly_trans bpart (partOnly_trans hshadow.part (partOnly_trans (adoptEpochs_partOnly ..) hsettled.part))
  · exact hsettled.node.trans ((congrArg Base.node hadopt :).trans (hshadow.node.trans bnode))
  · exact hsettled.acc.trans ((congrArg (fun b : Base => b.t.acc) hadopt :).trans (hshadow.acc.trans bacc))
  · exact hsettled.framed.trans ((congrArg (fun b : Base => b.t.framed) hadopt :).trans (hshadow.framed.trans bframed))
  · have hep := hshadow.ep.trans bep
    obtain ⟨hce, hme⟩ := adoptEpochs_of_due (s := shadowCheck (tickBegun s p) p) (p := p) (x := x) (by rw [hep, hpend])
      (by rw [hnow]; exact hdue)
    rw [hep] at hce hme
    exact ⟨hsettled.ce.trans hce, hsettled.me.trans hme⟩
  · obtain ⟨x, hx⟩ := port_tickBegun hi
    have hport : (adoptEpochs (shadowCheck (tickBegun s p) p) p).port p i = (shadowCheck (tickBegun s p) p).port p i :=
      (congrArg (fun b : Base => b.port i) hadopt :)
    exact ⟨_, by rw [tickFramed, hsettled.tx.port i, hport, hshadow.tx.port i, hx]⟩

/-- The markers of a tick change the ports alone. -/
theorem sendMarkers_base (p : Part) (n : Tick) (ofs : Nat) (l : List Nat) (s : State) :
    PartOnly p s (l.foldl (sendMarker p n ofs) s) ∧ (l.foldl (sendMarker p n ofs) s).base p =
      { s.base p with ports := ((l.foldl (sendMarker p n ofs) s).base p).ports } := by
  induction l generalizing s with
  | nil => exact ⟨partOnly_refl p s, rfl⟩
  | cons i l ih =>
    obtain ⟨hpart, hbase⟩ := sendMarker_base p n ofs s i
    obtain ⟨hparts, hbases⟩ := ih (sendMarker p n ofs s i)
    refine ⟨partOnly_trans hpart hparts, ?_⟩
    rw [List.foldl_cons, hbases, hbase]

/-- Each port from TIMECAL on gets its marker. -/
theorem sendMarkers_sent {p : Part} {n : Tick} {ofs : Nat} {s : State} {i : Nat} (hi : i < portCount p) (hofs : ofs < 2 ^ 16)
    (h : (s.port p i).live = true ∨ (s.port p i).link.state = .timecal) :
    MarkerSent p i n ofs (s.node p) (s.port p i) ((List.range (portCount p)).foldl (sendMarker p n ofs) s) := by
  refine foldl_at (Pre := fun t => t.port p i = s.port p i ∧ t.node p = s.node p) ?_ ?_ ?_ _ s List.nodup_range
    (List.mem_range.mpr hi) ⟨rfl, rfl⟩
  · rintro t j hj ⟨hport, hnode⟩
    have hbase := (sendMarker_base p n ofs t j).2
    exact ⟨(sendMarker_port_ne p n ofs t (Ne.symm hj)).trans hport,
      (congrArg (fun b : Base => b.node.getD 0xFFFFFF) hbase :).trans hnode⟩
  · rintro t ⟨hport, hnode⟩
    rw [← hport, ← hnode]
    exact sendMarker_sent hofs (by rw [hport]; exact h)
  · intro t j hj hsent
    unfold MarkerSent
    rw [sendMarker_port_ne p n ofs t (Ne.symm hj)]
    exact hsent

theorem tickEdge {p : Part} {ofs : Nat} {s : State} (hheld : (s.base p).t.held = true)
    (hframed : (s.base p).t.framed ≠ some (tickOf (s.now p))) : Completes (.tickEdge p ofs) s fun t =>
      (t.base p).t.framed = some (tickOf (s.now p)) ∧ (t.base p).t.acc = (s.base p).t.acc ∧ PartOnly p s t ∧
      (∀ x, (s.base p).ep.pend = [x] → 0 ≤ tickDiff (tickOf (s.now p)) x.tick →
        (t.base p).ep.ce = (x.ce).getD (s.base p).ep.ce ∧ (t.base p).ep.me = (x.me).getD (s.base p).ep.me) ∧
      ∀ i, i < portCount p → ((s.port p i).live = true ∨ (s.port p i).link.state = .timecal) →
        ∃ m, (t.port p i).mark.txMarker = some m ∧ m.tickSt = tickSt (tickOf (s.now p)) ∧ m.node = s.node p ∧
          m.sendOfs.toNat = min ofs 164 ∧ (t.port p i).mark.txWm = m.wm ∧
          ((s.port p i).live = true → m.wm = crc32c (beBytes 4 (if (s.port p i).mark.txSeeded then (s.port p i).mark.txWm
            else wmSeed (s.node p) (s.port p i).link.rxNode m.tickSt).toNat ++ markerBytes m)) := by
  refine ⟨_, execTickEdge_of_new hheld hframed, ?_⟩
  have hu := tickFramed_only s p
  generalize tickFramed s p = u at hu
  obtain ⟨hpart, hbase⟩ := sendMarkers_base p (tickOf (s.now p)) (min ofs 164) (List.range (portCount p)) u
  have hnode : u.node p = s.node p := congrArg (·.getD 0xFFFFFF) hu.node
  refine ⟨?_, ?_, partOnly_trans hu.part hpart, fun x hpend hdue => ?_, fun i hi hlive => ?_⟩
  · rw [hbase]
    exact hu.framed
  · rw [hbase]
    exact hu.acc
  · rw [hbase]
    exact hu.epochs x hpend hdue
  · obtain ⟨x, hx⟩ := hu.port i hlive
    have hsent := sendMarkers_sent (n := tickOf (s.now p)) (ofs := min ofs 164) (s := u) hi (by omega) (by rw [hx]; exact hlive)
    rw [hx, hnode] at hsent
    exact hsent

end Sys2Proof.Machine

namespace Sys2Proof.Machine

/-! ### MARKER_RECEIVE (R46, R129 to R137) -/

/-- Two states of a port that agree in the last verified marker, the receiver's chain and what is kept of the marker's fields. -/
structure Port.SameMarker (q r : Port) : Prop where
  rxMarker : r.mark.rxMarker = q.mark.rxMarker
  rxWm : r.mark.rxWm = q.mark.rxWm
  rxSt : r.mark.rxSt = q.mark.rxSt
  badRun : r.mark.badRun = q.mark.badRun
  rxAccUnc : r.off.rxAccUnc = q.off.rxAccUnc

theorem Port.SameMarker.refl (q : Port) : q.SameMarker q := ⟨rfl, rfl, rfl, rfl, rfl⟩

theorem Port.SameMarker.trans {q r u : Port} (h : q.SameMarker r) (k : r.SameMarker u) : q.SameMarker u :=
  ⟨k.1.trans h.1, k.2.trans h.2, k.3.trans h.3, k.4.trans h.4, k.5.trans h.5⟩

/-- `t` keeps what port `i` has of its last verified marker. -/
structure MarkerKept (p : Part) (i : Nat) (s t : State) : Prop where
  part : PartOnly p s t
  port : (s.port p i).SameMarker (t.port p i)

theorem MarkerKept.refl (p : Part) (i : Nat) (s : State) : MarkerKept p i s s := ⟨partOnly_refl p s, .refl _⟩

theorem MarkerKept.trans {p : Part} {i : Nat} {s t u : State} (h : MarkerKept p i s t) (k : MarkerKept p i t u) :
    MarkerKept p i s u := ⟨partOnly_trans h.part k.part, h.port.trans k.port⟩

theorem MarkerKept.of_port_eq {p : Part} {i : Nat} {s t : State} (h : PartOnly p s t) (hport : t.port p i = s.port p i) :
    MarkerKept p i s t := ⟨h, by rw [hport]; exact .refl _⟩

theorem TickKeeps.marker {p : Part} {s t : State} (h : TickKeeps p s t) (i : Nat) : MarkerKept p i s t :=
  ⟨h.part, by rw [h.tx.port i]; exact ⟨rfl, rfl, rfl, rfl, rfl⟩⟩

theorem modPort_marker (s : State) (p : Part) (i j : Nat) {f : Port → Port} (h : ∀ q : Port, q.SameMarker (f q)) :
    MarkerKept p i s (s.modPort p j f) := by
  refine ⟨(modPort_sends ..).part, ?_⟩
  by_cases hi : i = j
  · subst hi
    rw [port_modPort]
    exact h _
  · rw [port_modPort_ne s p hi]
    exact .refl _

theorem modBase_marker (s : State) (p : Part) (i : Nat) {f : Base → Base} (h : ∀ b, (f b).ports = b.ports) :
    MarkerKept p i s (s.modBase p f) := by
  refine .of_port_eq (modBase_partOnly ..) ?_
  unfold State.port Base.port
  rw [base_modBase, h]

theorem markerEpochs_marker (s : State) (p : Part) (i : Nat) (m : Marker) : MarkerKept p i s (markerEpochs s p i m) := by
  unfold markerEpochs
  extract_lets first s1
  have h1 : MarkerKept p i s s1 := by
    simp only [s1]
    split
    · exact modBase_marker s p i fun _ => rfl
    · exact .refl p i s
  split
  · exact .refl p i s
  · split
    · exact h1
    · exact h1.trans (modBase_marker s1 p i fun _ => rfl)

theorem markerRot_marker (s : State) (p : Part) (i : Nat) (m : Marker) : MarkerKept p i s (markerRot s p i m) := by
  unfold markerRot
  extract_lets n pos bs s1 k b r
  have h1 : MarkerKept p i s s1 := by
    refine modPort_marker s p i i fun q => ?_
    dsimp only
    split
    · exact ⟨rfl, rfl, rfl, rfl, rfl⟩
    · split <;> exact ⟨rfl, rfl, rfl, rfl, rfl⟩
  split
  · split
    · exact h1
    · exact h1.trans (modBase_marker s1 p i fun _ => rfl)
  · exact h1

theorem modOff_marker (s : State) (p : Part) (i j : Nat) {f : Offset → Offset} (h : ∀ o, (f o).rxAccUnc = o.rxAccUnc) :
    MarkerKept p i s (s.modOff p j f) := modPort_marker s p i j fun q => ⟨rfl, rfl, rfl, rfl, h q.off⟩

/-! #### What a sample and the checks of a marker may change -/

theorem modRefs_tick (s : State) (f : Refs → Refs) : TickKeeps .dist s (s.modRefs f) :=
  ⟨⟨rfl, rfl, rfl⟩, rfl, rfl, rfl, rfl, rfl, ⟨fun _ => rfl⟩⟩

theorem noConfBoth_tick (s : State) : TickKeeps .dist s (noConfBoth s) := by
  unfold noConfBoth
  dsimp only
  split
  · split
    · split
      · exact .refl _ s
      · split
        · exact (modRefs_tick ..).trans (propose_votes ..).toTickKeeps
        · split
          · exact (modRefs_tick ..).trans (announceLeader_votes ..).toTickKeeps
          · exact modRefs_tick ..
    · exact .refl _ s
  · exact .refl _ s

theorem noConfidence_tick (s : State) : TickKeeps .dist s (noConfidence s) := by
  unfold noConfidence
  dsimp only
  split
  · exact .refl _ s
  · exact ((modRefs_tick ..).trans (raise_tick ..)).trans (noConfBoth_tick _)

theorem leaderPort_dist {s : State} {p : Part} {i : Nat} (h : leaderPort s p i = true) : p = .dist := by
  cases p with
  | tsu => simp [leaderPort] at h
  | dist => rfl

theorem sampleIn_marker (s : State) (p : Part) (i : Nat) (x : Int × Int) : MarkerKept p i s (sampleIn s p i x) := by
  unfold sampleIn
  extract_lets ok s1
  have h1 : MarkerKept p i s s1 := modOff_marker s p i i fun _ => rfl
  split
  · exact h1
  · rename_i h
    have hleader : leaderPort s1 p i = true := by
      cases hl : leaderPort s1 p i <;> simp_all
    obtain rfl := leaderPort_dist hleader
    split
    · exact h1.trans ((modRefs_tick ..).marker i)
    · exact h1.trans ((noConfidence_tick s1).marker i)

theorem firstSample_marker (s : State) (p : Part) (i : Nat) (x : Int × Int) : MarkerKept p i s (firstSample s p i x) := by
  unfold firstSample
  extract_lets t move s1
  have h1 : MarkerKept p i s s1 := modBase_marker s p i fun _ => rfl
  split
  · exact .refl p i s
  · cases p with
    | tsu => exact h1.trans (.of_port_eq ⟨rfl, rfl, rfl⟩ rfl)
    | dist => exact h1

theorem giverChecks_marker (s : State) (p : Part) (i : Nat) (m : Marker) (stamp : St) :
    MarkerKept p i s (giverChecks s p i m stamp) := by
  unfold giverChecks
  extract_lets nbr x q s1 dUp at_ s2
  have h1 : MarkerKept p i s s1 := by
    simp only [s1]
    split
    · exact .refl p i s
    · exact (raise_tick ..).marker i
  have h2 : MarkerKept p i s s2 := by
    simp only [s2]
    split
    · exact h1
    · exact h1.trans ((raise_tick ..).marker i)
  split
  · exact .refl p i s
  · split
    · exact h2.trans (modOff_marker s2 p i i fun _ => rfl)
    · split
      · have h3 : MarkerKept p i s (s2.modOff p i fun o => { o with last64 := [] }) :=
          h2.trans (modOff_marker s2 p i i fun _ => rfl)
        exact h3.trans ((raise_tick ..).marker i)
      · exact h2

theorem markUsable_marker (s : State) (p : Part) (i : Nat) : MarkerKept p i s (markUsable s p i) := by
  unfold markUsable
  dsimp only
  split
  · exact modPort_marker s p i i fun _ => ⟨rfl, rfl, rfl, rfl, rfl⟩
  · exact .refl p i s

theorem lowCheck_marker (s : State) (i : Nat) : MarkerKept .tsu i s (lowCheck s) := by
  unfold lowCheck
  split
  · dsimp only
    split
    · exact .refl _ i s
    · exact modOff_marker s .tsu i _ fun _ => rfl
  · exact .refl _ i s

theorem rootFound_marker (s : State) (port i : Nat) : MarkerKept .dist i s (rootFound s port) := by
  unfold rootFound
  split
  · exact .of_port_eq ⟨rfl, rfl, rfl⟩ rfl
  · exact .refl _ i s

/-- A marker used stands as the last verified one, with its ACC_UNC; the receiver's chain stays (R46). -/
theorem markerGood_only (s : State) (p : Part) (i : Nat) (m : Marker) (stamp : St) : let t := markerGood s p i m stamp
    PartOnly p s t ∧ (t.port p i).mark.rxMarker = some m ∧ (t.port p i).mark.rxWm = (s.port p i).mark.rxWm ∧
    (t.port p i).mark.rxSt = (s.port p i).mark.rxSt ∧ (t.port p i).mark.badRun = 0 ∧
    (t.port p i).off.rxAccUnc = m.accUnc.toNat := by
  unfold markerGood
  extract_lets out s1 s2 s3 s4 s5 t
  have hport : (s1.port p i).mark.rxMarker = some m ∧ (s1.port p i).mark.rxWm = (s.port p i).mark.rxWm ∧
      (s1.port p i).mark.rxSt = (s.port p i).mark.rxSt ∧ (s1.port p i).mark.badRun = 0 ∧
      (s1.port p i).off.rxAccUnc = m.accUnc.toNat := by
    simp only [s1]
    rw [port_modPort]
    exact ⟨rfl, rfl, rfl, rfl, rfl⟩
  have hpart : PartOnly p s s1 := (modPort_sends ..).part
  have h2 : MarkerKept p i s1 s2 := (markerEpochs_marker ..).trans (markerRot_marker ..)
  have h3 : MarkerKept p i s1 s3 := h2.trans (modPort_marker s2 p i i fun _ => ⟨rfl, rfl, rfl, rfl, rfl⟩)
  have h4 : MarkerKept p i s1 s4 := by
    simp only [s4]
    split
    · exact h2
    · split
      · exact h2.trans ((sampleIn_marker ..).trans (firstSample_marker ..))
      · split
        · cases p with
          | tsu => exact h3
          | dist => exact h3.trans ((alert_choice ..).tick.marker i)
        · exact h2
  have h5 : MarkerKept p i s1 s5 := h4.trans ((giverChecks_marker ..).trans (markUsable_marker ..))
  have ht : MarkerKept p i s1 t := by
    cases p with
    | tsu => exact h5.trans (lowCheck_marker s5 i)
    | dist =>
      simp only [t]
      split
      · exact h5
      · exact h5.trans (rootFound_marker s5 i i)
  obtain ⟨hmarker, hwm, hst, hbad, hunc⟩ := hport
  obtain ⟨kmarker, kwm, kst, kbad, kunc⟩ := ht.port
  exact ⟨partOnly_trans hpart ht.part, kmarker.trans hmarker, kwm.trans hwm, kst.trans hst, kbad.trans hbad, kunc.trans hunc⟩

/-- A port that carries traffic is past TIMECAL. -/
theorem live_not_timecal {q : Port} (h : q.live = true) : (q.link.state == .timecal) = false := by
  cases hq : q.link.state <;> simp_all [Port.live]

/-- The receiver's chain stands on a marker. -/
def anchored (s : State) (p : Part) (i : Nat) (m : Marker) : State :=
  s.modMark_ p i fun k => { k with rxSt := m.tickSt, rxWm := m.wm, rxAnchored := true, noSlot0 := 0 }

section
variable {p : Part} {i : Nat} {m : Marker} {stamp : St} {s : State} (hi : i < portCount p) (hlive : (s.port p i).live = true)
  (hgood : markerCorrupt m = false) (hseed : (s.port p i).mark.rxSeeded = false) (hanchor : (s.port p i).mark.rxAnchored = true)
include hi hlive hgood hseed hanchor

/-- A marker on an anchored chain is used where its watermark and ST are as expected, and is a mismatch elsewhere (R46). -/
theorem markerReceive_of_anchored : exec (.markerReceive p i (.cell m) stamp) s =
    .next (if m.wm = wmNext (s.port p i).mark.rxWm m ∧ m.tickSt = (s.port p i).mark.rxSt + 16384#64 then
        markerGood (anchored s p i m) p i m stamp
      else slotMismatch s p i (wmNext (s.port p i).mark.rxWm m) ((s.port p i).mark.rxSt + 16384#64)) := by
  unfold exec execMarkerReceive
  refine onPort_next.mpr ⟨hi, ?_⟩
  have hcal := live_not_timecal hlive
  simp only [hlive, hcal, hgood, hseed, hanchor, Bool.or_false, Bool.not_true, Bool.false_eq_true, if_false, Bool.false_and]
  simp only [Bool.and_eq_true, decide_eq_true_eq, beq_iff_eq]
  rfl

end

/-! #### Slots without a verified marker -/

theorem enterElectHold_tick (s : State) : TickKeeps .dist s (enterElectHold s) :=
  ⟨⟨rfl, rfl, rfl⟩, rfl, rfl, rfl, rfl, rfl, ⟨fun _ => rfl⟩⟩

theorem rootLostCheck_tick (s : State) (port : Nat) : TickKeeps .dist s (rootLostCheck s port) := by
  unfold rootLostCheck
  extract_lets r s1 left s2
  have h2 : TickKeeps .dist s s2 := (VotesOnly.trans (modMem_votes rfl) (sendVotes_votes s1 _ _)).toTickKeeps
  split
  · exact .refl _ s
  · split
    · exact .refl _ s
    · split
      · exact h2.trans (enterElectHold_tick s2)
      · exact h2

theorem badSlot_tick (s : State) (p : Part) (i : Nat) : TickKeeps p s (badSlot s p i) := by
  unfold badSlot
  split
  · rename_i h
    obtain rfl : p = .dist := by cases p <;> simp_all
    exact rootLostCheck_tick ..
  · exact .refl p s

theorem reportPorts_ne_nil (s : State) (accused : Node) : ∃ j, j ∈ reportPorts s .tsu accused := by
  unfold reportPorts
  dsimp only
  split
  · split
    · exact ⟨0, by simp⟩
    · exact ⟨1, by simp⟩
  · exact ⟨0, by simp⟩

/-- A mismatch leaves the receiver's own chain, and all else that the port received (R46). -/
theorem slotMismatch_only (s : State) (p : Part) (i : Nat) (w : W32) (st : St) : let t := slotMismatch s p i w st
    PartOnly p s t ∧ (t.port p i).mark = { (s.port p i).mark.bad with rxWm := w, rxSt := st, rxSeeded := false, noSlot0 := 0 } ∧
    (t.port p i).off = (s.port p i).off ∧ (t.base p).t.acc = (s.base p).t.acc ∧
    (p = .tsu → ∃ j, ReportWaits t .tsu j (neighbour s .tsu i) true causeWm) := by
  unfold slotMismatch
  extract_lets s1 s2 s3 t
  have hport : s1.port p i = { s.port p i with mark := { (s.port p i).mark.bad with
      rxWm := w, rxSt := st, rxSeeded := false, noSlot0 := 0 } } := port_modPort ..
  have hpart : PartOnly p s s1 := (modPort_sends ..).part
  have hacc : (s1.base p).t.acc = (s.base p).t.acc := (congrArg (fun b : Base => b.t.acc) (modPort_sends s p i _).base :)
  have h2 : TickKeeps p s1 s2 := (event_counts ..).choice.tick.trans (badSlot_tick ..)
  have h3 : TickKeeps p s1 s3 := by
    simp only [s3]
    split
    · rename_i h
      obtain rfl := leaderPort_dist h
      exact h2.trans (noConfidence_tick s2)
    · exact h2
  have ht : TickKeeps p s1 t := h3.trans (raise_tick ..)
  refine ⟨partOnly_trans hpart ht.part, ?_, ?_, ht.acc.trans hacc, ?_⟩
  · rw [ht.tx.port i, hport]
  · rw [ht.tx.port i, hport]
  · rintro rfl
    have hneighbour : neighbour s3 .tsu i = neighbour s .tsu i := by
      unfold neighbour
      rw [h3.tx.port i, hport]
    obtain ⟨j, hj⟩ := reportPorts_ne_nil s3 (neighbour s3 .tsu i)
    rw [← hneighbour]
    exact ⟨j, raise_reportWaits hj⟩

/-- An empty slot breaks the chain, and leaves the last verified marker (R46). -/
theorem slotGap_only (s : State) (p : Part) (i : Nat) : let t := slotGap s p i false
    PartOnly p s t ∧ (t.port p i).mark.rxAnchored = false ∧ (t.port p i).mark.badRun = (s.port p i).mark.badRun + 1 ∧
    (t.port p i).mark.noSlot0 = (s.port p i).mark.noSlot0 + 1 ∧ (t.port p i).mark.rxMarker = (s.port p i).mark.rxMarker ∧
    (t.base p).t.acc = (s.base p).t.acc := by
  have kept : ∀ u v : State, TickKeeps p u v → (v.port p i).mark = (u.port p i).mark := fun u v h => by rw [h.tx.port i]
  unfold slotGap
  extract_lets n s1 s2 s3 gaps s4 t
  have hmark : (s1.port p i).mark = { (s.port p i).mark.bad with rxAnchored := false, noSlot0 := (s.port p i).mark.noSlot0 + 1 } :=
    (congrArg Port.mark (port_modPort ..) :)
  have hpart : PartOnly p s s1 := (modPort_sends ..).part
  have hacc : (s1.base p).t.acc = (s.base p).t.acc := (congrArg (fun b : Base => b.t.acc) (modPort_sends s p i _).base :)
  have h2 : TickKeeps p s1 s2 := badSlot_tick ..
  have h3 : TickKeeps p s1 s3 := h2.trans (event_counts ..).choice.tick
  have hmark4 : ∃ g, (s4.port p i).mark = { (s3.port p i).mark with gaps := g } := ⟨_, (congrArg Port.mark (port_modPort ..) :)⟩
  have hpart4 : PartOnly p s3 s4 := (modPort_sends ..).part
  have hacc4 : (s4.base p).t.acc = (s3.base p).t.acc := (congrArg (fun b : Base => b.t.acc) (modPort_sends s3 p i _).base :)
  have ended : ∀ v, TickKeeps p s4 v → PartOnly p s v ∧ (v.port p i).mark.rxAnchored = false ∧
      (v.port p i).mark.badRun = (s.port p i).mark.badRun + 1 ∧ (v.port p i).mark.noSlot0 = (s.port p i).mark.noSlot0 + 1 ∧
      (v.port p i).mark.rxMarker = (s.port p i).mark.rxMarker ∧ (v.base p).t.acc = (s.base p).t.acc := by
    intro v hv
    obtain ⟨g, hg⟩ := hmark4
    have hm : (v.port p i).mark = { (s1.port p i).mark with gaps := g } := by rw [kept _ _ hv, hg, kept _ _ h3]
    rw [hm, hmark]
    exact ⟨partOnly_trans hpart (partOnly_trans h3.part (partOnly_trans hpart4 hv.part)), rfl, rfl, rfl, rfl,
      hv.acc.trans (hacc4.trans (h3.acc.trans hacc))⟩
  simp only [t]
  split
  · rw [kept _ _ h2, hmark]
    exact ⟨partOnly_trans hpart h2.part, rfl, rfl, rfl, rfl, h2.acc.trans hacc⟩
  · split
    · exact ended _ (raise_tick ..)
    · exact ended _ (.refl p s4)

/-! #### The first marker of TIMECAL (R137, R359) -/

theorem st_of_any_count (n : Nat) : n * 2 ^ 32 % 2 ^ 96 / 2 ^ 32 % 2 ^ 64 = n % 2 ^ 64 := by
  omega

/-- A count set to a number of tu shows that number as an ST. -/
theorem set_extract (t : TimeState) (x : Nat) : (t.set (x : Int)).acc.extractLsb' 32 64 = BitVec.ofNat 64 x := by
  have hacc : (t.set (x : Int)).acc = BitVec.ofNat 96 (x * 2 ^ 32) := BitVec.ofInt_natCast 96 (x * 2 ^ 32)
  apply BitVec.eq_of_toNat_eq
  rw [hacc, BitVec.extractLsb'_toNat, BitVec.toNat_ofNat, Nat.shiftRight_eq_div_pow, BitVec.toNat_ofNat]
  exact st_of_any_count x

theorem ofNat_add_sendOfs (a : St) (b : BitVec 16) : BitVec.ofNat 64 (a.toNat + b.toNat) = a + b.setWidth 64 := by
  apply BitVec.eq_of_toNat_eq
  have hb := b.isLt
  rw [BitVec.toNat_ofNat, BitVec.toNat_add, BitVec.toNat_setWidth, Nat.mod_eq_of_lt (b := 2 ^ 64) (a := b.toNat) (by omega)]

/-- The first marker of a part with no time gives it its time and its input (R137, R359). -/
theorem frameTime_only (s : State) (p : Part) (i : Nat) (m : Marker) : let t := frameTime s p i m
    PartOnly p s t ∧ (t.base p).t.held = true ∧ t.now p = m.tickSt + m.sendOfs.setWidth 64 ∧ (t.base p).t.input = some i ∧
    (t.base p).t.first = true ∧ t.port p i = s.port p i ∧
    (p = .tsu → s.tsu.die.state = .blank → s.tsu.mark.calDone = true → s.tsu.mark.pathFault = false → t.tsu.die.state = .truing) := by
  have hnow : ∀ t : TimeState, (t.set ((m.tickSt.toNat : Int) + m.sendOfs.toNat)).acc.extractLsb' 32 64 =
      m.tickSt + m.sendOfs.setWidth 64 := fun t => by
    rw [← ofNat_add_sendOfs, ← set_extract t]
    rfl
  cases p with
  | tsu =>
    refine ⟨⟨rfl, rfl, rfl⟩, rfl, hnow s.tsu.b.t, rfl, rfl, rfl, fun _ hblank hcal hfault => ?_⟩
    show (if s.tsu.die.state == .blank && s.tsu.mark.calDone && !s.tsu.mark.pathFault then _ else _) = _
    rw [hblank, hcal, hfault]
    rfl
  | dist => exact ⟨⟨rfl, rfl, rfl⟩, rfl, hnow s.dist.b.t, rfl, rfl, rfl, fun h => absurd h (by decide)⟩

/-- The first marker of TIMECAL at a part with no time. -/
theorem markerReceive_of_first {p : Part} {i : Nat} {m : Marker} {stamp : St} {s : State} (hi : i < portCount p)
    (hcal : (s.port p i).link.state = .timecal) (hheld : (s.base p).t.held = false) (htakes : takes s p i = true)
    (hgood : markerCorrupt m = false) (hanchor : (s.port p i).mark.rxAnchored = false) :
    exec (.markerReceive p i (.cell m) stamp) s = .next (anchored (frameTime s p i m) p i m) := by
  have hport : (frameTime s p i m).port p i = s.port p i := (frameTime_only s p i m).2.2.2.2.2.1
  unfold exec execMarkerReceive
  refine onPort_next.mpr ⟨hi, ?_⟩
  simp only [hcal, hheld, htakes, hgood, hport, hanchor, beq_self_eq_true, Bool.or_true, Bool.not_true, Bool.false_eq_true, if_false,
    Bool.not_false, Bool.and_self, if_true, Bool.false_and]
  rfl

/-- An empty slot on a link that carries traffic. -/
theorem markerReceive_of_empty {p : Part} {i : Nat} {stamp : St} {s : State} (hi : i < portCount p)
    (hlive : (s.port p i).live = true) : exec (.markerReceive p i .empty stamp) s = .next (slotGap s p i false) := by
  unfold exec execMarkerReceive
  refine onPort_next.mpr ⟨hi, ?_⟩
  simp only [hlive, Bool.true_or, Bool.not_true, Bool.false_eq_true, if_false]

theorem anchored_mark (s : State) (p : Part) (i : Nat) (m : Marker) : ((anchored s p i m).port p i).mark =
    { (s.port p i).mark with rxSt := m.tickSt, rxWm := m.wm, rxAnchored := true, noSlot0 := 0 } :=
  (congrArg Port.mark (port_modPort ..) :)

theorem anchored_sends (s : State) (p : Part) (i : Nat) (m : Marker) : SendsOnly p s (anchored s p i m) := modPort_sends ..

/-- Settles O8: a tick sends its markers, and a received marker follows its case, each by its own lemma above. -/
theorem markersFollowTheirTicks : Obligations.MarkersFollowTheirTicks := by
  refine ⟨fun p ofs s hheld hframed => tickEdge hheld hframed, ?_, ?_, ?_, ?_⟩
  · intro p i m stamp s hi hlive hgood hseed hanchor hst hwm
    refine ⟨_, (markerReceive_of_anchored hi hlive hgood hseed hanchor).trans (congrArg Host.Outcome.next (if_pos ⟨hwm, hst⟩)), ?_⟩
    obtain ⟨hpart, hmarker, hrxWm, hrxSt, hbad, hunc⟩ := markerGood_only (anchored s p i m) p i m stamp
    rw [anchored_mark] at hrxWm hrxSt
    exact ⟨hmarker, hrxWm, hrxSt, hbad, hunc, partOnly_trans (anchored_sends ..).part hpart⟩
  · intro p i m stamp s hi hlive hgood hseed hanchor hne
    have hmismatch : ¬ (m.wm = wmNext (s.port p i).mark.rxWm m ∧ m.tickSt = (s.port p i).mark.rxSt + 16384#64) := fun h =>
      hne.elim (fun hst => hst h.2) fun hwm => hwm h.1
    refine ⟨_, (markerReceive_of_anchored hi hlive hgood hseed hanchor).trans (congrArg Host.Outcome.next (if_neg hmismatch)), ?_⟩
    obtain ⟨hpart, hmark, hoff, hacc, hreport⟩ := slotMismatch_only s p i (wmNext (s.port p i).mark.rxWm m)
      ((s.port p i).mark.rxSt + 16384#64)
    rw [hmark]
    exact ⟨rfl, rfl, hanchor, rfl, hoff, hacc, hreport, hpart⟩
  · intro p i stamp s hi hlive
    obtain ⟨hpart, hanchored, hbad, hno, hmarker, hacc⟩ := slotGap_only s p i
    exact ⟨_, markerReceive_of_empty hi hlive, hanchored, hbad, hno, hmarker, hacc, hpart⟩
  · intro p i m stamp s hi hcal hheld htakes hgood hanchor
    refine ⟨_, markerReceive_of_first hi hcal hheld htakes hgood hanchor, ?_⟩
    obtain ⟨hpart, hheld', hnow, hinput, hfirst, -, hdie⟩ := frameTime_only s p i m
    have hanchored := anchored_sends (frameTime s p i m) p i m
    have htime : ((anchored (frameTime s p i m) p i m).base p).t = ((frameTime s p i m).base p).t :=
      (congrArg Base.t hanchored.base :)
    refine ⟨by rw [htime]; exact hheld', ?_, by rw [htime]; exact hinput, by rw [htime]; exact hfirst, ?_, ?_, ?_,
      partOnly_trans hpart hanchored.part⟩
    · unfold State.now Base.now at hnow ⊢
      rw [htime]
      exact hnow
    · rw [anchored_mark]
    · rw [anchored_mark]
    · intro hp hblank hcalDone hfault
      rw [hanchored.tsu]
      exact hdie hp hblank hcalDone hfault

end Sys2Proof.Machine

namespace Sys2Proof.Machine
open Sys2Proof

/-! ### The canonical form of a state, table by table (R50, R51, R57) -/

section
variable {s t : State}

theorem Canonical.mem (h : Canonical s) : Memory.wf s.tsu.fab.mem = true := h.1
theorem Canonical.tsuPorts (h : Canonical s) : tcanon {} s.tsu.b.ports = true := h.2.1
theorem Canonical.distPorts (h : Canonical s) : tcanon {} s.dist.b.ports = true := h.2.2

theorem Canonical.ports (h : Canonical s) (p : Part) : tcanon {} (s.base p).ports = true := by
  cases p with
  | tsu => exact h.tsuPorts
  | dist => exact h.distPorts

/-- What leaves collect memory and the tables of ports keeps their form. -/
theorem Canonical.of_eq (h : Canonical s) (hm : t.tsu.fab.mem = s.tsu.fab.mem) (ht : t.tsu.b.ports = s.tsu.b.ports)
    (hd : t.dist.b.ports = s.dist.b.ports) : Canonical t := ⟨hm ▸ h.mem, ht ▸ h.tsuPorts, hd ▸ h.distPorts⟩

theorem CountsOnly.canonical {p : Part} (k : CountsOnly p s t) (h : Canonical s) : Canonical t := by
  have hp : (t.base p).ports = (s.base p).ports := by rw [k.base]
  have hpart := k.part
  cases p with
  | tsu => exact h.of_eq (by rw [k.tsu]) hp (congrArg (·.b.ports) hpart.1)
  | dist => exact h.of_eq (by rw [k.tsu]) (congrArg (·.b.ports) hpart.1) hp

theorem DeliversOnly.canonical (k : DeliversOnly s t) (h : Canonical s) : Canonical t := by
  rw [k.frame]
  exact h

theorem modDie_canonical (h : Canonical s) (f : Die → Die) : Canonical (s.modDie f) := h
theorem modSync_canonical (h : Canonical s) (f : Sync → Sync) : Canonical (s.modSync f) := h
theorem modPlate_canonical (h : Canonical s) (f : Plate → Plate) : Canonical (s.modPlate f) := h
theorem modMark_canonical (h : Canonical s) (f : MarkPath → MarkPath) : Canonical (s.modMark f) := h
theorem modFabric_canonical (h : Canonical s) (f : Fabric → Fabric) : Canonical (s.modFabric f) := h
theorem modRefs_canonical (h : Canonical s) (f : Refs → Refs) : Canonical (s.modRefs f) := h
theorem modSv_canonical (h : Canonical s) (f : Service → Service) : Canonical (s.modSv f) := h
theorem modMem_canonical (h : Canonical s) (f : Membership → Membership) : Canonical (s.modMem f) := h
theorem modLed_canonical (h : Canonical s) (f : Ledger → Ledger) : Canonical (s.modLed f) := h

/-- New collect memory in the canonical form. -/
theorem modFab_canonical_of_mem (h : Canonical s) {f : DieFabric → DieFabric} (hf : Memory.wf (f s.tsu.fab).mem = true) :
    Canonical (s.modFab f) := ⟨hf, h.tsuPorts, h.distPorts⟩

theorem modFab_canonical (h : Canonical s) {f : DieFabric → DieFabric} (hf : (f s.tsu.fab).mem = s.tsu.fab.mem) :
    Canonical (s.modFab f) := h.of_eq hf rfl rfl

/-- A new table of ports in the canonical form. -/
theorem modBase_canonical_of_ports (h : Canonical s) (p : Part) {f : Base → Base} (hf : tcanon {} (f (s.base p)).ports = true) :
    Canonical (s.modBase p f) := by
  cases p with
  | tsu => exact ⟨h.mem, hf, h.distPorts⟩
  | dist => exact ⟨h.mem, h.tsuPorts, hf⟩

theorem modBase_canonical (h : Canonical s) (p : Part) {f : Base → Base} (hf : (f (s.base p)).ports = (s.base p).ports) :
    Canonical (s.modBase p f) := modBase_canonical_of_ports h p (hf ▸ h.ports p)

theorem modPort_canonical (h : Canonical s) (p : Part) (i : Nat) (f : Port → Port) : Canonical (s.modPort p i f) :=
  modBase_canonical_of_ports h p (tcanon_tmod _ _ _ _ (h.ports p))

/-- An update of every port. -/
theorem modPortsAll_canonical (h : Canonical s) (p : Part) (f : Nat → Port → Port) :
    Canonical (s.modBase p fun b => { b with ports := tmapAll {} f b.ports }) :=
  modBase_canonical_of_ports h p (tcanon_tmapAll _ _ _ (sorted_of_tcanon _ _ (h.ports p)))

theorem setCtr_ports (b : Base) (c : Ctr) (i v : Nat) : (b.setCtr c i v).ports = b.ports := rfl

theorem foldl_setCtr_ports (fs : List (Ctr × Nat × Nat × Nat)) (b : Base) :
    (fs.foldl (fun b f => b.setCtr f.1 f.2.1 0) b).ports = b.ports := by
  induction fs generalizing b with
  | nil => rfl
  | cons f fs ih => exact ih _

theorem clearCounters_ports (b : Base) (cs : List Ctr) : (clearCounters b cs).ports = b.ports := rfl

theorem dueAdd_ports (b : Base) (cs : List Change) (me : Epoch) (k : Tick) : (dueAdd b cs me k).ports = b.ports := by
  unfold dueAdd
  grind

theorem ite_canonical {c : Prop} [Decidable c] {a b : State} (ha : Canonical a) (hb : Canonical b) : Canonical (if c then a else b) := by
  split
  · exact ha
  · exact hb

theorem ite_snd_canonical {c : Prop} [Decidable c] {a b : Nat × State} (ha : Canonical a.2) (hb : Canonical b.2) :
    Canonical (if c then a else b).2 := by
  split
  · exact ha
  · exact hb

theorem foldl_canonical {α : Type} {f : State → α → State} (h : Canonical s) (hf : ∀ s a, Canonical s → Canonical (f s a))
    (l : List α) : Canonical (l.foldl f s) := by
  induction l generalizing s with
  | nil => exact h
  | cons a l ih => exact ih (hf s a h)

theorem memWrite_canonical (h : Canonical s) (a : Nat) (bs : List Byte) : Canonical (memWrite s a bs) :=
  ⟨memWrite_wf s a bs h.mem, h.tsuPorts, h.distPorts⟩

/-- A command that completes does so in the canonical form. -/
def NextCanonical : Host.Outcome State Fault Refusal → Prop
  | .next t => Canonical t
  | _ => True

theorem nextCanonical_next (h : Canonical s) : NextCanonical (.next s) := h
theorem nextCanonical_fault {r : Fault} : NextCanonical (.fault r) := trivial

theorem onUnit_canonical {ok : Bool} {f : State → State} (hf : Canonical (f s)) : NextCanonical (onUnit ok s f) := by
  unfold onUnit
  split
  · exact hf
  · trivial

theorem onPort_canonical {p : Part} {i : Nat} {f : State → State} (hf : Canonical (f s)) : NextCanonical (onPort p i s f) := by
  unfold onPort
  split
  · exact hf
  · trivial

theorem onRegion_canonical {r : Nat} {f : State → State} (hf : Canonical (f s)) : NextCanonical (onRegion r s f) := by
  unfold onRegion
  split
  · exact hf
  · trivial

theorem onCore_canonical {c : Nat} {f : State → State} (hf : Canonical (f s)) : NextCanonical (onCore c s f) := by
  unfold onCore
  split
  · exact hf
  · trivial

theorem onLane_canonical {p : Part} {i l : Nat} {f : State → State} (hf : Canonical (f s)) : NextCanonical (onLane p i l s f) := by
  unfold onLane
  split
  · trivial
  · split
    · exact hf
    · trivial

/-! ### Sys2Proof/Machine/Ops.lean -/
theorem event_canonical (h : Canonical s) (p ev f n) : Canonical (State.event s p ev f n) := (event_counts s p ev f n).canonical h
theorem irq_canonical (h : Canonical s) (v) : Canonical (irq s v) := (irq_counts s v).canonical h

theorem count_canonical (h : Canonical s) (p c i f n) : Canonical (State.count s p c i f n) := (count_counts s p c i f n).canonical h
theorem clamped_canonical (h : Canonical s) (p b) : Canonical (State.clamped s p b) := (clamped_counts s p b).canonical h
theorem stale_canonical (h : Canonical s) (p port slice) : Canonical (State.stale s p port slice) := count_canonical h ..
theorem maxCtr_canonical (h : Canonical s) (p c i v) : Canonical (State.maxCtr s p c i v) := (maxCtr_counts s p c i v).canonical h
theorem fr_canonical (h : Canonical s) (p cls body hard) :
    Canonical (State.fr s p cls body hard) := (fr_counts s p cls body hard).canonical h

theorem frTrigger_canonical (h : Canonical s) (p code chan stamp) : Canonical (State.frTrigger s p code chan stamp) :=
  (frTrigger_counts s p code chan stamp).canonical h

theorem alert_canonical (h : Canonical s) (p : Part) (i : Nat) : Canonical (s.alert p i) := by
  have hset : Canonical (s.modHs p fun q => { q with alert := (s.base p).hs.alert ||| BitVec.ofNat 64 (2 ^ i) }) :=
    modBase_canonical h p rfl
  have hfr := ite_canonical (c := (s.base p).hs.alert = 0) (frTrigger_canonical hset p 4 0 0) hset
  cases p with
  | tsu =>
    refine ite_canonical ?_ (irq_canonical ?_ 13)
    · exact hfr
    · exact hfr
  | dist => exact hfr

theorem sendP1_canonical (h : Canonical s) (p i c) : Canonical (sendP1 s p i c) :=
  ite_canonical (count_canonical h ..) (maxCtr_canonical (modPort_canonical h ..) ..)

theorem sendP2_canonical (h : Canonical s) (p i c) : Canonical (sendP2 s p i c) := modPort_canonical h ..
theorem sendP3_canonical (h : Canonical s) (p i c) : Canonical (sendP3 s p i c) := modPort_canonical h ..

theorem sendVote_canonical (h : Canonical s) (p i v) : Canonical (sendVote s p i v) :=
  ite_canonical (modPort_canonical h ..) (sendP1_canonical (modPort_canonical h ..) ..)

theorem sendVotes_canonical (h : Canonical s) (p is v) : Canonical (sendVotes s p is v) :=
  foldl_canonical h (fun _ _ h => sendVote_canonical h ..) _

theorem sendMgmt_canonical (h : Canonical s) (p i c) : Canonical (sendMgmt s p i c) :=
  ite_canonical (sendP3_canonical (modPort_canonical h ..) ..) (ite_canonical (count_canonical (modPort_canonical h ..) ..)
    (count_canonical h ..))

theorem mgmt_canonical (h : Canonical s) (p dst b) : Canonical (mgmt s p dst b) :=
  foldl_canonical (modBase_canonical h _ rfl) (fun _ _ h => sendMgmt_canonical h ..) _

theorem tallyEvent_canonical (h : Canonical s) (src at_ hard r) : Canonical (tallyEvent s src at_ hard r) := h

theorem tallyPut_canonical (h : Canonical s) (src at_ r) : Canonical (tallyPut s src at_ r) := by
  unfold tallyPut
  refine ite_canonical h (ite_canonical (tallyEvent_canonical h ..) ?_)
  refine ite_canonical (tallyEvent_canonical (tallyEvent_canonical ?_ ..) ..) (tallyEvent_canonical ?_ ..) <;> exact h

theorem raise_canonical (h : Canonical s) (p accused hard split cause x) : Canonical (raise s p accused hard split cause x) := by
  have hsent := fun body v => sendVotes_canonical (fr_canonical h p 1 body hard) p (reportPorts (s.fr p 1 body hard) p accused) v
  refine ite_canonical (tallyPut_canonical ?_ ..) ?_
  all_goals exact ite_canonical (alert_canonical (hsent ..) ..) (hsent ..)

theorem suspect_canonical (h : Canonical s) (p accused cause x) : Canonical (suspect s p accused cause x) := raise_canonical h ..
theorem hardEvent_canonical (h : Canonical s) (p accused cause x) : Canonical (hardEvent s p accused cause x) := raise_canonical h ..
theorem suspectPort_canonical (h : Canonical s) (p i cause detail) : Canonical (suspectPort s p i cause detail) := suspect_canonical h ..

/-! ### Sys2Proof/Machine/Clock.lean -/
theorem idle_canonical (h : Canonical s) : Canonical (idle s) := by
  unfold idle
  refine h.of_eq ?_ ?_ ?_ <;> grind [Base.clock]

/-! ### Sys2Proof/Machine/PerfOps.lean -/
theorem hist_canonical (h : Canonical s) (p src v f) : Canonical (s.hist p src v f) := (hist_counts s p src v f).canonical h
theorem sample_canonical (h : Canonical s) (p r) : Canonical (s.sample p r) := (sample_counts s p r).canonical h

/-! ### Sys2Proof/Machine/CounterOps.lean -/
theorem deliver1_canonical (h : Canonical s) (core) : Canonical (deliver1 core s) := by
  unfold deliver1
  dsimp only
  split
  · exact h
  · refine ite_canonical (count_canonical (modSync_canonical h _) ..) ?_
    refine ite_canonical (ite_canonical (hist_canonical (modSync_canonical h _) ..) (modSync_canonical h _)) ?_
    split
    · exact h
    · exact count_canonical (modSync_canonical h _) ..

theorem deliver_canonical (h : Canonical s) (core) : Canonical (deliver core s) :=
  foldl_canonical h (fun _ _ h => deliver1_canonical h _) _

theorem msgPut_canonical (h : Canonical s) (m) : Canonical (msgPut s m) :=
  ite_canonical (modSync_canonical h _) (ite_canonical (deliver_canonical (modSync_canonical h _) _) (modSync_canonical h _))

theorem completeCore_canonical (h : Canonical s) (core ctag st v) : Canonical (complete s core ctag st v) :=
  ite_canonical (count_canonical h ..) (modSync_canonical h _)

theorem holdCheck_canonical (h : Canonical s) (c) : Canonical (holdCheck s c) := modPlate_canonical h _
theorem watchRemove_canonical (h : Canonical s) (w) : Canonical (watchRemove s w) := modSync_canonical h _

theorem watchFire_canonical (h : Canonical s) (w x) : Canonical (watchFire w x s) :=
  msgPut_canonical (event_canonical (modSync_canonical h _) ..) _

theorem watchEval_canonical (h : Canonical s) (c w) : Canonical (watchEval c s w) := by
  unfold watchEval
  dsimp only
  split
  · exact h
  · exact ite_canonical h (ite_canonical (watchFire_canonical h ..) (modSync_canonical h _))

theorem watchesEval_canonical (h : Canonical s) (c) : Canonical (watchesEval s c) :=
  foldl_canonical h (fun _ _ h => watchEval_canonical h ..) _

theorem ctrFault_canonical (h : Canonical s) (overflow src c n) : Canonical (ctrFault s overflow src c n) :=
  ite_canonical (count_canonical (event_canonical h ..) ..) (ite_canonical (irq_canonical (modSync_canonical (event_canonical h ..) _) _)
    (modSync_canonical (event_canonical h ..) _))

theorem ctrWrite_canonical (h : Canonical s) (c x) : Canonical (ctrWrite s c x) :=
  holdCheck_canonical (watchesEval_canonical (event_canonical (modSync_canonical h _) ..) _) _

theorem ctrOp_canonical (h : Canonical s) (c op src) : Canonical (ctrOp s c op src).1 := by
  unfold ctrOp
  grind [ctrFault_canonical, ctrWrite_canonical, clamped_canonical]

theorem deliveryAdd_canonical (h : Canonical s) (doneCtr delivery opId) : Canonical (deliveryAdd s doneCtr delivery opId) :=
  ite_canonical h (ctrOp_canonical h ..)

theorem ctrFree_canonical (h : Canonical s) (c) : Canonical (ctrFree s c) := by
  grind [ctrFree, modSync_canonical, msgPut_canonical, watchRemove_canonical, foldl_canonical]

theorem ctrAllocate_canonical (h : Canonical s) (c) : Canonical (ctrAllocate s c) := holdCheck_canonical (modSync_canonical h _) _

/-! ### Sys2Proof/Machine/RegionOps.lean -/
theorem modRegion_canonical (h : Canonical s) (r f) : Canonical (State.modRegion s r f) := h

theorem slip_canonical (h : Canonical s) (r port lateTu tag step) : Canonical (slip s r port lateTu tag step) :=
  irq_canonical (fr_canonical (modPlate_canonical h _) ..) _

theorem launchEdge_canonical (h : Canonical s) (r) : Canonical (launchEdge r s) :=
  ite_canonical h (ite_canonical h (ite_canonical (modRegion_canonical h ..) (count_canonical (modRegion_canonical h ..) ..)))

theorem releaseGo_canonical (r port : Nat) : ∀ (n : Nat) {s : State}, Canonical s → Canonical (releaseGo r port n s)
  | 0, _, h => h
  | n + 1, s, h => by
    unfold releaseGo
    dsimp only
    split
    · exact h
    · refine ite_canonical h ?_
      split
      · exact releaseGo_canonical r port n (modRegion_canonical h ..)
      · refine releaseGo_canonical r port n (ite_canonical ?_ (slip_canonical ?_ ..)) <;>
          exact count_canonical (modRegion_canonical h ..) ..

theorem releaseEdge_canonical (h : Canonical s) (r) : Canonical (releaseEdge r s) :=
  ite_canonical (foldl_canonical (modRegion_canonical h ..) (fun _ port hs => releaseGo_canonical r port 16 hs) _)
    (modRegion_canonical h ..)

theorem regionEdge_canonical (h : Canonical s) (r p) : Canonical (regionEdge r s p) := by
  unfold regionEdge
  grind [modRegion_canonical, releaseEdge_canonical, launchEdge_canonical, modBase_canonical, setCtr_ports]

theorem regionEdges_canonical (h : Canonical s) (r edges) : Canonical (regionEdges r edges s) :=
  foldl_canonical h (fun _ _ h => regionEdge_canonical h ..) _

/-! ### Sys2Proof/Machine/Regions.lean -/
theorem execMarkPathCal_canonical (h : Canonical s) (region rt) : NextCanonical (execMarkPathCal region rt s) :=
  onRegion_canonical (ite_canonical h (modRegion_canonical h ..))

theorem execMarkCalComplete_canonical (h : Canonical s) (tTurn) : NextCanonical (execMarkCalComplete tTurn s) := by
  unfold execMarkCalComplete
  dsimp only
  refine nextCanonical_next ?_
  refine ite_canonical h ?_
  split
  · exact modMark_canonical (foldl_canonical h (fun _ _ h => modRegion_canonical h ..) _) _
  · exact alert_canonical (hardEvent_canonical (modMark_canonical (foldl_canonical h (fun _ _ h => modRegion_canonical h ..) _) _) ..) ..

theorem execMarkCalTemp_canonical (h : Canonical s) (tj) : NextCanonical (execMarkCalTemp tj s) := h

theorem execMarkControlWrite_canonical (h : Canonical s) (v) : NextCanonical (execMarkControlWrite v s) :=
  clamped_canonical (modMark_canonical h _) ..

theorem execMarkEmit_canonical (h : Canonical s) : NextCanonical (execMarkEmit s) := ite_canonical h (modMark_canonical h _)

theorem missMark_canonical (h : Canonical s) (r) : Canonical (missMark r s) :=
  ite_canonical (suspect_canonical (modRegion_canonical (count_canonical (modRegion_canonical h ..) ..) ..) ..) (count_canonical
    (modRegion_canonical h ..) ..)

theorem markErr_canonical (h : Canonical s) (r err lim) : Canonical (markErr r err lim s) :=
  ite_canonical (modRegion_canonical h ..) (ite_canonical (suspect_canonical (fr_canonical (modRegion_canonical h ..) ..) ..)
    (hardEvent_canonical (modRegion_canonical (modRegion_canonical h ..) ..) ..))

theorem markAccept_canonical (h : Canonical s) (r f phi) : Canonical (markAccept r f phi s) :=
  ite_canonical (modRegion_canonical h ..) (markErr_canonical h ..)

theorem execMarkReceive_canonical (h : Canonical s) (region frame phi edges) : NextCanonical (execMarkReceive region frame phi edges s) :=
  onRegion_canonical (ite_canonical h (ite_canonical (missMark_canonical (regionEdges_canonical h ..) _) (ite_canonical
    (regionEdges_canonical h ..) (ite_canonical (hardEvent_canonical (regionEdges_canonical h ..) ..) (markAccept_canonical
    (regionEdges_canonical h ..) ..)))))

theorem execMarkMiss_canonical (h : Canonical s) (region edges) : NextCanonical (execMarkMiss region edges s) :=
  onRegion_canonical (ite_canonical h (missMark_canonical (regionEdges_canonical h ..) _))

theorem execRegionClockStop_canonical (h : Canonical s) (region) : NextCanonical (execRegionClockStop region s) :=
  onRegion_canonical (modRegion_canonical h ..)

theorem execRegionClockStart_canonical (h : Canonical s) (region) : NextCanonical (execRegionClockStart region s) :=
  onRegion_canonical (modRegion_canonical h ..)

theorem execRegionFreqChange_canonical (h : Canonical s) (region setting edges) :
    NextCanonical (execRegionFreqChange region setting edges s) :=
  onRegion_canonical (modRegion_canonical (regionEdges_canonical h ..) ..)

theorem execCrossCal_canonical (h : Canonical s) (region port d) : NextCanonical (execCrossCal region port d s) := by
  grind [execCrossCal, modRegion_canonical, modMark_canonical, nextCanonical_next, nextCanonical_fault]

theorem execCrossBudgetWrite_canonical (h : Canonical s) (v) : NextCanonical (execCrossBudgetWrite v s) :=
  ite_canonical h (clamped_canonical (modMark_canonical h _) ..)

theorem execCrossingWordArrive_canonical (h : Canonical s) (region port tag word edges) :
    NextCanonical (execCrossingWordArrive region port tag word edges s) := by
  grind [execCrossingWordArrive, count_canonical, modRegion_canonical, slip_canonical, regionEdges_canonical, nextCanonical_next,
    nextCanonical_fault]

theorem execCrossingRelease_canonical (h : Canonical s) (region port edges) : NextCanonical (execCrossingRelease region port edges s) := by
  grind [execCrossingRelease, regionEdges_canonical, nextCanonical_next, nextCanonical_fault]

/-! ### Sys2Proof/Machine/TurningOps.lean -/
theorem modTurning_canonical (h : Canonical s) (p slice f) : Canonical (s.modTurning p slice f) := by
  cases p with
  | tsu => exact ite_canonical (a := { s with tsu := { s.tsu with turn := f s.tsu.turn } }) h h
  | dist => exact h

/-! ### Sys2Proof/Machine/PlateOps.lean -/
theorem launchRecord_canonical (h : Canonical s) (r) : Canonical (launchRecord s r) :=
  ite_canonical (count_canonical h ..) (modPlate_canonical h _)

theorem stepFault_canonical (h : Canonical s) (a kind region count) : Canonical (stepFault s a kind region count) :=
  ite_canonical (launchRecord_canonical (event_canonical h ..) _) (irq_canonical (modPlate_canonical (launchRecord_canonical
    (event_canonical h ..) _) _) _)

theorem dropArmed_canonical (h : Canonical s) (a) : Canonical (dropArmed s a) := modPlate_canonical h _
theorem putArmed_canonical (h : Canonical s) (a b) : Canonical (putArmed s a b) := modPlate_canonical h _

theorem plateFired_canonical (h : Canonical s) (a region count late sample) : Canonical (plateFired s a region count late sample) := by
  unfold plateFired
  dsimp only
  exact sample_canonical (hist_canonical (ite_canonical (launchRecord_canonical (event_canonical (ite_canonical (count_canonical
      (event_canonical h ..) ..) (event_canonical h ..)) ..) _) (ite_canonical (launchRecord_canonical (ite_canonical (count_canonical
      (event_canonical h ..) ..) (event_canonical h ..)) _) (ite_canonical (count_canonical (event_canonical h ..) ..) (event_canonical
      h ..)))) ..) ..

theorem plateCancel_canonical (h : Canonical s) (which) : Canonical (plateCancel s which) := by
  refine ite_canonical h (count_canonical ?_ ..)
  exact h

theorem plateAction_canonical (h : Canonical s) (entry action : Nat) {f : Armed → State → State}
    (hf : ∀ a s, Canonical s → Canonical (f a s)) : Canonical (plateAction s entry action f) := by
  grind [plateAction, dropArmed_canonical, plateFired_canonical]

/-! ### Sys2Proof/Machine/PostOps.lean -/
theorem sendCells_canonical (h : Canonical s) (p ports tmpl mk before fin datas) :
    Canonical (sendCells s p ports tmpl mk before fin datas) :=
  foldl_canonical h (fun _ _ h => foldl_canonical h (fun _ _ h => sendP2_canonical h ..) _) _

theorem sendRecord_canonical (h : Canonical s) (p ports tmpl mk bs) : Canonical (sendRecord s p ports tmpl mk bs) :=
  sendCells_canonical h ..

theorem putPost_canonical (h : Canonical s) (q q') : Canonical (putPost s q q') := modFabric_canonical h _
theorem postFlush_canonical (h : Canonical s) (q fin) : Canonical (postFlush s q fin).1 := sendCells_canonical h ..

theorem keyPut_canonical (h : Canonical s) (slice id plane until_ closed) : Canonical (keyPut s slice id plane until_ closed) :=
  modFabric_canonical h _

theorem postFree_canonical (h : Canonical s) (q) : Canonical (postFree s q) :=
  hist_canonical (keyPut_canonical (modFabric_canonical h _) ..) ..

theorem keepRecord_canonical (h : Canonical s) (q) : Canonical (keepRecord s q) := modFabric_canonical h _
theorem sampleHand_canonical (h : Canonical s) (q) : Canonical (sampleHand s q) := ite_canonical h h

theorem postClose_canonical (h : Canonical s) (q q') : Canonical (postClose s q q') :=
  ite_canonical (postFree_canonical (sampleHand_canonical (keepRecord_canonical (putPost_canonical h ..) _) _) _) (keepRecord_canonical
    (putPost_canonical h ..) _)

theorem postAdvance_canonical (h : Canonical s) (q) : Canonical (postAdvance s q) := by
  grind [postAdvance, putPost_canonical, postFlush_canonical, postClose_canonical]

theorem postRemove_canonical (h : Canonical s) (q gone flags) : Canonical (postRemove s q gone flags) :=
  ite_canonical h (postAdvance_canonical (putPost_canonical h ..) _)

theorem postsBreak_canonical (h : Canonical s) (port which) : Canonical (postsBreak s port which) :=
  foldl_canonical h (fun _ _ h => ite_canonical (postRemove_canonical h ..) h) _

theorem postsClear_canonical (h : Canonical s) (gone) : Canonical (postsClear s gone) :=
  foldl_canonical h (fun _ _ h => postRemove_canonical h ..) _

theorem residueEvent_canonical (h : Canonical s) (port id n d flags) : Canonical (residueEvent s port id n d flags) := by
  cases d with
  | none => exact h
  | some => exact ite_canonical h (suspect_canonical h ..)

/-! ### Sys2Proof/Machine/Receive.lean -/
theorem breakOpen_canonical (h : Canonical s) (p port which) : Canonical (breakOpen s p port which) := by
  cases p with
  | tsu => exact h
  | dist => exact postsBreak_canonical h ..

theorem cellCorrupt_canonical (h : Canonical s) (p a op) : Canonical (cellCorrupt s p a op) := by
  grind [cellCorrupt, modPort_canonical, count_canonical, suspectPort_canonical, breakOpen_canonical]

theorem cellIn_canonical (h : Canonical s) (p a type op bad) : Canonical (cellIn s p a type op bad).1 := by
  grind [cellIn, modPort_canonical, count_canonical, breakOpen_canonical, cellCorrupt_canonical]

theorem epochIn_canonical (h : Canonical s) (p a inTime) : Canonical (epochIn s p a inTime).1 := by
  grind [epochIn, epochIn.epochGo, count_canonical, stale_canonical, suspectPort_canonical]

theorem sliceViolation_canonical (h : Canonical s) (a) : Canonical (sliceViolation s a) := suspectPort_canonical (count_canonical h ..) ..

theorem confineIn_canonical (h : Canonical s) (a) : Canonical (confineIn s a).1 := by
  grind [confineIn, count_canonical, suspectPort_canonical, sliceViolation_canonical]

theorem distIn_canonical (h : Canonical s) (a type op bad deadlineOk) : Canonical (distIn s a type op bad deadlineOk).1 := by
  grind [distIn, cellIn_canonical, epochIn_canonical, confineIn_canonical]

theorem dieIn_canonical (h : Canonical s) (a type op bad deadlineOk) : Canonical (dieIn s a type op bad deadlineOk).1 := by
  grind [dieIn, cellIn_canonical, epochIn_canonical]

theorem splitEvent_canonical (h : Canonical s) (opref detail) : Canonical (splitEvent s opref detail) :=
  raise_canonical (raise_canonical h ..) ..

/-! ### Sys2Proof/Machine/SyncOps.lean -/
theorem coreCtr_canonical (h : Canonical s) (core ctag counter op) : Canonical (coreCtr s core ctag counter op) := by
  grind [coreCtr, completeCore_canonical, ctrOp_canonical]

theorem sendBoth_canonical (h : Canonical s) (c) : Canonical (sendBoth s c) := foldl_canonical h (fun _ _ h => sendP1_canonical h ..) _

theorem portSignal_canonical (h : Canonical s) (core ctag target counter op n replyReq) :
    Canonical (portSignal core ctag target counter op n replyReq s) := by
  unfold portSignal
  dsimp only
  split
  · exact completeCore_canonical h ..
  · exact completeCore_canonical h ..
  · exact ite_canonical (coreCtr_canonical h ..) (ite_canonical (completeCore_canonical h ..) (ite_canonical (completeCore_canonical
      (count_canonical h ..) ..) (completeCore_canonical (event_canonical (modSync_canonical (sendBoth_canonical h _) _) ..) ..)))

theorem portWatchReg_canonical (h : Canonical s) (core ctag counter eq rearm target tag threshold) :
    Canonical (portWatchReg core ctag counter eq rearm target tag threshold s) := by
  unfold portWatchReg
  dsimp only
  split
  · exact completeCore_canonical h ..
  · refine ite_canonical (completeCore_canonical h ..) ?_
    split
    · exact completeCore_canonical h ..
    · exact ite_canonical (watchFire_canonical (completeCore_canonical (modSync_canonical h _) ..) ..) (completeCore_canonical
        (modSync_canonical h _) ..)

theorem portWatchCancel_canonical (h : Canonical s) (core ctag watch) : Canonical (portWatchCancel core ctag watch s) := by
  unfold portWatchCancel
  split
  · exact completeCore_canonical h ..
  · exact ite_canonical (completeCore_canonical h ..) (completeCore_canonical (watchRemove_canonical h _) ..)

theorem setLocal_canonical (h : Canonical s) (slot b) : Canonical (setLocal s slot b) := modSync_canonical h _

theorem portLocalDefine_canonical (h : Canonical s) (core ctag slot group cores) :
    Canonical (portLocalDefine core ctag slot group cores s) := by
  unfold portLocalDefine
  split
  · exact completeCore_canonical h ..
  · exact ite_canonical (completeCore_canonical h ..) (completeCore_canonical (setLocal_canonical h ..) ..)

theorem localDone_canonical (h : Canonical s) (slot status) : Canonical (localDone slot status s) :=
  foldl_canonical (foldl_canonical (setLocal_canonical h ..) (fun _ _ h => msgPut_canonical h _) _) (fun _ _ h => hist_canonical h ..) _

theorem portLocalArrive_canonical (h : Canonical s) (core ctag slot) : Canonical (portLocalArrive core ctag slot s) := by
  unfold portLocalArrive
  dsimp only
  split
  · exact completeCore_canonical h ..
  · exact ite_canonical (completeCore_canonical h ..) (ite_canonical (completeCore_canonical h ..) (ite_canonical (localDone_canonical
      (completeCore_canonical (setLocal_canonical h ..) ..) ..) (completeCore_canonical (setLocal_canonical h ..) ..)))

theorem setHall_canonical (h : Canonical s) (g x) : Canonical (setHall s g x) := modSync_canonical h _

theorem portHallArrive_canonical (h : Canonical s) (core ctag group) : Canonical (portHallArrive core ctag group s) := by
  unfold portHallArrive
  dsimp only
  split
  · exact completeCore_canonical h ..
  · exact ite_canonical (completeCore_canonical h ..) (ite_canonical (completeCore_canonical h ..) (ite_canonical (completeCore_canonical
      (setHall_canonical h ..) ..) (sendBoth_canonical (completeCore_canonical (setHall_canonical h ..) ..) _)))

theorem portGate_canonical (h : Canonical s) (core q) {f : State → State} (hf : ∀ s, Canonical s → Canonical (f s)) :
    Canonical (portGate core q f s) := ite_canonical h (hf _ h)

/-! ### Sys2Proof/Machine/CorePort.lean -/
theorem execAdd_canonical (h : Canonical s) (core ctag counter n) : NextCanonical (execAdd core ctag counter n s) := by
  grind [execAdd, onCore_canonical, coreCtr_canonical, portGate_canonical, nextCanonical_next, nextCanonical_fault]

theorem execSub_canonical (h : Canonical s) (core ctag counter n) : NextCanonical (execSub core ctag counter n s) := by
  grind [execSub, onCore_canonical, coreCtr_canonical, portGate_canonical, nextCanonical_next, nextCanonical_fault]

theorem execRead_canonical (h : Canonical s) (core ctag counter) : NextCanonical (execRead core ctag counter s) := by
  grind [execRead, onCore_canonical, coreCtr_canonical, portGate_canonical, nextCanonical_next, nextCanonical_fault]

theorem execSet_canonical (h : Canonical s) (core ctag _counter _v) : NextCanonical (execSet core ctag _counter _v s) := by
  grind [execSet, onCore_canonical, completeCore_canonical, portGate_canonical, nextCanonical_next, nextCanonical_fault]

theorem execUnknownCounterOpc_canonical (h : Canonical s) (core ctag _opc) : NextCanonical (execUnknownCounterOpc core ctag _opc s) := by
  grind [execUnknownCounterOpc, onCore_canonical, completeCore_canonical, portGate_canonical, nextCanonical_next, nextCanonical_fault]

theorem execSignal_canonical (h : Canonical s) (core ctag target counter op n replyReq) :
    NextCanonical (execSignal core ctag target counter op n replyReq s) := by
  grind [execSignal, onCore_canonical, portSignal_canonical, portGate_canonical, nextCanonical_next, nextCanonical_fault]

theorem execWatchReg_canonical (h : Canonical s) (core ctag counter eq rearm target tag threshold) :
    NextCanonical (execWatchReg core ctag counter eq rearm target tag threshold s) := by
  grind [execWatchReg, onCore_canonical, portWatchReg_canonical, portGate_canonical, nextCanonical_next, nextCanonical_fault]

theorem execWatchCancel_canonical (h : Canonical s) (core ctag watch) : NextCanonical (execWatchCancel core ctag watch s) := by
  grind [execWatchCancel, onCore_canonical, portWatchCancel_canonical, portGate_canonical, nextCanonical_next, nextCanonical_fault]

theorem execLocalDefine_canonical (h : Canonical s) (core ctag slot group cores) :
    NextCanonical (execLocalDefine core ctag slot group cores s) := by
  grind [execLocalDefine, onCore_canonical, portLocalDefine_canonical, portGate_canonical, nextCanonical_next, nextCanonical_fault]

theorem execLocalArrive_canonical (h : Canonical s) (core ctag slot) : NextCanonical (execLocalArrive core ctag slot s) := by
  grind [execLocalArrive, onCore_canonical, portLocalArrive_canonical, portGate_canonical, nextCanonical_next, nextCanonical_fault]

theorem execHallArrive_canonical (h : Canonical s) (core ctag group) : NextCanonical (execHallArrive core ctag group s) := by
  grind [execHallArrive, onCore_canonical, portHallArrive_canonical, portGate_canonical, nextCanonical_next, nextCanonical_fault]

theorem execCoreCreditReturn_canonical (h : Canonical s) (core) : NextCanonical (execCoreCreditReturn core s) :=
  onCore_canonical (deliver_canonical (modSync_canonical h _) _)

theorem execCoreReset_canonical (h : Canonical s) (core) : NextCanonical (execCoreReset core s) :=
  onCore_canonical (ite_canonical h (deliver_canonical (modSync_canonical h _) _))

theorem execCoreResetRelease_canonical (h : Canonical s) (core) : NextCanonical (execCoreResetRelease core s) :=
  onCore_canonical (ite_canonical (modSync_canonical h _) h)

/-! ### Sys2Proof/Machine/TimOps.lean -/
theorem modChan_canonical (h : Canonical s) (p n f) : Canonical (State.modChan s p n f) := modBase_canonical h _ rfl
theorem snapshot_canonical (h : Canonical s) (p) : Canonical (State.snapshot s p) := by grind [State.snapshot, modBase_canonical]

theorem chanPut_canonical (h : Canonical s) (p n e) : Canonical (chanPut p n e s) :=
  ite_canonical (ite_canonical (snapshot_canonical (modChan_canonical h ..) _) (modChan_canonical h ..)) (count_canonical h ..)

theorem modStat_canonical (h : Canonical s) (p k f) : Canonical (State.modStat s p k f) := modBase_canonical h _ rfl
theorem modUnit_canonical (h : Canonical s) (p u f) : Canonical (State.modUnit s p u f) := modBase_canonical h _ rfl

theorem intPut_canonical (h : Canonical s) (p u r) : Canonical (intPut p u r s) :=
  ite_canonical (modUnit_canonical (modStat_canonical h ..) ..) (count_canonical (modStat_canonical h ..) ..)

theorem intStart_canonical (h : Canonical s) (p u x) : Canonical (intStart p u x s) := by
  unfold intStart
  split
  · exact count_canonical h ..
  · exact modUnit_canonical h ..

theorem intStop_canonical (h : Canonical s) (p u x) : Canonical (intStop p u x s) := by
  unfold intStop
  split
  · exact ite_canonical (intPut_canonical (modUnit_canonical h ..) ..) (count_canonical h ..)
  · exact count_canonical h ..

theorem intStamp_canonical (h : Canonical s) (p n x u) : Canonical (intStamp p n x s u) :=
  ite_canonical h (ite_canonical (ite_canonical (intStop_canonical h ..) (intStart_canonical h ..)) (ite_canonical (intStart_canonical
    h ..) (ite_canonical (intStop_canonical h ..) h)))

theorem intTrig_canonical (h : Canonical s) (p n stop x u) : Canonical (intTrig p n stop x s u) :=
  ite_canonical (ite_canonical (intStop_canonical h ..) (intStart_canonical h ..)) h

theorem stampAccept_canonical (h : Canonical s) (p n x e) : Canonical (stampAccept p n x e s) := by
  unfold stampAccept
  dsimp only
  exact ite_canonical (frTrigger_canonical (foldl_canonical (modStat_canonical (ite_canonical (chanPut_canonical (modChan_canonical
      h ..) ..) (modChan_canonical h ..)) ..) (fun _ _ h => intStamp_canonical h ..) _) ..) (foldl_canonical (modStat_canonical
      (ite_canonical (chanPut_canonical (modChan_canonical h ..) ..) (modChan_canonical h ..)) ..) (fun _ _ h => intStamp_canonical
      h ..) _)

/-! ### Sys2Proof/Machine/Plate.lean -/
theorem execEntryArm_canonical (h : Canonical s) : NextCanonical (execEntryArm s) := by
  unfold execEntryArm
  refine nextCanonical_next ?_
  split
  · exact h
  · dsimp only
    grind only [count_canonical, modPlate_canonical]

theorem execRegionArmReceive_canonical (h : Canonical s) (region entry cond t arg) :
    NextCanonical (execRegionArmReceive region entry cond t arg s) :=
  onRegion_canonical (ite_canonical h (modRegion_canonical h ..))

theorem kernelDone_canonical (h : Canonical s) (a) : Canonical (kernelDone s a) :=
  ite_canonical h (ite_canonical (dropArmed_canonical h _) (plateFired_canonical (dropArmed_canonical h _) ..))

theorem execFiredFrameReceive_canonical (h : Canonical s) (region frame) : NextCanonical (execFiredFrameReceive region frame s) := by
  grind [execFiredFrameReceive, onRegion_canonical, event_canonical, putArmed_canonical, kernelDone_canonical, nextCanonical_next,
    nextCanonical_fault]

theorem unsyncFault_canonical (h : Canonical s) (a) : Canonical (unsyncFault s a) := by
  unfold unsyncFault
  dsimp only
  split
  · exact h
  · exact kernelDone_canonical (stepFault_canonical (foldl_canonical (putArmed_canonical h ..) (fun _ _ h => modRegion_canonical
      h ..) _) ..) _

theorem execKernelLaunch_canonical (h : Canonical s) (region edges) : NextCanonical (execKernelLaunch region edges s) :=
  onRegion_canonical (ite_canonical (regionEdges_canonical h ..) (foldl_canonical (regionEdges_canonical h ..) (fun _ _ h =>
    unsyncFault_canonical h _) _))

theorem decide1_canonical (h : Canonical s) (a) : Canonical (decide1 a s) :=
  ite_canonical (putArmed_canonical h ..) (ite_canonical (launchRecord_canonical (event_canonical (dropArmed_canonical h _) ..) _)
    (ite_canonical (putArmed_canonical h ..) (stepFault_canonical (dropArmed_canonical h _) ..)))

theorem execConditionDecide_canonical (h : Canonical s) (entry) : NextCanonical (execConditionDecide entry s) := by
  unfold execConditionDecide
  refine nextCanonical_next ?_
  split
  · exact h
  · exact decide1_canonical h _

theorem execHoldExpire_canonical (h : Canonical s) (entry) : NextCanonical (execHoldExpire entry s) := by
  unfold execHoldExpire
  refine nextCanonical_next ?_
  split
  · exact h
  · exact putArmed_canonical h ..

theorem execRegionReleaseReceive_canonical (h : Canonical s) (region entry) : NextCanonical (execRegionReleaseReceive region entry s) := by
  grind [execRegionReleaseReceive, onRegion_canonical, modRegion_canonical, nextCanonical_next, nextCanonical_fault]

theorem execRegionCancelReceive_canonical (h : Canonical s) (region entry) : NextCanonical (execRegionCancelReceive region entry s) := by
  grind [execRegionCancelReceive, onRegion_canonical, modRegion_canonical, nextCanonical_next, nextCanonical_fault]

theorem execCtrAdd_canonical (h : Canonical s) (entry) : NextCanonical (execCtrAdd entry s) :=
  plateAction_canonical h _ _ (fun _ _ h => ctrOp_canonical h ..)

theorem execCtrSub_canonical (h : Canonical s) (entry) : NextCanonical (execCtrSub entry s) :=
  plateAction_canonical h _ _ (fun _ _ h => ctrOp_canonical h ..)

theorem timTrigDo_canonical (h : Canonical s) (ch mode t) : Canonical (timTrigDo ch mode t s) :=
  ite_canonical (ite_canonical (frTrigger_canonical (chanPut_canonical h ..) ..) (chanPut_canonical h ..)) (ite_canonical h
    (foldl_canonical h (fun _ _ h => intTrig_canonical h ..) _))

theorem execTimTrig_canonical (h : Canonical s) (entry) : NextCanonical (execTimTrig entry s) :=
  plateAction_canonical h _ _ (fun _ _ h => timTrigDo_canonical h ..)

theorem execTsOut_canonical (h : Canonical s) (entry) : NextCanonical (execTsOut entry s) :=
  plateAction_canonical h _ _ (fun _ _ h => modDie_canonical h _)

theorem execTsOutPulseEnd_canonical (h : Canonical s) : NextCanonical (execTsOutPulseEnd s) := ite_canonical (modDie_canonical h _) h

theorem execStrobe_canonical (h : Canonical s) (entry) : NextCanonical (execStrobe entry s) :=
  plateAction_canonical h _ _ (fun _ _ h => ite_canonical (count_canonical (modDie_canonical h _) ..) (modDie_canonical h _))

theorem execStepClose_canonical (h : Canonical s) (entry) : NextCanonical (execStepClose entry s) :=
  plateAction_canonical h _ _ (fun _ _ h => foldl_canonical (modSync_canonical h _) (fun _ _ h => sendP2_canonical h ..) _)

theorem execStepFaultClear_canonical (h : Canonical s) : NextCanonical (execStepFaultClear s) := modPlate_canonical h _

/-! ### Sys2Proof/Machine/CollectDie.lean -/
theorem markDone_canonical (h : Canonical s) (desc n) : Canonical (markDone s desc n) := modFab_canonical h rfl

theorem collectDone_canonical (h : Canonical s) (d desc n st x) : Canonical (collectDone s d desc n st x) := by
  unfold collectDone
  dsimp only
  refine ite_canonical (ite_canonical (count_canonical (ite_canonical (event_canonical (ite_canonical (event_canonical h ..) h) ..)
      (ite_canonical (event_canonical h ..) h)) ..) (ite_canonical (event_canonical (ite_canonical (event_canonical h ..) h) ..)
      (ite_canonical (event_canonical h ..) h))) ?_
  exact msgPut_canonical (ite_canonical (count_canonical (ite_canonical (event_canonical (ite_canonical (event_canonical h ..) h) ..)
      (ite_canonical (event_canonical h ..) h)) ..) (ite_canonical (event_canonical (ite_canonical (event_canonical h ..) h) ..)
      (ite_canonical (event_canonical h ..) h))) _

theorem instEnd_canonical (h : Canonical s) (i st x) : Canonical (instEnd s i st x) :=
  collectDone_canonical (markDone_canonical (modFab_canonical h rfl) ..) ..

theorem instsEnd_canonical (h : Canonical s) (st) : Canonical (instsEnd s st) := foldl_canonical h (fun _ _ h => instEnd_canonical h ..) _

theorem startCollect_canonical (h : Canonical s) (desc tag n start len) : Canonical (startCollect s desc tag n start len).1 := by
  grind [startCollect, event_canonical, count_canonical, sendRecord_canonical, modFab_canonical, collectDone_canonical]

theorem execCollect_canonical (h : Canonical s) (entry) : NextCanonical (execCollect entry s) :=
  plateAction_canonical h _ _ (fun _ _ h => startCollect_canonical h ..)

theorem portCollectStart_canonical (h : Canonical s) (core ctag desc tag step) :
    Canonical (portCollectStart core ctag desc tag step s) := by
  grind [portCollectStart, completeCore_canonical, startCollect_canonical]

theorem execCollectStart_canonical (h : Canonical s) (core ctag desc tag step) :
    NextCanonical (execCollectStart core ctag desc tag step s) := by
  grind [execCollectStart, onCore_canonical, portGate_canonical, portCollectStart_canonical, nextCanonical_next, nextCanonical_fault]

theorem instCell_canonical (h : Canonical s) (i planeB last data) : Canonical (instCell s i planeB last data) := h

theorem execCollectResultReceive_canonical (h : Canonical s) (a c) : NextCanonical (execCollectResultReceive a c s) := by
  grind [execCollectResultReceive, onPort_canonical, count_canonical, dieIn_canonical, modFab_canonical, instCell_canonical,
    nextCanonical_next, nextCanonical_fault]

theorem collectWrite_canonical (h : Canonical s) (i bs planeB unverified late disagree) :
    Canonical (collectWrite s i bs planeB unverified late disagree) := by
  unfold collectWrite
  dsimp only
  exact instEnd_canonical (ite_canonical (modFab_canonical (ite_canonical (hist_canonical (deliveryAdd_canonical (memWrite_canonical
      h ..) ..) ..) (deliveryAdd_canonical (memWrite_canonical h ..) ..)) rfl) (ite_canonical (hist_canonical (deliveryAdd_canonical
      (memWrite_canonical h ..) ..) ..) (deliveryAdd_canonical (memWrite_canonical h ..) ..))) ..

theorem copyFailed_canonical (h : Canonical s) (i bs port) : Canonical (copyFailed s i bs port) := by
  unfold copyFailed
  dsimp only
  split
  · exact h
  · exact ite_canonical h (suspect_canonical h ..)

theorem collectRetry_canonical (h : Canonical s) (i) : Canonical (collectRetry s i) :=
  splitEvent_canonical (modFab_canonical (sendVotes_canonical h ..) rfl) ..

theorem collectDiffer_canonical (h : Canonical s) (i x y late) : Canonical (collectDiffer s i x y late) :=
  ite_canonical (ite_canonical (collectWrite_canonical h ..) (instEnd_canonical h ..)) (ite_canonical (collectWrite_canonical
    (copyFailed_canonical h ..) ..) (ite_canonical (collectWrite_canonical (copyFailed_canonical h ..) ..) (collectRetry_canonical h _)))

theorem collectDecide_canonical (h : Canonical s) (i late) : Canonical (collectDecide s i late) := by
  grind [collectDecide, count_canonical, instEnd_canonical, collectWrite_canonical, copyFailed_canonical, collectDiffer_canonical]

theorem collectDecide4_canonical (h : Canonical s) (i) : Canonical (collectDecide4 s i) := by
  unfold collectDecide4
  dsimp only
  split
  · refine ite_canonical (collectWrite_canonical h ..) ?_
    split
    · exact collectWrite_canonical h ..
    · exact instEnd_canonical h ..
  · exact collectWrite_canonical h ..
  · exact instEnd_canonical h ..

theorem execCollectRelease_canonical (h : Canonical s) (desc inst) : NextCanonical (execCollectRelease desc inst s) := by
  unfold execCollectRelease
  dsimp only
  refine nextCanonical_next ?_
  split
  · exact h
  · refine ite_canonical (ite_canonical (collectDecide4_canonical h _) h) ?_
    split
    · exact h
    · exact ite_canonical (collectDecide_canonical h ..) h

theorem execCollectExpire_canonical (h : Canonical s) (desc inst) : NextCanonical (execCollectExpire desc inst s) := by
  unfold execCollectExpire
  refine nextCanonical_next ?_
  split
  · exact h
  · exact ite_canonical h (instEnd_canonical (count_canonical h ..) ..)

theorem execResendWaitExpire_canonical (h : Canonical s) (desc inst) : NextCanonical (execResendWaitExpire desc inst s) := by
  unfold execResendWaitExpire
  dsimp only
  refine nextCanonical_next ?_
  split
  · exact h
  · split
    · exact h
    · exact ite_canonical (collectDecide4_canonical h _) h

/-! ### Sys2Proof/Machine/RefOps.lean -/
theorem modRefIn_canonical (h : Canonical s) (i f) : Canonical (State.modRefIn s i f) := modRefs_canonical h _
theorem refMeasure_canonical (h : Canonical s) (i e) : Canonical (refMeasure s i e) := modRefIn_canonical h ..
theorem refStamp_canonical (h : Canonical s) (n st) : Canonical (refStamp s n st) := ite_canonical (refMeasure_canonical h ..) h
theorem phasesMove_canonical (h : Canonical s) (d) : Canonical (phasesMove s d) := modRefs_canonical h _
theorem refRecheck_canonical (h : Canonical s) (i) : Canonical (refRecheck s i) := ite_canonical h (modRefIn_canonical h ..)
theorem refFail_canonical (h : Canonical s) (i) : Canonical (refFail s i) := modRefIn_canonical h ..
theorem drawRate_canonical (h : Canonical s) : Canonical (drawRate s).2 := modBase_canonical h _ rfl

/-! ### Sys2Proof/Machine/HeadstockOps.lean -/
theorem modHs_canonical (h : Canonical s) (p f) : Canonical (State.modHs s p f) := modBase_canonical h _ rfl
theorem modMbox_canonical (h : Canonical s) (m f) : Canonical (State.modMbox s m f) := h

theorem cplPost_canonical (h : Canonical s) (m cp) : Canonical (cplPost s m cp) :=
  ite_canonical (modMbox_canonical h ..) (irq_canonical (modMbox_canonical h ..) _)

theorem complete_canonical (h : Canonical s) (c cp) : Canonical (complete_ s c cp) := by
  grind [complete_, event_canonical, mgmt_canonical, sample_canonical, modMbox_canonical, modSv_canonical, cplPost_canonical]

theorem done_canonical (h : Canonical s) (c op st) : Canonical (done s c op st) := complete_canonical h ..
theorem doneR_canonical (h : Canonical s) (c op st r0 r1 r2) : Canonical (doneR s c op st r0 r1 r2) := complete_canonical h ..
theorem pend_canonical (h : Canonical s) (c op) : Canonical (pend s c op) := complete_canonical h ..

theorem cmdTake_canonical (h : Canonical s) (c op) : Canonical (cmdTake s c op) := by
  unfold cmdTake
  dsimp only
  split
  · exact modMbox_canonical h ..
  · exact h

theorem onCmd_canonical (h : Canonical s) (c op ok) {f : State → State} (hf : ∀ s, Canonical s → Canonical (f s)) :
    NextCanonical (onCmd c op ok s f) := by
  grind [onCmd, cmdTake_canonical, done_canonical, nextCanonical_next, nextCanonical_fault]

theorem drawWord_canonical (h : Canonical s) (p) : Canonical (drawWord s p).2 := modBase_canonical h _ rfl

theorem guardHit_canonical (h : Canonical s) (p g attempted) : Canonical (guardHit s p g attempted) := by
  grind [guardHit, count_canonical, fr_canonical, modHs_canonical, drawWord_canonical]

/-! ### Sys2Proof/Machine/Signals.lean -/
theorem signalReply_canonical (h : Canonical s) (ce me c st v) : Canonical (signalReply s ce me c st v) := sendBoth_canonical h _

theorem signalAnswer_canonical (h : Canonical s) (ce me c st v) : Canonical (signalAnswer s ce me c st v) :=
  ite_canonical (signalReply_canonical h ..) h

theorem signalPerform_canonical (h : Canonical s) (a c) : Canonical (signalPerform s a c) := by
  grind [signalPerform, modSync_canonical, ctrOp_canonical, signalAnswer_canonical]

theorem signalCopy_canonical (h : Canonical s) (e c) : Canonical (signalCopy s e c) :=
  ite_canonical (modSync_canonical h _) (splitEvent_canonical (modSync_canonical h _) ..)

theorem execSignalCellReceive_canonical (h : Canonical s) (a c) : NextCanonical (execSignalCellReceive a c s) := by
  grind [execSignalCellReceive, onPort_canonical, count_canonical, stale_canonical, dieIn_canonical, signalAnswer_canonical,
    signalPerform_canonical, signalCopy_canonical, nextCanonical_next, nextCanonical_fault]

theorem execSignalDeckleExpire_canonical (h : Canonical s) (src opId) : NextCanonical (execSignalDeckleExpire src opId s) := by
  unfold execSignalDeckleExpire
  refine nextCanonical_next ?_
  split
  · exact h
  · exact count_canonical (modSync_canonical h _) ..

theorem sigOutDone_canonical (h : Canonical s) (e st v planeB unverified) : Canonical (sigOutDone s e st v planeB unverified) :=
  msgPut_canonical (ite_canonical (event_canonical (modSync_canonical h _) ..) (modSync_canonical h _)) _

theorem execSignalReplyReceive_canonical (h : Canonical s) (a c) : NextCanonical (execSignalReplyReceive a c s) := by
  grind [execSignalReplyReceive, onPort_canonical, count_canonical, modSync_canonical, dieIn_canonical, splitEvent_canonical,
    sigOutDone_canonical, nextCanonical_next, nextCanonical_fault]

theorem execSignalDeadlineExpire_canonical (h : Canonical s) (opId) : NextCanonical (execSignalDeadlineExpire opId s) := by
  unfold execSignalDeadlineExpire
  refine nextCanonical_next ?_
  split
  · exact h
  · exact sigOutDone_canonical h ..

theorem seePut_canonical (h : Canonical s) (kind src op) : Canonical (seePut s kind src op) := h

theorem execSignalForward_canonical (h : Canonical s) (a c) : NextCanonical (execSignalForward a c s) := by
  grind [execSignalForward, onPort_canonical, sendP1_canonical, sliceViolation_canonical, distIn_canonical, seePut_canonical,
    foldl_canonical, nextCanonical_next, nextCanonical_fault]

theorem stray_canonical (h : Canonical s) (a) : Canonical (stray s a) := count_canonical h ..

theorem sendBar_canonical (h : Canonical s) (b body ports) : Canonical (sendBar s b body ports) :=
  foldl_canonical h (fun _ _ h => sendP1_canonical h ..) _

theorem barFree_canonical (h : Canonical s) (b) : Canonical (barFree s b) := by
  refine hist_canonical ?_ ..
  exact h

theorem barAdvance_canonical (h : Canonical s) (b) : Canonical (barAdvance s b) := by
  refine ite_canonical h (ite_canonical (barFree_canonical (sendBar_canonical h ..) _) (sendBar_canonical ?_ ..))
  exact h

theorem barArrive_canonical (h : Canonical s) (a c b) : Canonical (barArrive s a c b) := by
  refine ite_canonical (suspectPort_canonical (stray_canonical h _) ..)
    (ite_canonical (stray_canonical h _) (barAdvance_canonical ?_ _))
  exact h

theorem barOpen_canonical (h : Canonical s) (a c g) : Canonical (barOpen s a c g) := by
  refine barArrive_canonical ?_ ..
  refine ite_canonical (count_canonical ?_ ..) ?_ <;> exact event_canonical h ..

theorem execBarrierArriveReceive_canonical (h : Canonical s) (a c) : NextCanonical (execBarrierArriveReceive a c s) := by
  grind [execBarrierArriveReceive, onPort_canonical, suspectPort_canonical, distIn_canonical, stray_canonical, barArrive_canonical,
    barOpen_canonical, nextCanonical_next, nextCanonical_fault]

theorem execBarrierDoneForward_canonical (h : Canonical s) (a c) : NextCanonical (execBarrierDoneForward a c s) := by
  grind [execBarrierDoneForward, onPort_canonical, sendP1_canonical, distIn_canonical, seePut_canonical, stray_canonical,
    barFree_canonical, foldl_canonical, nextCanonical_next, nextCanonical_fault]

theorem hallDeliver_canonical (h : Canonical s) (g x d part_ deferred unverified) :
    Canonical (hallDeliver s g x d part_ deferred unverified) :=
  foldl_canonical (deliveryAdd_canonical (setHall_canonical h ..) ..) (fun _ _ h => hist_canonical (ite_canonical (event_canonical
    (msgPut_canonical h _) ..) (msgPut_canonical h _)) ..) _

theorem execBarrierDoneReceive_canonical (h : Canonical s) (a c) : NextCanonical (execBarrierDoneReceive a c s) := by
  grind [execBarrierDoneReceive, onPort_canonical, event_canonical, dieIn_canonical, splitEvent_canonical, setHall_canonical,
    done_canonical, hallDeliver_canonical, nextCanonical_next, nextCanonical_fault]

theorem execBarrierDeckleExpire_canonical (h : Canonical s) (group) : NextCanonical (execBarrierDeckleExpire group s) := by
  unfold execBarrierDeckleExpire
  dsimp only
  refine nextCanonical_next ?_
  split
  · exact h
  · exact hallDeliver_canonical h ..

theorem execBarrierWaitExpire_canonical (h : Canonical s) (group) : NextCanonical (execBarrierWaitExpire group s) :=
  ite_canonical h (irq_canonical (fr_canonical (setHall_canonical h ..) ..) _)

/-! ### Sys2Proof/Machine/ClearOps.lean -/
theorem localCancel_canonical (h : Canonical s) (slot) : Canonical (localCancel s slot) :=
  ite_canonical h (foldl_canonical (setLocal_canonical h ..) (fun _ _ h => msgPut_canonical h _) _)

theorem localsCancel_canonical (h : Canonical s) : Canonical (localsCancel s) :=
  foldl_canonical h (fun _ _ h => localCancel_canonical h _) _

theorem signalsEnd_canonical (h : Canonical s) (st) : Canonical (signalsEnd s st) :=
  foldl_canonical h (fun _ _ h => sigOutDone_canonical h ..) _

theorem hallEnd_canonical (h : Canonical s) (st g) : Canonical (hallEnd s st g) :=
  foldl_canonical (setHall_canonical h ..) (fun _ _ h => msgPut_canonical h _) _

theorem hallsEnd_canonical (h : Canonical s) (st) : Canonical (hallsEnd s st) := foldl_canonical h (fun _ _ h => hallEnd_canonical h ..) _

theorem ledgerOpsEnd_canonical (h : Canonical s) (st) : Canonical (ledgerOpsEnd s st) :=
  foldl_canonical (modFab_canonical h rfl) (fun _ _ h => done_canonical h ..) _

theorem dieOpsEnd_canonical (h : Canonical s) (st) : Canonical (dieOpsEnd s st) :=
  ledgerOpsEnd_canonical (hallsEnd_canonical (signalsEnd_canonical (instsEnd_canonical h _) _) _) _

theorem watchesEnd_canonical (h : Canonical s) (msg) : Canonical (watchesEnd s msg) := by
  grind [watchesEnd, msgPut_canonical, watchRemove_canonical, foldl_canonical]

theorem noTimeClears_canonical (h : Canonical s) : Canonical (noTimeClears s) :=
  localsCancel_canonical (signalsEnd_canonical (instsEnd_canonical (plateCancel_canonical h _) _) _)

theorem sendPartDone_canonical (h : Canonical s) : Canonical (sendPartDone s) := mgmt_canonical (modDie_canonical h _) ..
theorem enterTruing_canonical (h : Canonical s) : Canonical (enterTruing s) := plateCancel_canonical h fun _ => true

/-! ### Sys2Proof/Machine/VoteOps.lean -/
theorem relayVote_canonical (h : Canonical s) (ports v) : Canonical (relayVote s ports v) :=
  foldl_canonical h (fun _ _ h => sendP1_canonical h ..) _

theorem voteStaleIn_canonical (h : Canonical s) (port) : Canonical (voteStaleIn s port) := count_canonical (count_canonical h ..) ..

theorem voteIn_canonical (h : Canonical s) (port v) : Canonical (voteIn s port v).1 := by
  grind [voteIn, relayVote_canonical, voteStaleIn_canonical]

theorem sendOwnVote_canonical (h : Canonical s) (dst b) : Canonical (sendOwnVote s dst b) :=
  ite_canonical (foldl_canonical (sendVotes_canonical h ..) (fun _ _ h => sendVotes_canonical h ..) _) (sendVotes_canonical h ..)

theorem announceVote_canonical (h : Canonical s) (b) : Canonical (announceVote s b) := sendVotes_canonical h ..

/-! ### Sys2Proof/Machine/TimeOps.lean -/
theorem modTime_canonical (h : Canonical s) (p f) : Canonical (State.modTime s p f) := modBase_canonical h _ rfl
theorem modEp_canonical (h : Canonical s) (p f) : Canonical (State.modEp s p f) := modBase_canonical h _ rfl
theorem modMap_canonical (h : Canonical s) (p f) : Canonical (State.modMap s p f) := modBase_canonical h _ rfl
theorem modPortMark_canonical (h : Canonical s) (p i f) : Canonical (State.modMark_ s p i f) := modPort_canonical h ..
theorem modOff_canonical (h : Canonical s) (p i f) : Canonical (State.modOff s p i f) := modPort_canonical h ..
theorem modLink_canonical (h : Canonical s) (p i f) : Canonical (State.modLink s p i f) := modPort_canonical h ..

theorem startHold_canonical (h : Canonical s) (p) : Canonical (startHold s p) := by
  unfold startHold
  dsimp only
  refine ite_canonical h ?_
  split
  · exact modTime_canonical h ..
  · exact alert_canonical (modTime_canonical h ..) ..

theorem enterNoTime_canonical (h : Canonical s) (p) : Canonical (enterNoTime s p) := by
  unfold enterNoTime
  dsimp only
  refine ite_canonical h ?_
  split
  · exact ite_canonical (sendPartDone_canonical (modDie_canonical (dieOpsEnd_canonical (noTimeClears_canonical (alert_canonical
      (modTime_canonical h ..) ..)) _) _)) (noTimeClears_canonical (alert_canonical (modTime_canonical h ..) ..))
  · exact alert_canonical (modTime_canonical h ..) ..

theorem takeInput_canonical (h : Canonical s) (p i holding) : Canonical (takeInput s p i holding) :=
  modTime_canonical (ite_canonical (enterTruing_canonical (ite_canonical (event_canonical h ..) h)) (ite_canonical (event_canonical h ..)
    h)) ..

theorem chooseInput_canonical (h : Canonical s) (p) : Canonical (chooseInput s p) := by
  unfold chooseInput
  generalize (match p with | .tsu => _ | .dist => _ : Option Nat) = pick
  grind [modTime_canonical, takeInput_canonical, startHold_canonical]

/-! ### Sys2Proof/Machine/MemberOps.lean -/
theorem modNode_canonical (h : Canonical s) (n f) : Canonical (State.modNode s n f) := modMem_canonical h _
theorem announceCe_canonical (h : Canonical s) (t) : Canonical (announceCe s t) := modSv_canonical (modEp_canonical h ..) _

theorem announceResets_canonical (h : Canonical s) : Canonical (announceResets s) :=
  ite_canonical h (foldl_canonical h (fun _ _ h => modTurning_canonical (announceCe_canonical h _) ..) _)

theorem announceLeader_canonical (h : Canonical s) (r) : Canonical (announceLeader s r) := modEp_canonical h ..

theorem memberVotes_canonical (me t) : ∀ (n : Nat) (cs : List Change) {s : State}, Canonical s → Canonical (memberVotes s n cs me t)
  | 0, _, _, h => h
  | n + 1, _, _, h => ite_canonical h (memberVotes_canonical me t n _ (announceVote_canonical h _))

theorem announceMembers_canonical (h : Canonical s) (cs) : Canonical (announceMembers s cs) := by
  unfold announceMembers
  grind [modMem_canonical, modBase_canonical, memberVotes_canonical, modEp_canonical, announceLeader_canonical]

theorem decided_canonical (h : Canonical s) (c) : Canonical (decided s c) :=
  ite_canonical (modMem_canonical (modMem_canonical h _) _) (ite_canonical (announceMembers_canonical (modMem_canonical h _) _)
    (modMem_canonical h _))

theorem voteFor_canonical (h : Canonical s) (root c) : Canonical (voteFor s root c) :=
  ite_canonical h (ite_canonical (decided_canonical (modMem_canonical h _) _) (modMem_canonical h _))

theorem propose_canonical (h : Canonical s) (c) : Canonical (propose s c) :=
  ite_canonical h (voteFor_canonical (sendOwnVote_canonical h ..) ..)

theorem announceHeld_canonical (h : Canonical s) : Canonical (announceHeld s) :=
  ite_canonical h (announceMembers_canonical (modMem_canonical h _) _)

theorem copyAsk_canonical (h : Canonical s) : Canonical (copyAsk s) := by
  unfold copyAsk
  dsimp only
  split
  · exact ite_canonical (mgmt_canonical h ..) h
  · exact h

theorem judge_canonical (h : Canonical s) (n) : Canonical (judge s n) := by
  unfold judge
  dsimp only
  split
  · exact modNode_canonical h ..
  · refine ite_canonical (modNode_canonical h ..) ?_
    exact ite_canonical (ite_canonical (modNode_canonical h ..) (decided_canonical (modNode_canonical h ..) _)) (ite_canonical
        (propose_canonical (modNode_canonical h ..) _) (ite_canonical (ite_canonical (alert_canonical (modNode_canonical
        (modNode_canonical (modNode_canonical h ..) ..) ..) ..) (propose_canonical (modNode_canonical h ..) _)) (modNode_canonical
        (modNode_canonical h ..) ..)))

theorem judgeFresh_canonical (h : Canonical s) : Canonical (judgeFresh s) :=
  ite_canonical h (foldl_canonical h (fun _ _ h => judge_canonical h _) _)

theorem noConfBoth_canonical (h : Canonical s) : Canonical (noConfBoth s) := by
  unfold noConfBoth
  dsimp only
  split
  · split
    · exact ite_canonical h (ite_canonical (propose_canonical (modRefs_canonical h _) _) (ite_canonical (announceLeader_canonical
        (modRefs_canonical h _) _) (modRefs_canonical h _)))
    · exact h
  · exact h

theorem noConfidence_canonical (h : Canonical s) : Canonical (noConfidence s) :=
  ite_canonical h (noConfBoth_canonical (suspect_canonical (modRefs_canonical h _) ..))

theorem enterElectHold_canonical (h : Canonical s) : Canonical (enterElectHold s) := modMem_canonical (modTime_canonical h ..) _

theorem rootLostCheck_canonical (h : Canonical s) (port) : Canonical (rootLostCheck s port) :=
  ite_canonical h (ite_canonical h (ite_canonical (enterElectHold_canonical (sendVotes_canonical (modMem_canonical h _) ..))
    (sendVotes_canonical (modMem_canonical h _) ..)))

theorem rootFound_canonical (h : Canonical s) (port) : Canonical (rootFound s port) := ite_canonical (modMem_canonical h _) h

/-! ### Sys2Proof/Machine/LedgerOps.lean -/
theorem modSg_canonical (h : Canonical s) (g f) : Canonical (State.modSg s g f) := modLed_canonical h _
theorem modEntry_canonical (h : Canonical s) (r f) : Canonical (State.modEntry s r f) := modLed_canonical h _

/-! ### Sys2Proof/Machine/Posts.lean -/
theorem postRefuse_canonical (h : Canonical s) (q) : Canonical (postRefuse s q) :=
  sendRecord_canonical (keyPut_canonical (count_canonical h ..) ..) ..

theorem postStray_canonical (h : Canonical s) (a) : Canonical (postStray s a) := count_canonical h ..

theorem postOutside_canonical (h : Canonical s) (a id) : Canonical (postOutside s a id) :=
  suspectPort_canonical (postStray_canonical h _) ..

theorem postMismatch_canonical (h : Canonical s) (q a pos x) : Canonical (postMismatch s q a pos x) :=
  ite_canonical (postAdvance_canonical h _) (ite_canonical (postRemove_canonical (count_canonical h ..) ..) (postAdvance_canonical
    (putPost_canonical (count_canonical h ..) ..) _))

theorem postCell_canonical (h : Canonical s) (q a c) : Canonical (postCell s q a c) := by
  unfold postCell
  dsimp only
  refine ite_canonical (postOutside_canonical h ..) ?_
  refine ite_canonical (postStray_canonical h _) ?_
  refine ite_canonical h ?_
  refine ite_canonical (postAdvance_canonical (putPost_canonical h ..) _) ?_
  refine ite_canonical (postRemove_canonical (ite_canonical (residueEvent_canonical (putPost_canonical (ite_canonical h (count_canonical
      h ..)) ..) ..) (putPost_canonical (ite_canonical h (count_canonical h ..)) ..)) ..) ?_
  exact ite_canonical (postMismatch_canonical (ite_canonical (residueEvent_canonical (putPost_canonical (ite_canonical h (count_canonical
      h ..)) ..) ..) (putPost_canonical (ite_canonical h (count_canonical h ..)) ..)) ..) (postAdvance_canonical (ite_canonical
      (residueEvent_canonical (putPost_canonical (ite_canonical h (count_canonical h ..)) ..) ..) (putPost_canonical (ite_canonical h
      (count_canonical h ..)) ..)) _)

theorem postOpen_canonical (h : Canonical s) (a c plane) : Canonical (postOpen s a c plane) := by
  unfold postOpen
  dsimp only
  split
  · exact postOutside_canonical h ..
  · exact ite_canonical (postOutside_canonical h ..) (ite_canonical (postRefuse_canonical h _) (postCell_canonical (modFabric_canonical
      (event_canonical h ..) _) ..))

theorem execCollectUpReceive_canonical (h : Canonical s) (a c) : NextCanonical (execCollectUpReceive a c s) := by
  grind [execCollectUpReceive, onPort_canonical, distIn_canonical, postStray_canonical, postCell_canonical, postOpen_canonical,
    nextCanonical_next, nextCanonical_fault]

theorem execPostDeadlineLimit_canonical (h : Canonical s) (slice id plane) : NextCanonical (execPostDeadlineLimit slice id plane s) := by
  unfold execPostDeadlineLimit
  refine nextCanonical_next ?_
  split
  · exact h
  · exact ite_canonical (postRemove_canonical h ..) h

theorem execPostTornLimit_canonical (h : Canonical s) (slice id plane) : NextCanonical (execPostTornLimit slice id plane s) := by
  unfold execPostTornLimit
  refine nextCanonical_next ?_
  split
  · exact h
  · exact ite_canonical (postRemove_canonical h ..) h

theorem forwardDelta_canonical (h : Canonical s) (slice ce me c first last) : Canonical (forwardDelta s slice ce me c first last) :=
  foldl_canonical h (fun _ _ h => sendP2_canonical h ..) _

theorem forwardDown_canonical (h : Canonical s) (port slice ce me c first last) :
    Canonical (forwardDown s port slice ce me c first last) := by
  unfold forwardDown
  dsimp only
  refine ite_canonical (forwardDelta_canonical h ..) ?_
  refine ite_canonical ?_ ?_
  · split
    · exact postFree_canonical (residueEvent_canonical (modFabric_canonical (ite_canonical (foldl_canonical h (fun _ _ h =>
        sendP2_canonical h ..) _) (count_canonical (foldl_canonical h (fun _ _ h => sendP2_canonical h ..) _) ..)) _) ..) _
    · exact residueEvent_canonical (modFabric_canonical (ite_canonical (foldl_canonical h (fun _ _ h => sendP2_canonical h ..) _)
        (count_canonical (foldl_canonical h (fun _ _ h => sendP2_canonical h ..) _) ..)) _) ..
  · exact modFabric_canonical (ite_canonical (foldl_canonical h (fun _ _ h => sendP2_canonical h ..) _) (count_canonical (foldl_canonical
      h (fun _ _ h => sendP2_canonical h ..) _) ..)) _

theorem setVote_canonical (h : Canonical s) (v v') : Canonical (setVote s v v') := modFabric_canonical h _

theorem voteSend_canonical (h : Canonical s) (v k x) : Canonical (voteSend s v k x).1 :=
  forwardDown_canonical (setVote_canonical h ..) ..

theorem voteFlush_canonical : ∀ (n : Nat) {s : State}, Canonical s → ∀ v, Canonical (voteFlush s v n)
  | 0, _, h, _ => h
  | n + 1, s, h, v => by
    unfold voteFlush
    have ih := @voteFlush_canonical n
    grind [voteSend_canonical]

theorem voteOutvoted_canonical (h : Canonical s) (v y) : Canonical (voteOutvoted s v y) := by
  unfold voteOutvoted
  split
  · exact h
  · split
    · exact h
    · exact hardEvent_canonical (setVote_canonical h ..) ..

theorem voteCopy_canonical (h : Canonical s) (v a c) : Canonical (voteCopy s v a c) := by
  unfold voteCopy
  grind [setVote_canonical, voteOutvoted_canonical, voteFlush_canonical]

theorem execCollectDownReceive_canonical (h : Canonical s) (a c) : NextCanonical (execCollectDownReceive a c s) := by
  grind [execCollectDownReceive, onPort_canonical, modFabric_canonical, distIn_canonical, postStray_canonical, postOutside_canonical,
    forwardDown_canonical, setVote_canonical, voteCopy_canonical, nextCanonical_next, nextCanonical_fault]

theorem ledgerDown_canonical (h : Canonical s) (slice ce me m) : Canonical (ledgerDown s slice ce me m) :=
  foldl_canonical h (fun _ _ h => ite_canonical h (sendP2_canonical h ..)) _

theorem ledVoteExpire_canonical (h : Canonical s) (slice op) : Canonical (ledVoteExpire s slice op) := by
  unfold ledVoteExpire
  dsimp only
  split
  · exact h
  · split
    · exact ledgerDown_canonical (modFabric_canonical h _) ..
    · exact modFabric_canonical h _

theorem execRootVoteExpire_canonical (h : Canonical s) (slice id) : NextCanonical (execRootVoteExpire slice id s) := by
  grind [execRootVoteExpire, ledVoteExpire_canonical, modFabric_canonical, voteSend_canonical, voteFlush_canonical,
    setVote_canonical, nextCanonical_next]

theorem resendDelta_canonical (h : Canonical s) (port slice sg step) : Canonical (resendDelta s port slice sg step) := by
  unfold resendDelta
  split
  · exact h
  · exact sendP2_canonical h ..

theorem execResendReceive_canonical (h : Canonical s) (port v) : NextCanonical (execResendReceive port v s) := by
  grind [execResendReceive, onPort_canonical, modFabric_canonical, sendRecord_canonical, relayVote_canonical, voteStaleIn_canonical,
    resendDelta_canonical, nextCanonical_next, nextCanonical_fault]

theorem execResultKeepExpire_canonical (h : Canonical s) (slice id) : NextCanonical (execResultKeepExpire slice id s) :=
  modFabric_canonical h _

theorem execDigestReqReceive_canonical (h : Canonical s) (port v) : NextCanonical (execDigestReqReceive port v s) := by
  grind [execDigestReqReceive, onPort_canonical, relayVote_canonical, voteStaleIn_canonical, sendOwnVote_canonical, nextCanonical_next,
    nextCanonical_fault]

theorem execPostDigestReceive_canonical (h : Canonical s) (port v) : NextCanonical (execPostDigestReceive port v s) := by
  refine onPort_canonical ?_
  have hin := voteIn_canonical h port v
  revert hin
  generalize voteIn s port v = w
  intro hin
  dsimp only
  split
  · split
    · exact hin
    · exact hin
  · exact hin

theorem chargeSplit_canonical (h : Canonical s) (opref ns) : Canonical (chargeSplit s opref ns) :=
  foldl_canonical h (fun _ _ h => tallyPut_canonical h ..) _

theorem execDigestWaitExpire_canonical (h : Canonical s) (slice id) : NextCanonical (execDigestWaitExpire slice id s) := by
  refine nextCanonical_next ?_
  split
  · exact h
  · refine chargeSplit_canonical ?_ ..
    exact h

/-! ### Sys2Proof/Machine/Ledger.lean -/
theorem ledgerSend_canonical (h : Canonical s) (c) : Canonical (ledgerSend s c) :=
  foldl_canonical h (fun _ _ h => sendP2_canonical h ..) _

theorem ledgerOut_canonical (h : Canonical s) (c) : Canonical (ledgerOut s c) :=
  ite_canonical (modLed_canonical h _) (ledgerSend_canonical h _)

theorem releaseHeld_canonical (h : Canonical s) : Canonical (releaseHeld s) :=
  foldl_canonical (modMem_canonical (modLed_canonical h _) _) (fun _ _ h => ledgerSend_canonical h _) _

theorem ledgerReply_canonical (h : Canonical s) (x st req e now) : Canonical (ledgerReply s x st req e now) := ledgerOut_canonical h _
theorem ledgerEvent_canonical (h : Canonical s) (r) : Canonical (ledgerEvent s r) := ledgerOut_canonical (modLed_canonical h _) _

theorem ledgerIn_canonical (h : Canonical s) (a m) : Canonical (ledgerIn s a m).1 := by
  grind [ledgerIn, modPort_canonical, distIn_canonical]

theorem ledgerUp_canonical (h : Canonical s) (a m) : Canonical (ledgerUp s a m) :=
  foldl_canonical h (fun _ _ h => sendP2_canonical h ..) _

theorem ledVoteCopy_canonical (h : Canonical s) (a m) : Canonical (ledVoteCopy s a m) := by
  grind [ledVoteCopy, hardEvent_canonical, modFabric_canonical, ledgerDown_canonical]

theorem ledgerRelay_canonical (h : Canonical s) (a m) : Canonical (ledgerRelay s a m) :=
  ite_canonical (ledgerUp_canonical h ..) (ite_canonical h (ite_canonical (ledVoteCopy_canonical h ..) (ledgerDown_canonical h ..)))

theorem ledgerHold_canonical (h : Canonical s) (a m) : Canonical (ledgerHold s a m) :=
  ite_canonical (count_canonical h ..) (ite_canonical h (modLed_canonical h _))

theorem execLedgerCellReceive_canonical (h : Canonical s) (a m) : NextCanonical (execLedgerCellReceive a m s) := by
  grind [execLedgerCellReceive, onPort_canonical, stale_canonical, ledgerReply_canonical, ledgerIn_canonical, ledgerRelay_canonical,
    ledgerHold_canonical, nextCanonical_next, nextCanonical_fault]

theorem opSubmit_canonical (h : Canonical s) (x t) : Canonical (opSubmit s x t) := by
  unfold opSubmit
  dsimp only
  refine ite_canonical (ledgerReply_canonical h ..) ?_
  split
  · exact ledgerReply_canonical (count_canonical h ..) ..
  · exact ite_canonical (ledgerEvent_canonical (ledgerReply_canonical (modLed_canonical (modEntry_canonical (clamped_canonical
      (clamped_canonical h ..) ..) ..) _) ..) _) (ledgerReply_canonical (modLed_canonical (modEntry_canonical (clamped_canonical
      (clamped_canonical h ..) ..) ..) _) ..)

theorem opOther_canonical (h : Canonical s) (x t) : Canonical (opOther s x t) := by
  unfold opOther
  dsimp only
  refine ite_canonical (ledgerReply_canonical h ..) ?_
  refine ite_canonical (ledgerReply_canonical h ..) ?_
  refine ite_canonical (ledgerReply_canonical h ..) ?_
  refine ite_canonical (ledgerReply_canonical h ..) ?_
  split
  · exact ledgerReply_canonical h ..
  · exact ite_canonical (ledgerEvent_canonical (ledgerReply_canonical (modLed_canonical (modEntry_canonical h ..) _) ..) _)
      (ledgerReply_canonical (modLed_canonical (modEntry_canonical h ..) _) ..)

theorem execLedgerCommit_canonical (h : Canonical s) : NextCanonical (execLedgerCommit s) :=
  ite_canonical h (foldl_canonical (modLed_canonical h _) (fun _ _ h => ite_canonical (opSubmit_canonical h ..) (opOther_canonical
    h ..)) _)

theorem execRetainExpire_canonical (h : Canonical s) (req) : NextCanonical (execRetainExpire req s) :=
  ite_canonical (modLed_canonical (modEntry_canonical h ..) _) h

theorem execCloseReceive_canonical (h : Canonical s) (a m) : NextCanonical (execCloseReceive a m s) := by
  grind [execCloseReceive, onPort_canonical, count_canonical, modSg_canonical, ledgerIn_canonical, ledgerRelay_canonical,
    nextCanonical_next, nextCanonical_fault]

theorem applySamples_canonical (h : Canonical s) (sg n) : Canonical (applySamples s sg n) := by
  unfold applySamples
  dsimp only
  split
  · exact h
  · exact ite_canonical h (modSg_canonical (modLed_canonical (ite_canonical h (count_canonical h ..)) _) ..)

theorem execSamplingResultReceive_canonical (h : Canonical s) (sg step plane) :
    NextCanonical (execSamplingResultReceive sg step plane s) := by
  unfold execSamplingResultReceive
  dsimp only
  refine nextCanonical_next ?_
  split
  · exact ite_canonical (applySamples_canonical (modSg_canonical h ..) ..) (modSg_canonical h ..)
  · exact modSg_canonical h ..

theorem execLedgerSampleWaitExpire_canonical (h : Canonical s) (sg step) : NextCanonical (execLedgerSampleWaitExpire sg step s) := by
  unfold execLedgerSampleWaitExpire
  refine nextCanonical_next ?_
  split
  · exact h
  · split
    · exact h
    · exact ite_canonical (modSg_canonical h ..) h

theorem closeSend_canonical (h : Canonical s) (sg g n a release old o full) : Canonical (closeSend s sg g n a release old o full) :=
  sendOwnVote_canonical (modLed_canonical (ledgerOut_canonical (modLed_canonical (foldl_canonical h (fun _ _ h => ledgerEvent_canonical
    h _) _) _) _) _) ..

theorem closeDecide_canonical (h : Canonical s) (sg g c) : Canonical (closeDecide s sg g c) := by
  unfold closeDecide
  dsimp only
  split
  · exact ite_canonical h (count_canonical h ..)
  · exact closeSend_canonical (modLed_canonical (hist_canonical (ite_canonical (count_canonical (event_canonical (count_canonical
      (count_canonical (count_canonical (modLed_canonical (ite_canonical h (count_canonical h ..)) _) ..) ..) ..) ..) ..)
      (event_canonical (count_canonical (count_canonical (count_canonical (modLed_canonical (ite_canonical h (count_canonical
      h ..)) _) ..) ..) ..) ..)) ..) _) ..

theorem execCloseDecide_canonical (h : Canonical s) (sg) : NextCanonical (execCloseDecide sg s) := by
  unfold execCloseDecide
  dsimp only
  refine nextCanonical_next ?_
  split
  · exact h
  · split
    · exact h
    · refine ite_canonical h ?_
      split
      · exact closeDecide_canonical (applySamples_canonical (applySamples_canonical h ..) ..) ..
      · exact applySamples_canonical (applySamples_canonical h ..) ..

theorem execCloseMissed_canonical (h : Canonical s) (sg) : NextCanonical (execCloseMissed sg s) := by
  unfold execCloseMissed
  refine nextCanonical_next ?_
  split
  · exact h
  · split
    · exact h
    · exact ite_canonical h (count_canonical (modSg_canonical h ..) ..)

theorem ledgerDiverge_canonical (h : Canonical s) (sg majority) : Canonical (ledgerDiverge s sg majority) :=
  suspect_canonical (count_canonical (modSg_canonical h ..) ..) ..

theorem execLedgerDigestReceive_canonical (h : Canonical s) (port v majority) :
    NextCanonical (execLedgerDigestReceive port v majority s) := by
  grind [execLedgerDigestReceive, onPort_canonical, voteIn_canonical, modLed_canonical, releaseHeld_canonical, ledgerDiverge_canonical,
    nextCanonical_next, nextCanonical_fault]

theorem sgCommit_canonical (h : Canonical s) (sg f) : Canonical (sgCommit s sg f) :=
  ite_canonical (modLed_canonical h _) (foldl_canonical (modLed_canonical h _) (fun _ _ h => ledgerEvent_canonical (modEntry_canonical
    h ..) _) _)

theorem ledgerReset_canonical (h : Canonical s) (slice) : Canonical (ledgerReset s slice).1 := modLed_canonical h _

/-! ### Sys2Proof/Machine/LedgerDie.lean -/
theorem cmdLedger_canonical (h : Canonical s) (c op req gen e) : Canonical (cmdLedger c op req gen e s) := by
  grind [cmdLedger, count_canonical, sendP2_canonical, modSync_canonical, modFab_canonical, done_canonical, pend_canonical,
    foldl_canonical]

theorem execLedgerSubmit_canonical (h : Canonical s) (c sgroup prio tokens maxLen deadline interval page seed owner) :
    NextCanonical (execLedgerSubmit c sgroup prio tokens maxLen deadline interval page seed owner s) :=
  onCmd_canonical h _ _ _ (fun _ h => cmdLedger_canonical h ..)

theorem execLedgerRead_canonical (h : Canonical s) (c req gen) : NextCanonical (execLedgerRead c req gen s) :=
  onCmd_canonical h _ _ _ (fun _ h => cmdLedger_canonical h ..)

theorem execLedgerPause_canonical (h : Canonical s) (c req gen) : NextCanonical (execLedgerPause c req gen s) :=
  onCmd_canonical h _ _ _ (fun _ h => cmdLedger_canonical h ..)

theorem execLedgerResume_canonical (h : Canonical s) (c req gen) : NextCanonical (execLedgerResume c req gen s) :=
  onCmd_canonical h _ _ _ (fun _ h => cmdLedger_canonical h ..)

theorem execLedgerCancel_canonical (h : Canonical s) (c req gen) : NextCanonical (execLedgerCancel c req gen s) :=
  onCmd_canonical h _ _ _ (fun _ h => cmdLedger_canonical h ..)

theorem execLedgerRelease_canonical (h : Canonical s) (c req gen) : NextCanonical (execLedgerRelease c req gen s) :=
  onCmd_canonical h _ _ _ (fun _ h => cmdLedger_canonical h ..)

theorem ledgerDone_canonical (h : Canonical s) (o m unverified) : Canonical (ledgerDone s o m unverified) :=
  complete_canonical (ite_canonical (event_canonical (modFab_canonical h rfl) ..) (modFab_canonical h rfl)) ..

theorem ledgerDieIn_canonical (h : Canonical s) (a m deadline) : Canonical (ledgerDieIn s a m deadline).1 := by
  grind [ledgerDieIn, modPort_canonical, dieIn_canonical]

theorem execLedgerReplyReceive_canonical (h : Canonical s) (a m) : NextCanonical (execLedgerReplyReceive a m s) := by
  grind [execLedgerReplyReceive, onPort_canonical, count_canonical, splitEvent_canonical, modFab_canonical, ledgerDone_canonical,
    ledgerDieIn_canonical, nextCanonical_next, nextCanonical_fault]

theorem execReplyDeckleExpire_canonical (h : Canonical s) (opId) : NextCanonical (execReplyDeckleExpire opId s) := by
  unfold execReplyDeckleExpire
  refine nextCanonical_next ?_
  split
  · split
    · exact h
    · exact sigOutDone_canonical h ..
  · split
    · exact h
    · split
      · exact h
      · exact ledgerDone_canonical h ..

theorem execLedgerOpDeadlineExpire_canonical (h : Canonical s) (opId) : NextCanonical (execLedgerOpDeadlineExpire opId s) := by
  unfold execLedgerOpDeadlineExpire
  refine nextCanonical_next ?_
  split
  · exact h
  · exact done_canonical (modFab_canonical h rfl) ..

theorem execLedgerEventReceive_canonical (h : Canonical s) (a m) : NextCanonical (execLedgerEventReceive a m s) := by
  grind [execLedgerEventReceive, modPort_canonical, onPort_canonical, irq_canonical, count_canonical, cellIn_canonical,
    splitEvent_canonical, modFab_canonical, ledgerDieIn_canonical, nextCanonical_next, nextCanonical_fault]

theorem modRing_canonical (h : Canonical s) (k f) : Canonical (modRing s k f) := modFab_canonical h rfl
theorem ledgerResync_canonical (h : Canonical s) (k sg) : Canonical (ledgerResync s k sg) := mgmt_canonical (modRing_canonical h ..) ..

theorem execBatchDeltaReceive_canonical (h : Canonical s) (a d) : NextCanonical (execBatchDeltaReceive a d s) := by
  grind [execBatchDeltaReceive, modPort_canonical, onPort_canonical, dieIn_canonical, modFab_canonical, nextCanonical_next,
    nextCanonical_fault]

theorem ringWrite_canonical (h : Canonical s) (k bs) : Canonical (ringWrite s k bs) := by
  let d := tget {} s.tsu.fab.dies k
  let place := fun i => bits d.ring.toNat 15 0 * 8 + (d.wp * 8 + i) % max 8 (bits d.ring.toNat 31 16 * 8)
  refine modRing_canonical (modFab_canonical_of_mem h ?_) k _
  exact tcanon_writes place 0 _ _ h.mem

theorem deltaMsg_canonical (h : Canonical s) (k d st unverified late planeB) : Canonical (deltaMsg s k d st unverified late planeB) :=
  ite_canonical (ite_canonical (count_canonical (ite_canonical (event_canonical h ..) h) ..) (ite_canonical (event_canonical h ..) h))
    (msgPut_canonical (ite_canonical (count_canonical (ite_canonical (event_canonical h ..) h) ..) (ite_canonical (event_canonical h ..)
    h)) _)

theorem deltaDrop_canonical (h : Canonical s) (x k d st late) : Canonical (deltaDrop s x k d st late) :=
  ledgerResync_canonical (deltaMsg_canonical (modFab_canonical h rfl) ..) ..

theorem deltaWrite_canonical (h : Canonical s) (x k d planeB unverified late disagree) :
    Canonical (deltaWrite s x k d planeB unverified late disagree) :=
  ite_canonical (deltaDrop_canonical h ..) (ite_canonical (ledgerResync_canonical (deltaMsg_canonical (deliveryAdd_canonical
    (ringWrite_canonical (modFab_canonical h rfl) ..) ..) ..) ..) (deltaMsg_canonical (deliveryAdd_canonical (ringWrite_canonical
    (modFab_canonical h rfl) ..) ..) ..))

theorem deltaFailed_canonical (h : Canonical s) (d port) : Canonical (deltaFailed s d port) := suspect_canonical h ..

theorem deltaRetry_canonical (h : Canonical s) (x) : Canonical (deltaRetry s x) :=
  splitEvent_canonical (sendVotes_canonical (modFab_canonical h rfl) ..) ..

theorem deltaDecide_canonical (h : Canonical s) (x k late) : Canonical (deltaDecide s x k late) := by
  grind [deltaDecide, deltaDrop_canonical, deltaWrite_canonical, deltaFailed_canonical, deltaRetry_canonical]

theorem deltaDecide4_canonical (h : Canonical s) (x k) : Canonical (deltaDecide4 s x k) := by
  unfold deltaDecide4
  dsimp only
  split
  · exact deltaWrite_canonical h ..
  · exact deltaDrop_canonical h ..
  · exact h

theorem execDeltaRelease_canonical (h : Canonical s) (sg step) : NextCanonical (execDeltaRelease sg step s) := by
  unfold execDeltaRelease
  dsimp only
  refine nextCanonical_next ?_
  split
  · exact h
  · split
    · exact h
    · refine ite_canonical h ?_
      split
      · exact count_canonical (modFab_canonical h rfl) ..
      · exact ite_canonical (deltaDecide4_canonical h ..) (ite_canonical (deltaDrop_canonical h ..) (deltaDecide_canonical h ..))

theorem execLdRpWrite_canonical (h : Canonical s) (k v) : NextCanonical (execLdRpWrite k v s) := onUnit_canonical (modRing_canonical h ..)

/-! ### Sys2Proof/Machine/Operands.lean -/
theorem cfgPut_canonical (h : Canonical s) (p off v) : Canonical (cfgPut s p off v) := by
  unfold cfgPut
  split
  · exact modBase_canonical h _ rfl
  · exact h

/-! ### Sys2Proof/Machine/Ticks.lean -/
theorem shadowCheck_canonical (h : Canonical s) (p) : Canonical (shadowCheck s p) := by
  grind [shadowCheck, hardEvent_canonical, modTime_canonical, enterNoTime_canonical]

theorem adoptEpochs_canonical (h : Canonical s) (p) : Canonical (adoptEpochs s p) := modEp_canonical h ..

theorem planesDisagree_canonical (h : Canonical s) : Canonical (planesDisagree s) := by
  unfold planesDisagree
  dsimp only
  exact ite_canonical (takeInput_canonical (alert_canonical (modTime_canonical h ..) ..) ..) (ite_canonical (suspect_canonical
      (takeInput_canonical (alert_canonical (modTime_canonical h ..) ..) ..) ..) (ite_canonical (suspect_canonical (takeInput_canonical
      (alert_canonical (modTime_canonical h ..) ..) ..) ..) (startHold_canonical (modTime_canonical (alert_canonical (modTime_canonical
      h ..) ..) ..) _)))

theorem planesCompare_canonical (h : Canonical s) : Canonical (planesCompare s) :=
  ite_canonical h (ite_canonical (ite_canonical (modTime_canonical (modTime_canonical h ..) ..) (modTime_canonical h ..)) (ite_canonical
    (planesDisagree_canonical (modTime_canonical h ..)) (modTime_canonical h ..)))

theorem sendMarker_canonical (h : Canonical s) (p n sendOfs i) : Canonical (sendMarker p n sendOfs s i) :=
  ite_canonical h (modPortMark_canonical h ..)

theorem badSlot_canonical (h : Canonical s) (p i) : Canonical (badSlot s p i) := ite_canonical (rootLostCheck_canonical h _) h

theorem slotGap_canonical (h : Canonical s) (p i good) : Canonical (slotGap s p i good) :=
  ite_canonical (badSlot_canonical (modPortMark_canonical h ..) ..) (ite_canonical (suspectPort_canonical (modPortMark_canonical
    (event_canonical (badSlot_canonical (modPortMark_canonical h ..) ..) ..) ..) ..) (modPortMark_canonical (event_canonical (badSlot_canonical
    (modPortMark_canonical h ..) ..) ..) ..))

theorem slotMismatch_canonical (h : Canonical s) (p i w st) : Canonical (slotMismatch s p i w st) :=
  hardEvent_canonical (ite_canonical (noConfidence_canonical (badSlot_canonical (event_canonical (modPortMark_canonical h ..) ..) ..))
    (badSlot_canonical (event_canonical (modPortMark_canonical h ..) ..) ..)) ..

theorem sampleIn_canonical (h : Canonical s) (p i x) : Canonical (sampleIn s p i x) :=
  ite_canonical (modOff_canonical h ..) (ite_canonical (modRefs_canonical (modOff_canonical h ..) _) (noConfidence_canonical
    (modOff_canonical h ..)))

theorem firstSample_canonical (h : Canonical s) (p i x) : Canonical (firstSample s p i x) := by
  unfold firstSample
  dsimp only
  refine ite_canonical h ?_
  split
  · exact modTime_canonical h ..
  · exact modTime_canonical h ..

theorem giverChecks_canonical (h : Canonical s) (p i m stamp) : Canonical (giverChecks s p i m stamp) := by
  unfold giverChecks
  dsimp only
  refine ite_canonical h ?_
  refine ite_canonical (modOff_canonical (ite_canonical (ite_canonical h (hardEvent_canonical h ..)) (hardEvent_canonical (ite_canonical
      h (hardEvent_canonical h ..)) ..)) ..) ?_
  exact ite_canonical (suspect_canonical (modOff_canonical (ite_canonical (ite_canonical h (hardEvent_canonical h ..))
      (hardEvent_canonical (ite_canonical h (hardEvent_canonical h ..)) ..)) ..) ..) (ite_canonical (ite_canonical h (hardEvent_canonical
      h ..)) (hardEvent_canonical (ite_canonical h (hardEvent_canonical h ..)) ..))

theorem markerEpochs_canonical (h : Canonical s) (p i m) : Canonical (markerEpochs s p i m) :=
  ite_canonical h (ite_canonical (ite_canonical (modEp_canonical h ..) h) (modEp_canonical (ite_canonical (modEp_canonical h ..) h) ..))

theorem markerRot_canonical (h : Canonical s) (p i m) : Canonical (markerRot s p i m) :=
  ite_canonical (ite_canonical (modPortMark_canonical h ..) (modMap_canonical (modPortMark_canonical h ..) ..)) (modPortMark_canonical h ..)

theorem markUsable_canonical (h : Canonical s) (p i) : Canonical (markUsable s p i) := ite_canonical (modPortMark_canonical h ..) h

theorem lowCheck_canonical (h : Canonical s) : Canonical (lowCheck s) := by
  unfold lowCheck
  dsimp only
  split
  · exact ite_canonical h (modOff_canonical h ..)
  · exact h

theorem markerGood_canonical (h : Canonical s) (p i m stamp) : Canonical (markerGood s p i m stamp) := by
  cases p <;> grind [markerGood, modPort_canonical, markerEpochs_canonical, markerRot_canonical, sampleIn_canonical,
    firstSample_canonical, modLink_canonical, alert_canonical, giverChecks_canonical, markUsable_canonical, lowCheck_canonical,
    rootFound_canonical]

theorem frameTime_canonical (h : Canonical s) (p i m) : Canonical (frameTime s p i m) := by
  cases p with
  | tsu => exact modTime_canonical h ..
  | dist => exact modTime_canonical h ..

theorem execMarkerReceive_canonical (h : Canonical s) (p port slot stamp) : NextCanonical (execMarkerReceive p port slot stamp s) := by
  grind [execMarkerReceive, onPort_canonical, count_canonical, suspectPort_canonical, modPortMark_canonical, slotGap_canonical,
    slotMismatch_canonical, markerGood_canonical, frameTime_canonical, nextCanonical_next, nextCanonical_fault]

theorem portWindow_canonical (h : Canonical s) (p i) : Canonical (portWindow p s i) :=
  ite_canonical h (modOff_canonical (ite_canonical (count_canonical (ite_canonical (ite_canonical (suspectPort_canonical
    (modOff_canonical h ..) ..) (modOff_canonical h ..)) h) ..) (ite_canonical (ite_canonical (suspectPort_canonical (modOff_canonical
    h ..) ..) (modOff_canonical h ..)) h)) ..)

theorem loopStep_canonical (h : Canonical s) (p e) : Canonical (loopStep s p e) := modTime_canonical h ..

theorem windowPlane_canonical (h : Canonical s) : Canonical (windowPlane s) := by
  grind [windowPlane, modOff_canonical, takeInput_canonical, foldl_canonical]

theorem execLoopWindowEnd_canonical (h : Canonical s) (p) : NextCanonical (execLoopWindowEnd p s) := by
  grind [execLoopWindowEnd, count_canonical, modTime_canonical, portWindow_canonical, loopStep_canonical, windowPlane_canonical,
    foldl_canonical, nextCanonical_next, nextCanonical_fault]

theorem execHoldBudgetExpire_canonical (h : Canonical s) (p) : NextCanonical (execHoldBudgetExpire p s) := by
  unfold execHoldBudgetExpire
  refine nextCanonical_next ?_
  split
  · exact h
  · exact ite_canonical (enterNoTime_canonical h p) h

/-! ### Sys2Proof/Machine/TimeCmds.lean -/
theorem execRunStart_canonical (h : Canonical s) : NextCanonical (execRunStart s) := by
  grind [execRunStart, modRefs_canonical, drawRate_canonical, modSv_canonical, modTime_canonical, modEp_canonical, modNode_canonical,
    nextCanonical_next, nextCanonical_fault]

theorem execMapRecordAccept_canonical (h : Canonical s) (p port odd) : NextCanonical (execMapRecordAccept p port odd s) :=
  onPort_canonical (ite_canonical h (ite_canonical (ite_canonical (modMap_canonical h ..) h) (ite_canonical (modMap_canonical h ..) h)))

theorem beginRecord_canonical (h : Canonical s) : Canonical (beginRecord s) :=
  ite_canonical h (foldl_canonical (modRefs_canonical (phasesMove_canonical (modMap_canonical h ..) _) _) (fun _ _ h => doneR_canonical
    h ..) _)

theorem execMapEffect_canonical (h : Canonical s) (p) : NextCanonical (execMapEffect p s) := by
  unfold execMapEffect
  dsimp only
  refine nextCanonical_next ?_
  split
  · refine ite_canonical h ?_
    split
    · exact modMap_canonical h ..
    · exact ite_canonical (beginRecord_canonical (modMap_canonical h ..)) (modMap_canonical h ..)
  · exact ite_canonical h (modMap_canonical h ..)
  · exact h

theorem execWrapRecordSend_canonical (h : Canonical s) : NextCanonical (execWrapRecordSend s) := ite_canonical h (modMap_canonical h ..)

theorem cmdSend_canonical (h : Canonical s) (c op dst rc) : Canonical (cmdSend s c op dst rc) := by
  unfold cmdSend
  refine mgmt_canonical ?_ ..
  split <;> exact pend_canonical h ..

theorem cmdTimeMap_canonical (h : Canonical s) (c step utc utcSet) : Canonical (cmdTimeMap c step utc utcSet s) :=
  ite_canonical (cmdSend_canonical h ..) (beginRecord_canonical (modRefs_canonical (pend_canonical (clamped_canonical (ite_canonical h
    (guardHit_canonical (clamped_canonical h ..) ..)) ..) ..) _))

theorem execTimeMap_canonical (h : Canonical s) (c step utc utcSet) : NextCanonical (execTimeMap c step utc utcSet s) :=
  onCmd_canonical h _ _ _ (fun _ h => cmdTimeMap_canonical h ..)

theorem execStNowLoRead_canonical (h : Canonical s) (p wide) : NextCanonical (execStNowLoRead p wide s) :=
  nextCanonical_next (ite_canonical h (modTime_canonical h ..))

theorem execMapOriginSecRead_canonical (h : Canonical s) (p) : NextCanonical (execMapOriginSecRead p s) :=
  nextCanonical_next (modMap_canonical h p _)

theorem plateBoundary_canonical (h : Canonical s) (b) : Canonical (plateBoundary s b) := by
  unfold plateBoundary
  refine ite_canonical ?_ (count_canonical ?_ ..) <;> exact ite_canonical h h

theorem dieRuns_canonical (h : Canonical s) : Canonical (dieRuns s) := ite_canonical (modDie_canonical h _) h

theorem plateShorten_canonical (h : Canonical s) (len) : Canonical (plateShorten s len) :=
  ite_canonical h (count_canonical (modPlate_canonical h _) ..)

theorem execStepBoundary_canonical (h : Canonical s) (p slice) : NextCanonical (execStepBoundary p slice s) := by
  grind [execStepBoundary, onUnit_canonical, modTurning_canonical, plateBoundary_canonical, dieRuns_canonical, plateShorten_canonical,
    nextCanonical_next, nextCanonical_fault]

theorem execTurningStart_canonical (h : Canonical s) (p slice) : NextCanonical (execTurningStart p slice s) := by
  grind [execTurningStart, onUnit_canonical, modTurning_canonical, plateBoundary_canonical, dieRuns_canonical, nextCanonical_next,
    nextCanonical_fault]

theorem execPlateBankCopy_canonical (h : Canonical s) : NextCanonical (execPlateBankCopy s) := ite_canonical (modPlate_canonical h _) h

/-! ### Sys2Proof/Machine/Slices.lean -/
theorem cmdSliceReset_canonical (h : Canonical s) (c slice) : Canonical (cmdSliceReset c slice s) :=
  ite_canonical (done_canonical h ..) (ite_canonical (done_canonical h ..) (ite_canonical (cmdSend_canonical (modTurning_canonical
    h ..) ..) (ite_canonical (modSv_canonical (pend_canonical h ..) _) (announceResets_canonical (modTurning_canonical (modSv_canonical
    (pend_canonical h ..) _) ..)))))

theorem execSliceReset_canonical (h : Canonical s) (c slice) : NextCanonical (execSliceReset c slice s) :=
  onCmd_canonical h _ _ _ (fun _ h => cmdSliceReset_canonical h ..)

theorem cellsReset_canonical (h : Canonical s) (p slice) : Canonical (cellsReset s p slice).1 := modPortsAll_canonical h ..

theorem dieReset_canonical (h : Canonical s) (slice) : Canonical (dieReset s slice) := by
  grind [dieReset, count_canonical, modSync_canonical, modPlate_canonical, modDie_canonical, modTurning_canonical, plateCancel_canonical,
    modFab_canonical, done_canonical, localsCancel_canonical, dieOpsEnd_canonical, watchesEnd_canonical, cellsReset_canonical]

theorem distReset_canonical (h : Canonical s) (slice) : Canonical (distReset s slice) := by
  refine announceHeld_canonical (announceResets_canonical (foldl_canonical ?_ (fun _ _ hs => done_canonical hs ..) _))
  refine modSv_canonical (count_canonical (modTurning_canonical ?_ ..) ..) _
  refine ledgerReset_canonical (cellsReset_canonical ?_ ..) _
  exact h

theorem execSliceResetEffect_canonical (h : Canonical s) (p slice) : NextCanonical (execSliceResetEffect p slice s) := by
  grind [execSliceResetEffect, onUnit_canonical, adoptEpochs_canonical, dieReset_canonical, distReset_canonical, nextCanonical_next,
    nextCanonical_fault]

theorem mailboxesCancel_canonical (h : Canonical s) : Canonical (mailboxesCancel s) := by
  refine foldl_canonical ?_ (fun _ _ hs => done_canonical hs ..) _
  exact h

theorem moveClears_canonical (h : Canonical s) : Canonical (moveClears s) := by
  have hends := mailboxesCancel_canonical (watchesEnd_canonical (localsCancel_canonical (plateCancel_canonical h fun _ => true)) false)
  unfold moveClears
  dsimp only
  refine modDie_canonical (modBase_canonical ?_ .tsu (clearCounters_ports ..)) _
  refine modFab_canonical_of_mem (modPlate_canonical (modSync_canonical hends _) _) ?_
  rfl

/-! ### Sys2Proof/Machine/Mgmt.lean -/
theorem mgmtAuth_canonical (h : Canonical s) (p nbr e) : Canonical (mgmtAuth s p nbr e).1 := by
  grind [mgmtAuth, count_canonical, suspectPort_canonical, modHs_canonical]

theorem mgmtIn_canonical (h : Canonical s) (p port e) : Canonical (mgmtIn s p port e).1 := by grind [mgmtIn, mgmtAuth_canonical]

theorem onMgmt_canonical (h : Canonical s) (p e) {f : State → State} (hf : ∀ s, Canonical s → Canonical (f s)) :
    NextCanonical (onMgmt p e s f) := by
  grind [onMgmt, mgmtIn_canonical, nextCanonical_next]

theorem mgmtRelay_canonical (h : Canonical s) (port e b) : Canonical (mgmtRelay s port e b) :=
  foldl_canonical h (fun _ _ h => sendP3_canonical h ..) _

/-! ### Sys2Proof/Machine/TxnOps.lean -/
theorem modTxn_canonical (h : Canonical s) (p id f) : Canonical (State.modTxn s p id f) := modBase_canonical h _ rfl

theorem stage_canonical (h : Canonical s) (c op x k) {f : State → State} (hf : ∀ s, Canonical s → Canonical (f s)) :
    Canonical (stage s c op x k f) := by
  grind [stage, done_canonical, count_canonical, modTxn_canonical]

theorem closeTxn_canonical (h : Canonical s) (p id f) : Canonical (closeTxn s p id f) := modBase_canonical h _ rfl
theorem plateRestore_canonical (h : Canonical s) (t) : Canonical (plateRestore s t) := ite_canonical (modPlate_canonical h _) h

theorem txnRollback_canonical (h : Canonical s) (p t reason node detail at_) :
    Canonical (txnRollback s p t reason node detail at_) := by
  cases p <;> grind [txnRollback, plateRestore_canonical, closeTxn_canonical, doneR_canonical, done_canonical]

theorem dieClamps_canonical (h : Canonical s) (t) : Canonical (dieClamps s t) := by
  unfold dieClamps
  dsimp only
  exact ite_canonical h (ite_canonical (modTxn_canonical (ite_canonical (ite_canonical (modPlate_canonical h _) h) (count_canonical
      (ite_canonical (modPlate_canonical h _) h) ..)) ..) (modPlate_canonical (modTxn_canonical (ite_canonical (ite_canonical
      (modPlate_canonical h _) h) (count_canonical (ite_canonical (modPlate_canonical h _) h) ..)) ..) _))

theorem distClamps_canonical (h : Canonical s) (t) : Canonical (distClamps s t) :=
  modTxn_canonical (ite_canonical h (count_canonical h ..)) ..

theorem partPrepare_canonical (h : Canonical s) (p id deadline boundary) : Canonical (partPrepare s p id deadline boundary).1 := by
  grind [partPrepare, drawWord_canonical, modTxn_canonical, dieClamps_canonical, distClamps_canonical]

theorem rearmFrom_canonical (h : Canonical s) (n b) : Canonical (rearmFrom s n b) :=
  ite_canonical (modPlate_canonical (plateCancel_canonical h _) _) (plateCancel_canonical h _)

theorem rearmFirst_canonical (h : Canonical s) (p slice u) : Canonical (rearmFirst s p slice u) := by
  cases p with
  | tsu => exact ite_canonical (modPlate_canonical (plateCancel_canonical h _) _) h
  | dist => exact h

theorem turnCommit_canonical (h : Canonical s) (p slice z l named e) : Canonical (turnCommit s p slice z l named e).1 := by
  grind [turnCommit, clamped_canonical, modTurning_canonical, rearmFrom_canonical, rearmFirst_canonical]

theorem planSwitch_canonical (h : Canonical s) (t n b) : Canonical (planSwitch s t n b) := by
  unfold planSwitch
  dsimp only
  refine ite_canonical h ?_
  split
  · exact rearmFrom_canonical (modFab_canonical (modPlate_canonical h _) rfl) ..
  · exact modFab_canonical (modPlate_canonical h _) rfl

theorem missedBoundary_canonical (h : Canonical s) (p id) : Canonical (missedBoundary s p id) := by
  cases p <;> grind [missedBoundary, modBase_canonical, suspect_canonical, enterTruing_canonical, copyAsk_canonical, modSv_canonical]

theorem partDecide_canonical (h : Canonical s) (p id d) : Canonical (partDecide s p id d) := by
  grind [partDecide, done_canonical, modTxn_canonical, txnRollback_canonical, planSwitch_canonical, missedBoundary_canonical]

theorem configApply_canonical (h : Canonical s) (p off v) : Canonical (configApply s p off v) := by
  cases p <;> grind [configApply, modFab_canonical, cfgPut_canonical, modRefs_canonical]

theorem hgroupDie_canonical (h : Canonical s) (g q) : Canonical (hgroupDie s g q) := setHall_canonical (clamped_canonical h ..) ..

theorem hgroupDist_canonical (h : Canonical s) (g q) : Canonical (hgroupDist s g q) :=
  modFabric_canonical (ite_canonical h (count_canonical h ..)) _

theorem ledgerPartCommit_canonical (h : Canonical s) (qs) : Canonical (ledgerPartCommit s qs) :=
  modLed_canonical (ite_canonical h (count_canonical h ..)) _

theorem distApply_canonical (h : Canonical s) (e x) : Canonical (distApply e s x) := by
  cases x with
  | turning => exact turnCommit_canonical h ..
  | hgroup => exact hgroupDist_canonical h ..
  | sg => exact sgCommit_canonical h ..
  | ledgerPart => exact ledgerPartCommit_canonical h ..
  | config => exact configApply_canonical h ..
  | _ => exact h

theorem distEffect_canonical (h : Canonical s) (t) : Canonical (distEffect s t) :=
  foldl_canonical h (fun _ _ h => distApply_canonical h ..) _

theorem assignNow_canonical (h : Canonical s) (sl v ce) : Canonical (assignNow s sl v ce) := h

theorem dieApply_canonical (h : Canonical s) (x) : Canonical (dieApply s x) := by
  cases x with
  | config => exact configApply_canonical h ..
  | hgroup => exact hgroupDie_canonical h ..
  | hfree => exact setHall_canonical h ..
  | _ => exact h

theorem dieEffect_canonical (h : Canonical s) (t) : Canonical (dieEffect s t).1 := by
  grind [dieEffect, modDie_canonical, turnCommit_canonical, planSwitch_canonical, assignNow_canonical, dieApply_canonical,
    foldl_canonical]

theorem txnEffect_canonical (h : Canonical s) (p t) : Canonical (txnEffect s p t) := by
  cases p <;> grind [txnEffect, adoptEpochs_canonical, modEp_canonical, dieEffect_canonical, distEffect_canonical,
    closeTxn_canonical, doneR_canonical]

theorem execTxnEffect_canonical (h : Canonical s) (p txn) : NextCanonical (execTxnEffect p txn s) := by
  unfold execTxnEffect
  refine nextCanonical_next ?_
  split
  · exact ite_canonical (txnEffect_canonical h ..) h
  · exact h

theorem execSliceMove_canonical (h : Canonical s) : NextCanonical (execSliceMove s) := by
  grind [execSliceMove, modPlate_canonical, modDie_canonical, modFab_canonical, moveClears_canonical, turnCommit_canonical,
    assignNow_canonical, dieApply_canonical, foldl_canonical, nextCanonical_next, nextCanonical_fault]

/-! ### Sys2Proof/Machine/TxnRoots.lean -/
theorem modRtxn_canonical (h : Canonical s) (id src f) : Canonical (State.modRtxn s id src f) := modSv_canonical h _
theorem rtxnPut_canonical (h : Canonical s) (r) : Canonical (rtxnPut s r) := modSv_canonical h _

theorem sendDecide_canonical (h : Canonical s) (r d) : Canonical (sendDecide s r d) :=
  foldl_canonical h (fun _ _ h => mgmt_canonical h ..) _

theorem decideTxn_canonical (h : Canonical s) (r d) : Canonical (decideTxn s r d) :=
  ite_canonical (partDecide_canonical (ite_canonical (sendDecide_canonical (modRtxn_canonical h ..) ..) (modRtxn_canonical h ..)) ..)
    (ite_canonical (sendDecide_canonical (modRtxn_canonical h ..) ..) (modRtxn_canonical h ..))

theorem rootRollback_canonical (h : Canonical s) (r reason node detail) : Canonical (rootRollback s r reason node detail) :=
  decideTxn_canonical h ..

theorem rootCommit_canonical (h : Canonical s) (r) : Canonical (rootCommit s r) := by
  unfold rootCommit
  dsimp only
  refine ite_canonical h ?_
  refine ite_canonical (modSv_canonical h _) ?_
  split
  · exact h
  · exact decideTxn_canonical (announceCe_canonical h _) ..

theorem rootAnswer_canonical (h : Canonical s) (id src node a) : Canonical (rootAnswer s id src node a) := by
  unfold rootAnswer
  dsimp only
  split
  · exact h
  · refine ite_canonical h ?_
    split
    · exact rootRollback_canonical h ..
    · exact ite_canonical (rootCommit_canonical (modRtxn_canonical h ..) _) (modRtxn_canonical h ..)

theorem rootPrepare_canonical (h : Canonical s) (r) : Canonical (rootPrepare s r) := by
  grind [rootPrepare, mgmt_canonical, partPrepare_canonical, modRtxn_canonical, rootAnswer_canonical, foldl_canonical]

theorem rootJoin_canonical (h : Canonical s) (id src n) : Canonical (rootJoin s id src n) := by
  unfold rootJoin
  dsimp only
  split
  · exact rtxnPut_canonical h _
  · exact rootPrepare_canonical (modRtxn_canonical h ..) _

theorem rootRequest_canonical (h : Canonical s) (id src whenStep slice step) : Canonical (rootRequest s id src whenStep slice step) := by
  unfold rootRequest
  dsimp only
  split
  · exact h
  · refine ite_canonical h ?_
    refine ite_canonical (rootRollback_canonical h ..) ?_
    split
    · exact rootRollback_canonical h ..
    · exact rootPrepare_canonical (modRtxn_canonical (clamped_canonical h ..) ..) _

theorem rootCancel_canonical (h : Canonical s) (id src) : Canonical (rootCancel s id src) := by
  unfold rootCancel
  split
  · exact h
  · exact rootRollback_canonical h ..

theorem rootsRemoved_canonical (h : Canonical s) (n) : Canonical (rootsRemoved s n) :=
  foldl_canonical h (fun _ _ h => rootRollback_canonical h ..) _

theorem rootRepeat_canonical (h : Canonical s) (r) : Canonical (rootRepeat s r) := by
  unfold rootRepeat
  split
  · exact ite_canonical (sendDecide_canonical h ..) h
  · exact h

theorem rootTick_canonical (h : Canonical s) : Canonical (rootTick s) :=
  ite_canonical h (foldl_canonical (foldl_canonical h (fun _ _ h => rootRepeat_canonical h _) _) (fun _ _ h => rootCommit_canonical
    h _) _)

theorem toRoots_canonical (h : Canonical s) (p b) {own : State → State} (hown : ∀ s, Canonical s → Canonical (own s)) :
    Canonical (toRoots s p b own) := ite_canonical (hown _ (mgmt_canonical h ..)) (mgmt_canonical h ..)

/-! ### Sys2Proof/Machine/Txns.lean -/
theorem cmdBegin_canonical (h : Canonical s) (c n) : Canonical (cmdBegin c n s) :=
  ite_canonical (done_canonical h ..) (ite_canonical (done_canonical h ..) (ite_canonical (done_canonical h ..) (done_canonical
    (toRoots_canonical (modBase_canonical (clamped_canonical h ..) _ rfl) _ _ (fun _ h => rootJoin_canonical h ..)) ..)))

theorem execTxnBegin_canonical (h : Canonical s) (c n) : NextCanonical (execTxnBegin c n s) :=
  onCmd_canonical h _ _ _ (fun _ h => cmdBegin_canonical h ..)

theorem cmdCommit_canonical (h : Canonical s) (c whenStep slice step) : Canonical (cmdCommit c whenStep slice step s) := by
  unfold cmdCommit
  dsimp only
  split
  · exact done_canonical h ..
  · exact ite_canonical (done_canonical h ..) (ite_canonical (done_canonical h ..) (ite_canonical (done_canonical h ..)
      (toRoots_canonical (modTxn_canonical (pend_canonical h ..) ..) _ _ (fun _ h => rootRequest_canonical h ..))))

theorem execCommit_canonical (h : Canonical s) (c whenStep slice step) : NextCanonical (execCommit c whenStep slice step s) :=
  onCmd_canonical h _ _ _ (fun _ h => cmdCommit_canonical h ..)

theorem cmdRollback_canonical (h : Canonical s) (c) : Canonical (cmdRollback c s) := by
  unfold cmdRollback
  dsimp only
  split
  · exact done_canonical h ..
  · exact ite_canonical (done_canonical h ..) (ite_canonical (done_canonical h ..) (ite_canonical (done_canonical h ..)
      (toRoots_canonical (modTxn_canonical (pend_canonical h ..) ..) _ _ (fun _ h => rootCancel_canonical h ..))))

theorem execRollback_canonical (h : Canonical s) (c) : NextCanonical (execRollback c s) :=
  onCmd_canonical h _ _ _ (fun _ h => cmdRollback_canonical h _)

theorem cmdTxnStatus_canonical (h : Canonical s) (c txn) : Canonical (cmdTxnStatus c txn s) := by
  unfold cmdTxnStatus
  split
  · exact done_canonical h ..
  · exact ite_canonical (doneR_canonical h ..) (ite_canonical (doneR_canonical h ..) (done_canonical h ..))

theorem execTxnStatus_canonical (h : Canonical s) (c txn) : NextCanonical (execTxnStatus c txn s) :=
  onCmd_canonical h _ _ _ (fun _ h => cmdTxnStatus_canonical h ..)

theorem execTxnJoinReceive_canonical (h : Canonical s) (env txn n) : NextCanonical (execTxnJoinReceive env txn n s) :=
  onMgmt_canonical h _ _ (fun _ h => ite_canonical (rootJoin_canonical h ..) h)

theorem execCommitRequestReceive_canonical (h : Canonical s) (env txn whenStep slice step) :
    NextCanonical (execCommitRequestReceive env txn whenStep slice step s) :=
  onMgmt_canonical h _ _ (fun _ h => ite_canonical (rootRequest_canonical h ..) h)

theorem execPrepareReceive_canonical (h : Canonical s) (p env txn deadline boundary) :
    NextCanonical (execPrepareReceive p env txn deadline boundary s) := by
  grind [execPrepareReceive, onMgmt_canonical, partPrepare_canonical, rootAnswer_canonical, toRoots_canonical, nextCanonical_next,
    nextCanonical_fault]

theorem execPreparedReceive_canonical (h : Canonical s) (env txn) : NextCanonical (execPreparedReceive env txn s) :=
  onMgmt_canonical h _ _ (fun _ h => ite_canonical (rootAnswer_canonical h ..) h)

theorem execPrepFailReceive_canonical (h : Canonical s) (env txn reason detail) :
    NextCanonical (execPrepFailReceive env txn reason detail s) :=
  onMgmt_canonical h _ _ (fun _ h => ite_canonical (rootAnswer_canonical h ..) h)

theorem execPrepareDeadlineExpire_canonical (h : Canonical s) (txn) : NextCanonical (execPrepareDeadlineExpire txn s) := by
  unfold execPrepareDeadlineExpire
  dsimp only
  refine nextCanonical_next ?_
  split
  · exact h
  · exact ite_canonical h (ite_canonical (rootRollback_canonical h ..) (rootRollback_canonical h ..))

theorem execDecideReceive_canonical (h : Canonical s) (p env txn d) : NextCanonical (execDecideReceive p env txn d s) :=
  onMgmt_canonical h _ _ (fun _ h => partDecide_canonical h ..)

theorem execDecideWaitExpire_canonical (h : Canonical s) (p txn) : NextCanonical (execDecideWaitExpire p txn s) := by
  grind [execDecideWaitExpire, partDecide_canonical, toRoots_canonical, nextCanonical_next, nextCanonical_fault]

theorem execTxnQueryReceive_canonical (h : Canonical s) (env txn) : NextCanonical (execTxnQueryReceive env txn s) := by
  grind [execTxnQueryReceive, mgmt_canonical, onMgmt_canonical, nextCanonical_next, nextCanonical_fault]

/-! ### Sys2Proof/Machine/StagedCmds.lean -/
theorem dieOnly_canonical (h : Canonical s) (c op) {f : State → State} (hf : ∀ s, Canonical s → Canonical (f s)) :
    Canonical (dieOnly c op s f) := ite_canonical (hf s h) (done_canonical h ..)

theorem distOnly_canonical (h : Canonical s) (c op) {f : State → State} (hf : ∀ s, Canonical s → Canonical (f s)) :
    Canonical (distOnly c op s f) := ite_canonical (hf s h) (done_canonical h ..)

theorem sliceCmd_canonical (h : Canonical s) (c op) {f : State → State} (hf : ∀ s, Canonical s → Canonical (f s)) :
    Canonical (sliceCmd c op s f) := ite_canonical (hf s h) (done_canonical h ..)

theorem stagedWrite_canonical (h : Canonical s) (k e) : Canonical (stagedWrite k e s) := modPlate_canonical h _

theorem cmdPlateWrite_canonical (h : Canonical s) (c entry e) : Canonical (cmdPlateWrite c entry e s) := by
  grind [cmdPlateWrite, done_canonical, stage_canonical, dieOnly_canonical, sliceCmd_canonical, stagedWrite_canonical]

theorem execPlateWrite_canonical (h : Canonical s) (c entry e) : NextCanonical (execPlateWrite c entry e s) :=
  onCmd_canonical h _ _ _ (fun _ h => cmdPlateWrite_canonical h ..)

theorem cmdPlateAppend_canonical (h : Canonical s) (c e) : Canonical (cmdPlateAppend c e s) := by
  grind [cmdPlateAppend, done_canonical, modTxn_canonical, stage_canonical, dieOnly_canonical, sliceCmd_canonical, stagedWrite_canonical]

theorem execPlateAppend_canonical (h : Canonical s) (c e) : NextCanonical (execPlateAppend c e s) :=
  onCmd_canonical h _ _ _ (fun _ h => cmdPlateAppend_canonical h ..)

theorem cmdPlateLoad_canonical (h : Canonical s) (c first es dmaOk) : Canonical (cmdPlateLoad c first es dmaOk s) := by
  grind [cmdPlateLoad, count_canonical, done_canonical, modTxn_canonical, dieOnly_canonical, sliceCmd_canonical, stagedWrite_canonical,
    foldl_canonical]

theorem execPlateLoad_canonical (h : Canonical s) (c first es dmaOk) : NextCanonical (execPlateLoad c first es dmaOk s) :=
  onCmd_canonical h _ _ _ (fun _ h => cmdPlateLoad_canonical h ..)

theorem cmdPlateClear_canonical (h : Canonical s) (c) : Canonical (cmdPlateClear c s) :=
  dieOnly_canonical h _ _ (fun _ h => sliceCmd_canonical h _ _ (fun _ h => stage_canonical h _ _ _ _ (fun _ h => modPlate_canonical h _)))

theorem execPlateClear_canonical (h : Canonical s) (c) : NextCanonical (execPlateClear c s) :=
  onCmd_canonical h _ _ _ (fun _ h => cmdPlateClear_canonical h _)

theorem cmdRgroupWrite_canonical (h : Canonical s) (c group mask) : Canonical (cmdRgroupWrite c group mask s) := by
  grind [cmdRgroupWrite, done_canonical, stage_canonical, dieOnly_canonical, sliceCmd_canonical]

theorem execRgroupWrite_canonical (h : Canonical s) (c group mask) : NextCanonical (execRgroupWrite c group mask s) :=
  onCmd_canonical h _ _ _ (fun _ h => cmdRgroupWrite_canonical h ..)

theorem cmdDescWrite_canonical (h : Canonical s) (c desc d) : Canonical (cmdDescWrite c desc d s) := by
  grind [cmdDescWrite, done_canonical, stage_canonical, dieOnly_canonical, sliceCmd_canonical]

theorem execDescWrite_canonical (h : Canonical s) (c desc d) : NextCanonical (execDescWrite c desc d s) :=
  onCmd_canonical h _ _ _ (fun _ h => cmdDescWrite_canonical h ..)

theorem cmdTurningSet_canonical (h : Canonical s) (c slice st0 len boundary) : Canonical (cmdTurningSet c slice st0 len boundary s) := by
  grind [cmdTurningSet, done_canonical, stage_canonical]

theorem execTurningSet_canonical (h : Canonical s) (c slice st0 len boundary) : NextCanonical (execTurningSet c slice st0 len boundary s) :=
  onCmd_canonical h _ _ _ (fun _ h => cmdTurningSet_canonical h ..)

theorem cmdSliceAssign_canonical (h : Canonical s) (c slice valid) : Canonical (cmdSliceAssign c slice valid s) := by
  grind [cmdSliceAssign, done_canonical, stage_canonical, dieOnly_canonical]

theorem execSliceAssign_canonical (h : Canonical s) (c slice valid) : NextCanonical (execSliceAssign c slice valid s) :=
  onCmd_canonical h _ _ _ (fun _ h => cmdSliceAssign_canonical h ..)

theorem cmdSliceMapWrite_canonical (h : Canonical s) (c slice mask) : Canonical (cmdSliceMapWrite c slice mask s) := by
  grind [cmdSliceMapWrite, done_canonical, stage_canonical, distOnly_canonical]

theorem execSliceMapWrite_canonical (h : Canonical s) (c slice mask) : NextCanonical (execSliceMapWrite c slice mask s) :=
  onCmd_canonical h _ _ _ (fun _ h => cmdSliceMapWrite_canonical h ..)

theorem cmdSliceWeight_canonical (h : Canonical s) (c port slice weight) : Canonical (cmdSliceWeight c port slice weight s) := by
  grind [cmdSliceWeight, done_canonical, stage_canonical, distOnly_canonical]

theorem execSliceWeight_canonical (h : Canonical s) (c port slice weight) : NextCanonical (execSliceWeight c port slice weight s) :=
  onCmd_canonical h _ _ _ (fun _ h => cmdSliceWeight_canonical h ..)

theorem cmdHgroupWrite_canonical (h : Canonical s) (c group piece) : Canonical (cmdHgroupWrite c group piece s) := by
  grind [cmdHgroupWrite, done_canonical, stage_canonical]

theorem execHgroupWrite_canonical (h : Canonical s) (c group piece) : NextCanonical (execHgroupWrite c group piece s) :=
  onCmd_canonical h _ _ _ (fun _ h => cmdHgroupWrite_canonical h ..)

theorem cmdHgroupFree_canonical (h : Canonical s) (c group) : Canonical (cmdHgroupFree c group s) := by
  grind [cmdHgroupFree, done_canonical, stage_canonical]

theorem execHgroupFree_canonical (h : Canonical s) (c group) : NextCanonical (execHgroupFree c group s) :=
  onCmd_canonical h _ _ _ (fun _ h => cmdHgroupFree_canonical h ..)

theorem cmdSgWrite_canonical (h : Canonical s) (c sg f) : Canonical (cmdSgWrite c sg f s) := by
  grind [cmdSgWrite, done_canonical, stage_canonical, distOnly_canonical]

theorem execSgWrite_canonical (h : Canonical s) (c sg f) : NextCanonical (execSgWrite c sg f s) :=
  onCmd_canonical h _ _ _ (fun _ h => cmdSgWrite_canonical h ..)

theorem cmdLedgerPart_canonical (h : Canonical s) (c quotas) : Canonical (cmdLedgerPart c quotas s) := by
  grind [cmdLedgerPart, done_canonical, stage_canonical, distOnly_canonical]

theorem execLedgerPart_canonical (h : Canonical s) (c quotas) : NextCanonical (execLedgerPart c quotas s) :=
  onCmd_canonical h _ _ _ (fun _ h => cmdLedgerPart_canonical h ..)

theorem cmdCtxSave_canonical (h : Canonical s) (c addr step) : Canonical (cmdCtxSave c addr step s) := by
  grind [cmdCtxSave, stage_canonical, dieOnly_canonical]

theorem execCtxSave_canonical (h : Canonical s) (c addr step) : NextCanonical (execCtxSave c addr step s) :=
  onCmd_canonical h _ _ _ (fun _ h => cmdCtxSave_canonical h ..)

theorem cmdCtxRestore_canonical (h : Canonical s) (c img dmaOk step) : Canonical (cmdCtxRestore c img dmaOk step s) := by
  grind [cmdCtxRestore, done_canonical, stage_canonical, dieOnly_canonical]

theorem execCtxRestore_canonical (h : Canonical s) (c img dmaOk step) : NextCanonical (execCtxRestore c img dmaOk step s) :=
  onCmd_canonical h _ _ _ (fun _ h => cmdCtxRestore_canonical h ..)

theorem cmdPart_canonical (h : Canonical s) (c step) : Canonical (cmdPart c step s) := by
  grind [cmdPart, stage_canonical, dieOnly_canonical]

theorem execPart_canonical (h : Canonical s) (c step) : NextCanonical (execPart c step s) :=
  onCmd_canonical h _ _ _ (fun _ h => cmdPart_canonical h ..)

theorem cmdConfigWrite_canonical (h : Canonical s) (c index value) : Canonical (cmdConfigWrite c index value s) := by
  grind [cmdConfigWrite, done_canonical, stage_canonical]

theorem execConfigWrite_canonical (h : Canonical s) (c index value) : NextCanonical (execConfigWrite c index value s) :=
  onCmd_canonical h _ _ _ (fun _ h => cmdConfigWrite_canonical h ..)

/-! ### Sys2Proof/Machine/Context.lean -/
theorem contextLoad_canonical (h : Canonical s) (i) : Canonical (contextLoad s i) := modPlate_canonical (modSync_canonical h _) _

theorem execContextSwitch_canonical (h : Canonical s) : NextCanonical (execContextSwitch s) := by
  unfold execContextSwitch
  dsimp only
  refine nextCanonical_next ?_
  split
  · exact h
  · exact ite_canonical h (modDie_canonical (modPlate_canonical (localsCancel_canonical (watchesEnd_canonical (plateCancel_canonical
      (modSync_canonical h _) _) _)) _) _)

theorem portRequest_canonical (h : Canonical s) (q) : Canonical (portRequest s q) := by
  cases q with
  | add | sub | read => exact coreCtr_canonical h ..
  | set | unknown => exact completeCore_canonical h ..
  | signal => exact portSignal_canonical h ..
  | watchReg core ctag counter eq rearm target tag th => exact portWatchReg_canonical h core ctag counter eq rearm target tag th
  | watchCancel => exact portWatchCancel_canonical h ..
  | localDefine => exact portLocalDefine_canonical h _ _ (_ % 64) (_ % 256) _
  | localArrive => exact portLocalArrive_canonical h _ _ (_ % 64)
  | hallArrive => exact portHallArrive_canonical h _ _ (_ % 4096)
  | collectStart => exact portCollectStart_canonical h _ _ (_ % 1024) _ _

theorem execContextPortReopen_canonical (h : Canonical s) : NextCanonical (execContextPortReopen s) := by
  grind [execContextPortReopen, modSync_canonical, modPlate_canonical, modDie_canonical, contextLoad_canonical, portRequest_canonical,
    foldl_canonical, nextCanonical_next, nextCanonical_fault]

/-! ### Sys2Proof/Machine/LinkOps.lean -/
theorem setLink_canonical (h : Canonical s) (p i x) : Canonical (setLink s p i x) :=
  ite_canonical h (ite_canonical (rootLostCheck_canonical (fr_canonical (modPort_canonical h ..) ..) _) (fr_canonical (modPort_canonical
    h ..) ..))

theorem toTrain_canonical (h : Canonical s) (p i) : Canonical (toTrain s p i) :=
  ite_canonical (count_canonical (modLink_canonical (setLink_canonical h ..) ..) ..) (modLink_canonical (setLink_canonical h ..) ..)

theorem toDown_canonical (h : Canonical s) (p i) : Canonical (toDown s p i) := modPort_canonical (setLink_canonical h ..) ..

theorem tryTrain_canonical (h : Canonical s) (p i) : Canonical (tryTrain s p i) :=
  ite_canonical (modLink_canonical (setLink_canonical h ..) ..) h

theorem calNext_canonical (h : Canonical s) (p i) : Canonical (calNext s p i) := ite_canonical h (modLink_canonical h ..)

theorem toTimecal_canonical (h : Canonical s) (p i m) : Canonical (toTimecal s p i m) := by
  refine calNext_canonical ?_ ..
  cases p with
  | tsu =>
    refine ite_canonical ?_ (Canonical.of_eq ?_ rfl rfl rfl) <;>
      exact modPort_canonical (setLink_canonical (breakOpen_canonical h ..) ..) ..
  | dist => exact modPort_canonical (setLink_canonical (breakOpen_canonical h ..) ..) ..

theorem settleLive_canonical (h : Canonical s) (p i) : Canonical (settleLive s p i) := ite_canonical (setLink_canonical h ..) h

theorem orderChange_canonical (h : Canonical s) (p i kind m atLeast) : Canonical (orderChange s p i kind m atLeast) :=
  modLink_canonical h ..

theorem wantChange_canonical (h : Canonical s) (p i kind m) : Canonical (wantChange s p i kind m) := by
  unfold wantChange
  refine ite_canonical ?_ ?_
  · split
    · exact ite_canonical (orderChange_canonical h ..) h
    · exact orderChange_canonical h ..
  · exact modLink_canonical h ..

theorem laneChange_canonical (h : Canonical s) (p i l) : Canonical (laneChange s p i l) :=
  ite_canonical h (ite_canonical (wantChange_canonical h ..) (ite_canonical (wantChange_canonical h ..) h))

theorem renewAge_canonical (h : Canonical s) (p i) : Canonical (renewAge s p i) := modLink_canonical h ..

/-! ### Sys2Proof/Machine/References.lean -/
theorem holdoverEnter_canonical (h : Canonical s) (lost) : Canonical (holdoverEnter s lost) := modRefs_canonical h _

theorem acquire_canonical (h : Canonical s) (e) : Canonical (acquire s e) := by
  cases e with
  | none => exact h
  | some => exact ite_canonical h (ite_canonical h (ite_canonical h h))

theorem refTransition_canonical (h : Canonical s) (old) : Canonical (refTransition s old) := by
  unfold refTransition
  dsimp only
  split
  · exact ite_canonical (modRefs_canonical h _) h
  · exact ite_canonical (acquire_canonical h _) (modRefs_canonical h _)
  · exact ite_canonical (holdoverEnter_canonical h _) (ite_canonical (modRefs_canonical h _) h)
  · exact ite_canonical (modRefs_canonical h _) (ite_canonical (modRefs_canonical h _) h)
  · exact ite_canonical (modRefs_canonical h _) h

theorem refRun_canonical (h : Canonical s) : Canonical (refRun s) :=
  modRefs_canonical (refTransition_canonical (modRefs_canonical h _) _) _

theorem refLost_canonical (h : Canonical s) (i) : Canonical (refLost s i) :=
  ite_canonical (refRun_canonical (refFail_canonical h _)) (refFail_canonical h _)

theorem refRetest_canonical (h : Canonical s) (i) : Canonical (refRetest s i) :=
  ite_canonical (refLost_canonical h _) (refRecheck_canonical h _)

theorem ycGoal_canonical (h : Canonical s) : Canonical (ycGoal s).2 := by grind [ycGoal, drawRate_canonical]
theorem ysGoal_canonical (h : Canonical s) : Canonical (ysGoal s).2 := by grind [ysGoal, drawRate_canonical]

theorem ratesMove_canonical (h : Canonical s) : Canonical (ratesMove s) := by
  grind [ratesMove, modRefs_canonical, guardHit_canonical, ycGoal_canonical, ysGoal_canonical]

theorem pullEnd_canonical (h : Canonical s) : Canonical (pullEnd s) := by
  unfold pullEnd
  split
  · exact ite_canonical (modRefs_canonical h _) h
  · exact modRefs_canonical h _

theorem refVoteSend_canonical (h : Canonical s) : Canonical (refVoteSend s) :=
  ite_canonical (foldl_canonical (sendVotes_canonical (modRefs_canonical h _) ..) (fun _ _ h => sendVotes_canonical h ..) _)
    (sendVotes_canonical (modRefs_canonical h _) ..)

theorem refPeriodic_canonical (h : Canonical s) : Canonical (refPeriodic s) :=
  ite_canonical (modMap_canonical (modTime_canonical (refVoteSend_canonical (modRefs_canonical (pullEnd_canonical (ratesMove_canonical
    (refRun_canonical (modRefs_canonical h _)))) _)) ..) ..) (refVoteSend_canonical (modRefs_canonical (pullEnd_canonical
    (ratesMove_canonical (refRun_canonical (modRefs_canonical h _)))) _))

theorem execSelectionRun_canonical (h : Canonical s) : NextCanonical (execSelectionRun s) :=
  ite_canonical h (ite_canonical (refPeriodic_canonical (modRefs_canonical h _)) (refVoteSend_canonical (modRefs_canonical h _)))

theorem ptpFail_canonical (h : Canonical s) (i why) : Canonical (ptpFail s i why) := by cases why <;> exact h

theorem execRefInputFail_canonical (h : Canonical s) (i why) : NextCanonical (execRefInputFail i why s) :=
  onUnit_canonical (ite_canonical h (refLost_canonical (ptpFail_canonical h ..) _))

theorem execWtrExpire_canonical (h : Canonical s) (i) : NextCanonical (execWtrExpire i s) :=
  onUnit_canonical (ite_canonical (modRefIn_canonical h ..) h)

theorem leaderRateCheck_canonical (h : Canonical s) (old new) : Canonical (leaderRateCheck s old new) := by
  unfold leaderRateCheck
  dsimp only
  split
  · exact ite_canonical (noConfidence_canonical h) h
  · exact h

theorem execVoteRefReceive_canonical (h : Canonical s) (port v) : NextCanonical (execVoteRefReceive port v s) := by
  grind [execVoteRefReceive, onPort_canonical, modRefs_canonical, voteIn_canonical, leaderRateCheck_canonical, nextCanonical_next,
    nextCanonical_fault]

theorem ptpTake_canonical (h : Canonical s) (n m) : Canonical (ptpTake s n m) := by
  cases m with
  | management => exact count_canonical h ..
  | announce => exact ite_canonical h (ite_canonical h h)
  | sync =>
    refine ite_canonical h (refMeasure_canonical ?_ _ _)
    exact h
  | delayResp => exact ite_canonical h h

theorem execPtpMessageReceive_canonical (h : Canonical s) (port m) : NextCanonical (execPtpMessageReceive port m s) :=
  onUnit_canonical (ite_canonical h (refRetest_canonical (ptpTake_canonical (modRefs_canonical h _) ..) _))

theorem execEsmcPduReceive_canonical (h : Canonical s) (port ql) : NextCanonical (execEsmcPduReceive port ql s) :=
  onUnit_canonical (ite_canonical h (refRetest_canonical (modRefs_canonical h _) _))

theorem ocxoLost_canonical (h : Canonical s) : Canonical (ocxoLost s) :=
  alert_canonical (foldl_canonical (modRefs_canonical h _) (fun _ _ h => ite_canonical h (toDown_canonical h ..)) _) ..

theorem execRefPresenceWindow_canonical (h : Canonical s) (i pps count inTime) :
    NextCanonical (execRefPresenceWindow i pps count inTime s) :=
  onUnit_canonical (ite_canonical h (ite_canonical (modRefIn_canonical h ..) (ite_canonical (ite_canonical (modRefIn_canonical h ..)
    (ite_canonical (modRefs_canonical (modRefIn_canonical h ..) _) (ocxoLost_canonical (modRefIn_canonical h ..)))) (refRetest_canonical
    (modRefIn_canonical h ..) _))))

theorem alignNote_canonical (h : Canonical s) (p scope slice a c) : Canonical (alignNote s p scope slice a c) := modMap_canonical h ..

theorem cmdAlign_canonical (h : Canonical s) (c scope slice step) : Canonical (cmdAlign c scope slice step s) := by
  grind [cmdAlign, clamped_canonical, done_canonical, pend_canonical, cmdSend_canonical, alignNote_canonical]

theorem execAlign_canonical (h : Canonical s) (c scope slice step) : NextCanonical (execAlign c scope slice step s) :=
  onCmd_canonical h _ _ _ (fun _ h => cmdAlign_canonical h ..)

theorem alignSet_canonical (h : Canonical s) (p d a) : Canonical (alignSet s p d a) := by
  cases p <;> grind [alignSet, modMap_canonical, modRefs_canonical]

theorem execAlignApply_canonical (h : Canonical s) (p) : NextCanonical (execAlignApply p s) := by
  unfold execAlignApply
  dsimp only
  refine nextCanonical_next ?_
  split
  · exact h
  · split
    · exact doneR_canonical (alignSet_canonical (modMap_canonical h ..) ..) ..
    · exact alignSet_canonical (modMap_canonical h ..) ..

theorem execPpsOutEdge_canonical (h : Canonical s) (out rising) : NextCanonical (execPpsOutEdge out rising s) := by
  grind [execPpsOutEdge, modRefs_canonical, nextCanonical_next, nextCanonical_fault]

theorem leaderTake_canonical (h : Canonical s) (p l) : Canonical (leaderTake s p l) := by
  cases p <;> grind [leaderTake, modEp_canonical, adoptEpochs_canonical, modRefs_canonical, modTime_canonical]

theorem execLeaderChangeEffect_canonical (h : Canonical s) (p) : NextCanonical (execLeaderChangeEffect p s) := by
  unfold execLeaderChangeEffect
  dsimp only
  refine nextCanonical_next ?_
  split
  · exact h
  · exact ite_canonical h (leaderTake_canonical h ..)

/-! ### Sys2Proof/Machine/Election.lean -/
theorem offer_canonical (h : Canonical s) (i n) : Canonical (offer s i n) := sendVotes_canonical (modMem_canonical h _) ..

theorem electionCall_canonical (h : Canonical s) : Canonical (electionCall s) := by
  unfold electionCall
  dsimp only
  split
  · split
    · exact offer_canonical (offer_canonical (alert_canonical (modMem_canonical h _) ..) ..) ..
    · exact offer_canonical (alert_canonical (modMem_canonical h _) ..) ..
  · exact alert_canonical (modMem_canonical h _) ..

theorem triadSend_canonical (h : Canonical s) : Canonical (triadSend s) := by
  unfold triadSend
  dsimp only
  split
  · exact h
  · exact foldl_canonical (announceVote_canonical (modBase_canonical (modEp_canonical h ..) _ rfl) _) (fun _ _ h => modPort_canonical
      h ..) _

theorem triadTry_canonical (h : Canonical s) : Canonical (triadTry s) := ite_canonical (triadSend_canonical h) h

theorem lossAct_canonical (h : Canonical s) : Canonical (lossAct s) := by
  unfold lossAct
  dsimp only
  refine ite_canonical h ?_
  split
  · exact ite_canonical (announceLeader_canonical h _) h
  · exact ite_canonical (electionCall_canonical h) h
  · exact h

theorem execRootLossReceive_canonical (h : Canonical s) (port v) : NextCanonical (execRootLossReceive port v s) := by
  grind [execRootLossReceive, onPort_canonical, voteIn_canonical, modMem_canonical, lossAct_canonical, foldl_canonical,
    nextCanonical_next, nextCanonical_fault]

theorem execElectOfferReceive_canonical (h : Canonical s) (port v) : NextCanonical (execElectOfferReceive port v s) := by
  grind [execElectOfferReceive, onPort_canonical, sendVotes_canonical, voteIn_canonical, modMem_canonical, nextCanonical_next,
    nextCanonical_fault]

theorem execElectAcceptReceive_canonical (h : Canonical s) (port v) : NextCanonical (execElectAcceptReceive port v s) := by
  grind [execElectAcceptReceive, onPort_canonical, voteIn_canonical, modMem_canonical, triadTry_canonical, nextCanonical_next,
    nextCanonical_fault]

theorem execElectOfferTimeout_canonical (h : Canonical s) (index) : NextCanonical (execElectOfferTimeout index s) := by
  unfold execElectOfferTimeout
  dsimp only
  refine nextCanonical_next ?_
  split
  · exact h
  · refine ite_canonical h ?_
    split
    · exact offer_canonical (modMem_canonical h _) ..
    · exact modMem_canonical h _

theorem execTriadSetReceive_canonical (h : Canonical s) (p port v) : NextCanonical (execTriadSetReceive p port v s) := by
  grind [execTriadSetReceive, modBase_canonical, onPort_canonical, voteIn_canonical, nextCanonical_next, nextCanonical_fault]

theorem triadTake_canonical (h : Canonical s) (d) : Canonical (triadTake s d) := modMem_canonical h _

theorem execTriadEffect_canonical (h : Canonical s) (p) : NextCanonical (execTriadEffect p s) := by
  unfold execTriadEffect
  dsimp only
  refine nextCanonical_next ?_
  split
  · exact h
  · refine ite_canonical h ?_
    split
    · exact leaderTake_canonical (modBase_canonical h _ rfl) ..
    · exact ite_canonical (modTime_canonical (triadTake_canonical (leaderTake_canonical (modBase_canonical h _ rfl) ..) _) ..)
        (triadTake_canonical (leaderTake_canonical (modBase_canonical h _ rfl) ..) _)

theorem execElectLimitExpire_canonical (h : Canonical s) : NextCanonical (execElectLimitExpire s) :=
  ite_canonical h (ite_canonical (ite_canonical (modTime_canonical h ..) h) (ite_canonical h (ite_canonical (triadTry_canonical h)
    (ite_canonical (releaseHeld_canonical (modMem_canonical h _)) (announceLeader_canonical (releaseHeld_canonical (modMem_canonical
    h _)) _)))))

theorem execCopyReceive_canonical (h : Canonical s) (port v) : NextCanonical (execCopyReceive port v s) := by
  grind [execCopyReceive, onPort_canonical, voteIn_canonical, modMem_canonical, foldl_canonical, nextCanonical_next, nextCanonical_fault]

theorem execLedgerReplayComplete_canonical (h : Canonical s) : NextCanonical (execLedgerReplayComplete s) := by
  grind [execLedgerReplayComplete, sendOwnVote_canonical, modMem_canonical, modLed_canonical, foldl_canonical, nextCanonical_next,
    nextCanonical_fault]

/-! ### Sys2Proof/Machine/Membership.lean -/
theorem uplinkOut_canonical (h : Canonical s) (n r at_) : Canonical (uplinkOut s n r at_) := by
  grind [uplinkOut, hardEvent_canonical, modMem_canonical, judgeFresh_canonical]

theorem reportIn_canonical (h : Canonical s) (src at_ r) : Canonical (reportIn s src at_ r) := by
  unfold reportIn
  split
  · exact ite_canonical (uplinkOut_canonical h ..) (judgeFresh_canonical (tallyPut_canonical h ..))
  · exact judgeFresh_canonical (tallyPut_canonical h ..)

theorem execReportReceive_canonical (h : Canonical s) (port v) : NextCanonical (execReportReceive port v s) := by
  grind [execReportReceive, onPort_canonical, voteIn_canonical, reportIn_canonical, nextCanonical_next, nextCanonical_fault]

theorem execProposeReceive_canonical (h : Canonical s) (port v) : NextCanonical (execProposeReceive port v s) := by
  grind [execProposeReceive, onPort_canonical, voteIn_canonical, voteFor_canonical, foldl_canonical, nextCanonical_next,
    nextCanonical_fault]

theorem execMemberReceive_canonical (h : Canonical s) (p port v) : NextCanonical (execMemberReceive p port v s) := by
  cases p <;> grind [execMemberReceive, onPort_canonical, modBase_canonical, dueAdd_ports, voteIn_canonical]

theorem joinTry_canonical (h : Canonical s) (n) : Canonical (joinTry s n) := ite_canonical h (ite_canonical h (propose_canonical h _))

theorem recordsClear_canonical (h : Canonical s) (pos) : Canonical (recordsClear s pos) := by
  refine postsClear_canonical (foldl_canonical h (fun _ _ hs => barAdvance_canonical ?_ _) _) _
  exact hs

theorem dieClear_canonical (h : Canonical s) (pos maps) : Canonical (dieClear s pos maps) :=
  recordsClear_canonical (modFabric_canonical h _) _

theorem distExclude_canonical (h : Canonical s) (pos all) : Canonical (distExclude s pos all) :=
  ite_canonical (recordsClear_canonical (modFabric_canonical h _) _) (modFabric_canonical h _)

theorem distAdmit_canonical (h : Canonical s) (pos) : Canonical (distAdmit s pos) := modFabric_canonical h _

theorem portsDown_canonical (h : Canonical s) (is) : Canonical (portsDown s is) :=
  foldl_canonical h (fun _ _ h => toDown_canonical (modLink_canonical h ..) ..) _

theorem portsBack_canonical (h : Canonical s) (is) : Canonical (portsBack s is) :=
  foldl_canonical h (fun _ _ h => tryTrain_canonical (modLink_canonical h ..) ..) _

theorem belowChange_canonical (h : Canonical s) (c) : Canonical (belowChange s c) := by
  unfold belowChange
  split
  · exact h
  · refine ite_canonical ?_ ?_
    · split
      · exact dieClear_canonical h ..
      · exact dieClear_canonical h ..
      · exact h
    · split
      · exact distAdmit_canonical h _
      · exact portsDown_canonical (distExclude_canonical h ..) _
      · exact distExclude_canonical h ..
      · exact portsBack_canonical h _
      · exact distExclude_canonical h ..
      · exact h

theorem removeReady_canonical (h : Canonical s) : Canonical (removeReady s) := ite_canonical (modSv_canonical h _) h

theorem ownChange_canonical (h : Canonical s) (c) : Canonical (ownChange s c) := by
  unfold ownChange
  dsimp only
  refine ite_canonical h ?_
  split
  · exact modSv_canonical h _
  · exact startHold_canonical (modSv_canonical h _) _
  · exact removeReady_canonical (modSv_canonical h _)
  · exact ite_canonical (copyAsk_canonical (modSv_canonical h _)) h
  · exact modSv_canonical h _
  · exact h

theorem sisterNotice_canonical (h : Canonical s) (c me) : Canonical (sisterNotice s c me) := ite_canonical (sendVotes_canonical h ..) h

theorem rootChange_canonical (h : Canonical s) (c) : Canonical (rootChange s c) := by
  unfold rootChange
  dsimp only
  split
  · exact h
  · exact ite_canonical (modMem_canonical (modMem_canonical h _) _) (ite_canonical (lossAct_canonical (modMem_canonical h _)) h)

theorem groupsFull_canonical (h : Canonical s) (c) : Canonical (groupsFull s c) := ite_canonical h (modLed_canonical h _)

theorem rootsAct_canonical (h : Canonical s) (c) : Canonical (rootsAct s c) := by
  unfold rootsAct
  dsimp only
  exact ite_canonical (rootChange_canonical h _) (ite_canonical (foldl_canonical (ite_canonical (rootsRemoved_canonical
      (groupsFull_canonical (rootChange_canonical h _) _) _) (groupsFull_canonical (rootChange_canonical h _) _)) (fun _ _ h =>
      joinTry_canonical h _) _) (ite_canonical (rootsRemoved_canonical (groupsFull_canonical (rootChange_canonical h _) _) _)
      (groupsFull_canonical (rootChange_canonical h _) _)))

theorem waitDone_canonical (h : Canonical s) (c me) : Canonical (waitDone s c me) :=
  foldl_canonical (modSv_canonical h _) (fun _ _ h => doneR_canonical h ..) _

theorem distChange_canonical (h : Canonical s) (me c) : Canonical (distChange me s c) :=
  waitDone_canonical (rootsAct_canonical (sisterNotice_canonical (ownChange_canonical (belowChange_canonical (modNode_canonical
    h ..) _) _) ..) _) ..

theorem planeLost_canonical (h : Canonical s) (k) : Canonical (planeLost s k) :=
  ite_canonical (chooseInput_canonical (modPortMark_canonical (modDie_canonical h _) ..) _) (modPortMark_canonical (modDie_canonical h _) ..)

theorem planeFound_canonical (h : Canonical s) (k) : Canonical (planeFound s k) :=
  ite_canonical (modDie_canonical h _) (modPortMark_canonical (modDie_canonical h _) ..)

theorem dieChange_canonical (h : Canonical s) (state) : Canonical (dieChange s state) := by
  unfold dieChange
  grind [modDie_canonical, dieOpsEnd_canonical, plateCancel_canonical, enterTruing_canonical]

theorem tsuChange_canonical (h : Canonical s) (c) : Canonical (tsuChange s c) := by
  unfold tsuChange
  refine ite_canonical (dieChange_canonical h _) ?_
  refine ite_canonical (ite_canonical (modDie_canonical h _) h) ?_
  split
  · exact h
  · exact ite_canonical (planeLost_canonical h _) (ite_canonical (planeFound_canonical h _) h)

theorem execMembershipEffect_canonical (h : Canonical s) (p) : NextCanonical (execMembershipEffect p s) := by
  grind [execMembershipEffect, modBase_canonical, modEp_canonical, adoptEpochs_canonical, distChange_canonical, tsuChange_canonical,
    foldl_canonical, nextCanonical_next, nextCanonical_fault]

theorem execFenceNoticeReceive_canonical (h : Canonical s) (port v) : NextCanonical (execFenceNoticeReceive port v s) := by
  grind [execFenceNoticeReceive, onPort_canonical, voteIn_canonical, planeLost_canonical, nextCanonical_next, nextCanonical_fault]

theorem execFenceWaitExpire_canonical (h : Canonical s) (node) : NextCanonical (execFenceWaitExpire node s) := by
  unfold execFenceWaitExpire
  dsimp only
  refine nextCanonical_next ?_
  split
  · exact h
  · exact ite_canonical h (ite_canonical (hardEvent_canonical (foldl_canonical h (fun _ _ h => modLink_canonical h ..) _) ..)
      (uplinkOut_canonical (sendVotes_canonical (fr_canonical (foldl_canonical h (fun _ _ h => modLink_canonical h ..) _) ..) ..) ..))

theorem execSuspectClearExpire_canonical (h : Canonical s) (node) : NextCanonical (execSuspectClearExpire node s) :=
  ite_canonical (modNode_canonical h ..) h

theorem execProbationEnd_canonical (h : Canonical s) (node) : NextCanonical (execProbationEnd node s) :=
  ite_canonical (modNode_canonical h ..) h

theorem execEccUncorrectable_canonical (h : Canonical s) (p) : NextCanonical (execEccUncorrectable p s) := hardEvent_canonical h ..

theorem execWatchdogExpire_canonical (h : Canonical s) (p pc) : NextCanonical (execWatchdogExpire p pc s) :=
  suspect_canonical (fr_canonical (modHs_canonical h ..) ..) ..

/-! ### Sys2Proof/Machine/TickEdge.lean -/
theorem execTickEdge_canonical (h : Canonical s) (p sendOfs) : NextCanonical (execTickEdge p sendOfs s) := by
  refine nextCanonical_next (ite_canonical h (foldl_canonical ?_ (fun _ i hs => sendMarker_canonical hs ..) _))
  have hframed := modTime_canonical h p fun t => { t with framed := some (tickOf (s.now p)) }
  have hbegun := modPortsAll_canonical hframed p fun _ q =>
    { q with tx := q.tx.newTick (mgmtGuard ((s.modTime p fun t => { t with framed := some (tickOf (s.now p)) }).base p))
                  (tickOf (s.now p)) }
  cases p <;> grind only [shadowCheck_canonical, adoptEpochs_canonical, planesCompare_canonical, triadTry_canonical, rootTick_canonical,
    announceHeld_canonical, announceResets_canonical, judgeFresh_canonical, chooseInput_canonical, event_canonical]

/-! ### Sys2Proof/Machine/Lifecycle.lean -/
theorem execTsuRstNAssert_canonical (h : Canonical s) : NextCanonical (execTsuRstNAssert s) := nextCanonical_next ⟨rfl, rfl, h.distPorts⟩

theorem execTsuResetRelease_canonical (h : Canonical s) : NextCanonical (execTsuResetRelease s) :=
  ite_canonical h (modHs_canonical (modDie_canonical h _) ..)

theorem execFwGo_canonical (h : Canonical s) (addr) : NextCanonical (execFwGo addr s) := ite_canonical h (modHs_canonical h ..)

theorem execBootComplete_canonical (h : Canonical s) (p hdr checks hdr2 checks2) :
    NextCanonical (execBootComplete p hdr checks hdr2 checks2 s) := by
  grind [execBootComplete, alert_canonical, modHs_canonical, nextCanonical_next, nextCanonical_fault]

theorem execDResetNAssert_canonical (h : Canonical s) : NextCanonical (execDResetNAssert s) :=
  nextCanonical_next ⟨h.mem, h.tsuPorts, rfl⟩

theorem execPowerGoodLoss_canonical (h : Canonical s) : NextCanonical (execPowerGoodLoss s) :=
  nextCanonical_next ⟨h.mem, h.tsuPorts, rfl⟩

theorem execPowerOnReset_canonical (h : Canonical s) (role planeB rootCapable smbAddr) :
    NextCanonical (execPowerOnReset role planeB rootCapable smbAddr s) :=
  nextCanonical_next (ite_canonical h ⟨h.mem, h.tsuPorts, rfl⟩)

theorem nodePosition_canonical (h : Canonical s) (v) : Canonical (nodePosition v s) :=
  ite_canonical h (ite_canonical (modBase_canonical (modSv_canonical (clamped_canonical h ..) _) _ rfl) (foldl_canonical (modSv_canonical
    (modBase_canonical (modSv_canonical (clamped_canonical h ..) _) _ rfl) _) (fun _ _ h => tryTrain_canonical (modLink_canonical
    h ..) ..) _))

theorem execNodePositionWrite_canonical (h : Canonical s) (v) : NextCanonical (execNodePositionWrite v s) := nodePosition_canonical h _

theorem execTruingSlow_canonical (h : Canonical s) : NextCanonical (execTruingSlow s) :=
  ite_canonical (alert_canonical (modDie_canonical h _) ..) h

theorem copyLoad_canonical (h : Canonical s) (c) : Canonical (copyLoad s c) :=
  cfgPut_canonical (modSv_canonical (modFabric_canonical h _) _) ..

theorem sendJoinReady_canonical (h : Canonical s) (p) : Canonical (sendJoinReady s p) := by
  cases p <;> exact mgmt_canonical (by exact h) ..

theorem execJoinSettleExpire_canonical (h : Canonical s) (p) : NextCanonical (execJoinSettleExpire p s) :=
  nextCanonical_next (ite_canonical (sendJoinReady_canonical h p) h)

theorem execJoinReadyRepeat_canonical (h : Canonical s) (p) : NextCanonical (execJoinReadyRepeat p s) :=
  nextCanonical_next (ite_canonical (sendJoinReady_canonical h p) h)

theorem execJoinReadyReceive_canonical (h : Canonical s) (env j) : NextCanonical (execJoinReadyReceive env j s) :=
  onMgmt_canonical h _ _ (fun _ h => ite_canonical h (ite_canonical (count_canonical h ..) (joinTry_canonical (modNode_canonical
    h ..) _)))

theorem execCopyReqReceive_canonical (h : Canonical s) (port env) : NextCanonical (execCopyReqReceive port env s) := by
  grind [execCopyReqReceive, onPort_canonical, mgmt_canonical, mgmtIn_canonical, mgmtRelay_canonical, nextCanonical_next,
    nextCanonical_fault]

theorem execCopyDataReceive_canonical (h : Canonical s) (env cs digest) : NextCanonical (execCopyDataReceive env cs digest s) :=
  onMgmt_canonical h _ _ (fun _ h => ite_canonical h (ite_canonical (modSv_canonical (copyLoad_canonical h _) _) (copyAsk_canonical h)))

theorem execImageReceive_canonical (h : Canonical s) (env cs) : NextCanonical (execImageReceive env cs s) :=
  onMgmt_canonical h _ _ (fun _ h => ite_canonical h (ite_canonical (modSv_canonical (copyLoad_canonical h _) _) (count_canonical h ..)))

theorem execPartBoundary_canonical (h : Canonical s) : NextCanonical (execPartBoundary s) := by
  unfold execPartBoundary
  dsimp only
  refine nextCanonical_next ?_
  split
  · exact h
  · exact ite_canonical h (modDie_canonical (plateCancel_canonical h _) _)

theorem execPartDrainComplete_canonical (h : Canonical s) : NextCanonical (execPartDrainComplete s) :=
  ite_canonical (sendPartDone_canonical h) h

theorem execPartLimitExpire_canonical (h : Canonical s) : NextCanonical (execPartLimitExpire s) :=
  ite_canonical (sendPartDone_canonical (dieOpsEnd_canonical (count_canonical h ..) _)) h

theorem execPartDoneReceive_canonical (h : Canonical s) (env node _st _cancelled) :
    NextCanonical (execPartDoneReceive env node _st _cancelled s) :=
  onMgmt_canonical h _ _ (fun _ h => ite_canonical h (propose_canonical h _))

theorem removeRefuse_canonical (h : Canonical s) : Canonical (removeRefuse s) := ite_canonical (modSv_canonical h _) h

theorem cmdMember_canonical (h : Canonical s) (c op ch rc here check) : Canonical (cmdMember c op ch rc here check s) := by
  unfold cmdMember
  grind [done_canonical, cmdSend_canonical, propose_canonical, modSv_canonical, pend_canonical]

theorem rootsMember_canonical (h : Canonical s) (ch check) : Canonical (rootsMember ch check s) := ite_canonical (propose_canonical h _) h

theorem cmdDrain_canonical (h : Canonical s) (c n) : Canonical (cmdDrain c n s) :=
  cmdMember_canonical (ite_canonical (removeRefuse_canonical h) h) ..

theorem execDrain_canonical (h : Canonical s) (c node) : NextCanonical (execDrain c node s) :=
  onCmd_canonical h _ _ _ (fun _ h => cmdDrain_canonical h ..)

theorem cmdUndrain_canonical (h : Canonical s) (c n) : Canonical (cmdUndrain c n s) := cmdMember_canonical h ..

theorem execUndrain_canonical (h : Canonical s) (c node) : NextCanonical (execUndrain c node s) :=
  onCmd_canonical h _ _ _ (fun _ h => cmdUndrain_canonical h ..)

theorem cmdRejoin_canonical (h : Canonical s) (c i) : Canonical (cmdRejoin c i s) := cmdMember_canonical h ..

theorem execRejoin_canonical (h : Canonical s) (c die) : NextCanonical (execRejoin c die s) :=
  onCmd_canonical h _ _ _ (fun _ h => cmdRejoin_canonical h ..)

theorem cmdQuarantineClear_canonical (h : Canonical s) (c n) : Canonical (cmdQuarantineClear c n s) := cmdMember_canonical h ..

theorem execQuarantineClear_canonical (h : Canonical s) (c node) : NextCanonical (execQuarantineClear c node s) :=
  onCmd_canonical h _ _ _ (fun _ h => cmdQuarantineClear_canonical h ..)

theorem drainDone_canonical (h : Canonical s) : Canonical (drainDone s) := toRoots_canonical (modSv_canonical h _) _ _ (fun _ h => h)
theorem execDrainComplete_canonical (h : Canonical s) : NextCanonical (execDrainComplete s) := ite_canonical (drainDone_canonical h) h

theorem execDrainLimitExpire_canonical (h : Canonical s) : NextCanonical (execDrainLimitExpire s) := by
  have hposts := foldl_canonical h (f := postFree) (fun _ q hs => postFree_canonical hs q) s.dist.fab.posts
  exact nextCanonical_next (ite_canonical (drainDone_canonical (modPortsAll_canonical
    (foldl_canonical hposts (fun _ b hs => barFree_canonical hs b) _) ..)) h)

/-! ### Sys2Proof/Machine/Links.lean -/
theorem execPortEnableWrite_canonical (h : Canonical s) (p port enable) : NextCanonical (execPortEnableWrite p port enable s) :=
  onPort_canonical (ite_canonical h (ite_canonical (tryTrain_canonical (modPort_canonical h ..) ..) (toDown_canonical (modPort_canonical
    h ..) ..)))

theorem execPortRetrainWrite_canonical (h : Canonical s) (p port) : NextCanonical (execPortRetrainWrite p port s) :=
  onPort_canonical (ite_canonical (wantChange_canonical h ..) h)

theorem execSignalDetect_canonical (h : Canonical s) (p port lane) : NextCanonical (execSignalDetect p port lane s) :=
  onLane_canonical (tryTrain_canonical (modLink_canonical h ..) ..)

theorem trainSeen_canonical (h : Canonical s) (p i t) : Canonical (trainSeen s p i t) := modLink_canonical h ..

theorem trainIn_canonical (h : Canonical s) (p i t) {f : State → State} (hf : ∀ s, Canonical s → Canonical (f s)) :
    Canonical (trainIn s p i t f) := ite_canonical (hf s h) (count_canonical h ..)

theorem execTs1Receive_canonical (h : Canonical s) (p port t) : NextCanonical (execTs1Receive p port t s) :=
  onPort_canonical (trainIn_canonical h _ _ _ (fun _ h => ite_canonical h (modLink_canonical (trainSeen_canonical h ..) ..)))

theorem execTs2Receive_canonical (h : Canonical s) (p port t) : NextCanonical (execTs2Receive p port t s) := by
  refine onPort_canonical (trainIn_canonical h p port t fun s h => ?_)
  have hseen := fun f => modLink_canonical (trainSeen_canonical h p port t) p port f
  refine ite_canonical h (ite_canonical (ite_canonical ?_ (alert_canonical ?_ ..)) (ite_canonical ?_ (ite_canonical ?_ ?_)))
  all_goals grind [modLink_canonical, setLink_canonical]

theorem execAlignMapReceive_canonical (h : Canonical s) (p port t) : NextCanonical (execAlignMapReceive p port t s) :=
  onPort_canonical (trainIn_canonical h _ _ _ (fun _ h => ite_canonical h (modLink_canonical (toTimecal_canonical (modLink_canonical
    (trainSeen_canonical h ..) ..) ..) ..)))

theorem execAlignDoneReceive_canonical (h : Canonical s) (p port t) : NextCanonical (execAlignDoneReceive p port t s) :=
  onPort_canonical (trainIn_canonical h _ _ _ (fun _ h => ite_canonical h (toTimecal_canonical (trainSeen_canonical h ..) ..)))

theorem execTrainRetry_canonical (h : Canonical s) (p port) : NextCanonical (execTrainRetry p port s) :=
  onPort_canonical (ite_canonical h (count_canonical (modLink_canonical h ..) ..))

theorem execAlignTimeout_canonical (h : Canonical s) (p port) : NextCanonical (execAlignTimeout p port s) :=
  onPort_canonical (ite_canonical h (toTrain_canonical h ..))

theorem execCalReceive_canonical (h : Canonical s) (p port t) : NextCanonical (execCalReceive p port t s) :=
  onPort_canonical (trainIn_canonical h _ _ _ (fun _ h => ite_canonical h (modLink_canonical (trainSeen_canonical h ..) ..)))

theorem execTimecalComplete_canonical (h : Canonical s) (p port) : NextCanonical (execTimecalComplete p port s) := by
  grind [execTimecalComplete, modPort_canonical, onPort_canonical, alert_canonical, copyAsk_canonical, setLink_canonical,
    renewAge_canonical, nextCanonical_next, nextCanonical_fault]

theorem execUnplannedRetrain_canonical (h : Canonical s) (p port) : NextCanonical (execUnplannedRetrain p port s) :=
  onPort_canonical (ite_canonical (toTrain_canonical h ..) h)

theorem execLossOfSignal_canonical (h : Canonical s) (p port) : NextCanonical (execLossOfSignal p port s) :=
  onPort_canonical (ite_canonical h (toDown_canonical h ..))

theorem execLaneFail_canonical (h : Canonical s) (p port lane) : NextCanonical (execLaneFail p port lane s) :=
  onLane_canonical (laneChange_canonical (settleLive_canonical (modLink_canonical h ..) ..) ..)

theorem execLaneWarn_canonical (h : Canonical s) (p port lane) : NextCanonical (execLaneWarn p port lane s) :=
  onLane_canonical (laneChange_canonical (modLink_canonical h ..) ..)

theorem execSpareTrained_canonical (h : Canonical s) (p port) : NextCanonical (execSpareTrained p port s) :=
  onPort_canonical (ite_canonical h (ite_canonical (orderChange_canonical (settleLive_canonical (modLink_canonical h ..) ..) ..)
    (settleLive_canonical (modLink_canonical h ..) ..)))

theorem execSpareNotTrained_canonical (h : Canonical s) (p port) : NextCanonical (execSpareNotTrained p port s) :=
  onPort_canonical (settleLive_canonical (modLink_canonical h ..) ..)

theorem execChangeReqReceive_canonical (h : Canonical s) (p port t) : NextCanonical (execChangeReqReceive p port t s) := by
  grind [execChangeReqReceive, onPort_canonical, modLink_canonical, orderChange_canonical, trainSeen_canonical, trainIn_canonical,
    nextCanonical_next, nextCanonical_fault]

theorem execChangeOrderReceive_canonical (h : Canonical s) (p port t) : NextCanonical (execChangeOrderReceive p port t s) :=
  onPort_canonical (trainIn_canonical h _ _ _ (fun _ h => ite_canonical h (modLink_canonical (trainSeen_canonical h ..) ..)))

theorem execChangeAckReceive_canonical (h : Canonical s) (p port t) : NextCanonical (execChangeAckReceive p port t s) :=
  onPort_canonical (trainIn_canonical h _ _ _ (fun _ h => modLink_canonical (trainSeen_canonical h ..) ..))

theorem execSwapCopyStart_canonical (h : Canonical s) (p port) : NextCanonical (execSwapCopyStart p port s) :=
  onPort_canonical (modLink_canonical h ..)

theorem newMap_canonical (h : Canonical s) (p i m n) : Canonical (newMap s p i m n) :=
  renewAge_canonical (settleLive_canonical (modPort_canonical h ..) ..) ..

theorem execLinkChangeApply_canonical (h : Canonical s) (p port matched) : NextCanonical (execLinkChangeApply p port matched s) := by
  grind [execLinkChangeApply, modPort_canonical, onPort_canonical, event_canonical, count_canonical, modLink_canonical,
    toTrain_canonical, newMap_canonical, nextCanonical_next, nextCanonical_fault]

theorem sendNextP2_canonical (h : Canonical s) (p i slice x) : Canonical (sendNextP2 s p i slice x) := by
  unfold sendNextP2
  split
  · exact h
  case h_2 c t _ =>
    have hledger (u : State) (hu : Canonical u) : Canonical (match c.body with
        | .ledger _ => if p == .dist then { u with dist.fab.ledgerSent := tmod 0 u.dist.fab.ledgerSent i (· + 1) } else u
        | _ => u) := by
      split
      · exact ite_canonical hu hu
      · exact hu
    refine ite_canonical (hist_canonical (hledger _ ?_) ..) (hledger _ ?_) <;>
      exact event_canonical (maxCtr_canonical (count_canonical (count_canonical (modPort_canonical h ..) ..) ..) ..) ..

theorem sendNextP1_canonical (h : Canonical s) (p i) : Canonical (sendNextP1 s p i) := by
  unfold sendNextP1
  split
  · exact h
  · exact event_canonical (modPort_canonical h ..) ..

theorem sendNextP3_canonical (h : Canonical s) (p i) : Canonical (sendNextP3 s p i) := by
  unfold sendNextP3
  split
  · exact h
  · exact event_canonical (modPort_canonical h ..) ..

theorem execSlotTransmit_canonical (h : Canonical s) (p port slot) : NextCanonical (execSlotTransmit p port slot s) := by
  refine onPort_canonical (ite_canonical h ?_)
  have hrenew := modPort_canonical h p port fun q => { q with tx := q.tx.renew (tickOf (s.now p)) }
  dsimp only
  generalize s.modPort p port (fun q => { q with tx := q.tx.renew (tickOf (s.now p)) }) = t at hrenew ⊢
  generalize hbegun : (if ((s.port p port).tx.slotTick != some (tickOf (s.now p)) && p == .dist) = true then
    { t with dist.fab.ledgerSent := tset 0 t.dist.fab.ledgerSent port 0 } else t) = u
  have hu : Canonical u := hbegun ▸ ite_canonical hrenew hrenew
  clear hbegun
  repeat' split
  all_goals grind only [modPort_canonical, sendNextP1_canonical, sendNextP2_canonical, sendNextP3_canonical]

theorem execRotationStart_canonical (h : Canonical s) (p port) : NextCanonical (execRotationStart p port s) :=
  onPort_canonical (ite_canonical h (modLink_canonical h ..))

theorem setLane_canonical (h : Canonical s) (p i l f) : Canonical (setLane s p i l f) := modLink_canonical h ..
theorem calAdopt_canonical (h : Canonical s) (p i l x) : Canonical (calAdopt s p i l x) := renewAge_canonical (setLane_canonical h ..) ..

theorem calMeasure_canonical (h : Canonical s) (p i l x) : Canonical (calMeasure s p i l x) := by
  unfold calMeasure
  dsimp only
  refine ite_canonical (calAdopt_canonical h ..) ?_
  split
  · exact setLane_canonical h ..
  · exact ite_canonical (count_canonical (calAdopt_canonical h ..) ..) (suspect_canonical (count_canonical (setLane_canonical
      h ..) ..) ..)

theorem rotAdvance_canonical (h : Canonical s) (p i) : Canonical (rotAdvance s p i) :=
  ite_canonical h (modLink_canonical (orderChange_canonical h ..) ..)

theorem execCalDwellEnd_canonical (h : Canonical s) (p port lane tx rx) : NextCanonical (execCalDwellEnd p port lane tx rx s) :=
  onLane_canonical (ite_canonical h (ite_canonical (calNext_canonical (calMeasure_canonical h ..) ..) (ite_canonical
    (calMeasure_canonical h ..) (rotAdvance_canonical (calMeasure_canonical h ..) ..))))

theorem execCalAgeStep_canonical (h : Canonical s) (p port) : NextCanonical (execCalAgeStep p port s) :=
  onPort_canonical (renewAge_canonical h ..)

/-! ### Sys2Proof/Machine/Measure.lean -/
theorem execTimEvent_canonical (h : Canonical s) (p channel fall tx tap) : NextCanonical (execTimEvent p channel fall tx tap s) := by
  grind [execTimEvent, onUnit_canonical, count_canonical, modChan_canonical, stampAccept_canonical, refStamp_canonical,
    nextCanonical_next, nextCanonical_fault]

theorem execTimSelfCheck_canonical (h : Canonical s) (p channel interpB value) :
    NextCanonical (execTimSelfCheck p channel interpB value s) :=
  onUnit_canonical (ite_canonical h (ite_canonical (modChan_canonical h ..) (ite_canonical (hardEvent_canonical (fr_canonical
    (modChan_canonical h ..) ..) ..) (suspect_canonical (fr_canonical (modChan_canonical h ..) ..) ..))))

theorem execDllLock_canonical (h : Canonical s) (p channel) : NextCanonical (execDllLock p channel s) :=
  onUnit_canonical (modChan_canonical h ..)

theorem execStatStart_canonical (h : Canonical s) (p unit v) : NextCanonical (execStatStart p unit v s) :=
  onUnit_canonical (clamped_canonical (modStat_canonical h ..) ..)

theorem execIntControlWrite_canonical (h : Canonical s) (p unit v) : NextCanonical (execIntControlWrite p unit v s) :=
  onUnit_canonical (clamped_canonical (modUnit_canonical h ..) ..)

theorem execIntLegacyTimeout_canonical (h : Canonical s) (p unit) : NextCanonical (execIntLegacyTimeout p unit s) := by
  grind [execIntLegacyTimeout, onUnit_canonical, modUnit_canonical, intPut_canonical, nextCanonical_next, nextCanonical_fault]

theorem modFr_canonical (h : Canonical s) (p f) : Canonical (State.modFr s p f) := modBase_canonical h _ rfl
theorem execFrArm_canonical (h : Canonical s) (p) : NextCanonical (execFrArm p s) := modFr_canonical h ..
theorem execFrDisarm_canonical (h : Canonical s) (p) : NextCanonical (execFrDisarm p s) := modFr_canonical h ..
theorem execFrTrigger_canonical (h : Canonical s) (p) : NextCanonical (execFrTrigger p s) := frTrigger_canonical h ..
theorem execMissedClr_canonical (h : Canonical s) (p) : NextCanonical (execMissedClr p s) := modFr_canonical h ..
theorem execFrRearmComplete_canonical (h : Canonical s) (p) : NextCanonical (execFrRearmComplete p s) := modFr_canonical h ..
theorem execFrFreeze_canonical (h : Canonical s) (p) : NextCanonical (execFrFreeze p s) := modFr_canonical h ..

theorem execFrSoftwareWrite_canonical (h : Canonical s) (p data) : NextCanonical (execFrSoftwareWrite p data s) :=
  fr_canonical (modFr_canonical h ..) ..

theorem modPerf_canonical (h : Canonical s) (p f) : Canonical (State.modPerf s p f) := modBase_canonical h _ rfl

theorem perfSelPut_canonical (h : Canonical s) (p n v) : Canonical (perfSelPut p n v s) :=
  clamped_canonical (ite_canonical (modPerf_canonical (modPerf_canonical h ..) ..) (modPerf_canonical h ..)) ..

theorem execPerfSelWrite_canonical (h : Canonical s) (p n v) : NextCanonical (execPerfSelWrite p n v s) :=
  onUnit_canonical (perfSelPut_canonical h ..)

theorem execPerfClear_canonical (h : Canonical s) (p n) : NextCanonical (execPerfClear p n s) := onUnit_canonical (modPerf_canonical h ..)
theorem execPerfFreeze_canonical (h : Canonical s) (p freeze) : NextCanonical (execPerfFreeze p freeze s) := modPerf_canonical h ..
theorem execPerfSnap_canonical (h : Canonical s) (p) : NextCanonical (execPerfSnap p s) := snapshot_canonical h _
theorem execHistClear_canonical (h : Canonical s) (p x) : NextCanonical (execHistClear p x s) := onUnit_canonical (modPerf_canonical h ..)

/-! ### Sys2Proof/Machine/RegOps.lean -/
theorem peek_canonical (h : Canonical s) (v) : Canonical (peek v s).2 := h
theorem rcRead_canonical (h : Canonical s) (p fs) : Canonical (rcRead p fs s).2 := modBase_canonical h p (foldl_setCtr_ports ..)
theorem rc32_canonical (h : Canonical s) (p c i) : Canonical (rc32 p c i s).2 := rcRead_canonical h ..
theorem stLoRead_canonical (h : Canonical s) (p) : Canonical (stLoRead p s).2 := modTime_canonical h ..
theorem stHiRead_canonical (h : Canonical s) (p) : Canonical (stHiRead p s).2 := modTime_canonical h ..

theorem mapRead_canonical (h : Canonical s) (p off) : Canonical (mapRead p off s).2 := by
  unfold mapRead
  dsimp only
  split <;> grind only [peek, modMap_canonical]

theorem linkCtrRead_canonical (h : Canonical s) (p i k wide) : Canonical (linkCtrRead p i k wide s).2 := by
  grind [linkCtrRead, peek_canonical, rcRead_canonical, rc32_canonical]

theorem portRead_canonical (h : Canonical s) (p i o) : Canonical (portRead p i o s).2 := by
  unfold portRead
  dsimp only
  split
  · exact linkCtrRead_canonical h ..
  · split <;> exact h

theorem stepIn_canonical (h : Canonical s) {o} (ho : NextCanonical o) : Canonical (stepIn o s) := by
  cases o with
  | next => exact ho
  | _ => exact h

theorem portControl_canonical (h : Canonical s) (p i v) : Canonical (portControl p i v s) := by
  grind [portControl, execPortEnableWrite_canonical, execPortRetrainWrite_canonical, stepIn_canonical]

theorem hsRead_canonical (h : Canonical s) (p o) : Canonical (hsRead p o s).2 := by
  unfold hsRead
  dsimp only
  repeat' split
  all_goals grind only [peek, rcRead_canonical, rc32_canonical]

theorem timControlPut_canonical (h : Canonical s) (p n v) : Canonical (timControlPut p n v s) :=
  clamped_canonical (modChan_canonical h ..) ..

theorem timQueueRead_canonical (h : Canonical s) (p n w) : Canonical (timQueueRead p n w s).2 := by
  grind [timQueueRead, modChan_canonical, peek_canonical]

theorem intQueueRead_canonical (h : Canonical s) (p u w) : Canonical (intQueueRead p u w s).2 := by
  grind [intQueueRead, modUnit_canonical, peek_canonical]

theorem timCounts_canonical (h : Canonical s) (p n) : Canonical (timCounts p n s).2 := rcRead_canonical h ..

theorem timFaultClear_canonical (h : Canonical s) (p first n v) : Canonical (timFaultClear p first n v s) :=
  foldl_canonical h (fun _ _ h => ite_canonical (modChan_canonical h ..) h) _

theorem statPut_canonical (h : Canonical s) (p k o v) : Canonical (statPut p k o v s) := by
  unfold statPut
  split
  · exact stepIn_canonical h (execStatStart_canonical h ..)
  · exact clamped_canonical (modStat_canonical h ..) ..
  · exact clamped_canonical (modStat_canonical h ..) ..
  · exact h

theorem intRead_canonical (h : Canonical s) (p u o) : Canonical (intRead p u o s).2 := by
  unfold intRead
  dsimp only
  split <;> grind only [peek, intQueueRead_canonical, rcRead_canonical]

theorem intUnitPut_canonical (h : Canonical s) (p u o v) : Canonical (intUnitPut p u o v s) := by
  unfold intUnitPut
  split
  · exact stepIn_canonical h (execIntControlWrite_canonical h ..)
  · exact modUnit_canonical h ..
  · exact h

theorem frRead_canonical (h : Canonical s) (p o) : Canonical (frRead p o s).2 := by
  unfold frRead
  dsimp only
  split
  · exact h
  · split <;> grind only [peek, rc32_canonical]

theorem frControl_canonical (h : Canonical s) (p v) : Canonical (frControl p v s) := by
  grind [frControl, execFrArm_canonical, execFrDisarm_canonical, execFrTrigger_canonical, execMissedClr_canonical, stepIn_canonical]

theorem frPutReg_canonical (h : Canonical s) (p o v) : Canonical (frPutReg p o v s) := by
  unfold frPutReg
  split
  · exact modFr_canonical h ..
  · split <;> grind only [frControl_canonical, modFr_canonical, clamped_canonical, stepIn_canonical, execFrSoftwareWrite_canonical]

theorem histPutReg_canonical (h : Canonical s) (p x v) : Canonical (histPutReg p x v s) :=
  clamped_canonical (ite_canonical (modPerf_canonical (modPerf_canonical h ..) ..) (modPerf_canonical h ..)) ..

theorem sampleControlPut_canonical (h : Canonical s) (p v) : Canonical (sampleControlPut p v s) :=
  clamped_canonical (modPerf_canonical h ..) ..

theorem sampleRead_canonical (h : Canonical s) (p w) : Canonical (sampleRead p w s).2 := by
  grind [sampleRead, modPerf_canonical, peek_canonical]

theorem perfRead_canonical (h : Canonical s) (p o) : Canonical (perfRead p o s).2 := by
  unfold perfRead
  dsimp only
  repeat' split
  all_goals grind only [peek, sampleRead_canonical, rc32_canonical]

theorem ovfClear_canonical (h : Canonical s) (p v) : Canonical (ovfClear p v s) := modPerf_canonical h ..

theorem perfControlPut_canonical (h : Canonical s) (p v) : Canonical (perfControlPut p v s) := by
  have hput := fun f => clamped_canonical (modPerf_canonical h p f) p
  exact ite_canonical (snapshot_canonical (hput ..) p) (hput ..)

theorem perfSelReg_canonical (h : Canonical s) (p n v) : Canonical (perfSelReg p n v s) := perfSelPut_canonical h ..

theorem perfPutReg_canonical (h : Canonical s) (p o v) : Canonical (perfPutReg p o v s) := by
  unfold perfPutReg
  repeat' split
  all_goals grind only [perfSelReg_canonical, histPutReg_canonical, perfControlPut_canonical, ovfClear_canonical, modPerf_canonical,
    clamped_canonical, sampleControlPut_canonical]

/-! ### Sys2Proof/Machine/RegDist.lean -/
theorem identRead_canonical (h : Canonical s) (off) : Canonical (identRead off s).2 := by
  unfold identRead
  dsimp only
  split <;> grind only [peek, mapRead_canonical]

theorem refRead_canonical (h : Canonical s) (off) : Canonical (refRead off s).2 := by
  unfold refRead
  dsimp only
  repeat' split
  all_goals grind only [peek, rcRead_canonical]

theorem refsRead_canonical (h : Canonical s) (off) : Canonical (refsRead off s).2 := by
  grind [refsRead, peek_canonical, refRead_canonical]

theorem memRead_canonical (h : Canonical s) (off) : Canonical (memRead off s).2 := by
  unfold memRead
  dsimp only
  repeat' split
  all_goals grind only [peek, rcRead_canonical]

theorem postRead_canonical (h : Canonical s) (off) : Canonical (postRead off s).2 := by
  unfold postRead
  dsimp only
  repeat' split
  all_goals grind only [peek, modFabric_canonical, rc32_canonical]

theorem distPortRead_canonical (h : Canonical s) (i o) : Canonical (distPortRead i o s).2 := by
  unfold distPortRead
  dsimp only
  split <;> grind only [peek, rcRead_canonical, portRead_canonical]

theorem acctRead_canonical (h : Canonical s) (k) : Canonical (acctRead k s).2 := by
  unfold acctRead
  dsimp only
  split <;> grind only [peek, rcRead_canonical]

theorem sliceRead_canonical (h : Canonical s) (off) : Canonical (sliceRead off s).2 := by
  grind [sliceRead, peek_canonical, acctRead_canonical]

theorem ledgerEntryTake_canonical (h : Canonical s) : Canonical (ledgerEntryTake s).2 := modLed_canonical h _

theorem ledgerRead_canonical (h : Canonical s) (off) : Canonical (ledgerRead off s).2 := by
  unfold ledgerRead
  dsimp only
  repeat' split
  all_goals grind only [peek, ledgerEntryTake_canonical, modLed_canonical, rc32_canonical]

theorem chanRead_canonical (h : Canonical s) (off) : Canonical (chanRead off s).2 := by
  unfold chanRead
  dsimp only
  repeat' split
  all_goals grind only [peek, timQueueRead_canonical, timCounts_canonical, intRead_canonical]

theorem distRead_canonical (h : Canonical s) (off) : Canonical (distRead off s).2 :=
  ite_snd_canonical h <| ite_snd_canonical (identRead_canonical h _) <| ite_snd_canonical (refsRead_canonical h _) <|
  ite_snd_canonical (hsRead_canonical h ..) <| ite_snd_canonical (memRead_canonical h _) <|
  ite_snd_canonical (postRead_canonical h _) <| ite_snd_canonical (distPortRead_canonical h ..) <|
  ite_snd_canonical (chanRead_canonical h _) <| ite_snd_canonical (frRead_canonical h ..) <|
  ite_snd_canonical (perfRead_canonical h ..) <| ite_snd_canonical h <| ite_snd_canonical (sliceRead_canonical h _) <|
  ite_snd_canonical (ite_snd_canonical (ledgerRead_canonical h _) h) h

theorem distAlertClear_canonical (h : Canonical s) (v) : Canonical (distAlertClear v s) := modSv_canonical (modHs_canonical h ..) _
theorem stInitPut_canonical (h : Canonical s) (v) : Canonical (stInitPut v s) := ite_canonical (modRefs_canonical h _) h

theorem distWrite_canonical (h : Canonical s) (off v) : Canonical (distWrite off v s) := by
  refine ite_canonical h <| ite_canonical (ite_canonical (portControl_canonical h ..) h) <|
    ite_canonical (timControlPut_canonical h ..) <| ite_canonical (timFaultClear_canonical h ..) <|
    ite_canonical (statPut_canonical h ..) <| ite_canonical (intUnitPut_canonical h ..) <| ite_canonical (frPutReg_canonical h ..) <|
    ite_canonical (perfPutReg_canonical h ..) ?_
  split
  · exact distAlertClear_canonical h _
  · exact nodePosition_canonical h _
  · exact stInitPut_canonical h _
  · exact h
  · exact ite_canonical h h
  · exact h
  · exact ite_canonical h h
  · exact h

theorem distWriteMask_canonical (h : Canonical s) (off v mask) : Canonical (distWriteMask off v mask s) := distWrite_canonical h ..

/-! ### Sys2Proof/Machine/Mailboxes.lean -/
theorem doorbell_canonical (h : Canonical s) (m v) : Canonical (doorbell m v s) := modMbox_canonical h ..

theorem execMbDoorbell_canonical (h : Canonical s) (mbx v) : NextCanonical (execMbDoorbell mbx v s) :=
  onUnit_canonical (doorbell_canonical h ..)

theorem cplCons_canonical (h : Canonical s) (m v) : Canonical (cplCons m v s) :=
  foldl_canonical (clamped_canonical (modMbox_canonical h ..) ..) (fun _ _ h => cplPost_canonical h ..) _

theorem execMbCplConsWrite_canonical (h : Canonical s) (mbx v) : NextCanonical (execMbCplConsWrite mbx v s) :=
  onUnit_canonical (cplCons_canonical h ..)

theorem execMailboxUnknownOpcode_canonical (h : Canonical s) (c opcode) : NextCanonical (execMailboxUnknownOpcode c opcode s) :=
  onCmd_canonical h _ _ _ (fun _ h => done_canonical h ..)

theorem ctrCmd_canonical (h : Canonical s) (c op counter) {f : State → State} (hf : ∀ s, Canonical s → Canonical (f s)) :
    Canonical (ctrCmd c op counter s f) := by
  refine dieOnly_canonical h c op fun s h => ?_
  split
  · exact done_canonical h ..
  · exact ite_canonical (done_canonical h ..) (hf s h)

theorem ctrDone_canonical (h : Canonical s) (c op counter v) : Canonical (ctrDone c op counter v s) := doneR_canonical h ..

theorem cmdCtrAlloc_canonical (h : Canonical s) (c) : Canonical (cmdCtrAlloc c s) := by
  grind [cmdCtrAlloc, ctrAllocate_canonical, done_canonical, ctrCmd_canonical, ctrDone_canonical]

theorem execCtrAlloc_canonical (h : Canonical s) (c) : NextCanonical (execCtrAlloc c s) :=
  onCmd_canonical h _ _ _ (fun _ h => cmdCtrAlloc_canonical h _)

theorem cmdCtrAllocAt_canonical (h : Canonical s) (c counter) : Canonical (cmdCtrAllocAt c counter s) :=
  ctrCmd_canonical h _ _ _ (fun _ h => ite_canonical (done_canonical h ..) (ctrDone_canonical (ctrAllocate_canonical h _) ..))

theorem execCtrAllocAt_canonical (h : Canonical s) (c counter) : NextCanonical (execCtrAllocAt c counter s) :=
  onCmd_canonical h _ _ _ (fun _ h => cmdCtrAllocAt_canonical h ..)

theorem cmdCtrFree_canonical (h : Canonical s) (c counter) : Canonical (cmdCtrFree c counter s) :=
  ctrCmd_canonical h _ _ _ (fun _ h => ite_canonical (done_canonical (ctrFree_canonical h _) ..) (done_canonical h ..))

theorem execCtrFree_canonical (h : Canonical s) (c counter) : NextCanonical (execCtrFree c counter s) :=
  onCmd_canonical h _ _ _ (fun _ h => cmdCtrFree_canonical h ..)

theorem cmdCtrOp_canonical (h : Canonical s) (c op counter x) : Canonical (cmdCtrOp c op counter x s) := by
  grind [cmdCtrOp, ctrOp_canonical, done_canonical, ctrCmd_canonical, ctrDone_canonical]

theorem execCtrSet_canonical (h : Canonical s) (c counter v lim) : NextCanonical (execCtrSet c counter v lim s) :=
  onCmd_canonical h _ _ _ (fun _ h => cmdCtrOp_canonical h ..)

theorem execCtrRead_canonical (h : Canonical s) (c counter) : NextCanonical (execCtrRead c counter s) :=
  onCmd_canonical h _ _ _ (fun _ h => cmdCtrOp_canonical h ..)

theorem cmdKeyLoad_canonical (h : Canonical s) (c slot tagOk) : Canonical (cmdKeyLoad c slot tagOk s) :=
  ite_canonical (done_canonical h ..) (done_canonical (modHs_canonical h ..) ..)

theorem execKeyLoad_canonical (h : Canonical s) (c slot tagOk) : NextCanonical (execKeyLoad c slot tagOk s) :=
  onCmd_canonical h _ _ _ (fun _ h => cmdKeyLoad_canonical h ..)

theorem cmdKeySelect_canonical (h : Canonical s) (c slot tick) : Canonical (cmdKeySelect c slot tick s) :=
  ite_canonical (done_canonical h ..) (done_canonical (modHs_canonical h ..) ..)

theorem execKeySelect_canonical (h : Canonical s) (c slot tick) : NextCanonical (execKeySelect c slot tick s) :=
  onCmd_canonical h _ _ _ (fun _ h => cmdKeySelect_canonical h ..)

theorem execKeySelectEffect_canonical (h : Canonical s) (p) : NextCanonical (execKeySelectEffect p s) := by
  unfold execKeySelectEffect
  refine nextCanonical_next ?_
  split
  · exact ite_canonical (modHs_canonical h ..) h
  · exact h

theorem fwWrite_canonical (h : Canonical s) (data) : Canonical (fwWrite data s) := modHs_canonical h ..

theorem cmdFwWrite_canonical (h : Canonical s) (c op data dmaOk) : Canonical (cmdFwWrite c op data dmaOk s) :=
  distOnly_canonical h _ _ (fun _ h => ite_canonical (done_canonical h ..) (done_canonical (fwWrite_canonical h _) ..))

theorem execFwStage_canonical (h : Canonical s) (c data dmaOk) : NextCanonical (execFwStage c data dmaOk s) :=
  onCmd_canonical h _ _ _ (fun _ h => cmdFwWrite_canonical h ..)

theorem cmdFwActivate_canonical (h : Canonical s) (c slot) : Canonical (cmdFwActivate c slot s) :=
  distOnly_canonical h _ _ (fun _ h => ite_canonical (done_canonical h ..) (done_canonical (modHs_canonical h ..) ..))

theorem execFwActivate_canonical (h : Canonical s) (c slot) : NextCanonical (execFwActivate c slot s) :=
  onCmd_canonical h _ _ _ (fun _ h => cmdFwActivate_canonical h ..)

theorem execFwDataReceive_canonical (h : Canonical s) (env offset data) : NextCanonical (execFwDataReceive env offset data s) :=
  onMgmt_canonical h _ _ (fun _ h => ite_canonical h (fwWrite_canonical h _))

theorem execNop_canonical (h : Canonical s) (c) : NextCanonical (execNop c s) := onCmd_canonical h _ _ _ (fun _ h => done_canonical h ..)

theorem onRomCmd_canonical (h : Canonical s) (c op) {f : State → State} (hf : ∀ s, Canonical s → Canonical (f s)) :
    NextCanonical (onRomCmd c op s f) := by
  unfold onRomCmd
  split
  · exact nextCanonical_next (hf s h)
  · exact onCmd_canonical h c op _ hf

theorem cmdIdent_canonical (h : Canonical s) (c) : Canonical (cmdIdent c s) := distOnly_canonical h _ _ (fun _ h => doneR_canonical h ..)

theorem execIdent_canonical (h : Canonical s) (c) : NextCanonical (execIdent c s) :=
  onRomCmd_canonical h _ _ (fun _ h => cmdIdent_canonical h _)

theorem statusReads_canonical : ∀ (n off : Nat) {s : State}, Canonical s → Canonical (statusReads n off s).2
  | 0, _, _, h => h
  | n + 1, off, _, h => statusReads_canonical n (off + 8) (distRead_canonical h off)

theorem cmdStatus_canonical (h : Canonical s) (c offset count write wOffset wValue wMask smbus) :
    Canonical (cmdStatus c offset count write wOffset wValue wMask smbus s) := by
  refine distOnly_canonical h c _ fun s h => ite_canonical (done_canonical h ..) (ite_canonical (done_canonical h ..) ?_)
  exact doneR_canonical (statusReads_canonical _ _ (ite_canonical (distWriteMask_canonical (clamped_canonical h ..) ..)
    (clamped_canonical h ..))) ..

theorem execStatus_canonical (h : Canonical s) (c offset count write wOffset wValue wMask smbus) :
    NextCanonical (execStatus c offset count write wOffset wValue wMask smbus s) :=
  onRomCmd_canonical h _ _ (fun _ h => cmdStatus_canonical h ..)

theorem execFwRecover_canonical (h : Canonical s) (c data dmaOk) : NextCanonical (execFwRecover c data dmaOk s) :=
  onRomCmd_canonical h _ _ (fun _ h => cmdFwWrite_canonical h ..)

theorem cmdRemote_canonical (h : Canonical s) (c dst rc dmaOk) : Canonical (cmdRemote c dst rc dmaOk s) :=
  dieOnly_canonical h _ _ (fun _ h => ite_canonical (done_canonical h ..) (cmdSend_canonical h ..))

theorem execRemoteCmd_canonical (h : Canonical s) (c dst rc dmaOk) : NextCanonical (execRemoteCmd c dst rc dmaOk s) :=
  onCmd_canonical h _ _ _ (fun _ h => cmdRemote_canonical h ..)

theorem runRemote_canonical (h : Canonical s) (c rc) : Canonical (runRemote c s rc) := by
  cases rc with
  | txnBegin => exact cmdBegin_canonical h ..
  | commit => exact cmdCommit_canonical h ..
  | rollback => exact cmdRollback_canonical h ..
  | txnStatus => exact cmdTxnStatus_canonical h ..
  | turningSet => exact cmdTurningSet_canonical h ..
  | sliceMapWrite => exact cmdSliceMapWrite_canonical h ..
  | sliceWeight => exact cmdSliceWeight_canonical h ..
  | hgroupWrite => exact cmdHgroupWrite_canonical h ..
  | hgroupFree => exact cmdHgroupFree_canonical h ..
  | sgWrite => exact cmdSgWrite_canonical h ..
  | ledgerPart => exact cmdLedgerPart_canonical h ..
  | configWrite => exact cmdConfigWrite_canonical h ..
  | sliceReset => exact cmdSliceReset_canonical h ..
  | timeMap => exact cmdTimeMap_canonical h ..
  | align => exact cmdAlign_canonical h ..
  | drain => exact cmdDrain_canonical h ..
  | undrain => exact cmdUndrain_canonical h ..
  | rejoin => exact cmdRejoin_canonical h ..
  | quarantineClear => exact cmdQuarantineClear_canonical h ..
  | keyLoad => exact cmdKeyLoad_canonical h ..
  | keySelect => exact cmdKeySelect_canonical h ..
  | fwStage | fwRecover => exact cmdFwWrite_canonical h ..
  | fwActivate => exact cmdFwActivate_canonical h ..
  | ident => exact cmdIdent_canonical h ..
  | status => exact cmdStatus_canonical h ..
  | resync => exact modSg_canonical h ..
  | nop | other => exact done_canonical h ..

theorem rootsRemote_canonical (h : Canonical s) (src txn rc) : Canonical (rootsRemote s src txn rc) := by
  cases rc with
  | rollback => exact ite_canonical (rootCancel_canonical h ..) h
  | drain | undrain | rejoin | quarantineClear => exact rootsMember_canonical h ..
  | resync => exact modSg_canonical h ..
  | _ => exact h

theorem execMgmtCommandReceive_canonical (h : Canonical s) (port env tag txn rc) :
    NextCanonical (execMgmtCommandReceive port env tag txn rc s) := by
  refine onPort_canonical ?_
  have hin := mgmtIn_canonical (mgmtRelay_canonical h port env (.command tag txn rc)) .dist (some port) env
  grind [rootsRemote_canonical, runRemote_canonical, modSv_canonical]

theorem remoteDone_canonical (h : Canonical s) (env cp) : Canonical (remoteDone env cp s) := by
  unfold remoteDone
  split
  · exact h
  · refine ite_canonical h (complete_canonical ?_ ..)
    exact h

theorem distDone_canonical (h : Canonical s) (cp) : Canonical (distDone cp s) :=
  ite_canonical h (ite_canonical (complete_canonical (ite_canonical (removeRefuse_canonical h) h) ..) (ite_canonical
    (removeRefuse_canonical h) h))

theorem execMgmtCompletionReceive_canonical (h : Canonical s) (env cp) : NextCanonical (execMgmtCompletionReceive env cp s) := by
  grind [execMgmtCompletionReceive, onMgmt_canonical, remoteDone_canonical, distDone_canonical, nextCanonical_next, nextCanonical_fault]

/-! ### Sys2Proof/Machine/RegTsu.lean -/
theorem msixFlush_canonical (h : Canonical s) : Canonical (msixFlush s) :=
  foldl_canonical h (fun _ _ h => ite_canonical (irq_canonical (modDie_canonical h _) _) h) _

theorem msixPut_canonical (h : Canonical s) (k v) : Canonical (msixPut k v s) :=
  ite_canonical (modDie_canonical h _) (msixFlush_canonical (modDie_canonical h _))

theorem ctrBlock_canonical (h : Canonical s) (l k) : Canonical (ctrBlock l k s).2 := by grind [ctrBlock, peek_canonical, rc32_canonical]

theorem page0Read_canonical (h : Canonical s) (off) : Canonical (page0Read off s).2 := by
  unfold page0Read
  dsimp only
  repeat' split
  all_goals grind only [peek, ctrBlock_canonical, stLoRead_canonical, stHiRead_canonical, mapRead_canonical]

theorem regionStatus_canonical (h : Canonical s) (r) : Canonical (regionStatus r s).2 := by grind [regionStatus, rcRead_canonical]

theorem regionsRead_canonical (h : Canonical s) (off) : Canonical (regionsRead off s).2 := by
  unfold regionsRead
  dsimp only
  repeat' split
  all_goals grind only [peek, regionStatus_canonical]

theorem measureRead_canonical (h : Canonical s) (off) : Canonical (measureRead off s).2 := by
  grind [measureRead, peek_canonical, timQueueRead_canonical, timCounts_canonical, intRead_canonical, frRead_canonical]

theorem launchEventRead_canonical (h : Canonical s) (w) : Canonical (launchEventRead w s).2 := by
  grind [launchEventRead, modPlate_canonical, peek_canonical]

theorem ctrFaultRead_canonical (h : Canonical s) (w) : Canonical (ctrFaultRead w s).2 := by
  grind [ctrFaultRead, modSync_canonical, peek_canonical]

theorem sliceAcct_canonical (h : Canonical s) (k) : Canonical (sliceAcct k s).2 := by
  unfold sliceAcct
  split <;> grind only [peek, rcRead_canonical]

theorem ledgerDieRead_canonical (h : Canonical s) (k o) : Canonical (ledgerDieRead k o s).2 := by
  unfold ledgerDieRead
  dsimp only
  split <;> exact h

theorem plateRead_canonical (h : Canonical s) (off) : Canonical (plateRead off s).2 := by
  unfold plateRead
  dsimp only
  split
  · exact ctrBlock_canonical h ..
  · split <;> grind only [peek, launchEventRead_canonical]

theorem syncRead_canonical (h : Canonical s) (off) : Canonical (syncRead off s).2 := by
  unfold syncRead
  dsimp only
  repeat' split
  all_goals grind only [peek, ctrFaultRead_canonical, ctrBlock_canonical, ledgerDieRead_canonical, sliceAcct_canonical, rc32_canonical]

theorem perfDenied_canonical (h : Canonical s) : Canonical (perfDenied s) := event_canonical h ..

theorem slicePerfRead_canonical (h : Canonical s) (o) : Canonical (slicePerfRead o s).2 := by
  grind [slicePerfRead, peek_canonical, perfRead_canonical, perfDenied_canonical]

theorem slicePerfWrite_canonical (h : Canonical s) (o v) : Canonical (slicePerfWrite o v s) := by
  unfold slicePerfWrite
  dsimp only
  refine ite_canonical h ?_
  split
  · exact h
  · exact ite_canonical (perfDenied_canonical h) (ite_canonical (perfPutReg_canonical h ..) (ite_canonical (perfPutReg_canonical h ..) h))

theorem mbRead_canonical (h : Canonical s) (m o) : Canonical (mbRead m o s).2 := by
  unfold mbRead
  dsimp only
  split
  · exact h
  · split <;> exact h

theorem tsuRead_canonical (h : Canonical s) (off) : Canonical (tsuRead off s).2 :=
  ite_snd_canonical (page0Read_canonical h _) <| ite_snd_canonical (portRead_canonical h ..) <|
  ite_snd_canonical (hsRead_canonical h ..) <| ite_snd_canonical (regionsRead_canonical h _) <|
  ite_snd_canonical (measureRead_canonical h _) <| ite_snd_canonical h <| ite_snd_canonical h <|
  ite_snd_canonical (perfRead_canonical h ..) <| ite_snd_canonical (plateRead_canonical h _) <|
  ite_snd_canonical (syncRead_canonical h _) <| ite_snd_canonical (slicePerfRead_canonical h _) <|
  ite_snd_canonical (mbRead_canonical h ..) h

theorem tsuAlertClear_canonical (h : Canonical s) (v) : Canonical (tsuAlertClear v s) := modDie_canonical (modHs_canonical h ..) _

theorem lbMaskPut_canonical (h : Canonical s) (w v) : Canonical (lbMaskPut w v s) :=
  ite_canonical (modSync_canonical h _) (setLocal_canonical h ..)

theorem hsControl_canonical (h : Canonical s) (v) : Canonical (hsControl v s) := by
  grind [hsControl, execFwGo_canonical, stepIn_canonical]

theorem fwAddrPut_canonical (h : Canonical s) (v) : Canonical (fwAddrPut v s) := ite_canonical h (modHs_canonical h ..)

theorem mbWrite_canonical (h : Canonical s) (m o v) : Canonical (mbWrite m o v s) := by
  unfold mbWrite
  split
  · exact doorbell_canonical h ..
  · exact cplCons_canonical h ..
  · exact ite_canonical (modMbox_canonical h ..) h
  · exact h

theorem slicePut_canonical (h : Canonical s) (off v) : Canonical (slicePut off v s) := by
  unfold slicePut
  repeat' split
  all_goals grind only [lbMaskPut_canonical, stepIn_canonical, execLdRpWrite_canonical, execStepFaultClear_canonical, modPlate_canonical,
    modSync_canonical, modDie_canonical, msixFlush_canonical]

theorem tsuWrite_canonical (h : Canonical s) (off v) : Canonical (tsuWrite off v s) := by
  refine ite_canonical (ite_canonical (portControl_canonical h ..) h) <| ite_canonical (timControlPut_canonical h ..) <|
    ite_canonical (statPut_canonical h ..) <| ite_canonical (intUnitPut_canonical h ..) <| ite_canonical (frPutReg_canonical h ..) <|
    ite_canonical (msixPut_canonical h ..) <| ite_canonical (perfPutReg_canonical h ..) <| ite_canonical (slicePut_canonical h ..) <|
    ite_canonical (slicePerfWrite_canonical h ..) <| ite_canonical (mbWrite_canonical h ..) ?_
  split
  · exact tsuAlertClear_canonical h _
  · exact msixFlush_canonical h
  · exact stepIn_canonical h (execCrossBudgetWrite_canonical h ..)
  · exact hsControl_canonical h _
  · exact fwAddrPut_canonical h _
  · exact stepIn_canonical h (execMarkControlWrite_canonical h ..)
  · exact timFaultClear_canonical h ..
  · exact h

theorem regRead_canonical (h : Canonical s) (p off) : Canonical (regRead p off s).2 := by
  cases p with
  | tsu => exact tsuRead_canonical h off
  | dist => exact distRead_canonical h off

theorem regWrite_canonical (h : Canonical s) (p off v) : Canonical (regWrite p off v s) := by
  cases p with
  | tsu => exact tsuWrite_canonical h off v
  | dist => exact distWrite_canonical h off v

theorem showRead_canonical {r : Nat × State} (h : Canonical r.2) : Canonical (showRead r) := h

theorem execQueueRead_canonical (h : Canonical s) (p offset) : NextCanonical (execQueueRead p offset s) :=
  nextCanonical_next (regRead_canonical h p offset)

theorem execRcRegisterRead_canonical (h : Canonical s) (p offset) : NextCanonical (execRcRegisterRead p offset s) :=
  nextCanonical_next (regRead_canonical h p offset)

theorem execLedgerEntryRead_canonical (h : Canonical s) : NextCanonical (execLedgerEntryRead s) := by
  refine nextCanonical_next (showRead_canonical ?_)
  split
  · exact ledgerEntryTake_canonical h
  · exact h

theorem execSlicePagePerfAccess_canonical (h : Canonical s) (offset write v) :
    NextCanonical (execSlicePagePerfAccess offset write v s) :=
  nextCanonical_next (ite_canonical (slicePerfWrite_canonical h ..) (showRead_canonical (slicePerfRead_canonical h offset)))

theorem execAlertCauseClear_canonical (h : Canonical s) (p bits) : NextCanonical (execAlertCauseClear p bits s) := by
  cases p with
  | tsu => exact nextCanonical_next (tsuAlertClear_canonical h _)
  | dist => exact nextCanonical_next (distAlertClear_canonical h _)

theorem execRw1cWrite_canonical (h : Canonical s) (p offset bits) : NextCanonical (execRw1cWrite p offset bits s) :=
  regWrite_canonical h ..

theorem execLbMaskWrite_canonical (h : Canonical s) (word v) : NextCanonical (execLbMaskWrite word v s) :=
  onUnit_canonical (lbMaskPut_canonical h ..)

theorem execRegisterWrite_canonical (h : Canonical s) (p offset v) : NextCanonical (execRegisterWrite p offset v s) :=
  regWrite_canonical h ..

theorem execFunctionLevelReset_canonical (h : Canonical s) : NextCanonical (execFunctionLevelReset s) := h

/-! ### Sys2Proof/Machine/Hardware.lean -/
theorem allDown_canonical (h : Canonical s) : Canonical (allDown s) := foldl_canonical h (fun _ _ h => toDown_canonical h ..) _

theorem allOn_canonical (h : Canonical s) : Canonical (allOn s) :=
  foldl_canonical h (fun _ _ h => ite_canonical h (tryTrain_canonical (ite_canonical (modPort_canonical h ..) h) ..)) _

theorem execPresenceMate_canonical (h : Canonical s) : NextCanonical (execPresenceMate s) :=
  ite_canonical (modSv_canonical h _) (allOn_canonical (modSv_canonical h _))

theorem execPresenceBreak_canonical (h : Canonical s) : NextCanonical (execPresenceBreak s) :=
  ite_canonical (allDown_canonical (modSv_canonical h _)) (modHs_canonical (modSv_canonical (allDown_canonical (modSv_canonical
    h _)) _) ..)

theorem execRemoveRequest_canonical (h : Canonical s) : NextCanonical (execRemoveRequest s) :=
  ite_canonical h (removeReady_canonical (mgmt_canonical (alert_canonical (modSv_canonical h _) ..) ..))

theorem coldCheck_canonical (h : Canonical s) : Canonical (coldCheck s) :=
  ite_canonical h (ite_canonical (allDown_canonical (modSv_canonical h _)) (allOn_canonical (modSv_canonical h _)))

theorem warnCheck_canonical (h : Canonical s) : Canonical (warnCheck s) :=
  ite_canonical h (ite_canonical (alert_canonical (modSv_canonical h _) ..) (modSv_canonical h _))

theorem hotCheck_canonical (h : Canonical s) (old) : Canonical (hotCheck old s) := ite_canonical (hardEvent_canonical h ..) h
theorem tripCheck_canonical (h : Canonical s) : Canonical (tripCheck s) := ite_canonical (allDown_canonical (modSv_canonical h _)) h

theorem execJunctionTempChange_canonical (h : Canonical s) (p tj) : NextCanonical (execJunctionTempChange p tj s) := by
  unfold execJunctionTempChange
  dsimp only
  refine nextCanonical_next ?_
  split
  · exact modBase_canonical h _ rfl
  · exact tripCheck_canonical (hotCheck_canonical (warnCheck_canonical (coldCheck_canonical (modBase_canonical h _ rfl))) _)

theorem execJtagExtest_canonical (h : Canonical s) : NextCanonical (execJtagExtest s) := allDown_canonical (modSv_canonical h _)
theorem execRefclkRange_canonical (h : Canonical s) (p outside) : NextCanonical (execRefclkRange p outside s) := modTime_canonical h ..

theorem moduleSeen_canonical (h : Canonical s) (i here ready) : Canonical (moduleSeen i here ready s) :=
  ite_canonical (ite_canonical (tryTrain_canonical (modPort_canonical (ite_canonical (guardHit_canonical h ..) h) ..) ..)
    (modPort_canonical (ite_canonical (guardHit_canonical h ..) h) ..)) (ite_canonical (modPort_canonical (toDown_canonical h ..) ..) h)

theorem modulesSeen_canonical (h : Canonical s) (bus presence ready) : Canonical (modulesSeen bus presence ready s) :=
  ite_canonical h (foldl_canonical h (fun _ _ h => moduleSeen_canonical h ..) _)

theorem execModuleInterrupt_canonical (h : Canonical s) (bus presence ready) : NextCanonical (execModuleInterrupt bus presence ready s) :=
  onUnit_canonical (modulesSeen_canonical h ..)

theorem execModulePoll_canonical (h : Canonical s) (bus presence ready) : NextCanonical (execModulePoll bus presence ready s) :=
  onUnit_canonical (modulesSeen_canonical h ..)

/-! ### Sys2Proof/Machine/Dispatch.lean -/
theorem exec_canonical (h : Canonical s) (i : Instr) : NextCanonical (exec i s) := by
  cases i with
  | runStart => exact execRunStart_canonical h
  | tickEdge => exact execTickEdge_canonical h ..
  | markerReceive => exact execMarkerReceive_canonical h ..
  | loopWindowEnd => exact execLoopWindowEnd_canonical h ..
  | holdBudgetExpire => exact execHoldBudgetExpire_canonical h ..
  | mapRecordAccept => exact execMapRecordAccept_canonical h ..
  | mapEffect => exact execMapEffect_canonical h ..
  | wrapRecordSend => exact execWrapRecordSend_canonical h
  | timeMap => exact execTimeMap_canonical h ..
  | stNowLoRead => exact execStNowLoRead_canonical h ..
  | mapOriginSecRead => exact execMapOriginSecRead_canonical h ..
  | stepBoundary => exact execStepBoundary_canonical h ..
  | turningStart => exact execTurningStart_canonical h ..
  | plateBankCopy => exact execPlateBankCopy_canonical h
  | txnEffect => exact execTxnEffect_canonical h ..
  | membershipEffect => exact execMembershipEffect_canonical h ..
  | leaderChangeEffect => exact execLeaderChangeEffect_canonical h ..
  | refInputFail => exact execRefInputFail_canonical h ..
  | wtrExpire => exact execWtrExpire_canonical h ..
  | selectionRun => exact execSelectionRun_canonical h
  | voteRefReceive => exact execVoteRefReceive_canonical h ..
  | ptpMessageReceive => exact execPtpMessageReceive_canonical h ..
  | esmcPduReceive => exact execEsmcPduReceive_canonical h ..
  | refPresenceWindow => exact execRefPresenceWindow_canonical h ..
  | align => exact execAlign_canonical h ..
  | alignApply => exact execAlignApply_canonical h ..
  | portEnableWrite => exact execPortEnableWrite_canonical h ..
  | portRetrainWrite => exact execPortRetrainWrite_canonical h ..
  | signalDetect => exact execSignalDetect_canonical h ..
  | ts1Receive => exact execTs1Receive_canonical h ..
  | ts2Receive => exact execTs2Receive_canonical h ..
  | alignMapReceive => exact execAlignMapReceive_canonical h ..
  | alignDoneReceive => exact execAlignDoneReceive_canonical h ..
  | trainRetry => exact execTrainRetry_canonical h ..
  | alignTimeout => exact execAlignTimeout_canonical h ..
  | calReceive => exact execCalReceive_canonical h ..
  | timecalComplete => exact execTimecalComplete_canonical h ..
  | unplannedRetrain => exact execUnplannedRetrain_canonical h ..
  | lossOfSignal => exact execLossOfSignal_canonical h ..
  | laneFail => exact execLaneFail_canonical h ..
  | laneWarn => exact execLaneWarn_canonical h ..
  | spareTrained => exact execSpareTrained_canonical h ..
  | changeReqReceive => exact execChangeReqReceive_canonical h ..
  | changeOrderReceive => exact execChangeOrderReceive_canonical h ..
  | changeAckReceive => exact execChangeAckReceive_canonical h ..
  | swapCopyStart => exact execSwapCopyStart_canonical h ..
  | linkChangeApply => exact execLinkChangeApply_canonical h ..
  | slotTransmit => exact execSlotTransmit_canonical h ..
  | rotationStart => exact execRotationStart_canonical h ..
  | calDwellEnd => exact execCalDwellEnd_canonical h ..
  | calAgeStep => exact execCalAgeStep_canonical h ..
  | markPathCal => exact execMarkPathCal_canonical h ..
  | markCalComplete => exact execMarkCalComplete_canonical h ..
  | markEmit => exact execMarkEmit_canonical h
  | markReceive => exact execMarkReceive_canonical h ..
  | markMiss => exact execMarkMiss_canonical h ..
  | markControlWrite => exact execMarkControlWrite_canonical h ..
  | regionClockStop => exact execRegionClockStop_canonical h ..
  | regionFreqChange => exact execRegionFreqChange_canonical h ..
  | crossingWordArrive => exact execCrossingWordArrive_canonical h ..
  | crossingRelease => exact execCrossingRelease_canonical h ..
  | crossCal => exact execCrossCal_canonical h ..
  | crossBudgetWrite => exact execCrossBudgetWrite_canonical h ..
  | entryArm => exact execEntryArm_canonical h
  | regionArmReceive => exact execRegionArmReceive_canonical h ..
  | kernelLaunch => exact execKernelLaunch_canonical h ..
  | firedFrameReceive => exact execFiredFrameReceive_canonical h ..
  | conditionDecide => exact execConditionDecide_canonical h ..
  | regionReleaseReceive => exact execRegionReleaseReceive_canonical h ..
  | regionCancelReceive => exact execRegionCancelReceive_canonical h ..
  | holdExpire => exact execHoldExpire_canonical h ..
  | ctrAdd => exact execCtrAdd_canonical h ..
  | ctrSub => exact execCtrSub_canonical h ..
  | collect => exact execCollect_canonical h ..
  | timTrig => exact execTimTrig_canonical h ..
  | tsOut => exact execTsOut_canonical h ..
  | tsOutPulseEnd => exact execTsOutPulseEnd_canonical h
  | strobe => exact execStrobe_canonical h ..
  | stepClose => exact execStepClose_canonical h ..
  | stepFaultClear => exact execStepFaultClear_canonical h
  | add => exact execAdd_canonical h ..
  | sub => exact execSub_canonical h ..
  | read => exact execRead_canonical h ..
  | set core ctag counter v => exact execSet_canonical h core ctag counter v
  | unknownCounterOpc core ctag opc => exact execUnknownCounterOpc_canonical h core ctag opc
  | signal => exact execSignal_canonical h ..
  | watchReg => exact execWatchReg_canonical h ..
  | watchCancel => exact execWatchCancel_canonical h ..
  | localDefine => exact execLocalDefine_canonical h ..
  | localArrive => exact execLocalArrive_canonical h ..
  | hallArrive => exact execHallArrive_canonical h ..
  | collectStart => exact execCollectStart_canonical h ..
  | coreCreditReturn => exact execCoreCreditReturn_canonical h ..
  | signalCellReceive => exact execSignalCellReceive_canonical h ..
  | signalForward => exact execSignalForward_canonical h ..
  | signalReplyReceive => exact execSignalReplyReceive_canonical h ..
  | signalDeckleExpire => exact execSignalDeckleExpire_canonical h ..
  | replyDeckleExpire => exact execReplyDeckleExpire_canonical h ..
  | signalDeadlineExpire => exact execSignalDeadlineExpire_canonical h ..
  | barrierArriveReceive => exact execBarrierArriveReceive_canonical h ..
  | barrierDoneForward => exact execBarrierDoneForward_canonical h ..
  | barrierDoneReceive => exact execBarrierDoneReceive_canonical h ..
  | barrierDeckleExpire => exact execBarrierDeckleExpire_canonical h ..
  | barrierWaitExpire => exact execBarrierWaitExpire_canonical h ..
  | contextSwitch => exact execContextSwitch_canonical h
  | contextPortReopen => exact execContextPortReopen_canonical h
  | collectUpReceive => exact execCollectUpReceive_canonical h ..
  | postDeadlineLimit => exact execPostDeadlineLimit_canonical h ..
  | postTornLimit => exact execPostTornLimit_canonical h ..
  | collectDownReceive => exact execCollectDownReceive_canonical h ..
  | rootVoteExpire => exact execRootVoteExpire_canonical h ..
  | collectResultReceive => exact execCollectResultReceive_canonical h ..
  | collectRelease => exact execCollectRelease_canonical h ..
  | collectExpire => exact execCollectExpire_canonical h ..
  | resendReceive => exact execResendReceive_canonical h ..
  | resendWaitExpire => exact execResendWaitExpire_canonical h ..
  | resultKeepExpire => exact execResultKeepExpire_canonical h ..
  | digestReqReceive => exact execDigestReqReceive_canonical h ..
  | postDigestReceive => exact execPostDigestReceive_canonical h ..
  | digestWaitExpire => exact execDigestWaitExpire_canonical h ..
  | ledgerSubmit => exact execLedgerSubmit_canonical h ..
  | ledgerRead => exact execLedgerRead_canonical h ..
  | ledgerPause => exact execLedgerPause_canonical h ..
  | ledgerResume => exact execLedgerResume_canonical h ..
  | ledgerCancel => exact execLedgerCancel_canonical h ..
  | ledgerRelease => exact execLedgerRelease_canonical h ..
  | ledgerCellReceive => exact execLedgerCellReceive_canonical h ..
  | ledgerCommit => exact execLedgerCommit_canonical h
  | ledgerReplyReceive => exact execLedgerReplyReceive_canonical h ..
  | ledgerEventReceive => exact execLedgerEventReceive_canonical h ..
  | closeReceive => exact execCloseReceive_canonical h ..
  | samplingResultReceive => exact execSamplingResultReceive_canonical h ..
  | ledgerSampleWaitExpire => exact execLedgerSampleWaitExpire_canonical h ..
  | closeDecide => exact execCloseDecide_canonical h ..
  | closeMissed => exact execCloseMissed_canonical h ..
  | batchDeltaReceive => exact execBatchDeltaReceive_canonical h ..
  | deltaRelease => exact execDeltaRelease_canonical h ..
  | retainExpire => exact execRetainExpire_canonical h ..
  | ledgerDigestReceive => exact execLedgerDigestReceive_canonical h ..
  | ldRpWrite => exact execLdRpWrite_canonical h ..
  | sliceReset => exact execSliceReset_canonical h ..
  | sliceResetEffect => exact execSliceResetEffect_canonical h ..
  | sliceMove => exact execSliceMove_canonical h
  | reportReceive => exact execReportReceive_canonical h ..
  | proposeReceive => exact execProposeReceive_canonical h ..
  | memberReceive => exact execMemberReceive_canonical h ..
  | fenceNoticeReceive => exact execFenceNoticeReceive_canonical h ..
  | fenceWaitExpire => exact execFenceWaitExpire_canonical h ..
  | suspectClearExpire => exact execSuspectClearExpire_canonical h ..
  | probationEnd => exact execProbationEnd_canonical h ..
  | timSelfCheck => exact execTimSelfCheck_canonical h ..
  | eccUncorrectable => exact execEccUncorrectable_canonical h ..
  | watchdogExpire => exact execWatchdogExpire_canonical h ..
  | rootLossReceive => exact execRootLossReceive_canonical h ..
  | electOfferReceive => exact execElectOfferReceive_canonical h ..
  | electAcceptReceive => exact execElectAcceptReceive_canonical h ..
  | electOfferTimeout => exact execElectOfferTimeout_canonical h ..
  | triadSetReceive => exact execTriadSetReceive_canonical h ..
  | triadEffect => exact execTriadEffect_canonical h ..
  | electLimitExpire => exact execElectLimitExpire_canonical h
  | copyReceive => exact execCopyReceive_canonical h ..
  | ledgerReplayComplete => exact execLedgerReplayComplete_canonical h
  | tsuResetRelease => exact execTsuResetRelease_canonical h
  | fwGo => exact execFwGo_canonical h ..
  | bootComplete => exact execBootComplete_canonical h ..
  | truingSlow => exact execTruingSlow_canonical h
  | joinSettleExpire => exact execJoinSettleExpire_canonical h ..
  | joinReadyRepeat => exact execJoinReadyRepeat_canonical h ..
  | joinReadyReceive => exact execJoinReadyReceive_canonical h ..
  | part => exact execPart_canonical h ..
  | partBoundary => exact execPartBoundary_canonical h
  | partDrainComplete => exact execPartDrainComplete_canonical h
  | partLimitExpire => exact execPartLimitExpire_canonical h
  | partDoneReceive env node at_ cancelled => exact execPartDoneReceive_canonical h env node at_ cancelled
  | rejoin => exact execRejoin_canonical h ..
  | quarantineClear => exact execQuarantineClear_canonical h ..
  | drain => exact execDrain_canonical h ..
  | undrain => exact execUndrain_canonical h ..
  | drainComplete => exact execDrainComplete_canonical h
  | drainLimitExpire => exact execDrainLimitExpire_canonical h
  | copyReqReceive => exact execCopyReqReceive_canonical h ..
  | copyDataReceive => exact execCopyDataReceive_canonical h ..
  | imageReceive => exact execImageReceive_canonical h ..
  | powerOnReset => exact execPowerOnReset_canonical h ..
  | nodePositionWrite => exact execNodePositionWrite_canonical h ..
  | mbDoorbell => exact execMbDoorbell_canonical h ..
  | mbCplConsWrite => exact execMbCplConsWrite_canonical h ..
  | mailboxUnknownOpcode => exact execMailboxUnknownOpcode_canonical h ..
  | txnBegin => exact execTxnBegin_canonical h ..
  | commit => exact execCommit_canonical h ..
  | rollback => exact execRollback_canonical h ..
  | txnStatus => exact execTxnStatus_canonical h ..
  | plateWrite => exact execPlateWrite_canonical h ..
  | plateAppend => exact execPlateAppend_canonical h ..
  | plateLoad => exact execPlateLoad_canonical h ..
  | plateClear => exact execPlateClear_canonical h ..
  | rgroupWrite => exact execRgroupWrite_canonical h ..
  | descWrite => exact execDescWrite_canonical h ..
  | turningSet => exact execTurningSet_canonical h ..
  | sliceAssign => exact execSliceAssign_canonical h ..
  | sliceMapWrite => exact execSliceMapWrite_canonical h ..
  | sliceWeight => exact execSliceWeight_canonical h ..
  | hgroupWrite => exact execHgroupWrite_canonical h ..
  | hgroupFree => exact execHgroupFree_canonical h ..
  | sgWrite => exact execSgWrite_canonical h ..
  | ledgerPart => exact execLedgerPart_canonical h ..
  | ctxSave => exact execCtxSave_canonical h ..
  | ctxRestore => exact execCtxRestore_canonical h ..
  | configWrite => exact execConfigWrite_canonical h ..
  | ctrAlloc => exact execCtrAlloc_canonical h ..
  | ctrAllocAt => exact execCtrAllocAt_canonical h ..
  | ctrFree => exact execCtrFree_canonical h ..
  | ctrSet => exact execCtrSet_canonical h ..
  | ctrRead => exact execCtrRead_canonical h ..
  | keyLoad => exact execKeyLoad_canonical h ..
  | keySelect => exact execKeySelect_canonical h ..
  | keySelectEffect => exact execKeySelectEffect_canonical h ..
  | remoteCmd => exact execRemoteCmd_canonical h ..
  | fwStage => exact execFwStage_canonical h ..
  | fwActivate => exact execFwActivate_canonical h ..
  | nop => exact execNop_canonical h ..
  | ident => exact execIdent_canonical h ..
  | status => exact execStatus_canonical h ..
  | fwRecover => exact execFwRecover_canonical h ..
  | commitRequestReceive => exact execCommitRequestReceive_canonical h ..
  | txnJoinReceive => exact execTxnJoinReceive_canonical h ..
  | prepareReceive => exact execPrepareReceive_canonical h ..
  | preparedReceive => exact execPreparedReceive_canonical h ..
  | prepFailReceive => exact execPrepFailReceive_canonical h ..
  | prepareDeadlineExpire => exact execPrepareDeadlineExpire_canonical h ..
  | decideReceive => exact execDecideReceive_canonical h ..
  | decideWaitExpire => exact execDecideWaitExpire_canonical h ..
  | txnQueryReceive => exact execTxnQueryReceive_canonical h ..
  | mgmtCommandReceive => exact execMgmtCommandReceive_canonical h ..
  | mgmtCompletionReceive => exact execMgmtCompletionReceive_canonical h ..
  | fwDataReceive => exact execFwDataReceive_canonical h ..
  | timEvent => exact execTimEvent_canonical h ..
  | statStart => exact execStatStart_canonical h ..
  | intControlWrite => exact execIntControlWrite_canonical h ..
  | intLegacyTimeout => exact execIntLegacyTimeout_canonical h ..
  | queueRead => exact execQueueRead_canonical h ..
  | rcRegisterRead => exact execRcRegisterRead_canonical h ..
  | ledgerEntryRead => exact execLedgerEntryRead_canonical h
  | frArm => exact execFrArm_canonical h ..
  | frDisarm => exact execFrDisarm_canonical h ..
  | frTrigger => exact execFrTrigger_canonical h ..
  | missedClr => exact execMissedClr_canonical h ..
  | frRearmComplete => exact execFrRearmComplete_canonical h ..
  | frFreeze => exact execFrFreeze_canonical h ..
  | frSoftwareWrite => exact execFrSoftwareWrite_canonical h ..
  | perfSelWrite => exact execPerfSelWrite_canonical h ..
  | perfClear => exact execPerfClear_canonical h ..
  | perfFreeze => exact execPerfFreeze_canonical h ..
  | perfSnap => exact execPerfSnap_canonical h ..
  | histClear => exact execHistClear_canonical h ..
  | slicePagePerfAccess => exact execSlicePagePerfAccess_canonical h ..
  | coreReset => exact execCoreReset_canonical h ..
  | coreResetRelease => exact execCoreResetRelease_canonical h ..
  | functionLevelReset => exact execFunctionLevelReset_canonical h
  | alertCauseClear => exact execAlertCauseClear_canonical h ..
  | rw1cWrite => exact execRw1cWrite_canonical h ..
  | lbMaskWrite => exact execLbMaskWrite_canonical h ..
  | registerWrite => exact execRegisterWrite_canonical h ..
  | presenceMate => exact execPresenceMate_canonical h
  | presenceBreak => exact execPresenceBreak_canonical h
  | removeRequest => exact execRemoveRequest_canonical h
  | powerGoodLoss => exact execPowerGoodLoss_canonical h
  | junctionTempChange => exact execJunctionTempChange_canonical h ..
  | jtagExtest => exact execJtagExtest_canonical h
  | moduleInterrupt => exact execModuleInterrupt_canonical h ..
  | modulePoll => exact execModulePoll_canonical h ..
  | ledgerOpDeadlineExpire => exact execLedgerOpDeadlineExpire_canonical h ..
  | dllLock => exact execDllLock_canonical h ..
  | tsuRstNAssert => exact execTsuRstNAssert_canonical h
  | dResetNAssert => exact execDResetNAssert_canonical h
  | refclkRange => exact execRefclkRange_canonical h ..
  | spareNotTrained => exact execSpareNotTrained_canonical h ..
  | regionClockStart => exact execRegionClockStart_canonical h ..
  | markCalTemp => exact execMarkCalTemp_canonical h ..
  | ppsOutEdge => exact execPpsOutEdge_canonical h ..

/-! ### Sys2Proof/Machine/Step.lean -/

/-- A step keeps the form: on an empty queue the clocks advance, and otherwise one command runs. -/
theorem step_canonical (h : Canonical s) : NextCanonical (step s) := by
  unfold step
  split
  · exact idle_canonical h
  · refine exec_canonical ?_ _
    exact h

/-- Settles O60: no command, and no nanosecond of an empty queue, writes collect memory or a table of ports but by an operation
that keeps its form. -/
theorem everyStepKeepsTheCanonicalForm : Obligations.EveryStepKeepsTheCanonicalForm := by
  intro s t h hstep
  have hnext := step_canonical h
  rw [hstep] at hnext
  exact hnext

end

end Sys2Proof.Machine

namespace Sys2Proof.Machine

open Sys2Proof

/-! ### What a change of a link leaves (R116, R350) -/

/-- `t` keeps part `p`'s node, the distributor's service state, the counters that sending does not count, and of the ports
other than `i` all but what waits to be sent. -/
structure LinkStep (p : Part) (i : Nat) (s t : State) : Prop where
  part : PartOnly p s t
  node : (t.base p).node = (s.base p).node
  sv : t.dist.sv = s.dist.sv
  others : ∀ j, j ≠ i → t.port p j = { s.port p j with tx := (t.port p j).tx }
  ctrs : CtrsKept p s t

theorem LinkStep.refl (p : Part) (i : Nat) (s : State) : LinkStep p i s s :=
  ⟨partOnly_refl p s, rfl, rfl, fun _ _ => rfl, .refl p s⟩

theorem LinkStep.trans {p : Part} {i : Nat} {s t u : State} (h : LinkStep p i s t) (k : LinkStep p i t u) : LinkStep p i s u where
  part := partOnly_trans h.part k.part
  node := k.node.trans h.node
  sv := k.sv.trans h.sv
  others j hj := by rw [k.others j hj, h.others j hj]
  ctrs := h.ctrs.trans k.ctrs

theorem LinkStep.role {p : Part} {i : Nat} {s t : State} (h : LinkStep p i s t) : t.role = s.role := congrArg Service.role h.sv

theorem LinkStep.others_link {p : Part} {i j : Nat} {s t : State} (h : LinkStep p i s t) (hj : j ≠ i) :
    (t.port p j).link = (s.port p j).link := by rw [h.others j hj]

theorem TickKeeps.linkStep {p : Part} {s t : State} (h : TickKeeps p s t) (hsv : t.dist.sv = s.dist.sv) (hctrs : CtrsKept p s t)
    (i : Nat) : LinkStep p i s t := ⟨h.part, h.node, hsv, fun j _ => h.tx.port j, hctrs⟩

theorem modPort_linkStep (s : State) (p : Part) (i : Nat) (f : Port → Port) : LinkStep p i s (s.modPort p i f) where
  part := (modPort_sends ..).part
  node := (congrArg Base.node (modPort_sends s p i f).base :)
  sv := (congrArg (·.sv) (modPort_sends s p i f).dist :)
  others j hj := by rw [port_modPort_ne s p hj]
  ctrs := modPort_ctrs ..

theorem CountsOnly.sv_eq {p : Part} {s t : State} (h : CountsOnly p s t) : t.dist.sv = s.dist.sv := (congrArg (·.sv) h.dist :)

/-- The link alone of a port changes. -/
theorem port_modLink (s : State) (p : Part) (i : Nat) (f : Link → Link) :
    (s.modLink p i f).port p i = { s.port p i with link := f (s.port p i).link } := port_modPort ..

theorem modLink_linkStep (s : State) (p : Part) (i : Nat) (f : Link → Link) : LinkStep p i s (s.modLink p i f) := modPort_linkStep ..

/-- The leader of a link does not depend on what its state is, nor on the lanes. -/
theorem linkLeader_congr {s t : State} {p : Part} {i : Nat} (hrole : t.role = s.role) (hnode : (t.base p).node = (s.base p).node)
    (hrx : (t.port p i).link.rxNode = (s.port p i).link.rxNode) : linkLeader t p i = linkLeader s p i := by
  cases p with
  | tsu => rfl
  | dist =>
    have hpeer : peerPorts t = peerPorts s := by unfold peerPorts; rw [hrole]
    unfold linkLeader State.node neighbour
    dsimp only
    rw [hpeer, hrole, hnode, hrx]

/-! #### What opens, votes and posts leave -/

theorem modFabric_tick (s : State) (f : Fabric → Fabric) : TickKeeps .dist s (s.modFabric f) :=
  ⟨⟨rfl, rfl, rfl⟩, rfl, rfl, rfl, rfl, rfl, ⟨fun _ => rfl⟩⟩

theorem sendP2_tick (s : State) (p : Part) (i : Nat) (c : OutCell) : TickKeeps p s (sendP2 s p i c) :=
  (sendP2_sends ..).reports.tick (modPort_tx s p i fun _ => rfl)

theorem postFlush_tick (s : State) (q : Post) (fin : Bool) : TickKeeps .dist s (postFlush s q fin).1 :=
  .foldl _ (fun s _ => .foldl _ (fun _ _ => sendP2_tick ..) _ s) _ s

theorem sampleHand_tick (s : State) (q : Post) : TickKeeps .dist s (sampleHand s q) := by
  unfold sampleHand
  split
  · exact .refl _ s
  · exact ⟨⟨rfl, rfl, rfl⟩, rfl, rfl, rfl, rfl, rfl, ⟨fun _ => rfl⟩⟩

theorem postClose_tick (s : State) (q q' : Post) : TickKeeps .dist s (postClose s q q') := by
  unfold postClose keepRecord putPost
  extract_lets _ s1
  have h1 : TickKeeps .dist s s1 := (modFabric_tick ..).trans (modFabric_tick ..)
  split
  · have hfree : ∀ t, TickKeeps .dist t (postFree t q') := fun t =>
      ((modFabric_tick t _).trans (modFabric_tick ..)).trans (hist_counts ..).choice.tick
    exact (h1.trans (sampleHand_tick ..)).trans (hfree _)
  · exact h1

theorem postAdvance_tick (s : State) (q : Post) : TickKeeps .dist s (postAdvance s q) := by
  unfold postAdvance
  split
  · exact .refl _ s
  · dsimp only
    split
    · exact (postFlush_tick ..).trans (postClose_tick ..)
    · split
      · exact (postFlush_tick ..).trans (postClose_tick ..)
      · exact (postFlush_tick ..).trans (modFabric_tick ..)

/-- Breaking open messages leaves what the ports have received (R109, R263). -/
theorem breakOpen_tick (s : State) (p : Part) (port : Nat) (which : Nat → Bool) : TickKeeps p s (breakOpen s p port which) := by
  cases p with
  | tsu => exact ⟨⟨rfl, rfl, rfl⟩, rfl, rfl, rfl, rfl, rfl, ⟨fun _ => rfl⟩⟩
  | dist =>
    refine .foldl _ (fun s q => ?_) _ s
    dsimp only
    split
    · unfold postRemove
      split
      · exact .refl _ s
      · exact (modFabric_tick ..).trans (postAdvance_tick ..)
    · exact .refl _ s

/-! #### States of a link -/

theorem sendVotes_ctrs (s : State) (p : Part) {is : List Nat} (v : Vote) (h : ∀ i ∈ is, i < 2 ^ 20) :
    CtrsKept p s (sendVotes s p is v) := .foldl _ _ _ fun s i hi => sendVote_ctrs s p v (h i hi)

theorem enterElectHold_linkStep (s : State) (i : Nat) : LinkStep .dist i s (enterElectHold s) :=
  (enterElectHold_tick s).linkStep rfl (.of_cnt rfl) i

theorem rootLostCheck_linkStep (s : State) (port : Nat) : LinkStep .dist port s (rootLostCheck s port) := by
  unfold rootLostCheck
  extract_lets r s1 left s2
  have h1 : LinkStep .dist port s s1 := ⟨⟨rfl, rfl, rfl⟩, rfl, rfl, fun _ _ => rfl, .of_cnt rfl⟩
  have hports : ∀ i ∈ left.map (96 + ·), i < 2 ^ 20 := fun i hi => by
    simp [left] at hi
    omega
  have h2 : LinkStep .dist port s s2 := h1.trans ((sendVotes_votes ..).toTickKeeps.linkStep
    (congrArg (·.sv) (sendVotes_sends s1 ..).dist :) (sendVotes_ctrs _ _ _ hports) port)
  split
  · exact .refl _ _ s
  · split
    · exact .refl _ _ s
    · split
      · exact h2.trans (enterElectHold_linkStep ..)
      · exact h2

/-- `t` is `s` with port `i`'s link in state `x`: its clocks move and, out of UP and DEGRADED, the port is no time input. -/
structure EntersState (p : Part) (i : Nat) (x : LinkState) (s t : State) : Prop extends LinkStep p i s t where
  link : ∃ n o, (t.port p i).link = { (s.port p i).link with state := x, since := n, outAt := o }
  mark : x = .up ∨ x = .degraded → (t.port p i).mark = (s.port p i).mark
  usable : (s.port p i).link.state ≠ x → ¬ (x = .up ∨ x = .degraded) → (t.port p i).mark.usable = false
  die : p = .tsu → ∀ j, j ≠ i → t.port p j = s.port p j

/-- What a change of state leaves, writing its entry and telling the row distributor's roots (R116, R350, R424). -/
theorem setLink_enters (s : State) (p : Part) (i : Nat) (x : LinkState) : EntersState p i x s (setLink s p i x) := by
  unfold setLink
  extract_lets old now s1 s2
  split
  · rename_i hsame
    refine ⟨.refl p i s, ⟨(s.port p i).link.since, (s.port p i).link.outAt, ?_⟩, fun _ => rfl, fun h => absurd hsame h,
      fun _ _ _ => rfl⟩
    rw [← hsame]
  · have hport : s2.port p i = s1.port p i := (fr_counts ..).port_eq i
    have h1 : LinkStep p i s s2 := (modPort_linkStep ..).trans
      ((fr_counts ..).choice.tick.linkStep (fr_counts ..).sv_eq (fr_ctrs ..) i)
    have h2 : EntersState p i x s s2 := by
      refine ⟨h1, ?_, ?_, ?_, ?_⟩
      · rw [hport, port_modPort]
        exact ⟨_, _, rfl⟩
      · intro hx
        rw [hport, port_modPort]
        exact if_pos hx
      · intro _ hx
        rw [hport, port_modPort]
        exact congrArg Mark.usable (if_neg hx)
      · intro _ j hj
        rw [(fr_counts ..).port_eq j, port_modPort_ne s p hj]
    split
    · rename_i hdist
      obtain rfl : p = .dist := by cases p <;> simp_all
      have h3 : ((rootLostCheck s2 i).port .dist i) = { s2.port .dist i with tx := ((rootLostCheck s2 i).port .dist i).tx } :=
        (rootLostCheck_tick s2 i).tx.port i
      obtain ⟨h2s, h2l, h2m, h2u, -⟩ := h2
      refine ⟨h2s.trans (rootLostCheck_linkStep s2 i), ?_, ?_, ?_, fun h => absurd h (by decide)⟩
      · rw [h3]
        exact h2l
      · rw [h3]
        exact h2m
      · rw [h3]
        exact h2u
    · exact h2

/-- An armed port in DOWN with a signal trains from TS1 with its transmitters on (R116). -/
theorem tryTrain_trains {s : State} {p : Part} {i : Nat} (hdown : (s.port p i).link.state = .down) (harmed : portArmed s p i = true)
    (hsignal : ((s.port p i).link.lanes.any fun l => l.2.signal) = true) : let t := tryTrain s p i
    (t.port p i).link.state = .train ∧ (t.port p i).link.sendKind = 1 ∧ (t.port p i).link.txOn = true ∧
    (t.port p i).link.lanes = (s.port p i).link.lanes ∧ (t.port p i).link.enable = (s.port p i).link.enable ∧
    LinkStep p i s t ∧ (p = .tsu → ∀ j, j ≠ i → t.port p j = s.port p j) := by
  have heq : tryTrain s p i = (setLink s p i .train).modLink p i fun k => { k.restart with txOn := true } :=
    if_pos (by simp [hdown, harmed, hsignal])
  have henter := setLink_enters s p i .train
  obtain ⟨n, o, hlink⟩ := henter.link
  intro t
  simp only [t]
  rw [heq, port_modLink, hlink]
  exact ⟨rfl, rfl, rfl, rfl, rfl, henter.toLinkStep.trans (modLink_linkStep ..),
    fun hp j hj => (port_modPort_ne _ p hj _).trans (henter.die hp j hj)⟩

/-- DOWN turns transmitters and lasers off, and leaves ENABLE (R116). -/
theorem toDown_downs (s : State) (p : Part) (i : Nat) :
    ((toDown s p i).port p i).link.state = .down ∧ ((toDown s p i).port p i).link.txOn = false ∧
    ((toDown s p i).port p i).lasersOn = false ∧ ((toDown s p i).port p i).link.enable = (s.port p i).link.enable ∧
    LinkStep p i s (toDown s p i) := by
  have henter := setLink_enters s p i .down
  obtain ⟨n, o, hlink⟩ := henter.link
  have hstep : LinkStep p i s (toDown s p i) := henter.toLinkStep.trans (modPort_linkStep ..)
  unfold toDown at hstep ⊢
  rw [port_modPort, hlink]
  exact ⟨rfl, rfl, rfl, rfl, hstep⟩

/-- Training starts again from TS1; out of UP and DEGRADED the port is no time input, and the entry counts (R116). -/
theorem toTrain_trains {s : State} {p : Part} {i : Nat} (hi : i < 2 ^ 20) :
    ((toTrain s p i).port p i).link.state = .train ∧ ((toTrain s p i).port p i).link.sendKind = 1 ∧
    ((toTrain s p i).port p i).link.alignMap = none ∧
    ((s.port p i).live = true → ((toTrain s p i).port p i).mark.usable = false ∧
      ((toTrain s p i).base p).ctr .retrain i = (s.base p).ctr .retrain i + 1) ∧ PartOnly p s (toTrain s p i) := by
  have henter := setLink_enters s p i .train
  obtain ⟨n, o, hlink⟩ := henter.link
  unfold toTrain
  extract_lets live s1
  have hstep : LinkStep p i s s1 := henter.toLinkStep.trans (modLink_linkStep ..)
  have hmark : (s1.port p i).mark = ((setLink s p i .train).port p i).mark := by
    simp only [s1]
    rw [port_modLink]
  have hs1 : (s1.port p i).link.state = .train ∧ (s1.port p i).link.sendKind = 1 ∧ (s1.port p i).link.alignMap = none := by
    simp only [s1]
    rw [port_modLink, hlink]
    exact ⟨rfl, rfl, rfl⟩
  obtain ⟨hstate, hkind, hmap⟩ := hs1
  split
  · rename_i hlive
    have hcount := count_counts s1 p .retrain i { port := some i } 1
    have hne : (s.port p i).link.state ≠ .train := fun h => by simp [live, Port.live, h] at hlive
    rw [hcount.port_eq, count_ctr, hstep.ctrs.ctr _ _ (by simp [Ctr.ofSending]) hi, hmark]
    exact ⟨hstate, hkind, hmap, fun _ => ⟨henter.usable hne (by simp), rfl⟩, partOnly_trans hstep.part hcount.part⟩
  · rename_i hlive
    exact ⟨hstate, hkind, hmap, fun h => absurd h hlive, hstep.part⟩

/-! #### TIMECAL (R108, R116, R143) -/

/-- The turn announced is the leader's next; nothing else of the port changes. -/
theorem calNext_port (s : State) (p : Part) (i : Nat) : ∃ c, (calNext s p i).port p i =
    { s.port p i with link := { (s.port p i).link with calCell := c } } := by
  unfold calNext
  split
  · exact ⟨(s.port p i).link.calCell, rfl⟩
  · dsimp only
    rw [port_modLink]
    split <;> exact ⟨_, rfl⟩

theorem calNext_linkStep (s : State) (p : Part) (i : Nat) : LinkStep p i s (calNext s p i) := by
  unfold calNext
  split
  · exact .refl p i s
  · exact modLink_linkStep ..

/-- A die takes its node ID from the port that first completes training (R64). -/
def nodeLearnt (p : Part) (i : Nat) (s : State) : State :=
  match p with
  | .tsu =>
    if s.tsu.b.node.isSome then s
    else { s with tsu.b.node := some (mkNode 0 (nodeRow (s.port .tsu i).link.rxNode) (nodeRack (s.port .tsu i).link.rxNode)
      (s.port .tsu i).link.rxPort 0 0) }
  | .dist => s

theorem nodeLearnt_port (p : Part) (i j : Nat) (s : State) : (nodeLearnt p i s).port p j = s.port p j := by
  unfold nodeLearnt
  cases p with
  | tsu => dsimp only; split <;> rfl
  | dist => rfl

theorem nodeLearnt_part (p : Part) (i : Nat) (s : State) : PartOnly p s (nodeLearnt p i s) := by
  unfold nodeLearnt
  cases p with
  | tsu =>
    dsimp only
    split
    · exact ⟨rfl, rfl, rfl⟩
    · exact ⟨rfl, rfl, rfl⟩
  | dist => exact ⟨rfl, rfl, rfl⟩

/-- A port whose stream starts anew with a map (R108, R116). -/
def Port.intoTimecal (m : BitVec 6) (q : Port) : Port :=
  { q with
    link := { q.link with map := m, sendKind := 5 }
    mark := { q.mark with
      rxAnchored := false, rxSeeded := false, txSeeded := false, sendOfs := [], ret := none, goodRun := 0, badRun := 0
      noSlot0 := 0, blockOk := false, txOdd := [], mapTick := none, usable := false }
    off := {}
    tx := { q.tx with seq := 0 }
    rxSeq := 0, openMsg := [] }

theorem toTimecal_eq (s : State) (p : Part) (i : Nat) (m : BitVec 6) : toTimecal s p i m =
    calNext (nodeLearnt p i ((setLink (breakOpen s p i fun _ => true) p i .timecal).modPort p i (·.intoTimecal m))) p i := by
  cases p <;> rfl

/-- A port enters TIMECAL with the map given and SEQ at 0 (R108, R116), and a die that has none takes its node ID (R64). -/
theorem toTimecal_enters (s : State) (p : Part) (i : Nat) (m : BitVec 6) :
    ((toTimecal s p i m).port p i).link.state = .timecal ∧ ((toTimecal s p i m).port p i).link.map = m ∧
    ((toTimecal s p i m).port p i).link.sendKind = 5 ∧ ((toTimecal s p i m).port p i).tx.seq = 0 ∧
    ((toTimecal s p i m).port p i).rxSeq = 0 ∧
    (p = .tsu → s.tsu.b.node = none → (toTimecal s p i m).tsu.b.node = some (mkNode 0 (nodeRow (s.port .tsu i).link.rxNode)
      (nodeRack (s.port .tsu i).link.rxNode) (s.port .tsu i).link.rxPort 0 0)) ∧ PartOnly p s (toTimecal s p i m) := by
  have hbreak := breakOpen_tick s p i (fun _ => true)
  have henter := setLink_enters (breakOpen s p i (fun _ => true)) p i .timecal
  obtain ⟨n, o, hlink⟩ := henter.link
  rw [hbreak.tx.port i] at hlink
  rw [toTimecal_eq]
  set s1 := setLink (breakOpen s p i fun _ => true) p i .timecal with hs1
  set s2 := s1.modPort p i (·.intoTimecal m) with hs2
  have hport2 : s2.port p i = (s1.port p i).intoTimecal m := port_modPort ..
  have hstep : LinkStep p i (breakOpen s p i fun _ => true) s2 := henter.toLinkStep.trans (modPort_linkStep ..)
  obtain ⟨c, hcal⟩ := calNext_port (nodeLearnt p i s2) p i
  have hlast := calNext_linkStep (nodeLearnt p i s2) p i
  rw [hcal, nodeLearnt_port, hport2]
  unfold Port.intoTimecal
  dsimp only
  rw [hlink]
  refine ⟨rfl, rfl, rfl, rfl, rfl, ?_, partOnly_trans (partOnly_trans hbreak.part hstep.part)
    (partOnly_trans (nodeLearnt_part p i s2) hlast.part)⟩
  rintro rfl hnode
  have hnode2 : s2.tsu.b.node = none := hstep.node.trans (hbreak.node.trans hnode)
  have hlearnt : (nodeLearnt .tsu i s2).tsu.b.node = some (mkNode 0 (nodeRow (s2.port .tsu i).link.rxNode)
      (nodeRack (s2.port .tsu i).link.rxNode) (s2.port .tsu i).link.rxPort 0 0) := by
    unfold nodeLearnt
    dsimp only
    rw [if_neg (by simp [hnode2])]
  rw [hport2, Port.intoTimecal, hlink] at hlearnt
  exact hlast.node.trans hlearnt

/-! #### An alert -/

/-- An alert sets its bit, and nothing else of the Headstock (R457). -/
theorem alert_hs (s : State) (p : Part) (i : Nat) : ((s.alert p i).base p).hs =
    { (s.base p).hs with alert := (s.base p).hs.alert ||| BitVec.ofNat 64 (2 ^ i) } := by
  have htrigger : ∀ t : State, ((t.frTrigger p 4 0 0).base p).hs = (t.base p).hs := fun t => by
    rw [(frTrigger_counts ..).base]
  unfold State.alert
  extract_lets was s1 s2
  have h1 : (s1.base p).hs = { (s.base p).hs with alert := was ||| BitVec.ofNat 64 (2 ^ i) } := by
    simp only [s1]
    rw [base_modBase]
  have h2 : (s2.base p).hs = { (s.base p).hs with alert := was ||| BitVec.ofNat 64 (2 ^ i) } := by
    simp only [s2]
    split
    · rw [htrigger, h1]
    · exact h1
  cases p with
  | tsu =>
    dsimp only
    split
    · exact h2
    · rw [irq_base]
      exact h2
  | dist => exact h2

theorem alert_bit (s : State) (p : Part) {i : Nat} (hi : i < 64) : ((s.alert p i).base p).hs.alert.getLsbD i = true := by
  rw [alert_hs, BitVec.getLsbD_or, BitVec.getLsbD_ofNat, Nat.testBit_two_pow_self]
  simp [hi]

/-! ### Training (R63, R64, R116) -/

/-- A TRAIN cell with a good CRC is taken (R109). -/
theorem trainIn_of_crc {s : State} {p : Part} {i : Nat} {r : Train} {f : State → State} (hcrc : r.crcOk = true) :
    trainIn s p i r f = f s := if_pos hcrc

theorem onTrain_completes {s : State} {p : Part} {i : Nat} {r : Train} {f : State → State} {post : State → Prop}
    (hi : i < portCount p) (hcrc : r.crcOk = true) (hpost : post (f s)) :
    ∃ t, onPort p i s (fun s => trainIn s p i r f) = .next t ∧ post t :=
  onPort_completes hi (by rwa [trainIn_of_crc hcrc])

/-- A link in another state, as the training commands test it. -/
theorem state_bne_self {k : Link} {x : LinkState} (h : k.state = x) : ¬ ((k.state != x) = true) := by
  simp [h]

theorem onLane_completes {s : State} {p : Part} {i l : Nat} {f : State → State} {post : State → Prop} (hi : i < portCount p)
    (hl : l < 3) (hpost : post (f s)) : ∃ t, onLane p i l s f = .next t ∧ post t := by
  unfold onLane
  rw [if_neg (by omega), if_pos hl]
  exact ⟨f s, rfl, hpost⟩

/-- ENABLE and what makes a port of a part usable do not depend on its lanes. -/
theorem portArmed_modLanes (s : State) (p : Part) (i : Nat) (f : Tab Lane → Tab Lane) :
    portArmed (s.modLink p i fun k => { k with lanes := f k.lanes }) p i = portArmed s p i := by
  cases p <;> simp only [portArmed, port_modLink] <;> rfl

theorem any_of_tget {l : Tab Lane} {k : Nat} (h : (tget {} l k).signal = true) : (l.any fun e => e.2.signal) = true := by
  induction l with
  | nil => simp [tget] at h
  | cons e l ih =>
    obtain ⟨j, x⟩ := e
    rw [List.any_cons]
    by_cases hj : k = j
    · simp_all [tget]
    · simp_all [tget]

/-- A signal on a lane of an armed port in DOWN (R98, R116). -/
theorem signalDetect_trains {p : Part} {i lane : Nat} {s : State} (hi : i < portCount p) (hlane : lane < 3)
    (hdown : (s.port p i).link.state = .down) (harmed : portArmed s p i = true) :
    Completes (.signalDetect p i lane) s fun t =>
      (t.port p i).link.state = .train ∧ (t.port p i).link.sendKind = 1 ∧ (t.port p i).link.txOn = true ∧
      (laneOf (t.port p i) lane).signal = true ∧ (∀ j, j ≠ i → (t.port p j).link = (s.port p j).link) ∧ PartOnly p s t := by
  set s1 := s.modLink p i fun k => { k with lanes := tmod {} k.lanes lane fun l => { l with signal := true } } with hs1
  have hlink : (s1.port p i).link = { (s.port p i).link with
      lanes := tmod {} (s.port p i).link.lanes lane fun l => { l with signal := true } } := by
    rw [hs1, port_modLink]
  have hsignal : (laneOf (s1.port p i) lane).signal = true := by
    unfold laneOf
    rw [hlink, tget_tmod_eq]
  have hdown1 : (s1.port p i).link.state = .down := by rw [hlink]; exact hdown
  have harmed1 : portArmed s1 p i = true := by rw [hs1, portArmed_modLanes s p i (tmod {} · lane _)]; exact harmed
  have hany : ((s1.port p i).link.lanes.any fun l => l.2.signal) = true := any_of_tget hsignal
  obtain ⟨hstate, hkind, htx, hlanes, -, hstep, -⟩ := tryTrain_trains hdown1 harmed1 hany
  have hfirst : LinkStep p i s s1 := modLink_linkStep ..
  unfold Completes exec execSignalDetect
  refine onLane_completes hi hlane ?_
  refine ⟨hstate, hkind, htx, ?_, fun j hj => (hfirst.trans hstep).others_link hj, (hfirst.trans hstep).part⟩
  unfold laneOf at hsignal ⊢
  rw [hlanes]
  exact hsignal

/-- ENABLE set at a die's port with a signal (R116). -/
theorem portEnable_trains {i : Nat} {s : State} (hi : i < 2) (hreset : s.tsu.die.inReset = false)
    (hdown : (s.port .tsu i).link.state = .down) (hsignal : ((s.port .tsu i).link.lanes.any fun l => l.2.signal) = true) :
    Completes (.portEnableWrite .tsu i true) s fun t =>
      (t.port .tsu i).link.enable = true ∧ (t.port .tsu i).link.state = .train ∧ (t.port .tsu i).link.sendKind = 1 ∧
      (∀ j, j ≠ i → t.port .tsu j = s.port .tsu j) ∧ TsuOnly s t := by
  set s1 := s.modPort .tsu i fun q => { q with link := { q.link with enable := true }, lasersOn := true && q.link.optical } with hs1
  have hport : s1.port .tsu i = { s.port .tsu i with
      link := { (s.port .tsu i).link with enable := true }, lasersOn := true && (s.port .tsu i).link.optical } := port_modPort ..
  have harmed : portArmed s1 .tsu i = true := by
    unfold portArmed
    rw [hport]
    show (true && !s.tsu.die.inReset) = true
    rw [hreset]
    rfl
  obtain ⟨hstate, hkind, -, -, henable, hstep, hothers⟩ :=
    tryTrain_trains (by rw [hport]; exact hdown) harmed (by rw [hport]; exact hsignal)
  refine onPort_completes hi ?_
  rw [if_neg (by simp), if_pos rfl, ← hs1]
  refine ⟨henable.trans (by rw [hport]), hstate, hkind, fun j hj => (hothers rfl j hj).trans (port_modPort_ne s .tsu hj _),
    partOnly_trans (modPort_linkStep ..).part hstep.part⟩

/-- ENABLE cleared (R116). -/
theorem portDisable_downs {p : Part} {i : Nat} {s : State} (hi : i < portCount p) (huse : p = .dist → portUse s.role i ≠ 0) :
    Completes (.portEnableWrite p i false) s fun t =>
      (t.port p i).link.enable = false ∧ (t.port p i).link.state = .down ∧ (t.port p i).link.txOn = false ∧
      (t.port p i).lasersOn = false ∧ (∀ j, j ≠ i → (t.port p j).link = (s.port p j).link) ∧ PartOnly p s t := by
  set s1 := s.modPort p i fun q => { q with link := { q.link with enable := false }, lasersOn := false && q.link.optical } with hs1
  obtain ⟨hstate, htx, hlaser, henable, hstep⟩ := toDown_downs s1 p i
  have hfirst : LinkStep p i s s1 := modPort_linkStep ..
  have hused : ¬ ((p == .dist && portUse s.role i == 0) = true) := by
    cases p with
    | tsu => simp
    | dist => simp [huse rfl]
  refine onPort_completes hi ?_
  rw [if_neg hused]
  refine ⟨henable.trans ?_, hstate, htx, hlaser, fun j hj => (hfirst.trans hstep).others_link hj, (hfirst.trans hstep).part⟩
  rw [hs1, port_modPort]

/-- TS1 is answered with TS2 (R116, R127). -/
theorem ts1_answered {p : Part} {i : Nat} {r : Train} {s : State} (hi : i < portCount p) (hcrc : r.crcOk = true)
    (hstate : (s.port p i).link.state = .train) :
    Completes (.ts1Receive p i r) s fun t =>
      (t.port p i).link.sendKind = 2 ∧ (t.port p i).link.nbrGood = r.good ∧
      (r.cap.getLsbD 2 = true → (t.port p i).link.ts2Rx = 0) ∧ (t.port p i).link.state = .train ∧
      (r.phys ≠ 3 → (laneOf (t.port p i) r.phys.toNat).lock = true) ∧ (∀ j, j ≠ i → t.port p j = s.port p j) ∧
      t = s.modBase p fun b => { b with ports := (t.base p).ports } := by
  refine onTrain_completes hi hcrc ?_
  rw [if_neg (state_bne_self hstate)]
  unfold trainSeen laneOf
  rw [port_modLink, port_modLink]
  refine ⟨rfl, rfl, fun hcap => if_pos hcap, hstate, fun hphys => ?_, fun j hj => ?_, ?_⟩
  · dsimp only
    rw [if_neg hphys, tget_tmod_eq]
  · exact (port_modPort_ne _ p hj _).trans (port_modPort_ne s p hj _)
  · cases p <;> rfl

/-- The neighbour of a port, as its TS2 names it. -/
def neighbourSeen (s : State) (p : Part) (i : Nat) (r : Train) : State :=
  (trainSeen s p i r).modLink p i fun k => { k with rxNode := r.node, rxPort := r.port }

theorem neighbourSeen_linkStep (s : State) (p : Part) (i : Nat) (r : Train) : LinkStep p i s (neighbourSeen s p i r) :=
  (modLink_linkStep ..).trans (modLink_linkStep ..)

theorem neighbourSeen_link (s : State) (p : Part) (i : Nat) (r : Train) : ∃ lanes optical, ((neighbourSeen s p i r).port p i).link =
    { (s.port p i).link with lanes, optical, nbrGood := r.good, rxNode := r.node, rxPort := r.port } := by
  unfold neighbourSeen trainSeen
  rw [port_modLink, port_modLink]
  exact ⟨_, _, rfl⟩

/-- What is expected of a neighbour does not depend on what the port saw of it. -/
theorem nbrOk_neighbourSeen (s : State) (p : Part) (i : Nat) (r : Train) (n : Node) (q : Nat) :
    nbrOk (neighbourSeen s p i r) p i n q = nbrOk s p i n q := by
  cases p <;> rfl

/-- The sixteenth TS2 of a matching neighbour (R63, R116). -/
theorem ts2_aligns {p : Part} {i : Nat} {r : Train} {s : State} (hi : i < portCount p) (hcrc : r.crcOk = true)
    (hstate : (s.port p i).link.state = .train) (hnbr : nbrOk s p i r.node r.port = true) (hcount : (s.port p i).link.ts2Rx = 15)
    (hkind : (s.port p i).link.sendKind = 2) (hrange : (s.base p).t.refclkRange = false) :
    Completes (.ts2Receive p i r) s fun t =>
      (t.port p i).link.state = .align ∧ (t.port p i).link.rxNode = r.node ∧ (t.port p i).link.rxPort = r.port ∧
      (linkLeader (s.modPort p i fun q => { q with link := { q.link with rxNode := r.node } }) p i = true →
        (t.port p i).link.alignMap = some (mapOf (goodLanes (t.port p i).link)) ∧ (t.port p i).link.sendKind = 3) ∧
      (∀ j, j ≠ i → (t.port p j).link = (s.port p j).link) ∧ PartOnly p s t := by
  set s1 := neighbourSeen s p i r with hs1
  set s2 := s1.modLink p i fun k => { k with ts2Rx := k.ts2Rx + 1, wiring := false } with hs2
  obtain ⟨lanes, optical, hlink1⟩ := neighbourSeen_link s p i r
  have hlink2 : (s2.port p i).link = { (s.port p i).link with
      lanes, optical, nbrGood := r.good, rxNode := r.node, rxPort := r.port, ts2Rx := 16, wiring := false } := by
    rw [hs2, port_modLink, hs1, hlink1]
    dsimp only
    rw [hcount]
  have hstep2 : LinkStep p i s s2 := (neighbourSeen_linkStep ..).trans (modLink_linkStep ..)
  have hrange2 : (s2.base p).t.refclkRange = false := by cases p <;> exact hrange
  have henter := setLink_enters s2 p i .align
  obtain ⟨n, o, hlink3⟩ := henter.link
  rw [hlink2] at hlink3
  have hstep3 : LinkStep p i s (setLink s2 p i .align) := hstep2.trans henter.toLinkStep
  have hleader : linkLeader (setLink s2 p i .align) p i =
      linkLeader (s.modPort p i fun q => { q with link := { q.link with rxNode := r.node } }) p i := by
    refine linkLeader_congr ?_ ?_ ?_
    · exact hstep3.role.trans (modPort_linkStep s p i _).role.symm
    · exact hstep3.node.trans (modPort_linkStep s p i _).node.symm
    · rw [hlink3, port_modPort]
  refine onTrain_completes hi hcrc ?_
  rw [if_neg (state_bne_self hstate)]
  dsimp only
  rw [← neighbourSeen, ← hs1, if_neg (by rw [hs1, nbrOk_neighbourSeen, hnbr]; decide), ← hs2,
    if_neg (by rw [hlink2, hrange2]; simp [hkind])]
  split
  · rename_i hlead
    rw [port_modLink, hlink3]
    refine ⟨rfl, rfl, rfl, fun _ => ⟨rfl, rfl⟩, fun j hj => ?_, ?_⟩
    · exact (hstep3.trans (modLink_linkStep ..)).others_link hj
    · exact (hstep3.trans (modLink_linkStep ..)).part
  · rename_i hlead
    rw [port_modLink, hlink3]
    refine ⟨rfl, rfl, rfl, fun h => absurd (hleader.trans h) hlead, fun j hj => ?_, ?_⟩
    · exact (hstep3.trans (modLink_linkStep ..)).others_link hj
    · exact (hstep3.trans (modLink_linkStep ..)).part

/-- The alert of a wiring fault (R63). -/
def wiringAlert : Part → Nat
  | .tsu => 2
  | .dist => 0

/-- A neighbour that does not match is a wiring fault (R63). -/
theorem ts2_wiring {p : Part} {i : Nat} {r : Train} {s : State} (hi : i < portCount p) (hcrc : r.crcOk = true)
    (hstate : (s.port p i).link.state = .train) (hnbr : nbrOk s p i r.node r.port = false) :
    Completes (.ts2Receive p i r) s fun t =>
      (t.port p i).link.state = .train ∧ (t.port p i).link.wiring = true ∧ (t.port p i).link.ts2Rx = 0 ∧
      ((s.port p i).link.wiring = false → (t.base p).hs.alert.getLsbD (wiringAlert p) = true) ∧
      PartOnly p s t := by
  set s1 := neighbourSeen s p i r with hs1
  set s2 := s1.modLink p i fun k => { k with wiring := true, ts2Rx := 0 } with hs2
  obtain ⟨lanes, optical, hlink1⟩ := neighbourSeen_link s p i r
  have hwiring : (s1.port p i).link.wiring = (s.port p i).link.wiring := by rw [hs1, hlink1]
  have hlink2 : (s2.port p i).link.state = .train ∧ (s2.port p i).link.wiring = true ∧ (s2.port p i).link.ts2Rx = 0 := by
    rw [hs2, port_modLink, hs1, hlink1]
    exact ⟨hstate, rfl, rfl⟩
  obtain ⟨hstate2, hwiring2, hrx2⟩ := hlink2
  have hstep2 : LinkStep p i s s2 := (neighbourSeen_linkStep ..).trans (modLink_linkStep ..)
  have halert := alert_choice s2 p (wiringAlert p)
  refine onTrain_completes hi hcrc ?_
  rw [if_neg (state_bne_self hstate)]
  dsimp only
  rw [← neighbourSeen, ← hs1, if_pos (by rw [hs1, nbrOk_neighbourSeen, hnbr]; rfl), ← hs2]
  split
  · rename_i hwas
    exact ⟨hstate2, hwiring2, hrx2, fun h => absurd (hwiring.symm.trans hwas) (by simp [h]), hstep2.part⟩
  · have hbit : ((s2.alert p (wiringAlert p)).base p).hs.alert.getLsbD (wiringAlert p) = true :=
      alert_bit _ _ (by cases p <;> decide)
    change ((s2.alert p (wiringAlert p)).port p i).link.state = _ ∧ _
    rw [← halert.port_eq] at hstate2 hwiring2 hrx2
    exact ⟨hstate2, hwiring2, hrx2, fun _ => hbit, partOnly_trans hstep2.part halert.part⟩

/-- The link of a port after a TRAIN cell in ALIGN or TIMECAL. -/
theorem trainSeen_link (s : State) (p : Part) (i : Nat) (r : Train) : ∃ lanes optical, ((trainSeen s p i r).port p i).link =
    { (s.port p i).link with lanes, optical, nbrGood := r.good } := by
  unfold trainSeen
  rw [port_modLink]
  exact ⟨_, _, rfl⟩

/-- The follower takes the leader's map and enters TIMECAL (R116). -/
theorem alignMap_entersTimecal {p : Part} {i : Nat} {r : Train} {s : State} (hi : i < portCount p) (hcrc : r.crcOk = true)
    (hstate : (s.port p i).link.state = .align) (hleader : linkLeader s p i = false) :
    Completes (.alignMapReceive p i r) s fun t =>
      (t.port p i).link.state = .timecal ∧ (t.port p i).link.map = r.map ∧ (t.port p i).link.sendKind = 4 ∧
      (t.port p i).tx.seq = 0 ∧ (t.port p i).rxSeq = 0 ∧
      (p = .tsu → s.tsu.b.node = none → t.tsu.b.node = some (mkNode 0 (nodeRow (s.port .tsu i).link.rxNode)
        (nodeRack (s.port .tsu i).link.rxNode) (s.port .tsu i).link.rxPort 0 0)) ∧ PartOnly p s t := by
  set s1 := (trainSeen s p i r).modLink p i fun k => { k with alignMap := some r.map } with hs1
  have hfirst : LinkStep p i s s1 := (modLink_linkStep ..).trans (modLink_linkStep ..)
  obtain ⟨lanes, optical, hlink⟩ := trainSeen_link s p i r
  have hrx : (s1.port p i).link.rxNode = (s.port p i).link.rxNode ∧ (s1.port p i).link.rxPort = (s.port p i).link.rxPort := by
    rw [hs1, port_modLink, hlink]
    exact ⟨rfl, rfl⟩
  obtain ⟨hstate1, hmap, -, hseq, hrxSeq, hnode, hpart⟩ := toTimecal_enters s1 p i r.map
  refine onTrain_completes hi hcrc ?_
  rw [if_neg (by simp [hstate, hleader])]
  dsimp only
  rw [← hs1, port_modLink]
  refine ⟨hstate1, hmap, rfl, hseq, hrxSeq, ?_, partOnly_trans hfirst.part (partOnly_trans hpart (modLink_linkStep ..).part)⟩
  rintro rfl hnone
  obtain ⟨hrxNode, hrxPort⟩ := hrx
  rw [hrxNode, hrxPort] at hnode
  exact (modLink_linkStep (toTimecal s1 .tsu i r.map) .tsu i _).node.trans (hnode rfl (hfirst.node.trans hnone))

/-- The leader enters TIMECAL on the answer to its map (R116). -/
theorem alignDone_entersTimecal {p : Part} {i : Nat} {r : Train} {s : State} (hi : i < portCount p) (hcrc : r.crcOk = true)
    (hstate : (s.port p i).link.state = .align) (hleader : linkLeader s p i = true)
    (hmap : (s.port p i).link.alignMap = some r.map) :
    Completes (.alignDoneReceive p i r) s fun t =>
      (t.port p i).link.state = .timecal ∧ (t.port p i).link.map = r.map ∧ (t.port p i).link.sendKind = 5 ∧
      (t.port p i).tx.seq = 0 ∧ (t.port p i).rxSeq = 0 ∧ PartOnly p s t := by
  obtain ⟨hstate1, hmap1, hkind, hseq, hrxSeq, -, hpart⟩ := toTimecal_enters (trainSeen s p i r) p i r.map
  refine onTrain_completes hi hcrc ?_
  rw [if_neg (by simp [hstate, hleader, hmap])]
  exact ⟨hstate1, hmap1, hkind, hseq, hrxSeq, partOnly_trans (modLink_linkStep ..).part hpart⟩

/-- CAL announces the lane that leaves (R143). -/
theorem cal_announces {p : Part} {i : Nat} {r : Train} {s : State} (hi : i < portCount p) (hcrc : r.crcOk = true)
    (hstate : (s.port p i).link.state = .timecal) (hleader : linkLeader s p i = false) :
    Completes (.calReceive p i r) s fun t =>
      (t.port p i).link.calCell = some { kind := 0, map := r.map, tick := r.ntick, id := 0 } ∧
      (∀ j, j ≠ i → t.port p j = s.port p j) ∧ t = s.modBase p fun b => { b with ports := (t.base p).ports } := by
  refine onTrain_completes hi hcrc ?_
  rw [if_neg (by simp [hstate, hleader])]
  refine ⟨congrArg (·.link.calCell) (port_modLink ..), fun j hj => ?_, ?_⟩
  · exact (port_modPort_ne _ p hj _).trans (port_modPort_ne s p hj _)
  · cases p <;> rfl

/-- A port that has calibrated, before its state is settled (R45, R116). -/
def Port.calibrated (q : Port) : Port :=
  { q with
    link := { q.link with map := (q.link.alignMap).getD q.link.map, sendKind := 6, calCell := none }
    mark := { q.mark with rxSeeded := true, txSeeded := false, goodRun := 0, badRun := 0 } }

/-- Complete calibration brings the link up (R45, R116). -/
theorem timecal_completes {p : Part} {i : Nat} {s : State} (hi : i < portCount p) (hstate : (s.port p i).link.state = .timecal)
    (hlanes : calLanes (s.port p i).link = []) (hgood : 2 ≤ (goodLanes (s.port p i).link).length)
    (hrange : (s.port p i).link.range = false) :
    Completes (.timecalComplete p i) s fun t =>
      (t.port p i).link.map = ((s.port p i).link.alignMap).getD (s.port p i).link.map ∧
      (t.port p i).link.state = (if width2 (t.port p i).link.map && (s.port p i).link.spareHere && (s.port p i).link.spareThere
        && mapSp (t.port p i).link.map != 3 then .up else .degraded) ∧
      (t.port p i).mark.rxSeeded = true ∧ (t.port p i).mark.txSeeded = false ∧ PartOnly p s t := by
  set s1 := s.modPort p i fun q => { q with
    link := { q.link with map := ((s.port p i).link.alignMap).getD (s.port p i).link.map, sendKind := 6, calCell := none }
    mark := { q.mark with rxSeeded := true, txSeeded := false, goodRun := 0, badRun := 0 } } with hs1
  have hport1 : s1.port p i = (s.port p i).calibrated := port_modPort ..
  set x := liveState (s1.port p i).link with hx
  have hlive : x = .up ∨ x = .degraded := by
    rw [hx, liveState]
    split
    · exact .inl rfl
    · exact .inr rfl
  have henter := setLink_enters s1 p i x
  obtain ⟨n, o, hlink2⟩ := henter.link
  set s3 := renewAge (setLink s1 p i x) p i with hs3
  have hlink3 : ∃ age, (s3.port p i).link = { (s.port p i).calibrated.link with state := x, since := n, outAt := o, calAge := age } := by
    rw [hs3, renewAge, port_modLink, hlink2, hport1]
    exact ⟨_, rfl⟩
  have hmark3 : (s3.port p i).mark = (s.port p i).calibrated.mark := by
    rw [hs3, renewAge, port_modLink, ← hport1]
    exact henter.mark hlive
  have hage : PartOnly p (setLink s1 p i x) s3 := by
    rw [hs3, renewAge]
    exact (modLink_linkStep ..).part
  have hpart3 : PartOnly p s s3 := partOnly_trans (modPort_linkStep s p i _).part (partOnly_trans henter.part hage)
  have settled : ∀ t, TickKeeps p s3 t →
      (t.port p i).link.map = ((s.port p i).link.alignMap).getD (s.port p i).link.map ∧
      (t.port p i).link.state = (if width2 (t.port p i).link.map && (s.port p i).link.spareHere && (s.port p i).link.spareThere
        && mapSp (t.port p i).link.map != 3 then .up else .degraded) ∧
      (t.port p i).mark.rxSeeded = true ∧ (t.port p i).mark.txSeeded = false ∧ PartOnly p s t := by
    intro t ht
    obtain ⟨age, hlink3⟩ := hlink3
    rw [ht.tx.port i]
    dsimp only
    rw [hlink3, hmark3, hx, hport1]
    refine ⟨rfl, ?_, rfl, rfl, partOnly_trans hpart3 ht.part⟩
    unfold liveState spareOk Port.calibrated
    dsimp only
    rw [Bool.and_assoc, Bool.and_assoc, Bool.and_assoc]
  have hwait : ¬ ((s.port p i).link.state != .timecal || !(calLanes (s.port p i).link).isEmpty ||
      (decide ((goodLanes (s.port p i).link).length ≤ 1) && decide (since s p (s.port p i).link.since < 262144))) = true := by
    simp [hstate, hlanes]
    omega
  unfold Completes exec execTimecalComplete
  refine onPort_completes hi ?_
  dsimp only
  rw [if_neg hwait, if_neg (by simp [hrange]), ← hs1, ← hx, ← hs3]
  split
  · rename_i hpeer
    obtain rfl : p = .dist := by cases p <;> simp_all
    exact settled _ (copyAsk_votes s3).toTickKeeps
  · exact settled _ (.refl p s3)

/-- A round trip beyond R70 keeps the port in TIMECAL (R70). -/
theorem timecal_range {i : Nat} {s : State} (hi : i < 128) (hstate : (s.port .dist i).link.state = .timecal)
    (hlanes : calLanes (s.port .dist i).link = []) (hgood : 2 ≤ (goodLanes (s.port .dist i).link).length)
    (hrange : (s.port .dist i).link.range = true) :
    Completes (.timecalComplete .dist i) s fun t =>
      (t.port .dist i).link.state = .timecal ∧ t.dist.b.hs.alert.getLsbD 1 = true ∧ DistOnly s t := by
  have hwait : ¬ ((s.port .dist i).link.state != .timecal || !(calLanes (s.port .dist i).link).isEmpty ||
      (decide ((goodLanes (s.port .dist i).link).length ≤ 1) && decide (since s .dist (s.port .dist i).link.since < 262144))) = true := by
    simp [hstate, hlanes]
    omega
  have halert := alert_choice s .dist 1
  unfold Completes exec execTimecalComplete
  refine onPort_completes hi ?_
  dsimp only
  rw [if_neg hwait, if_pos hrange, halert.port_eq]
  exact ⟨hstate, alert_bit s .dist (by decide), halert.part⟩

/-! ### What ends or restarts a link (R116) -/

theorem port_lt {p : Part} {i : Nat} (hi : i < portCount p) : i < 2 ^ 20 := by
  cases p <;> simp only [portCount] at hi <;> omega

/-- No block lock for 10 ms: training starts again (R116). -/
theorem trainRetry_restarts {p : Part} {i : Nat} {s : State} (hi : i < portCount p) (hstate : (s.port p i).link.state = .train)
    (hlock : ((s.port p i).link.lanes.any fun l => l.2.lock) = false)
    (hsince : 10000000 ≤ ((s.base p).perf.cycles - (s.port p i).link.since).toNat) :
    Completes (.trainRetry p i) s fun t =>
      (t.port p i).link.state = .train ∧ (t.port p i).link.sendKind = 1 ∧ (t.port p i).link.ts2Rx = 0 ∧
      (t.base p).ctr .trainRetry i = (s.base p).ctr .trainRetry i + 1 ∧ PartOnly p s t := by
  have hlate : ¬ since s p (s.port p i).link.since < msCyc 10 := by
    unfold since cyc msCyc
    omega
  have hdue : ¬ ((s.port p i).link.state != .train || ((s.port p i).link.lanes.any fun l => l.2.lock) ||
      decide (since s p (s.port p i).link.since < msCyc 10)) = true := by
    simp [hstate, hlock, hlate]
  unfold Completes exec execTrainRetry
  refine onPort_completes hi ?_
  dsimp only
  rw [if_neg hdue, (count_counts ..).port_eq, port_modLink, count_ctr,
    (modLink_linkStep s p i _).ctrs.ctr _ _ (by simp [Ctr.ofSending]) (port_lt hi)]
  exact ⟨hstate, rfl, rfl, rfl, partOnly_trans (modLink_linkStep ..).part (count_counts ..).part⟩

theorem unusedPort_keeps {i : Nat} {b : Bool} {s : State} (hi : i < 128) (huse : portUse s.role i = 0) :
    exec (.portEnableWrite .dist i b) s = .next s := by
  unfold exec execPortEnableWrite
  exact onPort_next.mpr ⟨hi, by rw [huse]; rfl⟩

theorem alignTimeout_restarts {p : Part} {i : Nat} {s : State} (hi : i < portCount p) (hstate : (s.port p i).link.state = .align)
    (hsince : 1000000 ≤ ((s.base p).perf.cycles - (s.port p i).link.since).toNat) :
    Completes (.alignTimeout p i) s fun t =>
      (t.port p i).link.state = .train ∧ (t.port p i).link.sendKind = 1 ∧ (t.port p i).link.alignMap = none ∧ PartOnly p s t := by
  have hlate : ¬ since s p (s.port p i).link.since < msCyc 1 := by
    unfold since cyc msCyc
    omega
  have hdue : ¬ ((s.port p i).link.state != .align || decide (since s p (s.port p i).link.since < msCyc 1)) = true := by
    simp [hstate, hlate]
  obtain ⟨hstate1, hkind, hmap, -, hpart⟩ := toTrain_trains (s := s) (p := p) (port_lt hi)
  unfold Completes exec execAlignTimeout
  refine onPort_completes hi ?_
  dsimp only
  rw [if_neg hdue]
  exact ⟨hstate1, hkind, hmap, hpart⟩

/-- Settles O13: each command that trains, ends or restarts a link, by its own lemma above. -/
theorem linksTrainAndFallBack : Obligations.LinksTrainAndFallBack := by
  refine ⟨⟨?_, ?_, ?_, ?_, ?_, ?_, ?_, ?_, ?_, ?_⟩, ?_, ?_, ?_, ?_, ?_, ?_⟩
  · exact fun p i lane s => signalDetect_trains
  · exact fun i s => portEnable_trains
  · exact fun p i r s => ts1_answered
  · exact fun p i r s => ts2_aligns
  · intro p i r s hi hcrc hstate hnbr
    have h := ts2_wiring hi hcrc hstate hnbr
    cases p <;> exact h
  · exact fun p i r s => alignMap_entersTimecal
  · exact fun p i r s => alignDone_entersTimecal
  · exact fun p i r s => cal_announces
  · exact fun p i s => timecal_completes
  · exact fun i s => timecal_range
  · exact fun p i s => portDisable_downs
  · exact fun i b s => unusedPort_keeps
  · intro p i s hi hstate
    obtain ⟨hdown, htx, hlaser, henable, hstep⟩ := toDown_downs s p i
    refine onPort_completes hi ?_
    rw [if_neg (by simpa using hstate)]
    exact ⟨hdown, htx, hlaser, henable, hstep.part⟩
  · exact fun p i s => trainRetry_restarts
  · exact fun p i s => alignTimeout_restarts
  · intro p i s hi hlive hslots
    obtain ⟨hstate, hkind, -, hcount, hpart⟩ := toTrain_trains (s := s) (p := p) (port_lt hi)
    obtain ⟨husable, hretrain⟩ := hcount hlive
    unfold Completes exec execUnplannedRetrain
    refine onPort_completes hi ?_
    dsimp only
    rw [if_pos (by simp [hlive, hslots])]
    exact ⟨hstate, hkind, husable, hretrain, hpart⟩

end Sys2Proof.Machine

namespace Sys2Proof.Machine

open Sys2Proof

/-! ### A traffic cell at a distributor changes the distributor alone (R52, R108 to R110, R308, R324) -/

theorem sliceViolation_part (s : State) (a : Arr) : DistOnly s (sliceViolation s a) :=
  partOnly_trans (p := .dist) (count_counts ..).part (suspectPort_reports ..).part

theorem cellCorrupt_part (s : State) (p : Part) (a : Arr) (op : Nat) : PartOnly p s (cellCorrupt s p a op) := by
  unfold cellCorrupt
  extract_lets s1
  have h1 : PartOnly p s s1 := by
    simp only [s1]
    split
    · exact partOnly_trans (breakOpen_tick ..).part (modPort_sends ..).part
    · exact partOnly_refl p s
  exact partOnly_trans (partOnly_trans h1 (count_counts ..).part) (suspectPort_reports ..).part

theorem cellIn_part (s : State) (p : Part) (a : Arr) (type op : Nat) (bad : Bool) : PartOnly p s (cellIn s p a type op bad).1 := by
  unfold cellIn
  split
  · exact (count_counts s p .cellCrc a.port { port := some a.port } 1).part
  · extract_lets gap s1 s2 lost
    have h1 : PartOnly p s s1 := by
      simp only [s1]
      split
      · exact partOnly_refl p s
      · exact partOnly_trans (count_counts ..).part (partOnly_trans (breakOpen_tick ..).part (modPort_sends ..).part)
    have h2 : PartOnly p s s2 := partOnly_trans h1 (modPort_sends ..).part
    split
    · exact partOnly_trans h2 (cellCorrupt_part ..)
    · exact partOnly_trans h2 (modPort_sends ..).part

theorem confineIn_part (s : State) (a : Arr) : DistOnly s (confineIn s a).1 := by
  unfold confineIn
  split
  · exact partOnly_trans (p := .dist) (count_counts ..).part (suspectPort_reports ..).part
  · split
    · exact sliceViolation_part s a
    · exact partOnly_refl .dist s

theorem epochGo_part (s : State) (p : Part) (a : Arr) (b : Bool) : PartOnly p s (epochIn.epochGo s p a b).1 := by
  unfold epochIn.epochGo
  split
  · exact partOnly_refl p s
  · split
    · exact partOnly_refl p s
    · exact (stale_counts ..).part
  · exact (stale_counts ..).part
  · exact (suspectPort_reports ..).part

theorem epochIn_part (s : State) (p : Part) (a : Arr) (b : Bool) : PartOnly p s (epochIn s p a b).1 := by
  unfold epochIn
  split
  · split
    · exact (count_counts ..).part
    · exact epochGo_part ..
  · exact epochGo_part ..

theorem distIn_part (s : State) (a : Arr) (type op : Nat) (bad : Bool) (ok : State → Bool) :
    DistOnly s (distIn s a type op bad ok).1 := by
  have hcell := cellIn_part s .dist a type op bad
  unfold distIn
  split
  · rename_i heq
    rw [heq] at hcell
    exact hcell
  · rename_i u heq
    rw [heq] at hcell
    have hconfine := confineIn_part u a
    split
    · rename_i heq'
      rw [heq'] at hconfine
      exact partOnly_trans (p := .dist) hcell hconfine
    · rename_i heq'
      rw [heq'] at hconfine
      exact partOnly_trans (p := .dist) (partOnly_trans (p := .dist) hcell hconfine) (epochIn_part ..)

theorem ledgerIn_part {s u : State} {a : Arr} {m : LedgerMsg} {r : Rx} (h : ledgerIn s a m = (u, r)) : DistOnly s u := by
  obtain rfl : (ledgerIn s a m).1 = u := congrArg Prod.fst h
  exact partOnly_trans (p := .dist) (distIn_part ..) (modPort_sends ..).part

/-! ### P2 cells that wait on ports (R112) -/

theorem sendP2_waits (s : State) (p : Part) (i : Nat) (c : OutCell) : WaitsKept p s (sendP2 s p i c) := by
  refine modPort_waits s p i fun q x hx => ?_
  unfold Sender.Waits at hx ⊢
  refine hx.imp_right (Or.imp_left fun ⟨l, hl⟩ => ⟨l, ?_⟩)
  dsimp only
  rw [tget_tmod]
  split
  · rename_i h
    exact List.mem_append_left _ (h ▸ hl)
  · exact hl

theorem sendP2_self (s : State) (p : Part) (i : Nat) (c : OutCell) : CellWaits (sendP2 s p i c) p i c := by
  unfold sendP2
  rw [cellWaits_iff, port_modPort]
  refine .inr (.inl ⟨c.slice, ?_⟩)
  dsimp only
  rw [tget_tmod_eq]
  exact List.mem_append_right _ (List.mem_singleton_self c)

/-- A cell sent on each port of a list waits on each. -/
theorem exists_waits_of_foldl {p : Part} {f : State → Nat → State} {good : OutCell → Prop} (hkeep : ∀ s i, WaitsKept p s (f s i))
    (hself : ∀ s i, ∃ c, CellWaits (f s i) p i c ∧ good c) :
    ∀ (l : List Nat) (s : State), ∀ i ∈ l, ∃ c, CellWaits (l.foldl f s) p i c ∧ good c
  | [], _, _, hi => absurd hi (List.not_mem_nil)
  | j :: l, s, i, hi => by
    rw [List.foldl_cons]
    rcases List.mem_cons.mp hi with rfl | hi
    · obtain ⟨c, hc, hgood⟩ := hself s i
      exact ⟨c, (WaitsKept.foldl f hkeep l _).waits _ _ hc, hgood⟩
    · exact exists_waits_of_foldl hkeep hself l _ i hi

/-! ### What an output of the ledger leaves (R290, R291, R354) -/

/-- `t` differs from `s` at the distributor, and of the ledger in what is held through an election and in its events. -/
structure OutputsOnly (s t : State) : Prop where
  part : DistOnly s t
  led : t.dist.led = { s.dist.led with heldOut := t.dist.led.heldOut, eventId := t.dist.led.eventId, doneAt := t.dist.led.doneAt }

theorem OutputsOnly.trans {s t u : State} (h : OutputsOnly s t) (k : OutputsOnly t u) : OutputsOnly s u where
  part := partOnly_trans (p := .dist) h.part k.part
  led := by rw [k.led, h.led]

theorem SendsOnly.led_eq {s t : State} (h : SendsOnly .dist s t) : t.dist.led = s.dist.led := by rw [h.dist]

theorem SendsOnly.outputs {s t : State} (h : SendsOnly .dist s t) : OutputsOnly s t := ⟨h.part, by rw [h.led_eq]⟩

theorem CountsOnly.outputs {s t : State} (h : CountsOnly .dist s t) : OutputsOnly s t := h.sends.outputs

theorem OutputsOnly.table {s t : State} (h : OutputsOnly s t) : t.dist.led.table = s.dist.led.table := by rw [h.led]

theorem OutputsOnly.ingest {s t : State} (h : OutputsOnly s t) : t.dist.led.ingest = s.dist.led.ingest := by rw [h.led]

theorem ledgerSend_sends (s : State) (c : OutCell) : SendsOnly .dist s (ledgerSend s c) :=
  .foldl _ (fun s i => sendP2_sends s .dist i c) _ s

theorem ledgerOut_outputs (s : State) (c : OutCell) : OutputsOnly s (ledgerOut s c) := by
  unfold ledgerOut
  split
  · exact ⟨⟨rfl, rfl, rfl⟩, rfl⟩
  · exact (ledgerSend_sends s c).outputs

theorem ledgerReply_outputs (s : State) (x : Ingest) (st : Status) (req : Nat) (e : LedgerEntry) (now : Bool) :
    OutputsOnly s (ledgerReply s x st req e now) := ledgerOut_outputs ..

theorem ledgerEvent_outputs (s : State) (r : Nat) : OutputsOnly s (ledgerEvent s r) := by
  refine .trans (t := s.modLed fun l => { l with
    eventId := l.eventId + 1, doneAt := tset none l.doneAt r (some (tickSt (tickOf (s.now .dist)))) }) ?_ (ledgerOut_outputs ..)
  exact ⟨⟨rfl, rfl, rfl⟩, rfl⟩

/-! ### One operation committed (R285, R289, R290) -/

/-- `t` is `s` with the ledger's table as given: the distributor alone changes, and nothing more is held for commit. -/
structure Commits (tab : LTab) (s t : State) : Prop where
  part : DistOnly s t
  ingest : t.dist.led.ingest = s.dist.led.ingest
  table : t.dist.led.table = tab

theorem OutputsOnly.commits {s t : State} (h : OutputsOnly s t) : Commits s.dist.led.table s t := ⟨h.part, h.ingest, h.table⟩

theorem Commits.outputs {tab : LTab} {s t u : State} (h : Commits tab s t) (k : OutputsOnly t u) : Commits tab s u where
  part := partOnly_trans (p := .dist) h.part k.part
  ingest := k.ingest.trans h.ingest
  table := k.table.trans h.table

/-- The table with one entry replaced. -/
def LTab.put (tab : LTab) (r : Nat) (e : LedgerEntry) : LTab := tmod zeroEntry tab r fun _ => e

theorem Commits.entry {tab : LTab} {s t : State} {r : Nat} {e : LedgerEntry} (h : Commits (tab.put r e) s t) : t.entry r = e := by
  unfold State.entry LTab.entry
  rw [h.table, LTab.put, tget_tmod_eq]

theorem Commits.entry_ne {s u t : State} {r : Nat} {e : LedgerEntry} (h : Commits (LTab.put u.dist.led.table r e) s t) {k : Nat}
    (hk : k ≠ r) : t.entry k = u.entry k := by
  unfold State.entry LTab.entry
  rw [h.table, LTab.put, tget_tmod_ne _ _ _ hk]

/-- An operation changes its entry at the commit's tick. -/
theorem modEntry_commits (s : State) (r : Nat) (e : LedgerEntry) (f : Ledger → Ledger) (hi : ∀ l, (f l).ingest = l.ingest)
    (ht : ∀ l, (f l).table = l.table) : Commits (LTab.put s.dist.led.table r e) s ((s.modEntry r fun _ => e).modLed f) :=
  ⟨⟨rfl, rfl, rfl⟩, hi _, ht _⟩

/-- The entry that a SUBMIT makes of a FREE one (R286, R290). -/
def submitted (s : State) (x : Ingest) (t : St) (r : Nat) : LedgerEntry :=
  let m := x.msg
  let full := decide (quotaOf s.dist.led x.slice ≤ quotaUse s.dist.led.table x.slice)
  { zeroEntry with
    slice := x.slice, sgroup := m.entry.sgroup, prio := m.entry.prio % 8, gen := (s.entry r).gen + 1, slot := 0xFFFF
    tokens := m.entry.tokens
    maxLen := if decide (m.entry.maxLen.toNat ≤ m.entry.tokens.toNat) then m.entry.tokens + 1 else m.entry.maxLen
    deadline := stClamp62 t m.entry.deadline, interval := m.entry.interval, arrival := m.submitSt, page := m.entry.page
    seed := m.entry.seed, owner := m.entry.owner, ownerDie := dieIndex m.src, ownerMbx := m.mbx
    state := if full then leRefused else leQueued, reason := if full then 5 else 0 }

theorem opSubmit_denied {s : State} {x : Ingest} {t : St}
    (h : ((s.sgroup x.msg.entry.sgroup).any fun g => g.f.valid && g.f.slice == x.slice) = false) : OutputsOnly s (opSubmit s x t) := by
  unfold opSubmit
  dsimp only
  rw [h]
  exact ledgerReply_outputs ..

theorem opSubmit_full {s : State} {x : Ingest} {t : St} (h : freeReq s.dist.led.table = none) : OutputsOnly s (opSubmit s x t) := by
  unfold opSubmit
  dsimp only
  split
  · exact ledgerReply_outputs ..
  · rw [h]
    exact (count_counts ..).outputs.trans (ledgerReply_outputs ..)

/-- The state in which a SUBMIT's reply goes out. -/
def submitState (s : State) (x : Ingest) (t : St) (r : Nat) : State :=
  (((s.clamped .dist (decide (x.msg.entry.maxLen.toNat ≤ x.msg.entry.tokens.toNat))).clamped .dist
    (decide (stClamp62 t x.msg.entry.deadline ≠ x.msg.entry.deadline))).modEntry r fun _ => submitted s x t r).modLed fun l =>
      { l with changed := tset none l.changed r (some t), doneAt := tset none l.doneAt r none }

theorem submitState_commits (s : State) (x : Ingest) (t : St) (r : Nat) :
    Commits (LTab.put s.dist.led.table r (submitted s x t r)) s (submitState s x t r) := by
  have hclamped := (clamped_counts s .dist (decide (x.msg.entry.maxLen.toNat ≤ x.msg.entry.tokens.toNat))).outputs.trans
    (clamped_counts _ .dist (decide (stClamp62 t x.msg.entry.deadline ≠ x.msg.entry.deadline))).outputs
  have h := modEntry_commits ((s.clamped .dist (decide (x.msg.entry.maxLen.toNat ≤ x.msg.entry.tokens.toNat))).clamped .dist
    (decide (stClamp62 t x.msg.entry.deadline ≠ x.msg.entry.deadline))) r (submitted s x t r) (fun l => { l with
    changed := tset none l.changed r (some t), doneAt := tset none l.doneAt r none }) (fun _ => rfl) fun _ => rfl
  rw [hclamped.table] at h
  exact ⟨partOnly_trans (p := .dist) hclamped.part h.part, h.ingest.trans hclamped.ingest, h.table⟩

section
variable {s : State} {x : Ingest} {t : St} {g : SGroup} {r : Nat} (hg : s.sgroup x.msg.entry.sgroup = some g)
  (hvalid : g.f.valid = true) (hslice : g.f.slice = x.slice) (hr : freeReq s.dist.led.table = some r)
include hg hvalid hslice hr

theorem opSubmit_of_free : opSubmit s x t =
    if decide (quotaOf s.dist.led x.slice ≤ quotaUse s.dist.led.table x.slice) then
      ledgerEvent (ledgerReply (submitState s x t r) x .refused r (submitted s x t r) false) r
    else ledgerReply (submitState s x t r) x .ok r (submitted s x t r) false := by
  unfold opSubmit
  dsimp only
  rw [hg, hr, if_neg (by simp [hvalid, hslice])]
  rfl

/-- A SUBMIT to a serving group of its slice takes the lowest FREE entry (R289, R290). -/
theorem opSubmit_takes : Commits (LTab.put s.dist.led.table r (submitted s x t r)) s (opSubmit s x t) := by
  rw [opSubmit_of_free hg hvalid hslice hr]
  split
  · exact ((submitState_commits ..).outputs (ledgerReply_outputs ..)).outputs (ledgerEvent_outputs ..)
  · exact (submitState_commits ..).outputs (ledgerReply_outputs ..)

end

/-- Whatever a SUBMIT comes to, the distributor alone changes, and what is held stays held. -/
theorem opSubmit_commits (s : State) (x : Ingest) (t : St) : ∃ tab, Commits tab s (opSubmit s x t) := by
  cases hknown : (s.sgroup x.msg.entry.sgroup).any fun g => g.f.valid && g.f.slice == x.slice with
  | false => exact ⟨_, (opSubmit_denied hknown).commits⟩
  | true =>
    cases hg : s.sgroup x.msg.entry.sgroup with
    | none => simp [hg] at hknown
    | some g =>
      rw [hg, Option.any_some, Bool.and_eq_true, beq_iff_eq] at hknown
      obtain ⟨hvalid, hslice⟩ := hknown
      cases hr : freeReq s.dist.led.table with
      | none => exact ⟨_, (opSubmit_full hr).commits⟩
      | some r => exact ⟨_, opSubmit_takes hg hvalid hslice hr⟩

/-- An operation judged by the table of R285. -/
def opJudged (s : State) (x : Ingest) (t : St) : State :=
  match opTransition x.msg.op (s.entry (x.msg.req % 65536)) with
  | none => ledgerReply s x .badCommand (x.msg.req % 65536) (s.entry (x.msg.req % 65536)) false
  | some e =>
    let u := (s.modEntry (x.msg.req % 65536) fun _ => e).modLed fun l => { l with
      changed := tset none l.changed (x.msg.req % 65536) (some t) }
    let u := ledgerReply u x .ok (x.msg.req % 65536) e false
    if e.state = leDone then ledgerEvent u (x.msg.req % 65536) else u

theorem opJudged_changes {s : State} {x : Ingest} {t : St} {e : LedgerEntry}
    (h : opTransition x.msg.op (s.entry (x.msg.req % 65536)) = some e) :
    Commits (LTab.put s.dist.led.table (x.msg.req % 65536) e) s (opJudged s x t) := by
  have h1 := modEntry_commits s (x.msg.req % 65536) e (fun l => { l with
    changed := tset none l.changed (x.msg.req % 65536) (some t) }) (fun _ => rfl) fun _ => rfl
  unfold opJudged
  rw [h]
  dsimp only
  split
  · exact (h1.outputs (ledgerReply_outputs ..)).outputs (ledgerEvent_outputs ..)
  · exact h1.outputs (ledgerReply_outputs ..)

theorem opJudged_barred {s : State} {x : Ingest} {t : St} (h : opTransition x.msg.op (s.entry (x.msg.req % 65536)) = none) :
    OutputsOnly s (opJudged s x t) := by
  unfold opJudged
  rw [h]
  exact ledgerReply_outputs ..

/-- No other entry changes. -/
theorem opJudged_entry_ne (s : State) (x : Ingest) (t : St) {k : Nat} (hk : k ≠ x.msg.req % 65536) :
    (opJudged s x t).entry k = s.entry k := by
  cases h : opTransition x.msg.op (s.entry (x.msg.req % 65536)) with
  | none =>
    unfold State.entry
    rw [(opJudged_barred h).table]
  | some e => exact (opJudged_changes h).entry_ne hk

theorem opJudged_commits (s : State) (x : Ingest) (t : St) : ∃ tab, Commits tab s (opJudged s x t) := by
  cases h : opTransition x.msg.op (s.entry (x.msg.req % 65536)) with
  | none => exact ⟨_, (opJudged_barred h).commits⟩
  | some e => exact ⟨_, opJudged_changes h⟩

/-- The checks that come before an operation is judged (R290). -/
theorem opOther_eq (s : State) (x : Ingest) (t : St) : opOther s x t =
    let m := x.msg
    let e := s.entry (m.req % 65536)
    if e.state = 0 ∨ e.gen ≠ m.gen then ledgerReply s x .badCommand (m.req % 65536) zeroEntry false
    else if e.slice ≠ x.slice && !(m.mbx == 0) then ledgerReply s x .denied (m.req % 65536) zeroEntry false
    else if m.op = 2 then ledgerReply s x .ok (m.req % 65536) e false
    else if dieIndex m.src ≠ e.ownerDie && !(m.mbx == 0) then ledgerReply s x .denied (m.req % 65536) zeroEntry false
    else opJudged s x t := rfl

theorem opOther_commits (s : State) (x : Ingest) (t : St) : ∃ tab, Commits tab s (opOther s x t) := by
  rw [opOther_eq]
  dsimp only
  split
  · exact ⟨_, (ledgerReply_outputs ..).commits⟩
  · split
    · exact ⟨_, (ledgerReply_outputs ..).commits⟩
    · split
      · exact ⟨_, (ledgerReply_outputs ..).commits⟩
      · split
        · exact ⟨_, (ledgerReply_outputs ..).commits⟩
        · exact opJudged_commits s x t

/-- An operation that is refused leaves the table: its GEN is not the entry's, or it comes from another slice or die (R290). -/
theorem opOther_refused {s : State} {x : Ingest} {t : St}
    (h : (s.entry (x.msg.req % 65536)).gen ≠ x.msg.gen ∨ ((s.entry (x.msg.req % 65536)).slice ≠ x.slice ∧ x.msg.mbx ≠ 0) ∨
      (x.msg.op ≠ 2 ∧ (s.entry (x.msg.req % 65536)).ownerDie ≠ dieIndex x.msg.src ∧ x.msg.mbx ≠ 0)) :
    OutputsOnly s (opOther s x t) := by
  rw [opOther_eq]
  dsimp only
  split
  · exact ledgerReply_outputs ..
  · rename_i hlive
    split
    · exact ledgerReply_outputs ..
    · rename_i hslice
      split
      · exact ledgerReply_outputs ..
      · rename_i hop
        rw [if_pos]
        · exact ledgerReply_outputs ..
        · rcases h with hgen | ⟨hne, hmbx⟩ | ⟨-, hdie, hmbx⟩
          · exact absurd (.inr hgen) hlive
          · exact absurd (by simp [hne, hmbx]) hslice
          · simp [hmbx, Ne.symm hdie]

/-- READ changes no entry (R290). -/
theorem opOther_read {s : State} {x : Ingest} {t : St} (h : x.msg.op = 2) : OutputsOnly s (opOther s x t) := by
  rw [opOther_eq]
  dsimp only
  rw [if_pos h]
  split
  · exact ledgerReply_outputs ..
  · split <;> exact ledgerReply_outputs ..

/-- An operation of an entry's own die is judged by the table of R285. -/
theorem opOther_own {s : State} {x : Ingest} {t : St} (hstate : (s.entry (x.msg.req % 65536)).state ≠ 0)
    (hgen : (s.entry (x.msg.req % 65536)).gen = x.msg.gen) (hslice : (s.entry (x.msg.req % 65536)).slice = x.slice)
    (hdie : (s.entry (x.msg.req % 65536)).ownerDie = dieIndex x.msg.src) (hop : x.msg.op ≠ 2) :
    opOther s x t = opJudged s x t := by
  rw [opOther_eq]
  dsimp only
  rw [if_neg (by simp [hstate, hgen]), if_neg (by simp [hslice]), if_neg hop, if_neg (by simp [hdie])]

/-- The table of R285 for an entry with no change pending. -/
theorem opTransition_of_settled {e : LedgerEntry} (hcancel : e.pendCancel = false) (hpause : e.pendPause = false) :
    (e.state = 1 → opTransition 3 e = some { e with state := 3, reason := 0xB }) ∧
    (e.state = 2 → opTransition 3 e = some { e with pendPause := true }) ∧
    (e.state = 3 → opTransition 4 e = some { e with state := 1, reason := 0 }) ∧
    (e.state = 1 ∨ e.state = 3 → opTransition 5 e = some { e with state := 5, reason := 8 }) ∧
    (e.state = 2 ∨ e.state = 4 → opTransition 5 e = some { e with pendCancel := true }) ∧
    (e.state = 5 ∨ e.state = 6 → opTransition 6 e = some { e with state := 0, reason := 0 }) ∧
    (e.state ≤ 4 → opTransition 6 e = none) := by
  unfold opTransition leQueued leActive lePaused leFinishing leDone leRefused
  simp only [hcancel, hpause, Bool.false_eq_true, if_false]
  refine ⟨fun h => ?_, fun h => ?_, fun h => ?_, fun h => ?_, fun h => ?_, fun h => ?_, fun h => ?_⟩
  · rw [if_pos h]
  · rw [if_neg (by omega), if_pos h]
  · rw [if_pos h]
  · rw [if_pos h]
  · rw [if_neg (by omega), if_pos h, ← hpause]
  · rw [if_pos h]
  · rw [if_neg (by omega)]

/-- What is held for commit once it is judged. -/
def emptied (s : State) : State := s.modLed fun l => { l with ingest := [] }

/-- The one operation committed, in the state from which it was taken. -/
def committed (s : State) (x : Ingest) : State :=
  if x.msg.op = 1 then opSubmit (emptied s) x (tickSt (tickOf (s.now .dist))) else opOther (emptied s) x (tickSt (tickOf (s.now .dist)))

theorem committed_commits (s : State) (x : Ingest) : ∃ tab, Commits tab (emptied s) (committed s x) := by
  unfold committed
  split
  · exact opSubmit_commits ..
  · exact opOther_commits ..

theorem committed_submit {s : State} {x : Ingest} (h : x.msg.op = 1) :
    committed s x = opSubmit (emptied s) x (tickSt (tickOf (s.now .dist))) := if_pos h

theorem committed_other {s : State} {x : Ingest} (h : x.msg.op ≠ 1) :
    committed s x = opOther (emptied s) x (tickSt (tickOf (s.now .dist))) := if_neg h

/-- A root's operation held alone: what its commit makes of it (R289). -/
theorem ledgerCommit_of_one {s : State} {x : Ingest} (hrole : s.role = .root) (hx : s.dist.led.ingest = [x]) :
    exec .ledgerCommit s = .next (
      if stLater x.msg.submitSt (tickSt (tickOf (s.now .dist)) - BitVec.ofNat 64 (ledgerIngest s)) then s else committed s x) := by
  have hself : (s.modLed fun l => { l with ingest := [x] }) = s := by
    unfold State.modLed
    rw [← hx]
  change execLedgerCommit s = _
  unfold execLedgerCommit
  rw [if_neg (by simp [hrole])]
  unfold State.modLed at hself
  unfold State.modLed tu
  dsimp only
  rw [hx]
  split
  · rename_i hlate
    simp only [List.filter_cons, hlate, opSort]
    simpa using hself
  · rename_i hlate
    simp only [List.filter_cons, hlate, opSort]
    simp [opInsert, committed, emptied, State.modLed]

theorem ended_iff {e : LedgerEntry} :
    (decide (e.state = leDone) || decide (e.state = leRefused)) = true ↔ e.state = 5 ∨ e.state = 6 := by
  rw [Bool.or_eq_true, decide_eq_true_iff, decide_eq_true_iff]
  rfl

theorem entry_modEntry (s : State) (r : Nat) (f : LedgerEntry → LedgerEntry) : (s.modEntry r f).entry r = f (s.entry r) :=
  tget_tmod_eq ..

theorem entry_modEntry_ne (s : State) (r : Nat) (f : LedgerEntry → LedgerEntry) {k : Nat} (hk : k ≠ r) :
    (s.modEntry r f).entry k = s.entry k := tget_tmod_ne _ _ _ hk

theorem entry_modLed {s : State} {f : Ledger → Ledger} (h : (f s.dist.led).table = s.dist.led.table) (k : Nat) :
    (s.modLed f).entry k = s.entry k := congrArg (LTab.entry · k) h

/-- Only an ended entry whose RETAIN_TIME is over is freed (R287, R291). -/
theorem retainExpire_eq {req : Nat} {at_ : St} {s : State} (hdone : tget none s.dist.led.doneAt req = some at_) :
    exec (.retainExpire req) s = .next (
      if ((s.entry req).state = 5 ∨ (s.entry req).state = 6) ∧ retainTime s ≤ elapsed (s.now .dist) at_ then
        (s.modEntry req fun e => { e with state := 0, reason := 0 }).modLed fun l => { l with doneAt := tset none l.doneAt req none }
      else s) := by
  change execRetainExpire req s = _
  unfold execRetainExpire
  rw [hdone]
  refine congrArg Host.Outcome.next (if_congr ?_ rfl rfl)
  rw [Bool.and_eq_true, ended_iff, Option.any_some, decide_eq_true_iff]

/-- RETAIN_TIME after its EVENT an ended entry is FREE (R287, R291). -/
theorem retainExpire_frees {req : Nat} {at_ : St} {s : State} (hdone : tget none s.dist.led.doneAt req = some at_) :
    Completes (.retainExpire req) s fun t =>
      let ended := (s.entry req).state = 5 ∨ (s.entry req).state = 6
      (ended → retainTime s ≤ elapsed (s.now .dist) at_ → t.entry req = { s.entry req with state := 0, reason := 0 } ∧
        tget none t.dist.led.doneAt req = none ∧ ∀ k, k ≠ req → t.entry k = s.entry k) ∧
      (¬ ended ∨ elapsed (s.now .dist) at_ < retainTime s → t = s) ∧ t = { s with dist.led := t.dist.led } := by
  refine ⟨_, retainExpire_eq hdone, ?_⟩
  by_cases h : ((s.entry req).state = 5 ∨ (s.entry req).state = 6) ∧ retainTime s ≤ elapsed (s.now .dist) at_
  · rw [if_pos h]
    obtain ⟨hended, htime⟩ := h
    refine ⟨fun _ _ => ⟨?_, tget_tset_eq none s.dist.led.doneAt req none, fun k hk => ?_⟩, fun hnot => ?_, rfl⟩
    · rw [entry_modLed rfl, entry_modEntry]
    · rw [entry_modLed rfl, entry_modEntry_ne s req _ hk]
    exact hnot.elim (absurd hended) fun hlt => absurd htime (not_le.mpr hlt)
  · rw [if_neg h]
    exact ⟨fun hended htime => absurd ⟨hended, htime⟩ h, fun _ => rfl, rfl⟩

/-! ### Ledger cells (R59, R61, R288, R289) -/

theorem sameOp_iff {x y : LedgerMsg} : sameOp x y = true ↔ x.src = y.src ∧ x.opId = y.opId ∧ x.submitSt = y.submitSt := by
  simp [sameOp, and_assoc]

/-- An operation at a root is held once, and counted where it comes too late (R289). -/
theorem ledgerHold_holds (u : State) (a : Arr) (m : LedgerMsg) :
    let t := ledgerHold u a m
    let late := stLater (u.now .dist) (m.submitSt + BitVec.ofNat 64 (ledgerIngest u))
    (late = true → t.dist.led = u.dist.led ∧ (t.base .dist).ctr .ledgerLateIn 0 = (u.base .dist).ctr .ledgerLateIn 0 + 1) ∧
    (late = false → (∃ x ∈ u.dist.led.ingest, x.msg.src = m.src ∧ x.msg.opId = m.opId ∧ x.msg.submitSt = m.submitSt) → t = u) ∧
    (late = false → (∀ x ∈ u.dist.led.ingest, ¬ (x.msg.src = m.src ∧ x.msg.opId = m.opId ∧ x.msg.submitSt = m.submitSt)) →
      t = { u with dist.led.ingest := u.dist.led.ingest ++ [{ msg := m, slice := a.slice, ce := a.ce, me := a.me }] }) ∧
    DistOnly u t := by
  have hheld : (u.dist.led.ingest.any fun x => sameOp x.msg m) = true ↔
      ∃ x ∈ u.dist.led.ingest, x.msg.src = m.src ∧ x.msg.opId = m.opId ∧ x.msg.submitSt = m.submitSt := by
    simp only [List.any_eq_true, sameOp_iff]
  have hcount := count_counts u .dist .ledgerLateIn 0 {} 1
  intro t late
  simp only [t, late]
  unfold ledgerHold
  split
  · rename_i hlate
    rw [tu] at hlate
    simp only [hlate, Bool.true_eq_false, false_implies, true_and, forall_const]
    exact ⟨⟨hcount.sends.led_eq, count_ctr ..⟩, hcount.part⟩
  · rename_i hlate
    rw [tu] at hlate
    refine ⟨fun h => absurd h hlate, fun _ hx => ?_, fun _ hx => ?_, ?_⟩
    · rw [if_pos (hheld.mpr hx)]
    · rw [if_neg fun h => (hheld.mp h).elim fun x hx' => hx x hx'.1 hx'.2]
      rfl
    · split <;> exact ⟨rfl, rfl, rfl⟩

/-- What a root sends to an issuer out of its slice's row ports waits on both planes (R290). -/
theorem ledgerReply_waits {u : State} {x : Ingest} {st : Status} {req : Nat} {e : LedgerEntry} {now : Bool}
    (hout : u.dist.mem.holdOut = false) : ∀ i ∈ [2 * nodeRow x.msg.src, 2 * nodeRow x.msg.src + 1], downOk u x.slice i = true →
      ∃ o r, CellWaits (ledgerReply u x st req e now) .dist i o ∧ o.body = .ledger r ∧ r.op = 7 ∧ r.status = st.ctorIdx ∧
        r.src = x.msg.src ∧ r.opId = x.msg.opId ∧ r.req = req := by
  intro i hi hdown
  unfold ledgerReply ledgerOut
  dsimp only
  rw [if_neg (by simp [hout])]
  unfold ledgerSend
  obtain ⟨o, hwaits, hbody⟩ := exists_waits_of_foldl (p := .dist) (f := fun s i => sendP2 s .dist i { cellNow u .dist x.slice
      (.ledger { x.msg with op := 7, status := st.ctorIdx, req, gen := e.gen, entry := e, sg := 0, step := 0, arg := 0 }) with
        cells := 2, ce := if now then (cellNow u .dist x.slice (.ledger x.msg)).ce else x.ce
        me := if now then (cellNow u .dist x.slice (.ledger x.msg)).me else x.me })
    (good := fun o => o.body = .ledger { x.msg with
      op := 7, status := st.ctorIdx, req, gen := e.gen, entry := e, sg := 0, step := 0, arg := 0 })
    (fun s i => sendP2_waits ..) (fun s i => ⟨_, sendP2_self .., rfl⟩) _ u i (List.mem_filter.mpr ⟨hi, hdown⟩)
  exact ⟨o, _, hwaits, hbody, rfl, rfl, rfl, rfl, rfl⟩

theorem ledgerReply_led {u : State} {x : Ingest} {st : Status} {req : Nat} {e : LedgerEntry} {now : Bool}
    (hout : u.dist.mem.holdOut = false) : (ledgerReply u x st req e now).dist.led = u.dist.led := by
  unfold ledgerReply ledgerOut
  dsimp only
  rw [if_neg (by simp [hout]), (ledgerSend_sends ..).led_eq]

/-- A message goes up on each port as it came (R59, R61). -/
theorem ledgerUp_waits (u : State) (a : Arr) (m : LedgerMsg) : ∀ i ∈ upPorts u m.opId.toNat,
    ∃ o, CellWaits (ledgerUp u a m) .dist i o ∧ o.body = .ledger m ∧ o.slice = a.slice ∧ o.ce = a.ce ∧ o.me = a.me :=
  exists_waits_of_foldl (fun _ _ => sendP2_waits ..) (fun _ _ => ⟨_, sendP2_self .., rfl, rfl, rfl, rfl⟩) _ u

/-- Sending changes the ports alone. -/
theorem foldl_sendP2_ports (f : State → Nat → OutCell) : ∀ (l : List Nat) (s : State),
    l.foldl (fun s i => sendP2 s .dist i (f s i)) s =
      { s with dist.b.ports := (l.foldl (fun s i => sendP2 s .dist i (f s i)) s).dist.b.ports }
  | [], _ => rfl
  | i :: l, s => by
    rw [List.foldl_cons, foldl_sendP2_ports f l (sendP2 s .dist i (f s i))]
    rfl

/-- The entry that a SUBMIT takes (R287, R290). -/
theorem submitted_fields {s : State} {x : Ingest} {t : St} {r : Nat} {y : LedgerEntry} (hy : y = submitted s x t r) :
    let m := x.msg
    y.gen = (s.entry r).gen + 1 ∧ y.slice = x.slice ∧ y.sgroup = m.entry.sgroup ∧ y.prio = m.entry.prio % 8 ∧
    y.tokens = m.entry.tokens ∧ y.arrival = m.submitSt ∧ y.ownerDie = dieIndex m.src ∧ y.ownerMbx = m.mbx ∧
    (m.entry.tokens.toNat < m.entry.maxLen.toNat → y.maxLen = m.entry.maxLen) ∧
    (quotaUse s.dist.led.table x.slice < quotaOf s.dist.led x.slice → y.state = 1 ∧ y.reason = 0) ∧
    (quotaOf s.dist.led x.slice ≤ quotaUse s.dist.led.table x.slice → y.state = 6 ∧ y.reason = 5) := by
  subst hy
  refine ⟨rfl, rfl, rfl, rfl, rfl, rfl, rfl, rfl, fun h => ?_, fun h => ?_, fun h => ?_⟩
  · exact if_neg (by simpa using h)
  · exact ⟨if_neg (by simpa using h), if_neg (by simpa using h)⟩
  · exact ⟨if_pos (by simpa using h), if_pos (by simpa using h)⟩

/-- Settles O36: cells are held, answered or passed on, and one held operation commits by the table, by the lemmas above. -/
theorem operationsHoldAndCommit : Obligations.OperationsHoldAndCommit := by
  refine ⟨⟨?_, ?_, ?_, ?_⟩, ?_, fun req at_ s => retainExpire_frees⟩
  · intro a m s u hport hin hrole hlo hhi
    obtain ⟨hlate, hsame, hnew, hpart⟩ := ledgerHold_holds u a m
    unfold Completes exec execLedgerCellReceive
    refine onPort_completes (p := .dist) hport ?_
    rw [hin]
    dsimp only
    rw [if_neg (by simp [hrole]), if_pos ⟨hlo, hhi⟩]
    exact ⟨hlate, hsame, hnew, partOnly_trans (p := .dist) (ledgerIn_part hin) hpart⟩
  · intro a m s u hport hin hrole hlo hhi hout
    have houtputs := ledgerReply_outputs u { msg := m, slice := a.slice, ce := a.ce, me := a.me } .epochStale m.req zeroEntry true
    unfold Completes exec execLedgerCellReceive
    refine onPort_completes (p := .dist) hport ?_
    rw [hin]
    dsimp only
    rw [if_pos (by simp [hrole, hlo, hhi])]
    refine ⟨fun i hi hdown => ?_, ledgerReply_led hout, partOnly_trans (p := .dist) (ledgerIn_part hin) houtputs.part⟩
    obtain ⟨o, r, hwaits, hbody, hop, hstatus, hsrc, hid, hreq⟩ := ledgerReply_waits (st := .epochStale) (req := m.req)
      (e := zeroEntry) (now := true) (x := { msg := m, slice := a.slice, ce := a.ce, me := a.me }) hout i hi hdown
    exact ⟨o, r, hwaits, hbody, hop, hstatus, hsrc, hid, hreq⟩
  · intro a m s u hport hin hrole hbelow
    unfold Completes exec execLedgerCellReceive
    refine onPort_completes (p := .dist) hport ?_
    rw [hin]
    dsimp only
    rw [if_pos (by simpa using hrole), ledgerRelay, if_pos hbelow]
    exact ⟨ledgerUp_waits u a m, foldl_sendP2_ports _ _ u⟩
  · intro s hrole
    change execLedgerCommit s = _
    unfold execLedgerCommit
    rw [if_pos (by simpa using hrole)]
  · intro x s hrole hx
    refine ⟨_, ledgerCommit_of_one hrole hx, ?_⟩
    obtain ⟨tab, hcommit⟩ := committed_commits s x
    intro m e due own
    have hdue : due = true → ¬ stLater m.submitSt (tickSt (tickOf (s.now .dist)) - BitVec.ofNat 64 (ledgerIngest s)) = true :=
      fun h => by simpa [due] using h
    have hnot : due = false → stLater m.submitSt (tickSt (tickOf (s.now .dist)) - BitVec.ofNat 64 (ledgerIngest s)) = true :=
      fun h => by simpa [due] using h
    refine ⟨fun h => if_pos (hnot h), fun h => ?_, fun g r h hop hg hvalid hslice hr => ?_, fun h hop hg => ?_, fun h hop hr => ?_,
      fun h (hop : x.msg.op = 2) => ?_, fun h (hlo : 3 ≤ x.msg.op) hhi hown => ?_, fun h (hlo : 2 ≤ x.msg.op) hhi href => ?_, ?_⟩
    · rw [if_neg (hdue h)]
      exact hcommit.ingest
    · rw [if_neg (hdue h), committed_submit hop]
      have htakes := opSubmit_takes (t := tickSt (tickOf (s.now .dist))) (s := emptied s) hg hvalid hslice hr
      intro y
      obtain ⟨h1, h2, h3, h4, h5, h6, h7, h8, h9, h10, h11⟩ := submitted_fields (y := y) htakes.entry
      exact ⟨h1, h2, h3, h4, h5, h6, h7, h8, h9, h10, h11, fun k hk => htakes.entry_ne hk⟩
    · rw [if_neg (hdue h), committed_submit hop]
      exact (opSubmit_denied (s := emptied s) (by rw [show (emptied s).sgroup _ = none from hg]; rfl)).table
    · rw [if_neg (hdue h), committed_submit hop]
      exact (opSubmit_full (s := emptied s) hr).table
    · rw [if_neg (hdue h), committed_other (by omega)]
      exact (opOther_read (s := emptied s) hop).table
    · obtain ⟨hstate, hgen, hslice, hdie, hcancel, hpause⟩ := hown
      rw [if_neg (hdue h), committed_other (by omega), opOther_own (s := emptied s) hstate hgen hslice hdie (by omega)]
      obtain ⟨hpause1, hpause2, hresume, hcancel1, hcancel2, hrelease, hlive⟩ := opTransition_of_settled hcancel hpause
      have changes : ∀ {e'}, opTransition x.msg.op e = some e' →
          (opJudged (emptied s) x (tickSt (tickOf (s.now .dist)))).entry (x.msg.req % 65536) = e' := fun htable =>
        (opJudged_changes (s := emptied s) htable).entry
      refine ⟨fun k hk => opJudged_entry_ne (emptied s) x _ hk, fun hop he => changes ?_, fun hop he => changes ?_,
        fun hop he => changes ?_, fun hop he => changes ?_, fun hop he => changes ?_, fun hop he => changes ?_, fun hop _ he => ?_⟩
      · exact (congrArg (opTransition · e) hop).trans (hpause1 he)
      · exact (congrArg (opTransition · e) hop).trans (hpause2 he)
      · exact (congrArg (opTransition · e) hop).trans (hresume he)
      · exact (congrArg (opTransition · e) hop).trans (hcancel1 he)
      · exact (congrArg (opTransition · e) hop).trans (hcancel2 he)
      · exact (congrArg (opTransition · e) hop).trans (hrelease he)
      · exact (opJudged_barred (s := emptied s) ((congrArg (opTransition · e) hop).trans (hlive he))).table
    · rw [if_neg (hdue h), committed_other (by omega)]
      exact (opOther_refused (s := emptied s) href).table
    · split
      · exact ⟨rfl, rfl, rfl⟩
      · exact partOnly_trans (p := .dist) ⟨rfl, rfl, rfl⟩ hcommit.part

end Sys2Proof.Machine

namespace Sys2Proof.Machine

open Sys2Proof

/-! ### Boot (R379 to R382, R495) -/

/-- The TARGET of a part's images (R380). -/
def imageTarget : Part → BitVec 8
  | .tsu => 1
  | .dist => 2

/-- An image passes every test of R380. -/
def ImagePasses (p : Part) (b : Headstock) (h : FwHdr) (k : FwChecks) : Prop :=
  k.readOk = true ∧ h.magic = 0x50564853 ∧ h.target = imageTarget p ∧ h.keyIndex ≤ 3 ∧ b.revoked.getLsbD h.keyIndex = false ∧
  k.keyHashOk = true ∧ b.minSec.toNat ≤ h.secVersion.toNat ∧ k.sigOk = true ∧ k.digestOk = true

theorem bootTest_eq (p : Part) (b : Headstock) (h : FwHdr) (k : FwChecks) : bootTest p b h k =
    if !k.readOk then some 9
    else if h.magic ≠ 0x50564853 ∨ h.target ≠ imageTarget p then some 3
    else if 3 < h.keyIndex ∨ b.revoked.getLsbD h.keyIndex then some 4
    else if !k.keyHashOk then some 5
    else if h.secVersion.toNat < b.minSec.toNat then some 6
    else if !k.sigOk then some 7
    else if !k.digestOk then some 8
    else none := by
  cases p <;> rfl

theorem ite_some_eq_none {P : Prop} [Decidable P] {a : Nat} {o : Option Nat} : (if P then some a else o) = none ↔ ¬ P ∧ o = none := by
  split <;> simp_all

/-- A code of BOOT_STATUS for a test that failed (R496). -/
def FailCode (c : Nat) : Prop := 3 ≤ c ∧ c ≤ 9

theorem failCode_of_ite {P : Prop} [Decidable P] {a c : Nat} {o : Option Nat} (ha : FailCode a) (ho : o = some c → FailCode c)
    (h : (if P then some a else o) = some c) : FailCode c := by
  split at h
  · exact Option.some.inj h ▸ ha
  · exact ho h

/-- The boot ROM accepts an image that passes every test, and no other (R380). -/
theorem bootTest_none_iff {p : Part} {b : Headstock} {h : FwHdr} {k : FwChecks} :
    bootTest p b h k = none ↔ ImagePasses p b h k := by
  simp only [bootTest_eq, ite_some_eq_none, ImagePasses]
  simp [and_assoc]

theorem bootTest_failCode {p : Part} {b : Headstock} {h : FwHdr} {k : FwChecks} {c : Nat} (hc : bootTest p b h k = some c) :
    FailCode c := by
  have code : ∀ n, 3 ≤ n → n ≤ 9 → FailCode n := fun _ => And.intro
  rw [bootTest_eq] at hc
  refine failCode_of_ite (code 9 (by decide) (by decide)) (failCode_of_ite (code 3 (by decide) (by decide))
    (failCode_of_ite (code 4 (by decide) (by decide)) (failCode_of_ite (code 5 (by decide) (by decide))
    (failCode_of_ite (code 6 (by decide) (by decide)) (failCode_of_ite (code 7 (by decide) (by decide))
    (failCode_of_ite (code 8 (by decide) (by decide)) ?_)))))) hc
  exact fun h => nomatch h

/-- An image that was not read is code 9 (R496). -/
theorem bootTest_unread {p : Part} {b : Headstock} {h : FwHdr} {k : FwChecks} (hread : k.readOk = false) :
    bootTest p b h k = some 9 := by
  rw [bootTest_eq, if_pos (by simp [hread])]

theorem bootTest_some_of_not_passes {p : Part} {b : Headstock} {h : FwHdr} {k : FwChecks} (hnot : ¬ ImagePasses p b h k) :
    ∃ c, bootTest p b h k = some c := Option.ne_none_iff_exists'.mp fun hnone => hnot (bootTest_none_iff.mp hnone)

theorem toNat_ofNat_min_le (n m : Nat) : (BitVec.ofNat 64 (min n m)).toNat ≤ m :=
  (BitVec.toNat_ofNat ..).trans_le ((Nat.mod_le ..).trans (Nat.min_le_right ..))

/-- The guards that an accepted image sets stay within their hardware maxima (R382, R495). -/
theorem bootAccept_guards (b : Headstock) (h : FwHdr) :
    (((bootAccept b h).guards[3]?).getD 0).toNat ≤ 256 ∧ (((bootAccept b h).guards[2]?).getD 0).toNat ≤ 2 ^ 46 :=
  ⟨toNat_ofNat_min_le _ _, toNat_ofNat_min_le _ _⟩

/-! ### Ports that a role enables (R518) -/

theorem tryTrain_linkStep (s : State) (p : Part) (i : Nat) : LinkStep p i s (tryTrain s p i) := by
  unfold tryTrain
  dsimp only
  split
  · exact (setLink_enters s p i .train).toLinkStep.trans (modLink_linkStep ..)
  · exact .refl p i s

/-- Enabling ports leaves the distributor's node and its service state. -/
theorem enablePorts_keeps : ∀ (l : List Nat) (s : State),
    let t := l.foldl (fun s i => tryTrain (s.modLink .dist i fun k => { k with enable := true }) .dist i) s
    DistOnly s t ∧ t.dist.b.node = s.dist.b.node ∧ t.dist.sv = s.dist.sv
  | [], _ => ⟨⟨rfl, rfl, rfl⟩, rfl, rfl⟩
  | i :: l, s => by
    have hstep : LinkStep .dist i s (tryTrain (s.modLink .dist i fun k => { k with enable := true }) .dist i) :=
      (modLink_linkStep ..).trans (tryTrain_linkStep ..)
    obtain ⟨hpart, hnode, hsv⟩ := enablePorts_keeps l (tryTrain (s.modLink .dist i fun k => { k with enable := true }) .dist i)
    exact ⟨partOnly_trans (p := .dist) hstep.part hpart, hnode.trans hstep.node, hsv.trans hstep.sv⟩

/-! ### The position (R55, R65) -/

/-- The position that a write sets, once its root index is in range (R55). -/
theorem position_toNat {n : Nat} (h : bits n 11 10 ≤ 2) :
    (BitVec.ofNat 12 (bits n 9 0 + min 2 (bits n 11 10) * 1024)).toNat = bits n 11 0 := by
  rw [BitVec.toNat_ofNat, Nat.min_eq_right h]
  unfold bits
  omega

theorem bits_bits_low (n : Nat) : bits (bits n 11 0) 4 0 = bits n 4 0 := by
  unfold bits
  omega

theorem bits_bits_mid (n : Nat) : bits (bits n 11 0) 9 5 = bits n 9 5 := by
  unfold bits
  omega

theorem bits_bits_high (n : Nat) : bits (bits n 11 0) 11 10 = bits n 11 10 := by
  unfold bits
  omega

/-- The node ID of a distributor, from its role, its plane and the numbers in its position (R55, R65). -/
def nodeOf (w : Service) (row rack root : Nat) : Option Node :=
  match w.role with
  | .none_ => none
  | .rack => some (mkNode 1 row rack 0 (bit w.planeB) 0)
  | .row => some (mkNode 2 row 0 0 (bit w.planeB) 0)
  | .root => some (mkNode 3 0 0 0 0 root)

/-- The node that a write of a position gives a distributor. -/
def nodeAt (v : W64) (s : State) : Option Node :=
  nodeOf s.dist.sv (bits v.toNat 4 0) (bits v.toNat 9 5) (bits v.toNat 11 10)

/-- The position a write sets and locks. -/
def positioned (v : W64) (s : State) : State := s.modSv fun w =>
  { w with position := BitVec.ofNat 12 (bits v.toNat 9 0 + min 2 (bits v.toNat 11 10) * 1024), posLock := true }

/-- A first write that is in range sets the position and the node, and a part with a role joins and enables its ports (R55, R371, R518). -/
theorem nodePosition_eq {v : W64} {s : State} (hlock : s.dist.sv.posLock = false) (hrun : s.dist.b.hs.running = true)
    (hroot : bits v.toNat 11 10 ≤ 2) : nodePosition v s =
      let s1 := (positioned v s).modBase .dist fun b => { b with node := nodeAt v s }
      if s.dist.sv.role == .none_ then s1
      else ((List.range 128).filter fun i => portUse s.dist.sv.role i != 0).foldl
        (fun s i => tryTrain (s.modLink .dist i fun k => { k with enable := true }) .dist i)
        (s1.modSv fun w => { w with state := .joining }) := by
  have hclamp : s.clamped .dist (decide (2 < bits v.toNat 11 10)) = s := if_neg (by simpa using hroot)
  have hpos := position_toNat hroot
  have hrow : (positioned v s).ownRow = bits v.toNat 4 0 := (congrArg (bits · 4 0) hpos).trans (bits_bits_low _)
  have hrack : (positioned v s).ownRack = bits v.toNat 9 5 := (congrArg (bits · 9 5) hpos).trans (bits_bits_mid _)
  have hownRoot : (positioned v s).ownRoot = bits v.toNat 11 10 := (congrArg (bits · 11 10) hpos).trans (bits_bits_high _)
  have hnode : nodeAt v s = nodeOf s.dist.sv (positioned v s).ownRow (positioned v s).ownRack (positioned v s).ownRoot := by
    rw [hrow, hrack, hownRoot, nodeAt]
  unfold nodePosition
  dsimp only
  rw [if_neg (by simp [hlock, hrun]), hclamp, hnode]
  rfl

/-- The first write of a position locks it, names the node, and lets a part with a role join (R55, R65, R371). -/
theorem nodePosition_locks {v : W64} {s : State} (hlock : s.dist.sv.posLock = false) (hrun : s.dist.b.hs.running = true)
    (hroot : bits v.toNat 11 10 ≤ 2) :
    (nodePosition v s).dist.sv.posLock = true ∧ (nodePosition v s).dist.sv.position.toNat = bits v.toNat 11 0 ∧
    (nodePosition v s).dist.b.node = nodeAt v s ∧
    (s.role ≠ .none_ → (nodePosition v s).dist.sv.state = .joining) ∧ DistOnly s (nodePosition v s) := by
  have hpos := position_toNat hroot
  rw [nodePosition_eq hlock hrun hroot]
  dsimp only
  split
  · next hrole => exact ⟨rfl, hpos, rfl, fun h => absurd (eq_of_beq hrole) h, ⟨rfl, rfl, rfl⟩⟩
  · obtain ⟨hpart, hnode, hsv⟩ := enablePorts_keeps ((List.range 128).filter fun i => portUse s.dist.sv.role i != 0)
      (((positioned v s).modBase .dist fun b => { b with node := nodeAt v s }).modSv fun w => { w with state := .joining })
    rw [hsv, hnode]
    exact ⟨rfl, hpos, rfl, fun _ => rfl, partOnly_trans (p := .dist) ⟨rfl, rfl, rfl⟩ hpart⟩

/-! ### The image that runs (R379 to R382, R515) -/

/-- A Headstock that runs the image `h`: its guards within their maxima and locked (R382, R495). -/
def Runs (b : Headstock) (h : FwHdr) (x : Headstock) : Prop :=
  x.running = true ∧ x.guardLock = true ∧ x.boot = 2 ∧ x.fwVersion = h.fwVersion ∧
  x.minSec = (if h.raiseMin then h.secVersion else b.minSec) ∧
  ((x.guards[3]?).getD 0).toNat ≤ 256 ∧ ((x.guards[2]?).getD 0).toNat ≤ 2 ^ 46

theorem bootAccept_runs (b : Headstock) (h : FwHdr) : Runs b h (bootAccept b h) :=
  ⟨rfl, rfl, rfl, rfl, rfl, bootAccept_guards b h⟩

theorem bootComplete_idle {p : Part} {h h2 : FwHdr} {k k2 : FwChecks} {s : State} (hboot : (s.base p).hs.boot ≠ 1) :
    exec (.bootComplete p h k h2 k2) s = .next s := by
  show execBootComplete p h k h2 k2 s = .next s
  unfold execBootComplete
  exact congrArg _ (if_pos hboot)

section
variable {h h2 : FwHdr} {k k2 : FwChecks} {s : State}

theorem bootComplete_tsu_accepts (hboot : s.tsu.b.hs.boot = 1) (hpass : ImagePasses .tsu s.tsu.b.hs h k) :
    exec (.bootComplete .tsu h k h2 k2) s = .next (s.modHs .tsu (bootAccept · h)) := by
  show execBootComplete .tsu h k h2 k2 s = _
  unfold execBootComplete
  simp only [State.base, hboot, bootTest_none_iff.mpr hpass, ne_eq, not_true, if_false]

theorem bootComplete_tsu_refuses {c : Nat} (hboot : s.tsu.b.hs.boot = 1) (hfail : bootTest .tsu s.tsu.b.hs h k = some c) :
    exec (.bootComplete .tsu h k h2 k2) s = .next ((s.modHs .tsu fun h => { h with boot := c }).alert .tsu 4) := by
  show execBootComplete .tsu h k h2 k2 s = _
  unfold execBootComplete
  simp only [State.base, hboot, hfail, ne_eq, not_true, if_false]

/-- The record of what a slot of the flash holds (R515). -/
def putSlot (s : State) (k : Nat) (v : BitVec 64) : State := s.modHs .dist fun h => { h with slotBits := tset 0 h.slotBits k v }

theorem bootComplete_dist_accepts (hboot : s.dist.b.hs.boot = 1) (hpass : ImagePasses .dist s.dist.b.hs h k) :
    exec (.bootComplete .dist h k h2 k2) s = .next (putSlot
      (s.modHs .dist fun x => { bootAccept x h with slotBooted := s.dist.b.hs.bootSlot, fallback := false })
      s.dist.b.hs.bootSlot (slotBitsOf h)) := by
  show execBootComplete .dist h k h2 k2 s = _
  unfold execBootComplete
  simp only [State.base, hboot, bootTest_none_iff.mpr hpass, ne_eq, not_true, if_false, putSlot]

theorem bootComplete_dist_fallback {c : Nat} (hboot : s.dist.b.hs.boot = 1) (hfail : bootTest .dist s.dist.b.hs h k = some c)
    (hpass2 : ImagePasses .dist s.dist.b.hs h2 k2) :
    exec (.bootComplete .dist h k h2 k2) s = .next ((putSlot
      ((putSlot s s.dist.b.hs.bootSlot 0).modHs .dist fun x =>
        { bootAccept x h2 with slotBooted := 1 - s.dist.b.hs.bootSlot, fallback := true })
      (1 - s.dist.b.hs.bootSlot) (slotBitsOf h2)).alert .dist 7) := by
  show execBootComplete .dist h k h2 k2 s = _
  unfold execBootComplete
  simp only [State.base, hboot, hfail, bootTest_none_iff.mpr hpass2, ne_eq, not_true, if_false, putSlot]

theorem bootComplete_dist_refuses {c c2 : Nat} (hboot : s.dist.b.hs.boot = 1) (hfail : bootTest .dist s.dist.b.hs h k = some c)
    (hfail2 : bootTest .dist s.dist.b.hs h2 k2 = some c2) :
    exec (.bootComplete .dist h k h2 k2) s = .next ((putSlot
      ((putSlot s s.dist.b.hs.bootSlot 0).modHs .dist fun x => { x with boot := c2 }) (1 - s.dist.b.hs.bootSlot) 0).alert .dist 7) := by
  show execBootComplete .dist h k h2 k2 s = _
  unfold execBootComplete
  simp only [State.base, hboot, hfail, hfail2, ne_eq, not_true, if_false, putSlot]

/-- A die runs an image that passes; for one that fails BOOT_STATUS shows the test, with the alert (R380, R381, R496). -/
theorem bootComplete_tsu (hboot : s.tsu.b.hs.boot = 1) : Completes (.bootComplete .tsu h k h2 k2) s fun t =>
    (ImagePasses .tsu s.tsu.b.hs h k → Runs s.tsu.b.hs h t.tsu.b.hs) ∧
    (¬ ImagePasses .tsu s.tsu.b.hs h k → t.tsu.b.hs.running = s.tsu.b.hs.running ∧ FailCode t.tsu.b.hs.boot ∧
      t.tsu.b.hs.alert.getLsbD 4 = true ∧ (k.readOk = false → t.tsu.b.hs.boot = 9)) ∧ TsuOnly s t := by
  by_cases hpass : ImagePasses .tsu s.tsu.b.hs h k
  · exact ⟨_, bootComplete_tsu_accepts hboot hpass, fun _ => bootAccept_runs .., fun hnot => absurd hpass hnot, rfl, rfl, rfl⟩
  · obtain ⟨c, hfail⟩ := bootTest_some_of_not_passes hpass
    set s1 := s.modHs .tsu fun h => { h with boot := c }
    have hhs := alert_hs s1 .tsu 4
    refine ⟨_, bootComplete_tsu_refuses hboot hfail, fun h => absurd h hpass, fun _ => ?_, (alert_choice s1 .tsu 4).part⟩
    refine ⟨(congrArg (·.running) hhs :), ?_, alert_bit s1 .tsu (by decide), fun hread => ?_⟩
    · exact (congrArg (·.boot) hhs :) ▸ bootTest_failCode hfail
    · exact (congrArg (·.boot) hhs :).trans (Option.some.inj (hfail.symm.trans (bootTest_unread hread)))

/-- A distributor runs the image of its boot slot, or of the other one with the alert, or neither (R381, R515). -/
theorem bootComplete_dist (hboot : s.dist.b.hs.boot = 1) : Completes (.bootComplete .dist h k h2 k2) s fun t =>
    (ImagePasses .dist s.dist.b.hs h k → Runs s.dist.b.hs h t.dist.b.hs) ∧
    (¬ ImagePasses .dist s.dist.b.hs h k → ImagePasses .dist s.dist.b.hs h2 k2 → t.dist.b.hs.running = true ∧
      t.dist.b.hs.slotBooted = 1 - s.dist.b.hs.bootSlot ∧ t.dist.b.hs.fallback = true ∧ t.dist.b.hs.fwVersion = h2.fwVersion ∧
      t.dist.b.hs.alert.getLsbD 7 = true) ∧
    (¬ ImagePasses .dist s.dist.b.hs h k → ¬ ImagePasses .dist s.dist.b.hs h2 k2 →
      t.dist.b.hs.running = s.dist.b.hs.running ∧ FailCode t.dist.b.hs.boot ∧ t.dist.b.hs.alert.getLsbD 7 = true) ∧ DistOnly s t := by
  by_cases hpass : ImagePasses .dist s.dist.b.hs h k
  · exact ⟨_, bootComplete_dist_accepts hboot hpass, fun _ => bootAccept_runs .., fun hnot => absurd hpass hnot,
      fun hnot => absurd hpass hnot, rfl, rfl, rfl⟩
  obtain ⟨c, hfail⟩ := bootTest_some_of_not_passes hpass
  by_cases hpass2 : ImagePasses .dist s.dist.b.hs h2 k2
  · refine ⟨_, bootComplete_dist_fallback hboot hfail hpass2, fun h => absurd h hpass, fun _ _ => ?_, fun _ hnot => absurd hpass2 hnot,
      (alert_choice _ .dist 7).part⟩
    have hhs := alert_hs (putSlot ((putSlot s s.dist.b.hs.bootSlot 0).modHs .dist fun x =>
      { bootAccept x h2 with slotBooted := 1 - s.dist.b.hs.bootSlot, fallback := true }) (1 - s.dist.b.hs.bootSlot) (slotBitsOf h2)) .dist 7
    exact ⟨(congrArg (·.running) hhs :), (congrArg (·.slotBooted) hhs :), (congrArg (·.fallback) hhs :),
      (congrArg (·.fwVersion) hhs :), alert_bit _ .dist (by decide)⟩
  · obtain ⟨c2, hfail2⟩ := bootTest_some_of_not_passes hpass2
    refine ⟨_, bootComplete_dist_refuses hboot hfail hfail2, fun h => absurd h hpass, fun _ h => absurd h hpass2, fun _ _ => ?_,
      (alert_choice _ .dist 7).part⟩
    have hhs := alert_hs (putSlot ((putSlot s s.dist.b.hs.bootSlot 0).modHs .dist fun x => { x with boot := c2 })
      (1 - s.dist.b.hs.bootSlot) 0) .dist 7
    exact ⟨(congrArg (·.running) hhs :), (congrArg (·.boot) hhs :) ▸ bootTest_failCode hfail2, alert_bit _ .dist (by decide)⟩

end

/-! ### Resets and power (R54, R359, R377, R452, R478, R479) -/

theorem tsuResetRelease_releases {s : State} (hreset : s.tsu.die.inReset = true) :
    exec .tsuResetRelease s = .next { s with tsu := { s.tsu with
      die := { s.tsu.die with inReset := false }
      b := { s.tsu.b with hs := { s.tsu.b.hs with bootCount := s.tsu.b.hs.bootCount + 1 } } } } := by
  show execTsuResetRelease s = _
  unfold execTsuResetRelease
  rw [if_neg (by simp [hreset])]
  rfl

theorem tsuResetRelease_idle {s : State} (hreset : s.tsu.die.inReset = false) : exec .tsuResetRelease s = .next s := by
  show execTsuResetRelease s = _
  unfold execTsuResetRelease
  rw [if_pos (by simp [hreset])]

theorem fwGo_starts {addr : W64} {s : State} (hreset : s.tsu.die.inReset = false) (hloading : s.tsu.b.hs.boot ≠ 1)
    (haccepted : s.tsu.b.hs.boot ≠ 2) : exec (.fwGo addr) s = .next
      { s with tsu := { s.tsu with b := { s.tsu.b with hs := { s.tsu.b.hs with fwAddr := addr, boot := 1 } } } } := by
  show execFwGo addr s = _
  unfold execFwGo
  dsimp only
  rw [if_neg (by simp [hreset, hloading, haccepted])]
  rfl

theorem fwGo_idle {addr : W64} {s : State} (hbusy : s.tsu.die.inReset = true ∨ s.tsu.b.hs.boot = 1 ∨ s.tsu.b.hs.boot = 2) :
    exec (.fwGo addr) s = .next s := by
  show execFwGo addr s = _
  unfold execFwGo
  dsimp only
  rw [if_pos (by simpa [or_assoc] using hbusy)]

/-- The role that the strap pins name (R53). -/
theorem roleOf_eq (role : BitVec 2) :
    roleOf role = if role = 1 then .rack else if role = 2 then .row else if role = 3 then .root else .none_ := by
  revert role
  decide

/-- What a distributor is once its straps are sampled (R53, R54). -/
def powerOn (role : BitVec 2) (pb rc : Bool) (smb : BitVec 3) (s : State) : State :=
  { s with dist := { distClear s.dist with
    b.hs := { (distClear s.dist).b.hs with boot := 1, bootCount := (distClear s.dist).b.hs.bootCount + bit s.dist.sv.inReset }
    sv := { (distClear s.dist).sv with
      role := roleOf role, planeB := pb && roleOf role != .root, rootCapable := rc && roleOf role == .row, smb := smb
      strapped := true, inReset := false, dark := !s.dist.sv.present, lostPresence := false, tripped := false
      jtag := false, coldHold := decide (s.dist.b.tj < 0) } } }

theorem powerOnReset_starts {role : BitVec 2} {pb rc : Bool} {smb : BitVec 3} {s : State}
    (hoff : s.dist.sv.strapped = false ∨ s.dist.sv.inReset = true) :
    exec (.powerOnReset role pb rc smb) s = .next (powerOn role pb rc smb s) := by
  show execPowerOnReset role pb rc smb s = _
  unfold execPowerOnReset
  dsimp only
  rw [if_neg (by rcases hoff with h | h <;> simp [h])]
  rfl

theorem powerOnReset_idle {role : BitVec 2} {pb rc : Bool} {smb : BitVec 3} {s : State} (hstrap : s.dist.sv.strapped = true)
    (hreset : s.dist.sv.inReset = false) : exec (.powerOnReset role pb rc smb) s = .next s := by
  show execPowerOnReset role pb rc smb s = _
  unfold execPowerOnReset
  dsimp only
  rw [if_pos (by simp [hstrap, hreset])]

theorem roleOf_ne_root {role : BitVec 2} (h : role ≠ 3) : (roleOf role != .root) = true := by
  revert role
  decide

theorem nodePositionWrite_locked {v : W64} {s : State} (hlock : s.dist.sv.posLock = true) : exec (.nodePositionWrite v) s = .next s := by
  show Host.Outcome.next (nodePosition v s) = _
  unfold nodePosition
  dsimp only
  rw [if_pos (by simp [hlock])]

theorem nodeAt_of_role {v : W64} {s : State} :
    (s.role = .rack → nodeAt v s = some (mkNode 1 (bits v.toNat 4 0) (bits v.toNat 9 5) 0 (bit s.dist.sv.planeB) 0)) ∧
    (s.role = .row → nodeAt v s = some (mkNode 2 (bits v.toNat 4 0) 0 0 (bit s.dist.sv.planeB) 0)) ∧
    (s.role = .root → nodeAt v s = some (mkNode 3 0 0 0 0 (bits v.toNat 11 10))) := by
  unfold nodeAt nodeOf State.role
  refine ⟨fun h => ?_, fun h => ?_, fun h => ?_⟩ <;> rw [h]

/-- Settles O42: each clause by the lemma on its command above; the boot ROM's tests by `bootTest_none_iff`. -/
theorem resetsAndBootFollowTheRom : Obligations.ResetsAndBootFollowTheRom := by
  unfold Obligations.ResetsAndBootFollowTheRom
  refine ⟨fun s => ?_, fun s => ⟨tsuResetRelease_idle, tsuResetRelease_releases⟩, fun addr s => ⟨fwGo_idle, fwGo_starts⟩,
    fun p h h2 k k2 s => ⟨bootComplete_idle, fun hboot => ?_⟩, fun role pb rc smb s hoff => ?_,
    fun role pb rc smb s => powerOnReset_idle, fun i s hi => ?_, fun v s => ⟨nodePositionWrite_locked, fun hlock hrun hroot => ?_⟩⟩
  · exact ⟨_, rfl, rfl, rfl, rfl, fun _ => rfl, rfl, rfl, rfl, rfl, rfl, rfl, rfl, rfl, rfl⟩
  · cases p with
    | tsu =>
      obtain ⟨t, ht, hruns, hrefused, hpart⟩ := bootComplete_tsu (h := h) (h2 := h2) (k := k) (k2 := k2) hboot
      refine ⟨t, ht, hruns, fun _ hnot => ?_, fun hp => absurd hp (by decide), fun hp => absurd hp (by decide), hpart⟩
      obtain ⟨hrunning, ⟨hlow, hhigh⟩, halert, hread⟩ := hrefused hnot
      exact ⟨hrunning, hlow, hhigh, halert, hread⟩
    | dist =>
      obtain ⟨t, ht, hruns, hother, hrefused, hpart⟩ := bootComplete_dist (h := h) (h2 := h2) (k := k) (k2 := k2) hboot
      refine ⟨t, ht, hruns, fun hp => absurd hp (by decide), fun _ => hother, fun _ hnot hnot2 => ?_, hpart⟩
      obtain ⟨hrunning, ⟨hlow, _⟩, halert⟩ := hrefused hnot hnot2
      exact ⟨hrunning, hlow, halert⟩
  · refine ⟨_, powerOnReset_starts hoff, roleOf_eq role, rfl, rfl, rfl, rfl, rfl, fun hne => ?_, fun hrow => ?_, rfl, rfl, rfl, ?_,
      rfl, rfl, rfl⟩
    · exact (congrArg (pb && ·) (roleOf_ne_root hne)).trans (Bool.and_true pb)
    · subst hrow
      exact Bool.and_true rc
    · exact Iff.of_eq (Bool.not_eq_true_eq_eq_false s.dist.sv.present)
  · have hne : Instr.dResetNAssert ≠ .powerGoodLoss := nofun
    rcases hi with rfl | rfl
    · exact ⟨_, rfl, rfl, rfl, rfl, fun _ => rfl, rfl, rfl, fun h => absurd h hne, fun _ => rfl, rfl, rfl, rfl⟩
    · exact ⟨_, rfl, rfl, rfl, rfl, fun _ => rfl, rfl, rfl, fun _ => rfl, fun h => absurd h.symm hne, rfl, rfl, rfl⟩
  · obtain ⟨hposLock, hposition, hnode, hjoining, hpart⟩ := nodePosition_locks hlock hrun hroot
    obtain ⟨hrack, hrow, hrootNode⟩ := nodeAt_of_role (v := v) (s := s)
    exact ⟨_, rfl, hposLock, hposition, fun h => hnode.trans (hrack h), fun h => hnode.trans (hrow h),
      fun h => hnode.trans (hrootNode h), hjoining, hpart⟩

end Sys2Proof.Machine

namespace Sys2Proof.Machine

open Sys2Proof

/-! ### The choice of a reference (R80, R82) -/

/-- What `refBetter` compares, the earlier component first: the quality key, whether the input gives phase, its priority and its
number. -/
def refRank (s : State) (i : Nat) : Nat ×ₗ Nat ×ₗ Nat ×ₗ Nat :=
  toLex (refKey s i, toLex (bit (!phaseCapable i), toLex (refPrio s i, i)))

theorem refBetter_iff (s : State) (a b : Nat) : refBetter s a b = true ↔ refRank s a < refRank s b := by
  simp only [refRank, Prod.Lex.toLex_lt_toLex]
  unfold refBetter
  by_cases hkey : refKey s a = refKey s b
  · cases ha : phaseCapable a <;> cases hb : phaseCapable b
    all_goals
      by_cases hprio : refPrio s a = refPrio s b
      · simp [hkey, hprio, bit]
      · simp [hkey, hprio, bit]
  · simp [hkey]

theorem refRank_injective (s : State) : Function.Injective (refRank s) := fun _ _ h => by
  simp only [refRank, EmbeddingLike.apply_eq_iff_eq, Prod.mk.injEq] at h
  exact h.2.2.2

/-- Whether selection may take an input now: eligible and not far (R82). -/
def refOpen (s : State) (i : Nat) : Bool := refEligible s i && !refFar s i

/-- One comparison of select(): the better of the best so far and the next input. -/
def refTake (s : State) (best i : Nat) : Nat := if refOpen s i && refBetter s i best then i else best

theorem refSelect_eq (s : State) : refSelect s = (List.range 5).foldl (refTake s) 5 := rfl

theorem refTake_rank_le (s : State) (best i : Nat) : refRank s (refTake s best i) ≤ refRank s best := by
  unfold refTake
  split
  · rename_i h
    exact ((refBetter_iff ..).mp (Bool.and_eq_true_iff.mp h).2).le
  · exact le_rfl

theorem refTake_rank_le_of_open {s : State} {i : Nat} (best : Nat) (h : refOpen s i = true) :
    refRank s (refTake s best i) ≤ refRank s i := by
  unfold refTake
  split
  · exact le_rfl
  · rename_i hnot
    rw [h, Bool.true_and, refBetter_iff] at hnot
    exact not_lt.mp hnot

/-- What the comparisons leave is the first best or one of the inputs open to selection, and ranks before all of them. -/
theorem foldl_refTake (s : State) : ∀ (l : List Nat) (best : Nat),
    (l.foldl (refTake s) best = best ∨ l.foldl (refTake s) best ∈ l ∧ refOpen s (l.foldl (refTake s) best) = true) ∧
    refRank s (l.foldl (refTake s) best) ≤ refRank s best ∧
    ∀ i ∈ l, refOpen s i = true → refRank s (l.foldl (refTake s) best) ≤ refRank s i
  | [], best => ⟨.inl rfl, le_rfl, by simp⟩
  | j :: l, best => by
    obtain ⟨hmem, hbest, hall⟩ := foldl_refTake s l (refTake s best j)
    rw [List.foldl_cons]
    refine ⟨?_, hbest.trans (refTake_rank_le ..), fun i hi hopen => ?_⟩
    · rcases hmem with heq | ⟨hl, hopen⟩
      · rw [heq]
        unfold refTake
        split
        · rename_i h
          exact .inr ⟨List.mem_cons_self .., (Bool.and_eq_true_iff.mp h).1⟩
        · exact .inl rfl
      · exact .inr ⟨List.mem_cons_of_mem _ hl, hopen⟩
    · rcases List.mem_cons.mp hi with rfl | hl
      · exact hbest.trans (refTake_rank_le_of_open best hopen)
      · exact hall i hl hopen

/-- An input other than 5 that is selected is open to selection. -/
theorem refSelect_open {s : State} (h : refSelect s ≠ 5) : refSelect s < 5 ∧ refOpen s (refSelect s) = true := by
  obtain ⟨hmem, -, -⟩ := foldl_refTake s (List.range 5) 5
  rw [← refSelect_eq] at hmem
  obtain ⟨hlt, hopen⟩ := hmem.resolve_left h
  exact ⟨List.mem_range.mp hlt, hopen⟩

theorem refSelect_better_ocxo {s : State} (h : refSelect s ≠ 5) : refBetter s (refSelect s) 5 = true := by
  obtain ⟨-, hle, -⟩ := foldl_refTake s (List.range 5) 5
  exact (refBetter_iff ..).mpr (lt_of_le_of_ne hle fun e => h (refRank_injective s e))

theorem refSelect_better {s : State} {i : Nat} (hi : i < 5) (hopen : refOpen s i = true) (hne : i ≠ refSelect s) :
    refBetter s (refSelect s) i = true := by
  obtain ⟨-, -, hall⟩ := foldl_refTake s (List.range 5) 5
  exact (refBetter_iff ..).mpr (lt_of_le_of_ne (hall i (List.mem_range.mpr hi) hopen) fun e => hne (refRank_injective s e).symm)

theorem refBetter_asymm {s : State} {a b : Nat} (h : refBetter s a b = true) : refBetter s b a = false :=
  Bool.eq_false_iff.mpr fun k => ((refBetter_iff ..).mp h).not_gt ((refBetter_iff ..).mp k)

theorem refSelect_picks (s : State) : refSelect s ≤ 5 ∧
    (refSelect s ≠ 5 → refEligible s (refSelect s) = true ∧ refFar s (refSelect s) = false ∧ refBetter s (refSelect s) 5 = true) ∧
    ∀ i, i < 5 → refEligible s i = true → refFar s i = false → i ≠ refSelect s →
      refBetter s i (refSelect s) = false ∧ refBetter s (refSelect s) i = true := by
  refine ⟨?_, fun h => ?_, fun i hi helig hfar hne => ?_⟩
  · by_cases h : refSelect s = 5
    · exact h.le
    · exact (refSelect_open h).1.le
  · obtain ⟨-, hopen⟩ := refSelect_open h
    obtain ⟨helig, hfar⟩ := Bool.and_eq_true_iff.mp hopen
    exact ⟨helig, by simpa using hfar, refSelect_better_ocxo h⟩
  · have hbetter := refSelect_better hi (by simp [refOpen, helig, hfar]) hne
    exact ⟨refBetter_asymm hbetter, hbetter⟩

/-! ### Values held to bounds -/

theorem clampI_bounds {lo hi : Int} (h : lo ≤ hi) (x : Int) : lo ≤ clampI lo hi x ∧ clampI lo hi x ≤ hi := by
  unfold clampI
  split
  · omega
  · split <;> omega

/-- A move held to bounds around 0 goes no further than it was wanted, and not the other way. -/
theorem clampI_toward {lo hi : Int} (hlo : lo ≤ 0) (hhi : 0 ≤ hi) (x : Int) :
    (0 ≤ clampI lo hi x ∨ x ≤ clampI lo hi x) ∧ (clampI lo hi x ≤ 0 ∨ clampI lo hi x ≤ x) := by
  unfold clampI
  split
  · omega
  · split <;> omega

theorem guardVal_le (b : Base) (i : Nat) {dflt hw : Nat} (h : dflt ≤ hw) : guardVal b i dflt hw ≤ hw := by
  unfold guardVal
  dsimp only
  split
  · exact h
  · exact Nat.min_le_right ..

/-! ### What a root's periodic run leaves (R82, R86) -/

/-- `t` differs from `s` in what a row of the state table can change, and in the input selected (R82, R86). -/
def RefRowOnly (s t : State) : Prop := t = { s with dist.refs := { s.dist.refs with
  selected := t.dist.refs.selected, state := t.dist.refs.state, before := t.dist.refs.before, pull := t.dist.refs.pull
  originNeeded := t.dist.refs.originNeeded, near := t.dist.refs.near, holdShort := t.dist.refs.holdShort
  freqAssist := t.dist.refs.freqAssist, lockedAt := t.dist.refs.lockedAt, lossAt := t.dist.refs.lossAt
  holdVal := t.dist.refs.holdVal, e0 := t.dist.refs.e0 } }

theorem RefRowOnly.refl (s : State) : RefRowOnly s s := rfl

theorem RefRowOnly.trans {s t u : State} (h : RefRowOnly s t) (k : RefRowOnly t u) : RefRowOnly s u := by
  unfold RefRowOnly at *
  rw [k, h]

theorem acquire_row (s : State) (e : Option Int) : RefRowOnly s (acquire s e) := by
  unfold acquire
  dsimp only
  split
  · rfl
  · split
    · rfl
    · split
      · rfl
      · split <;> rfl

theorem refTransition_row (s : State) (old : Nat) : RefRowOnly s (refTransition s old) := by
  unfold refTransition
  dsimp only
  split
  · split <;> rfl
  · split
    · exact acquire_row ..
    · rfl
  · split
    · rfl
    · split <;> rfl
  · split
    · rfl
    · split <;> rfl
  · split <;> rfl

theorem acquire_selected (s : State) (e : Option Int) : (acquire s e).dist.refs.selected = s.dist.refs.selected := by
  unfold acquire
  dsimp only
  split
  · rfl
  · split
    · rfl
    · split
      · rfl
      · split <;> rfl

theorem refTransition_selected (s : State) (old : Nat) : (refTransition s old).dist.refs.selected = s.dist.refs.selected := by
  unfold refTransition
  dsimp only
  split
  · split <;> rfl
  · split
    · exact acquire_selected ..
    · rfl
  · split
    · rfl
    · split <;> rfl
  · split
    · rfl
    · split <;> rfl
  · split <;> rfl

theorem refRun_row (s : State) : RefRowOnly s (refRun s) := by
  have hselect : RefRowOnly s (s.modRefs fun r => { r with selected := refSelect s }) := rfl
  exact (hselect.trans (refTransition_row ..)).trans rfl

theorem refRun_selected (s : State) : (refRun s).dist.refs.selected = refSelect s := refTransition_selected ..

/-- `t` keeps the die, the master count, and of the references the rates, the run counted and the input selected. -/
structure RatesKept (s t : State) : Prop where
  part : DistOnly s t
  acc : t.dist.b.t.acc = s.dist.b.t.acc
  ran : t.dist.refs.ran = s.dist.refs.ran
  selected : t.dist.refs.selected = s.dist.refs.selected
  yc : t.dist.refs.yc = s.dist.refs.yc
  ys : t.dist.refs.ys = s.dist.refs.ys

theorem RatesKept.refl (s : State) : RatesKept s s := ⟨⟨rfl, rfl, rfl⟩, rfl, rfl, rfl, rfl, rfl⟩

theorem RatesKept.trans {s t u : State} (h : RatesKept s t) (k : RatesKept t u) : RatesKept s u where
  part := partOnly_trans (p := .dist) h.part k.part
  acc := k.acc.trans h.acc
  ran := k.ran.trans h.ran
  selected := k.selected.trans h.selected
  yc := k.yc.trans h.yc
  ys := k.ys.trans h.ys

theorem RatesKept.foldl {α : Type} (f : State → α → State) (h : ∀ s a, RatesKept s (f s a)) :
    ∀ (l : List α) (s : State), RatesKept s (l.foldl f s)
  | [], s => .refl s
  | a :: l, s => (h s a).trans (RatesKept.foldl f h l (f s a))

theorem SendsOnly.rates {s t : State} (h : SendsOnly .dist s t) : RatesKept s t := by
  have hacc : (t.base .dist).t.acc = (s.base .dist).t.acc := by rw [h.base]
  have hrefs : t.dist.refs = s.dist.refs := by rw [h.dist]
  exact ⟨h.part, hacc, by rw [hrefs], by rw [hrefs], by rw [hrefs], by rw [hrefs]⟩

theorem modBase_rates (s : State) (f : Base → Base) (h : ∀ b, (f b).t.acc = b.t.acc) : RatesKept s (s.modBase .dist f) :=
  ⟨⟨rfl, rfl, rfl⟩, h _, rfl, rfl, rfl, rfl⟩

theorem modTime_rates (s : State) (f : TimeState → TimeState) (h : ∀ t, (f t).acc = t.acc) : RatesKept s (s.modTime .dist f) :=
  ⟨⟨rfl, rfl, rfl⟩, h _, rfl, rfl, rfl, rfl⟩

theorem modMap_rates (s : State) (f : MapState → MapState) : RatesKept s (s.modMap .dist f) :=
  ⟨⟨rfl, rfl, rfl⟩, rfl, rfl, rfl, rfl, rfl⟩

theorem guardHit_rates (s : State) (g : Nat) (attempted : W64) : RatesKept s (guardHit s .dist g attempted) := by
  unfold guardHit drawWord State.modHs
  dsimp only
  have hcount : RatesKept s (s.count .dist .guardHit g {} 1) := (count_counts ..).sends.rates
  generalize s.count .dist .guardHit g {} 1 = s1 at *
  split
  · exact hcount
  · refine .trans ?_ (fr_counts ..).sends.rates
    exact hcount.trans ((modBase_rates s1 (fun b => { b with drawn := b.drawn + 1 }) fun _ => rfl).trans (modBase_rates _ _ fun _ => rfl))

theorem drawRate_rates (s : State) : RatesKept s (drawRate s).2 :=
  modBase_rates s (fun b => { b with drawn := b.drawn + 1 }) fun _ => rfl

theorem ycGoal_rates (s : State) : RatesKept s (ycGoal s).2 := by
  unfold ycGoal
  dsimp only
  split
  · exact .refl s
  · split
    · exact .refl s
    · exact drawRate_rates s

theorem ysGoal_rates (s : State) : RatesKept s (ysGoal s).2 := by
  unfold ysGoal
  split
  · exact drawRate_rates s
  · exact .refl s

theorem pullEnd_rates (s : State) : RatesKept s (pullEnd s) := by
  unfold pullEnd
  split
  · split
    · exact ⟨⟨rfl, rfl, rfl⟩, rfl, rfl, rfl, rfl, rfl⟩
    · exact .refl s
  · exact ⟨⟨rfl, rfl, rfl⟩, rfl, rfl, rfl, rfl, rfl⟩

/-- The judgement of the roots' votes changes e_used and its flags alone (R95). -/
theorem refJudge_eq (lim : Nat) (r : Refs) : refJudge lim r = { r with
    eUsed := (refJudge lim r).eUsed, outlier := (refJudge lim r).outlier, conflict := (refJudge lim r).conflict
    unchecked := (refJudge lim r).unchecked } := by
  unfold refJudge
  dsimp only
  split
  · rfl
  · split <;> rfl
  · rfl
  · rfl

theorem refJudge_rates {s : State} {f : Refs → Refs} (lim : Nat) (h : ∀ r, f r = { r with votes := (f r).votes }) :
    RatesKept s (s.modRefs fun r => refJudge lim (f r)) := by
  have hjudge : ∀ r, (refJudge lim (f r)).ran = r.ran ∧ (refJudge lim (f r)).selected = r.selected ∧
      (refJudge lim (f r)).yc = r.yc ∧ (refJudge lim (f r)).ys = r.ys := fun r => by
    rw [refJudge_eq, h r]
    exact ⟨rfl, rfl, rfl, rfl⟩
  obtain ⟨hran, hselected, hyc, hys⟩ := hjudge s.dist.refs
  exact ⟨⟨rfl, rfl, rfl⟩, rfl, hran, hselected, hyc, hys⟩

theorem refVoteSend_rates (s : State) : RatesKept s (refVoteSend s) := by
  unfold refVoteSend
  extract_lets v s1 ports body s2
  have hjudge : RatesKept s s1 := refJudge_rates _ fun _ => rfl
  have hsent : RatesKept s s2 := hjudge.trans (sendVotes_sends ..).rates
  split
  · exact hsent.trans (.foldl _ (fun t n => (sendVotes_sends ..).rates) _ _)
  · exact hsent

/-! ### The rates move within their limits (R83) -/

/-- `t` is `s` with its rates moved: y_c by `dc` and y_s by `ds`. -/
structure RatesMoved (dc ds : Int) (s t : State) : Prop where
  part : DistOnly s t
  acc : t.dist.b.t.acc = s.dist.b.t.acc
  ran : t.dist.refs.ran = s.dist.refs.ran
  selected : t.dist.refs.selected = s.dist.refs.selected
  yc : t.dist.refs.yc = s.dist.refs.yc + dc
  ys : t.dist.refs.ys = s.dist.refs.ys + ds

theorem RatesMoved.trans_kept {dc ds : Int} {s t u : State} (h : RatesMoved dc ds s t) (k : RatesKept t u) : RatesMoved dc ds s u where
  part := partOnly_trans (p := .dist) h.part k.part
  acc := k.acc.trans h.acc
  ran := k.ran.trans h.ran
  selected := k.selected.trans h.selected
  yc := k.yc.trans h.yc
  ys := k.ys.trans h.ys

theorem RatesKept.trans_moved {dc ds : Int} {s t u : State} (h : RatesKept s t) (k : RatesMoved dc ds t u) : RatesMoved dc ds s u where
  part := partOnly_trans (p := .dist) h.part k.part
  acc := k.acc.trans h.acc
  ran := k.ran.trans h.ran
  selected := k.selected.trans h.selected
  yc := by rw [k.yc, h.yc]
  ys := by rw [k.ys, h.ys]

theorem modRefs_moves (s : State) (dc ds : Int) :
    RatesMoved dc ds s (s.modRefs fun r => { r with yc := r.yc + dc, ys := r.ys + ds }) :=
  ⟨⟨rfl, rfl, rfl⟩, rfl, rfl, rfl, rfl, rfl⟩

/-- A move of the rates from y_c within the limits of R83: y_c by at most 5 ppb/s and not beyond 50 ppb, both together by at most
5 ppb/s. -/
structure WithinSlew (yc dc ds : Int) : Prop where
  step : dc.natAbs ≤ 131072
  range : (yc + dc).natAbs ≤ 5000000000
  joint : (dc + ds).natAbs ≤ 131072

/-- The guards of R382 are no wider than R83's limits, and each move is held to them. -/
theorem withinSlew_of_clamps {g0 g1 yc want lo hi wantS : Int} (hyc : yc.natAbs ≤ 5000000000) (hg0 : 0 ≤ g0) (hg0' : g0 ≤ 5000000000)
    (hg1 : 0 ≤ g1) (hg1' : g1 ≤ 131072) :
    WithinSlew yc (clampI (-g1) g1 (clampI (-g0) g0 want - yc)) (clampI (-g1 - clampI (-g1) g1 (clampI (-g0) g0 want - yc))
      (g1 - clampI (-g1) g1 (clampI (-g0) g0 want - yc)) (clampI lo hi wantS)) := by
  obtain ⟨hlo, hhi⟩ := clampI_bounds (neg_le_self hg0) want
  generalize clampI (-g0) g0 want = c0 at *
  obtain ⟨hdlo, hdhi⟩ := clampI_bounds (neg_le_self hg1) (c0 - yc)
  obtain ⟨hup, hdown⟩ := clampI_toward (neg_nonpos.mpr hg1) hg1 (c0 - yc)
  generalize clampI (-g1) g1 (c0 - yc) = dc at *
  obtain ⟨hslo, hshi⟩ := clampI_bounds (show -g1 - dc ≤ g1 - dc by omega) (clampI lo hi wantS)
  exact ⟨by omega, by omega, by omega⟩

theorem ratesMove_moves {s : State} (hyc : s.dist.refs.yc.natAbs ≤ 5000000000) :
    ∃ dc ds, WithinSlew s.dist.refs.yc dc ds ∧ RatesMoved dc ds s (ratesMove s) := by
  have hguard0 := guardVal_le s.dist.b 0 (le_refl 50000)
  have hguard1 := guardVal_le s.dist.b 1 (le_refl 5000)
  unfold ratesMove
  extract_lets r g0 g1 want wantS s1 c0 s2 dc ds0 ds s3
  refine ⟨dc, ds, withinSlew_of_clamps hyc (by omega) (by omega) (by omega) (by omega), ?_⟩
  have h1 : RatesKept s s1 := (ycGoal_rates s).trans (ysGoal_rates _)
  have h2 : RatesKept s s2 := by
    simp only [s2]
    split
    · exact h1
    · exact h1.trans (guardHit_rates ..)
  have h3 : RatesKept s s3 := by
    simp only [s3]
    split
    · exact h2
    · exact h2.trans (guardHit_rates ..)
  exact h3.trans_moved (modRefs_moves s3 dc ds)

/-! ### SELECTION_RUN (R82, R83) -/

theorem Refs.steer_eq (now : St) (r : Refs) :
    r.steer now = { r with steered := (r.steer now).steered, runAt := some now } := by
  unfold Refs.steer
  split <;> rfl

theorem Refs.tally_eq (sec : Nat) (r : Refs) : r.tally sec = { r with
    means := (r.tally sec).means, second := sec, secSum := (r.tally sec).secSum, secRuns := (r.tally sec).secRuns } := by
  unfold Refs.tally
  dsimp only
  split <;> rfl

/-- The state with the input selected that R82's select() picks. -/
def withSelection (s : State) : State := s.modRefs fun r => { r with selected := refSelect s }

theorem refRun_rates (s : State) : RatesKept (withSelection s) (refRun s) := by
  have hselected : (refRun s).dist.refs.selected = (withSelection s).dist.refs.selected := refRun_selected s
  have hrow := refRun_row s
  generalize refRun s = t at *
  unfold RefRowOnly at hrow
  refine ⟨?_, ?_, ?_, hselected, ?_, ?_⟩
  · rw [hrow]
    exact ⟨rfl, rfl, rfl⟩
  all_goals
    rw [hrow]
    rfl

/-- Noting the phase that y_c has moved leaves the rates and the choice. -/
theorem withSelection_steer (s : State) (now : St) : RatesKept (withSelection s) (withSelection (s.modRefs (Refs.steer now))) := by
  have hsteer : s.modRefs (Refs.steer now) = s.modRefs fun r => { r with steered := (r.steer now).steered, runAt := some now } :=
    congrArg (fun r => s.modRefs fun _ => r) (Refs.steer_eq now s.dist.refs)
  rw [hsteer]
  exact ⟨⟨rfl, rfl, rfl⟩, rfl, rfl, rfl, rfl, rfl⟩

theorem tally_rates (s : State) (sec e : Nat) : RatesKept s (s.modRefs fun r => { Refs.tally sec r with absErr := e }) := by
  have htally := Refs.tally_eq sec s.dist.refs
  refine ⟨⟨rfl, rfl, rfl⟩, rfl, ?_, ?_, ?_, ?_⟩
  all_goals
    rw [State.modRefs_refs, htally]

/-- A periodic run selects, and then moves the rates within their limits. -/
theorem refPeriodic_moves {s : State} (hyc : s.dist.refs.yc.natAbs ≤ 5000000000) :
    ∃ dc ds, WithinSlew s.dist.refs.yc dc ds ∧ RatesMoved dc ds (withSelection s) (refPeriodic s) := by
  unfold refPeriodic
  extract_lets now s1 s2 s3 s4 s5
  have h1 : RatesKept (withSelection s) (refRun s1) := (withSelection_steer s now).trans (refRun_rates s1)
  obtain ⟨dc, ds, hwithin, hmoved⟩ := ratesMove_moves (s := refRun s1) (by rw [h1.yc]; exact hyc)
  rw [h1.yc] at hwithin
  refine ⟨dc, ds, hwithin, ?_⟩
  have h2 : RatesMoved dc ds (withSelection s) s2 := (h1.trans_moved hmoved).trans_kept (pullEnd_rates _)
  have h4 : RatesMoved dc ds (withSelection s) s4 := (h2.trans_kept (tally_rates s2 _ _)).trans_kept (refVoteSend_rates _)
  split
  · have h5 : RatesKept s4 s5 := modTime_rates s4 _ fun _ => rfl
    exact h4.trans_kept (h5.trans (modMap_rates s5 _))
  · exact h4

/-- The state in which a run of the present 1,024-tick window has begun. -/
def runBegun (s : State) : State := s.modRefs fun r => { r with ran := some ((tickOf (s.now .dist)).toNat / 1024) }

theorem refSelect_runBegun (s : State) : refSelect (runBegun s) = refSelect s := rfl

/-- A selection run that is due, at a root in service that holds time. -/
theorem selectionRun_due {s : State} (hrole : s.role = .root) (hservice : s.dist.sv.state = .inService)
    (hheld : s.dist.b.t.held = true) (hran : s.dist.refs.ran ≠ some ((tickOf (s.now .dist)).toNat / 1024)) :
    exec .selectionRun s = .next (refPeriodic (runBegun s)) := by
  have hserves : servesRoot s = true := by simp [servesRoot, hrole, hservice]
  have hdue : ¬ ((!servesRoot s || !s.dist.b.t.held || s.dist.refs.ran == some ((tickOf (s.now .dist)).toNat / 1024)) = true) := by
    simp [hserves, hheld, hran]
  have hroot : ((runBegun s).role == Role.root) = true := beq_iff_eq.mpr hrole
  exact congrArg Host.Outcome.next ((if_neg hdue).trans (if_pos hroot))

/-- Settles O10: selection is the least input in the order of `refRank`; a run moves the rates as `withinSlew_of_clamps` bounds. -/
theorem selectionPicksAndSlews : Obligations.SelectionPicksAndSlews := by
  unfold Obligations.SelectionPicksAndSlews
  refine ⟨refSelect_picks, fun s hrole hservice hheld hran hyc => ⟨_, selectionRun_due hrole hservice hheld hran, ?_⟩⟩
  obtain ⟨dc, ds, ⟨hstep, hrange, hjoint⟩, hmoved⟩ := refPeriodic_moves (s := runBegun s) hyc
  generalize refPeriodic (runBegun s) = t at *
  obtain ⟨hpart, hacc, hranKept, hselected, hycMoved, hysMoved⟩ := hmoved
  have hselect : t.dist.refs.selected = refSelect s := hselected.trans (refSelect_runBegun s)
  have hyc' : t.dist.refs.yc = s.dist.refs.yc + dc := hycMoved
  have hys' : t.dist.refs.ys = s.dist.refs.ys + ds := hysMoved
  have hrange' : (s.dist.refs.yc + dc).natAbs ≤ 5000000000 := hrange
  refine ⟨hranKept, hselect, ?_, ?_, ?_, hacc, hpart⟩ <;> omega

end Sys2Proof.Machine

namespace Sys2Proof.Machine

open Sys2Proof

/-! ### The end of a port's window (R136, R157) -/

theorem modOff_reports (s : State) (p : Part) (i : Nat) (f : Offset → Offset) : ReportsOnly p s (s.modOff p i f) :=
  (modPort_sends ..).reports

theorem count_reports (s : State) (p : Part) (c : Ctr) (i : Nat) (f : Flt) (n : Nat) : ReportsOnly p s (s.count p c i f n) :=
  (count_counts ..).sends.reports

/-- Ending a port's window changes the ports, and sends and counts what R157 asks for. -/
theorem portWindow_reports (p : Part) (s : State) (i : Nat) : ReportsOnly p s (portWindow p s i) := by
  unfold portWindow
  extract_lets q o miss s1 s2 s3
  have hpair : ReportsOnly p s s2 := by
    simp only [s2]
    split
    · split
      · exact (modOff_reports ..).trans (suspectPort_reports ..)
      · exact modOff_reports ..
    · exact .refl p s
  have hskip : ReportsOnly p s s3 := by
    simp only [s3]
    split
    · exact hpair.trans (count_reports ..)
    · exact hpair
  split
  · exact .refl p s
  · exact hskip.trans (modOff_reports ..)

/-- Another port keeps everything but what waits to be sent. -/
theorem portWindow_port_ne (p : Part) (s : State) {i j : Nat} (h : j ≠ i) :
    (portWindow p s i).port p j = { s.port p j with tx := ((portWindow p s i).port p j).tx } := by
  have hoff : ∀ (t : State) (f : Offset → Offset), (t.modOff p i f).port p j = t.port p j := fun t f => port_modPort_ne t p h _
  have hraise : ∀ (t : State) (cause : Nat) (d : W32), (suspectPort t p i cause d).port p j =
      { t.port p j with tx := ((suspectPort t p i cause d).port p j).tx } := fun t cause d => (raise_tx ..).port j
  have hcount : ∀ t : State, (t.count p .portLoopSkip i { port := some i } 1).port p j = t.port p j :=
    fun t => (count_counts ..).port_eq j
  unfold portWindow
  extract_lets q o miss s1 s2 s3
  have h2 : s2.port p j = { s.port p j with tx := (s2.port p j).tx } := by
    simp only [s2]
    split
    · split
      · rw [hraise, hoff]
      · rw [hoff]
    · rfl
  have h3 : s3.port p j = { s.port p j with tx := (s3.port p j).tx } := by
    simp only [s3]
    split
    · rw [hcount, h2]
    · exact h2
  split
  · rfl
  · rw [hoff, h3]

/-- A window of at least 512 samples has a mean; the sums of the next begin at 0. -/
theorem portWindow_off {p : Part} {s : State} {i : Nat} (hlive : (s.port p i).live = true) :
    ((portWindow p s i).port p i).off.count = 0 ∧
    ((portWindow p s i).port p i).off.meanValid = decide (512 ≤ (s.port p i).off.count) ∧
    (512 ≤ (s.port p i).off.count →
      ((portWindow p s i).port p i).off.mean = (s.port p i).off.sum * 8 / ((s.port p i).off.count : Int)) := by
  have hraise : ∀ (t : State) (cause : Nat) (d : W32), ((suspectPort t p i cause d).port p i).off = (t.port p i).off :=
    fun t cause d => (congrArg Port.off ((raise_tx ..).port i) :)
  have hmiss : ∀ (t : State) (b : Bool), ((t.modOff p i fun o => { o with ofsMiss := if b && o.ofsMiss = 0 then 1 else 0 }).port p i).off =
      { (t.port p i).off with ofsMiss := if b && (t.port p i).off.ofsMiss = 0 then 1 else 0 } :=
    fun t b => (congrArg Port.off (port_modPort ..) :)
  have hcount : ∀ t : State, (t.count p .portLoopSkip i { port := some i } 1).port p i = t.port p i :=
    fun t => (count_counts ..).port_eq i
  unfold portWindow
  extract_lets q o miss s1 s2 s3
  have h2 : (s2.port p i).off = { o with ofsMiss := (s2.port p i).off.ofsMiss } := by
    simp only [s2]
    split
    · split
      · rw [hraise, hmiss]
      · rw [hmiss]
    · rfl
  have h3 : (s3.port p i).off = { o with ofsMiss := (s3.port p i).off.ofsMiss } := by
    simp only [s3]
    split
    · rw [hcount, h2]
    · exact h2
  have hcounts : ¬ ((!(q.live || q.link.state == .timecal)) = true) := by simp [q, hlive]
  rw [if_neg hcounts]
  unfold State.modOff
  rw [port_modPort]
  dsimp only
  rw [h3]
  exact ⟨rfl, rfl, fun h => if_neg (Nat.not_lt.mpr h)⟩

/-- A port's window counts nothing under the part's own skips. -/
theorem portWindow_loopSkip (p : Part) (s : State) {i : Nat} (hi : i < 2 ^ 20) :
    ((portWindow p s i).base p).ctr .loopSkip 0 = (s.base p).ctr .loopSkip 0 := by
  have hoff : ∀ (t : State) (f : Offset → Offset), ((t.modOff p i f).base p).ctr .loopSkip 0 = (t.base p).ctr .loopSkip 0 :=
    fun t f => (modPort_ctrs t p i _).ctr _ _ (by simp [Ctr.ofSending]) (by decide)
  have hraise : ∀ (t : State) (cause : Nat) (d : W32), ((suspectPort t p i cause d).base p).ctr .loopSkip 0 =
      (t.base p).ctr .loopSkip 0 := fun t cause d => (suspectPort_ctrs ..).ctr _ _ (by simp [Ctr.ofSending]) (by decide)
  have hcount : ∀ t : State, ((t.count p .portLoopSkip i { port := some i } 1).base p).ctr .loopSkip 0 =
      (t.base p).ctr .loopSkip 0 := fun t => count_ctr_ne _ _ _ _ _ _ _ _ (ctrKey_ne hi (by decide) (by simp))
  unfold portWindow
  extract_lets q o miss s1 s2 s3
  have h2 : (s2.base p).ctr .loopSkip 0 = (s.base p).ctr .loopSkip 0 := by
    simp only [s2]
    split
    · split
      · rw [hraise, hoff]
      · rw [hoff]
    · rfl
  have h3 : (s3.base p).ctr .loopSkip 0 = (s.base p).ctr .loopSkip 0 := by
    simp only [s3]
    split
    · rw [hcount, h2]
    · exact h2
  split
  · rfl
  · rw [hoff, h3]

/-! ### The windows of all ports -/

/-- The state in which the window of every port has ended. -/
def windowsEnded (p : Part) (s : State) : State :=
  (List.range (portCount p)).foldl (portWindow p) (s.modTime p fun t => { t with window := (tickOf (s.now p)).toNat / 1024 })

theorem ReportsOnly.foldl {α : Type} {p : Part} (f : State → α → State) (h : ∀ s a, ReportsOnly p s (f s a)) :
    ∀ (l : List α) (s : State), ReportsOnly p s (l.foldl f s)
  | [], s => .refl p s
  | a :: l, s => (h s a).trans (ReportsOnly.foldl f h l (f s a))

theorem windowsEnded_reports (p : Part) (s : State) :
    ReportsOnly p (s.modTime p fun t => { t with window := (tickOf (s.now p)).toNat / 1024 }) (windowsEnded p s) :=
  .foldl _ (portWindow_reports p) _ _

theorem foldl_portWindow_loopSkip (p : Part) : ∀ (l : List Nat) (s : State), (∀ i ∈ l, i < 2 ^ 20) →
    ((l.foldl (portWindow p) s).base p).ctr .loopSkip 0 = (s.base p).ctr .loopSkip 0
  | [], _, _ => rfl
  | i :: l, s, h => (foldl_portWindow_loopSkip p l _ fun j hj => h j (List.mem_cons_of_mem _ hj)).trans
    (portWindow_loopSkip p s (h i (List.mem_cons_self ..)))

theorem portCount_le (p : Part) : portCount p ≤ 128 := by cases p <;> decide

/-- What the end of the windows leaves at a live port, of its window as it stood in `q`. -/
def WindowEnded (p : Part) (i : Nat) (q : Port) (t : State) : Prop :=
  (t.port p i).off.count = 0 ∧ (t.port p i).off.meanValid = decide (512 ≤ q.off.count) ∧
    (512 ≤ q.off.count → (t.port p i).off.mean = q.off.sum * 8 / (q.off.count : Int))

theorem windowsEnded_port {p : Part} {i : Nat} {s : State} (hi : i < portCount p) (hlive : (s.port p i).live = true) :
    WindowEnded p i (s.port p i) (windowsEnded p s) := by
  have hfirst : ∀ f : TimeState → TimeState, (s.modTime p f).port p i = s.port p i := fun f => by
    unfold State.port State.modTime
    rw [base_modBase]
    rfl
  refine foldl_at (Pre := fun t => t.port p i = { s.port p i with tx := (t.port p i).tx }) (fun t j hj hpre => ?_)
    (fun t hpre => ?_) (fun t j hj hpost => ?_) _ _ List.nodup_range (List.mem_range.mpr hi) (by rw [hfirst])
  · rw [portWindow_port_ne p t hj.symm, hpre]
  · have hoff : (t.port p i).off = (s.port p i).off := by rw [hpre]
    have hstate : (t.port p i).live = (s.port p i).live := by rw [hpre]; rfl
    have h := portWindow_off (hstate.trans hlive)
    rw [hoff] at h
    exact h
  · unfold WindowEnded
    rw [portWindow_port_ne p t hj.symm]
    exact hpost

/-! ### The loop (R139) -/

theorem windowsEnded_time (p : Part) (s : State) :
    ((windowsEnded p s).base p).t = { (s.base p).t with window := (tickOf (s.now p)).toNat / 1024 } := by
  rw [(windowsEnded_reports p s).base]
  unfold State.modTime
  rw [base_modBase]

theorem windowsEnded_part (p : Part) (s : State) : PartOnly p s (windowsEnded p s) :=
  partOnly_trans (modBase_partOnly ..) (windowsEnded_reports p s).part

theorem windowsEnded_loopSkip (p : Part) (s : State) :
    ((windowsEnded p s).base p).ctr .loopSkip 0 = (s.base p).ctr .loopSkip 0 := by
  have hlt : ∀ i ∈ List.range (portCount p), i < 2 ^ 20 := fun i hi => by
    have := List.mem_range.mp hi
    have := portCount_le p
    omega
  refine (foldl_portWindow_loopSkip p _ _ hlt).trans (ctr_eq_of_cnt ?_ ..)
  rw [State.modTime_cnt]

theorem windowsEnded_cfg (p : Part) (s : State) (off dflt : Nat) : (windowsEnded p s).cfg p off dflt = s.cfg p off dflt := by
  unfold State.cfg
  rw [(windowsEnded_reports p s).base]
  unfold State.modTime
  rw [base_modBase]
  rfl

theorem windowsEnded_trimLimit (p : Part) (s : State) : trimLimit (windowsEnded p s) p = trimLimit s p := by
  have h := windowsEnded_reports p s
  unfold trimLimit
  cases p with
  | tsu =>
    dsimp only
    rw [h.tsu]
    rfl
  | dist =>
    dsimp only
    rw [h.dist]
    rfl

theorem windowsEnded_isLeader (s : State) : isLeader (windowsEnded .dist s) = isLeader s := by
  have h := windowsEnded_reports .dist s
  have hleader : leaderOf (windowsEnded .dist s) .dist = leaderOf s .dist := by
    unfold leaderOf
    rw [h.base]
    rfl
  unfold isLeader State.role State.ownRoot
  rw [hleader, h.dist]
  rfl

/-- `t` keeps part `p`'s loop as it stood at the end of a window: the master count, the trims, the skips counted and the samples
of the ports. -/
structure LoopKept (p : Part) (s t : State) : Prop where
  part : PartOnly p s t
  acc : (t.base p).t.acc = (s.base p).t.acc
  integ : (t.base p).t.integ = (s.base p).t.integ
  trim : (t.base p).t.trim = (s.base p).t.trim
  trims : (t.base p).t.trims = (s.base p).t.trims
  skips : (t.base p).ctr .loopSkip 0 = (s.base p).ctr .loopSkip 0
  count : ∀ i, (t.port p i).off.count = (s.port p i).off.count

theorem LoopKept.refl (p : Part) (s : State) : LoopKept p s s := ⟨partOnly_refl p s, rfl, rfl, rfl, rfl, rfl, fun _ => rfl⟩

theorem LoopKept.trans {p : Part} {s t u : State} (h : LoopKept p s t) (k : LoopKept p t u) : LoopKept p s u where
  part := partOnly_trans h.part k.part
  acc := k.acc.trans h.acc
  integ := k.integ.trans h.integ
  trim := k.trim.trans h.trim
  trims := k.trims.trans h.trims
  skips := k.skips.trans h.skips
  count i := (k.count i).trans (h.count i)

theorem event_loop (s : State) (ev : Nat) (f : Flt) (n : Nat) : LoopKept .tsu s (s.event .tsu ev f n) :=
  ⟨⟨rfl, rfl, rfl⟩, rfl, rfl, rfl, rfl, rfl, fun _ => rfl⟩

theorem LoopKept.of_time {p : Part} {s t : State} (part : PartOnly p s t) (time : (t.base p).t = (s.base p).t)
    (skips : (t.base p).ctr .loopSkip 0 = (s.base p).ctr .loopSkip 0)
    (count : ∀ i, (t.port p i).off.count = (s.port p i).off.count) : LoopKept p s t :=
  ⟨part, by rw [time], by rw [time], by rw [time], by rw [time], skips, count⟩

theorem plateCancel_loop (s : State) (which : Armed → Bool) : LoopKept .tsu s (plateCancel s which) := by
  unfold plateCancel
  extract_lets gone s1 x s2
  have h2 : LoopKept .tsu s s2 := ⟨⟨rfl, rfl, rfl⟩, rfl, rfl, rfl, rfl, rfl, fun _ => rfl⟩
  have hcount := count_counts s2 .tsu .plateCancelled 0 (dieFlt s2) gone.length
  split
  · exact .refl _ s
  · refine h2.trans (.of_time hcount.part (by rw [hcount.base]) ?_ fun i => by rw [hcount.port_eq])
    exact count_ctr_ne _ _ _ _ _ _ _ _ (ctrKey_ne (by decide) (by decide) (by simp))

theorem modTime_loop (s : State) (p : Part) (f : TimeState → TimeState)
    (h : ∀ t, f t = { f t with acc := t.acc, integ := t.integ, trim := t.trim, trims := t.trims }) : LoopKept p s (s.modTime p f) := by
  have hf := h (s.base p).t
  refine ⟨modBase_partOnly .., ?_, ?_, ?_, ?_, ?_, fun i => ?_⟩
  all_goals unfold State.modTime
  · rw [base_modBase, hf]
  · rw [base_modBase, hf]
  · rw [base_modBase, hf]
  · rw [base_modBase, hf]
  · rw [base_modBase]
    rfl
  · unfold State.port
    rw [base_modBase]
    rfl

theorem enterTruing_loop (s : State) : LoopKept .tsu s (enterTruing s) := by
  unfold enterTruing
  exact (plateCancel_loop ..).trans ⟨⟨rfl, rfl, rfl⟩, rfl, rfl, rfl, rfl, rfl, fun _ => rfl⟩

/-- Another input keeps the loop's integrator and trim (R140). -/
theorem takeInput_loop (s : State) (i : Nat) (holding : Bool) : LoopKept .tsu s (takeInput s .tsu i holding) := by
  unfold takeInput
  extract_lets t s1 s2
  have h1 : LoopKept .tsu s s1 := by
    simp only [s1]
    split
    · exact event_loop ..
    · exact .refl _ s
  have h2 : LoopKept .tsu s s2 := by
    simp only [s2]
    split
    · exact h1.trans (enterTruing_loop s1)
    · exact h1
  exact h2.trans (modTime_loop _ _ _ fun _ => rfl)

theorem modOff_loop (s : State) (p : Part) (i : Nat) (f : Offset → Offset) (h : ∀ o, (f o).count = o.count) :
    LoopKept p s (s.modOff p i f) := by
  refine .of_time (modOff_reports s p i f).part (by rw [(modOff_reports s p i f).base]) ?_ fun j => ?_
  · exact (modPort_ctrs ..).ctr _ _ (by simp [Ctr.ofSending]) (by decide)
  · unfold State.modOff
    by_cases hj : j = i
    · subst hj
      rw [port_modPort]
      exact h _
    · rw [port_modPort_ne s p hj]

theorem LoopKept.foldl {α : Type} {p : Part} (f : State → α → State) (h : ∀ s a, LoopKept p s (f s a)) :
    ∀ (l : List α) (s : State), LoopKept p s (l.foldl f s)
  | [], s => .refl p s
  | a :: l, s => (h s a).trans (LoopKept.foldl f h l (f s a))

theorem windowPlane_loop (s : State) : LoopKept .tsu s (windowPlane s) := by
  unfold windowPlane
  extract_lets s1
  have h1 : LoopKept .tsu s s1 := by
    simp only [s1]
    split
    · split
      · exact takeInput_loop ..
      · exact .refl _ s
    · exact .refl _ s
  refine h1.trans (.foldl _ (fun t i => modOff_loop t _ i _ ?_) _ _)
  exact fun _ => rfl

/-- What a window's mean at the followed input does: a step of the loop, or a skip (R136, R139). -/
def loopTaken (s : State) (p : Part) (i : Nat) : State :=
  let w := windowsEnded p s
  let o := (w.port p i).off
  if o.meanValid && decide ((s.base p).t.inputAt < (s.base p).t.window) && (s.base p).t.holdSince.isNone then loopStep w p o.mean
  else w.count p .loopSkip 0 {} 1

/-- A window that ends at a part that follows an input. -/
theorem loopWindowEnd_takes {p : Part} {i : Nat} {s : State} (hheld : (s.base p).t.held = true)
    (hwindow : (s.base p).t.window ≠ (tickOf (s.now p)).toNat / 1024) (hlead : p = .dist → isLeader s = false)
    (hinput : (s.base p).t.input = some i) : Completes (.loopWindowEnd p) s (LoopKept p (loopTaken s p i)) := by
  have hdue : ¬ ((!(s.base p).t.held || decide ((s.base p).t.window = (tickOf (s.now p)).toNat / 1024)) = true) := by
    simp [hheld, hwindow]
  have hown : ¬ ((p == .dist && isLeader (windowsEnded p s)) = true) := by
    cases p with
    | tsu => simp
    | dist => simp [windowsEnded_isLeader, hlead rfl]
  unfold Completes exec execLoopWindowEnd
  dsimp only
  rw [if_neg hdue, ← windowsEnded, if_neg hown, hinput]
  refine ⟨_, rfl, ?_⟩
  cases p with
  | tsu => exact windowPlane_loop (loopTaken s .tsu i)
  | dist => exact .refl .dist (loopTaken s .dist i)

/-- A loop that steps on the mean `e` (R139). -/
theorem loopStep_time (s : State) (p : Part) (e : Int) : let t := ((loopStep s p e).base p).t
    t.integ = (s.base p).t.integ + (gainI s p : Int) * e ∧
    t.trim = clampI (-trimLimit s p) (trimLimit s p)
      (-((gainP s p : Int) * e + ((s.base p).t.integ + (gainI s p : Int) * e)) / 2 ^ 30) ∧
    t.trims = (t.trim :: (s.base p).t.trims).take 16 ∧ t.acc = (s.base p).t.acc := by
  unfold loopStep State.modTime
  dsimp only
  rw [base_modBase]
  exact ⟨rfl, rfl, rfl, rfl⟩

theorem loopStep_part (s : State) (p : Part) (e : Int) : PartOnly p s (loopStep s p e) := by
  unfold loopStep
  exact modBase_partOnly ..

theorem loopStep_port (s : State) (p : Part) (e : Int) (i : Nat) : (loopStep s p e).port p i = s.port p i := by
  unfold loopStep State.port State.modTime
  dsimp only
  rw [base_modBase]
  rfl

/-- With at least 512 valid samples the mean steps the loop. -/
theorem loopWindowEnd_steps {p : Part} {i : Nat} {s : State} (hheld : (s.base p).t.held = true)
    (hwindow : (s.base p).t.window ≠ (tickOf (s.now p)).toNat / 1024) (hlead : p = .dist → isLeader s = false)
    (hinput : (s.base p).t.input = some i) (hi : i < portCount p) (hlive : (s.port p i).live = true)
    (hfull : (s.base p).t.inputAt < (s.base p).t.window) (hhold : (s.base p).t.holdSince = none)
    (hcount : 512 ≤ (s.port p i).off.count) :
    Completes (.loopWindowEnd p) s fun t =>
      let e := (s.port p i).off.sum * 8 / ((s.port p i).off.count : Int)
      let integ := (s.base p).t.integ + (gainI s p : Int) * e
      (t.base p).t.integ = integ ∧
      (t.base p).t.trim = clampI (-trimLimit s p) (trimLimit s p) (-((gainP s p : Int) * e + integ) / 2 ^ 30) ∧
      (t.base p).t.trims = ((t.base p).t.trim :: (s.base p).t.trims).take 16 ∧
      (t.base p).t.acc = (s.base p).t.acc ∧ (t.port p i).off.count = 0 ∧ PartOnly p s t := by
  obtain ⟨t, hexec, hkept⟩ := loopWindowEnd_takes hheld hwindow hlead hinput
  obtain ⟨hzero, hvalid, hmean⟩ := windowsEnded_port hi hlive
  have htaken : loopTaken s p i = loopStep (windowsEnded p s) p ((s.port p i).off.sum * 8 / ((s.port p i).off.count : Int)) := by
    rw [loopTaken, hmean hcount, hvalid]
    exact if_pos (by simp [hcount, hfull, hhold])
  obtain ⟨hinteg, htrim, htrims, hacc⟩ := loopStep_time (windowsEnded p s) p
    ((s.port p i).off.sum * 8 / ((s.port p i).off.count : Int))
  have hgainI : gainI (windowsEnded p s) p = gainI s p := by unfold gainI; rw [windowsEnded_cfg]
  have hgainP : gainP (windowsEnded p s) p = gainP s p := by unfold gainP; rw [windowsEnded_cfg]
  rw [windowsEnded_time, hgainI] at hinteg
  rw [windowsEnded_time, hgainI, hgainP, windowsEnded_trimLimit] at htrim
  rw [windowsEnded_time] at htrims hacc
  rw [htaken] at hkept
  refine ⟨t, hexec, hkept.integ.trans hinteg, hkept.trim.trans htrim, ?_, hkept.acc.trans hacc, ?_, ?_⟩
  · rw [hkept.trims, hkept.trim]
    exact htrims
  · rw [hkept.count, loopStep_port]
    exact hzero
  · exact partOnly_trans (partOnly_trans (windowsEnded_part p s) (loopStep_part ..)) hkept.part

/-- With fewer the loop skips its update. -/
theorem loopWindowEnd_skips {p : Part} {i : Nat} {s : State} (hheld : (s.base p).t.held = true)
    (hwindow : (s.base p).t.window ≠ (tickOf (s.now p)).toNat / 1024) (hlead : p = .dist → isLeader s = false)
    (hinput : (s.base p).t.input = some i) (hi : i < portCount p) (hlive : (s.port p i).live = true)
    (hcount : (s.port p i).off.count < 512) :
    Completes (.loopWindowEnd p) s fun t =>
      (t.base p).t.integ = (s.base p).t.integ ∧ (t.base p).t.trim = (s.base p).t.trim ∧
      (t.base p).ctr .loopSkip 0 = (s.base p).ctr .loopSkip 0 + 1 ∧ (t.base p).t.acc = (s.base p).t.acc ∧ PartOnly p s t := by
  obtain ⟨t, hexec, hkept⟩ := loopWindowEnd_takes hheld hwindow hlead hinput
  obtain ⟨-, hvalid, -⟩ := windowsEnded_port hi hlive
  have htaken : loopTaken s p i = (windowsEnded p s).count p .loopSkip 0 {} 1 := by
    rw [loopTaken, hvalid]
    exact if_neg (by simp [hcount])
  have hskip := count_counts (windowsEnded p s) p .loopSkip 0 {} 1
  have htime : (((windowsEnded p s).count p .loopSkip 0 {} 1).base p).t = ((windowsEnded p s).base p).t := by rw [hskip.base]
  rw [windowsEnded_time] at htime
  rw [htaken] at hkept
  refine ⟨t, hexec, ?_, ?_, ?_, ?_, ?_⟩
  · rw [hkept.integ, htime]
  · rw [hkept.trim, htime]
  · rw [hkept.skips, count_ctr, windowsEnded_loopSkip]
  · rw [hkept.acc, htime]
  · exact partOnly_trans (partOnly_trans (windowsEnded_part p s) hskip.part) hkept.part

/-! ### The end of holdover (R154, R156) -/

theorem mgmt_alert (s : State) (p : Part) (dst : Node) (b : MgmtBody) :
    ((mgmt s p dst b).base p).hs.alert = (s.base p).hs.alert := by
  unfold mgmt
  extract_lets h m x c s1
  have hsent : ∀ l : List Nat, SendsOnly p s1 (l.foldl (fun s i => sendMgmt s p i c) s1) :=
    fun l => .foldl _ (fun s i => sendMgmt_sends s p i c) l s1
  rw [(hsent _).base]
  simp only [s1]
  rw [base_modBase]

/-- A die is in NO_TIME: the alert is raised, and nothing is armed. -/
structure DieNoTime (t : State) : Prop where
  noTime : t.tsu.b.t.noTime = true
  alert : t.tsu.b.hs.alert.getLsbD 1 = true
  armed : t.tsu.plate.armed = []

theorem DieNoTime.ends {s t : State} (h : DieNoTime s) (k : EndsOnly s t) : DieNoTime t where
  noTime := by rw [k.frame]; exact h.noTime
  alert := by rw [k.frame]; exact h.alert
  armed := k.armed h.armed

theorem DieNoTime.mgmt {s : State} (h : DieNoTime s) (dst : Node) (b : MgmtBody) : DieNoTime (mgmt s .tsu dst b) := by
  have hsent := mgmt_reports s .tsu dst b
  have halert : (Machine.mgmt s .tsu dst b).tsu.b.hs.alert = s.tsu.b.hs.alert := mgmt_alert s .tsu dst b
  generalize Machine.mgmt s .tsu dst b = t at *
  have htime : t.tsu.b.t = s.tsu.b.t := (congrArg Base.t hsent.base :)
  have hplate : t.tsu.plate = s.tsu.plate := (congrArg Tsu.plate hsent.tsu :)
  exact ⟨by rw [htime]; exact h.noTime, by rw [halert]; exact h.alert, by rw [hplate]; exact h.armed⟩

theorem DieNoTime.partDone {s : State} (h : DieNoTime s) : DieNoTime (sendPartDone s) := by
  have hdie : DieNoTime (s.modDie fun d => { d with partDone := true }) := ⟨h.noTime, h.alert, h.armed⟩
  exact hdie.mgmt ..

/-- What NO_TIME clears at the die leaves nothing armed (R211). -/
theorem noTimeClears_armed (s : State) : (noTimeClears s).tsu.plate.armed = [] :=
  (((instsEnd_ends ..).trans (signalsEnd_ends ..)).trans (localsCancel_ends _)).armed (plateCancel_all_armed s)

theorem DieNoTime.cleared {s : State} (hnoTime : s.tsu.b.t.noTime = true) (halert : s.tsu.b.hs.alert.getLsbD 1 = true) :
    DieNoTime (noTimeClears s) := by
  have hends := noTimeClears_ends s
  have harmed := noTimeClears_armed s
  generalize noTimeClears s = t at *
  exact ⟨by rw [hends.frame]; exact hnoTime, by rw [hends.frame]; exact halert, harmed⟩

theorem enterNoTime_die {s : State} (h : s.tsu.b.t.noTime = false) : DieNoTime (enterNoTime s .tsu) := by
  have hnew : ¬ ((s.base .tsu).t.noTime = true) := by simp [h]
  unfold enterNoTime
  rw [if_neg hnew]
  extract_lets s1 s2
  have htime : (s1.alert .tsu 1).tsu.b.t = s1.tsu.b.t := (congrArg Base.t (alert_reports s1 .tsu 1).base :)
  have h2 : DieNoTime s2 := .cleared (by rw [htime]; rfl) (alert_bit s1 .tsu (by decide))
  clear_value s2
  dsimp only
  split
  · obtain ⟨hnoTime, halert, hnone⟩ := h2.ends (dieOpsEnd_ends s2 .noTime)
    refine DieNoTime.partDone (s := (dieOpsEnd s2 .noTime).modDie fun d => { d with state := .parted }) ?_
    exact ⟨hnoTime, halert, hnone⟩
  · exact h2

theorem enterNoTime_dist {s : State} (h : s.dist.b.t.noTime = false) : let t := enterNoTime s .dist
    t.dist.b.t.noTime = true ∧ t.dist.b.hs.alert.getLsbD 3 = true := by
  have hnew : ¬ ((s.base .dist).t.noTime = true) := by simp [h]
  unfold enterNoTime
  rw [if_neg hnew]
  extract_lets s1 s2
  have htime : (s1.alert .dist 3).dist.b.t = s1.dist.b.t := (congrArg Base.t (alert_reports s1 .dist 3).base :)
  refine ⟨?_, alert_bit s1 .dist (by decide)⟩
  rw [htime]
  rfl

/-- The alert's cause for NO_TIME (R457, R512). -/
def noTimeAlert : Part → Nat
  | .tsu => 1
  | .dist => 3

theorem holdBudgetExpire_of_since {p : Part} {x : St} {s : State} (hsince : (s.base p).t.holdSince = some x) :
    exec (.holdBudgetExpire p) s = .next (if holdBudget s p ≤ elapsed (s.now p) x then enterNoTime s p else s) := by
  unfold exec execHoldBudgetExpire
  dsimp only
  rw [hsince]

theorem holdBudgetExpire_ends {p : Part} {x : St} {s : State} (hsince : (s.base p).t.holdSince = some x)
    (hlong : holdBudget s p ≤ elapsed (s.now p) x) (hnew : (s.base p).t.noTime = false) :
    Completes (.holdBudgetExpire p) s fun t =>
      (t.base p).t.noTime = true ∧ (t.base p).t.acc = (s.base p).t.acc ∧
      (t.base p).hs.alert.getLsbD (noTimeAlert p) = true ∧
      (p = .tsu → t.tsu.plate.armed = []) ∧ PartOnly p s t := by
  have hexec : exec (.holdBudgetExpire p) s = .next (enterNoTime s p) := by
    rw [holdBudgetExpire_of_since hsince, if_pos hlong]
  have hkept := enterNoTime_epochs s p
  refine ⟨enterNoTime s p, hexec, ?_⟩
  cases p with
  | tsu =>
    obtain ⟨hnoTime, halert, harmed⟩ := enterNoTime_die hnew
    exact ⟨hnoTime, hkept.acc, halert, fun _ => harmed, hkept.part⟩
  | dist =>
    obtain ⟨hnoTime, halert⟩ := enterNoTime_dist hnew
    exact ⟨hnoTime, hkept.acc, halert, fun h => absurd h (by decide), hkept.part⟩

/-! ### A new leader (R96) -/

/-- The epochs in which the announced root leads, its change no longer pending. -/
def ledBy (l : BitVec 2) (now : Tick) (e : Epochs) : Epochs := { e with
  leader := l, pend := e.pend.map fun x => if 0 ≤ tickDiff now x.tick then { x with lead := none } else x }

theorem pendPut_of_none (x : Pend) (hce : x.ce = none) (hme : x.me = none) (hlead : x.lead = none) (y : Pend)
    (hy : y.tick = x.tick) : pendPut [y] x = [] := by
  unfold pendPut
  simp [hce, hme, hlead, hy, tickDiff_self]

/-- The only change pending is adopted with its leader. -/
theorem adoptEpochs_ledBy {s : State} {p : Part} {x : Pend} {l : BitVec 2} (hpend : (s.base p).ep.pend = [x])
    (hdue : 0 ≤ tickDiff (tickOf (s.now p)) x.tick) :
    let t := adoptEpochs (s.modEp p (ledBy l (tickOf (s.now p)))) p
    (t.base p).ep.leader = l ∧ (t.base p).ep.ce = (x.ce).getD (s.base p).ep.ce ∧
    (t.base p).ep.me = (x.me).getD (s.base p).ep.me ∧ (t.base p).ep.pend = [] := by
  have hnow : (s.modEp p (ledBy l (tickOf (s.now p)))).now p = s.now p := by
    unfold State.now State.modEp
    rw [base_modBase]
    rfl
  have hled : ((s.modEp p (ledBy l (tickOf (s.now p)))).base p).ep = { (s.base p).ep with leader := l, pend := [{ x with lead := none }] } := by
    rw [State.modEp_ep, ledBy, hpend]
    simp [hdue]
  have hput : pendPut [{ x with lead := none }] { x with ce := none, me := none, lead := none } = [] :=
    pendPut_of_none _ rfl rfl rfl _ rfl
  intro t
  simp only [t]
  unfold adoptEpochs
  rw [State.modEp_ep, hled, hnow]
  simp [hdue, hput]

theorem leaderTake_ep (s : State) (p : Part) (l : BitVec 2) :
    ((leaderTake s p l).base p).ep = ((adoptEpochs (s.modEp p (ledBy l (tickOf (s.now p)))) p).base p).ep := by
  cases p with
  | tsu => rfl
  | dist =>
    unfold leaderTake
    dsimp only
    split <;> rfl

theorem leaderTake_kept (s : State) (p : Part) (l : BitVec 2) :
    ((leaderTake s p l).base p).t.acc = (s.base p).t.acc ∧ PartOnly p s (leaderTake s p l) := by
  cases p with
  | tsu => exact ⟨rfl, rfl, rfl, rfl⟩
  | dist =>
    unfold leaderTake
    dsimp only
    split
    · exact ⟨rfl, rfl, rfl, rfl⟩
    · exact ⟨rfl, rfl, rfl, rfl⟩

theorem leaderChangeEffect_leads {p : Part} {x : Pend} {l : BitVec 2} {s : State} (hpend : (s.base p).ep.pend = [x])
    (hlead : x.lead = some l) (hdue : 0 ≤ tickDiff (tickOf (s.now p)) x.tick) :
    Completes (.leaderChangeEffect p) s fun t =>
      (t.base p).ep.leader = l ∧ (t.base p).ep.ce = (x.ce).getD (s.base p).ep.ce ∧
      (t.base p).ep.me = (x.me).getD (s.base p).ep.me ∧ (t.base p).ep.pend = [] ∧ (t.base p).t.acc = (s.base p).t.acc ∧
      PartOnly p s t := by
  have hexec : exec (.leaderChangeEffect p) s = .next (leaderTake s p l) := by
    unfold exec execLeaderChangeEffect
    dsimp only
    rw [hpend]
    simp [hlead, Int.not_lt.mpr hdue]
  obtain ⟨hleader, hce, hme, hnone⟩ := adoptEpochs_ledBy (l := l) hpend hdue
  obtain ⟨hacc, hpart⟩ := leaderTake_kept s p l
  refine ⟨_, hexec, ?_⟩
  dsimp only
  rw [leaderTake_ep]
  exact ⟨hleader, hce, hme, hnone, hacc, hpart⟩

/-- Settles O9: the windows of all ports end before the loop takes the input's mean; NO_TIME and a new leader by their own rules. -/
theorem theLoopSteersAndHoldsOver : Obligations.TheLoopSteersAndHoldsOver := by
  unfold Obligations.TheLoopSteersAndHoldsOver
  refine ⟨⟨fun p i s => loopWindowEnd_steps, fun p i s => loopWindowEnd_skips⟩, ⟨fun p x s => holdBudgetExpire_ends, ?_⟩,
    fun p x l s => leaderChangeEffect_leads⟩
  intro p x s hsince hshort
  rw [holdBudgetExpire_of_since hsince, if_neg (Nat.not_le.mpr hshort)]

end Sys2Proof.Machine

namespace Sys2Proof.Machine

open Sys2Proof

/-! ### The newest completion (R386, R387, R390) -/

/-- The newest completion that a mailbox shows: one held for want of room, else the last of its ring. -/
def Mailbox.newest (b : Mailbox) : Option Completion :=
  match b.held.getLast? with
  | some x => some x
  | none => tget none b.ring ((b.cplProd - 1).toNat % 64)

theorem lastCompletion_tsu (s : State) {c : Cmd} (h : c.part = .tsu) : lastCompletion s c = (s.mbox c.mbx).newest := by
  obtain ⟨p, m, tag, txn⟩ := c
  cases h
  rfl

theorem lastCompletion_dist (s : State) {c : Cmd} (h : c.part = .dist) : lastCompletion s c = s.dist.sv.remoteCpl.head? := by
  unfold lastCompletion
  rw [h]

theorem mbox_modMbox (s : State) (m : Nat) (f : Mailbox → Mailbox) : (s.modMbox m f).mbox m = f (s.mbox m) := tget_tmod_eq ..

theorem mbox_of_tsu {s t : State} (h : t.tsu.mbs = s.tsu.mbs) (m : Nat) : t.mbox m = s.mbox m := by
  unfold State.mbox
  rw [h]

theorem CountsOnly.mbox_eq {p : Part} {s t : State} (h : CountsOnly p s t) (m : Nat) : t.mbox m = s.mbox m :=
  mbox_of_tsu (congrArg (·.mbs) h.tsu :) m

theorem ReportsOnly.mbox_eq {p : Part} {s t : State} (h : ReportsOnly p s t) (m : Nat) : t.mbox m = s.mbox m :=
  mbox_of_tsu (congrArg (·.mbs) h.tsu :) m

/-- A completion written into a mailbox that holds none back is its newest. -/
theorem cplPost_newest {s : State} {m : Nat} (cp : Completion) (h : (s.mbox m).held = []) :
    ((cplPost s m cp).mbox m).newest = some cp := by
  unfold cplPost
  dsimp only
  split
  · rw [mbox_modMbox]
    unfold Mailbox.newest
    simp [h]
  · rw [(irq_counts ..).mbox_eq, mbox_modMbox]
    unfold Mailbox.newest
    simp [h]

theorem complete_newest {s : State} {m : Nat} {tag : BitVec 16} {txn : W32} (cp : Completion) (h : (s.mbox m).held = []) :
    ((complete_ s ⟨.tsu, m, tag, txn⟩ cp).mbox m).newest = some cp := by
  unfold complete_
  extract_lets now found sched s1 s2 s3 s4 s5 s6
  have h1 : (s1.mbox m).held = [] := by
    simp only [s1]
    split
    · rw [mbox_modMbox]
      exact h
    · exact h
  have h4 : (s4.mbox m).newest = some cp := cplPost_newest cp h1
  have h5 : (s5.mbox m).newest = some cp := by
    rw [(event_counts ..).mbox_eq]
    exact h4
  have h6 : (s6.mbox m).newest = some cp := by
    simp only [s6]
    split
    · rw [(event_counts ..).mbox_eq]
      exact h5
    · exact h5
  split
  · rw [(sample_counts ..).mbox_eq]
    exact h6
  · exact h4

/-- `t` is `s` after the distributor has sent `cp` back: its clocks, its map and its references are as they were. -/
structure SentBack (cp : Completion) (s t : State) : Prop where
  refs : t.dist.refs = s.dist.refs
  base : t.dist.b = { s.dist.b with
    ports := t.dist.b.ports, cnt := t.dist.b.cnt, perf := t.dist.b.perf, fr := t.dist.b.fr, hs := t.dist.b.hs }
  newest : t.dist.sv.remoteCpl = cp :: s.dist.sv.remoteCpl

theorem SentBack.reports {cp : Completion} {s t u : State} (h : SentBack cp s t) (k : ReportsOnly .dist t u) : SentBack cp s u where
  refs := (congrArg Dist.refs k.dist :).trans h.refs
  base := by
    have hbase := k.base
    rw [base_dist, base_dist] at hbase
    rw [hbase, h.base]
  newest := (congrArg (·.sv.remoteCpl) k.dist :).trans h.newest

theorem SentBack.modSv {cp : Completion} {s t : State} (h : SentBack cp s t) (f : Service → Service)
    (hf : ∀ v, (f v).remoteCpl = v.remoteCpl) : SentBack cp s (t.modSv f) := ⟨h.refs, h.base, (hf _).trans h.newest⟩

/-- A completion at a distributor goes back to the part that sent the command (R390). -/
theorem complete_sentBack (s : State) (m : Nat) (tag : BitVec 16) (txn : W32) (cp : Completion) :
    SentBack cp s (complete_ s ⟨.dist, m, tag, txn⟩ cp) := by
  unfold complete_
  extract_lets now found sched s1 s2 s3 s4 s5 s6
  have h2 : SentBack cp s s2 := ⟨rfl, rfl, rfl⟩
  have h3 : SentBack cp s s3 := by
    simp only [s3]
    generalize found = o
    cases o with
    | none => exact h2
    | some x => exact h2.reports (mgmt_reports ..)
  have h4 : SentBack cp s s4 := by
    simp only [s4]
    split
    · exact h3.modSv _ fun _ => rfl
    · exact h3
  have h5 : SentBack cp s s5 := h4.reports (event_counts ..).sends.reports
  have h6 : SentBack cp s s6 := by
    simp only [s6]
    split
    · exact h5.reports (event_counts ..).sends.reports
    · exact h5
  split
  · exact h6.reports (sample_counts ..).sends.reports
  · exact h4

/-- `t` is `s` with `c` completed: the part's clocks, its map and the references are as they were. -/
structure CompletedOnly (p : Part) (s t : State) : Prop where
  part : PartOnly p s t
  time : (t.base p).t = (s.base p).t
  map : (t.base p).map = (s.base p).map
  refs : t.dist.refs = s.dist.refs
  remotes : t.tsu.remotes = s.tsu.remotes

theorem complete_only (s : State) (c : Cmd) (cp : Completion) : CompletedOnly c.part s (complete_ s c cp) := by
  have hpart := complete_partOnly s c cp
  obtain ⟨p, m, tag, txn⟩ := c
  cases p with
  | tsu =>
    obtain ⟨hframe, -, -⟩ := complete_ends s m tag txn cp
    generalize complete_ s ⟨.tsu, m, tag, txn⟩ cp = t at *
    refine ⟨hpart, ?_, ?_, ?_, ?_⟩
    · show t.tsu.b.t = s.tsu.b.t
      rw [hframe]
    · show t.tsu.b.map = s.tsu.b.map
      rw [hframe]
    · rw [hframe]
    · rw [hframe]
  | dist =>
    obtain ⟨hrefs, hbase, -⟩ := complete_sentBack s m tag txn cp
    generalize complete_ s ⟨.dist, m, tag, txn⟩ cp = t at *
    refine ⟨hpart, ?_, ?_, hrefs, congrArg Tsu.remotes hpart.1⟩
    · show t.dist.b.t = s.dist.b.t
      rw [hbase]
    · show t.dist.b.map = s.dist.b.map
      rw [hbase]

/-- A command completed answers with that completion; a die's where its mailbox holds none back. -/
theorem complete_last {s : State} {c : Cmd} (cp : Completion) (h : c.part = .tsu → (s.mbox c.mbx).held = []) :
    lastCompletion (complete_ s c cp) c = some cp := by
  obtain ⟨p, m, tag, txn⟩ := c
  cases p with
  | tsu =>
    rw [lastCompletion_tsu _ rfl]
    exact complete_newest cp (h rfl)
  | dist =>
    rw [lastCompletion_dist _ rfl, (complete_sentBack s m tag txn cp).newest]
    rfl

theorem pend_answers {s : State} {c : Cmd} {op : Nat} (h : c.part = .tsu → (s.mbox c.mbx).held = []) :
    Answers c op .pending (pend s c op) := ⟨_, complete_last _ h, rfl, rfl, rfl, rfl⟩

theorem doneR_answers {s : State} {c : Cmd} {op : Nat} {r0 r1 r2 : W64} (h : c.part = .tsu → (s.mbox c.mbx).held = []) :
    Answers c op .ok (doneR s c op .ok r0 r1 r2) := ⟨_, complete_last _ h, rfl, rfl, rfl, rfl⟩

/-! ### Counters that a command's message leaves (R382) -/

/-- What a management message may count beyond what sending does. -/
def Ctr.ofMgmt (x : Ctr) : Prop := x = .mgmtRateHeld ∨ x = .mgmtRateDrop

theorem mgmt_ctr (s : State) (p : Part) (dst : Node) (b : MgmtBody) {x : Ctr} (i : Nat) (hx : ¬ x.ofMgmt) (hi : i < 2 ^ 20) :
    ((mgmt s p dst b).base p).ctr x i = (s.base p).ctr x i := by
  have hcount : ∀ (t : State) (y : Ctr) (n : Nat), y.ofMgmt → ((t.count p y 0 {} n).base p).ctr x i = (t.base p).ctr x i :=
    fun t y n hy => count_ctr_ne _ _ _ _ _ _ _ _ (ctrKey_ne (by decide) hi fun e => hx (by rw [(Prod.mk.inj e).1]; exact hy))
  have hport : ∀ (t : State) (j : Nat) (f : Port → Port), ((t.modPort p j f).base p).ctr x i = (t.base p).ctr x i :=
    fun t j f => ctr_eq_of_cnt (by unfold State.modPort; rw [base_modBase]; rfl) x i
  have hsend : ∀ (t : State) (j : Nat) (c : OutCell), ((sendMgmt t p j c).base p).ctr x i = (t.base p).ctr x i := by
    intro t j c
    unfold sendMgmt sendP3
    dsimp only
    split
    · rw [hport, hport]
    · split
      · rw [hcount _ _ _ (.inl rfl), hport]
      · rw [hcount _ _ _ (.inr rfl)]
  have hsends : ∀ (l : List Nat) (c : OutCell) (t : State),
      ((l.foldl (fun s j => sendMgmt s p j c) t).base p).ctr x i = (t.base p).ctr x i := by
    intro l c
    induction l with
    | nil => exact fun _ => rfl
    | cons j l ih => exact fun t => (ih _).trans (hsend t j c)
  unfold mgmt
  dsimp only
  rw [hsends, base_modBase]
  rfl

/-- A command that is held counts no clamp. -/
theorem pend_clamp {s : State} {c : Cmd} {op : Nat} (hc : c.part = .dist) :
    (((pend s c op).base .dist).ctr .clamp 0) = (s.base .dist).ctr .clamp 0 := by
  obtain ⟨p, m, tag, txn⟩ := c
  cases hc
  have hsv : ∀ (t : State) (f : Service → Service), ((t.modSv f).base .dist).ctr .clamp 0 = (t.base .dist).ctr .clamp 0 :=
    fun _ _ => rfl
  unfold pend complete_
  dsimp only
  simp only [Bool.false_eq_true, if_false]
  split
  · rw [mgmt_ctr _ _ _ _ _ (by simp [Ctr.ofMgmt]) (by decide), hsv]
  · rw [hsv]

/-! ### Instants ahead of a time (R17, R92) -/

/-- A time at least `n` tu ahead of another is at or after the one `n` tu ahead of it. -/
theorem stGe_of_stDiff {b o : St} {n : Nat} (h : (n : Int) ≤ stDiff b o) : stGe b (o + tu n) = true := by
  have hb : o + tu (b - o).toNat = b := by
    unfold tu
    rw [BitVec.ofNat_toNat, BitVec.setWidth_eq, add_comm, sub_add_cancel]
  have hnat : stDiff b o = ((b - o).toNat : Int) := by
    unfold stDiff at *
    rw [BitVec.toInt_eq_toNat_cond] at *
    split at h <;> omega
  have hlt : ((b - o).toNat : Int) < 2 ^ 63 := by
    rw [← hnat, stDiff]
    exact BitVec.toInt_lt
  rw [← hb, stGe_add_tu _ _ _ (by omega) (by omega)]
  exact decide_eq_true (by omega)

/-- An ALIGN whose step starts at least 2,048 ticks ahead keeps the step that it names (R92). -/
theorem alignStep_named {s : State} {p : Part} {slice : Nat} {n : Step} {b : St} (hstart : (s.turning p slice).stepStart n = some b)
    (hahead : 2048 * 16384 ≤ stDiff b (s.now p)) : alignStep s p slice n = some (n, b, false) := by
  have hge : stGe b (s.now p + tu (2048 * tickTu)) = true := stGe_of_stDiff hahead
  unfold alignStep
  dsimp only
  rw [hstart]
  dsimp only
  rw [if_pos hge]

/-- The first instant of a whole TAI second at or after `t`, where no wrap lies between (R92). -/
theorem wholeSecond_spec {m : MapRec} {t : St} (h : t.toNat + 64000000000 < 2 ^ 64) :
    (m.originTu + (wholeSecond m t).toNat) % 64000000000 = 0 ∧ t.toNat ≤ (wholeSecond m t).toNat ∧
    (wholeSecond m t).toNat < t.toNat + 64000000000 := by
  unfold wholeSecond secTu tu
  dsimp only
  split
  · omega
  · have hadd : (t + BitVec.ofNat 64 (64000000000 - (m.originTu + t.toNat) % 64000000000)).toNat =
        t.toNat + (64000000000 - (m.originTu + t.toNat) % 64000000000) := by
      rw [BitVec.toNat_add, BitVec.toNat_ofNat]
      omega
    rw [hadd]
    omega

/-! ### ALIGN (R92, R390) -/

/-- A command that mailbox 0 may give, and that the Headstock takes. -/
theorem onCmd_taken {c : Cmd} {op : Nat} {s : State} {f : State → State} (hmbx : c.part = .tsu → c.mbx ≤ 3)
    (hready : hsReady s c = true) : onCmd c op true s f = .next (f (cmdTake s c op)) := by
  unfold onCmd
  rw [if_neg fun h => Nat.not_lt.mpr (hmbx h.1) h.2]
  simp [hready]

theorem alignNote_base (s : State) (p : Part) (scope slice : Nat) (a : Step × St × Bool) (c : Option Cmd) :
    (alignNote s p scope slice a c).base p = { s.base p with map := { (s.base p).map with
      aligns := (s.base p).map.aligns ++ [{ scope, slice, step := a.1, at_ := a.2.1, cmd := c }]
      alignUsed := alignWord scope slice a.1 } } := by
  unfold alignNote State.modMap
  rw [base_modBase]

/-- The leading root notes the step and answers PENDING. -/
theorem align_leader {c : Cmd} {scope slice : Nat} {n : Step} {a : Step × St × Bool} {s : State} (hpart : c.part = .dist)
    (hready : hsReady s c = true) (hlead : isLeader s = true) (hscope : scope ≤ 2) (hslice : slice < 64)
    (hstep : alignStep s .dist slice n = some a) :
    exec (.align c scope slice n) s =
      .next (pend (alignNote (s.clamped .dist a.2.2) .dist scope slice a (some c)) c 0x0041) := by
  have hm0 : isM0 c = true := by simp [isM0, hpart]
  have htake : cmdTake s c 0x0041 = s := by unfold cmdTake; rw [hpart]
  have hknown : ¬ (2 < scope ∨ 63 < slice) := by omega
  have hroot : (c.part == .dist && isLeader s) = true := by simp [hpart, hlead]
  unfold exec execAlign
  dsimp only
  rw [hm0, onCmd_taken (fun h => absurd (hpart.symm.trans h) (by decide)) hready, htake]
  unfold cmdAlign
  rw [if_neg hknown]
  dsimp only
  rw [if_pos hroot, hpart, hstep]

theorem align_notes {c : Cmd} {scope slice : Nat} {n : Step} {a : Step × St × Bool} {s : State} (hpart : c.part = .dist)
    (hready : hsReady s c = true) (hlead : isLeader s = true) (hscope : scope ≤ 2) (hslice : slice < 64)
    (hstep : alignStep s .dist slice n = some a) :
    Completes (.align c scope slice n) s fun t =>
      t.dist.b.map.aligns = s.dist.b.map.aligns ++ [{ scope, slice, step := a.1, at_ := a.2.1, cmd := some c }] ∧
      (∀ b, (s.turning .dist slice).stepStart n = some b → 2048 * 16384 ≤ stDiff b (s.now .dist) → a = (n, b, false)) ∧
      (a.2.2 = true → (t.base .dist).ctr .clamp 0 = (s.base .dist).ctr .clamp 0 + 1) ∧ Answers c 0x0041 .pending t ∧
      DistOnly s t := by
  have hclamped := clamped_counts s .dist a.2.2
  have hnoted := alignNote_base (s.clamped .dist a.2.2) .dist scope slice a (some c)
  have hnotedPart : DistOnly (s.clamped .dist a.2.2) (alignNote (s.clamped .dist a.2.2) .dist scope slice a (some c)) := ⟨rfl, rfl, rfl⟩
  have hdone := complete_only (alignNote (s.clamped .dist a.2.2) .dist scope slice a (some c)) c
    { tag := c.tag, opcode := 0x0041, status := .pending, final := false }
  rw [hpart] at hdone
  refine ⟨_, align_leader hpart hready hlead hscope hslice hstep, ?_, fun b hb hahead => ?_, fun hclamp => ?_,
    pend_answers fun h => absurd (hpart.symm.trans h) (by decide), ?_⟩
  · have hmap : (s.clamped .dist a.2.2).dist.b.map = s.dist.b.map := (congrArg Base.map hclamped.base :)
    have haligns := congrArg MapState.aligns (hdone.map.trans (congrArg Base.map hnoted))
    rw [base_dist, base_dist, hmap] at haligns
    exact haligns
  · exact Option.some.inj (hstep.symm.trans (alignStep_named hb hahead))
  · rw [pend_clamp hpart]
    have hcnt : ((alignNote (s.clamped .dist a.2.2) .dist scope slice a (some c)).base .dist).ctr .clamp 0 =
        ((s.clamped .dist a.2.2).base .dist).ctr .clamp 0 := ctr_eq_of_cnt (congrArg Base.cnt hnoted :) _ _
    have hcounted : s.clamped .dist a.2.2 = s.count .dist .clamp 0 {} 1 := if_pos hclamp
    rw [hcnt, hcounted]
    exact count_ctr ..
  · exact partOnly_trans (p := .dist) (partOnly_trans (p := .dist) hclamped.part hnotedPart) hdone.part

/-- A die carries a command to the roots (R390, R392). -/
theorem cmdSend_carries {s u : State} {c : Cmd} {op : Nat} {rc : RemoteCmd} (hpart : c.part = .tsu)
    (hheld : (u.mbox c.mbx).held = []) (honly : TsuOnly s u) (hremotes : u.tsu.remotes = s.tsu.remotes) :
    CarriedToRoots c op s (cmdSend u c op allRoots rc) := by
  have hdone := complete_only u c { tag := c.tag, opcode := op, status := .pending, final := false }
  have hlast := complete_last (s := u) (c := c) { tag := c.tag, opcode := op, status := .pending, final := false } fun _ => hheld
  unfold cmdSend pend
  generalize complete_ u c { tag := c.tag, opcode := op, status := .pending, final := false } = v at *
  rw [hpart] at hdone
  dsimp only
  rw [hpart]
  dsimp only
  have hsent := mgmt_reports { v with tsu.remotes := v.tsu.remotes ++ [{ c, dst := allRoots, tag := c.tag }] } .tsu allRoots
    (.command c.tag c.txn rc)
  generalize mgmt _ _ _ _ = w at *
  have hmbox : w.mbox c.mbx = v.mbox c.mbx := hsent.mbox_eq c.mbx
  rw [lastCompletion_tsu _ hpart] at hlast
  refine ⟨?_, ⟨_, (lastCompletion_tsu w hpart).trans (hmbox ▸ hlast), rfl, rfl, rfl, rfl⟩, ?_⟩
  · have hrem : w.tsu.remotes = v.tsu.remotes ++ [{ c, dst := allRoots, tag := c.tag }] := (congrArg Tsu.remotes hsent.tsu :)
    rw [hrem, hdone.remotes, hremotes]
  · exact partOnly_trans (p := .tsu) (partOnly_trans (p := .tsu) honly hdone.part) hsent.part

theorem align_carried {c : Cmd} {scope slice : Nat} {n : Step} {s : State} (hpart : c.part = .tsu) (hmbx : c.mbx = 0)
    (hready : hsReady s c = true) (hscope : scope ≤ 2) (hslice : slice < 64) :
    Completes (.align c scope slice n) s (CarriedToRoots c 0x0041 s) := by
  have hm0 : isM0 c = true := by simp [isM0, hmbx]
  have hknown : ¬ (2 < scope ∨ 63 < slice) := by omega
  have hroot : ¬ ((c.part == .dist && isLeader (cmdTake s c 0x0041)) = true) := by simp [hpart]
  have hheld : ((cmdTake s c 0x0041).mbox c.mbx).held = [] := by
    have hheld : (s.mbox c.mbx).held = [] := by simp_all [hsReady]
    unfold cmdTake
    rw [hpart]
    dsimp only
    rw [mbox_modMbox]
    exact hheld
  have htaken : TsuOnly s (cmdTake s c 0x0041) ∧ (cmdTake s c 0x0041).tsu.remotes = s.tsu.remotes := by
    unfold cmdTake
    rw [hpart]
    exact ⟨⟨rfl, rfl, rfl⟩, rfl⟩
  obtain ⟨honly, hremotes⟩ := htaken
  have hnoted : ∀ a, CarriedToRoots c 0x0041 s (cmdSend (alignNote (cmdTake s c 0x0041) c.part scope slice a none) c 0x0041
      allRoots (.align scope slice n)) := fun a => by
    rw [hpart]
    exact cmdSend_carries hpart hheld honly hremotes
  unfold Completes exec execAlign
  dsimp only
  rw [hm0, onCmd_taken (fun _ => by omega) hready]
  refine ⟨_, rfl, ?_⟩
  unfold cmdAlign
  rw [if_neg hknown]
  dsimp only
  rw [if_neg hroot]
  generalize alignStep (cmdTake s c 0x0041) c.part slice n = o
  cases o with
  | none => exact cmdSend_carries hpart hheld honly hremotes
  | some a => exact hnoted a

/-! ### ALIGN_APPLY (R92) -/

/-- The state in which an ALIGN of scope 0 that is due has set the outputs of a part. -/
def alignedAll (s : State) (p : Part) (d : AlignDue) : State :=
  alignSet (s.modMap p fun m => { m with aligns := m.aligns.erase d, alignMap := some m.cur }) p d
    (wholeSecond (s.base p).map.cur d.at_)

theorem alignApply_of_due {p : Part} {d : AlignDue} {s : State} (haligns : (s.base p).map.aligns = [d])
    (hdue : stGe (s.now p) d.at_ = true) : exec (.alignApply p) s = .next (match d.cmd with
      | some c => doneR (alignedAll s p d) (ofPart p c) 0x0041 .ok (d.step.setWidth 64) 0 0
      | none => alignedAll s p d) := by
  have hfind : (s.base p).map.aligns.find? (fun d => stGe (s.now p) d.at_) = some d := by
    rw [haligns]
    exact List.find?_cons_of_pos hdue
  unfold exec execAlignApply
  dsimp only
  rw [hfind]
  rfl

/-- `t` is `s` with every output of the part aligned at A. -/
structure AlignedAt (p : Part) (a : St) (s t : State) : Prop where
  part : PartOnly p s t
  aligns : (t.base p).map.aligns = []
  alignMap : (t.base p).map.alignMap = some (s.base p).map.cur
  alignAt : (t.base p).map.alignAt = a
  outA : p = .dist → t.dist.refs.outA = a
  acc : (t.base p).t.acc = (s.base p).t.acc

theorem AlignedAt.completed {p : Part} {a : St} {s t u : State} (h : AlignedAt p a s t) (k : CompletedOnly p t u) :
    AlignedAt p a s u where
  part := partOnly_trans h.part k.part
  aligns := by rw [k.map]; exact h.aligns
  alignMap := by rw [k.map]; exact h.alignMap
  alignAt := by rw [k.map]; exact h.alignAt
  outA e := by rw [k.refs]; exact h.outA e
  acc := by rw [k.time]; exact h.acc

theorem alignedAll_at {s : State} {p : Part} {d : AlignDue} (haligns : (s.base p).map.aligns = [d]) (hscope : d.scope = 0) :
    AlignedAt p (wholeSecond (s.base p).map.cur d.at_) s (alignedAll s p d) := by
  have herase : (s.base p).map.aligns.erase d = [] := by rw [haligns, List.erase_cons_head]
  unfold alignedAll alignSet
  rw [hscope]
  cases p with
  | tsu => exact ⟨⟨rfl, rfl, rfl⟩, herase, rfl, rfl, fun h => absurd h (by decide), rfl⟩
  | dist => exact ⟨⟨rfl, rfl, rfl⟩, herase, rfl, rfl, fun _ => rfl, rfl⟩

theorem alignedAll_mbox (s : State) (p : Part) (d : AlignDue) (m : Nat) : (alignedAll s p d).mbox m = s.mbox m := by
  unfold alignedAll alignSet
  refine mbox_of_tsu ?_ m
  cases p with
  | tsu =>
    dsimp only
    split <;> rfl
  | dist =>
    dsimp only
    split <;> split <;> rfl

/-- The outputs are aligned, and the command that asked for it completes. -/
theorem alignApply_aligns {p : Part} {d : AlignDue} {s : State} (haligns : (s.base p).map.aligns = [d])
    (hdue : stGe (s.now p) d.at_ = true) (hscope : d.scope = 0) :
    Completes (.alignApply p) s fun t => AlignedAt p (wholeSecond (s.base p).map.cur d.at_) s t ∧
      ∀ c, d.cmd = some c → (p = .tsu → (s.mbox c.mbx).held = []) → Answers (ofPart p c) 0x0041 .ok t := by
  have hset := alignedAll_at haligns hscope
  refine ⟨_, alignApply_of_due haligns hdue, ?_⟩
  cases d.cmd with
  | none => exact ⟨hset, fun c h => by simp at h⟩
  | some c =>
    refine ⟨hset.completed (complete_only _ (ofPart p c) _), fun c' hc hheld => ?_⟩
    cases hc
    exact doneR_answers fun hp => (congrArg Mailbox.held (alignedAll_mbox s p d c.mbx)).trans (hheld hp)

theorem alignApply_sets {p : Part} {d : AlignDue} {s : State} (haligns : (s.base p).map.aligns = [d])
    (hdue : stGe (s.now p) d.at_ = true) (hscope : d.scope = 0) (hwrap : d.at_.toNat + 64000000000 < 2 ^ 64) :
    Completes (.alignApply p) s fun t =>
      (t.base p).map.aligns = [] ∧ (t.base p).map.alignMap = some (s.base p).map.cur ∧
      ((s.base p).map.cur.originTu + (t.base p).map.alignAt.toNat) % 64000000000 = 0 ∧
      d.at_.toNat ≤ (t.base p).map.alignAt.toNat ∧ (t.base p).map.alignAt.toNat < d.at_.toNat + 64000000000 ∧
      (p = .dist → t.dist.refs.outA = t.dist.b.map.alignAt) ∧ (t.base p).t.acc = (s.base p).t.acc ∧
      (∀ c, d.cmd = some c → (p = .tsu → (s.mbox c.mbx).held = []) → Answers (ofPart p c) 0x0041 .ok t) ∧ PartOnly p s t := by
  obtain ⟨hwhole, hfrom, hto⟩ := wholeSecond_spec (m := (s.base p).map.cur) hwrap
  obtain ⟨t, hexec, ⟨hpart, hnone, halignMap, halignAt, houtA, hacc⟩, hanswers⟩ := alignApply_aligns haligns hdue hscope
  rw [← halignAt] at hwhole hfrom hto houtA
  refine ⟨t, hexec, hnone, halignMap, hwhole, hfrom, hto, fun hp => ?_, hacc, hanswers, hpart⟩
  subst hp
  exact houtA rfl

/-! ### The 1PPS output (R91, R93) -/

theorem ppsOut_rises {s : State} (hrole : s.role = .root) (hheld : s.dist.b.t.held = true)
    (hlow : (tget {} s.dist.refs.outs 0).high = false)
    (hgap : ∀ x, (tget {} s.dist.refs.outs 0).last = some x → 32000000000 ≤ elapsed (s.now .dist) x)
    (hsecond : (s.now .dist - s.dist.refs.outA).toNat % 64000000000 ≤ 64) :
    exec (.ppsOutEdge .pps true) s = .next (s.modRefs fun r => { r with
      outs := tset {} r.outs 0 { high := true, last := some (s.now .dist) } }) := by
  have hdriven : ¬ ((!outDriven s .pps || !s.dist.b.t.held) = true) := by simp [outDriven, hrole, hheld]
  have hrecent : ((tget {} s.dist.refs.outs 0).last.any fun t => decide (elapsed (s.now .dist) t < secTu / 2)) = false := by
    cases hlast : (tget {} s.dist.refs.outs 0).last with
    | none => rfl
    | some x => exact decide_eq_false (Nat.not_lt.mpr (hgap x hlast))
  have hnow : (s.now .dist - s.dist.refs.outA).toNat % secTu ≤ 64 := hsecond
  unfold exec execPpsOutEdge outShape
  dsimp only
  rw [if_neg hdriven, hrecent, hlow, decide_eq_true hnow]
  rfl

theorem ppsOut_falls {x : St} {s : State} (hrole : s.role = .root) (hheld : s.dist.b.t.held = true)
    (hhigh : tget {} s.dist.refs.outs 0 = { high := true, last := some x })
    (hwidth : clampN 1 500000 (s.cfg .dist 0x178 0x3E8) * 64000 ≤ elapsed (s.now .dist) x) :
    exec (.ppsOutEdge .pps false) s = .next (s.modRefs fun r => { r with
      outs := tset {} r.outs 0 { high := false, last := some x } }) := by
  have hdriven : ¬ ((!outDriven s .pps || !s.dist.b.t.held) = true) := by simp [outDriven, hrole, hheld]
  unfold exec execPpsOutEdge outShape
  dsimp only
  rw [if_neg hdriven, hhigh, if_neg Bool.false_ne_true, Option.any_some, decide_eq_true hwidth]
  rfl

/-- Settles O12: the leading root notes what `alignStep` gives, and the outputs are set at `wholeSecond` of its boundary. -/
theorem alignMovesTheOutputs : Obligations.AlignMovesTheOutputs := by
  unfold Obligations.AlignMovesTheOutputs
  exact ⟨fun c scope slice n a s => align_notes, fun c scope slice n s => align_carried, fun p d s => alignApply_sets,
    fun s => ppsOut_rises, fun x s => ppsOut_falls⟩

end Sys2Proof.Machine

namespace Sys2Proof.Machine

open Sys2Proof

/-! ### The roots' votes judged (R95) -/

theorem median3_mem (a b c : Int) : median3 a b c = a ∨ median3 a b c = b ∨ median3 a b c = c := by
  unfold median3
  omega

theorem median3_bounds (a b c : Int) : min (min a b) c ≤ median3 a b c ∧ median3 a b c ≤ max (max a b) c := by
  unfold median3
  omega

/-- No two of three values lie below their median. -/
theorem median3_below (a b c : Int) : ¬ (a < median3 a b c ∧ b < median3 a b c) ∧
    ¬ (a < median3 a b c ∧ c < median3 a b c) ∧ ¬ (b < median3 a b c ∧ c < median3 a b c) := by
  unfold median3
  omega

/-- No two of three values lie above their median. -/
theorem median3_above (a b c : Int) : ¬ (median3 a b c < a ∧ median3 a b c < b) ∧
    ¬ (median3 a b c < a ∧ median3 a b c < c) ∧ ¬ (median3 a b c < b ∧ median3 a b c < c) := by
  unfold median3
  omega

/-- At most one of three elements meets `q` where no two do. -/
theorem length_filter_three_le {α : Type} {q : α → Bool} {a b c : α} (hab : ¬ (q a = true ∧ q b = true))
    (hac : ¬ (q a = true ∧ q c = true)) (hbc : ¬ (q b = true ∧ q c = true)) : ([a, b, c].filter q).length ≤ 1 := by
  cases ha : q a <;> cases hb : q b <;> cases hc : q c <;> simp_all

/-- A mask made of one bit for each listed index. -/
theorem getLsbD_foldl_bits {k : Nat} (hk : k < 3) : ∀ (l : List Nat) (z : BitVec 3),
    (l.foldl (fun x i => x ||| BitVec.ofNat 3 (2 ^ i)) z).getLsbD k = (z.getLsbD k || decide (k ∈ l))
  | [], z => by simp
  | i :: l, z => by
    rw [List.foldl_cons, getLsbD_foldl_bits hk l, BitVec.getLsbD_or, BitVec.getLsbD_ofNat, Nat.testBit_two_pow]
    by_cases hik : k = i
    · subst hik
      simp [hk]
    · simp [hik, Ne.symm hik]

/-- Among pairs of different keys, a pair's key is among those selected just where the pair is. -/
theorem fst_mem_filter {α : Type} {l : List (Nat × α)} {q : Nat × α → Bool} {v : Nat × α} (hkeys : (l.map Prod.fst).Nodup)
    (hv : v ∈ l) : v.1 ∈ (l.filter q).map Prod.fst ↔ q v = true := by
  constructor
  · intro h
    obtain ⟨w, hw, heq⟩ := List.mem_map.mp h
    obtain ⟨hwl, hq⟩ := List.mem_filter.mp hw
    rwa [← List.inj_on_of_nodup_map hkeys hwl hv heq]
  · exact fun h => List.mem_map.mpr ⟨v, List.mem_filter.mpr ⟨hv, h⟩, rfl⟩

/-- The votes that lie further than `lim` from `m`, by the index of their root. -/
def outlierBits (lim : Nat) (m : Int) (l : List (Nat × RefVote)) : BitVec 3 :=
  ((l.filter fun v => decide (lim < (v.2.ePs - m).natAbs)).map Prod.fst).foldl (fun x i => x ||| BitVec.ofNat 3 (2 ^ i)) 0

theorem outlierBits_getLsbD {lim : Nat} {m : Int} {l : List (Nat × RefVote)} {v : Nat × RefVote}
    (hkeys : (l.map Prod.fst).Nodup) (hv : v ∈ l) (hroot : v.1 < 3) :
    (outlierBits lim m l).getLsbD v.1 = decide (lim < (v.2.ePs - m).natAbs) := by
  have hzero : (0 : BitVec 3).getLsbD v.1 = false := BitVec.getLsbD_zero
  unfold outlierBits
  rw [getLsbD_foldl_bits hroot, hzero, Bool.false_or, decide_eq_decide]
  exact (fst_mem_filter hkeys hv).trans decide_eq_true_iff

section
variable {lim : Nat} {r : Refs} {a b c : Nat × RefVote}

theorem refJudge_three (h : lockedVotes r = [a, b, c]) : refJudge lim r = { r with
    eUsed := some (median3 a.2.ePs b.2.ePs c.2.ePs), conflict := false, unchecked := false
    outlier := outlierBits lim (median3 a.2.ePs b.2.ePs c.2.ePs) [a, b, c] } := by
  have hvotes : lockedVotes { r with eUsed := none, outlier := 0, conflict := false, unchecked := false } = [a, b, c] := h
  unfold refJudge
  dsimp only
  rw [hvotes]
  rfl

theorem refJudge_two (h : lockedVotes r = [a, b]) : refJudge lim r =
    if (a.2.ePs - b.2.ePs).natAbs ≤ lim then
      { r with eUsed := some ((a.2.ePs + b.2.ePs) / 2), outlier := 0, conflict := false, unchecked := false }
    else { r with eUsed := none, outlier := 0, conflict := true, unchecked := false } := by
  have hvotes : lockedVotes { r with eUsed := none, outlier := 0, conflict := false, unchecked := false } = [a, b] := h
  unfold refJudge
  dsimp only
  rw [hvotes]

theorem refJudge_one (h : lockedVotes r = [a]) : refJudge lim r =
    { r with eUsed := some a.2.ePs, outlier := 0, conflict := false, unchecked := true } := by
  have hvotes : lockedVotes { r with eUsed := none, outlier := 0, conflict := false, unchecked := false } = [a] := h
  unfold refJudge
  dsimp only
  rw [hvotes]

theorem refJudge_none (h : lockedVotes r = []) : refJudge lim r =
    { r with eUsed := none, outlier := 0, conflict := false, unchecked := false } := by
  have hvotes : lockedVotes { r with eUsed := none, outlier := 0, conflict := false, unchecked := false } = [] := h
  unfold refJudge
  dsimp only
  rw [hvotes]

/-- Three LOCKED roots: the median, with at most one vote on each side of it, and the outliers marked. -/
theorem refJudge_median (h : lockedVotes r = [a, b, c]) : ∃ m, (refJudge lim r).eUsed = some m ∧
    (m = a.2.ePs ∨ m = b.2.ePs ∨ m = c.2.ePs) ∧ min (min a.2.ePs b.2.ePs) c.2.ePs ≤ m ∧
    m ≤ max (max a.2.ePs b.2.ePs) c.2.ePs ∧
    ([a, b, c].filter fun v => decide (v.2.ePs < m)).length ≤ 1 ∧ ([a, b, c].filter fun v => decide (m < v.2.ePs)).length ≤ 1 ∧
    (refJudge lim r).conflict = false ∧ (refJudge lim r).unchecked = false ∧
    (a.1 < 3 → b.1 < 3 → c.1 < 3 → a.1 ≠ b.1 → a.1 ≠ c.1 → b.1 ≠ c.1 →
      ∀ v ∈ [a, b, c], (refJudge lim r).outlier.getLsbD v.1 = decide (lim < (v.2.ePs - m).natAbs)) := by
  obtain ⟨hlo, hhi⟩ := median3_bounds a.2.ePs b.2.ePs c.2.ePs
  rw [refJudge_three h]
  refine ⟨_, rfl, median3_mem .., hlo, hhi, ?_, ?_, rfl, rfl, fun ha hb hc hab hac hbc v hv => ?_⟩
  · obtain ⟨hab, hac, hbc⟩ := median3_below a.2.ePs b.2.ePs c.2.ePs
    exact length_filter_three_le (by simpa using hab) (by simpa using hac) (by simpa using hbc)
  · obtain ⟨hab, hac, hbc⟩ := median3_above a.2.ePs b.2.ePs c.2.ePs
    exact length_filter_three_le (by simpa using hab) (by simpa using hac) (by simpa using hbc)
  · have hkeys : ([a, b, c].map Prod.fst).Nodup := by simp [hab, hac, hbc]
    have hroot : v.1 < 3 := by
      simp only [List.mem_cons, List.not_mem_nil, or_false] at hv
      rcases hv with rfl | rfl | rfl
      · exact ha
      · exact hb
      · exact hc
    exact outlierBits_getLsbD hkeys hv hroot

end

/-! ### Another root's vote (R95, R338) -/

/-- A fresh VOTE for this distributor by name goes no further. -/
theorem voteIn_own {s : State} {port : Nat} {v : Vote} (hfresh : voteFresh s .dist v = true) (hbarred : voteBarred s v = false)
    (hdst : v.dst = s.node .dist) (hone : v.dst ≠ allRoots) : voteIn s port v = (s, true) := by
  have hroute : voteRoute s port v = [] := by
    unfold voteRoute
    dsimp only
    rw [if_neg hone, if_pos hdst]
  have hmine : voteMine s port v = true := by simp [voteMine, hdst]
  unfold voteIn
  rw [hfresh, hbarred, hroute, hmine]
  rfl

theorem voteRefReceive_judges {port root st : Nat} {key : BitVec 16} {e yc : Int} {ab : Nat} {v : Vote} {s : State}
    (hport : port < 128) (hrole : s.role = .root) (hservice : s.dist.sv.state = .inService)
    (hbody : v.body = .ref root st key e yc ab) (hroot : root ≤ 2) (hsrc : v.src = rootNode s root) (hdst : v.dst = s.node .dist)
    (hone : v.dst ≠ allRoots) (hfresh : voteFresh s .dist v = true) (hbarred : voteBarred s v = false)
    (hleader : leaderOf s .dist ≠ root) :
    Completes (.voteRefReceive port v) s fun t =>
      t.dist.refs = refJudge (refDisagree s) { s.dist.refs with
        votes := tset {} s.dist.refs.votes root { have_ := true, state := st, key, ePs := e, yc, absErr := ab } } ∧
      t = { s with dist.refs := t.dist.refs } := by
  have hserves : servesRoot s = true := by simp [servesRoot, hrole, hservice]
  have htaken : ¬ ((!true || !servesRoot s || decide (2 < root) || v.src != rootNode s root) = true) := by
    simp [hserves, hroot, hsrc]
  have hother : ∀ f : Refs → Refs, ¬ (leaderOf (s.modRefs f) .dist = root) := fun _ => hleader
  unfold Completes exec execVoteRefReceive
  refine onPort_completes hport ?_
  rw [hbody]
  dsimp only
  rw [voteIn_own hfresh hbarred hdst hone, if_neg htaken, if_neg (hother _)]
  exact ⟨rfl, rfl⟩

/-! ### An input tested again (R77, R79, R82) -/

/-- `t` differs from `s` in the inputs and in what a selection run changes. -/
def RetestOnly (s t : State) : Prop := t = { s with dist.refs := { s.dist.refs with
  ins := t.dist.refs.ins, selected := t.dist.refs.selected, state := t.dist.refs.state, before := t.dist.refs.before
  pull := t.dist.refs.pull, originNeeded := t.dist.refs.originNeeded, near := t.dist.refs.near
  holdShort := t.dist.refs.holdShort, freqAssist := t.dist.refs.freqAssist, lockedAt := t.dist.refs.lockedAt
  lossAt := t.dist.refs.lossAt, holdVal := t.dist.refs.holdVal, e0 := t.dist.refs.e0 } }

theorem RetestOnly.refl (s : State) : RetestOnly s s := rfl

theorem RetestOnly.trans {s t u : State} (h : RetestOnly s t) (k : RetestOnly t u) : RetestOnly s u := by
  unfold RetestOnly at *
  rw [k, h]

theorem RefRowOnly.retest {s t : State} (h : RefRowOnly s t) : RetestOnly s t := by
  unfold RefRowOnly at h
  unfold RetestOnly
  rw [h]

theorem RefRowOnly.refIn {s t : State} (h : RefRowOnly s t) (j : Nat) : t.refIn j = s.refIn j := by
  unfold RefRowOnly at h
  unfold State.refIn
  rw [h]

theorem modRefIn_retest (s : State) (i : Nat) (f : RefIn → RefIn) : RetestOnly s (s.modRefIn i f) := rfl

theorem RetestOnly.refs {s t : State} (h : RetestOnly s t) : t = { s with dist.refs := t.dist.refs } := by
  unfold RetestOnly at h
  rw [h]

theorem RetestOnly.part {s t : State} (h : RetestOnly s t) : DistOnly s t := by
  unfold RetestOnly at h
  rw [h]
  exact ⟨rfl, rfl, rfl⟩

theorem RetestOnly.ptp {s t : State} (h : RetestOnly s t) : t.dist.refs.ptp = s.dist.refs.ptp := by
  unfold RetestOnly at h
  rw [h]

theorem RetestOnly.esmc {s t : State} (h : RetestOnly s t) :
    t.dist.refs.ql = s.dist.refs.ql ∧ t.dist.refs.esmcAt = s.dist.refs.esmcAt := by
  unfold RetestOnly at h
  rw [h]
  exact ⟨rfl, rfl⟩

theorem refIn_modRefIn (s : State) (i : Nat) (f : RefIn → RefIn) : (s.modRefIn i f).refIn i = f (s.refIn i) := tget_tmod_eq ..

theorem refIn_modRefIn_ne (s : State) {i j : Nat} (h : j ≠ i) (f : RefIn → RefIn) : (s.modRefIn i f).refIn j = s.refIn j :=
  tget_tmod_ne _ _ _ h

/-- An input that is declared failed (R79). -/
def RefIn.lost (x : RefIn) : RefIn :=
  { x with valid := false, validSince := none, failed := true, wtr := false, eligible := false }

/-- `t` is `s` with input `i` declared failed, and a selection where it was the selected one. -/
structure InputLost (i : Nat) (s t : State) : Prop where
  only : RetestOnly s t
  own : t.refIn i = (s.refIn i).lost
  others : ∀ j, j ≠ i → t.refIn j = s.refIn j

theorem refLost_loses (s : State) (i : Nat) : InputLost i s (refLost s i) := by
  have hfail : InputLost i s (refFail s i) :=
    ⟨modRefIn_retest .., refIn_modRefIn .., fun j hj => refIn_modRefIn_ne s hj _⟩
  have hrow := refRun_row (refFail s i)
  obtain ⟨honly, hown, hothers⟩ := hfail
  unfold refLost
  dsimp only
  split
  · exact ⟨honly.trans hrow.retest, (hrow.refIn i).trans hown, fun j hj => (hrow.refIn j).trans (hothers j hj)⟩
  · exact ⟨honly, hown, hothers⟩

/-- Selection leaves an input as soon as it is declared failed (R82). -/
theorem refLost_selected {s : State} {i : Nat} (hi : i < 5) (hheld : s.dist.b.t.held = true) :
    (refLost s i).dist.refs.selected ≠ i := by
  have hbarred : refEligible (refFail s i) i = false := by
    have hown : ((refFail s i).refIn i).eligible = false := congrArg RefIn.eligible (refIn_modRefIn ..)
    have hne : (i == 5) = false := beq_eq_false_iff_ne.mpr (by omega)
    unfold refEligible
    rw [hown, hne]
    rfl
  have hheld' : (refFail s i).dist.b.t.held = true := hheld
  unfold refLost
  dsimp only
  split
  · rw [refRun_selected]
    intro hsel
    obtain ⟨-, hopen⟩ := refSelect_open (s := refFail s i) (by omega)
    rw [hsel, refOpen, hbarred] at hopen
    exact Bool.false_ne_true hopen
  · rename_i hnot
    rw [hheld', Bool.and_true, decide_eq_true_eq] at hnot
    exact hnot

/-- What a test of input `i` after news of it can change: whether it is valid, and with it the selection. -/
structure Retested (i : Nat) (s t : State) : Prop where
  only : RetestOnly s t
  clkOk : (t.refIn i).clkOk = (s.refIn i).clkOk
  clkCount : (t.refIn i).clkCount = (s.refIn i).clkCount
  failing : refTests s i = false → (t.refIn i).valid = false

theorem refRetest_retests (s : State) (i : Nat) : Retested i s (refRetest s i) := by
  unfold refRetest
  split
  · obtain ⟨honly, hown, -⟩ := refLost_loses s i
    exact ⟨honly, by rw [hown]; rfl, by rw [hown]; rfl, fun _ => by rw [hown]; rfl⟩
  · rename_i hnot
    unfold refRecheck
    dsimp only
    split
    · exact ⟨.refl s, rfl, rfl, fun h => by simpa [h] using hnot⟩
    · rename_i hmet
      refine ⟨modRefIn_retest .., ?_, ?_, fun h => absurd (show _ = true by simp [h]) hmet⟩
      · rw [refIn_modRefIn]
      · rw [refIn_modRefIn]

/-- An input that is not valid and fails a test stays as it is. -/
theorem refRetest_of_unmet {s : State} {i : Nat} (hvalid : (s.refIn i).valid = false) (htests : refTests s i = false) :
    refRetest s i = s := by
  unfold refRetest refRecheck
  simp [hvalid, htests]

/-! ### PTP (R74, R75) -/

/-- The references with a PTP port that has not begun listening. -/
def ptpListens (s : State) (port : Nat) : State := s.modRefs fun r => { r with
  ptp := tmod {} r.ptp port fun p => if p.state = 0 ∨ 3 < p.state then { p with state := 1 } else p }

theorem ptpReceive_enabled {port : Nat} {m : PtpMsg} {s : State} (hport : port < 2) (hrole : s.role = .root)
    (hen : tbit (s.cfg .dist (0x10A8 + 8 * port) 0) 12 = true) :
    exec (.ptpMessageReceive port m) s = .next (refRetest (ptpTake (ptpListens s port) port m) (2 + port)) := by
  have hon : ¬ ((s.role != .root || !tbit (s.cfg .dist (0x10A8 + 8 * port) 0) 12) = true) := by simp [hrole, hen]
  unfold exec execPtpMessageReceive
  dsimp only
  rw [onUnit_eq, if_pos (decide_eq_true hport), if_neg hon]
  rfl

/-- A port that listens already stays as it is. -/
theorem ptpListens_ptp {s : State} {port : Nat} (hlo : (tget {} s.dist.refs.ptp port).state ≠ 0)
    (hhi : (tget {} s.dist.refs.ptp port).state ≤ 3) (k : Nat) :
    tget {} (ptpListens s port).dist.refs.ptp k = tget {} s.dist.refs.ptp k := by
  unfold ptpListens
  rw [State.modRefs_refs, tget_tmod]
  split
  · rename_i hk
    rw [if_neg (by omega), hk]
  · rfl

theorem refTests_ptp (s : State) {port : Nat} (hport : port < 2) : refTests s (2 + port) =
    ((tget {} s.dist.refs.ptp port).state == 3 && decide ((tget {} s.dist.refs.ptp port).cls < 255)) := by
  obtain rfl | rfl : port = 0 ∨ port = 1 := by omega
  · rfl
  · rfl

/-- An input whose PTP port is not SLAVE fails its tests (R77). -/
theorem refTests_of_not_slave {s : State} {port : Nat} (hport : port < 2) (h : (tget {} s.dist.refs.ptp port).state ≠ 3) :
    refTests s (2 + port) = false := by
  rw [refTests_ptp s hport, beq_eq_false_iff_ne.mpr h, Bool.false_and]

theorem ptpDiscard_count (s : State) (port : Nat) : s.count .dist .ptpDiscard port {} 1 =
    s.modBase .dist (·.setCtr .ptpDiscard port (s.dist.b.ctr .ptpDiscard port + 1)) := rfl

theorem ptpManagement_discarded {port : Nat} {s : State} (hport : port < 2) (hrole : s.role = .root)
    (hen : tbit (s.cfg .dist (0x10A8 + 8 * port) 0) 12 = true) (hstate : (tget {} s.dist.refs.ptp port).state = 2)
    (hvalid : (s.refIn (2 + port)).valid = false) :
    Completes (.ptpMessageReceive port .management) s fun t =>
      (t.base .dist).ctr .ptpDiscard port = (s.base .dist).ctr .ptpDiscard port + 1 ∧
      (∀ k, tget {} t.dist.refs.ptp k = tget {} s.dist.refs.ptp k) ∧
      t = { s with dist := { s.dist with
        b := { s.dist.b with cnt := t.dist.b.cnt }, refs := { s.dist.refs with ptp := t.dist.refs.ptp } } } := by
  have hptp := ptpListens_ptp (s := s) (port := port) (by omega) (by omega)
  have htake : ptpTake (ptpListens s port) port .management = (ptpListens s port).count .dist .ptpDiscard port {} 1 := rfl
  have hunmet : refTests ((ptpListens s port).count .dist .ptpDiscard port {} 1) (2 + port) = false := by
    refine refTests_of_not_slave hport ?_
    rw [ptpDiscard_count, State.modBase_dist_refs, hptp, hstate]
    decide
  have hsame := refRetest_of_unmet (s := (ptpListens s port).count .dist .ptpDiscard port {} 1) (i := 2 + port) hvalid hunmet
  refine ⟨_, ptpReceive_enabled hport hrole hen, ?_⟩
  dsimp only
  rw [htake, hsame]
  refine ⟨count_ctr .., hptp, ?_⟩
  rw [ptpDiscard_count]
  rfl

/-- An enabled port that listens follows the master that an Announce names. -/
def ptpFollows (s : State) (port cls acc : Nat) (id : W64) (off : BitVec 16) (ok : Bool) : State := s.modRefs fun r => { r with
  ptp := tset {} r.ptp port { state := 2, cls, acc, identity := id, gotSync := false, gotDelay := false }
  ptpUtc := if ok then some off else r.ptpUtc }

theorem ptpFollows_ptp (s : State) (port cls acc : Nat) (id : W64) (off : BitVec 16) (ok : Bool) :
    tget {} (ptpFollows s port cls acc id off ok).dist.refs.ptp port =
      { state := 2, cls, acc, identity := id, gotSync := false, gotDelay := false } := by
  unfold ptpFollows
  rw [State.modRefs_refs, tget_tset, if_pos rfl]

theorem ptpTake_announce {port cls acc : Nat} {id : W64} {off : BitVec 16} {ok : Bool} {s : State}
    (hstate : (tget {} s.dist.refs.ptp port).state = 1) :
    ptpTake s port (.announce cls acc id off ok false) = ptpFollows s port cls acc id off ok := by
  have hbetter : masterBetter (tget {} s.dist.refs.ptp port) cls acc id = true := by
    unfold masterBetter
    rw [hstate]
    rfl
  unfold ptpTake ptpFollows
  dsimp only
  rw [hbetter, hstate, if_neg (by decide), decide_eq_false (by decide), Bool.and_false]
  cases ok
  · rfl
  · rfl

theorem ptpAnnounce_taken {port cls acc : Nat} {id : W64} {off : BitVec 16} {ok : Bool} {s : State} (hport : port < 2)
    (hrole : s.role = .root) (hen : tbit (s.cfg .dist (0x10A8 + 8 * port) 0) 12 = true)
    (hstate : (tget {} s.dist.refs.ptp port).state = 1) (hvalid : (s.refIn (2 + port)).valid = false) :
    Completes (.ptpMessageReceive port (.announce cls acc id off ok false)) s fun t =>
      tget {} t.dist.refs.ptp port = { state := 2, cls, acc, identity := id, gotSync := false, gotDelay := false } ∧
      t.dist.refs.ptpUtc = (if ok then some off else s.dist.refs.ptpUtc) ∧ t = { s with dist.refs := t.dist.refs } := by
  have hlistens : (tget {} (ptpListens s port).dist.refs.ptp port).state = 1 := by
    rw [ptpListens_ptp (by omega) (by omega), hstate]
  have hnew := ptpFollows_ptp (ptpListens s port) port cls acc id off ok
  have hmaster : (tget {} (ptpFollows (ptpListens s port) port cls acc id off ok).dist.refs.ptp port).state = 2 :=
    congrArg PtpPort.state hnew
  have hunmet : refTests (ptpFollows (ptpListens s port) port cls acc id off ok) (2 + port) = false :=
    refTests_of_not_slave hport (by rw [hmaster]; decide)
  have hsame : refRetest (ptpFollows (ptpListens s port) port cls acc id off ok) (2 + port) = _ :=
    refRetest_of_unmet hvalid hunmet
  refine ⟨_, ptpReceive_enabled hport hrole hen, ?_⟩
  dsimp only
  rw [ptpTake_announce hlistens, hsame]
  exact ⟨hnew, rfl, rfl⟩

theorem ptpDelayResp_settles {port : Nat} {s : State} (hport : port < 2) (hrole : s.role = .root)
    (hen : tbit (s.cfg .dist (0x10A8 + 8 * port) 0) 12 = true) (hstate : (tget {} s.dist.refs.ptp port).state = 2)
    (hsync : (tget {} s.dist.refs.ptp port).gotSync = true) :
    Completes (.ptpMessageReceive port .delayResp) s fun t => (tget {} t.dist.refs.ptp port).state = 3 ∧ DistOnly s t := by
  have hown : tget {} (ptpListens s port).dist.refs.ptp port = tget {} s.dist.refs.ptp port :=
    ptpListens_ptp (by omega) (by omega) port
  have htake : ptpTake (ptpListens s port) port .delayResp = (ptpListens s port).modRefs fun r => { r with
      ptp := tset {} r.ptp port { tget {} s.dist.refs.ptp port with state := 3, gotDelay := true } } := by
    unfold ptpTake PtpPort.settle
    dsimp only
    rw [hown, hstate, hsync]
    rfl
  have hretest := (refRetest_retests (ptpTake (ptpListens s port) port .delayResp) (2 + port)).only
  refine ⟨_, ptpReceive_enabled hport hrole hen, ?_, ?_⟩
  · rw [hretest.ptp, htake, State.modRefs_refs, tget_tset, if_pos rfl]
  · have htaken : DistOnly s (ptpTake (ptpListens s port) port .delayResp) := by
      rw [htake]
      exact ⟨rfl, rfl, rfl⟩
    exact partOnly_trans (p := .dist) htaken hretest.part

/-! ### SyncE and the edge counts (R76, R422, R472) -/

theorem esmcPdu_taken {port : Nat} {ql : Ql} {s : State} (hport : port < 2) (hrole : s.role = .root)
    (hsrc : s.cfg .dist 0x10A0 0 % 2 = port) :
    Completes (.esmcPduReceive port ql) s fun t =>
      t.dist.refs.ql = some ql ∧ t.dist.refs.esmcAt = some (s.now .dist) ∧
      (qlClass ql = none → (t.refIn 4).valid = false) ∧ DistOnly s t := by
  have hon : ¬ ((s.role != .root || decide (s.cfg .dist 0x10A0 0 % 2 ≠ port)) = true) := by simp [hrole, hsrc]
  have htested := refRetest_retests (s.modRefs fun r => { r with ql := some ql, esmcAt := some (s.now .dist) }) 4
  obtain ⟨honly, -, -, hfailing⟩ := htested
  obtain ⟨hql, hat⟩ := honly.esmc
  unfold Completes exec execEsmcPduReceive
  refine onUnit_completes (decide_eq_true hport) ?_
  rw [if_neg hon]
  refine ⟨hql, hat, fun hnone => hfailing ?_, partOnly_trans (p := .dist) ⟨rfl, rfl, rfl⟩ honly.part⟩
  simp [refTests, hnone]

/-- The outcome of an edge-count window at its input. -/
def edgesCounted (s : State) (i count : Nat) : State := s.modRefIn i fun x => { x with clkOk := countGood i count, clkCount := count }

theorem refTests_of_clock {s : State} {i : Nat} (hi : i = 0 ∨ i = 1 ∨ i = 4) (h : (s.refIn i).clkOk = false) : refTests s i = false := by
  rcases hi with rfl | rfl | rfl
  · simp [refTests, h]
  · simp [refTests, h]
  · simp [refTests, h]

theorem presenceWindow_next {i count : Nat} {inTime : Bool} {s : State} (hi : i = 0 ∨ i = 1 ∨ i = 4 ∨ i = 5)
    (hrole : s.role = .root) : exec (.refPresenceWindow i false count inTime) s = .next (
      if i = 5 then
        if ((edgesCounted s i count).refIn 5).clkOk then (edgesCounted s i count).modRefs fun r => { r with ocxoAbsent := false }
        else ocxoLost (edgesCounted s i count)
      else refRetest (edgesCounted s i count) i) := by
  have hroot : ¬ (((edgesCounted s i count).role != .root) = true) := by
    have hrole' : (edgesCounted s i count).role = .root := hrole
    rw [hrole']
    decide
  unfold exec execRefPresenceWindow
  dsimp only
  rw [onUnit_eq, if_pos (decide_eq_true (by omega)), if_neg (by omega)]
  exact congrArg _ (if_neg hroot)

theorem presenceWindow_ends {i count : Nat} {inTime : Bool} {s : State} (hi : i = 0 ∨ i = 1 ∨ i = 4) (hrole : s.role = .root) :
    Completes (.refPresenceWindow i false count inTime) s fun t =>
      (t.refIn i).clkCount = count ∧ (t.refIn i).clkOk = countGood i count ∧
      (countGood i count = false → (t.refIn i).valid = false) ∧ DistOnly s t := by
  have hcounted : (edgesCounted s i count).refIn i = { s.refIn i with clkOk := countGood i count, clkCount := count } :=
    refIn_modRefIn ..
  obtain ⟨honly, hok, hcount, hfailing⟩ := refRetest_retests (edgesCounted s i count) i
  rw [hcounted] at hok hcount
  refine ⟨_, presenceWindow_next (by omega) hrole, ?_⟩
  rw [if_neg (by omega)]
  refine ⟨hcount, hok, fun hbad => hfailing (refTests_of_clock hi (by rw [hcounted]; exact hbad)), ?_⟩
  exact partOnly_trans (p := .dist) ⟨rfl, rfl, rfl⟩ honly.part

theorem sendVotes_refs (s : State) (is : List Nat) (v : Vote) : (sendVotes s .dist is v).dist.refs = s.dist.refs :=
  (congrArg Dist.refs (sendVotes_sends s .dist is v).dist :)

theorem enterElectHold_refs (s : State) : (enterElectHold s).dist.refs = s.dist.refs := rfl

theorem rootLostCheck_refs (s : State) (port : Nat) : (rootLostCheck s port).dist.refs = s.dist.refs := by
  unfold rootLostCheck
  extract_lets r s1 left s2
  have h2 : s2.dist.refs = s.dist.refs := sendVotes_refs s1 ..
  split
  · rfl
  · split
    · rfl
    · split
      · rw [enterElectHold_refs, h2]
      · exact h2

theorem setLink_refs (s : State) (i : Nat) (x : LinkState) : (setLink s .dist i x).dist.refs = s.dist.refs := by
  unfold setLink
  extract_lets old now s1 s2
  have h2 : s2.dist.refs = s.dist.refs := (congrArg Dist.refs (fr_counts s1 ..).dist :)
  split
  · rfl
  · split
    · exact (rootLostCheck_refs ..).trans h2
    · exact h2

theorem toDown_refs (s : State) (i : Nat) : (toDown s .dist i).dist.refs = s.dist.refs := setLink_refs ..

/-- A port taken down unless it is in DOWN already. -/
def portDown (s : State) (i : Nat) : State := if (s.port .dist i).link.state = .down then s else toDown s .dist i

theorem portDown_kept (s : State) (i : Nat) : DistOnly s (portDown s i) ∧ (portDown s i).dist.refs = s.dist.refs := by
  unfold portDown
  split
  · exact ⟨⟨rfl, rfl, rfl⟩, rfl⟩
  · obtain ⟨-, -, -, -, hstep⟩ := toDown_downs s .dist i
    exact ⟨hstep.part, toDown_refs s i⟩

theorem portDown_self (s : State) (i : Nat) : ((portDown s i).port .dist i).link.state = .down := by
  unfold portDown
  split
  · assumption
  · exact (toDown_downs s .dist i).1

theorem portDown_link_ne (s : State) {i j : Nat} (h : j ≠ i) :
    ((portDown s i).port .dist j).link.state = (s.port .dist j).link.state := by
  unfold portDown
  split
  · rfl
  · obtain ⟨-, -, -, -, hstep⟩ := toDown_downs s .dist i
    rw [hstep.others_link h]

theorem foldl_portDown_kept : ∀ (l : List Nat) (s : State),
    DistOnly s (l.foldl portDown s) ∧ (l.foldl portDown s).dist.refs = s.dist.refs
  | [], _ => ⟨⟨rfl, rfl, rfl⟩, rfl⟩
  | i :: l, s => by
    obtain ⟨hpart, hrefs⟩ := foldl_portDown_kept l (portDown s i)
    obtain ⟨hpart1, hrefs1⟩ := portDown_kept s i
    exact ⟨partOnly_trans (p := .dist) hpart1 hpart, hrefs.trans hrefs1⟩

theorem foldl_portDown_down {l : List Nat} {i : Nat} (hnodup : l.Nodup) (hi : i ∈ l) (s : State) :
    ((l.foldl portDown s).port .dist i).link.state = .down :=
  foldl_at (Pre := fun _ => True) (Post := fun t => (t.port .dist i).link.state = .down) (fun _ _ _ _ => trivial)
    (fun t _ => portDown_self t i) (fun t _ hj hdown => (portDown_link_ne t (Ne.symm hj)).trans hdown) l s hnodup hi trivial

/-- A root that has lost its OCXO holds every port in DOWN and alerts (R472). -/
theorem ocxoLost_downs (s : State) : let t := ocxoLost s
    t.dist.refs.ocxoAbsent = true ∧ t.dist.b.hs.alert.getLsbD 4 = true ∧
    (∀ i, i < 128 → (t.port .dist i).link.state = .down) ∧ DistOnly s t := by
  obtain ⟨hpart, hrefs⟩ := foldl_portDown_kept (List.range 128) (s.modRefs fun r => { r with ocxoAbsent := true })
  have hdown : ∀ i, i < 128 → (((List.range 128).foldl portDown
      (s.modRefs fun r => { r with ocxoAbsent := true })).port .dist i).link.state = .down :=
    fun i hi => foldl_portDown_down List.nodup_range (List.mem_range.mpr hi) _
  have heq : ocxoLost s = ((List.range 128).foldl portDown (s.modRefs fun r => { r with ocxoAbsent := true })).alert .dist 4 := rfl
  intro t
  simp only [t]
  rw [heq]
  generalize (List.range 128).foldl portDown _ = u at *
  have halert := alert_reports u .dist 4
  have hrefs' : (u.alert .dist 4).dist.refs = u.dist.refs := (congrArg Dist.refs halert.dist :)
  refine ⟨?_, alert_bit u .dist (by decide), fun i hi => ?_, ?_⟩
  · rw [hrefs', hrefs]
    rfl
  · rw [(alert_choice u .dist 4).port_eq]
    exact hdown i hi
  · exact partOnly_trans (p := .dist) (partOnly_trans (p := .dist) ⟨rfl, rfl, rfl⟩ hpart) halert.part

theorem presenceWindow_ocxo {count : Nat} {inTime : Bool} {s : State} (hrole : s.role = .root) (hbad : countGood 5 count = false) :
    Completes (.refPresenceWindow 5 false count inTime) s fun t =>
      t.dist.refs.ocxoAbsent = true ∧ t.dist.b.hs.alert.getLsbD 4 = true ∧
      (∀ i, i < 128 → (t.port .dist i).link.state = .down) ∧ DistOnly s t := by
  have hcounted : ((edgesCounted s 5 count).refIn 5).clkOk = false := by
    unfold edgesCounted
    rw [refIn_modRefIn]
    exact hbad
  obtain ⟨habsent, halert, hdown, hpart⟩ := ocxoLost_downs (edgesCounted s 5 count)
  refine ⟨_, presenceWindow_next (by omega) hrole, ?_⟩
  dsimp only
  rw [if_pos rfl, hcounted, if_neg Bool.false_ne_true]
  exact ⟨habsent, halert, hdown, partOnly_trans (p := .dist) ⟨rfl, rfl, rfl⟩ hpart⟩

/-! ### Failures and restoration (R77, R79) -/

/-- What a failed PTP test does to its port leaves the inputs. -/
theorem ptpFail_kept (s : State) (i : Nat) (why : RefFail) : ptpFail s i why =
    { s with dist.refs := { s.dist.refs with ptp := (ptpFail s i why).dist.refs.ptp } } := by
  unfold ptpFail
  dsimp only
  split <;> rfl

theorem refInputFail_loses {i : Nat} {why : RefFail} {s : State} (hi : i < 5) (hrole : s.role = .root)
    (hvalid : (s.refIn i).valid = true) (hfails : refFails s i why = true) (hheld : s.dist.b.t.held = true) :
    Completes (.refInputFail i why) s fun t =>
      (t.refIn i).valid = false ∧ (t.refIn i).failed = true ∧ (t.refIn i).eligible = false ∧ (t.refIn i).wtr = false ∧
      t.dist.refs.selected ≠ i ∧ (∀ j, j ≠ i → t.refIn j = s.refIn j) ∧ t = { s with dist.refs := t.dist.refs } := by
  have hdue : ¬ ((s.role != .root || decide (i = 5) || !(s.refIn i).valid || !refFails s i why) = true) := by
    simp only [hrole, hvalid, hfails]
    simp
    omega
  have hptp := ptpFail_kept s i why
  have hins : ∀ j, (ptpFail s i why).refIn j = s.refIn j := fun j => by
    rw [hptp]
    rfl
  have hheld' : (ptpFail s i why).dist.b.t.held = true := by
    rw [hptp]
    exact hheld
  have hselected := refLost_selected hi hheld'
  obtain ⟨honly, hown, hothers⟩ := refLost_loses (ptpFail s i why) i
  have hframe : refLost (ptpFail s i why) i = { s with dist.refs := (refLost (ptpFail s i why) i).dist.refs } := by
    have := honly.refs
    generalize refLost (ptpFail s i why) i = t at *
    rw [this, hptp]
  unfold Completes exec execRefInputFail
  refine onUnit_completes (decide_eq_true (by omega)) ?_
  rw [if_neg hdue]
  refine ⟨?_, ?_, ?_, ?_, hselected, fun j hj => (hothers j hj).trans (hins j), hframe⟩
  all_goals
    rw [hown]
    rfl

theorem wtrExpire_restores {i : Nat} {x : St} {s : State} (hi : i < 6) (hvalid : (s.refIn i).valid = true)
    (hwtr : (s.refIn i).wtr = true) (hsince : (s.refIn i).validSince = some x) (hlong : wtrTime s ≤ elapsed (s.now .dist) x) :
    exec (.wtrExpire i) s = .next (s.modRefIn i fun r => { r with wtr := false, eligible := true }) := by
  unfold exec execWtrExpire
  dsimp only
  rw [onUnit_eq, if_pos (decide_eq_true hi), hvalid, hwtr, hsince, Option.any_some, decide_eq_true hlong]
  rfl

theorem wtrExpire_waits {i : Nat} {x : St} {s : State} (hi : i < 6) (hsince : (s.refIn i).validSince = some x)
    (hshort : elapsed (s.now .dist) x < wtrTime s) : exec (.wtrExpire i) s = .next s := by
  unfold exec execWtrExpire
  dsimp only
  rw [onUnit_eq, if_pos (decide_eq_true hi), hsince, Option.any_some, decide_eq_false (Nat.not_le.mpr hshort), Bool.and_false,
    if_neg Bool.false_ne_true]

/-- Settles O11: the votes are judged by how many roots are LOCKED; each piece of news changes its input and tests it again. -/
theorem rootsAgreeOnTheUsedError : Obligations.RootsAgreeOnTheUsedError := by
  unfold Obligations.RootsAgreeOnTheUsedError
  refine ⟨fun lim r => ⟨fun a b c => refJudge_median, fun a b h hle => ?_, fun a b h hlt => ?_, fun a h => ?_, fun h => ?_⟩,
    ⟨fun port root st key e yc ab v s => voteRefReceive_judges, fun port s => ptpManagement_discarded,
      fun port cls acc id off ok s => ptpAnnounce_taken, fun port s => ptpDelayResp_settles, fun port ql s => esmcPdu_taken,
      fun i count inTime s => presenceWindow_ends, fun count inTime s => presenceWindow_ocxo⟩,
    fun i why s => refInputFail_loses, fun i x s => wtrExpire_restores, fun i x s => wtrExpire_waits⟩
  · rw [refJudge_two h, if_pos hle]
    exact ⟨rfl, rfl⟩
  · rw [refJudge_two h, if_neg (Nat.not_le.mpr hlt)]
    exact ⟨rfl, rfl⟩
  · rw [refJudge_one h]
    exact ⟨rfl, rfl⟩
  · rw [refJudge_none h]

end Sys2Proof.Machine

namespace Sys2Proof.Machine

open Sys2Proof

/-! ### The tick of an order past the half of the tick range (R20, R121) -/

/-- Tick 0 is later, in the modular order of ticks, than every tick past the half of their range (R20). -/
theorem tickDiff_zero_pos {n : Tick} (h : 2 ^ 49 < n.toNat) : 0 < tickDiff 0 n := by
  have hlt : n.toNat < 2 ^ 50 := n.isLt
  have hneg : ((0 : Tick) - n).toNat = 2 ^ 50 - n.toNat := by
    rw [BitVec.toNat_sub, BitVec.ofNat_eq_ofNat, BitVec.toNat_zero]
    omega
  unfold tickDiff
  rw [BitVec.toInt_eq_toNat_cond, hneg, if_pos (by omega)]
  omega

/-- A leader's order at a port that has none pending: the later of the bound given and nine ticks ahead (R121). -/
theorem orderChange_order {s : State} {p : Part} {i : Nat} (kind : Nat) (m : BitVec 6) (atLeast : Tick)
    (hnone : (s.port p i).link.order = none) :
    ((orderChange s p i kind m atLeast).port p i).link.order = some {
      kind, map := m, id := (s.port p i).link.nextId
      tick := if tickDiff atLeast (tickOf (s.now p) + 9) > 0 then atLeast else tickOf (s.now p) + 9 } := by
  unfold orderChange
  rw [port_modLink]
  dsimp only
  rw [hnone]

/-- A leader that wants a change passes 0 as the earliest tick, meaning no bound; past the half of the tick range 0 is the later of
the two, and the order names it. -/
theorem wantChange_ordersTickZero {s : State} {p : Part} {i : Nat} (kind : Nat) (m : BitVec 6) (hleader : linkLeader s p i = true)
    (hnone : (s.port p i).link.order = none) (hlate : 2 ^ 49 < (tickOf (s.now p) + 9).toNat) :
    ((wantChange s p i kind m).port p i).link.order = some { kind, map := m, tick := 0, id := (s.port p i).link.nextId } := by
  unfold wantChange
  rw [if_pos hleader, hnone]
  dsimp only
  rw [orderChange_order kind m 0 hnone, if_pos (tickDiff_zero_pos hlate)]

/-- RETRAIN at the leader of a live link, past the half of the tick range, orders a retrain at tick 0 (R120, R121). -/
theorem portRetrain_ordersTickZero {s t : State} {p : Part} {i : Nat} (hlive : (s.port p i).live = true)
    (hleader : linkLeader s p i = true) (hnone : (s.port p i).link.order = none)
    (hlate : 2 ^ 49 < (tickOf (s.now p) + 9).toNat) (hexec : exec (.portRetrainWrite p i) s = .next t) :
    (t.port p i).link.order = some { kind := 4, map := 0x3F, tick := 0, id := (s.port p i).link.nextId } := by
  unfold exec execPortRetrainWrite at hexec
  obtain ⟨-, rfl⟩ := onPort_next.mp hexec
  rw [if_pos hlive, wantChange_ordersTickZero 4 0x3F hleader hnone hlate]

/-- Refutes O14: a leader passes 0 as the earliest tick of its order, and past tick 2^49 (4.6 years of ST) 0 counts as later than
nine ticks ahead. RETRAIN at port 0 of a rack distributor whose time is at tick 2^49 orders tick 0, not 2^49 + 9. -/
theorem not_lanesChangeAtAnAgreedTick : ¬ Obligations.LanesChangeAtAnAgreedTick := by
  unfold Obligations.LanesChangeAtAnAgreedTick
  rintro ⟨⟨-, -, -, -, hretrain⟩, -⟩
  let s : State := { State.reset with
    dist.sv.role := .rack
    dist.b.t := { held := true, acc := 0x800000000000000000000000 }
    dist.b.ports := [(0, { link := { enable := true, state := .up, map := 0x24, spareHere := true, spareThere := true } })] }
  have hleader : linkLeader s .dist 0 = true := rfl
  have hnow : tickOf (s.now .dist) = 0x2000000000000 := by decide
  obtain ⟨t, hexec, hordered, -⟩ := hretrain .dist 0 s (by decide) rfl rfl
  have hzero := portRetrain_ordersTickZero (s := s) rfl hleader rfl (by rw [hnow]; decide) hexec
  rw [hordered hleader, hnow] at hzero
  have htick : (0x2000000000000 + 9 : Tick) = 0 := congrArg Order.tick (Option.some.inj hzero)
  exact absurd htick (by decide)

end Sys2Proof.Machine

namespace Sys2Proof.Machine

/-! ### Reading a region after a write (R159) -/

@[simp] theorem region_modRegion (s : State) (r : Nat) (f : Region → Region) : (s.modRegion r f).region r = f (s.region r) :=
  tget_tmod_eq ..

theorem region_modRegion_ne (s : State) {r k : Nat} (f : Region → Region) (h : k ≠ r) :
    (s.modRegion r f).region k = s.region k := tget_tmod_ne _ _ _ h

theorem region_eq_of_regions {s t : State} (h : t.tsu.regions = s.tsu.regions) (k : Nat) : t.region k = s.region k := by
  unfold State.region
  rw [h]

theorem modRegion_congr {s : State} {r : Nat} {f g : Region → Region} (h : f (s.region r) = g (s.region r)) :
    s.modRegion r f = s.modRegion r g := by
  unfold State.modRegion tmod
  unfold State.region at h
  rw [h]

/-- A write of a region is the write of what the region then reads. -/
theorem modRegion_eq_const (s : State) (r : Nat) (f : Region → Region) :
    s.modRegion r f = s.modRegion r fun _ => (s.modRegion r f).region r :=
  modRegion_congr (region_modRegion ..).symm

theorem modRegion_only (s : State) (r : Nat) (f : Region → Region) : TsuOnly s (s.modRegion r f) := ⟨rfl, rfl, rfl⟩

theorem CountsOnly.region_eq {s t : State} {p : Part} (h : CountsOnly p s t) (k : Nat) : t.region k = s.region k :=
  region_eq_of_regions (by rw [h.tsu]) k

theorem ReportsOnly.region_eq {s t : State} {p : Part} (h : ReportsOnly p s t) (k : Nat) : t.region k = s.region k :=
  region_eq_of_regions (by rw [h.tsu]) k

theorem CountsOnly.plate_eq {s t : State} {p : Part} (h : CountsOnly p s t) : t.tsu.plate = s.tsu.plate := by rw [h.tsu]

theorem ReportsOnly.mark_eq {s t : State} {p : Part} (h : ReportsOnly p s t) : t.tsu.mark = s.tsu.mark := by rw [h.tsu]

/-! ### What the edges of a region's clock leave (R169 to R187, R206) -/

/-- `t` differs from `s` in the die alone, and in no region but `r`, whose clock, copy and standing as a clock are as they were. -/
structure ClockKept (r : Nat) (s t : State) : Prop where
  part : TsuOnly s t
  others : ∀ k, k ≠ r → t.region k = s.region k
  copy : (t.region r).copy = (s.region r).copy
  period : (t.region r).period = (s.region r).period
  loaded : (t.region r).loaded = (s.region r).loaded
  unsync : (t.region r).unsync = (s.region r).unsync

theorem ClockKept.refl (r : Nat) (s : State) : ClockKept r s s := ⟨⟨rfl, rfl, rfl⟩, fun _ _ => rfl, rfl, rfl, rfl, rfl⟩

theorem ClockKept.trans {r : Nat} {s t u : State} (h : ClockKept r s t) (k : ClockKept r t u) : ClockKept r s u where
  part := partOnly_trans (p := .tsu) h.part k.part
  others i hi := (k.others i hi).trans (h.others i hi)
  copy := k.copy.trans h.copy
  period := k.period.trans h.period
  loaded := k.loaded.trans h.loaded
  unsync := k.unsync.trans h.unsync

theorem ClockKept.usable {r : Nat} {s t : State} (h : ClockKept r s t) : (t.region r).usable = (s.region r).usable := by
  unfold Region.usable
  rw [h.loaded, h.unsync]

theorem ClockKept.foldl {α : Type} {r : Nat} (f : State → α → State) (h : ∀ s a, ClockKept r s (f s a)) :
    ∀ (l : List α) (s : State), ClockKept r s (l.foldl f s)
  | [], s => .refl r s
  | a :: l, s => (h s a).trans (ClockKept.foldl f h l (f s a))

theorem ClockKept.of_regions {r : Nat} {s t : State} (hpart : TsuOnly s t) (h : t.tsu.regions = s.tsu.regions) :
    ClockKept r s t := by
  have hregion := region_eq_of_regions h
  exact ⟨hpart, fun k _ => hregion k, by rw [hregion], by rw [hregion], by rw [hregion], by rw [hregion]⟩

theorem CountsOnly.clock {s t : State} (h : CountsOnly .tsu s t) (r : Nat) : ClockKept r s t :=
  .of_regions h.part (by rw [h.tsu])

theorem modRegion_clock (s : State) (r : Nat) {f : Region → Region} (h : ∀ q, (f q).copy = q.copy ∧ (f q).period = q.period ∧
    (f q).loaded = q.loaded ∧ (f q).unsync = q.unsync) : ClockKept r s (s.modRegion r f) := by
  obtain ⟨hcopy, hperiod, hloaded, hunsync⟩ := h (s.region r)
  refine ⟨modRegion_only .., fun k hk => region_modRegion_ne s f hk, ?_, ?_, ?_, ?_⟩ <;> rwa [region_modRegion]

theorem modPlate_clock (s : State) (r : Nat) (f : Plate → Plate) : ClockKept r s (s.modPlate f) :=
  .of_regions ⟨rfl, rfl, rfl⟩ rfl

/-- A slipped step is noted in the plate, in the recorder and by an interrupt (R187). -/
theorem slip_clock (s : State) (r i port late : Nat) (tag : BitVec 22) (n : Step) : ClockKept r s (slip s i port late tag n) :=
  ((modPlate_clock ..).trans ((fr_counts ..).clock r)).trans ((irq_counts ..).clock r)

theorem launchEdge_clock (s : State) (r : Nat) : ClockKept r s (launchEdge r s) := by
  unfold launchEdge
  extract_lets g due s1
  have h1 : ClockKept r s s1 := modRegion_clock s r fun _ => ⟨rfl, rfl, rfl, rfl⟩
  split
  · exact .refl r s
  · split
    · exact .refl r s
    · split
      · exact h1
      · exact h1.trans ((count_counts ..).clock r)

/-- The oldest word `w` of a port is released and `rest` still waits (R182). -/
def takeWord (r port : Nat) (w : CrossWord) (rest : List CrossWord) (s : State) : State :=
  s.modRegion r fun q => { q with
    cross := tset {} q.cross port { tget {} (s.region r).cross port with waiting := rest, released := some w.word } }

/-- A word released `l` tu late at copy `c` is counted, and slips its step unless it did so at its arrival (R186, R187). -/
def noteLate (r port : Nat) (c : BitVec 80) (w : CrossWord) (l : Nat) (s : State) : State :=
  let s := s.count .tsu .crossLate (4 * r + port) { slice := (dieFlt s).slice, region := some r } 1
  let s := s.modMark fun m => { m with lateRegion := r, latePort := port, lateTag := w.tag, lateTu := l }
  if w.slipped then s else slip s r port l w.tag (stepAt s.tsu.turn (copySt c))

/-- The release of the oldest word of a port, with what its lateness brings (R182, R186, R187). -/
def releaseWord (r port : Nat) (w : CrossWord) (rest : List CrossWord) (s : State) : State :=
  match wordLate (s.region r).copy (tget {} (s.region r).cross port).lcross w with
  | none => takeWord r port w rest s
  | some l => noteLate r port (s.region r).copy w l (takeWord r port w rest s)

theorem releaseGo_nil {r port : Nat} {s : State} (h : (tget {} (s.region r).cross port).waiting = []) (n : Nat) :
    releaseGo r port n s = s := by
  cases n with
  | zero => rfl
  | succ n =>
    unfold releaseGo
    simp [h]

theorem releaseGo_notReady {r port : Nat} {w : CrossWord} {rest : List CrossWord} {s : State}
    (h : (tget {} (s.region r).cross port).waiting = w :: rest)
    (hready : wordReady (s.region r).copy (tget {} (s.region r).cross port).lcross w = false) (n : Nat) :
    releaseGo r port n s = s := by
  cases n with
  | zero => rfl
  | succ n =>
    unfold releaseGo
    simp [h, hready]

theorem releaseGo_ready {r port : Nat} {w : CrossWord} {rest : List CrossWord} {s : State}
    (h : (tget {} (s.region r).cross port).waiting = w :: rest)
    (hready : wordReady (s.region r).copy (tget {} (s.region r).cross port).lcross w = true) (n : Nat) :
    releaseGo r port (n + 1) s = releaseGo r port n (releaseWord r port w rest s) := by
  rw [releaseGo]
  unfold releaseWord
  simp only [h, hready, Bool.not_true, Bool.false_eq_true, if_false]
  cases wordLate (s.region r).copy (tget {} (s.region r).cross port).lcross w <;> rfl

theorem takeWord_clock (r port : Nat) (w : CrossWord) (rest : List CrossWord) (s : State) :
    ClockKept r s (takeWord r port w rest s) := modRegion_clock s r fun _ => ⟨rfl, rfl, rfl, rfl⟩

theorem noteLate_clock (r port : Nat) (c : BitVec 80) (w : CrossWord) (l : Nat) (s : State) :
    ClockKept r s (noteLate r port c w l s) := by
  unfold noteLate
  extract_lets s1 s2
  have h2 : ClockKept r s s2 := ((count_counts ..).clock r).trans (.of_regions ⟨rfl, rfl, rfl⟩ rfl)
  split
  · exact h2
  · exact h2.trans (slip_clock ..)

theorem releaseWord_clock (r port : Nat) (w : CrossWord) (rest : List CrossWord) (s : State) :
    ClockKept r s (releaseWord r port w rest s) := by
  unfold releaseWord
  split
  · exact takeWord_clock ..
  · exact (takeWord_clock ..).trans (noteLate_clock ..)

theorem releaseGo_clock (r port : Nat) : ∀ (n : Nat) (s : State), ClockKept r s (releaseGo r port n s)
  | 0, s => .refl r s
  | n + 1, s => by
    match hwaiting : (tget {} (s.region r).cross port).waiting with
    | [] =>
      rw [releaseGo_nil hwaiting]
      exact .refl r s
    | w :: rest =>
      cases hready : wordReady (s.region r).copy (tget {} (s.region r).cross port).lcross w with
      | false =>
        rw [releaseGo_notReady hwaiting hready]
        exact .refl r s
      | true =>
        rw [releaseGo_ready hwaiting hready]
        exact (releaseWord_clock ..).trans (releaseGo_clock r port n _)

theorem releaseEdge_clock (s : State) (r : Nat) : ClockKept r s (releaseEdge r s) := by
  unfold releaseEdge
  extract_lets s1
  have h1 : ClockKept r s s1 := modRegion_clock s r fun _ => ⟨rfl, rfl, rfl, rfl⟩
  split
  · exact h1.trans (.foldl _ (fun s port => releaseGo_clock r port 16 s) _ _)
  · exact h1

theorem regionEdge_of_stopped {s : State} {r : Nat} (p : W32) (h : (s.region r).clockOn = false) : regionEdge r s p = s := by
  unfold regionEdge
  simp [h]

/-- `s` with region `r`'s copy advanced by an edge, and a deep stretch counted (R169, R170). -/
def advanced (r : Nat) (s : State) (p : W32) : State :=
  let s' := s.modRegion r (copyEdge · p)
  if decide (periodK (s.region r).setting 8 < p.toNat) then
    s'.modBase .tsu fun b => b.setCtr .stretchDeep r (b.ctr .stretchDeep r + 1) else s'

/-- An edge of a running clock: the copy advances, launches and releases follow, and the next stretch is planned. -/
theorem regionEdge_of_running {s : State} {r : Nat} (p : W32) (h : (s.region r).clockOn = true) :
    regionEdge r s p = (releaseEdge r (launchEdge r (advanced r s p))).modRegion r fun q => { q with
      planK := match armedGap q with
        | some g => planStretch g (periodK q.setting 0 : Int)
        | none => 0 } := by
  unfold regionEdge
  rw [h, if_neg (by simp)]
  rfl

theorem region_advanced (r : Nat) (s : State) (p : W32) (k : Nat) :
    (advanced r s p).region k = (s.modRegion r (copyEdge · p)).region k := by
  unfold advanced
  split <;> rfl

theorem advanced_only (r : Nat) (s : State) (p : W32) : TsuOnly s (advanced r s p) := by
  unfold advanced
  split <;> exact ⟨rfl, rfl, rfl⟩

/-- What follows the advance of the copy at an edge leaves the clock. -/
theorem regionEdge_clock {s : State} {r : Nat} (p : W32) (h : (s.region r).clockOn = true) :
    ClockKept r (advanced r s p) (regionEdge r s p) := by
  rw [regionEdge_of_running p h]
  exact ((launchEdge_clock ..).trans (releaseEdge_clock ..)).trans (modRegion_clock _ r fun _ => ⟨rfl, rfl, rfl, rfl⟩)

theorem regionEdge_others (r : Nat) (s : State) (p : W32) {k : Nat} (hk : k ≠ r) : (regionEdge r s p).region k = s.region k := by
  cases h : (s.region r).clockOn with
  | false => rw [regionEdge_of_stopped p h]
  | true => rw [(regionEdge_clock p h).others k hk, region_advanced, region_modRegion_ne s _ hk]

theorem regionEdge_only (r : Nat) (s : State) (p : W32) : TsuOnly s (regionEdge r s p) := by
  cases h : (s.region r).clockOn with
  | false => rw [regionEdge_of_stopped p h]; exact ⟨rfl, rfl, rfl⟩
  | true => exact partOnly_trans (p := .tsu) (advanced_only r s p) (regionEdge_clock p h).part

/-- The edges of a region change the die alone. -/
theorem regionEdges_only (r : Nat) (es : List W32) (s : State) : TsuOnly s (regionEdges r es s) :=
  foldl_partOnly (p := .tsu) _ (fun s p => regionEdge_only r s p) es s

end Sys2Proof.Machine

namespace Sys2Proof.Machine

/-! ### The spread of an error (R173) -/

/-- The adjustment of cycle `j` of a spread: the quotient, and one unit more of the remainder's sign while units remain. -/
theorem spreadAdj_of_cycle (r : Region) (v : Int) {j : Nat} (h : j < 1024) :
    spreadAdj { spread r v with spreadLeft := 1024 - j } =
      Int.tdiv v 1024 + (if j < (Int.tmod v 1024).natAbs then (Int.tmod v 1024).sign else 0) := by
  have hrem : v - 1024 * Int.tdiv v 1024 = Int.tmod v 1024 := by have := Int.tmod_add_mul_tdiv v 1024; omega
  have hleft : 1024 - (1024 - j) = j := by omega
  unfold spreadAdj spread
  dsimp only
  rw [if_neg (by omega), hrem, hleft]
  split
  · rfl
  · rw [Int.add_zero]

/-- A sum over the first `n` cycles of a quotient, with one unit more in the first `k` of them. -/
theorem foldl_add_units (q e : Int) (k n : Nat) :
    ((List.range n).map fun j => q + (if j < k then e else 0)).foldl (· + ·) 0 = n * q + (min n k : Nat) * e := by
  induction n with
  | zero => simp
  | succ n ih =>
    rw [List.range_succ, List.map_append, List.foldl_append, ih]
    simp only [List.map_cons, List.map_nil, List.foldl_cons, List.foldl_nil]
    by_cases h : n < k
    · rw [if_pos h, Nat.min_eq_left (Nat.le_of_lt h), Nat.min_eq_left h]
      push_cast
      ring
    · rw [if_neg h, Nat.min_eq_right (by omega), Nat.min_eq_right (by omega)]
      push_cast
      ring

theorem natAbs_tmod_lt (v : Int) : (Int.tmod v 1024).natAbs < 1024 := by
  rw [Int.natAbs_tmod]
  exact Nat.mod_lt _ (by decide)

/-- The adjustments of a spread sum to the value spread (R173). -/
theorem spreadAdj_sum (r : Region) (v : Int) :
    ((List.range 1024).map fun j => spreadAdj { spread r v with spreadLeft := 1024 - j }).foldl (· + ·) 0 = v := by
  rw [List.map_congr_left fun j hj => spreadAdj_of_cycle r v (List.mem_range.mp hj), foldl_add_units,
    Nat.min_eq_right (Nat.le_of_lt (natAbs_tmod_lt v)), Int.mul_comm ((Int.natAbs _ : Nat) : Int), Int.sign_mul_natAbs]
  exact Int.mul_tdiv_add_tmod v 1024

theorem spreadAdj_near (r : Region) (v : Int) {j : Nat} (h : j < 1024) :
    (spreadAdj { spread r v with spreadLeft := 1024 - j } - Int.tdiv v 1024).natAbs ≤ 1 := by
  rw [spreadAdj_of_cycle r v h]
  have hsign : (Int.tmod v 1024).sign.natAbs ≤ 1 := by
    rw [Int.natAbs_sign]
    split <;> omega
  split <;> omega

/-- The parts of a spread make up the value. -/
theorem spread_total (r : Region) (v : Int) : 1024 * (spread r v).spreadQ + (spread r v).spreadRem = v := by
  unfold spread
  dsimp only
  omega

/-! ### A missed mark (R164, R176) -/

/-- A region that misses a mark begins a new mark interval without it. -/
def markMissed (q : Region) : Region := markRoll { q with missRun := q.missRun + 1, okRun := 0 }

/-- A missed mark noted at its region and counted. -/
def missCounted (r : Nat) (s : State) : State :=
  (s.modRegion r markMissed).count .tsu .markMiss r { slice := (dieFlt s).slice, region := some r } 1

theorem region_missCounted (r : Nat) (s : State) : (missCounted r s).region r = markMissed (s.region r) := by
  unfold missCounted
  rw [(count_counts ..).region_eq, region_modRegion]

theorem region_missCounted_ne (s : State) {r k : Nat} (hk : k ≠ r) : (missCounted r s).region k = s.region k := by
  unfold missCounted
  rw [(count_counts ..).region_eq, region_modRegion_ne s _ hk]

theorem missCounted_ctr (r : Nat) (s : State) :
    ((missCounted r s).base .tsu).ctr .markMiss r = (s.base .tsu).ctr .markMiss r + 1 := by
  unfold missCounted
  exact count_ctr ..

theorem missCounted_node (r : Nat) (s : State) : (missCounted r s).node .tsu = s.node .tsu := by
  unfold missCounted
  exact (count_counts ..).choice.node_eq

theorem missCounted_only (r : Nat) (s : State) : TsuOnly s (missCounted r s) := by
  unfold missCounted
  exact partOnly_trans (p := .tsu) (modRegion_only s r markMissed) (count_counts ..).part

/-- The fourth missed mark in a row leaves the region unsynchronised, with a suspect event against the die. -/
theorem missMark_eq (r : Nat) (s : State) : missMark r s =
    if (s.region r).missRun = 3 then
      suspect ((missCounted r s).modRegion r fun q => { q with unsync := true }) .tsu ((missCounted r s).node .tsu) causeRegion
        (regionCtx (missCounted r s) r 0)
    else missCounted r s := by
  have hrun : ((missCounted r s).region r).missRun = (s.region r).missRun + 1 := by rw [region_missCounted]; rfl
  have hfour : ((missCounted r s).region r).missRun = 4 ↔ (s.region r).missRun = 3 := by omega
  unfold missMark
  exact if_congr hfour rfl rfl

theorem missMark_only (r : Nat) (s : State) : TsuOnly s (missMark r s) := by
  rw [missMark_eq]
  split
  · exact partOnly_trans (p := .tsu) (missCounted_only r s) (partOnly_trans (modRegion_only ..) (suspect_reports ..).part)
  · exact missCounted_only r s

theorem region_missMark_ne (s : State) {r k : Nat} (hk : k ≠ r) : (missMark r s).region k = s.region k := by
  rw [missMark_eq]
  split
  · rw [(suspect_reports ..).region_eq, region_modRegion_ne _ _ hk, region_missCounted_ne s hk]
  · exact region_missCounted_ne s hk

theorem region_missMark (r : Nat) (s : State) : (missMark r s).region r =
    { markMissed (s.region r) with unsync := decide ((s.region r).missRun = 3) || (s.region r).unsync } := by
  rw [missMark_eq]
  split
  · rename_i h
    rw [(suspect_reports ..).region_eq, region_modRegion, region_missCounted, h]
    rfl
  · rename_i h
    rw [region_missCounted, decide_eq_false h]
    rfl

theorem missMark_ctr {r : Nat} (hr : r < 144) (s : State) :
    ((missMark r s).base .tsu).ctr .markMiss r = (s.base .tsu).ctr .markMiss r + 1 := by
  rw [missMark_eq]
  split
  · have hkept := (raise_ctrs ((missCounted r s).modRegion r fun q => { q with unsync := true }) .tsu ((missCounted r s).node .tsu)
      false false causeRegion (regionCtx (missCounted r s) r 0)).ctr .markMiss r (by simp [Ctr.ofSending]) (by omega)
    exact hkept.trans (missCounted_ctr r s)
  · exact missCounted_ctr r s

theorem missMark_reportWaits {r : Nat} {s : State} (h : (s.region r).missRun = 3) {i : Nat}
    (hi : i ∈ reportPorts s .tsu (s.node .tsu)) : ReportWaits (missMark r s) .tsu i (s.node .tsu) false causeRegion := by
  rw [missMark_eq, if_pos h, missCounted_node]
  exact raise_reportWaits hi

/-- A missed mark of a running region, or a frame that fails its CHECK, once the edges before it have passed (R164, R176). -/
theorem exec_of_missed_mark {r phi : Nat} {f : W64} {es : List W32} {c : Instr} {s : State} (hr : r < 144)
    (hclock : (s.region r).clockOn = true) (hc : c = .markMiss r es ∨ (c = .markReceive r f phi es ∧ markGood f = false)) :
    exec c s = .next (missMark r (regionEdges r es s)) := by
  rcases hc with rfl | ⟨rfl, hbad⟩
  · unfold exec execMarkMiss onRegion
    simp [hr, hclock]
  · unfold exec execMarkReceive onRegion
    simp [hr, hclock, hbad]

/-! ### An accepted mark (R173 to R175, R177) -/

/-- A region that takes an error: it is spread, and counts among the marks in a row within REGION_ERR_LIMIT if `ok` (R173, R175). -/
def errTaken (err : Int) (ok : Bool) (q : Region) : Region :=
  let run := if ok then q.okRun + 1 else 0
  markRoll { spread q (clampI (-(64 * 2 ^ 16)) (64 * 2 ^ 16) err) with
    missRun := 0, okRun := run, err := errShow err, unsync := q.unsync && decide (run < 2) }

theorem errTaken_total (err : Int) (ok : Bool) (q : Region) :
    1024 * (errTaken err ok q).spreadQ + (errTaken err ok q).spreadRem = clampI (-(64 * 65536)) (64 * 65536) err :=
  spread_total q _

theorem markErr_within {r : Nat} {err : Int} {lim : Nat} (s : State) (h : err.natAbs ≤ lim * 65536) :
    markErr r err lim s = s.modRegion r (errTaken err true) := by
  unfold markErr
  simp only [Nat.reducePow, h, decide_true, if_true]
  rfl

theorem markErr_beyond {r : Nat} {err : Int} {lim : Nat} (s : State) (h : lim * 65536 < err.natAbs) (hnear : err.natAbs ≤ 64 * 65536) :
    ∃ body x, markErr r err lim s =
      suspect ((s.modRegion r (errTaken err false)).fr .tsu 2 body false) .tsu (s.node .tsu) causeRegion x := by
  unfold markErr
  simp only [Nat.reducePow, Nat.not_le.mpr h, decide_false, Bool.false_eq_true, if_false]
  rw [if_pos hnear]
  exact ⟨_, _, rfl⟩

theorem markErr_far {r : Nat} {err : Int} {lim : Nat} (s : State) (h : lim * 65536 < err.natAbs) (hfar : 64 * 65536 < err.natAbs) :
    ∃ x, markErr r err lim s = hardEvent ((s.modRegion r (errTaken err false)).modRegion r fun q => { q with unsync := true })
      .tsu (s.node .tsu) causeRegion x := by
  unfold markErr
  simp only [Nat.reducePow, Nat.not_le.mpr h, decide_false, Bool.false_eq_true, if_false]
  rw [if_neg (Nat.not_le.mpr hfar)]
  exact ⟨_, rfl⟩

/-- What an error brings to its region: it is spread, and a far one leaves it unsynchronised too (R173 to R175). -/
theorem region_markErr (r : Nat) (err : Int) (lim : Nat) (s : State) : (markErr r err lim s).region r =
    let q := errTaken err (decide (err.natAbs ≤ lim * 65536)) (s.region r)
    { q with unsync := q.unsync || (decide (lim * 65536 < err.natAbs) && decide (64 * 65536 < err.natAbs)) } := by
  by_cases hlim : err.natAbs ≤ lim * 65536
  · rw [markErr_within s hlim, region_modRegion]
    simp [hlim, Nat.not_lt.mpr hlim]
  · have hlt := Nat.not_le.mp hlim
    by_cases hnear : err.natAbs ≤ 64 * 65536
    · obtain ⟨body, x, h⟩ := markErr_beyond (r := r) s hlt hnear
      rw [h, (suspect_reports ..).region_eq, (fr_counts ..).region_eq, region_modRegion]
      simp [hlim, Nat.not_lt.mpr hnear]
    · have hfar := Nat.not_le.mp hnear
      obtain ⟨x, h⟩ := markErr_far (r := r) s hlt hfar
      rw [h, (hardEvent_reports ..).region_eq, region_modRegion, region_modRegion]
      simp [hlim, hlt, hfar]

theorem markErr_only (r : Nat) (err : Int) (lim : Nat) (s : State) : TsuOnly s (markErr r err lim s) := by
  rcases Nat.lt_or_ge (lim * 65536) err.natAbs with hlt | hle
  · rcases Nat.lt_or_ge (64 * 65536) err.natAbs with hfar | hnear
    · obtain ⟨x, h⟩ := markErr_far (r := r) s hlt hfar
      rw [h]
      exact partOnly_trans (p := .tsu) (modRegion_only ..) (partOnly_trans (modRegion_only ..) (hardEvent_reports ..).part)
    · obtain ⟨body, x, h⟩ := markErr_beyond (r := r) s hlt hnear
      rw [h]
      exact partOnly_trans (p := .tsu) (modRegion_only ..) (partOnly_trans (fr_counts ..).part (suspect_reports ..).part)
  · rw [markErr_within s hle]
    exact modRegion_only ..

theorem markErr_reports_suspect {r : Nat} {err : Int} {lim : Nat} {s : State} (h : lim * 65536 < err.natAbs)
    (hnear : err.natAbs ≤ 64 * 65536) {i : Nat} (hi : i ∈ reportPorts s .tsu (s.node .tsu)) :
    ReportWaits (markErr r err lim s) .tsu i (s.node .tsu) false causeRegion := by
  obtain ⟨body, x, heq⟩ := markErr_beyond (r := r) s h hnear
  rw [heq]
  exact raise_reportWaits hi

theorem markErr_reports_hard {r : Nat} {err : Int} {lim : Nat} {s : State} (h : lim * 65536 < err.natAbs)
    (hfar : 64 * 65536 < err.natAbs) {i : Nat} (hi : i ∈ reportPorts s .tsu (s.node .tsu)) :
    ReportWaits (markErr r err lim s) .tsu i (s.node .tsu) true causeRegion := by
  obtain ⟨x, heq⟩ := markErr_far (r := r) s h hfar
  rw [heq]
  exact raise_reportWaits hi

/-- An error of 64 tu at most is spread whole, a greater one by 64 tu (R174, R175). -/
theorem clampI_eq_self {b x : Int} (h : x.natAbs ≤ b.natAbs) (hb : 0 ≤ b) : clampI (-b) b x = x := by
  unfold clampI
  rw [if_neg (by omega), if_neg (by omega)]

theorem clampI_eq_sign {b x : Int} (h : b.natAbs < x.natAbs) (hb : 0 ≤ b) : clampI (-b) b x = b * x.sign := by
  unfold clampI
  rcases Int.lt_trichotomy x 0 with hx | hx | hx
  · rw [if_pos (by omega), Int.sign_eq_neg_one_of_neg hx]
    omega
  · omega
  · rw [if_neg (by omega), if_pos (by omega), Int.sign_eq_one_of_pos hx]
    omega

/-- A mark taken as an error leaves the copy and starts a spread (R173, R175). -/
theorem markErr_spreads {r : Nat} (err : Int) (lim : Nat) {s : State} (hloaded : (s.region r).loaded = true) :
    let t := markErr r err lim s
    (t.region r).copy = (s.region r).copy ∧ (t.region r).loaded = true ∧ (t.region r).spreadLeft = 1024 ∧
      (t.region r).err = errShow err := by
  intro t
  have h := region_markErr r err lim s
  exact ⟨by rw [h]; rfl, by rw [h]; exact hloaded, by rw [h]; rfl, by rw [h]; rfl⟩

theorem markErr_within_effect {r : Nat} {err : Int} {lim : Nat} {s : State} (hle : err.natAbs ≤ lim * 65536) :
    let t := markErr r err lim s
    (err.natAbs ≤ 64 * 65536 → 1024 * (t.region r).spreadQ + (t.region r).spreadRem = err) ∧
      (t.region r).okRun = (s.region r).okRun + 1 ∧
      (t.region r).unsync = ((s.region r).unsync && decide ((s.region r).okRun = 0)) ∧ t = s.modRegion r fun _ => t.region r := by
  rw [markErr_within s hle]
  refine ⟨fun h64 => ?_, ?_, ?_, modRegion_eq_const ..⟩
  all_goals rw [region_modRegion]
  · exact (errTaken_total err true (s.region r)).trans (clampI_eq_self h64 (by decide))
  · rfl
  · have hfirst : (s.region r).okRun + 1 < 2 ↔ (s.region r).okRun = 0 := by omega
    exact congrArg ((s.region r).unsync && ·) (decide_eq_decide.mpr hfirst)

theorem markErr_beyond_effect {r : Nat} {err : Int} {lim : Nat} {s : State} (h : lim * 65536 < err.natAbs)
    (hnear : err.natAbs ≤ 64 * 65536) :
    let t := markErr r err lim s
    1024 * (t.region r).spreadQ + (t.region r).spreadRem = err ∧ (t.region r).unsync = (s.region r).unsync ∧
      ∀ i ∈ reportPorts s .tsu (s.node .tsu), ReportWaits t .tsu i (s.node .tsu) false causeRegion := by
  refine ⟨?_, ?_, fun i hi => markErr_reports_suspect h hnear hi⟩
  all_goals rw [region_markErr]
  · exact (errTaken_total err false (s.region r)).trans (clampI_eq_self hnear (by decide))
  · simp [errTaken, markRoll, Nat.not_le.mpr h, Nat.not_lt.mpr hnear]

theorem markErr_far_effect {r : Nat} {err : Int} {lim : Nat} {s : State} (h : lim * 65536 < err.natAbs)
    (hfar : 64 * 65536 < err.natAbs) :
    let t := markErr r err lim s
    1024 * (t.region r).spreadQ + (t.region r).spreadRem = 64 * 65536 * err.sign ∧ (t.region r).unsync = true ∧
      ∀ i ∈ reportPorts s .tsu (s.node .tsu), ReportWaits t .tsu i (s.node .tsu) true causeRegion := by
  refine ⟨?_, ?_, fun i hi => markErr_reports_hard h hfar hi⟩
  all_goals rw [region_markErr]
  · exact (errTaken_total err false (s.region r)).trans (clampI_eq_sign hfar (by decide))
  · simp [h, hfar]

/-- The instant of a mark on the copy's grid (R173). -/
def markInstant (u : State) (r : Nat) (f : W64) (phi : Nat) : BitVec 80 :=
  markX f (u.region r).lpath phi (u.region r).period.toNat

theorem markAccept_load {u : State} {r phi : Nat} {f : W64} (hphi : phi ≤ 64) (h : markKind f = 2 ∨ (u.region r).loaded = false) :
    markAccept r f phi u = u.modRegion r
      (loadCopy · (markInstant u r f phi) (markInstant u r f phi - (u.region r).copy).toInt) := by
  unfold markAccept markInstant
  rw [Nat.min_eq_left hphi]
  exact if_pos (by simpa using h)

theorem markAccept_err {u : State} {r phi : Nat} {f : W64} (hphi : phi ≤ 64) (hkind : markKind f = 1)
    (hloaded : (u.region r).loaded = true) :
    markAccept r f phi u = markErr r (markInstant u r f phi - (u.region r).copy).toInt (u.cfg .tsu 0x140 16) u := by
  unfold markAccept markInstant
  rw [Nat.min_eq_left hphi]
  exact if_neg (by simp [hkind, hloaded])

theorem markAccept_only {u : State} {r phi : Nat} {f : W64} : TsuOnly u (markAccept r f phi u) := by
  unfold markAccept
  extract_lets q x err
  split
  · exact modRegion_only ..
  · exact markErr_only ..

/-- A good MARK or LOAD frame that fits the copy is accepted, after the edges before it (R164, R173). -/
theorem exec_of_accepted_mark {r phi : Nat} {f : W64} {es : List W32} {s : State} (hr : r < 144)
    (hclock : (s.region r).clockOn = true) (hgood : markGood f = true) (hkind : markKind f ≠ 3)
    (hst : ((regionEdges r es s).region r).loaded = true → markSt f = nearestMark ((regionEdges r es s).region r).copy) :
    exec (.markReceive r f phi es) s = .next (markAccept r f phi (regionEdges r es s)) := by
  have hfits : (((regionEdges r es s).region r).loaded && markSt f != nearestMark ((regionEdges r es s).region r).copy) = false := by
    cases h : ((regionEdges r es s).region r).loaded with
    | false => rfl
    | true => simp [hst h]
  unfold exec execMarkReceive onRegion
  simp [hr, hclock, hgood, hkind, hfits]

theorem exec_of_strange_mark {r phi : Nat} {f : W64} {es : List W32} {s : State} (hr : r < 144)
    (hclock : (s.region r).clockOn = true) (hgood : markGood f = true) (hkind : markKind f ≠ 3)
    (hloaded : ((regionEdges r es s).region r).loaded = true)
    (hst : markSt f ≠ nearestMark ((regionEdges r es s).region r).copy) :
    exec (.markReceive r f phi es) s = .next (hardEvent (regionEdges r es s) .tsu ((regionEdges r es s).node .tsu) causeRegion
      (regionCtx (regionEdges r es s) r 0)) := by
  unfold exec execMarkReceive onRegion
  simp [hr, hclock, hgood, hkind, hloaded, hst]

/-- Settles O17: the sum of a spread is `spreadAdj_sum`; a received mark is accepted, strange or missed, each by its own lemma. -/
theorem marksCorrectTheirCopy : Obligations.MarksCorrectTheirCopy := by
  unfold Obligations.MarksCorrectTheirCopy
  refine ⟨fun r v => ⟨spreadAdj_sum r v, fun j hj => spreadAdj_near r v hj, rfl⟩, ⟨?accepted, ?strange, ?cal, ?stopped⟩,
    ?missed, ?idle⟩
  case accepted =>
    rintro r phi f es s u hr hclock rfl hgood hkind hst hphi
    refine ⟨_, exec_of_accepted_mark hr hclock hgood (by omega) hst, ?_⟩
    refine ⟨fun hload => ?load, fun h1 hloaded => ?spread, fun h1 hloaded hle => ?within, fun h1 hloaded hlt hle => ?beyond,
      fun h1 hloaded hlt hfar => ?far, partOnly_trans (p := .tsu) (regionEdges_only ..) markAccept_only⟩
    case load =>
      rw [markAccept_load hphi hload, region_modRegion]
      exact ⟨rfl, rfl, rfl, rfl, modRegion_congr rfl⟩
    case spread =>
      rw [markAccept_err hphi h1 hloaded]
      exact markErr_spreads _ _ hloaded
    case within =>
      rw [markAccept_err hphi h1 hloaded]
      exact markErr_within_effect hle
    case beyond =>
      rw [markAccept_err hphi h1 hloaded]
      exact markErr_beyond_effect hlt hle
    case far =>
      rw [markAccept_err hphi h1 hloaded]
      exact markErr_far_effect hlt hfar
  case strange =>
    rintro r phi f es s u hr hclock rfl hgood hkind hloaded hst
    refine ⟨_, exec_of_strange_mark hr hclock hgood hkind hloaded hst, fun k => (hardEvent_reports ..).region_eq k,
      fun i hi => raise_reportWaits hi, partOnly_trans (p := .tsu) (regionEdges_only ..) (hardEvent_reports ..).part⟩
  case cal =>
    intro r phi f es s hr hgood hkind hclock
    unfold exec execMarkReceive onRegion
    simp [hr, hclock, hgood, hkind]
  case stopped =>
    intro r phi f es s hr hclock
    unfold exec execMarkReceive onRegion
    simp [hr, hclock]
  case missed =>
    rintro r phi f es c s u hr hclock rfl hc
    refine ⟨_, exec_of_missed_mark hr hclock hc, ?_, ?_, missMark_ctr hr _, fun h => ?_, fun h => ⟨?_, fun i hi =>
      missMark_reportWaits h hi⟩, fun k hk => region_missMark_ne _ hk,
      partOnly_trans (p := .tsu) (regionEdges_only ..) (missMark_only ..)⟩
    all_goals rw [region_missMark]
    · rfl
    · rfl
    · simp [h]
    · simp [h]
  case idle =>
    intro r es s hr hclock
    unfold exec execMarkMiss onRegion
    simp [hr, hclock]

end Sys2Proof.Machine

namespace Sys2Proof.Machine

/-! ### The fields of a mark frame (R163, R164) -/

theorem crc5Go_lt : ∀ (n v c : Nat), c < 32 → crc5Go n v c < 32
  | 0, _, _, h => h
  | n + 1, v, c, _ => by
    unfold crc5Go
    have hshift : c * 2 % 32 < 2 ^ 5 := Nat.mod_lt _ (by decide)
    refine crc5Go_lt n v _ ?_
    split
    · exact Nat.xor_lt_two_pow hshift (by decide)
    · exact hshift

/-- A mark frame as a number: START, KIND with the body, CHECK. -/
theorem toNat_markFrame {kind body : Nat} (hkind : kind ≤ 3) (hbody : body < 2 ^ 56) :
    ∃ c, c < 32 ∧ c = crc5 58 (kind * 2 ^ 56 + body) ∧
      (markFrame kind body).toNat = 2 ^ 63 + (kind * 2 ^ 56 + body) * 32 + c := by
  have hcrc : crc5 58 (kind * 2 ^ 56 + body) < 32 := crc5Go_lt _ _ _ (by decide)
  refine ⟨_, hcrc, rfl, ?_⟩
  unfold markFrame
  dsimp only
  rw [BitVec.toNat_ofNat]
  exact Nat.mod_eq_of_lt (by omega)

theorem bits_eq_div_mod (x hi lo : Nat) : bits x hi lo = x / 2 ^ lo % 2 ^ (hi + 1 - lo) := by
  unfold bits
  rw [Nat.shiftRight_eq_div_pow]

section
variable {kind body : Nat} (hkind : kind ≤ 3) (hbody : body < 2 ^ 56)
include hkind hbody

theorem markKind_markFrame : markKind (markFrame kind body) = kind := by
  obtain ⟨c, hc, -, hframe⟩ := toNat_markFrame hkind hbody
  unfold markKind
  rw [hframe, bits_eq_div_mod]
  omega

/-- The bits of a mark frame above its CHECK and its lowest eight. -/
theorem bits_markFrame : bits (markFrame kind body).toNat 12 5 = body % 2 ^ 8 ∧
    bits (markFrame kind body).toNat 60 13 = body / 2 ^ 8 ∧ bits (markFrame kind body).toNat 60 53 = body / 2 ^ 48 := by
  obtain ⟨c, hc, -, hframe⟩ := toNat_markFrame hkind hbody
  rw [hframe]
  simp only [bits_eq_div_mod]
  omega

theorem markGood_markFrame (hpos : 0 < kind) : markGood (markFrame kind body) = true := by
  obtain ⟨c, hc, hcrc, hframe⟩ := toNat_markFrame hkind hbody
  have hvalue : bits (2 ^ 63 + (kind * 2 ^ 56 + body) * 32 + c) 62 5 = kind * 2 ^ 56 + body := by
    rw [bits_eq_div_mod]
    omega
  have hcheck : bits (2 ^ 63 + (kind * 2 ^ 56 + body) * 32 + c) 4 0 = c := by
    rw [bits_eq_div_mod]
    omega
  have hstart : tbit (2 ^ 63 + (kind * 2 ^ 56 + body) * 32 + c) 63 = true := by
    unfold tbit
    rw [Nat.shiftRight_eq_div_pow]
    exact decide_eq_true (by omega)
  have hkind' : bits (markFrame kind body).toNat 62 61 ≠ 0 := by
    have := markKind_markFrame hkind hbody
    unfold markKind at this
    omega
  unfold markGood
  dsimp only
  rw [decide_eq_true hkind', hframe, hstart, hvalue, hcheck, ← hcrc, decide_eq_true rfl]
  rfl

end

/-! ### Counting CLAMP (R12) -/

/-- CLAMP is in no SLICE_ACCT index, so counting it changes what the die counts and nothing else of the die. -/
theorem clamped_tsu (s : State) (b : Bool) : s.clamped .tsu b = { s with tsu.b := (s.clamped .tsu b).tsu.b } := by
  cases b with
  | false => rfl
  | true => rfl

theorem clamped_ctr (s : State) (p : Part) (b : Bool) :
    ((s.clamped p b).base p).ctr .clamp 0 = (s.base p).ctr .clamp 0 + (if b = true then 1 else 0) := by
  unfold State.clamped
  split
  · exact count_ctr ..
  · rfl

/-! ### The mark path is calibrated (R165 to R168) -/

/-- A calibration that is not the die's first in BLANK. -/
theorem exec_of_no_calibration {r turn : Nat} {rt : Option Nat} {s : State} (hr : r < 144)
    (h : s.tsu.die.state ≠ .blank ∨ s.tsu.mark.calDone = true ∨ s.tsu.b.t.held = true) :
    exec (.markPathCal r rt) s = .next s ∧ exec (.markCalComplete turn) s = .next s := by
  have hlate : (s.tsu.die.state != .blank || s.tsu.mark.calDone || s.tsu.b.t.held) = true := by
    rw [Bool.or_assoc, Bool.or_eq_true, Bool.or_eq_true, bne_iff_ne]
    exact h
  unfold exec execMarkPathCal execMarkCalComplete onRegion
  simp only [hlate, if_pos hr, if_true, and_self]

/-- Region `q` as the calibration leaves it when region `r` of the die is `q` and the paths of `bad` are faulted (R165, R167). -/
def pathTaken (turn : Nat) (bad : List Nat) (r : Nat) (q : Region) : Region := { q with
  lpath := if pathBad turn q then q.lpath else BitVec.ofNat 18 (lPath ((q.rt).getD 0) turn)
  unsync := q.unsync || bad.any (fun f => markThrough f r) }

theorem foldl_modRegion_eq (f : Nat → Region → Region) : ∀ (l : List Nat) (s : State),
    l.foldl (fun s r => s.modRegion r (f r)) s =
      { s with tsu.regions := (l.foldl (fun s r => s.modRegion r (f r)) s).tsu.regions }
  | [], _ => rfl
  | r :: l, s => foldl_modRegion_eq f l (s.modRegion r (f r))

theorem region_foldl_modRegion_of_notMem (f : Nat → Region → Region) {k : Nat} {l : List Nat} (s : State) (h : k ∉ l) :
    (l.foldl (fun s r => s.modRegion r (f r)) s).region k = s.region k := by
  induction l generalizing s with
  | nil => rfl
  | cons r l ih =>
    simp only [List.mem_cons, not_or] at h
    obtain ⟨hr, hl⟩ := h
    rw [List.foldl_cons, ih _ hl, region_modRegion_ne s _ hr]

/-- A pass over regions, each once, writes each of them. -/
theorem region_foldl_modRegion_of_mem (f : Nat → Region → Region) {k : Nat} {l : List Nat} (s : State) (hnodup : l.Nodup)
    (h : k ∈ l) : (l.foldl (fun s r => s.modRegion r (f r)) s).region k = f k (s.region k) := by
  induction l generalizing s with
  | nil => exact absurd h List.not_mem_nil
  | cons r l ih =>
    obtain ⟨hr, hl⟩ := List.nodup_cons.mp hnodup
    rw [List.foldl_cons]
    rcases List.mem_cons.mp h with rfl | hmem
    · rw [region_foldl_modRegion_of_notMem f _ hr, region_modRegion]
    · have hne : k ≠ r := fun e => hr (e ▸ hmem)
      rw [ih _ hl hmem, region_modRegion_ne s _ hne]

/-- The regions whose mark path is faulted, lowest first (R167). -/
def badPaths (turn : Nat) (s : State) : List Nat := (List.range 144).filter fun r => pathBad turn (s.region r)

/-- Every region with its L_path written and its standing behind the faulted paths (R165, R167). -/
def pathsTaken (turn : Nat) (s : State) : State :=
  (List.range 144).foldl (fun s' r => s'.modRegion r (pathTaken turn (badPaths turn s) r)) s

theorem pathsTaken_eq (turn : Nat) (s : State) :
    pathsTaken turn s = { s with tsu.regions := (pathsTaken turn s).tsu.regions } := by
  unfold pathsTaken
  exact foldl_modRegion_eq ..

theorem region_pathsTaken (turn : Nat) (s : State) {k : Nat} (hk : k < 144) :
    (pathsTaken turn s).region k = pathTaken turn (badPaths turn s) k (s.region k) := by
  unfold pathsTaken
  rw [region_foldl_modRegion_of_mem _ s List.nodup_range (List.mem_range.mpr hk)]

/-- The calibration noted in the mark path's registers, before a fault is told (R165 to R167). -/
def calibrated (turn : Nat) (s : State) : State :=
  (pathsTaken turn s).modMark fun m => { m with
    calDone := true, tTurn := turn, tjCal := (pathsTaken turn s).tsu.b.tj, pathFault := !(badPaths turn s).isEmpty
    faultRegion := ((badPaths turn s).head?).getD 255 }

theorem region_calibrated (turn : Nat) (s : State) {k : Nat} (hk : k < 144) :
    (calibrated turn s).region k = pathTaken turn (badPaths turn s) k (s.region k) := by
  unfold calibrated
  rw [region_eq_of_regions (State.modMark_regions ..), region_pathsTaken turn s hk]

theorem calibrated_eq (turn : Nat) (s : State) : calibrated turn s = { s with tsu := { s.tsu with
    regions := (calibrated turn s).tsu.regions, mark := (calibrated turn s).tsu.mark } } := by
  have h := pathsTaken_eq turn s
  unfold calibrated
  generalize pathsTaken turn s = t at h ⊢
  rw [h]
  rfl

theorem calibrated_node (turn : Nat) (s : State) : (calibrated turn s).node .tsu = s.node .tsu := by
  have h := calibrated_eq turn s
  generalize calibrated turn s = t at h ⊢
  rw [h]
  rfl

theorem calibrated_only (turn : Nat) (s : State) : TsuOnly s (calibrated turn s) := by
  have h := calibrated_eq turn s
  generalize calibrated turn s = t at h ⊢
  rw [h]
  exact ⟨rfl, rfl, rfl⟩

theorem exec_markCalComplete {turn : Nat} {s : State} (hblank : s.tsu.die.state = .blank) (hfirst : s.tsu.mark.calDone = false)
    (hunset : s.tsu.b.t.held = false) : exec (.markCalComplete turn) s = .next (match badPaths turn s with
      | [] => calibrated turn s
      | r :: _ => (hardEvent (calibrated turn s) .tsu (s.node .tsu) causeRegion
          (regionCtx (calibrated turn s) r 0)).alert .tsu 5) := by
  have hcal : (s.tsu.die.state != .blank || s.tsu.mark.calDone || s.tsu.b.t.held) = false := by simp [hblank, hfirst, hunset]
  rw [← calibrated_node turn s]
  unfold exec execMarkCalComplete
  rw [hcal]
  rfl

theorem pathBad_of_none (turn : Nat) {q : Region} (h : q.rt = none) : pathBad turn q = true := by
  unfold pathBad
  rw [h]

theorem pathBad_of_window {turn rt : Nat} {q : Region} (h : q.rt = some rt) (hlo : turn + 2 * 16 * 256 ≤ rt)
    (hhi : rt ≤ turn + 2 * 512 * 256) : pathBad turn q = false := by
  unfold pathBad lPath
  simp only [h, Bool.or_eq_false_iff, decide_eq_false_iff_not]
  omega

theorem badPaths_eq_nil {turn : Nat} {s : State} (h : ∀ r, r < 144 → pathBad turn (s.region r) = false) : badPaths turn s = [] :=
  List.filter_eq_nil_iff.mpr fun r hr => by simp [h r (List.mem_range.mp hr)]

theorem head_badPaths {turn f : Nat} {s : State} (hf : f < 144) (hbad : pathBad turn (s.region f) = true)
    (hbelow : ∀ r, r < f → pathBad turn (s.region r) = false) : (badPaths turn s).head? = some f := by
  unfold badPaths
  rw [List.head?_filter, List.find?_range_eq_some]
  exact ⟨hbad, List.mem_range.mpr hf, fun j hj => by rw [hbelow j hj]; rfl⟩

/-- A calibration with every path good writes every L_path and completes (R165). -/
theorem markCalComplete_good {turn : Nat} {s : State} (hblank : s.tsu.die.state = .blank) (hfirst : s.tsu.mark.calDone = false)
    (hunset : s.tsu.b.t.held = false)
    (hgood : ∀ r, r < 144 → ∃ rt, (s.region r).rt = some rt ∧ turn + 2 * 16 * 256 ≤ rt ∧ rt ≤ turn + 2 * 512 * 256) :
    Completes (.markCalComplete turn) s fun t =>
      (∀ r rt, r < 144 → (s.region r).rt = some rt → (t.region r).lpath.toNat = (rt - turn) / 2 ∧
        t.region r = { s.region r with lpath := (t.region r).lpath }) ∧
      t.tsu.mark.calDone = true ∧ t.tsu.mark.tjCal = s.tsu.b.tj ∧ t.tsu.mark.pathFault = false ∧
      t = { s with tsu := { s.tsu with regions := t.tsu.regions, mark := t.tsu.mark } } := by
  have hpath : ∀ r, r < 144 → pathBad turn (s.region r) = false := fun r hr => by
    obtain ⟨rt, hrt, hlo, hhi⟩ := hgood r hr
    exact pathBad_of_window hrt hlo hhi
  have hnone := badPaths_eq_nil hpath
  refine ⟨calibrated turn s, ?_, fun r rt hr hrt => ?_, rfl, ?_, ?_, calibrated_eq turn s⟩
  · rw [exec_markCalComplete hblank hfirst hunset, hnone]
  · obtain ⟨rt', hrt', hlo, hhi⟩ := hgood r hr
    obtain rfl : rt = rt' := Option.some.inj (hrt.symm.trans hrt')
    have hregion : (calibrated turn s).region r = { s.region r with lpath := BitVec.ofNat 18 ((rt - turn) / 2) } := by
      rw [region_calibrated turn s hr, hnone]
      unfold pathTaken
      rw [hpath r hr]
      simp [lPath, hrt]
    rw [hregion]
    refine ⟨?_, rfl⟩
    rw [BitVec.toNat_ofNat]
    exact Nat.mod_eq_of_lt (by omega)
  · unfold calibrated
    rw [State.modMark_mark, pathsTaken_eq]
  · unfold calibrated
    rw [State.modMark_mark, hnone]
    rfl

/-- A die's reports go out on ports that the accused part alone decides (R340). -/
theorem reportPorts_tsu (t s : State) (accused : Node) : reportPorts t .tsu accused = reportPorts s .tsu accused := rfl

/-- A calibration with a faulted path notes the lowest one, leaves the regions behind it unsynchronised and raises a hard event
against the die (R167). -/
theorem markCalComplete_faulted {turn f : Nat} {s : State} (hblank : s.tsu.die.state = .blank)
    (hfirst : s.tsu.mark.calDone = false) (hunset : s.tsu.b.t.held = false) (hf : f < 144) (hbad : pathBad turn (s.region f) = true)
    (hbelow : ∀ r, r < f → pathBad turn (s.region r) = false) :
    Completes (.markCalComplete turn) s fun t =>
      t.tsu.mark.calDone = true ∧ t.tsu.mark.pathFault = true ∧ t.tsu.mark.faultRegion = f ∧
      (∀ q, q < 144 → markThrough f q = true → (t.region q).unsync = true) ∧
      (∀ i ∈ reportPorts s .tsu (s.node .tsu), ReportWaits t .tsu i (s.node .tsu) true causeRegion) ∧ TsuOnly s t := by
  obtain ⟨rest, hlist⟩ : ∃ rest, badPaths turn s = f :: rest := List.head?_eq_some_iff.mp (head_badPaths hf hbad hbelow)
  have hexec := exec_markCalComplete hblank hfirst hunset (turn := turn)
  rw [hlist] at hexec
  have htold := (hardEvent_reports (calibrated turn s) .tsu (s.node .tsu) causeRegion (regionCtx (calibrated turn s) f 0)).trans
    (alert_reports _ .tsu 5)
  obtain ⟨hdone, hfault, hregion⟩ : (calibrated turn s).tsu.mark.calDone = true ∧
      (calibrated turn s).tsu.mark.pathFault = true ∧ (calibrated turn s).tsu.mark.faultRegion = f := by
    unfold calibrated
    rw [State.modMark_mark, hlist]
    exact ⟨rfl, rfl, rfl⟩
  refine ⟨_, hexec, ?_, ?_, ?_, fun q hq hthrough => ?_, fun i hi => ?_, partOnly_trans (p := .tsu) (calibrated_only turn s) htold.part⟩
  · rw [htold.mark_eq, hdone]
  · rw [htold.mark_eq, hfault]
  · rw [htold.mark_eq, hregion]
  · rw [htold.region_eq, region_calibrated turn s hq, hlist]
    simp [pathTaken, hthrough]
  · have hwaits : ReportWaits (hardEvent (calibrated turn s) .tsu (s.node .tsu) causeRegion
        (regionCtx (calibrated turn s) f 0)) .tsu i (s.node .tsu) true causeRegion :=
      raise_reportWaits (by rwa [reportPorts_tsu (calibrated turn s) s])
    exact hwaits.mono (alert_choice ..).node_eq (alert_choice ..).waits

/-! ### ECHO_REGION and the mark (R160, R163, R168, R177) -/

/-- ECHO_REGION as a write of MARK_CONTROL leaves it (R497). -/
def echoWritten (v : Nat) : Nat := if 144 ≤ v % 256 ∧ v % 256 ≤ 254 then 143 else v % 256

theorem exec_markControlWrite (v : Nat) (s : State) : exec (.markControlWrite v) s = .next
    ((s.modMark fun m => { m with echo := echoWritten v, echoFrame := echoFor s (echoWritten v) }).clamped .tsu
      (decide (144 ≤ v % 256 ∧ v % 256 ≤ 254))) := by
  have hclamp : decide (143 < v % 256 ∧ v % 256 < 255) = decide (144 ≤ v % 256 ∧ v % 256 ≤ 254) := by
    rw [decide_eq_decide]
    omega
  unfold exec execMarkControlWrite
  simp only [hclamp, decide_eq_true_eq]
  rfl

/-- With time held, the CAL frame of a region goes out: good, of KIND CAL, with the region in its bits 60 to 53 (R163, R168). -/
theorem echoFor_frame {s : State} {e : Nat} (hheld : s.tsu.b.t.held = true) (he : e < 144) :
    ∃ f, echoFor s e = some f ∧ markGood f = true ∧ markKind f = 3 ∧ bits f.toNat 60 53 = e := by
  have hbody : e * 2 ^ 48 < 2 ^ 56 := by omega
  refine ⟨calFrame e, by simp [echoFor, hheld, he], markGood_markFrame (by decide) hbody (by decide),
    markKind_markFrame (by decide) hbody, ?_⟩
  unfold calFrame
  rw [(bits_markFrame (by decide) hbody).2.2]
  exact Nat.mul_div_cancel e (by decide)

/-- The mark of the present interval: the multiple of 65,536 tu, and the residual past it (R160, R163). -/
def markBody (t : TimeState) : Nat := (t.acc.extractLsb' 48 48).toNat * 2 ^ 8 + markResidual t

theorem exec_markEmit {s : State} (hheld : s.tsu.b.t.held = true) (hnear : markResidual s.tsu.b.t ≤ 128)
    (hnew : s.tsu.mark.lastMark ≠ some (s.tsu.b.t.acc.extractLsb' 48 48)) : exec .markEmit s = .next (s.modMark fun m => { m with
      frame := markFrame (if s.tsu.mark.loadNext then 2 else 1) (markBody s.tsu.b.t), loadNext := false
      lastMark := some (s.tsu.b.t.acc.extractLsb' 48 48), echoFrame := echoFor s m.echo }) := by
  have hlaunch : (!s.tsu.b.t.held || decide (128 < markResidual s.tsu.b.t) ||
      s.tsu.mark.lastMark == some (s.tsu.b.t.acc.extractLsb' 48 48)) = false := by
    simp [hheld, Nat.not_lt.mpr hnear, hnew]
  unfold exec execMarkEmit
  dsimp only
  rw [hlaunch]
  rfl

/-- The fields of the mark launched at the present edge (R160, R163). -/
theorem markFrame_markBody {s : State} {kind : Nat} (hkind : kind ≤ 3) (hpos : 0 < kind) (hnear : markResidual s.tsu.b.t ≤ 128) :
    let f := markFrame kind (markBody s.tsu.b.t)
    markGood f = true ∧ markKind f = kind ∧ (markSt f).toNat = (s.now .tsu).toNat / 65536 * 65536 ∧
      markSub f = markResidual s.tsu.b.t := by
  have hn := (s.tsu.b.t.acc.extractLsb' 48 48).isLt
  have hbody : markBody s.tsu.b.t < 2 ^ 56 := by unfold markBody; omega
  obtain ⟨hsub, hst, -⟩ := bits_markFrame hkind hbody
  refine ⟨markGood_markFrame hkind hbody hpos, markKind_markFrame hkind hbody, ?_, ?_⟩
  · have hnow : (s.now .tsu).toNat / 65536 = (s.tsu.b.t.acc.extractLsb' 48 48).toNat := by
      simp only [State.now, base_tsu, Base.now, BitVec.extractLsb'_toNat, Nat.shiftRight_eq_div_pow]
      omega
    have hmultiple : markBody s.tsu.b.t / 2 ^ 8 = (s.tsu.b.t.acc.extractLsb' 48 48).toNat := by unfold markBody; omega
    unfold markSt
    rw [hst, hnow, hmultiple, BitVec.toNat_ofNat]
    exact Nat.mod_eq_of_lt (by omega)
  · unfold markSub
    rw [hsub]
    unfold markBody
    omega

/-- Settles O16: the calibration by its good and its faulted case, the marks by the fields of `markFrame`. -/
theorem marksAreCalibratedAndSent : Obligations.MarksAreCalibratedAndSent := by
  unfold Obligations.MarksAreCalibratedAndSent
  refine ⟨⟨?echoes, fun turn s => markCalComplete_good, ?faulted, fun r turn rt s => exec_of_no_calibration, ?temperature,
    ?control⟩, ?emit, ?none_⟩
  case echoes =>
    intro r rt s hr hblank hfirst hunset
    unfold exec execMarkPathCal onRegion
    simp [hr, hblank, hfirst, hunset]
  case faulted =>
    intro turn f s hblank hfirst hunset hf hnone hbelow
    exact markCalComplete_faulted hblank hfirst hunset hf (pathBad_of_none turn hnone) hbelow
  case temperature =>
    refine fun tj s => ⟨_, rfl, ?_, rfl⟩
    simp only [Bool.and_eq_true, decide_eq_true_eq]
    refine and_congr_right fun _ => ?_
    omega
  case control =>
    intro v s
    refine ⟨_, exec_markControlWrite v s, ?_, fun hheld hv => ?_, ?_, ?_⟩
    all_goals rw [clamped_tsu]
    · rfl
    · have he : echoWritten v < 144 := by unfold echoWritten; split <;> omega
      exact echoFor_frame hheld he
    · refine (clamped_ctr _ .tsu _).trans ?_
      simp
    · rfl
  case emit =>
    intro s hheld hnear hnew
    obtain ⟨hgood, hkind, hst, hsub⟩ := markFrame_markBody (s := s) (kind := if s.tsu.mark.loadNext then 2 else 1)
      (by split <;> omega) (by split <;> omega) hnear
    exact ⟨_, exec_markEmit hheld hnear hnew, hgood, hkind, hst, hsub, rfl, rfl, rfl⟩
  case none_ =>
    intro s h
    have hstay : (!s.tsu.b.t.held || decide (128 < markResidual s.tsu.b.t) ||
        s.tsu.mark.lastMark == some (s.tsu.b.t.acc.extractLsb' 48 48)) = true := by
      simpa [or_assoc] using h
    unfold exec execMarkEmit
    dsimp only
    rw [hstay]
    rfl

end Sys2Proof.Machine

namespace Sys2Proof.Machine

/-! ### A region's clock (R169 to R172, R207) -/

theorem regionEdge_copy {s : State} {r : Nat} (p : W32) (h : (s.region r).clockOn = true) :
    ((regionEdge r s p).region r).copy = (s.region r).copy + BitVec.ofInt 80 ((p.toNat : Int) + spreadAdj (s.region r)) := by
  rw [(regionEdge_clock p h).copy, region_advanced, region_modRegion]
  rfl

theorem regionEdge_standing {s : State} {r : Nat} (p : W32) (h : (s.region r).clockOn = true) :
    ((regionEdge r s p).region r).period = p ∧ ((regionEdge r s p).region r).loaded = (s.region r).loaded ∧
      ((regionEdge r s p).region r).unsync = (s.region r).unsync := by
  have hkept := regionEdge_clock p h
  rw [hkept.period, hkept.loaded, hkept.unsync, region_advanced, region_modRegion]
  exact ⟨rfl, rfl, rfl⟩

theorem exec_regionFreqChange {r set : Nat} {es : List W32} {s : State} (hr : r < 144) (hset : set ≤ 64) :
    exec (.regionFreqChange r set es) s = .next ((regionEdges r es s).modRegion r fun q =>
      if aligning q then { q with deferred := some set } else { q with setting := set }) := by
  change execRegionFreqChange r set es s = _
  unfold execRegionFreqChange onRegion
  rw [if_pos hr, Nat.min_eq_left hset]

/-! ### The calibration of crossings (R183, R184) -/

/-- A region with the L_cross of one port measured (R183). -/
def crossTaken (port d : Nat) (q : Region) : Region :=
  { q with cross := tmod {} q.cross port fun x => { x with lcross := 4 * lCross d, calibrated := true } }

/-- The calibration noted in CROSS_STATUS with its largest L_cross, region and port (R184). -/
def crossEnded (m : Nat × Nat × Nat) (s : State) : State :=
  s.modMark fun k => { k with
    crossDone := true, crossMax := m.1, crossRegion := m.2.1, crossPort := m.2.2, crossFault := decide (4 * k.crossBudget < m.1) }

/-- Every crossing port of the die has its L_cross. -/
def CrossAll (s : State) : Prop := ∀ e ∈ crossPorts, (tget {} (s.region e.1).cross e.2).calibrated = true

theorem exec_crossCal {r p d : Nat} {s : State} (hr : r < 144) (hexists : crossExists r p = true)
    (htruing : s.tsu.die.state = .truing) (hopen : s.tsu.mark.crossDone = false) (hloaded : copiesLoaded s = true) :
    (CrossAll (s.modRegion r (crossTaken p d)) →
      exec (.crossCal r p d) s = .next
        (crossEnded (crossMaxOf (s.modRegion r (crossTaken p d))) (s.modRegion r (crossTaken p d)))) ∧
    (¬ CrossAll (s.modRegion r (crossTaken p d)) → exec (.crossCal r p d) s = .next (s.modRegion r (crossTaken p d))) := by
  have hruns : (s.tsu.die.state != .truing || s.tsu.mark.crossDone || !copiesLoaded s) = false := by simp [htruing, hopen, hloaded]
  change (_ → execCrossCal r p d s = _) ∧ (_ → execCrossCal r p d s = _)
  unfold execCrossCal
  rw [if_pos ⟨hr, hexists⟩, hruns, if_neg Bool.false_ne_true]
  unfold CrossAll crossTaken crossEnded
  dsimp only
  generalize crossPorts = ports
  refine ⟨fun h => ?_, fun h => ?_⟩
  · rw [if_pos (List.all_eq_true.mpr h)]
  · rw [if_neg fun hall => h (List.all_eq_true.mp hall)]

/-- The largest of a list, taken one by one, is at least the first and every one. -/
theorem le_foldl_largest {α : Type} (f : α → Nat) (g : α → Nat × Nat) (l : List α) (b : Nat × Nat × Nat) :
    let m := l.foldl (fun b e => if b.1 < f e then (f e, g e) else b) b
    b.1 ≤ m.1 ∧ ∀ e ∈ l, f e ≤ m.1 := by
  induction l generalizing b with
  | nil => exact ⟨Nat.le_refl _, fun e he => absurd he List.not_mem_nil⟩
  | cons a l ih =>
    obtain ⟨hfirst, hrest⟩ := ih (if b.1 < f a then (f a, g a) else b)
    have hstep : b.1 ≤ (if b.1 < f a then (f a, g a) else b).1 ∧ f a ≤ (if b.1 < f a then (f a, g a) else b).1 := by
      split <;> omega
    refine ⟨Nat.le_trans hstep.1 hfirst, fun e he => ?_⟩
    rcases List.mem_cons.mp he with rfl | he
    · exact Nat.le_trans hstep.2 hfirst
    · exact hrest e he

theorem lcross_le_crossMaxOf (s : State) : ∀ e ∈ crossPorts, (tget {} (s.region e.1).cross e.2).lcross ≤ (crossMaxOf s).1 := by
  unfold crossMaxOf
  exact (le_foldl_largest (fun e : Nat × Nat => (tget {} (s.region e.1).cross e.2).lcross) id crossPorts (0, 0, 0)).2

/-- L_cross is the least whole number of tu at or above D + 139.2 tu (R183). -/
theorem lCross_least (d : Nat) : 10 * d + 1392 * 65536 ≤ 10 * 65536 * lCross d ∧
    10 * 65536 * lCross d < 10 * d + 1392 * 65536 + 10 * 65536 := by
  unfold lCross
  omega

theorem crossCal_completes {r p d : Nat} {s : State} (hr : r < 144) (hexists : crossExists r p = true)
    (htruing : s.tsu.die.state = .truing) (hopen : s.tsu.mark.crossDone = false) (hloaded : copiesLoaded s = true) :
    Completes (.crossCal r p d) s fun t =>
      ∃ l, tget {} (t.region r).cross p = { tget {} (s.region r).cross p with lcross := 4 * l, calibrated := true } ∧
        (10 * d + 1392 * 65536 ≤ 10 * 65536 * l ∧ 10 * 65536 * l < 10 * d + 1392 * 65536 + 10 * 65536) ∧
        (t.tsu.mark.crossDone = true ↔ CrossAll t) ∧
        (t.tsu.mark.crossDone = true →
          (∀ e ∈ crossPorts, (tget {} (t.region e.1).cross e.2).lcross ≤ t.tsu.mark.crossMax) ∧
          t.tsu.mark.crossFault = decide (4 * s.tsu.mark.crossBudget < t.tsu.mark.crossMax)) ∧
        t = { s with tsu := { s.tsu with regions := t.tsu.regions, mark := t.tsu.mark } } := by
  obtain ⟨hlast, hmore⟩ := exec_crossCal (d := d) hr hexists htruing hopen hloaded
  have hport : tget {} ((s.modRegion r (crossTaken p d)).region r).cross p =
      { tget {} (s.region r).cross p with lcross := 4 * lCross d, calibrated := true } := by
    rw [region_modRegion]
    unfold crossTaken
    dsimp only
    rw [tget_tmod_eq]
  by_cases hall : CrossAll (s.modRegion r (crossTaken p d))
  · have hmax := lcross_le_crossMaxOf (s.modRegion r (crossTaken p d))
    have hexec := hlast hall
    generalize crossMaxOf (s.modRegion r (crossTaken p d)) = m at hmax hexec
    exact ⟨_, hexec, lCross d, hport, lCross_least d, iff_of_true rfl hall, fun _ => ⟨hmax, rfl⟩, rfl⟩
  · have hstill : ¬ (s.modRegion r (crossTaken p d)).tsu.mark.crossDone = true := by
      intro h
      exact absurd (hopen.symm.trans h) (by decide)
    exact ⟨_, hmore hall, lCross d, hport, lCross_least d, iff_of_false hstill hall, fun h => absurd h hstill, rfl⟩

/-- CROSS_BUDGET is held to its bounds, and a value held is counted in CLAMP (R12, R184). -/
theorem crossBudgetWrite_completes {v : Nat} {s : State} (hopen : s.tsu.b.hs.guardLock = false) :
    Completes (.crossBudgetWrite v) s fun t =>
      t.tsu.mark.crossBudget = clampN 128 320 v ∧
      (t.base .tsu).ctr .clamp 0 = (s.base .tsu).ctr .clamp 0 + (if 128 ≤ v ∧ v ≤ 320 then 0 else 1) ∧
      t = { s with tsu := { s.tsu with mark := t.tsu.mark, b := t.tsu.b } } := by
  have hheld : clampN 128 320 v ≠ v ↔ ¬ (128 ≤ v ∧ v ≤ 320) := by
    unfold clampN
    split
    · omega
    · split <;> omega
  change ∃ t, execCrossBudgetWrite v s = .next t ∧ _
  unfold execCrossBudgetWrite
  rw [hopen]
  refine ⟨_, rfl, ?_, (clamped_ctr _ .tsu _).trans ?_, ?_⟩
  · rw [clamped_tsu]
    rfl
  · simp only [decide_eq_true_eq, hheld, ite_not]
    rfl
  · rw [clamped_tsu]
    rfl

/-! ### A slipped step (R187) -/

theorem slip_slipped (s : State) (r port late : Nat) (tag : BitVec 22) (n : Step) :
    (slip s r port late tag n).tsu.plate.slipped = true := by
  unfold slip
  extract_lets me nb s1 body
  rw [(irq_counts ..).plate_eq, (fr_counts ..).plate_eq]
  rfl

theorem slip_ctrs (s : State) (r port late : Nat) (tag : BitVec 22) (n : Step) :
    CtrsKept .tsu s (slip s r port late tag n) := by
  unfold slip
  extract_lets me nb s1 body
  have h1 : CtrsKept .tsu s s1 := .of_cnt rfl
  exact (h1.trans (fr_ctrs ..)).trans (.of_cnt (by rw [irq_base]))

/-- A crossing port has one of the numbers 0 to 3 (R180). -/
theorem port_lt_of_crossExists {r p : Nat} (h : crossExists r p = true) : p < 4 := by
  unfold crossExists at h
  split at h <;> simp_all

/-! ### A word arrives at a crossing (R181, R186, R187) -/

/-- A word waits in its port's queue. -/
def wordQueued (r port : Nat) (w : CrossWord) (s : State) : State :=
  s.modRegion r fun q => { q with
    cross := tmod {} q.cross port fun x => { x with waiting := x.waiting ++ [w] } }

theorem cross_wordQueued (r port : Nat) (w : CrossWord) (s : State) : tget {} ((wordQueued r port w s).region r).cross port =
    { tget {} (s.region r).cross port with waiting := (tget {} (s.region r).cross port).waiting ++ [w] } := by
  unfold wordQueued
  rw [region_modRegion]
  dsimp only
  rw [tget_tmod_eq]

theorem exec_crossingWordArrive {r p : Nat} {tag : BitVec 22} {w : W64} {es : List W32} {s : State} (hr : r < 144)
    (hexists : crossExists r p = true) :
    let u := regionEdges r es s
    (16 ≤ (tget {} (u.region r).cross p).waiting.length → ∃ n, exec (.crossingWordArrive r p tag w es) s = .next
      (slip (u.count .tsu .crossDrop r { slice := (dieFlt u).slice, region := some r } 1) r p 0 tag n)) ∧
    ((tget {} (u.region r).cross p).waiting.length < 16 → (u.region r).usable = true →
      exec (.crossingWordArrive r p tag w es) s = .next (wordQueued r p { tag, word := w } u)) ∧
    ((tget {} (u.region r).cross p).waiting.length < 16 → (u.region r).usable = false → ∃ n,
      exec (.crossingWordArrive r p tag w es) s = .next (slip (wordQueued r p { tag, word := w, slipped := true } u) r p 0 tag n)) := by
  intro u
  have hqueued : ∀ x : CrossWord, wordQueued r p x u = u.modRegion r fun q => { q with
      cross := tset {} q.cross p
        { tget {} (u.region r).cross p with waiting := (tget {} (u.region r).cross p).waiting ++ [x] } } :=
    fun x => modRegion_congr rfl
  change (_ → ∃ n, execCrossingWordArrive r p tag w es s = _) ∧ (_ → _ → execCrossingWordArrive r p tag w es s = _) ∧
    (_ → _ → ∃ n, execCrossingWordArrive r p tag w es s = _)
  unfold execCrossingWordArrive
  rw [if_pos ⟨hr, hexists⟩]
  refine ⟨fun hfull => ?_, fun hroom husable => ?_, fun hroom hunusable => ?_⟩
  · rw [if_pos hfull]
    exact ⟨_, rfl⟩
  · rw [if_neg (Nat.not_le.mpr hroom), if_pos husable, husable]
    rw [hqueued]
    rfl
  · rw [if_neg (Nat.not_le.mpr hroom), if_neg (by rw [hunusable]; decide), hunusable]
    simp only [hqueued]
    exact ⟨_, rfl⟩

end Sys2Proof.Machine

namespace Sys2Proof.Machine

/-! ### What an edge leaves of a crossing port (R182, R186) -/

/-- `t` keeps of `s` crossing port `p` of region `r`, what it has counted as late, and a slip of the plate. -/
structure PortKept (r p : Nat) (s t : State) : Prop where
  cross : tget {} (t.region r).cross p = tget {} (s.region r).cross p
  late : (t.base .tsu).ctr .crossLate (4 * r + p) = (s.base .tsu).ctr .crossLate (4 * r + p)
  slipped : s.tsu.plate.slipped = true → t.tsu.plate.slipped = true

theorem PortKept.refl (r p : Nat) (s : State) : PortKept r p s s := ⟨rfl, rfl, id⟩

theorem PortKept.trans {r p : Nat} {s t u : State} (h : PortKept r p s t) (k : PortKept r p t u) : PortKept r p s u :=
  ⟨k.cross.trans h.cross, k.late.trans h.late, k.slipped ∘ h.slipped⟩

theorem modRegion_port (s : State) (r p : Nat) {f : Region → Region}
    (h : tget {} (f (s.region r)).cross p = tget {} (s.region r).cross p) : PortKept r p s (s.modRegion r f) :=
  ⟨by rw [region_modRegion, h], rfl, id⟩

/-- A count of anything but lateness at this port. -/
theorem count_port (s : State) {r p : Nat} (hr : r < 144) (hp : p < 4) {c : Ctr} {i : Nat} (f : Flt) (n : Nat) (hi : i < 2 ^ 20)
    (h : (Ctr.crossLate, 4 * r + p) ≠ (c, i)) : PortKept r p s (s.count .tsu c i f n) := by
  have hcounts := count_counts s .tsu c i f n
  refine ⟨by rw [hcounts.region_eq], ?_, fun hs => by rw [hcounts.plate_eq]; exact hs⟩
  exact count_ctr_ne _ _ _ _ _ _ _ _ (ctrKey_ne hi (by omega) h)

theorem region_slip (s : State) (i port late : Nat) (tag : BitVec 22) (n : Step) (k : Nat) :
    (slip s i port late tag n).region k = s.region k := by
  unfold slip
  extract_lets me nb s1 body
  rw [(irq_counts ..).region_eq, (fr_counts ..).region_eq]
  rfl

theorem slip_port (s : State) {r p : Nat} (hr : r < 144) (hp : p < 4) (i port late : Nat) (tag : BitVec 22) (n : Step) :
    PortKept r p s (slip s i port late tag n) := by
  refine ⟨?_, (slip_ctrs ..).ctr _ _ (by simp [Ctr.ofSending]) (by omega), fun _ => slip_slipped ..⟩
  rw [region_slip]

theorem advanced_port (s : State) {r p : Nat} (hr : r < 144) (hp : p < 4) (per : W32) : PortKept r p s (advanced r s per) := by
  have hcopy : PortKept r p s (s.modRegion r (copyEdge · per)) := modRegion_port s r p rfl
  unfold advanced
  extract_lets s1
  split
  · have hkey : ctrKey .crossLate (4 * r + p) ≠ ctrKey .stretchDeep r := ctrKey_ne (by omega) (by omega) (by simp)
    refine hcopy.trans ⟨rfl, ?_, id⟩
    rw [base_modBase]
    unfold Base.ctr Base.setCtr
    dsimp only
    rw [tget_tset_ne _ _ _ hkey]
  · exact hcopy

theorem launchEdge_port (s : State) {r p : Nat} (hr : r < 144) (hp : p < 4) : PortKept r p s (launchEdge r s) := by
  unfold launchEdge
  extract_lets g due s1
  have h1 : PortKept r p s s1 := modRegion_port s r p rfl
  split
  · exact .refl r p s
  · split
    · exact .refl r p s
    · split
      · exact h1
      · exact h1.trans (count_port s1 hr hp _ _ (by decide) (by simp))

section
variable {r p port : Nat} (hr : r < 144) (hp : p < 4) (hport : port < 4) (hne : port ≠ p)
include hr hp hport hne

theorem noteLate_port (c : BitVec 80) (w : CrossWord) (l : Nat) (s : State) : PortKept r p s (noteLate r port c w l s) := by
  unfold noteLate
  extract_lets s1 s2
  have h1 : PortKept r p s s1 := count_port s hr hp _ _ (by omega) (by simp; omega)
  have h2 : PortKept r p s s2 := h1.trans ⟨rfl, rfl, id⟩
  split
  · exact h2
  · exact h2.trans (slip_port _ hr hp ..)

theorem releaseWord_port (w : CrossWord) (rest : List CrossWord) (s : State) :
    PortKept r p s (releaseWord r port w rest s) := by
  have htake : PortKept r p s (takeWord r port w rest s) := modRegion_port s r p (tget_tset_ne _ _ _ (Ne.symm hne))
  unfold releaseWord
  split
  · exact htake
  · exact htake.trans (noteLate_port hr hp hport hne ..)

/-- Releases at another port of the region leave this one. -/
theorem releaseGo_port : ∀ (n : Nat) (s : State), PortKept r p s (releaseGo r port n s)
  | 0, s => .refl r p s
  | n + 1, s => by
    match hwaiting : (tget {} (s.region r).cross port).waiting with
    | [] =>
      rw [releaseGo_nil hwaiting]
      exact .refl r p s
    | w :: rest =>
      cases hready : wordReady (s.region r).copy (tget {} (s.region r).cross port).lcross w with
      | false =>
        rw [releaseGo_notReady hwaiting hready]
        exact .refl r p s
      | true =>
        rw [releaseGo_ready hwaiting hready]
        exact (releaseWord_port hr hp hport hne ..).trans (releaseGo_port n _)

end

/-! ### A word released at its port (R182, R186, R187) -/

theorem noteLate_counts {r port : Nat} {c : BitVec 80} {w : CrossWord} {l : Nat} {s : State} (hr : r < 144) (hport : port < 4) :
    ((noteLate r port c w l s).base .tsu).ctr .crossLate (4 * r + port) = (s.base .tsu).ctr .crossLate (4 * r + port) + 1 ∧
      (w.slipped = false → (noteLate r port c w l s).tsu.plate.slipped = true) := by
  unfold noteLate
  extract_lets s1 s2
  have h2 : (s2.base .tsu).ctr .crossLate (4 * r + port) = (s.base .tsu).ctr .crossLate (4 * r + port) + 1 :=
    count_ctr s .tsu .crossLate (4 * r + port) _ 1
  split
  · rename_i hslipped
    exact ⟨h2, fun h => absurd (hslipped.symm.trans h) (by decide)⟩
  · exact ⟨((slip_ctrs ..).ctr _ _ (by simp [Ctr.ofSending]) (by omega)).trans h2, fun _ => slip_slipped ..⟩

theorem cross_takeWord (r port : Nat) (w : CrossWord) (rest : List CrossWord) (s : State) :
    tget {} ((takeWord r port w rest s).region r).cross port =
      { tget {} (s.region r).cross port with waiting := rest, released := some w.word } := by
  unfold takeWord
  rw [region_modRegion]
  dsimp only
  rw [tget_tset_eq]

theorem region_noteLate (r port : Nat) (c : BitVec 80) (w : CrossWord) (l : Nat) (s : State) (k : Nat) :
    (noteLate r port c w l s).region k = s.region k := by
  unfold noteLate
  extract_lets s1 s2
  have h2 : s2.region k = s.region k := (count_counts ..).region_eq k
  split
  · exact h2
  · exact (region_slip ..).trans h2

theorem cross_releaseWord (r port : Nat) (w : CrossWord) (rest : List CrossWord) (s : State) :
    tget {} ((releaseWord r port w rest s).region r).cross port =
      { tget {} (s.region r).cross port with waiting := rest, released := some w.word } := by
  unfold releaseWord
  split
  · exact cross_takeWord ..
  · rw [region_noteLate, cross_takeWord]

/-- A word that missed no release edge and had not slipped its step is released on time. -/
theorem releaseWord_onTime {r port : Nat} {w : CrossWord} {rest : List CrossWord} {s : State} (hdue : w.dueAt = none)
    (hslipped : w.slipped = false) : ((releaseWord r port w rest s).base .tsu).ctr .crossLate (4 * r + port) =
      (s.base .tsu).ctr .crossLate (4 * r + port) := by
  have hlate : ∀ c lcross, wordLate c lcross w = none := fun c lcross => by
    unfold wordLate
    rw [hdue, hslipped]
    rfl
  unfold releaseWord
  rw [hlate]
  rfl

theorem releaseWord_late {r port : Nat} {w : CrossWord} {rest : List CrossWord} {s : State} {d : BitVec 80} (hr : r < 144)
    (hport : port < 4) (hdue : w.dueAt = some d) :
    ((releaseWord r port w rest s).base .tsu).ctr .crossLate (4 * r + port) =
        (s.base .tsu).ctr .crossLate (4 * r + port) + 1 ∧
      (w.slipped = false → (releaseWord r port w rest s).tsu.plate.slipped = true) := by
  have hlate : ∀ c lcross, wordLate c lcross w = some ((c - d).toNat / 2 ^ 16) := fun c lcross => by
    unfold wordLate
    rw [hdue]
  unfold releaseWord
  rw [hlate]
  exact noteLate_counts hr hport

/-! ### The releases of an edge, seen from one port (R182) -/

theorem foldl_releaseGo_port {r p : Nat} (hr : r < 144) (hp : p < 4) {l : List Nat} (hl : ∀ q ∈ l, q < 4) (hmem : p ∉ l)
    (s : State) : PortKept r p s (l.foldl (fun s port => releaseGo r port 16 s) s) := by
  induction l generalizing s with
  | nil => exact .refl r p s
  | cons q l ih =>
    simp only [List.mem_cons, not_or] at hmem
    obtain ⟨hq, hrest⟩ := hmem
    exact (releaseGo_port hr hp (hl q List.mem_cons_self) (Ne.symm hq) 16 s).trans
      (ih (fun x hx => hl x (List.mem_cons_of_mem _ hx)) hrest _)

/-- The releases of an edge, seen from one port: its own, between others that leave it. -/
theorem foldl_releaseGo_at {r p : Nat} (hr : r < 144) (hp : p < 4) (s : State) :
    ∃ s1, ClockKept r s s1 ∧ PortKept r p s s1 ∧
      PortKept r p (releaseGo r p 16 s1) ((List.range 4).foldl (fun s port => releaseGo r port 16 s) s) := by
  obtain ⟨before, after, hsplit⟩ := List.append_of_mem (List.mem_range.mpr hp)
  have hnodup : (before ++ p :: after).Nodup := hsplit ▸ List.nodup_range
  have hlt : ∀ q ∈ before ++ p :: after, q < 4 := fun q hq => List.mem_range.mp (hsplit ▸ hq)
  have hbefore : p ∉ before := fun h => (List.nodup_append.mp hnodup).2.2 p h p List.mem_cons_self rfl
  have hafter : p ∉ after := (List.nodup_cons.mp (List.nodup_append.mp hnodup).2.1).1
  refine ⟨before.foldl (fun s port => releaseGo r port 16 s) s, .foldl _ (fun s port => releaseGo_clock r port 16 s) _ _,
    foldl_releaseGo_port hr hp (fun q hq => hlt q (List.mem_append_left _ hq)) hbefore s, ?_⟩
  rw [hsplit, List.foldl_append, List.foldl_cons]
  exact foldl_releaseGo_port hr hp (fun q hq => hlt q (List.mem_append_right _ (List.mem_cons_of_mem _ hq))) hafter _

/-! ### A port's words at an edge (R182, R185, R186) -/

/-- A port of a usable region at an edge with copy `c`: every word is an edge older. -/
def portEdged (c : BitVec 80) (x : Cross) : Cross := { x with waiting := x.waiting.map (wordEdge c x.lcross) }

theorem lcross_portEdged (c : BitVec 80) (x : Cross) : (portEdged c x).lcross = x.lcross := rfl

/-- `s` with the words of a usable region's ports an edge older. -/
def wordsEdged (r : Nat) (s : State) : State :=
  s.modRegion r fun q => { q with cross := tmapAll {} (fun _ => portEdged q.copy) q.cross }

theorem releaseEdge_usable {r : Nat} {s : State} (h : (s.region r).usable = true) :
    releaseEdge r s = (List.range 4).foldl (fun s port => releaseGo r port 16 s) (wordsEdged r s) := by
  have hedged : (s.modRegion r fun q => { q with
      cross := tmapAll {} (fun _ x =>
        if q.usable then { x with waiting := x.waiting.map (wordEdge q.copy x.lcross) }
        else { x with waiting := x.waiting.map (wordWait q.copy x.lcross) }) q.cross }) = wordsEdged r s := by
    refine modRegion_congr ?_
    simp only [h, if_true]
    rfl
  unfold releaseEdge
  rw [hedged]
  refine if_pos ?_
  unfold wordsEdged
  rw [region_modRegion]
  exact h

theorem wordsEdged_clock (r : Nat) (s : State) : ClockKept r s (wordsEdged r s) :=
  modRegion_clock s r fun _ => ⟨rfl, rfl, rfl, rfl⟩

theorem ne_default_of_waiting {x : Cross} (h : x.waiting ≠ []) : x ≠ {} := fun e => h (by rw [e])

theorem cross_wordsEdged {r p : Nat} {s : State} (h : (tget {} (s.region r).cross p).waiting ≠ []) :
    tget {} ((wordsEdged r s).region r).cross p = portEdged (s.region r).copy (tget {} (s.region r).cross p) := by
  unfold wordsEdged
  rw [region_modRegion]
  refine tget_tmapAll_of_ne {} (portEdged (s.region r).copy) p (s.region r).cross (ne_default_of_waiting ?_) (ne_default_of_waiting h)
  simpa [portEdged] using h

/-- A word is ready at the second edge or later after its arrival, once it is due (R182, R186). -/
theorem wordReady_wordEdge (c : BitVec 80) (lcross : Nat) (w : CrossWord) :
    wordReady c lcross (wordEdge c lcross w) = (decide (1 ≤ w.edges) && decide (0 ≤ tagDiff c w.tag lcross)) := by
  have hword : (wordEdge c lcross w).edges = w.edges + 1 ∧ (wordEdge c lcross w).tag = w.tag := by
    unfold wordEdge
    dsimp only
    split <;> exact ⟨rfl, rfl⟩
  unfold wordReady
  rw [hword.1, hword.2]
  congr 1
  rw [decide_eq_decide]
  omega

theorem wordEdge_keeps (c : BitVec 80) (lcross : Nat) (w : CrossWord) :
    (wordEdge c lcross w).word = w.word ∧ (wordEdge c lcross w).slipped = w.slipped := by
  unfold wordEdge
  dsimp only
  split <;> exact ⟨rfl, rfl⟩

/-- From its second edge on a word notes no missed release edge (R186). -/
theorem wordEdge_dueAt (c : BitVec 80) (lcross : Nat) {w : CrossWord} (h : 1 ≤ w.edges) :
    (wordEdge c lcross w).dueAt = w.dueAt := by
  have hlate : decide (w.edges + 1 < 2) = false := decide_eq_false (by omega)
  unfold wordEdge
  dsimp only
  rw [hlate, Bool.and_false, if_neg Bool.false_ne_true]

/-- A running, usable region's edge, seen from a port with words: they grow an edge older, the port's releases follow, and the rest of
the edge leaves the port. -/
theorem regionEdge_at {r p : Nat} {per : W32} {s : State} (hr : r < 144) (hp : p < 4) (hclock : (s.region r).clockOn = true)
    (husable : (s.region r).usable = true) (hwaiting : (tget {} (s.region r).cross p).waiting ≠ []) :
    ∃ s1, (s1.region r).copy = ((regionEdge r s per).region r).copy ∧
      tget {} (s1.region r).cross p = portEdged (s1.region r).copy (tget {} (s.region r).cross p) ∧
      (s1.base .tsu).ctr .crossLate (4 * r + p) = (s.base .tsu).ctr .crossLate (4 * r + p) ∧
      PortKept r p (releaseGo r p 16 s1) (regionEdge r s per) := by
  have hport : PortKept r p s (launchEdge r (advanced r s per)) := (advanced_port s hr hp per).trans (launchEdge_port _ hr hp)
  have hadvanced : ((advanced r s per).region r).usable = true := by
    rw [region_advanced, region_modRegion]
    exact husable
  have hlaunched : ((launchEdge r (advanced r s per)).region r).usable = true := (launchEdge_clock ..).usable.trans hadvanced
  obtain ⟨s1, hclock1, hport1, hlast⟩ := foldl_releaseGo_at hr hp (wordsEdged r (launchEdge r (advanced r s per)))
  have hcopy : (s1.region r).copy = ((launchEdge r (advanced r s per)).region r).copy :=
    hclock1.copy.trans (wordsEdged_clock ..).copy
  refine ⟨s1, ?_, ?_, hport1.late.trans hport.late, ?_⟩
  · rw [hcopy, (regionEdge_clock per hclock).copy, (launchEdge_clock ..).copy]
  · rw [hport1.cross, cross_wordsEdged (by rwa [hport.cross]), hport.cross, hcopy]
  · rw [regionEdge_of_running per hclock, releaseEdge_usable hlaunched]
    generalize (List.range 4).foldl _ _ = v at hlast ⊢
    exact hlast.trans (modRegion_port _ r p rfl)

/-- A word that is not due, or not yet at its second edge, waits on. -/
theorem regionEdge_holds {r p : Nat} {per : W32} {w : CrossWord} {l : List CrossWord} {s : State} (hr : r < 144) (hp : p < 4)
    (hclock : (s.region r).clockOn = true) (husable : (s.region r).usable = true)
    (hwaiting : (tget {} (s.region r).cross p).waiting = w :: l)
    (hheld : decide (0 ≤ tagDiff ((regionEdge r s per).region r).copy w.tag (tget {} (s.region r).cross p).lcross) = false ∨
      w.edges = 0) :
    (tget {} ((regionEdge r s per).region r).cross p).waiting.length = l.length + 1 ∧
      (tget {} ((regionEdge r s per).region r).cross p).released = (tget {} (s.region r).cross p).released := by
  obtain ⟨s1, hcopy, hcross, -, hlast⟩ := regionEdge_at (per := per) hr hp hclock husable (by rw [hwaiting]; simp)
  have hready : wordReady (s1.region r).copy (tget {} (s1.region r).cross p).lcross
      (wordEdge (s1.region r).copy (tget {} (s.region r).cross p).lcross w) = false := by
    rw [hcross, lcross_portEdged, wordReady_wordEdge, hcopy]
    rcases hheld with hdue | hedges
    · rw [hdue, Bool.and_false]
    · rw [hedges]
      rfl
  have hsame : releaseGo r p 16 s1 = s1 :=
    releaseGo_notReady (by rw [hcross]; unfold portEdged; rw [hwaiting, List.map_cons]) hready 16
  rw [hsame] at hlast
  rw [hlast.cross, hcross]
  exact ⟨by simp [portEdged, hwaiting], rfl⟩

/-- The one word of a port, due and at its second edge or later, is released; it is late if it had noted a missed release edge. -/
theorem regionEdge_releases {r p : Nat} {per : W32} {w : CrossWord} {s : State} (hr : r < 144) (hp : p < 4)
    (hclock : (s.region r).clockOn = true) (husable : (s.region r).usable = true)
    (hwaiting : (tget {} (s.region r).cross p).waiting = [w])
    (hdue : decide (0 ≤ tagDiff ((regionEdge r s per).region r).copy w.tag (tget {} (s.region r).cross p).lcross) = true)
    (hedges : 1 ≤ w.edges) :
    ((tget {} ((regionEdge r s per).region r).cross p).waiting = [] ∧
      (tget {} ((regionEdge r s per).region r).cross p).released = some w.word) ∧
    (w.dueAt = none → w.slipped = false → ((regionEdge r s per).base .tsu).ctr .crossLate (4 * r + p) =
      (s.base .tsu).ctr .crossLate (4 * r + p)) ∧
    (∀ c, w.dueAt = some c → ((regionEdge r s per).base .tsu).ctr .crossLate (4 * r + p) =
        (s.base .tsu).ctr .crossLate (4 * r + p) + 1 ∧
      (w.slipped = false → (regionEdge r s per).tsu.plate.slipped = true)) := by
  obtain ⟨s1, hcopy, hcross, hlate, hlast⟩ := regionEdge_at (per := per) hr hp hclock husable (by rw [hwaiting]; simp)
  have hlist : (tget {} (s1.region r).cross p).waiting =
      [wordEdge (s1.region r).copy (tget {} (s.region r).cross p).lcross w] := by
    rw [hcross]
    unfold portEdged
    rw [hwaiting, List.map_singleton]
  have hready : wordReady (s1.region r).copy (tget {} (s1.region r).cross p).lcross
      (wordEdge (s1.region r).copy (tget {} (s.region r).cross p).lcross w) = true := by
    rw [hcross, lcross_portEdged, wordReady_wordEdge, hcopy, hdue, decide_eq_true hedges]
    rfl
  obtain ⟨hword, hslipped⟩ := wordEdge_keeps (s1.region r).copy (tget {} (s.region r).cross p).lcross w
  have hdueAt := wordEdge_dueAt (s1.region r).copy (tget {} (s.region r).cross p).lcross hedges
  generalize wordEdge (s1.region r).copy (tget {} (s.region r).cross p).lcross w = v at *
  rw [releaseGo_ready hlist hready, releaseGo_nil (by rw [cross_releaseWord])] at hlast
  rw [hlast.cross, cross_releaseWord, hlast.late, ← hlate]
  refine ⟨⟨rfl, congrArg some hword⟩, fun hnone hfresh => ?_, fun c hsome => ?_⟩
  · exact releaseWord_onTime (hdueAt.trans hnone) (hslipped.trans hfresh)
  · obtain ⟨hcount, hslip⟩ := releaseWord_late (r := r) (port := p) (rest := []) (s := s1) hr hp (hdueAt.trans hsome)
    exact ⟨hcount, fun hfresh => hlast.slipped (hslip (hslipped.trans hfresh))⟩

/-- Settles O18: an edge advances the copy and keeps the clock (`regionEdge_clock`); releases at a port are seen by `regionEdge_at`. -/
theorem regionsCountAndCross : Obligations.RegionsCountAndCross := by
  unfold Obligations.RegionsCountAndCross
  refine ⟨⟨?edge, fun r p s => regionEdge_of_stopped p, ?clock, ?freq, ?noRegion⟩, fun r p d s => crossCal_completes,
    fun v s => crossBudgetWrite_completes, ?locked, ?arrive, ?release⟩
  case edge =>
    intro r p s hclock
    obtain ⟨hperiod, hloaded, hunsync⟩ := regionEdge_standing p hclock
    exact ⟨regionEdge_copy p hclock, hperiod, hloaded, hunsync, fun k hk => regionEdge_others r s p hk, regionEdge_only r s p⟩
  case clock =>
    intro r s hr
    exact ⟨if_pos hr, if_pos hr⟩
  case freq =>
    rintro r set es s u hr hset rfl
    refine ⟨_, exec_regionFreqChange hr hset, fun h => modRegion_congr ?_, fun h => modRegion_congr ?_⟩
    · rw [h]
      rfl
    · rw [h]
      rfl
  case noRegion =>
    intro r s hr
    exact ⟨if_neg (Nat.not_lt.mpr hr), if_neg (Nat.not_lt.mpr hr)⟩
  case locked =>
    intro v s hlock
    change execCrossBudgetWrite v s = _
    unfold execCrossBudgetWrite
    rw [hlock]
    rfl
  case arrive =>
    rintro r p tag w es s u hr hexists rfl
    have honly := regionEdges_only r es s
    obtain ⟨hfull, husable, hunusable⟩ := exec_crossingWordArrive (tag := tag) (w := w) (es := es) (s := s) hr hexists
    generalize regionEdges r es s = u at *
    by_cases hlength : 16 ≤ (tget {} (u.region r).cross p).waiting.length
    · obtain ⟨n, hexec⟩ := hfull hlength
      have hcounts := count_counts u .tsu .crossDrop r { slice := (dieFlt u).slice, region := some r } 1
      refine ⟨_, hexec, fun h => absurd h (Nat.not_lt.mpr hlength), fun h => absurd h (Nat.not_lt.mpr hlength),
        fun _ => ⟨?_, slip_slipped .., ?_⟩, partOnly_trans (p := .tsu) honly (partOnly_trans hcounts.part (slip_clock _ r ..).part)⟩
      · rw [region_slip, hcounts.region_eq]
      · exact ((slip_ctrs ..).ctr _ _ (by simp [Ctr.ofSending]) (by omega)).trans (count_ctr ..)
    · have hroom := Nat.not_le.mp hlength
      cases hstanding : (u.region r).usable with
      | true =>
        exact ⟨_, husable hroom hstanding, fun _ _ => ⟨cross_wordQueued .., modRegion_eq_const ..⟩, fun _ h => absurd h (by decide),
          fun h => absurd h hlength, partOnly_trans (p := .tsu) honly (modRegion_only ..)⟩
      | false =>
        obtain ⟨n, hexec⟩ := hunusable hroom hstanding
        refine ⟨_, hexec, fun _ h => absurd h (by decide), fun _ _ => ⟨?_, slip_slipped ..⟩, fun h => absurd h hlength,
          partOnly_trans (p := .tsu) honly (partOnly_trans (modRegion_only ..) (slip_clock _ r ..).part)⟩
        rw [region_slip]
        exact cross_wordQueued ..
  case release =>
    intro r p per w l s hr hexists hclock husable hwaiting
    have hp := port_lt_of_crossExists hexists
    refine ⟨regionEdge r s per, if_pos ⟨hr, hexists⟩, fun hdue => ?_, fun hdue hedges => ?_, fun hdue hedges hl => ?_,
      fun hdue hedges hl => ?_, fun c hdue hedges hl => ?_, regionEdge_only r s per⟩
    · exact regionEdge_holds hr hp hclock husable hwaiting (.inl hdue)
    · exact regionEdge_holds hr hp hclock husable hwaiting (.inr hedges)
    all_goals
      subst hl
      obtain ⟨hgone, honTime, hlate⟩ := regionEdge_releases hr hp hclock husable hwaiting hdue hedges
    · exact hgone
    · exact honTime
    · exact hlate c

end Sys2Proof.Machine

namespace Sys2Proof.Machine

/-! ### Masks of regions (R202) -/

theorem tbit_eq_testBit (x i : Nat) : tbit x i = x.testBit i := by
  unfold tbit
  rw [Nat.testBit_eq_decide_div_mod_eq, Nat.shiftRight_eq_div_pow]

theorem maskBits_two_pow {n r : Nat} (hr : r < n) : maskBits n (2 ^ r) = [r] := by
  have hbit : tbit (2 ^ r) = fun i => decide (i = r) := by
    funext i
    rw [tbit_eq_testBit, Nat.testBit_two_pow, decide_eq_decide]
    exact eq_comm
  unfold maskBits
  rw [hbit, List.filter_eq, List.count_eq_one_of_mem List.nodup_range (List.mem_range.mpr hr)]
  rfl

theorem popcount_pos {m : BitVec 144} (h : m ≠ 0) : 0 < popcount 144 m.toNat := by
  obtain ⟨i, hi, hbit⟩ : ∃ i, i < 144 ∧ m.getLsbD i = true := by
    by_contra hnone
    refine h (BitVec.eq_of_getLsbD_eq fun i hi => ?_)
    rw [BitVec.ofNat_eq_ofNat, BitVec.getLsbD_zero]
    exact Bool.eq_false_iff.mpr fun hbit => hnone ⟨i, hi, hbit⟩
  refine List.length_pos_of_mem (a := i) (List.mem_filter.mpr ⟨List.mem_range.mpr hi, ?_⟩)
  rw [tbit_eq_testBit]
  exact hbit

/-- A region taken off a mask, and the regions that stay. -/
theorem getLsbD_takenOff (m : BitVec 144) {r k : Nat} (hk : k < 144) :
    (m &&& ~~~(BitVec.ofNat 144 (2 ^ r))).getLsbD k = (m.getLsbD k && decide (k ≠ r)) := by
  rw [BitVec.getLsbD_and, BitVec.getLsbD_not, BitVec.getLsbD_ofNat, Nat.testBit_two_pow]
  simp [hk, eq_comm]

/-- The last region of a mask: none is left once it is taken off. -/
theorem takenOff_eq_zero_iff {m : BitVec 144} {r : Nat} (hr : r < 144) (hm : m.getLsbD r = true) :
    m &&& ~~~(BitVec.ofNat 144 (2 ^ r)) = 0 ↔ m = BitVec.ofNat 144 (2 ^ r) := by
  constructor
  · intro hzero
    refine BitVec.eq_of_getLsbD_eq fun k hk => ?_
    have hbit := getLsbD_takenOff m (r := r) hk
    rw [hzero, BitVec.ofNat_eq_ofNat, BitVec.getLsbD_zero] at hbit
    rw [BitVec.getLsbD_ofNat, Nat.testBit_two_pow, decide_eq_true hk, Bool.true_and]
    by_cases hkr : k = r
    · subst hkr
      rw [hm, decide_eq_true rfl]
    · rw [decide_eq_false (Ne.symm hkr)]
      simpa [hkr] using hbit.symm
  · rintro rfl
    exact BitVec.and_not_self _

/-! ### Records of the plate (R212 to R214, R436) -/

/-- `t` differs from `s` in the launch records of the plate, in what the die counts and in its interrupts. -/
structure LogsOnly (s t : State) : Prop where
  part : TsuOnly s t
  plate : t.tsu.plate = { s.tsu.plate with events := t.tsu.plate.events }
  sync : t.tsu.sync = s.tsu.sync
  regions : t.tsu.regions = s.tsu.regions

theorem LogsOnly.trans {s t u : State} (h : LogsOnly s t) (k : LogsOnly t u) : LogsOnly s u where
  part := partOnly_trans (p := .tsu) h.part k.part
  plate := by rw [k.plate, h.plate]
  sync := k.sync.trans h.sync
  regions := k.regions.trans h.regions

theorem CountsOnly.logs {s t : State} (h : CountsOnly .tsu s t) : LogsOnly s t :=
  ⟨h.part, by rw [h.plate_eq], h.sync_eq, by rw [h.tsu]⟩

theorem LogsOnly.armed_eq {s t : State} (h : LogsOnly s t) : t.tsu.plate.armed = s.tsu.plate.armed := by rw [h.plate]

theorem LogsOnly.fault_eq {s t : State} (h : LogsOnly s t) : t.tsu.plate.fault = s.tsu.plate.fault := by rw [h.plate]

theorem launchRecord_logs (s : State) (x : LaunchRec) : LogsOnly s (launchRecord s x) := by
  unfold launchRecord
  split
  · exact (count_counts ..).logs
  · exact ⟨⟨rfl, rfl, rfl⟩, rfl, rfl, rfl⟩

/-- A record finds its place while the queue has room (R213). -/
theorem launchRecord_events {s : State} (x : LaunchRec) (h : s.tsu.plate.events.length < 256) :
    (launchRecord s x).tsu.plate.events = s.tsu.plate.events ++ [x] := by
  unfold launchRecord
  rw [if_neg (Nat.not_le.mpr h)]
  rfl

/-- An entry fired everywhere adds at most a record to the plate. -/
theorem plateFired_logs (s : State) (a : Armed) (region count late : Nat) (sample : Int) :
    LogsOnly s (plateFired s a region count late sample) := by
  unfold plateFired
  extract_lets s1 s2 s3 s4
  have h2 : LogsOnly s s2 := by
    simp only [s2]
    split
    · exact (event_counts ..).logs.trans (count_counts ..).logs
    · exact (event_counts ..).logs
  have h3 : LogsOnly s s3 := by
    simp only [s3]
    split
    · exact h2.trans ((event_counts ..).logs.trans (launchRecord_logs ..))
    · split
      · exact h2.trans (launchRecord_logs ..)
      · exact h2
  exact h3.trans ((hist_counts ..).logs.trans (sample_counts ..).logs)

/-- An entry that was not held and not late leaves no record (R212, R213). -/
theorem plateFired_onTime {s : State} {a : Armed} {region count late : Nat} {sample : Int} (hkind : a.kind = 0)
    (hlate : a.late = false) (hnone : a.lateCount = 0) :
    (plateFired s a region count late sample).tsu.plate.events = s.tsu.plate.events := by
  unfold plateFired
  simp only [hkind, hlate, hnone]
  simp [(sample_counts ..).plate_eq, (hist_counts ..).plate_eq, (event_counts ..).plate_eq]

/-- An entry late in a region leaves a LATE record (R213). -/
theorem plateFired_late {s : State} {a : Armed} {region count late : Nat} {sample : Int} (hkind : a.kind = 0)
    (hlate : 0 < a.lateCount) (hroom : s.tsu.plate.events.length < 256) :
    (plateFired s a region count late sample).tsu.plate.events =
      s.tsu.plate.events ++ [armedRecord a 1 region a.lateCount late] := by
  have hcounted := ((event_counts s .tsu 0x020 (dieFlt s) 1).trans
    (count_counts (s.event .tsu 0x020 (dieFlt s) 1) .tsu .late 0 (dieFlt (s.event .tsu 0x020 (dieFlt s) 1)) 1)).plate_eq
  unfold plateFired
  simp only [hkind, hlate]
  simp only [ne_eq, not_true_eq_false, if_false, decide_true, Bool.or_true, if_true]
  rw [(sample_counts ..).plate_eq, (hist_counts ..).plate_eq, launchRecord_events _ (by rw [hcounted]; exact hroom), hcounted]

/-- A step fault changes the plate's records and STEP_FAULT, which takes the first occurrence (R214). -/
theorem stepFault_plate (s : State) (a : Armed) (kind region count : Nat) :
    (stepFault s a kind region count).tsu.plate =
      let e := (launchRecord (s.event .tsu 0x026 (dieFlt s) 1) (armedRecord a kind region count 0)).tsu.plate.events
      if s.tsu.plate.fault = true then { s.tsu.plate with events := e }
      else { s.tsu.plate with
        events := e, fault := true, faultRegion := region, faultEntry := a.entry, faultStep := a.step.extractLsb' 0 32 } := by
  have hlogs := (event_counts s .tsu 0x026 (dieFlt s) 1).logs.trans
    (launchRecord_logs (s.event .tsu 0x026 (dieFlt s) 1) (armedRecord a kind region count 0))
  unfold stepFault
  dsimp only
  generalize launchRecord (s.event .tsu 0x026 (dieFlt s) 1) (armedRecord a kind region count 0) = u at hlogs ⊢
  rw [hlogs.fault_eq]
  split
  · exact hlogs.plate
  · rw [(irq_counts ..).plate_eq, State.modPlate_plate, hlogs.plate]

theorem stepFault_keeps (s : State) (a : Armed) (kind region count : Nat) : TsuOnly s (stepFault s a kind region count) ∧
    (stepFault s a kind region count).tsu.sync = s.tsu.sync ∧
    (stepFault s a kind region count).tsu.regions = s.tsu.regions := by
  have hlogs := (event_counts s .tsu 0x026 (dieFlt s) 1).logs.trans
    (launchRecord_logs (s.event .tsu 0x026 (dieFlt s) 1) (armedRecord a kind region count 0))
  unfold stepFault
  dsimp only
  generalize launchRecord (s.event .tsu 0x026 (dieFlt s) 1) (armedRecord a kind region count 0) = u at hlogs ⊢
  split
  · exact ⟨hlogs.part, hlogs.sync, hlogs.regions⟩
  · have hirq := irq_counts (u.modPlate fun p => { p with
      fault := true, faultRegion := region, faultEntry := a.entry, faultStep := a.step.extractLsb' 0 32 }) 8
    exact ⟨partOnly_trans (p := .tsu) hlogs.part (partOnly_trans (modPlate_only ..) hirq.part), hirq.sync_eq.trans hlogs.sync,
      (congrArg Tsu.regions hirq.tsu).trans hlogs.regions⟩

theorem stepFault_events {s : State} (a : Armed) (kind region count : Nat) (h : s.tsu.plate.events.length < 256) :
    (stepFault s a kind region count).tsu.plate.events = s.tsu.plate.events ++ [armedRecord a kind region count 0] := by
  have hevent := (event_counts s .tsu 0x026 (dieFlt s) 1).plate_eq
  rw [stepFault_plate, launchRecord_events _ (by rw [hevent]; exact h), hevent]
  dsimp only
  split <;> rfl

theorem stepFault_armed (s : State) (a : Armed) (kind region count : Nat) :
    (stepFault s a kind region count).tsu.plate.armed = s.tsu.plate.armed := by
  rw [stepFault_plate]
  dsimp only
  split <;> rfl

theorem stepFault_fault (s : State) (a : Armed) (kind region count : Nat) :
    (stepFault s a kind region count).tsu.plate.fault = true := by
  rw [stepFault_plate]
  dsimp only
  split
  · assumption
  · rfl

/-- The first step fault names its region, entry and step. -/
theorem stepFault_first {s : State} (a : Armed) (kind region count : Nat) (h : s.tsu.plate.fault = false) :
    (stepFault s a kind region count).tsu.plate.faultRegion = region ∧
      (stepFault s a kind region count).tsu.plate.faultEntry = a.entry ∧
      (stepFault s a kind region count).tsu.plate.faultStep = a.step.extractLsb' 0 32 := by
  rw [stepFault_plate, h]
  exact ⟨rfl, rfl, rfl⟩

/-! ### An entry that leaves the queue (R213, R214) -/

theorem kernelDone_of_left {s : State} {a : Armed} (h : a.left ≠ 0) : kernelDone s a = s := if_pos h

theorem kernelDone_of_faulted {s : State} {a : Armed} (h : a.left = 0) (hall : a.faulted = popcount 144 a.mask.toNat) :
    kernelDone s a = dropArmed s a := by
  unfold kernelDone
  rw [if_neg (fun hne => hne h)]
  exact if_pos hall

theorem kernelDone_of_fired {s : State} {a : Armed} (h : a.left = 0) (hsome : a.faulted ≠ popcount 144 a.mask.toNat) :
    ∃ region, kernelDone s a = plateFired (dropArmed s a) a region (popcount 144 a.mask.toNat) a.maxLate a.maxLate := by
  unfold kernelDone
  rw [if_neg (fun hne => hne h)]
  exact ⟨_, if_neg hsome⟩

/-- An armed entry as a FIRED frame of region `r` leaves it (R213, R443). -/
def firedBy (r : Nat) (f : W64) (a : Armed) : Armed :=
  let x := bits f.toNat 31 0
  { a with
    left := a.left &&& ~~~(BitVec.ofNat 144 (2 ^ r))
    lateCount := a.lateCount + bit (tbit f.toNat 46)
    maxLate := max a.maxLate x
    maxRegion := if a.maxRegion = 255 ∨ a.maxLate < x then r else a.maxRegion }

/-- The die with the frame noted at its entry, and counted. -/
def firedNoted (r : Nat) (f : W64) (a : Armed) (s : State) : State :=
  (putArmed s a (firedBy r f a)).event .tsu 0x021 { slice := (dieFlt s).slice, region := some r } 1

theorem exec_firedFrameReceive {r : Nat} {f : W64} {a : Armed} {s : State} (hr : r < 144) (hframe : bits f.toNat 63 60 = 1)
    (harmed : s.tsu.plate.armed = [a]) (hentry : a.entry = bits f.toNat 59 47) (hleft : a.left.getLsbD r = true) :
    exec (.firedFrameReceive r f) s = .next (kernelDone (firedNoted r f a s) (firedBy r f a)) := by
  have hfind : (s.tsu.plate.armed.find? fun x => x.entry == bits f.toNat 59 47 && x.left.getLsbD r) = some a := by
    rw [harmed]
    simp [hentry, hleft]
  change execFiredFrameReceive r f s = _
  unfold execFiredFrameReceive onRegion
  rw [if_pos hr]
  dsimp only
  rw [if_neg (fun h => h hframe), hfind]
  rfl

theorem firedNoted_plate {r : Nat} {f : W64} {a : Armed} {s : State} (harmed : s.tsu.plate.armed = [a]) :
    (firedNoted r f a s).tsu.plate = { s.tsu.plate with armed := [firedBy r f a] } := by
  unfold firedNoted putArmed
  rw [(event_counts ..).plate_eq, State.modPlate_plate, harmed]
  simp [List.replace]

theorem firedNoted_only (r : Nat) (f : W64) (a : Armed) (s : State) : TsuOnly s (firedNoted r f a s) :=
  partOnly_trans (p := .tsu) (modPlate_only ..) (event_counts ..).part

/-- A FIRED frame of one of several regions left: the entry waits for the others. -/
theorem firedFrame_more {r : Nat} {f : W64} {a : Armed} {s : State} (hr : r < 144) (harmed : s.tsu.plate.armed = [a])
    (hleft : a.left.getLsbD r = true) (hmore : a.left ≠ BitVec.ofNat 144 (2 ^ r)) :
    (kernelDone (firedNoted r f a s) (firedBy r f a)).tsu.plate = { s.tsu.plate with armed := [firedBy r f a] } := by
  rw [kernelDone_of_left fun h => hmore ((takenOff_eq_zero_iff hr hleft).mp h), firedNoted_plate harmed]

/-- The FIRED frame of the last region left: the entry leaves the queue, fired everywhere. -/
theorem firedFrame_last {r : Nat} {f : W64} {a : Armed} {s : State} (hr : r < 144) (hleft : a.left.getLsbD r = true)
    (hlast : a.left = BitVec.ofNat 144 (2 ^ r)) (hfaulted : a.faulted = 0) (hmask : a.mask ≠ 0) :
    ∃ region, kernelDone (firedNoted r f a s) (firedBy r f a) = plateFired (dropArmed (firedNoted r f a s) (firedBy r f a))
      (firedBy r f a) region (popcount 144 a.mask.toNat) (firedBy r f a).maxLate (firedBy r f a).maxLate := by
  have hsome : (firedBy r f a).faulted ≠ popcount 144 (firedBy r f a).mask.toNat := by
    have hpos := popcount_pos hmask
    have hnone : (firedBy r f a).faulted = 0 := hfaulted
    rw [hnone]
    exact Nat.ne_of_lt hpos
  exact kernelDone_of_fired ((takenOff_eq_zero_iff hr hleft).mpr hlast) hsome

theorem dropArmed_firedNoted {r : Nat} {f : W64} {a : Armed} {s : State} (harmed : s.tsu.plate.armed = [a]) :
    (dropArmed (firedNoted r f a s) (firedBy r f a)).tsu.plate = { s.tsu.plate with armed := [] } := by
  unfold dropArmed
  rw [State.modPlate_plate, firedNoted_plate harmed]
  simp

theorem firedFrame_only (r : Nat) (f : W64) (a : Armed) (s : State) :
    TsuOnly s (kernelDone (firedNoted r f a s) (firedBy r f a)) := by
  have hnoted := firedNoted_only r f a s
  have hdropped : TsuOnly s (dropArmed (firedNoted r f a s) (firedBy r f a)) :=
    partOnly_trans (p := .tsu) hnoted (modPlate_only ..)
  unfold kernelDone
  split
  · exact hnoted
  · dsimp only
    split
    · exact hdropped
    · exact partOnly_trans (p := .tsu) hdropped (plateFired_logs ..).part

/-! ### An entry due in a region that may not fire (R178, R214) -/

/-- An entry faulted in its one region `r`. -/
def faultedIn (r : Nat) (a : Armed) : Armed :=
  { a with left := a.left &&& ~~~(BitVec.ofNat 144 (2 ^ r)), faulted := a.faulted + 1 }

/-- The entry faulted in the plate, and dropped by its region. -/
def faultNoted (r : Nat) (a : Armed) (s : State) : State :=
  (putArmed s a (faultedIn r a)).modRegion r fun q => { q with
    armed := q.armed.filter fun x => !(x.entry == a.entry && x.t == a.t) }

theorem unsyncFault_single {r : Nat} {a : Armed} {s : State} (hr : r < 144) (hleft : a.left = BitVec.ofNat 144 (2 ^ r))
    (hunusable : (s.region r).usable = false) :
    unsyncFault s a = kernelDone (stepFault (faultNoted r a s) (faultedIn r a) 6 r 1) (faultedIn r a) := by
  have hvalue : a.left.toNat = 2 ^ r := by
    rw [hleft, BitVec.toNat_ofNat]
    exact Nat.mod_eq_of_lt (Nat.pow_lt_pow_right (by decide) hr)
  have hbad : ((maskBits 144 a.left.toNat).filter fun r => !(s.region r).usable) = [r] := by
    rw [hvalue, maskBits_two_pow hr]
    simp [hunusable]
  unfold unsyncFault
  dsimp only
  rw [hbad]
  simp only [List.foldl_cons, List.foldl_nil, List.length_singleton, Nat.zero_add]
  rfl

theorem faultNoted_plate {r : Nat} {a : Armed} {s : State} (harmed : s.tsu.plate.armed = [a]) :
    (faultNoted r a s).tsu.plate = { s.tsu.plate with armed := [faultedIn r a] } := by
  change (putArmed s a (faultedIn r a)).tsu.plate = _
  unfold putArmed
  rw [State.modPlate_plate, harmed]
  simp [List.replace]

/-- The only entry, due in its only region, which is not usable: it faults and leaves the queue. -/
theorem kernelLaunch_faults {r : Nat} {es : List W32} {a : Armed} {s u : State} (hr : r < 144) (hu : u = regionEdges r es s)
    (hunusable : (u.region r).usable = false) (harmed : u.tsu.plate.armed = [a]) (hleft : a.left = BitVec.ofNat 144 (2 ^ r))
    (hmask : a.mask = a.left) (hfaulted : a.faulted = 0) (hdue : stGe (u.now .tsu) a.t = true) :
    exec (.kernelLaunch r es) s = .next (dropArmed (stepFault (faultNoted r a u) (faultedIn r a) 6 r 1) (faultedIn r a)) := by
  subst hu
  generalize hu : regionEdges r es s = u at *
  have hbit : a.left.getLsbD r = true := by
    rw [hleft, BitVec.getLsbD_ofNat, Nat.testBit_two_pow_self, decide_eq_true hr]
    rfl
  have hlist : (u.tsu.plate.armed.filter fun x => x.left.getLsbD r && stGe (u.now .tsu) x.t) = [a] := by
    rw [harmed]
    simp [hbit, hdue]
  have hnone : (faultedIn r a).left = 0 := (takenOff_eq_zero_iff hr hbit).mpr hleft
  have hone : popcount 144 (faultedIn r a).mask.toNat = 1 := by
    have hmaskNat : (faultedIn r a).mask.toNat = 2 ^ r := by
      change a.mask.toNat = _
      rw [hmask, hleft, BitVec.toNat_ofNat]
      exact Nat.mod_eq_of_lt (Nat.pow_lt_pow_right (by decide) hr)
    unfold popcount
    rw [hmaskNat, maskBits_two_pow hr]
    rfl
  have hall : (faultedIn r a).faulted = popcount 144 (faultedIn r a).mask.toNat := by
    rw [hone]
    exact congrArg (· + 1) hfaulted
  change execKernelLaunch r es s = _
  unfold execKernelLaunch onRegion
  rw [if_pos hr]
  dsimp only
  rw [hu, if_neg (by rw [hunusable]; decide), hlist, List.foldl_cons, List.foldl_nil, unsyncFault_single hr hleft hunusable,
    kernelDone_of_faulted hnone hall]

/-! ### Conditions (R209, R210) -/

theorem exec_conditionDecide {entry : Nat} {a : Armed} {s : State}
    (h : (s.tsu.plate.armed.find? fun x => x.entry == entry && x.cond == .waiting && decisionDue s x) = some a) :
    exec (.conditionDecide entry) s = .next (decide1 a s) := by
  change execConditionDecide entry s = _
  unfold execConditionDecide
  rw [h]

/-- An entry is held no longer than to the next step's start (R210). -/
theorem holdEnd_le (a : Armed) : stLater (holdEnd a) a.nextStart = false := by
  unfold holdEnd
  dsimp only
  split
  · simp [stLater, stDiff]
  · rename_i h
    exact Bool.eq_false_iff.mpr h

/-- What a decision leaves: the counters, the regions and the other part. -/
theorem decide1_keeps (a : Armed) (s : State) : (decide1 a s).tsu.sync = s.tsu.sync ∧
    (decide1 a s).tsu.regions = s.tsu.regions ∧ TsuOnly s (decide1 a s) := by
  unfold decide1
  split
  · exact ⟨rfl, rfl, rfl, rfl, rfl⟩
  · split
    · have hlogs := (event_counts (dropArmed s a) .tsu 0x025 (dieFlt (dropArmed s a)) 1).logs.trans (launchRecord_logs _
        (armedRecord a 4 (firstTarget a) (popcount 144 a.mask.toNat) 0))
      exact ⟨hlogs.sync, hlogs.regions, hlogs.part⟩
    · split
      · exact ⟨rfl, rfl, rfl, rfl, rfl⟩
      · obtain ⟨hpart, hsync, hregions⟩ :=
          stepFault_keeps (dropArmed s a) a 5 (firstTarget a) (popcount 144 a.mask.toNat)
        exact ⟨hsync, hregions, hpart⟩

section
variable {a : Armed} {s : State}

theorem decide1_holds (h : entryHolds s a.e = true) : decide1 a s = putArmed s a { a with cond := .released } := if_pos h

variable (hnot : entryHolds s a.e = false)
include hnot

/-- Under SKIP the entry is dropped with a record of its own (R210, R213). -/
theorem decide1_skip (h : entPolicy a.e = 1) : let t := decide1 a s
    t.tsu.plate.armed = s.tsu.plate.armed.erase a ∧ t.tsu.plate.fault = s.tsu.plate.fault ∧
      (s.tsu.plate.events.length < 256 → t.tsu.plate.events =
        s.tsu.plate.events ++ [armedRecord a 4 (firstTarget a) (popcount 144 a.mask.toNat) 0]) := by
  have heq : decide1 a s = launchRecord ((dropArmed s a).event .tsu 0x025 (dieFlt (dropArmed s a)) 1)
      (armedRecord a 4 (firstTarget a) (popcount 144 a.mask.toNat) 0) := by
    unfold decide1
    rw [hnot, if_neg Bool.false_ne_true, if_pos h]
  have hlogs := (event_counts (dropArmed s a) .tsu 0x025 (dieFlt (dropArmed s a)) 1).logs.trans (launchRecord_logs _
    (armedRecord a 4 (firstTarget a) (popcount 144 a.mask.toNat) 0))
  rw [heq]
  refine ⟨hlogs.armed_eq, hlogs.fault_eq, fun hroom => ?_⟩
  have hevent := (event_counts (dropArmed s a) .tsu 0x025 (dieFlt (dropArmed s a)) 1).plate_eq
  rw [launchRecord_events _ (by rw [hevent]; exact hroom), hevent]
  rfl

theorem decide1_hold (h : entPolicy a.e = 2) : decide1 a s = putArmed s a { a with cond := .holding } := by
  unfold decide1
  rw [hnot, if_neg Bool.false_ne_true, if_neg (by omega), if_pos h]

theorem decide1_fault (h : entPolicy a.e = 3) :
    decide1 a s = stepFault (dropArmed s a) a 5 (firstTarget a) (popcount 144 a.mask.toNat) := by
  unfold decide1
  rw [hnot, if_neg Bool.false_ne_true, if_neg (by omega), if_neg (by omega)]

end

/-- Settles O21: a FIRED frame by `firedFrame_last` and `firedFrame_more`, a fault by `kernelLaunch_faults`, a decision by the
policies of `decide1`. -/
theorem firedEntriesAndConditionsAreRecorded : Obligations.FiredEntriesAndConditionsAreRecorded := by
  unfold Obligations.FiredEntriesAndConditionsAreRecorded
  refine ⟨⟨?fired, ?faults, fun s => ⟨_, rfl, rfl, rfl⟩⟩, ?decide, ?expire, fun a => ⟨holdEnd_le a, fun h => ?hold⟩⟩
  case fired =>
    intro r f a s hr hframe harmed hentry hleft hfaulted hmask
    refine ⟨_, exec_firedFrameReceive hr hframe harmed hentry hleft, fun hlast => ?_, fun hmore => ?_, ?_,
      firedFrame_only r f a s⟩
    · obtain ⟨region, hfired⟩ := firedFrame_last (f := f) (s := s) hr hleft hlast hfaulted hmask
      have hdropped := dropArmed_firedNoted (r := r) (f := f) harmed
      rw [hfired]
      refine ⟨?_, fun hkind hcount hlate hontime => ?_, fun hkind hcount hlate hroom => ?_⟩
      · rw [(plateFired_logs ..).armed_eq, hdropped]
      · have hnone : (firedBy r f a).lateCount = 0 := by simp [firedBy, hcount, hontime, bit]
        rw [plateFired_onTime (a := firedBy r f a) hkind hlate hnone, hdropped]
      · have hone : (firedBy r f a).lateCount = 1 := by simp [firedBy, hcount, hlate, bit]
        refine ⟨armedRecord (firedBy r f a) 1 region (firedBy r f a).lateCount (firedBy r f a).maxLate, ?_, rfl, rfl, hone, rfl, rfl⟩
        rw [plateFired_late (a := firedBy r f a) hkind (by omega) (by rw [hdropped]; exact hroom), hdropped]
    · refine ⟨firedBy r f a, ?_, ?_, fun k hk hne => ?_, rfl, rfl, rfl⟩
      · rw [firedFrame_more hr harmed hleft hmore]
      · exact (getLsbD_takenOff _ hr).trans (by simp)
      · exact (getLsbD_takenOff _ hk).trans (by simp [hne])
    · by_cases hlast : a.left = BitVec.ofNat 144 (2 ^ r)
      · obtain ⟨region, hfired⟩ := firedFrame_last (f := f) (s := s) hr hleft hlast hfaulted hmask
        rw [hfired, (plateFired_logs ..).fault_eq, dropArmed_firedNoted harmed]
      · rw [firedFrame_more hr harmed hleft hlast]
  case faults =>
    intro r es a s u hr hu hunusable harmed hleft hmask hfaulted hdue hclear hroom
    refine ⟨_, kernelLaunch_faults hr hu hunusable harmed hleft hmask hfaulted hdue, ?_⟩
    have honly : TsuOnly s u := by rw [hu]; exact regionEdges_only r es s
    have hplate := faultNoted_plate (r := r) harmed
    have hnoted : TsuOnly u (faultNoted r a u) := partOnly_trans (p := .tsu) (modPlate_only ..) (modRegion_only ..)
    have hregion : ((faultNoted r a u).region r).armed =
        (u.region r).armed.filter fun x => !(x.entry == a.entry && x.t == a.t) := by
      unfold faultNoted
      rw [region_modRegion]
      rfl
    generalize faultNoted r a u = v at hplate hnoted hregion ⊢
    obtain ⟨hpart, -, hregions⟩ := stepFault_keeps v (faultedIn r a) 6 r 1
    obtain ⟨hfaultRegion, hfaultEntry, hfaultStep⟩ :=
      stepFault_first (s := v) (faultedIn r a) 6 r 1 (by rw [hplate]; exact hclear)
    refine ⟨?_, stepFault_fault .., hfaultRegion, hfaultEntry, hfaultStep,
      ⟨armedRecord (faultedIn r a) 6 r 1 0, ?_, rfl, rfl, rfl, rfl⟩, fun x hx => ?_,
      partOnly_trans (p := .tsu) honly (partOnly_trans hnoted (partOnly_trans hpart (modPlate_only ..)))⟩
    · unfold dropArmed
      rw [State.modPlate_plate, stepFault_armed, hplate]
      simp
    · have hevents := stepFault_events (faultedIn r a) 6 r 1 (s := v) (by rw [hplate]; exact hroom)
      rw [hplate] at hevents
      exact hevents
    · have hqueue : ((dropArmed (stepFault v (faultedIn r a) 6 r 1) (faultedIn r a)).region r).armed =
          (u.region r).armed.filter fun x => !(x.entry == a.entry && x.t == a.t) := by
        rw [← hregion]
        exact congrArg Region.armed (region_eq_of_regions hregions r)
      rw [hqueue] at hx
      rintro ⟨hentry, ht⟩
      simpa [hentry, ht] using (List.mem_filter.mp hx).2
  case decide =>
    intro entry a s hfind
    obtain ⟨hsync, hregions, honly⟩ := decide1_keeps a s
    refine ⟨_, exec_conditionDecide hfind, fun h => ?_, fun h hpolicy => ?_, fun h hpolicy => ?_, fun h hpolicy => ?_, hsync,
      hregions, honly⟩
    · rw [decide1_holds h]
      rfl
    · obtain ⟨harmed, hfault, hevents⟩ := decide1_skip h hpolicy
      exact ⟨harmed, hfault, fun hroom => ⟨_, hevents hroom, rfl, rfl, rfl⟩⟩
    · rw [decide1_hold h hpolicy]
      rfl
    · rw [decide1_fault h hpolicy]
      refine ⟨?_, stepFault_fault .., fun hclear => ?_, fun hroom =>
        ⟨armedRecord a 5 (firstTarget a) (popcount 144 a.mask.toNat) 0, ?_, rfl, rfl, rfl⟩⟩
      · rw [stepFault_armed]
        rfl
      · obtain ⟨-, hentry, -⟩ := stepFault_first (s := dropArmed s a) a 5 (firstTarget a) (popcount 144 a.mask.toNat) hclear
        exact hentry
      · rw [stepFault_events (s := dropArmed s a) _ _ _ _ hroom]
        rfl
  case expire =>
    intro entry a s hfind
    refine ⟨putArmed s a { a with cond := .released, kind := 3 }, ?_, rfl, rfl⟩
    change execHoldExpire entry s = _
    unfold execHoldExpire
    rw [hfind]
  case hold =>
    have hnot : stLater (a.t + tu (entHoldLimit a.e * 64)) a.nextStart = false := h
    unfold holdEnd
    dsimp only
    rw [hnot, if_neg Bool.false_ne_true]
    rfl

end Sys2Proof.Machine

namespace Sys2Proof.Machine

open Sys2Proof

/-! ### The next entry of a run of steps (R190, R194, R195, R203) -/

/-- An entry repeats in the step that `repeatIn` counts to (R194). -/
theorem repeatIn_repeats (e : Entry) (n : Step) :
    (n + BitVec.ofNat 48 (repeatIn e n) - BitVec.ofNat 48 (entPhase e)).toNat % max 1 (entDiv e) = 0 := by
  have hsum : n + BitVec.ofNat 48 (repeatIn e n) - BitVec.ofNat 48 (entPhase e) =
      (n - BitVec.ofNat 48 (entPhase e)) + BitVec.ofNat 48 (repeatIn e n) := by
    rw [BitVec.sub_eq_add_neg, BitVec.sub_eq_add_neg, BitVec.add_assoc, BitVec.add_assoc, BitVec.add_comm (BitVec.ofNat 48 _)]
  have hx := (n - BitVec.ofNat 48 (entPhase e)).isLt
  rw [hsum, BitVec.toNat_add, BitVec.toNat_ofNat, Nat.add_mod_mod]
  unfold repeatIn
  dsimp only
  generalize (n - BitVec.ofNat 48 (entPhase e)).toNat = x at *
  have hd : 0 < max 1 (entDiv e) := by omega
  generalize max 1 (entDiv e) = d at *
  rcases Nat.le_total ((d - x % d) % d) (2 ^ 48 - x) with h | h
  · rw [Nat.min_eq_left h]
    have hmul : (x + (d - x % d) % d) % d = 0 := by
      have hdiv := Nat.div_add_mod x d
      have hlt := Nat.mod_lt x hd
      rw [Nat.add_mod_mod, show x + (d - x % d) = d * (x / d) + d by omega, Nat.add_mod_right, Nat.mul_mod_right]
    rcases Nat.lt_or_ge (x + (d - x % d) % d) (2 ^ 48) with hlt | hge
    · rw [Nat.mod_eq_of_lt hlt, hmul]
    · rw [show x + (d - x % d) % d = 2 ^ 48 by omega, Nat.mod_self, Nat.zero_mod]
  · rw [Nat.min_eq_right h, Nat.add_sub_cancel' hx.le, Nat.mod_self, Nat.zero_mod]

/-- An entry of a run's bank that falls due `n` steps into the run, at or after the cursor. -/
structure FallsDue (p : Plate) (q : Piece) (n k : Nat) (e : Entry) : Prop where
  bank : (k, e) ∈ (if q.bank = 0 then p.active else if q.bank = 1 then p.other else [])
  valid : entValid e = true
  repeats : ∃ m, (stepDiff p.curStep q.first).toNat ≤ m ∧ n = m + repeatIn e (q.first + BitVec.ofNat 48 m)
  inRun : ∀ c, q.count = some c → n < c

/-- What a run yields falls due in it. -/
theorem pieceNext_fallsDue {p : Plate} {q : Piece} {d : Due} (h : pieceNext p q = some d) :
    ∃ n, FallsDue p q n d.entry d.e ∧ d.step = q.first + BitVec.ofNat 48 n ∧ d.start = q.start + tu (n * q.len) ∧
      d.off = entOffset d.e := by
  unfold pieceNext at h
  extract_lets bank lo here at_ best at h
  have hat : ∀ k e, ∃ m, lo ≤ m ∧ at_ k e = m + repeatIn e (q.first + BitVec.ofNat 48 m) := by
    intro k e
    refine ⟨_, ?_, rfl⟩
    split
    · split
      · exact Nat.le_succ lo
      · exact le_rfl
    · exact le_rfl
  have hbest : ∀ x, best = some x → FallsDue p q x.1 x.2.1 x.2.2 := by
    refine List.foldlRecOn (motive := fun b => ∀ x : Nat × Nat × Entry, b = some x → FallsDue p q x.1 x.2.1 x.2.2) bank _
      (by simp) ?_
    intro b hb y hy x hx
    dsimp only at hx
    split at hx
    · exact hb x hx
    · split at hx
      · exact hb x hx
      · rename_i hvalid hcount
        have hdue : FallsDue p q (at_ y.1 y.2) y.1 y.2 := by
          refine ⟨hy, by simpa using hvalid, hat y.1 y.2, fun c hc => ?_⟩
          simpa [hc] using hcount
        split at hx
        · exact Option.some.inj hx ▸ hdue
        · split at hx
          · exact Option.some.inj hx ▸ hdue
          · exact hb x hx
  obtain ⟨x, hx, rfl⟩ := Option.map_eq_some_iff.mp h
  exact ⟨x.1, hbest x hx, rfl, rfl, rfl⟩

/-! ### Arming (R203, R205, R214, R218) -/

/-- A KERNEL entry as it is armed: its T, its target regions, its condition and whether it is short (R203, R205). -/
theorem armedOf_kernel {s : State} {d : Due} {mask : BitVec 144} (h : entAction d.e = 1) : let a := armedOf s d mask
    a.entry = d.entry ∧ a.e = d.e ∧ a.step = d.step ∧ a.t = d.start + tu d.off ∧ a.left = mask ∧
      (a.cond = .none_ ↔ entPolicy d.e = 0) ∧ a.short = decide (0 < stDiff a.t (s.now .tsu) ∧ stDiff a.t (s.now .tsu) < 16384) := by
  unfold armedOf
  refine ⟨rfl, rfl, rfl, rfl, by simp [h], ?_, rfl⟩
  dsimp only
  split <;> simp_all

/-- The sequencer's state with `a`, of due entry `d`, armed and the cursor past it. -/
def entryArmed (d : Due) (a : Armed) (s : State) : State :=
  s.modPlate fun p => { platePass d p with
    armed := p.armed ++ [a], lastArm := some s.tsu.b.perf.cycles }

/-- The same with a short entry counted in ARM_SHORT (R205). -/
def shortCounted (d : Due) (a : Armed) (s : State) : State :=
  if a.short then (entryArmed d a s).count .tsu .armShort 0 (dieFlt (entryArmed d a s)) 1 else entryArmed d a s

/-- Arming changes the plate, the counters and the events: ARM_SHORT has no share in the slice accounting (R320). -/
theorem shortCounted_frame (d : Due) (a : Armed) (s : State) : let t := shortCounted d a s
    t.tsu.plate = (entryArmed d a s).tsu.plate ∧ t = { s with tsu := { s.tsu with plate := t.tsu.plate, b := t.tsu.b } } := by
  unfold shortCounted
  split <;> exact ⟨rfl, rfl⟩

theorem shortCounted_ctr (d : Due) (a : Armed) (s : State) : ((shortCounted d a s).base .tsu).ctr .armShort 0 =
    (s.base .tsu).ctr .armShort 0 + if a.short then 1 else 0 := by
  unfold shortCounted
  split
  · exact count_ctr ..
  · rfl

section
variable {d : Due} {s : State} (hnext : plateNext s.tsu.plate s.tsu.turn = some (d, 0)) (hopen : s.tsu.sync.closed = false)
  (hbarred : armBarred s (d.start + tu d.off) = false)
include hnext hopen hbarred

theorem exec_entryArm_armed (htime : s.tsu.b.t.noTime = false) (hrun : plateStopped s d.step = false)
    (hdue : stLater (d.start + tu d.off) (s.now .tsu + tu (armAhead s)) = false) (hkernel : entAction d.e = 1)
    (hmask : maskOf s.tsu.plate.groups (entTarget d.e % 256) ≠ 0)
    (hlast : ∀ c, s.tsu.plate.lastArm = some c → 4 ≤ (s.tsu.b.perf.cycles - c).toNat)
    (hroom : armRoom s false (maskOf s.tsu.plate.groups (entTarget d.e % 256)) = true) :
    exec .entryArm s = .next (shortCounted d (armedOf s d (maskOf s.tsu.plate.groups (entTarget d.e % 256))) s) := by
  have hpaced : (s.tsu.plate.lastArm.any fun c => decide ((s.tsu.b.perf.cycles - c).toNat < 4)) = false := by
    rw [Option.any_eq_false]
    intro c hc
    simpa using hlast c hc
  change execEntryArm s = _
  unfold execEntryArm
  rw [hnext]
  dsimp -zeta only
  extract_lets t now groups mask pass cyc a s1
  have hmaskEq : mask = maskOf s.tsu.plate.groups (entTarget d.e % 256) := if_pos hkernel
  have hmany : ¬(entAction d.e = 1 ∧ mask = 0) := fun h => hmask (hmaskEq.symm.trans h.2)
  have hqueues : armRoom s (entAction d.e != 1) mask = true := by
    rw [hmaskEq, hkernel]
    exact hroom
  simp only [t, now, cyc, hopen, hbarred, htime, hrun, hdue, hpaced, hqueues, if_neg hmany, Bool.false_eq_true, if_false,
    Bool.not_true, Bool.or_false]
  clear_value mask
  subst hmaskEq
  rfl

/-- In NO_TIME, and while the plate is stopped, an entry whose T has come is passed and counted (R214, R218). -/
theorem exec_entryArm_passed (hhalt : s.tsu.b.t.noTime = true ∨ plateStopped s d.step = true)
    (hcome : stGe (s.now .tsu) (d.start + tu d.off) = true) : exec .entryArm s = .next
      ((s.modPlate (platePass d)).count .tsu (if s.tsu.b.t.noTime then .plateNoTime else .plateStopped) 0 (dieFlt s) 1) := by
  change execEntryArm s = _
  unfold execEntryArm
  rw [hnext]
  dsimp only
  rw [hopen, hbarred, hcome]
  cases htime : s.tsu.b.t.noTime with
  | true => rfl
  | false =>
    rw [hhalt.resolve_left (by rw [htime]; decide)]
    rfl

end

/-! ### ARM frames in a region (R203, R205, R442) -/

/-- The entry of an ARM frame as a region takes it: late after its T, short within 256 ns of it. -/
def Region.armTaken (q : Region) (entry : Nat) (cond : Bool) (x : St) (arg : W32) : RegArm :=
  { entry, t := x, arg, cond, late := decide (0 < copyDiff q.copy x)
    short := decide (-(16384 * 2 ^ 16) < copyDiff q.copy x ∧ copyDiff q.copy x ≤ 0) }

theorem exec_regionArmReceive {r entry : Nat} {cond : Bool} {x : St} {arg : W32} {s : State} (hr : r < 144) :
    exec (.regionArmReceive r entry cond x arg) s = .next (if 16 ≤ (s.region r).armed.length then s
      else s.modRegion r fun q => { q with armed := q.armed ++ [(s.region r).armTaken entry cond x arg] }) := by
  change execRegionArmReceive r entry cond x arg s = _
  exact onRegion_next.mpr ⟨hr, rfl⟩

/-- Settles O19: what a run yields by `pieceNext_fallsDue`, the sequencer by `exec_entryArm_armed` and `exec_entryArm_passed`. -/
theorem entriesAreArmedWhenDue : Obligations.EntriesAreArmedWhenDue := by
  unfold Obligations.EntriesAreArmedWhenDue
  refine ⟨fun p q d h => ?_, ?armed, ?passed, fun s h => ?_, ?joins, ?full⟩
  · obtain ⟨n, ⟨hbank, hvalid, ⟨m, hm, hn⟩, hrun⟩, hstep, hstart, hoff⟩ := pieceNext_fallsDue h
    have hsum : d.step = q.first + BitVec.ofNat 48 m + BitVec.ofNat 48 (repeatIn d.e (q.first + BitVec.ofNat 48 m)) := by
      rw [hstep, hn, BitVec.ofNat_add, BitVec.add_assoc]
    refine ⟨hvalid, ?_, hoff, hbank, n, hstep, hstart, hrun, by omega⟩
    rw [hsum]
    exact repeatIn_repeats d.e _
  case armed =>
    intro d s hnext hopen hbarred htime hrun hdue hkernel hmask hlast hroom
    refine ⟨_, exec_entryArm_armed hnext hopen hbarred htime hrun hdue hkernel hmask hlast hroom, ?_⟩
    obtain ⟨hentry, he, hstep, ht, hleft, hcond, hshort⟩ :=
      armedOf_kernel (s := s) (d := d) (mask := maskOf s.tsu.plate.groups (entTarget d.e % 256)) hkernel
    generalize armedOf s d (maskOf s.tsu.plate.groups (entTarget d.e % 256)) = a at *
    obtain ⟨hplate, hframe⟩ := shortCounted_frame d a s
    have hctr := shortCounted_ctr d a s
    simp only [hshort, decide_eq_true_eq] at hctr
    exact ⟨⟨a, congrArg Plate.armed hplate, hentry, he, hstep, ht, hleft, hcond, hctr⟩, congrArg Plate.curStep hplate,
      congrArg Plate.curPos hplate, congrArg Plate.lastArm hplate, hframe⟩
  case passed =>
    intro d s hnext hopen hbarred hhalt hcome
    refine ⟨_, exec_entryArm_passed hnext hopen hbarred hhalt hcome, (count_counts ..).plate_eq, fun h => ?_, fun h => ?_,
      partOnly_trans (p := .tsu) (modPlate_only ..) (count_counts ..).part⟩
    · rw [h]
      exact count_ctr ..
    · rw [h]
      exact count_ctr ..
  · change execEntryArm s = _
    unfold execEntryArm
    rw [h]
  case joins =>
    intro r entry cond x arg s hr hroom
    refine ⟨_, (exec_regionArmReceive hr).trans (congrArg _ (if_neg (Nat.not_le.mpr hroom))),
      ⟨(s.region r).armTaken entry cond x arg, ?_, rfl, rfl, rfl, rfl, rfl, decide_eq_true_iff,
        decide_eq_true_iff.trans And.comm⟩, modRegion_congr ?_⟩
    · rw [region_modRegion]
    · rw [region_modRegion]
  case full =>
    intro r entry cond x arg s hr hfull
    rw [exec_regionArmReceive hr, if_pos hfull]

end Sys2Proof.Machine

namespace Sys2Proof.Machine

open Sys2Proof

/-! ### The planned stretch (R206) -/

section
variable {g p : Int} (hp : 0 < p)
include hp

/-- The least number of sixteenths of `p` that reach `x`. -/
theorem neg_ediv_neg_bounds (x : Int) : x ≤ -(-x / p) * p ∧ -(-x / p) * p < x + p := by
  have hdiv := Int.mul_ediv_add_emod (-x) p
  have hnonneg := Int.emod_nonneg (-x) hp.ne'
  have hlt := Int.emod_lt_of_pos (-x) hp
  have hmul : -(-x / p) * p = -(p * (-x / p)) := by ring
  omega

/-- From 1 to 1.5 periods the stretch brings the edge to T, or less than a sixteenth of a period past it. -/
theorem planStretch_near (hlo : p ≤ g) (hhi : 2 * g ≤ 3 * p) : planStretch g p ≤ 8 ∧
    16 * g ≤ 16 * p + planStretch g p * p ∧ 16 * p + planStretch g p * p < 16 * g + p := by
  have heq : planStretch g p = (-(-(16 * (g - p)) / p)).toNat := by
    unfold planStretch
    rw [if_neg (by omega), if_neg (by omega), if_neg (by omega), if_pos ⟨hlo, hhi⟩]
  obtain ⟨hreach, hpast⟩ := neg_ediv_neg_bounds hp (16 * (g - p))
  generalize -(-(16 * (g - p)) / p) = k at *
  have hk : 0 ≤ k := by nlinarith
  rw [heq, Int.toNat_of_nonneg hk]
  refine ⟨?_, by linarith, by linarith⟩
  have : k < 9 := by nlinarith
  omega

/-- From 2.5 to 3 periods it leaves between 1 and 1.5 periods. -/
theorem planStretch_far (hlo : 5 * p ≤ 2 * g) (hhi : g ≤ 3 * p) : planStretch g p ≤ 8 ∧
    16 * p ≤ 16 * g - 16 * p - planStretch g p * p ∧ 2 * (16 * g - 16 * p - planStretch g p * p) ≤ 3 * (16 * p) := by
  have heq : planStretch g p = (-(-(8 * (2 * g - 5 * p)) / p)).toNat := by
    unfold planStretch
    rw [if_neg (by omega), if_pos hlo]
  obtain ⟨hreach, hpast⟩ := neg_ediv_neg_bounds hp (8 * (2 * g - 5 * p))
  generalize -(-(8 * (2 * g - 5 * p)) / p) = k at *
  have hk : 0 ≤ k := by nlinarith
  rw [heq, Int.toNat_of_nonneg hk]
  refine ⟨?_, by linarith, by linarith⟩
  have : k < 9 := by nlinarith
  omega

end

/-- From 2 to 2.5 periods none is needed. -/
theorem planStretch_none {g p : Int} (hlo : 2 * p ≤ g) (hhi : 2 * g < 5 * p) : planStretch g p = 0 := by
  unfold planStretch
  rw [if_neg (by omega), if_neg (by omega), if_pos hlo]

/-! ### What the releases of an edge leave of their region (R182) -/

/-- `t` keeps of region `r` of `s` all but its crossing ports. -/
def CrossOnly (r : Nat) (s t : State) : Prop := t.region r = { s.region r with cross := (t.region r).cross }

theorem CrossOnly.refl (r : Nat) (s : State) : CrossOnly r s s := rfl

theorem CrossOnly.trans {r : Nat} {s t u : State} (h : CrossOnly r s t) (k : CrossOnly r t u) : CrossOnly r s u := by
  unfold CrossOnly at *
  rw [k, h]

theorem CrossOnly.of_region_eq {r : Nat} {s t : State} (h : t.region r = s.region r) : CrossOnly r s t := by
  unfold CrossOnly
  rw [h]

theorem CrossOnly.foldl {α : Type} {r : Nat} (f : State → α → State) (h : ∀ s a, CrossOnly r s (f s a)) :
    ∀ (l : List α) (s : State), CrossOnly r s (l.foldl f s)
  | [], s => .refl r s
  | a :: l, s => (h s a).trans (CrossOnly.foldl f h l (f s a))

theorem modRegion_cross (s : State) (r : Nat) {f : Region → Region} (h : ∀ q, f q = { q with cross := (f q).cross }) :
    CrossOnly r s (s.modRegion r f) := by
  unfold CrossOnly
  rw [region_modRegion]
  exact h _

theorem noteLate_cross (r port : Nat) (c : BitVec 80) (w : CrossWord) (l : Nat) (s : State) :
    CrossOnly r s (noteLate r port c w l s) := by
  unfold noteLate
  extract_lets s1 s2
  have h2 : s2.region r = s.region r := (count_counts ..).region_eq r
  split
  · exact .of_region_eq h2
  · exact .of_region_eq ((region_slip ..).trans h2)

theorem releaseWord_cross (r port : Nat) (w : CrossWord) (rest : List CrossWord) (s : State) :
    CrossOnly r s (releaseWord r port w rest s) := by
  have htake : CrossOnly r s (takeWord r port w rest s) := modRegion_cross s r fun _ => rfl
  unfold releaseWord
  split
  · exact htake
  · exact htake.trans (noteLate_cross ..)

theorem releaseGo_cross (r port : Nat) : ∀ (n : Nat) (s : State), CrossOnly r s (releaseGo r port n s)
  | 0, s => .refl r s
  | n + 1, s => by
    match hwaiting : (tget {} (s.region r).cross port).waiting with
    | [] =>
      rw [releaseGo_nil hwaiting]
      exact .refl r s
    | w :: rest =>
      cases hready : wordReady (s.region r).copy (tget {} (s.region r).cross port).lcross w with
      | false =>
        rw [releaseGo_notReady hwaiting hready]
        exact .refl r s
      | true =>
        rw [releaseGo_ready hwaiting hready]
        exact (releaseWord_cross ..).trans (releaseGo_cross r port n _)

theorem releaseEdge_cross (s : State) (r : Nat) : CrossOnly r s (releaseEdge r s) := by
  unfold releaseEdge
  extract_lets s1
  have h1 : CrossOnly r s s1 := modRegion_cross s r fun _ => rfl
  split
  · exact h1.trans (.foldl _ (fun s port => releaseGo_cross r port 16 s) _ _)
  · exact h1

/-! ### Launches of an edge (R206, R208, R443) -/

/-- A usable region with one armed entry, which fires: its descriptor goes out, and its FIRED frame returns. -/
theorem region_launchEdge_of_fires {r : Nat} {a : RegArm} {s : State} (husable : (s.region r).usable = true)
    (harmed : (s.region r).armed = [a]) (hfires : fires (s.region r) a = true) : (launchEdge r s).region r = { s.region r with
      armed := [], go := [(a.entry, a.arg)], fired := [firedFrame (s.region r) a], lastLaunch := some (s.region r).copy
      setting := (s.region r).deferred.getD (s.region r).setting, deferred := none } := by
  have hdue : (s.region r).armed.filter (fires (s.region r)) = [a] := by
    rw [harmed]
    simp [hfires]
  unfold launchEdge
  dsimp only
  rw [husable, hdue, if_neg (by decide), if_neg (by simp)]
  have hlaunched : ∀ (u : State) (n : Nat), (if n = 0 then u else u.count .tsu .kernelRstDrop 0 {} ([a].length * n)).region r =
      u.region r := by
    intro u n
    split
    · rfl
    · exact (count_counts ..).region_eq r
  rw [hlaunched, region_modRegion, harmed]
  simp [hfires]

/-- While no armed entry fires an edge launches nothing. -/
theorem launchEdge_waits {r : Nat} {a : RegArm} {s : State} (harmed : (s.region r).armed = [a])
    (hfires : fires (s.region r) a = false) : launchEdge r s = s := by
  unfold launchEdge
  simp [harmed, hfires]

theorem fires_iff {q : Region} {a : RegArm} : fires q a = true ↔
    0 ≤ copyDiff q.copy a.t ∧ (a.cond = false ∨ a.released = true) := by
  unfold fires
  simp

/-- A FIRED frame as a number: its kind, its entry, LATE, ALIGN_LOST and the lateness (R443). -/
theorem toNat_firedFrame (q : Region) {a : RegArm} (h : a.entry < 8192) : ∃ lost, lost < 2 ∧ (firedFrame q a).toNat =
    2 ^ 60 + a.entry * 2 ^ 47 + bit a.late * 2 ^ 46 + lost * 2 ^ 45 + min 0xFFFFFFFF (copyDiff q.copy a.t / 65536).toNat := by
  have hsat : sat 0xFFFFFFFF (copyDiff q.copy a.t / 2 ^ 16).toNat = min 0xFFFFFFFF (copyDiff q.copy a.t / 65536).toNat := by
    unfold sat
    split <;> omega
  have hlost : bit (alignLost q a) < 2 := by unfold bit; split <;> decide
  have hlate : bit a.late < 2 := by unfold bit; split <;> decide
  refine ⟨_, hlost, ?_⟩
  unfold firedFrame
  rw [hsat, BitVec.toNat_ofNat]
  exact Nat.mod_eq_of_lt (by omega)

theorem firedFrame_fields (q : Region) {a : RegArm} (h : a.entry < 8192) :
    bits (firedFrame q a).toNat 63 60 = 1 ∧ bits (firedFrame q a).toNat 59 47 = a.entry ∧
      tbit (firedFrame q a).toNat 46 = a.late ∧
      bits (firedFrame q a).toNat 31 0 = min 0xFFFFFFFF (copyDiff q.copy a.t / 65536).toNat := by
  obtain ⟨lost, hlost, hframe⟩ := toNat_firedFrame q h
  simp only [bits_eq_div_mod, tbit, Nat.shiftRight_eq_div_pow]
  rw [hframe]
  cases a.late <;> simp only [bit, decide_eq_true_eq, decide_eq_false_iff_not, if_true, if_false, Bool.false_eq_true] <;> omega

/-- What follows the launches of an edge leaves its region's queue of launches. -/
theorem regionEdge_launches {r : Nat} {s : State} (p : W32) (hclock : (s.region r).clockOn = true) :
    let x := (regionEdge r s p).region r
    let y := (launchEdge r (advanced r s p)).region r
    x.armed = y.armed ∧ x.go = y.go ∧ x.fired = y.fired ∧ x.lastLaunch = y.lastLaunch := by
  have hcross := releaseEdge_cross (launchEdge r (advanced r s p)) r
  unfold CrossOnly at hcross
  rw [regionEdge_of_running p hclock, region_modRegion, hcross]
  exact ⟨rfl, rfl, rfl, rfl⟩

theorem exec_kernelLaunch_usable {r : Nat} {p : W32} {s : State} (hr : r < 144) (hclock : (s.region r).clockOn = true)
    (husable : (s.region r).usable = true) : exec (.kernelLaunch r [p]) s = .next (regionEdge r s p) := by
  have hafter : ((regionEdge r s p).region r).usable = true := by
    rw [(regionEdge_clock p hclock).usable, region_advanced, region_modRegion]
    exact husable
  change execKernelLaunch r [p] s = _
  exact onRegion_next.mpr ⟨hr, (if_pos hafter).symm⟩

/-- Settles O20: the stretch by its three ranges, a launch by `region_launchEdge_of_fires`, and otherwise by
`launchEdge_waits`. -/
theorem entriesLaunchAtTheirEdge : Obligations.EntriesLaunchAtTheirEdge := by
  unfold Obligations.EntriesLaunchAtTheirEdge
  refine ⟨fun g p hp => ⟨planStretch_near hp, planStretch_far hp, fun hlo hhi => ⟨planStretch_none hlo hhi, by omega, by omega⟩⟩,
    ?launch, ?told, fun r entry s hr hnone => ?_⟩
  case launch =>
    intro r p a s hr hclock husable harmed
    have hadvanced : (advanced r s p).region r = copyEdge (s.region r) p := by rw [region_advanced, region_modRegion]
    have harmed' : ((advanced r s p).region r).armed = [a] := by rw [hadvanced]; exact harmed
    have husable' : ((advanced r s p).region r).usable = true := by rw [hadvanced]; exact husable
    have hcopy : ((advanced r s p).region r).copy = (s.region r).copy + BitVec.ofInt 80 ((p.toNat : Int) + spreadAdj (s.region r)) := by
      rw [hadvanced]
      rfl
    obtain ⟨hqueue, hgo, hfired, hlast⟩ := regionEdge_launches p hclock
    refine ⟨_, exec_kernelLaunch_usable hr hclock husable, (regionEdge_clock p hclock).copy.trans hcopy, fun hdue hfree => ?_,
      fun hwaits => ?_, fun k hk => regionEdge_others r s p hk, regionEdge_only r s p⟩
    · have hlaunch := region_launchEdge_of_fires husable' harmed' (fires_iff.mpr ⟨hcopy ▸ hdue, hfree⟩)
      rw [hlaunch] at hqueue hgo hfired hlast
      refine ⟨hqueue, hgo, hlast.trans (congrArg _ hcopy), _, hfired, fun hentry => ?_⟩
      rw [← hcopy]
      exact firedFrame_fields _ hentry
    · have hnot : fires ((advanced r s p).region r) a = false := by
        rw [← Bool.not_eq_true, fires_iff, hcopy]
        rintro ⟨hdue, hfree⟩
        rcases hwaits with hearly | ⟨hcond, hheld⟩
        · omega
        · simp [hcond, hheld] at hfree
      rw [launchEdge_waits harmed' hnot, hadvanced] at hqueue hgo hlast
      exact ⟨hqueue.trans harmed, hgo, hlast⟩
  case told =>
    intro r entry x s hr hsome
    constructor
    · change execRegionReleaseReceive r entry s = _
      exact onRegion_next.mpr ⟨hr, by simp only [hsome]⟩
    · change execRegionCancelReceive r entry s = _
      exact onRegion_next.mpr ⟨hr, by simp only [hsome]⟩
  · constructor
    · change execRegionReleaseReceive r entry s = _
      exact onRegion_next.mpr ⟨hr, by simp only [hnone]⟩
    · change execRegionCancelReceive r entry s = _
      exact onRegion_next.mpr ⟨hr, by simp only [hnone]⟩

end Sys2Proof.Machine

namespace Sys2Proof.Machine

open Sys2Proof

/-! ### An entry that has fired (R212, R213, R436, R438, R440) -/

/-- `t` differs from `s` in the plate's launch records and in what the die counts, STROBE_COLLIDE apart. -/
structure FiresOnly (s t : State) : Prop where
  frame : t = { s with tsu := { s.tsu with
    b := { s.tsu.b with cnt := t.tsu.b.cnt, perf := t.tsu.b.perf, fr := t.tsu.b.fr }
    die := { s.tsu.die with pba := t.tsu.die.pba, msix := t.tsu.die.msix }
    plate := { s.tsu.plate with events := t.tsu.plate.events } } }
  collide : (t.base .tsu).ctr .strobeCollide 0 = (s.base .tsu).ctr .strobeCollide 0

theorem FiresOnly.trans {s t u : State} (h : FiresOnly s t) (k : FiresOnly t u) : FiresOnly s u where
  frame := by rw [k.frame, h.frame]
  collide := k.collide.trans h.collide

theorem CountsOnly.fires {s t : State} (h : CountsOnly .tsu s t)
    (hcollide : (t.base .tsu).ctr .strobeCollide 0 = (s.base .tsu).ctr .strobeCollide 0) : FiresOnly s t := by
  refine ⟨?_, hcollide⟩
  have hframe := h.delivers.frame
  rw [h.plate_eq, h.sync_eq] at hframe
  rw [h.plate_eq]
  exact hframe

theorem count_fires (s : State) {c : Ctr} (f : Flt) (n : Nat) (h : c ≠ .strobeCollide) : FiresOnly s (s.count .tsu c 0 f n) :=
  (count_counts ..).fires (count_ctr_ne _ _ _ _ _ _ _ _ (ctrKey_ne (by decide) (by decide) (by simp [h.symm])))

theorem event_fires (s : State) (ev : Nat) (f : Flt) (n : Nat) : FiresOnly s (s.event .tsu ev f n) :=
  (event_counts ..).fires rfl

theorem sample_fires (s : State) (r : Sample) : FiresOnly s (s.sample .tsu r) := by
  refine (sample_counts ..).fires ?_
  unfold State.sample
  extract_lets q n
  split
  · rfl
  · split
    · rfl
    · split
      · rfl
      · split
        · rfl
        · exact (count_fires _ _ _ (by decide)).collide

theorem launchRecord_fires (s : State) (x : LaunchRec) : FiresOnly s (launchRecord s x) := by
  unfold launchRecord
  split
  · exact count_fires _ _ _ (by decide)
  · exact ⟨rfl, rfl⟩

theorem plateFired_fires (s : State) (a : Armed) (region count late : Nat) (sample : Int) :
    FiresOnly s (plateFired s a region count late sample) := by
  unfold plateFired
  extract_lets s1 s2 s3 s4
  have h2 : FiresOnly s s2 := by
    simp only [s2]
    split
    · exact (event_fires ..).trans (count_fires _ _ _ (by decide))
    · exact event_fires ..
  have h3 : FiresOnly s s3 := by
    simp only [s3]
    split
    · exact h2.trans ((event_fires ..).trans (launchRecord_fires ..))
    · split
      · exact h2.trans (launchRecord_fires ..)
      · exact h2
  exact h3.trans (((hist_counts ..).fires rfl).trans (sample_fires ..))

section
variable {s t : State} (h : FiresOnly s t)
include h

theorem FiresOnly.only : TsuOnly s t := by rw [h.frame]; exact ⟨rfl, rfl, rfl⟩
theorem FiresOnly.sync_eq : t.tsu.sync = s.tsu.sync := by rw [h.frame]
theorem FiresOnly.armed_eq : t.tsu.plate.armed = s.tsu.plate.armed := by rw [h.frame]
theorem FiresOnly.ctrOf_eq (k : Nat) : ctrOf t k = ctrOf s k := by unfold ctrOf; rw [h.sync_eq]
theorem FiresOnly.strobes_eq : t.tsu.die.strobes = s.tsu.die.strobes := by rw [h.frame]
theorem FiresOnly.port_eq (i : Nat) : t.port .tsu i = s.port .tsu i := by rw [h.frame]; rfl
theorem FiresOnly.chan_eq (n : Nat) : t.chan .tsu n = s.chan .tsu n := by rw [h.frame]; rfl
theorem FiresOnly.unit_eq (u : Nat) : t.unit .tsu u = s.unit .tsu u := by rw [h.frame]; rfl

end

/-! ### The entry that acts (R201) -/

section
variable {s : State} {entry n : Nat}

theorem actionReady_mem {a : Armed} (h : actionReady s entry n = some a) : a ∈ s.tsu.plate.armed := by
  unfold actionReady at h
  split at h
  · rename_i b hfind
    split at h
    · exact Option.some.inj h ▸ List.mem_of_find?_eq_some hfind
    · exact absurd h (by simp)
  · exact absurd h (by simp)

/-- A command for an action that is ready: the entry leaves the queue, acts, and is recorded as fired. -/
theorem completes_of_actionReady {a : Armed} {i : Instr} {f : Armed → State → State} {post : State → Prop}
    (hexec : exec i s = .next (plateAction s entry n f)) (h : actionReady s entry n = some a)
    (hpost : ∀ t, FiresOnly (f a (dropArmed s a)) t → post t) : Completes i s post := by
  refine ⟨_, hexec, hpost _ ?_⟩
  unfold plateAction
  rw [h]
  exact plateFired_fires ..

theorem plateAction_of_none (f : Armed → State → State) (h : actionReady s entry n = none) : plateAction s entry n f = s := by
  unfold plateAction
  rw [h]

end

/-- An action that changes the die alone does so as the action of an entry. -/
theorem FiresOnly.only_of_dropArmed {a : Armed} {s u t : State} (hfires : FiresOnly u t) (hpart : TsuOnly (dropArmed s a) u) :
    TsuOnly s t :=
  partOnly_trans (p := .tsu) (modPlate_only ..) (partOnly_trans (p := .tsu) hpart hfires.only)

/-! ### What a counter operation leaves of the plate's queue (R210, R221) -/

theorem foldl_plate {α : Type} {f : State → α → State} (h : ∀ s a, (f s a).tsu.plate = s.tsu.plate) :
    ∀ (l : List α) (s : State), (l.foldl f s).tsu.plate = s.tsu.plate
  | [], _ => rfl
  | a :: l, s => (foldl_plate h l (f s a)).trans (h s a)

theorem deliver1_plate (core : Nat) (s : State) : (deliver1 core s).tsu.plate = s.tsu.plate := by
  unfold deliver1
  split
  · rfl
  · split
    · exact (count_counts ..).plate_eq
    · split
      · dsimp only
        split
        · exact (hist_counts ..).plate_eq
        · rfl
      · split
        · rfl
        · exact (count_counts ..).plate_eq

theorem msgPut_plate (s : State) (m : Msg) : (msgPut s m).tsu.plate = s.tsu.plate := by
  unfold msgPut
  dsimp only
  split
  · rfl
  · split
    · exact foldl_plate (fun s _ => deliver1_plate m.core s) ..
    · rfl

theorem watchEval_plate (c : Nat) (s : State) (w : Nat) : (watchEval c s w).tsu.plate = s.tsu.plate := by
  unfold watchEval
  split
  · rfl
  · split
    · rfl
    · dsimp only
      split
      · exact msgPut_plate ..
      · rfl

/-- A counter written releases held entries, and drops none (R210). -/
theorem ctrWrite_armed_length (s : State) (c : Nat) (x : SyncCtr) :
    (ctrWrite s c x).tsu.plate.armed.length = s.tsu.plate.armed.length := by
  unfold ctrWrite holdCheck watchesEval
  rw [State.modPlate_plate]
  exact (List.length_map ..).trans (congrArg (fun p => p.armed.length) (foldl_plate (watchEval_plate c) ..))

/-- The record of a rejected operation (R224). -/
def faultRecord (s : State) (overflow : Bool) (src : Src) (c : Nat) (n : W32) : CtrFault :=
  { overflow, srcKind := src.kind, srcCore := src.core, srcId := src.id, counter := c, delivery := src.delivery,
    opId := src.opId, value := (ctrOf s c).value, n, st := s.now .tsu }

theorem ctrFault_appends {s : State} (overflow : Bool) (src : Src) (c : Nat) (n : W32) (h : s.tsu.sync.faults.length < 256) :
    (ctrFault s overflow src c n).tsu.sync.faults = s.tsu.sync.faults ++ [faultRecord s overflow src c n] := by
  unfold ctrFault
  dsimp only
  rw [if_neg (Nat.not_le.mpr h)]
  split
  · rw [(irq_counts ..).sync_eq]
    rfl
  · rfl

theorem ctrFault_plate (s : State) (overflow : Bool) (src : Src) (c : Nat) (n : W32) :
    (ctrFault s overflow src c n).tsu.plate = s.tsu.plate := by
  unfold ctrFault
  dsimp only
  split
  · exact ((event_counts ..).trans (count_counts ..)).plate_eq
  · split
    · exact (irq_counts ..).plate_eq
    · rfl

/-- No counter operation drops an armed entry. -/
theorem ctrOp_armed_length (s : State) (c : Nat) (op : CtrOp) (src : Src) :
    (ctrOp s c op src).1.tsu.plate.armed.length = s.tsu.plate.armed.length := by
  have hfault := fun overflow n => congrArg (fun p : Plate => p.armed.length) (ctrFault_plate s overflow src c n)
  unfold ctrOp
  dsimp only
  split
  · rfl
  · split
    · split
      · exact hfault ..
      · exact ctrWrite_armed_length ..
    · split
      · exact hfault ..
      · exact ctrWrite_armed_length ..
    · exact ctrWrite_armed_length ..
    · exact (ctrWrite_armed_length ..).trans (congrArg (fun p => p.armed.length) (clamped_counts ..).plate_eq)

theorem ctrOp_sub_of_lt {s : State} {k : Nat} {n : W32} {src : Src} (halloc : (ctrOf s k).alloc = true)
    (h : (ctrOf s k).value.toNat < n.toNat) : ctrOp s k (.sub n) src =
      (ctrFault s false src k n, .underflow, (ctrOf s k).value) := by
  unfold ctrOp
  simp only [halloc, h]
  simp

/-! ### CTR_ADD and CTR_SUB (R197) -/

section
variable {a : Armed} {entry c : Nat} {s t : State}

/-- What an operation on counter `c` leaves as the action of entry `a`. -/
theorem ctrAction_frame {op : CtrOp} {src : Src} (hmem : a ∈ s.tsu.plate.armed)
    (hfires : FiresOnly (ctrOp (dropArmed s a) c op src).1 t) :
    (∀ k, k ≠ c → ctrOf t k = ctrOf s k) ∧ t.tsu.plate.armed.length + 1 = s.tsu.plate.armed.length ∧ TsuOnly s t := by
  refine ⟨fun k hk => (hfires.ctrOf_eq k).trans ((ctrOp_oneCounter ..).others k hk), ?_,
    hfires.only_of_dropArmed (ctrOp_only ..)⟩
  have hlength := List.length_erase_add_one hmem
  rw [hfires.armed_eq, ctrOp_armed_length]
  exact hlength

/-- An operation that is taken writes its counter. -/
theorem ctrAction_written {x : SyncCtr} (hfires : FiresOnly (ctrWrite (dropArmed s a) c x) t) : ctrOf t c = x :=
  (hfires.ctrOf_eq c).trans (ctrWrite_ctrOf ..)

/-- A rejected operation leaves its counter, and names the entry in its record (R224). -/
theorem ctrAction_rejected {overflow : Bool} {n : W32} (hfires : FiresOnly (ctrFault (dropArmed s a) overflow (plateSrc entry) c n) t) :
    ctrOf t c = ctrOf s c ∧ (s.tsu.sync.faults.length < 256 → ∃ f, t.tsu.sync.faults = s.tsu.sync.faults ++ [f] ∧
      f.overflow = overflow ∧ f.srcKind = 1 ∧ f.srcId = entry ∧ f.counter = c ∧ f.value = (ctrOf s c).value ∧ f.n = n) := by
  constructor
  · rw [hfires.ctrOf_eq]
    unfold ctrOf
    rw [(ctrFault_ctrs ..).1]
    rfl
  · intro hroom
    refine ⟨faultRecord (dropArmed s a) overflow (plateSrc entry) c n, ?_, rfl, rfl, rfl, rfl, rfl, rfl⟩
    rw [hfires.sync_eq]
    exact ctrFault_appends (s := dropArmed s a) _ _ _ _ hroom

end

/-! ### TIM_TRIG (R198, R416, R419) -/

/-- `t` differs from `s` in the die's common state and its interrupts alone. -/
structure BaseOnly (s t : State) : Prop where
  part : TsuOnly s t
  tsu : t.tsu = { s.tsu with b := t.tsu.b, die := { s.tsu.die with pba := t.tsu.die.pba, msix := t.tsu.die.msix } }

theorem BaseOnly.refl (s : State) : BaseOnly s s := ⟨⟨rfl, rfl, rfl⟩, rfl⟩

theorem BaseOnly.trans {s t u : State} (h : BaseOnly s t) (k : BaseOnly t u) : BaseOnly s u where
  part := partOnly_trans (p := .tsu) h.part k.part
  tsu := by rw [k.tsu, h.tsu]

theorem BaseOnly.foldl {α : Type} {f : State → α → State} (h : ∀ s a, BaseOnly s (f s a)) :
    ∀ (l : List α) (s : State), BaseOnly s (l.foldl f s)
  | [], s => .refl s
  | a :: l, s => (h s a).trans (BaseOnly.foldl h l (f s a))

theorem CountsOnly.baseOnly {s t : State} (h : CountsOnly .tsu s t) : BaseOnly s t := ⟨h.part, h.tsu⟩

theorem modBase_baseOnly (s : State) (f : Base → Base) : BaseOnly s (s.modBase .tsu f) := ⟨⟨rfl, rfl, rfl⟩, rfl⟩

theorem chanPut_baseOnly (n : Nat) (e : TimEntry) (s : State) : BaseOnly s (chanPut .tsu n e s) := by
  have hput : BaseOnly s (s.modChan .tsu n fun c => { c with queue := c.queue ++ [e] }) := modBase_baseOnly ..
  unfold chanPut
  split
  · dsimp only
    split
    · exact hput.trans (modBase_baseOnly ..)
    · exact hput
  · exact (count_counts ..).baseOnly

theorem intPut_baseOnly (u : Nat) (x : IntEntry) (s : State) : BaseOnly s (intPut .tsu u x s) := by
  unfold intPut
  extract_lets s1
  have h1 : BaseOnly s s1 := modBase_baseOnly ..
  split
  · exact h1.trans (modBase_baseOnly ..)
  · exact h1.trans (count_counts ..).baseOnly

theorem intStart_baseOnly (u : Nat) (x : St × Nat × Nat) (s : State) : BaseOnly s (intStart .tsu u x s) := by
  unfold intStart
  split
  · exact (count_counts ..).baseOnly
  · exact modBase_baseOnly ..

theorem intStop_baseOnly (u : Nat) (x : St × Nat × Nat) (s : State) : BaseOnly s (intStop .tsu u x s) := by
  unfold intStop
  split
  · split
    · exact BaseOnly.trans (modBase_baseOnly ..) (intPut_baseOnly ..)
    · exact (count_counts ..).baseOnly
  · exact (count_counts ..).baseOnly

theorem intTrig_baseOnly (n : Nat) (stop : Bool) (x : St × Nat × Nat) (s : State) (u : Nat) :
    BaseOnly s (intTrig .tsu n stop x s u) := by
  unfold intTrig
  dsimp only
  split
  · split
    · exact intStop_baseOnly ..
    · exact intStart_baseOnly ..
  · exact .refl s

theorem timTrigDo_baseOnly (ch mode : Nat) (x : St) (s : State) : BaseOnly s (timTrigDo ch mode x s) := by
  unfold timTrigDo
  split
  · dsimp only
    split
    · exact (chanPut_baseOnly ..).trans (frTrigger_counts ..).baseOnly
    · exact chanPut_baseOnly ..
  · split
    · exact .refl s
    · exact .foldl (intTrig_baseOnly ch _ _) _ _

theorem chan_modChan (s : State) (n : Nat) (f : Channel → Channel) : (s.modChan .tsu n f).chan .tsu n = f (s.chan .tsu n) :=
  tget_tmod_eq ..

theorem unit_modUnit (s : State) (u : Nat) (f : IntUnit → IntUnit) : (s.modUnit .tsu u f).unit .tsu u = f (s.unit .tsu u) :=
  tget_tmod_eq ..

theorem unit_modUnit_ne (s : State) {u v : Nat} (h : v ≠ u) (f : IntUnit → IntUnit) :
    (s.modUnit .tsu v f).unit .tsu u = s.unit .tsu u := tget_tmod_ne _ _ _ h.symm

theorem CountsOnly.chan_eq {s t : State} (h : CountsOnly .tsu s t) (n : Nat) : t.chan .tsu n = s.chan .tsu n := by
  unfold State.chan
  rw [h.base]

theorem CountsOnly.unit_eq {s t : State} (h : CountsOnly .tsu s t) (u : Nat) : t.unit .tsu u = s.unit .tsu u := by
  unfold State.unit
  rw [h.base]

/-- A stamp joins its channel's queue while there is room (R414). -/
theorem chanPut_queue {n : Nat} {e : TimEntry} {s : State} (h : (s.chan .tsu n).queue.length < 256) :
    ((chanPut .tsu n e s).chan .tsu n).queue = (s.chan .tsu n).queue ++ [e] := by
  have hput : ((s.modChan .tsu n fun c => { c with queue := c.queue ++ [e] }).chan .tsu n).queue = (s.chan .tsu n).queue ++ [e] :=
    by rw [chan_modChan]
  have hsnap : ∀ u : State, (u.snapshot .tsu).chan .tsu n = u.chan .tsu n := by
    intro u
    unfold State.snapshot State.chan
    rw [base_modBase]
    split <;> rfl
  unfold chanPut
  rw [if_pos h]
  dsimp only
  split
  · rw [hsnap]
    exact hput
  · exact hput

/-- Mode 0 queues T itself as a stamp (R416). -/
theorem timTrigDo_stamps {ch : Nat} {x : St} {s : State} (h : (s.chan .tsu ch).queue.length < 256) :
    ((timTrigDo ch 0 x s).chan .tsu ch).queue = (s.chan .tsu ch).queue ++ [{ st := x, trig := true, tag := 0 }] := by
  unfold timTrigDo
  rw [if_pos rfl]
  dsimp only
  split
  · rw [(frTrigger_counts ..).chan_eq]
    exact chanPut_queue h
  · exact chanPut_queue h

/-- A start of intervals at one unit leaves the others. -/
theorem intTrig_start_unit_ne (n : Nat) (x : St × Nat × Nat) (s : State) {u v : Nat} (h : v ≠ u) :
    (intTrig .tsu n false x s v).unit .tsu u = s.unit .tsu u := by
  have hstart : (intStart .tsu v x s).unit .tsu u = s.unit .tsu u := by
    unfold intStart
    split
    · exact (count_counts ..).unit_eq u
    · exact unit_modUnit_ne s h _
  unfold intTrig
  dsimp only
  split
  · exact hstart
  · rfl

/-- A unit whose interval starts on the channel opens it (R419). -/
theorem intTrig_start_opens {n u : Nat} {x : St × Nat × Nat} {s : State} (henable : (s.unit .tsu u).enable = true)
    (hstart : (s.unit .tsu u).start = n) (hclosed : (s.unit .tsu u).open_ = none) :
    ((intTrig .tsu n false x s u).unit .tsu u).open_ = some x := by
  unfold intTrig
  dsimp only
  rw [henable, hstart, if_pos (by simp), if_neg (by decide)]
  unfold intStart
  rw [hclosed]
  dsimp only
  rw [unit_modUnit]

/-- Mode 1 opens the interval of every unit that starts on the channel (R419). -/
theorem timTrigDo_starts {ch u : Nat} {x : St} {s : State} (hu : u < 2) (henable : (s.unit .tsu u).enable = true)
    (hstart : (s.unit .tsu u).start = ch) (hclosed : (s.unit .tsu u).open_ = none) :
    ((timTrigDo ch 1 x s).unit .tsu u).open_ = some (trigStamp s x) := by
  refine foldl_at (f := intTrig .tsu ch false (trigStamp s x)) (i := u) (Pre := fun t => t.unit .tsu u = s.unit .tsu u)
    (Post := fun t => (t.unit .tsu u).open_ = some (trigStamp s x)) (fun t v hv hpre => ?_) (fun t hpre => ?_)
    (fun t v hv hpost => ?_) _ s List.nodup_range (List.mem_range.mpr hu) rfl
  · rw [intTrig_start_unit_ne _ _ _ hv, hpre]
  · exact intTrig_start_opens (hpre ▸ henable) (hpre ▸ hstart) (hpre ▸ hclosed)
  · rw [intTrig_start_unit_ne _ _ _ hv, hpost]

/-! ### STROBE (R200, R450) -/

/-- A pulse with epoch number `v` on a lane, counted where the lane pulses at this edge already. -/
def strobeDo (lane : Nat) (v : W32) (s : State) : State :=
  let edge := s.tsu.b.perf.cycles + 1
  let pulsed := s.modDie fun d => { d with strobes := tset (0, 0) d.strobes lane (edge, v) }
  if decide ((tget (0, 0) s.tsu.die.strobes lane).1 = edge) then pulsed.count .tsu .strobeCollide 0 {} 1 else pulsed

theorem strobeDo_spec (lane : Nat) (v : W32) (s : State) : let t := strobeDo lane v s
    t.tsu.die.strobes = tset (0, 0) s.tsu.die.strobes lane (s.tsu.b.perf.cycles + 1, v) ∧
      (t.base .tsu).ctr .strobeCollide 0 = (s.base .tsu).ctr .strobeCollide 0 +
        (if (tget (0, 0) s.tsu.die.strobes lane).1 = s.tsu.b.perf.cycles + 1 then 1 else 0) ∧
      t.tsu.plate = s.tsu.plate ∧ TsuOnly s t := by
  unfold strobeDo
  dsimp only
  by_cases hit : (tget (0, 0) s.tsu.die.strobes lane).1 = s.tsu.b.perf.cycles + 1
  · simp only [hit, decide_true, if_true]
    exact ⟨rfl, count_ctr .., rfl, rfl, rfl, rfl⟩
  · simp only [hit, decide_false, Bool.false_eq_true, if_false]
    exact ⟨rfl, rfl, rfl, rfl, rfl, rfl⟩

/-! ### STEP_CLOSE (R198, R292) -/

theorem sendP2_p2_self (s : State) (p : Part) (i : Nat) (c : OutCell) :
    c ∈ tget [] ((sendP2 s p i c).port p i).tx.p2 c.slice := by
  unfold sendP2
  rw [port_modPort]
  dsimp only
  rw [tget_tmod_eq]
  exact List.mem_append_right _ (List.mem_singleton_self c)

/-- A cell sent on each port of a list waits in each one's P2 queue of its slice. -/
theorem foldl_sendP2_p2 (p : Part) {c : OutCell} {i : Nat} {l : List Nat} (hnodup : l.Nodup) (hi : i ∈ l) (s : State) :
    c ∈ tget [] ((l.foldl (fun s j => sendP2 s p j c) s).port p i).tx.p2 c.slice := by
  refine foldl_at (f := fun s j => sendP2 s p j c) (i := i) (Pre := fun _ => True)
    (Post := fun t => c ∈ tget [] (t.port p i).tx.p2 c.slice) (fun _ _ _ h => h) (fun t _ => sendP2_p2_self ..)
    (fun t j hj hpost => ?_) l s hnodup hi trivial
  unfold sendP2
  rw [port_modPort_ne t p (Ne.symm hj)]
  exact hpost

/-- The CLOSE cell of a STEP_CLOSE entry. -/
def closeCell (s : State) (a : Armed) : OutCell :=
  cellNow s .tsu s.tsu.die.sliceId (.ledger (closeMsg s (entTarget a.e % 256) a.step (entArg a.e)))

/-- The CLOSE sent on both planes, and the next OP_ID. -/
def closeDo (a : Armed) (s : State) : State :=
  (planesOn s).foldl (fun t i => sendP2 t .tsu i (closeCell s a)) (s.modSync fun y => { y with opId := y.opId + 1 })

theorem closeDo_spec (a : Armed) (s : State) : let t := closeDo a s
    (∀ i ∈ planesOn s, closeCell s a ∈ tget [] (t.port .tsu i).tx.p2 s.tsu.die.sliceId) ∧
      t.tsu.sync.opId = s.tsu.sync.opId + 1 ∧ t.tsu.plate = s.tsu.plate ∧ TsuOnly s t := by
  have hsent : SendsOnly .tsu (s.modSync fun y => { y with opId := y.opId + 1 }) (closeDo a s) :=
    .foldl _ (fun t i => sendP2_sends t .tsu i (closeCell s a)) _ _
  refine ⟨fun i hi => foldl_sendP2_p2 .tsu (List.Nodup.filter _ (by decide)) hi _, ?_, ?_,
    partOnly_trans (p := .tsu) (modSync_only ..) hsent.part⟩
  · rw [hsent.tsu]
    rfl
  · rw [hsent.tsu]
    rfl

/-- Settles O22: each action by `completes_of_actionReady` and the facts above of its effect. -/
theorem plateActionsActAtTheirInstant : Obligations.PlateActionsActAtTheirInstant := by
  unfold Obligations.PlateActionsActAtTheirInstant
  refine ⟨?add, ?sub, ?trig, ?out, ?pulseEnd, ?strobe, ?close, ?notDue⟩
  case add =>
    intro entry a s hready halloc
    refine completes_of_actionReady rfl hready fun t hfires => ?_
    have hframe := ctrAction_frame (actionReady_mem hready) hfires
    refine ⟨fun hle => ?_, fun hgt => ?_, hframe⟩
    · rw [ctrOp_add_of_le (s := dropArmed s a) halloc hle] at hfires
      exact ctrAction_written hfires
    · rw [ctrOp_add_of_gt (s := dropArmed s a) halloc hgt] at hfires
      exact ctrAction_rejected hfires
  case sub =>
    intro entry a s hready halloc
    refine completes_of_actionReady rfl hready fun t hfires => ?_
    have hframe := ctrAction_frame (actionReady_mem hready) hfires
    refine ⟨fun hle => ?_, fun hlt => ?_, hframe⟩
    · rw [ctrOp_sub_of_le (s := dropArmed s a) halloc hle] at hfires
      exact ctrAction_written hfires
    · rw [ctrOp_sub_of_lt (s := dropArmed s a) halloc hlt] at hfires
      exact ctrAction_rejected hfires
  case trig =>
    intro entry a s hready
    refine completes_of_actionReady rfl hready fun t hfires => ?_
    have hbase := timTrigDo_baseOnly (entTarget a.e % 8) ((entArg a.e).toNat % 4) a.t (dropArmed s a)
    refine ⟨fun hmode hroom => ?_, fun u hu hmode henable hstart hclosed => ?_, fun hmode => ?_, ?_,
      hfires.only_of_dropArmed hbase.part⟩
    · rw [hfires.chan_eq, hmode]
      exact ⟨_, timTrigDo_stamps hroom, rfl, rfl⟩
    · rw [hfires.unit_eq, hmode]
      exact ⟨_, timTrigDo_starts (s := dropArmed s a) hu henable hstart hclosed, rfl⟩
    · rw [hmode] at hfires
      rw [hfires.frame]
      exact ⟨rfl, rfl⟩
    · rw [hfires.armed_eq, hbase.tsu]
      rfl
  case out =>
    intro entry a s hready
    refine completes_of_actionReady rfl hready fun t hfires => ?_
    rw [hfires.frame]
    refine ⟨rfl, fun hlow => ?_, fun hhigh => ?_, rfl, rfl, rfl, rfl⟩
    · exact if_neg (by simp [dropArmed, hlow])
    · have hfall : ∀ fall, (s.tsu.die.tsOut && stLater s.tsu.die.tsOutFall fall) = stLater s.tsu.die.tsOutFall fall :=
        fun _ => by rw [hhigh, Bool.true_and]
      exact congrArg (fun b : Bool => if b then s.tsu.die.tsOutFall else _) (hfall _)
  case pulseEnd =>
    intro s hhigh
    refine ⟨_, rfl, ?_⟩
    rw [hhigh, Bool.true_and]
    cases stGe (s.now .tsu) s.tsu.die.tsOutFall with
    | true => exact ⟨by simp, rfl⟩
    | false => exact ⟨by simp [hhigh], rfl⟩
  case strobe =>
    intro entry a s hready
    refine completes_of_actionReady (f := fun a => strobeDo (entTarget a.e % 8) (entArg a.e)) rfl hready fun t hfires => ?_
    obtain ⟨hstrobes, hcollide, hplate, hpart⟩ := strobeDo_spec (entTarget a.e % 8) (entArg a.e) (dropArmed s a)
    have hlanes := hfires.strobes_eq.trans hstrobes
    refine ⟨?_, fun l hl => ?_, hfires.collide.trans hcollide, hfires.armed_eq.trans (congrArg Plate.armed hplate),
      hfires.only_of_dropArmed hpart⟩
    · rw [hlanes, tget_tset_eq]
      rfl
    · rw [hlanes, tget_tset_ne _ _ _ hl]
      rfl
  case close =>
    intro entry a s hready
    refine completes_of_actionReady (f := closeDo) rfl hready fun t hfires => ?_
    obtain ⟨hcells, hopId, hplate, hpart⟩ := closeDo_spec a (dropArmed s a)
    refine ⟨fun i hi => ⟨closeCell s a, closeMsg s (entTarget a.e % 256) a.step (entArg a.e), ?_, rfl, rfl, rfl, rfl, rfl, rfl⟩,
      (congrArg Sync.opId hfires.sync_eq).trans hopId, hfires.armed_eq.trans (congrArg Plate.armed hplate),
      hfires.only_of_dropArmed hpart⟩
    rw [hfires.port_eq]
    exact hcells i hi
  case notDue =>
    intro entry s
    refine ⟨?_, ?_, ?_, ?_, ?_, ?_⟩ <;> exact fun h => congrArg _ (plateAction_of_none _ h)

end Sys2Proof.Machine

namespace Sys2Proof.Machine

open Sys2Proof

/-! ### Taking a mailbox command (R381, R387, R388, R391) -/

/-- `s` with other mailboxes. -/
def State.withMbs (s : State) (m : Tab Mailbox) : State := { s with tsu.mbs := m }

/-- `u` is `s` with the slot of a command `c` consumed: only its mailbox has moved, and it holds no more completions back. -/
structure Taken (c : Cmd) (s u : State) : Prop where
  frame : u = s.withMbs u.tsu.mbs
  part : PartOnly c.part s u
  held : (u.mbox c.mbx).held = (s.mbox c.mbx).held

theorem cmdTake_taken (s : State) (c : Cmd) (op : Nat) : Taken c s (cmdTake s c op) := by
  obtain ⟨p, m, tag, txn⟩ := c
  cases p with
  | tsu =>
    refine ⟨rfl, ⟨rfl, rfl, rfl⟩, ?_⟩
    change ((s.modMbox m _).mbox m).held = _
    rw [mbox_modMbox]
  | dist => exact ⟨rfl, ⟨rfl, rfl, rfl⟩, rfl⟩

theorem held_of_hsReady {s : State} {c : Cmd} (h : hsReady s c = true) (hpart : c.part = .tsu) : (s.mbox c.mbx).held = [] := by
  unfold hsReady at h
  rw [hpart] at h
  simpa using (Bool.and_eq_true_iff.mp (Bool.and_eq_true_iff.mp h).2).2

/-- A command of a mailbox that may not give it is DENIED (R391, R392). -/
theorem onCmd_refused {c : Cmd} {op : Nat} {s : State} {f : State → State} (hmbx : c.mbx ≤ 3) (hready : hsReady s c = true) :
    onCmd c op false s f = .next (done (cmdTake s c op) c op .denied) := by
  unfold onCmd
  rw [if_neg fun h => Nat.not_lt.mpr hmbx h.2]
  simp [hready]

/-! ### What a completion leaves of transactions and of the plate (R386, R390) -/

theorem complete_plate (s : State) (c : Cmd) (cp : Completion) : (complete_ s c cp).tsu.plate = s.tsu.plate := by
  obtain ⟨p, m, tag, txn⟩ := c
  cases p with
  | dist => exact congrArg Tsu.plate (complete_partOnly s ⟨.dist, m, tag, txn⟩ cp).1
  | tsu =>
    unfold complete_
    extract_lets now found sched s1 s2 s3 s4 s5 s6
    have h1 : s1.tsu.plate = s.tsu.plate := by
      simp only [s1]
      split <;> rfl
    obtain ⟨-, -, hpost⟩ := cplPost_frame s1 m cp
    have h4 : s4.tsu.plate = s.tsu.plate := (congrArg Tsu.plate hpost :).trans h1
    have h5 : s5.tsu.plate = s.tsu.plate := (event_counts ..).plate_eq.trans h4
    have h6 : s6.tsu.plate = s.tsu.plate := by
      simp only [s6]
      split
      · exact (event_counts ..).plate_eq.trans h5
      · exact h5
    split
    · exact (sample_counts ..).plate_eq.trans h6
    · exact h4

theorem complete_txns (s : State) (c : Cmd) (cp : Completion) :
    ((complete_ s c cp).base c.part).txns = (s.base c.part).txns := by
  obtain ⟨p, m, tag, txn⟩ := c
  cases p with
  | tsu =>
    change (complete_ s ⟨.tsu, m, tag, txn⟩ cp).tsu.b.txns = s.tsu.b.txns
    rw [(complete_ends s m tag txn cp).frame]
  | dist =>
    change (complete_ s ⟨.dist, m, tag, txn⟩ cp).dist.b.txns = s.dist.b.txns
    rw [(complete_sentBack s m tag txn cp).base]

theorem txn_eq_of_txns {s t : State} {p : Part} (h : (t.base p).txns = (s.base p).txns) (id : W32) : t.txn p id = s.txn p id := by
  unfold State.txn
  rw [h]

/-- A command completed with a final status. -/
theorem done_spec {s : State} {c : Cmd} (op : Nat) {st : Status} (hheld : c.part = .tsu → (s.mbox c.mbx).held = [])
    (hst : st ≠ .pending) : let t := done s c op st
    Answers c op st t ∧ (t.base c.part).txns = (s.base c.part).txns ∧ t.tsu.plate = s.tsu.plate ∧ PartOnly c.part s t :=
  ⟨⟨_, complete_last _ hheld, rfl, rfl, rfl, (decide_eq_true hst).symm⟩, complete_txns .., complete_plate .., done_partOnly ..⟩

/-! ### A staged write joins its transaction (R391, R394) -/

/-- A write to an open transaction is seen in it. -/
theorem txn_modTxn (s : State) (p : Part) (id : W32) {f : Txn → Txn} (hf : ∀ t, (f t).id = t.id ∧ (f t).phase = t.phase) :
    (s.modTxn p id f).txn p id = (s.txn p id).map f := by
  have hsame : ∀ t : Txn, ((f t).id == id && (f t).live) = (t.id == id && t.live) := by
    intro t
    obtain ⟨hid, hphase⟩ := hf t
    unfold Txn.live
    rw [hid, hphase]
  have hcomp : ((fun t : Txn => t.id == id && t.live) ∘ fun t => if t.id == id && t.live then f t else t) =
      fun t : Txn => t.id == id && t.live := by
    funext t
    dsimp only [Function.comp]
    split
    · exact hsame t
    · rfl
  unfold State.txn State.modTxn
  rw [base_modBase]
  dsimp only
  rw [List.find?_map, hcomp]
  cases hfind : (s.base p).txns.find? fun t => t.id == id && t.live with
  | none => rfl
  | some q => exact congrArg some (if_pos (List.find?_some hfind))

/-- `s` with the staged writes of a command's transaction changed by `g`. -/
def restaged (s : State) (c : Cmd) (g : List Staged → List Staged) : State :=
  s.modTxn c.part c.txn fun t => { t with staged := g t.staged }

theorem restaged_txn (s : State) (c : Cmd) (g : List Staged → List Staged) :
    (restaged s c g).txn c.part c.txn = (s.txn c.part c.txn).map fun q => { q with staged := g q.staged } :=
  txn_modTxn s c.part c.txn (f := fun t => { t with staged := g t.staged }) fun _ => ⟨rfl, rfl⟩

theorem restaged_part (s : State) (c : Cmd) (g : List Staged → List Staged) : PartOnly c.part s (restaged s c g) := by
  unfold restaged State.modTxn
  exact modBase_partOnly ..

theorem restaged_mbox (s : State) (c : Cmd) (g : List Staged → List Staged) (m : Nat) : (restaged s c g).mbox m = s.mbox m := by
  obtain ⟨p, _, _, _⟩ := c
  cases p <;> rfl

/-- A write that its transaction takes finds it open. -/
theorem exists_txn_of_stageBar {s : State} {c : Cmd} {x : Staged} (h : stageBar s c x = none) :
    ∃ q, s.txn c.part c.txn = some q := by
  cases hq : s.txn c.part c.txn with
  | none => simp [stageBar, hq] at h
  | some q => exact ⟨q, rfl⟩

/-- A refused write is BUSY or, with no transaction, a BAD_COMMAND: the command ends with it. -/
theorem stageBar_ne_pending {s : State} {c : Cmd} {x : Staged} {st : Status} (h : stageBar s c x = some st) : st ≠ .pending := by
  unfold stageBar at h
  split at h
  · cases h
    decide
  · split at h
    · cases h
      decide
    · cases h

/-- What a staged write does to the staged bank of the plate (R189). -/
def stagedEffect : Staged → State → State
  | .plate n e, s => stagedWrite n e s
  | .plateClear, s => s.modPlate fun p => p.setOther []
  | _, s => s

theorem stagedEffect_base (x : Staged) (s : State) (p : Part) : (stagedEffect x s).base p = s.base p := by
  cases x <;> cases p <;> rfl

theorem stagedEffect_mbox (x : Staged) (s : State) (m : Nat) : (stagedEffect x s).mbox m = s.mbox m := by
  cases x <;> rfl

/-- Only plate writes, which are a die's, show in the state. -/
theorem stagedEffect_part (x : Staged) (s : State) {p : Part} (h : x.slot.1 = 0 → p = .tsu) : PartOnly p s (stagedEffect x s) := by
  cases x
  case plate n e => rw [h rfl]; exact ⟨rfl, rfl, rfl⟩
  case plateClear => rw [h rfl]; exact ⟨rfl, rfl, rfl⟩
  all_goals exact partOnly_refl p s

@[simp] theorem Plate.other_setOther (p : Plate) (b : Tab Entry) : (p.setOther b).other = b := by
  unfold Plate.setOther Plate.other
  cases p.activeB <;> simp

/-- `s` with `k` values clamped. -/
def clampedBy (s : State) (c : Cmd) (k : Nat) : State := if k = 0 then s else s.count c.part .clamp 0 {} k

theorem clampedBy_counts (s : State) (c : Cmd) (k : Nat) : CountsOnly c.part s (clampedBy s c k) := by
  unfold clampedBy
  split
  · exact .refl ..
  · exact count_counts ..

theorem CountsOnly.txn_eq {p : Part} {s t : State} (h : CountsOnly p s t) (id : W32) : t.txn p id = s.txn p id :=
  txn_eq_of_txns (by rw [h.base]) id

/-- A command completed after its transaction's staged writes have become `g` of what they were. -/
theorem done_joins {s v : State} {c : Cmd} {op : Nat} {st : Status} {g : List Staged → List Staged}
    (hopen : ∃ q, s.txn c.part c.txn = some q)
    (htxn : v.txn c.part c.txn = (s.txn c.part c.txn).map fun q => { q with staged := g q.staged })
    (hheld : c.part = .tsu → (v.mbox c.mbx).held = []) (hpart : PartOnly c.part s v) (hst : st ≠ .pending) :
    let t := done v c op st
    (∃ q, s.txn c.part c.txn = some q ∧ t.txn c.part c.txn = some { q with staged := g q.staged }) ∧ Answers c op st t ∧
      PartOnly c.part s t := by
  obtain ⟨hanswers, htxns, -, hdone⟩ := done_spec op hheld hst
  obtain ⟨q, hq⟩ := hopen
  refine ⟨⟨q, hq, ?_⟩, hanswers, partOnly_trans hpart hdone⟩
  rw [txn_eq_of_txns htxns, htxn, hq]
  rfl

/-- A staged write that its transaction takes. -/
theorem stage_taken {s : State} {c : Cmd} (op : Nat) {x : Staged} (k : Nat) (hheld : c.part = .tsu → (s.mbox c.mbx).held = [])
    (hdie : x.slot.1 = 0 → c.part = .tsu) (hbar : stageBar s c x = none) : let t := stage s c op x k (stagedEffect x)
    Stages c op x s t ∧ (∀ n y, x = .plate n y → tget zeroPlateEntry t.tsu.plate.other n = y) ∧
      (x = .plateClear → t.tsu.plate.other = []) := by
  have heq : stage s c op x k (stagedEffect x) =
      done (stagedEffect x (restaged (clampedBy s c k) c (stagePut x))) c op .ok := by
    unfold stage
    rw [hbar]
    rfl
  have hclamped := clampedBy_counts s c k
  have hput := restaged_txn (clampedBy s c k) c (stagePut x)
  rw [hclamped.txn_eq] at hput
  have hputHeld : c.part = .tsu → ((restaged (clampedBy s c k) c (stagePut x)).mbox c.mbx).held = [] := fun h => by
    rw [restaged_mbox, hclamped.mbox_eq, hheld h]
  have hputPart := partOnly_trans hclamped.part (restaged_part (clampedBy s c k) c (stagePut x))
  rw [heq]
  generalize restaged (clampedBy s c k) c (stagePut x) = v at *
  have hplate : (done (stagedEffect x v) c op .ok).tsu.plate = (stagedEffect x v).tsu.plate := complete_plate ..
  refine ⟨done_joins (exists_txn_of_stageBar hbar) ?_ (fun h => ?_) (partOnly_trans hputPart (stagedEffect_part x v hdie))
    (by decide), ?_, ?_⟩
  · rw [txn_eq_of_txns (congrArg Base.txns (stagedEffect_base ..)), hput]
  · rw [stagedEffect_mbox]
    exact hputHeld h
  · rintro n y rfl
    rw [hplate]
    exact (congrArg (fun b => tget zeroPlateEntry b n) (Plate.other_setOther ..)).trans (tget_tset_eq ..)
  · rintro rfl
    rw [hplate]
    exact Plate.other_setOther ..

/-- A staged write that is refused: nothing is staged. -/
theorem stage_refused {s : State} {c : Cmd} (op : Nat) {x : Staged} {st : Status} (k : Nat) (f : State → State)
    (hheld : c.part = .tsu → (s.mbox c.mbx).held = []) (hbar : stageBar s c x = some st) : let t := stage s c op x k f
    Answers c op st t ∧ (t.base c.part).txns = (s.base c.part).txns ∧ t.tsu.plate = s.tsu.plate ∧ PartOnly c.part s t := by
  unfold stage
  rw [hbar]
  exact done_spec op hheld (stageBar_ne_pending hbar)

section
variable {c : Cmd} {s u : State} (h : Taken c s u)
include h

theorem Taken.stageBar_eq (x : Staged) : stageBar u c x = stageBar s c x := by
  rw [h.frame]
  rfl

theorem Taken.base_eq (p : Part) : u.base p = s.base p := by
  rw [h.frame]
  cases p <;> rfl

theorem Taken.txn_eq (p : Part) (id : W32) : u.txn p id = s.txn p id := txn_eq_of_txns (congrArg Base.txns (h.base_eq p)) id

theorem Taken.plate_eq : u.tsu.plate = s.tsu.plate := by
  rw [h.frame]
  rfl

theorem Taken.die_eq : u.tsu.die = s.tsu.die := by
  rw [h.frame]
  rfl

end

/-- What staging `x` leaves: `x` in its transaction, and in the staged bank where it is a plate write; or the reason against it. -/
def StagesOrTells (c : Cmd) (op : Nat) (x : Staged) (s t : State) : Prop :=
  (stageBar s c x = none → Stages c op x s t ∧
    (∀ n y, x = .plate n y → tget zeroPlateEntry t.tsu.plate.other n = y) ∧ (x = .plateClear → t.tsu.plate.other = [])) ∧
  (∀ st, stageBar s c x = some st → Answers c op st t ∧ (t.base c.part).txns = (s.base c.part).txns ∧ PartOnly c.part s t)

/-- A command that comes to staging `x`: `x` joins its transaction, or the command ends with the reason. -/
theorem completes_of_stage {i : Instr} {c : Cmd} {op : Nat} {ok : Bool} {x : Staged} {s : State} {f : State → State}
    (hready : hsReady s c = true) (hmbx : c.mbx ≤ 3) (hdie : x.slot.1 = 0 → c.part = .tsu)
    (hexec : exec i s = onCmd c op ok s f) (hok : ok = true)
    (hf : ∀ m, ∃ k, f (s.withMbs m) = stage (s.withMbs m) c op x k (stagedEffect x)) :
    Completes i s (StagesOrTells c op x s) := by
  subst hok
  have htaken := cmdTake_taken s c op
  rw [onCmd_taken (fun _ => hmbx) hready] at hexec
  generalize cmdTake s c op = u at *
  obtain ⟨k, hk⟩ := hf u.tsu.mbs
  rw [← htaken.frame] at hk
  have hheld : c.part = .tsu → (u.mbox c.mbx).held = [] := fun h => htaken.held.trans (held_of_hsReady hready h)
  refine ⟨_, hexec.trans (congrArg _ hk), fun hbar => ?_, fun st hbar => ?_⟩
  · obtain ⟨⟨⟨q, hq, hstaged⟩, hanswers, hpart⟩, hplate⟩ := stage_taken op k hheld hdie ((htaken.stageBar_eq x).trans hbar)
    rw [htaken.txn_eq] at hq
    exact ⟨⟨⟨q, hq, hstaged⟩, hanswers, partOnly_trans htaken.part hpart⟩, hplate⟩
  · obtain ⟨hanswers, htxns, -, hpart⟩ := stage_refused op k (stagedEffect x) hheld ((htaken.stageBar_eq x).trans hbar)
    exact ⟨hanswers, htxns.trans (congrArg Base.txns (htaken.base_eq _)), partOnly_trans htaken.part hpart⟩

/-! ### Who may stage what (R312, R391, R392) -/

theorem dieOnly_of_tsu {c : Cmd} (op : Nat) (s : State) (f : State → State) (h : c.part = .tsu) : dieOnly c op s f = f s :=
  if_pos (by rw [h]; rfl)

theorem distOnly_of_dist {c : Cmd} (op : Nat) (s : State) (f : State → State) (h : c.part = .dist) : distOnly c op s f = f s :=
  if_pos (by rw [h]; rfl)

theorem sliceCmd_of_may {c : Cmd} (op : Nat) {s : State} (f : State → State) (h : isM0 c = true ∨ s.tsu.die.sliceValid = true) :
    sliceCmd c op s f = f s := if_pos (by simpa using h)

/-! ### The commands with operands that the tables allow -/

section
variable {c : Cmd} {s : State}

section
variable (hpart : c.part = .tsu) (hmay : isM0 c = true ∨ s.tsu.die.sliceValid = true)
include hpart hmay

theorem cmdPlateWrite_stages {n k : Nat} {e y : Entry} (hn : n < 8192) (he : entryTake e = some (y, k)) :
    cmdPlateWrite c n e s = stage s c 0x10 (.plate n y) k (stagedEffect (.plate n y)) := by
  unfold cmdPlateWrite
  rw [dieOnly_of_tsu _ _ _ hpart, sliceCmd_of_may _ _ hmay, he]
  exact if_neg (Nat.not_le.mpr hn)

theorem cmdPlateAppend_stages {n k : Nat} {e y : Entry} (hn : freeEntry s = some n) (he : entryTake e = some (y, k)) :
    cmdPlateAppend c e s = stage s c 0x11 (.plate n y) k (stagedEffect (.plate n y)) := by
  unfold cmdPlateAppend
  rw [dieOnly_of_tsu _ _ _ hpart, sliceCmd_of_may _ _ hmay, he, hn]
  rfl

theorem cmdPlateClear_stages : cmdPlateClear c s = stage s c 0x13 .plateClear 0 (stagedEffect .plateClear) := by
  unfold cmdPlateClear
  rw [dieOnly_of_tsu _ _ _ hpart, sliceCmd_of_may _ _ hmay]
  rfl

theorem cmdRgroupWrite_stages {g : Nat} {m : BitVec 144} (hlo : 0 < g) (hhi : g < 256) :
    cmdRgroupWrite c g m s = stage s c 0x14 (.rgroup g m) 0 (stagedEffect (.rgroup g m)) := by
  unfold cmdRgroupWrite
  rw [dieOnly_of_tsu _ _ _ hpart, sliceCmd_of_may _ _ hmay, if_neg (by omega)]
  rfl

theorem cmdDescWrite_stages {n : Nat} {d : Desc} (hn : n < 1024) (hop : opReserved d.op = false) (hnames : descNames d = true)
    (hbufs : descBufsOk s c n (descClamp d).1 = true) : cmdDescWrite c n d s =
      stage s c 0x15 (.desc n (descClamp d).1) (descClamp d).2 (stagedEffect (.desc n (descClamp d).1)) := by
  unfold cmdDescWrite
  rw [dieOnly_of_tsu _ _ _ hpart, sliceCmd_of_may _ _ hmay]
  dsimp only
  rw [if_neg (by simp [hn, hop, hnames, hbufs])]
  rfl

end

/-! Mailbox 0 alone stages what follows. -/

theorem cmdTurningSet_stages {l : Nat} (z : Option St) (n : Option Nat) (b : Option Step) (hl : l < 64) :
    ∃ k, cmdTurningSet c l z n b s = stage s c 0x16
      (.turning l ((z.map (originClamp (s.now c.part))).map Prod.fst) ((n.map lenClamp).map Prod.fst) b) k id := by
  unfold cmdTurningSet
  rw [if_neg (Nat.not_le.mpr hl)]
  exact ⟨_, rfl⟩

theorem cmdSliceAssign_stages {l : Nat} (v : Bool) (hpart : c.part = .tsu) (hl : l < 64) :
    cmdSliceAssign c l v s = stage s c 0x17 (.assign l v) 0 id := by
  unfold cmdSliceAssign
  rw [dieOnly_of_tsu _ _ _ hpart]
  exact if_neg (Nat.not_le.mpr hl)

theorem cmdSliceMapWrite_stages {l : Nat} (m : BitVec 96) (hpart : c.part = .dist) (hl : l < 64) :
    cmdSliceMapWrite c l m s = stage s c 0x18 (.sliceMap l (m &&& roleMask s.role)) 0 id := by
  unfold cmdSliceMapWrite
  rw [distOnly_of_dist _ _ _ hpart]
  exact if_neg (Nat.not_le.mpr hl)

theorem cmdSliceWeight_stages {n l : Nat} (w : Nat) (hpart : c.part = .dist) (hn : n < 128) (hl : l < 64) :
    cmdSliceWeight c n l w s = stage s c 0x19 (.weight n l (clampN 1 255 w)) (bit (clampN 1 255 w != w)) id := by
  unfold cmdSliceWeight
  rw [distOnly_of_dist _ _ _ hpart]
  exact if_neg (by omega)

section
variable {g : Nat} {q : HPiece} (hg : g < 4096) (hslice : q.slice < 64) (hroom : groupsUsed s c.part < 4096)
include hg hslice hroom

theorem cmdHgroupWrite_stages_die (hpart : c.part = .tsu) (hdone : q.doneCtr < 4096 ∨ q.doneCtr = 0x1FFF) :
    ∃ k, cmdHgroupWrite c g q s =
      stage s c 0x1A (.hgroup g { q with arrivals := clampN 1 576 q.arrivals, top := false, mask := 0 }) k id := by
  unfold cmdHgroupWrite
  dsimp only
  rw [if_neg (by simp; omega), if_neg (Nat.not_le.mpr hroom), hpart]
  exact ⟨_, rfl⟩

theorem cmdHgroupWrite_stages_dist (hpart : c.part = .dist) : cmdHgroupWrite c g q s = stage s c 0x1A
    (.hgroup g { q with member := false, arrivals := 0, doneCtr := 0x1FFF, mask := q.mask &&& roleMask s.role }) 0 id := by
  unfold cmdHgroupWrite
  dsimp only
  rw [if_neg (by simp [hpart, hg, hslice]), if_neg (Nat.not_le.mpr hroom), hpart]

end

theorem cmdHgroupFree_stages {g : Nat} (hg : g < 4096) (hexists : groupExists s c g = true) :
    cmdHgroupFree c g s = stage s c 0x1B (.hfree g) 0 id := if_neg (by simp [hg, hexists])

theorem cmdSgWrite_stages {g : Nat} {f : SgFields} {q : Txn} (hpart : c.part = .dist) (hroot : servesRoot s = true) (hg : g < 256)
    (hslice : f.slice < 64) (hgroup : f.group < 4096) (htxn : s.txn .dist c.txn = some q) :
    ∃ k, cmdSgWrite c g f s = stage s c 0x1C (.sg g (sgClamp (hopTu s) (lenAfter s .dist q f.slice) f).1) k id := by
  unfold cmdSgWrite
  rw [distOnly_of_dist _ _ _ hpart, if_neg (by simp [hroot, hg, hslice, hgroup]), htxn]
  exact ⟨_, rfl⟩

theorem cmdLedgerPart_stages (qs : List Nat) (hpart : c.part = .dist) (hroot : servesRoot s = true) :
    cmdLedgerPart c qs s = stage s c 0x1D (.ledgerPart ((List.range 64).map fun k => (qs[k]?).getD 0)) 0 id := by
  unfold cmdLedgerPart
  rw [distOnly_of_dist _ _ _ hpart]
  exact if_pos hroot

theorem cmdCtxSave_stages (a : W64) (n : Step) (hpart : c.part = .tsu) :
    cmdCtxSave c a n s = stage s c 0x1E (.ctxSave a n) 0 id := dieOnly_of_tsu _ _ _ hpart

theorem cmdCtxRestore_stages (m : CtxImage) (n : Step) (hpart : c.part = .tsu) :
    cmdCtxRestore c m true n s = stage s c 0x1F (.ctxRestore m n) 0 id := dieOnly_of_tsu _ _ _ hpart

theorem cmdPart_stages (n : Step) (hpart : c.part = .tsu) : cmdPart c n s = stage s c 0x20 (.part n) 0 id :=
  dieOnly_of_tsu _ _ _ hpart

theorem cmdConfigWrite_stages {n : Nat} {v : W64} {r : CfgReg}
    (hmay : isM0 c = true ∨ 0x6000 ≤ 8 * n ∧ 8 * n < 0x7000 ∧ s.tsu.die.sliceValid = true) (hreg : cfgReg c.part (8 * n) = some r) :
    ∃ k, cmdConfigWrite c n v s = stage s c 0x21 (.config n (BitVec.ofNat 64 (cfgClamp r v.toNat).1)) k id := by
  unfold cmdConfigWrite
  dsimp only
  rw [if_neg ?_, hreg]
  · exact ⟨_, rfl⟩
  · rcases hmay with hm0 | ⟨hlo, hhi, hvalid⟩
    · simp [hm0]
    · simp [hlo, hhi, hvalid]

end

/-! ### PLATE_APPEND beyond a full bank and PLATE_LOAD (R189, R392) -/

theorem cmdPlateAppend_full {c : Cmd} {e y : Entry} {k : Nat} {s : State} (hpart : c.part = .tsu)
    (hmay : isM0 c = true ∨ s.tsu.die.sliceValid = true) (he : entryTake e = some (y, k)) (hfull : freeEntry s = none)
    (hbar : stageBar s c (.plateAppend y) = none) :
    cmdPlateAppend c e s = done (restaged s c (stagePut (.plateAppend y))) c 0x11 .full := by
  unfold cmdPlateAppend
  rw [dieOnly_of_tsu _ _ _ hpart, sliceCmd_of_may _ _ hmay, he, hfull]
  dsimp only
  rw [hbar]
  rfl

/-- The staged writes of a PLATE_LOAD: each entry with its place after the first one. -/
def loadWrites (first : Nat) (l : List ((Entry × Nat) × Nat)) : List Staged := l.map fun y => .plate (first + y.2) y.1.1

/-- One entry of a PLATE_LOAD, `y.2` places after the first. -/
def loadOne (c : Cmd) (first : Nat) (s : State) (y : (Entry × Nat) × Nat) : State :=
  stagedEffect (.plate (first + y.2) y.1.1) (restaged s c (stagePut (.plate (first + y.2) y.1.1)))

theorem loadOne_txn (c : Cmd) (first : Nat) (s : State) (y : (Entry × Nat) × Nat) : (loadOne c first s y).txn c.part c.txn =
    (s.txn c.part c.txn).map fun q => { q with staged := q.staged ++ [.plate (first + y.2) y.1.1] } :=
  (txn_eq_of_txns (congrArg Base.txns (stagedEffect_base ..)) _).trans (restaged_txn s c (stagePut (.plate (first + y.2) y.1.1)))

theorem foldl_loadOne {c : Cmd} (first : Nat) (hpart : c.part = .tsu) : ∀ (l : List ((Entry × Nat) × Nat)) (s : State),
    let t := l.foldl (loadOne c first) s
    t.txn c.part c.txn = (s.txn c.part c.txn).map (fun q => { q with staged := q.staged ++ loadWrites first l }) ∧
    (∀ m, t.mbox m = s.mbox m) ∧ PartOnly c.part s t
  | [], s => by
    refine ⟨?_, fun _ => rfl, partOnly_refl ..⟩
    simp [loadWrites]
  | y :: l, s => by
    obtain ⟨htxn, hmbox, honly⟩ := foldl_loadOne first hpart l (loadOne c first s y)
    refine ⟨?_, fun m => (hmbox m).trans ((stagedEffect_mbox ..).trans (restaged_mbox ..)),
      partOnly_trans (restaged_part ..) (partOnly_trans (stagedEffect_part _ _ fun _ => hpart) honly)⟩
    rw [List.foldl_cons, htxn, loadOne_txn, Option.map_map]
    simp [loadWrites, Function.comp_def]

section
variable {c : Cmd} {first : Nat} {es : List Entry} {ok : Bool} {s : State} (hpart : c.part = .tsu)
  (hmay : isM0 c = true ∨ s.tsu.die.sliceValid = true)
include hpart hmay

/-- A load that DMA, the bank or an entry does not allow stages none. -/
theorem cmdPlateLoad_bad (h : ok = false ∨ 8192 < first + es.length ∨ (es.filterMap entryTake).length < es.length) :
    cmdPlateLoad c first es ok s = done s c 0x12 .badCommand := by
  unfold cmdPlateLoad
  rw [dieOnly_of_tsu _ _ _ hpart, sliceCmd_of_may _ _ hmay]
  exact if_pos (by simpa [or_assoc] using h)

section
variable (hok : ok = true) (hfits : first + es.length ≤ 8192) (htaken : (es.filterMap entryTake).length = es.length)
include hok hfits htaken

theorem cmdPlateLoad_refused {st : Status} (hbar : stageBar s c (.plateAppend zeroPlateEntry) = some st) :
    cmdPlateLoad c first es ok s = done s c 0x12 st := by
  unfold cmdPlateLoad
  rw [dieOnly_of_tsu _ _ _ hpart, sliceCmd_of_may _ _ hmay]
  dsimp only
  rw [if_neg (by simp [hok, hfits, htaken]), hbar]

theorem cmdPlateLoad_loads (hbar : stageBar s c (.plateAppend zeroPlateEntry) = none) : ∃ k,
    cmdPlateLoad c first es ok s = done (((es.filterMap entryTake).zip (List.range (es.filterMap entryTake).length)).foldl
      (loadOne c first) (clampedBy s c k)) c 0x12 .ok := by
  unfold cmdPlateLoad
  rw [dieOnly_of_tsu _ _ _ hpart, sliceCmd_of_may _ _ hmay]
  dsimp only
  rw [if_neg (by simp [hok, hfits, htaken]), hbar]
  exact ⟨_, rfl⟩

end

end

theorem done_loaded {c : Cmd} {s u : State} (first k : Nat) (l : List ((Entry × Nat) × Nat)) (hready : hsReady s c = true)
    (hpart : c.part = .tsu) (htaken : Taken c s u) (hopen : ∃ q, s.txn c.part c.txn = some q) :
    let t := done (l.foldl (loadOne c first) (clampedBy u c k)) c 0x12 .ok
    (∃ q, s.txn c.part c.txn = some q ∧ t.txn c.part c.txn = some { q with staged := q.staged ++ loadWrites first l }) ∧
      Answers c 0x12 .ok t ∧ PartOnly c.part s t := by
  obtain ⟨hput, hmbox, hloaded⟩ := foldl_loadOne first hpart l (clampedBy u c k)
  have hclamped := clampedBy_counts u c k
  rw [hclamped.txn_eq, htaken.txn_eq] at hput
  refine done_joins (g := (· ++ loadWrites first l)) hopen hput (fun h => ?_)
    (partOnly_trans htaken.part (partOnly_trans hclamped.part hloaded)) (by decide)
  rw [hmbox, hclamped.mbox_eq, htaken.held, held_of_hsReady hready h]

/-! ### Commands that end at once -/

theorem cmdPlateWrite_denied {c : Cmd} {s : State} (n : Nat) (e : Entry) (hpart : c.part = .tsu) (hm0 : isM0 c = false)
    (hnone : s.tsu.die.sliceValid = false) : cmdPlateWrite c n e s = done s c 0x10 .denied := by
  unfold cmdPlateWrite sliceCmd
  rw [dieOnly_of_tsu _ _ _ hpart, hm0, hnone]
  rfl

theorem cmdConfigWrite_denied {c : Cmd} {s : State} {n : Nat} (v : W64) (hm0 : isM0 c = false) (hlow : 8 * n < 0x6000) :
    cmdConfigWrite c n v s = done s c 0x21 .denied := if_pos (by simp [hm0]; omega)

theorem completes_of_done {i : Instr} {c : Cmd} {op : Nat} {st : Status} {s u : State} (hready : hsReady s c = true)
    (hpart : c.part = .tsu) (hst : st ≠ .pending) (htaken : Taken c s u) (hexec : exec i s = .next (done u c op st)) :
    Completes i s fun t => Answers c op st t ∧ t.tsu.b.txns = s.tsu.b.txns ∧ t.tsu.plate = s.tsu.plate ∧ TsuOnly s t := by
  obtain ⟨hanswers, htxns, hplate, honly⟩ := done_spec (s := u) op
    (fun h => htaken.held.trans (held_of_hsReady hready h)) hst
  have honly := partOnly_trans htaken.part honly
  rw [hpart] at htxns honly
  exact ⟨_, hexec, hanswers, htxns.trans (congrArg Base.txns (htaken.base_eq .tsu)), hplate.trans htaken.plate_eq, honly⟩

/-- Beyond a full bank the entry is staged all the same, so that its prepare fails (R189). -/
theorem plateAppend_full {c : Cmd} {e y : Entry} {k : Nat} {s : State} (hready : hsReady s c = true) (hmbx : c.mbx ≤ 3)
    (hpart : c.part = .tsu) (hmay : isM0 c = true ∨ s.tsu.die.sliceValid = true) (he : entryTake e = some (y, k))
    (hfull : freeEntry s = none) (hbar : stageBar s c (.plateAppend y) = none) : Completes (.plateAppend c e) s fun t =>
      (∃ q, s.txn .tsu c.txn = some q ∧ t.txn .tsu c.txn = some { q with staged := stagePut (.plateAppend y) q.staged }) ∧
      Answers c 0x11 .full t ∧ TsuOnly s t := by
  have hexec : exec (.plateAppend c e) s = .next (cmdPlateAppend c e (cmdTake s c 0x11)) := onCmd_taken (fun _ => hmbx) hready
  have htaken := cmdTake_taken s c 0x11
  generalize cmdTake s c 0x11 = u at *
  have hnone : freeEntry u = none := by
    rw [htaken.frame]
    exact hfull
  rw [cmdPlateAppend_full hpart (htaken.die_eq ▸ hmay) he hnone ((htaken.stageBar_eq _).trans hbar)] at hexec
  have hput := restaged_txn u c (stagePut (.plateAppend y))
  rw [htaken.txn_eq] at hput
  have hjoined := done_joins (op := 0x11) (st := .full) (exists_txn_of_stageBar hbar) hput
    (fun h => by rw [restaged_mbox, htaken.held, held_of_hsReady hready h])
    (partOnly_trans htaken.part (restaged_part u c (stagePut (.plateAppend y)))) (by decide)
  rw [hpart] at hjoined
  exact ⟨_, hexec, hjoined⟩

/-- PLATE_LOAD stages all of its entries or none (R392). -/
theorem plateLoad_all_or_none {c : Cmd} (first : Nat) (es : List Entry) (ok : Bool) {s : State} (hready : hsReady s c = true)
    (hmbx : c.mbx ≤ 3) (hpart : c.part = .tsu) (hmay : isM0 c = true ∨ s.tsu.die.sliceValid = true) :
    Completes (.plateLoad c first es ok) s fun t =>
      let ys := es.filterMap entryTake
      (ok = false ∨ 8192 < first + es.length ∨ ys.length < es.length →
        Answers c 0x12 .badCommand t ∧ t.tsu.b.txns = s.tsu.b.txns ∧ t.tsu.plate = s.tsu.plate) ∧
      (ok = true → first + es.length ≤ 8192 → ys.length = es.length → stageBar s c (.plateAppend zeroPlateEntry) = none →
        (∃ q, s.txn .tsu c.txn = some q ∧ t.txn .tsu c.txn = some { q with
          staged := q.staged ++ loadWrites first (ys.zip (List.range ys.length)) }) ∧ Answers c 0x12 .ok t) ∧ TsuOnly s t := by
  have hexec : exec (.plateLoad c first es ok) s = .next (cmdPlateLoad c first es ok (cmdTake s c 0x12)) :=
    onCmd_taken (fun _ => hmbx) hready
  have htaken := cmdTake_taken s c 0x12
  generalize cmdTake s c 0x12 = u at *
  have hmayTaken : isM0 c = true ∨ u.tsu.die.sliceValid = true := htaken.die_eq ▸ hmay
  by_cases hbad : ok = false ∨ 8192 < first + es.length ∨ (es.filterMap entryTake).length < es.length
  · rw [cmdPlateLoad_bad hpart hmayTaken hbad] at hexec
    obtain ⟨t, hnext, hanswers, htxns, hplate, honly⟩ := completes_of_done hready hpart (by decide) htaken hexec
    refine ⟨t, hnext, fun _ => ⟨hanswers, htxns, hplate⟩, fun hok hfits hall => absurd hbad ?_, honly⟩
    simp [hok, hfits, hall]
  · obtain ⟨hok, hfits, hall⟩ : ok = true ∧ first + es.length ≤ 8192 ∧ (es.filterMap entryTake).length = es.length := by
      simp only [not_or, Bool.not_eq_false, not_lt] at hbad
      exact ⟨hbad.1, hbad.2.1, le_antisymm (List.length_filterMap_le ..) hbad.2.2⟩
    cases hbar : stageBar s c (.plateAppend zeroPlateEntry) with
    | some st =>
      rw [cmdPlateLoad_refused hpart hmayTaken hok hfits hall ((htaken.stageBar_eq _).trans hbar)] at hexec
      obtain ⟨t, hnext, -, -, -, honly⟩ := completes_of_done hready hpart (stageBar_ne_pending hbar) htaken hexec
      exact ⟨t, hnext, fun h => absurd h hbad, fun _ _ _ h => absurd h (by simp), honly⟩
    | none =>
      obtain ⟨k, hload⟩ := cmdPlateLoad_loads hpart hmayTaken hok hfits hall ((htaken.stageBar_eq _).trans hbar)
      rw [hload] at hexec
      have hloaded := done_loaded first k ((es.filterMap entryTake).zip (List.range (es.filterMap entryTake).length)) hready hpart
        htaken (exists_txn_of_stageBar hbar)
      rw [hpart] at hloaded
      obtain ⟨hstaged, hanswers, honly⟩ := hloaded
      exact ⟨_, hexec, fun h => absurd h hbad, fun _ _ _ _ => ⟨hstaged, hanswers⟩, honly⟩

/-- Settles O45: every staged command by `completes_of_stage`, PLATE_APPEND beyond a full bank and PLATE_LOAD by `done_joins`, and
a refused one by `completes_of_done`. -/
theorem stagedCommandsJoinTheirTransaction : Obligations.StagedCommandsJoinTheirTransaction := by
  unfold Obligations.StagedCommandsJoinTheirTransaction
  refine ⟨?stages, ?full, ?load, ?denied⟩
  case stages =>
    intro i c op x s hready hmbx hcases
    rcases hcases with ⟨hmay, hpart, hcases⟩ | ⟨hm0, hcases⟩ | ⟨hmay, k, v, r, rfl, rfl, hreg, rfl⟩
    · rcases hcases with ⟨n, e, y, k, rfl, rfl, hn, he, rfl⟩ | ⟨n, e, y, k, rfl, rfl, hn, he, rfl⟩ | ⟨rfl, rfl, rfl⟩ |
        ⟨g, m, rfl, rfl, hlo, hhi, rfl⟩ | ⟨k, d, rfl, rfl, hk, hop, hnames, hbufs, rfl⟩
      all_goals refine completes_of_stage hready hmbx (fun _ => hpart) rfl rfl fun m => ?_
      · exact ⟨_, cmdPlateWrite_stages (s := s.withMbs m) hpart hmay hn he⟩
      · exact ⟨_, cmdPlateAppend_stages (s := s.withMbs m) hpart hmay hn he⟩
      · exact ⟨_, cmdPlateClear_stages (s := s.withMbs m) hpart hmay⟩
      · exact ⟨_, cmdRgroupWrite_stages (s := s.withMbs m) hpart hmay hlo hhi⟩
      · exact ⟨_, cmdDescWrite_stages (s := s.withMbs m) hpart hmay hk hop hnames hbufs⟩
    · rcases hcases with ⟨l, z, n, b, rfl, rfl, hl, rfl⟩ | ⟨l, v, rfl, rfl, hpart, hl, rfl⟩ |
        ⟨l, mask, rfl, rfl, hpart, hl, rfl⟩ | ⟨k, l, w, rfl, rfl, hpart, hk, hl, rfl⟩ |
        ⟨g, q, rfl, rfl, hg, hslice, hroom, hdie, hdist⟩ |
        ⟨g, rfl, rfl, hg, hexists, rfl⟩ | ⟨g, f, q, rfl, rfl, hpart, hroot, hg, hslice, hgroup, htxn, rfl⟩ |
        ⟨qs, rfl, rfl, hpart, hroot, rfl⟩ | ⟨a, n, rfl, rfl, hpart, rfl⟩ | ⟨img, n, rfl, rfl, hpart, rfl⟩ |
        ⟨n, rfl, rfl, hpart, rfl⟩
      · exact completes_of_stage hready hmbx nofun rfl hm0 fun m => cmdTurningSet_stages (s := s.withMbs m) z n b hl
      · exact completes_of_stage hready hmbx nofun rfl hm0 fun m => ⟨_, cmdSliceAssign_stages (s := s.withMbs m) v hpart hl⟩
      · exact completes_of_stage hready hmbx nofun rfl hm0 fun m => ⟨_, cmdSliceMapWrite_stages (s := s.withMbs m) mask hpart hl⟩
      · exact completes_of_stage hready hmbx nofun rfl hm0 fun m => ⟨_, cmdSliceWeight_stages (s := s.withMbs m) w hpart hk hl⟩
      · cases hpart : c.part with
        | tsu =>
          obtain ⟨hdone, rfl⟩ := hdie hpart
          rw [← hpart]
          exact completes_of_stage hready hmbx nofun rfl hm0 fun m =>
            cmdHgroupWrite_stages_die (s := s.withMbs m) hg hslice hroom hpart hdone
        | dist =>
          obtain rfl := hdist hpart
          rw [← hpart]
          exact completes_of_stage hready hmbx nofun rfl hm0 fun m =>
            ⟨_, cmdHgroupWrite_stages_dist (s := s.withMbs m) hg hslice hroom hpart⟩
      · exact completes_of_stage hready hmbx nofun rfl hm0 fun m => ⟨_, cmdHgroupFree_stages (s := s.withMbs m) hg hexists⟩
      · exact completes_of_stage hready hmbx nofun rfl hm0 fun m => cmdSgWrite_stages (s := s.withMbs m) hpart hroot hg hslice hgroup htxn
      · exact completes_of_stage hready hmbx nofun rfl hm0 fun m => ⟨_, cmdLedgerPart_stages (s := s.withMbs m) qs hpart hroot⟩
      · exact completes_of_stage hready hmbx nofun rfl hm0 fun m => ⟨_, cmdCtxSave_stages (s := s.withMbs m) a n hpart⟩
      · exact completes_of_stage hready hmbx nofun rfl hm0 fun m => ⟨_, cmdCtxRestore_stages (s := s.withMbs m) img n hpart⟩
      · exact completes_of_stage hready hmbx nofun rfl hm0 fun m => ⟨_, cmdPart_stages (s := s.withMbs m) n hpart⟩
    · refine completes_of_stage hready hmbx nofun rfl rfl fun m => cmdConfigWrite_stages (s := s.withMbs m) (hmay.imp_right ?_) hreg
      rintro ⟨k', v', heq, hlo, hhi, hvalid⟩
      obtain ⟨-, rfl, -⟩ := Instr.configWrite.inj heq
      exact ⟨hlo, hhi, hvalid⟩
  case full => exact fun c e y k s hready hmbx hpart hmay he hfull hbar => plateAppend_full hready hmbx hpart hmay he hfull hbar
  case load =>
    rintro c first es _ ok s hready hmbx hpart hmay rfl
    exact plateLoad_all_or_none first es ok hready hmbx hpart hmay
  case denied =>
    intro i c op s hready hpart hm hmbx hcases
    have hm0 : isM0 c = false := by simp [isM0, hm, hpart]
    have hrefused : ∀ f, exec i s = onCmd c op (isM0 c) s f → exec i s = .next (done (cmdTake s c op) c op .denied) := fun f h => by
      rw [h, hm0, onCmd_refused hmbx hready]
    refine completes_of_done hready hpart (by decide) (cmdTake_taken s c op) ?_
    rcases hcases with ⟨l, z, n, b, rfl, rfl⟩ | ⟨l, v, rfl, rfl⟩ | ⟨g, q, rfl, rfl⟩ | ⟨g, rfl, rfl⟩ | ⟨a, n, rfl, rfl⟩ |
      ⟨img, k, n, rfl, rfl⟩ | ⟨n, rfl, rfl⟩ | ⟨n, e, rfl, rfl, hvalid⟩ | ⟨k, v, rfl, rfl, hlow⟩
    any_goals exact hrefused _ rfl
    · exact (onCmd_taken (fun _ => hmbx) hready).trans (congrArg _ (cmdPlateWrite_denied n e hpart hm0
        ((congrArg Die.sliceValid (cmdTake_taken s c 0x10).die_eq).trans hvalid)))
    · exact (onCmd_taken (fun _ => hmbx) hready).trans (congrArg _ (cmdConfigWrite_denied v hm0 hlow))

end Sys2Proof.Machine

namespace Sys2Proof.Machine

open Sys2Proof

/-! ### A request that the counter port takes (R424, R446) -/

/-- A part of the state that no step of a fold changes. -/
theorem foldl_fixed {α β : Type} (g : State → β) {f : State → α → State} (h : ∀ s a, g (f s a) = g s) :
    ∀ (l : List α) (s : State), g (l.foldl f s) = g s
  | [], _ => rfl
  | a :: l, s => (foldl_fixed g h l (f s a)).trans (h s a)

/-- `s` after a core's request has counted for its region's mark interval (R424). -/
def requested (core : Nat) (s : State) : State := s.modRegion (core / 4) fun r => { r with ctrOps := r.ctrOps + 1 }

theorem requested_only (core : Nat) (s : State) : TsuOnly s (requested core s) := ⟨rfl, rfl, rfl⟩

theorem requested_ctrOps (core : Nat) (s : State) :
    ((requested core s).region (core / 4)).ctrOps = (s.region (core / 4)).ctrOps + 1 := by
  unfold requested
  rw [region_modRegion]

theorem PortOpen.awake {s : State} {core : Nat} (h : PortOpen s core) : coreInReset (requested core s) core = false := by
  obtain ⟨-, hawake, -⟩ := h
  exact hawake

/-- An open port performs a core's request at once. -/
theorem exec_of_portOpen {i : Instr} {core : Nat} {q : PortReq} {f : State → State} {s : State} (hopen : PortOpen s core)
    (hexec : exec i s = onCore core s (portGate core q f)) : exec i s = .next (f (requested core s)) := by
  obtain ⟨hcore, -, hclosed⟩ := hopen
  refine hexec.trans (onCore_next.mpr ⟨hcore, ?_⟩)
  unfold portGate
  rw [if_neg (by rw [State.modRegion, hclosed]; decide)]
  rfl

theorem completes_of_portOpen {i : Instr} {core : Nat} {q : PortReq} {f : State → State} {s : State} {post : State → Prop}
    (hopen : PortOpen s core) (hexec : exec i s = onCore core s (portGate core q f)) (hpost : post (f (requested core s))) :
    Completes i s post := ⟨_, exec_of_portOpen hopen hexec, hpost⟩

/-- A closed port keeps a core's request until it reopens (R252, R446). -/
theorem completes_of_portClosed {i : Instr} {core : Nat} {q : PortReq} {f : State → State} {s : State} {post : State → Prop}
    (hcore : core < 576) (hclosed : s.tsu.sync.closed = true) (hexec : exec i s = onCore core s (portGate core q f))
    (hpost : post ((requested core s).modSync fun y => { y with waiting := y.waiting ++ [q] })) : Completes i s post := by
  refine ⟨_, hexec.trans (onCore_next.mpr ⟨hcore, rfl⟩), ?_⟩
  unfold portGate
  rw [if_pos (by rw [State.modRegion, hclosed])]
  exact hpost

/-! ### The completion of a core's request (R446) -/

/-- `s` with a completion for a core on the counter port. -/
def answered (s : State) (core : Nat) (ctag : BitVec 16) (st : Status) (v : W32) : State :=
  s.modSync fun y => { y with cpl := tset none y.cpl core (some { ctag, status := st, value := v }) }

theorem complete_of_awake {s : State} {core : Nat} (ctag : BitVec 16) (st : Status) (v : W32) (h : coreInReset s core = false) :
    complete s core ctag st v = answered s core ctag st v := by
  unfold complete
  rw [h]
  rfl

theorem coreCompleted_answered (s : State) (core : Nat) (ctag : BitVec 16) (st : Status) (v : W32) :
    CoreCompleted (answered s core ctag st v) core ctag st v := by
  unfold CoreCompleted answered
  rw [State.modSync_sync, tget_tset_eq]

theorem DeliversOnly.only {s t : State} (h : DeliversOnly s t) : TsuOnly s t := by rw [h.frame]; exact ⟨rfl, rfl, rfl⟩

theorem DeliversOnly.coreInReset_eq {s t : State} (h : DeliversOnly s t) (core : Nat) : coreInReset t core = coreInReset s core := by
  rw [h.frame]
  rfl

theorem DeliversOnly.coreCompleted {s t : State} {core : Nat} {ctag : BitVec 16} {st : Status} {v : W32} (h : DeliversOnly s t)
    (hs : CoreCompleted s core ctag st v) : CoreCompleted t core ctag st v := by
  rw [h.frame]
  exact hs

/-! ### Counter operations of a core (R221, R224) -/

section
variable {s : State} {core c : Nat} {ctag : BitVec 16}

theorem coreCtr_of_refuses {x : Status} (op : CtrOp) (hcore : coreInReset s core = false) (h : dieRefuses s = some x) :
    coreCtr s core ctag c op = answered s core ctag x 0 := by
  unfold coreCtr
  rw [h]
  exact complete_of_awake _ _ _ hcore

theorem coreCtr_of_ctrOp {op : CtrOp} {t : State} {st : Status} {v : W32} (h : dieRefuses s = none)
    (hop : ctrOp s c op (coreSrc s core) = (t, st, v)) (hcore : coreInReset t core = false) :
    coreCtr s core ctag c op = answered t core ctag st v := by
  unfold coreCtr
  rw [h]
  dsimp only
  rw [hop]
  exact complete_of_awake _ _ _ hcore

theorem ctrOp_of_unallocated {op : CtrOp} {src : Src} (h : (ctrOf s c).alloc = false) : ctrOp s c op src = (s, .badCommand, 0) := by
  unfold ctrOp
  simp [h]

theorem ctrWrite_awake (x : SyncCtr) (hcore : coreInReset s core = false) : coreInReset (ctrWrite s c x) core = false :=
  ((ctrWrite_delivers ..).coreInReset_eq core).trans hcore

theorem ctrFault_coreReset (overflow : Bool) (src : Src) (n : W32) :
    (ctrFault s overflow src c n).tsu.sync.coreReset = s.tsu.sync.coreReset := by
  unfold ctrFault
  dsimp only
  split
  · rw [(count_counts ..).sync_eq, (event_counts ..).sync_eq]
  · split
    · rw [(irq_counts ..).sync_eq]
      rfl
    · rfl

theorem ctrFault_awake (overflow : Bool) (src : Src) (n : W32) (hcore : coreInReset s core = false) :
    coreInReset (ctrFault s overflow src c n) core = false := by
  unfold coreInReset
  rw [ctrFault_coreReset]
  exact hcore

/-- An operation that is taken: counter `c` holds `x`. -/
theorem coreCtr_taken {op : CtrOp} {x : SyncCtr} {st : Status} {v : W32} (h : dieRefuses s = none)
    (hop : ctrOp s c op (coreSrc s core) = (ctrWrite s c x, st, v)) (hcore : coreInReset s core = false) :
    let t := coreCtr s core ctag c op
    ctrOf t c = x ∧ CoreCompleted t core ctag st v ∧ (∀ k, k ≠ c → ctrOf t k = ctrOf s k) ∧ TsuOnly s t := by
  rw [coreCtr_of_ctrOp h hop (ctrWrite_awake x hcore)]
  exact ⟨ctrWrite_ctrOf .., coreCompleted_answered .., (ctrWrite_oneCounter s c x).others, ctrWrite_only ..⟩

/-- An operation that is rejected: every counter stays, and it is recorded while the queue has room (R224). -/
theorem coreCtr_rejected {op : CtrOp} {overflow : Bool} {n : W32} {st : Status} {v : W32} (h : dieRefuses s = none)
    (hop : ctrOp s c op (coreSrc s core) = (ctrFault s overflow (coreSrc s core) c n, st, v)) (hcore : coreInReset s core = false) :
    let t := coreCtr s core ctag c op
    (∀ k, ctrOf t k = ctrOf s k) ∧ CoreCompleted t core ctag st v ∧
    (s.tsu.sync.faults.length < 256 → ∃ f, t.tsu.sync.faults = s.tsu.sync.faults ++ [f] ∧ f.overflow = overflow ∧ f.srcKind = 0 ∧
      f.srcCore = core ∧ f.counter = c ∧ f.value = (ctrOf s c).value ∧ f.n = n ∧ f.st = s.now .tsu) ∧ TsuOnly s t := by
  rw [coreCtr_of_ctrOp h hop (ctrFault_awake overflow _ n hcore)]
  refine ⟨fun k => ?_, coreCompleted_answered .., fun hroom => ?_, ctrFault_only ..⟩
  · exact congrArg (fun y : Tab SyncCtr => tget {} y k) (ctrFault_ctrs s overflow (coreSrc s core) c n).1
  · exact ⟨_, ctrFault_appends _ _ _ _ hroom, rfl, rfl, rfl, rfl, rfl, rfl, rfl⟩

end

/-- A command of a core that is a counter operation, of whatever kind. -/
theorem completes_of_coreCtr {s : State} {core c : Nat} {ctag : BitVec 16} {n : W32} {i : Instr} {post : State → Prop}
    (hopen : PortOpen s core) (hi : i = .add core ctag c n ∨ i = .sub core ctag c n ∨ i = .read core ctag c)
    (hpost : ∀ op, post (coreCtr (requested core s) core ctag c op)) : Completes i s post := by
  rcases hi with rfl | rfl | rfl
  · exact completes_of_portOpen hopen rfl (hpost _)
  · exact completes_of_portOpen hopen rfl (hpost _)
  · exact completes_of_portOpen hopen rfl (hpost _)

/-- Settles O23: ADD, SUB and READ by what `ctrWrite` and `ctrFault` leave, the rest by the completion alone, and the closed port by
`completes_of_portClosed`. -/
theorem countersAnswerTheirCores : Obligations.CountersAnswerTheirCores := by
  unfold Obligations.CountersAnswerTheirCores
  refine ⟨⟨?add, ?sub, ?read, ?unallocated, ?denied, ?refused⟩, ?closed, ?noCore⟩
  case add =>
    intro core c ctag n s hopen hrefuses halloc
    refine completes_of_portOpen hopen rfl ?_
    by_cases hfits : (ctrOf s c).value.toNat + n.toNat ≤ (ctrOf s c).limit.toNat
    · obtain ⟨hwritten, hdone, hothers, honly⟩ := coreCtr_taken (s := requested core s) (ctag := ctag) hrefuses
        (ctrOp_add_of_le halloc hfits) hopen.awake
      exact ⟨fun _ => ⟨hwritten, hdone⟩, fun h => absurd hfits (Nat.not_le.mpr h), hothers, honly⟩
    · obtain ⟨hkept, hdone, hfault, honly⟩ := coreCtr_rejected (s := requested core s) (ctag := ctag) hrefuses
        (ctrOp_add_of_gt halloc (Nat.not_le.mp hfits)) hopen.awake
      exact ⟨fun h => absurd h hfits, fun _ => ⟨hkept c, hdone, hfault⟩, fun k _ => hkept k, honly⟩
  case sub =>
    intro core c ctag n s hopen hrefuses halloc
    refine completes_of_portOpen hopen rfl ?_
    by_cases hfits : n.toNat ≤ (ctrOf s c).value.toNat
    · obtain ⟨hwritten, hdone, hothers, honly⟩ := coreCtr_taken (s := requested core s) (ctag := ctag) hrefuses
        (ctrOp_sub_of_le halloc hfits) hopen.awake
      exact ⟨fun _ => ⟨hwritten, hdone⟩, fun h => absurd hfits (Nat.not_le.mpr h), hothers, honly⟩
    · obtain ⟨hkept, hdone, hfault, honly⟩ := coreCtr_rejected (s := requested core s) (ctag := ctag) hrefuses
        (ctrOp_sub_of_lt halloc (Nat.not_le.mp hfits)) hopen.awake
      exact ⟨fun h => absurd h hfits, fun _ => ⟨hkept c, hdone, hfault⟩, fun k _ => hkept k, honly⟩
  case read =>
    intro core c ctag s hopen hrefuses halloc
    refine completes_of_portOpen hopen rfl ?_
    obtain ⟨hwritten, hdone, hothers, honly⟩ := coreCtr_taken (s := requested core s) (ctag := ctag) hrefuses
      (ctrOp_read halloc) hopen.awake
    refine ⟨hdone, fun k => ?_, honly⟩
    by_cases hk : k = c
    · exact hk ▸ hwritten
    · exact hothers k hk
  case unallocated =>
    intro core c ctag n i s hopen hrefuses halloc hi
    refine completes_of_coreCtr hopen hi fun op => ?_
    rw [coreCtr_of_ctrOp (s := requested core s) hrefuses (ctrOp_of_unallocated halloc) hopen.awake]
    exact ⟨coreCompleted_answered .., rfl, rfl, requested_only core s⟩
  case denied =>
    intro core c opc ctag v i st s hopen hi
    have hanswer := complete_of_awake (s := requested core s) (core := core) ctag st 0 hopen.awake
    have hpost : ∀ t, t = complete (requested core s) core ctag st 0 → CoreCompleted t core ctag st 0 ∧ t = { s with tsu := { s.tsu with
        regions := t.tsu.regions, sync := { s.tsu.sync with cpl := t.tsu.sync.cpl } } } := by
      rintro t rfl
      rw [hanswer]
      exact ⟨coreCompleted_answered .., rfl⟩
    rcases hi with ⟨rfl, rfl⟩ | ⟨rfl, rfl⟩
    · exact completes_of_portOpen hopen rfl (hpost _ rfl)
    · exact completes_of_portOpen hopen rfl (hpost _ rfl)
  case refused =>
    intro core c ctag n x i s hopen hrefuses hi
    refine completes_of_coreCtr hopen hi fun op => ?_
    rw [coreCtr_of_refuses (s := requested core s) op hopen.awake hrefuses]
    exact ⟨coreCompleted_answered .., rfl, requested_only core s⟩
  case closed =>
    intro core tag a b d n w x y g m e i q s hcore hclosed hi
    obtain ⟨f, hexec⟩ : ∃ f, exec i s = onCore core s (portGate core q f) := by
      simp only [List.mem_cons, Prod.mk.injEq, List.not_mem_nil, or_false] at hi
      rcases hi with ⟨rfl, rfl⟩ | ⟨rfl, rfl⟩ | ⟨rfl, rfl⟩ | ⟨rfl, rfl⟩ | ⟨rfl, rfl⟩ | ⟨rfl, rfl⟩ | ⟨rfl, rfl⟩ | ⟨rfl, rfl⟩ |
        ⟨rfl, rfl⟩ | ⟨rfl, rfl⟩ | ⟨rfl, rfl⟩ | ⟨rfl, rfl⟩ <;> exact ⟨_, rfl⟩
    refine completes_of_portClosed hcore hclosed hexec ⟨rfl, ?_, rfl⟩
    exact requested_ctrOps core s
  case noCore =>
    intro core a tag n s hcore
    have hnone : ∀ f, onCore core s f = .fault .noSuchCore := fun f => if_neg (Nat.not_lt.mpr hcore)
    exact ⟨hnone _, hnone _, (by unfold exec execCoreCreditReturn; exact hnone _)⟩

end Sys2Proof.Machine

namespace Sys2Proof.Machine

open Sys2Proof

/-! ### The lowest free number (R219, R226) -/

theorem lowestFree_eq_some {n k : Nat} {free : Nat → Bool} (hk : k < n) (hfree : free k = true) (hlow : ∀ j, j < k → free j = false) :
    lowestFree n free = some k := by
  unfold lowestFree
  rw [List.find?_range_eq_some]
  exact ⟨hfree, List.mem_range.mpr hk, fun j hj => by rw [hlow j hj]; rfl⟩

theorem lowestFree_eq_none {n : Nat} {free : Nat → Bool} (h : ∀ k, k < n → free k = false) : lowestFree n free = none := by
  unfold lowestFree
  rw [List.find?_range_eq_none]
  exact fun k hk => by rw [h k hk]; rfl

/-! ### A message that its core takes at once (R230) -/

theorem deliver1_watches (core : Nat) (s : State) : (deliver1 core s).tsu.sync.watches = s.tsu.sync.watches := by
  have refill : ∀ y : Sync, (outRefill y).watches = y.watches := by
    intro y
    unfold outRefill
    split
    · split <;> rfl
    · rfl
  unfold deliver1
  split
  · rfl
  · split
    · rw [(count_counts ..).sync_eq]
      exact refill _
    · split
      · dsimp only
        split
        · rw [(hist_counts ..).sync_eq]
          exact refill _
        · exact refill _
      · split
        · rfl
        · rw [(count_counts ..).sync_eq]
          rfl

theorem msgPut_watches (s : State) (m : Msg) : (msgPut s m).tsu.sync.watches = s.tsu.sync.watches := by
  unfold msgPut
  dsimp only
  split
  · rfl
  · split
    · exact foldl_fixed (·.tsu.sync.watches) (fun s _ => deliver1_watches m.core s) ..
    · rfl

/-- The one message of the out-queue, of whatever kind, goes to its core, which takes it. -/
theorem deliver1_sync_of_takes {s : State} {m : Msg} (hout : s.tsu.sync.outQ = [m]) (hpend : s.tsu.sync.pend = [])
    (hreset : coreInReset s m.core = false) (hcredit : (tget [] s.tsu.sync.coreQ m.core).length < 16) :
    (deliver1 m.core s).tsu.sync = { s.tsu.sync with outQ := [], coreQ := tmod [] s.tsu.sync.coreQ m.core (· ++ [m]) } := by
  have herase : s.tsu.sync.outQ.erase m = [] := by rw [hout, List.erase_cons_head]
  have hrefill : outRefill { s.tsu.sync with
      outQ := s.tsu.sync.outQ.erase m, coreQ := tmod [] s.tsu.sync.coreQ m.core (· ++ [m]) } =
      { s.tsu.sync with outQ := [], coreQ := tmod [] s.tsu.sync.coreQ m.core (· ++ [m]) } := by
    unfold outRefill
    rw [hpend, herase]
  unfold deliver1
  rw [hout]
  simp only [List.find?_cons, beq_self_eq_true, hreset, Bool.false_eq_true, if_false, if_pos hcredit]
  split
  · rw [(hist_counts ..).sync_eq]
    exact hrefill
  · exact hrefill

theorem deliver_of_one {s : State} {m : Msg} (core : Nat) (hout : s.tsu.sync.outQ = [m]) (hpend : s.tsu.sync.pend = []) :
    deliver core s = deliver1 core (deliver1 core s) := by
  unfold deliver
  rw [hout, hpend]
  rfl

/-- A message that its core takes at once stands last in the core's queue, and the out-queue is empty again. -/
theorem msgPut_sync_of_coreTakes {s : State} {m : Msg} (h : CoreTakes s m.core) :
    (msgPut s m).tsu.sync = { s.tsu.sync with outQ := [], coreQ := tmod [] s.tsu.sync.coreQ m.core (· ++ [m]) } := by
  obtain ⟨hreset, hcredit, hout, hpend⟩ := h
  have hput : msgPut s m = deliver m.core (s.modSync fun y => { y with outQ := [m] }) := by
    unfold msgPut
    simp [hout, State.modSync]
  have hfirst := deliver1_sync_of_takes (s := s.modSync fun y => { y with outQ := [m] }) rfl hpend hreset hcredit
  rw [hput, deliver_of_one (s := s.modSync fun y => { y with outQ := [m] }) m.core rfl hpend,
    deliver1_of_empty _ (by rw [hfirst]), hfirst]
  rfl

theorem CoreTakes.of_sync {s t : State} {core : Nat} (h : CoreTakes s core) (hreset : t.tsu.sync.coreReset = s.tsu.sync.coreReset)
    (hcoreQ : tget [] t.tsu.sync.coreQ core = tget [] s.tsu.sync.coreQ core) (hout : t.tsu.sync.outQ = [])
    (hpend : t.tsu.sync.pend = []) : CoreTakes t core := by
  obtain ⟨hawake, hcredit, -, -⟩ := h
  refine ⟨?_, ?_, hout, hpend⟩
  · unfold coreInReset at *
    rwa [hreset]
  · rwa [hcoreQ]

/-! ### A watch that fires (R227) -/

/-- What stands in a watch's place once it has fired: a rearm watch, held, or nothing. -/
def Watch.afterFiring (x : Watch) : Option Watch := if x.rearm then some { x with held := true } else none

theorem watchFire_delivers (w : Nat) (x : Watch) (s : State) : DeliversOnly s (watchFire w x s) := by
  unfold watchFire
  refine .trans (.trans ?_ (event_counts ..).delivers) (msgPut_delivers ..)
  exact ⟨rfl, id⟩

theorem watchFire_watches (w : Nat) (x : Watch) (s : State) :
    (watchFire w x s).tsu.sync.watches = tset none s.tsu.sync.watches w x.afterFiring := by
  unfold watchFire
  dsimp only
  rw [msgPut_watches]
  rfl

/-- The message of a watch that fires, where its target takes it at once. -/
theorem watchFire_of_coreTakes (w : Nat) (x : Watch) {s : State} (h : CoreTakes s x.target) : ∃ m,
    tget [] (watchFire w x s).tsu.sync.coreQ x.target = tget [] s.tsu.sync.coreQ x.target ++ [m] ∧ m.kind = 1 ∧ m.status = .ok ∧
      m.tag = x.tag ∧ m.id = w ∧ m.count = 1 ∧ m.value = (ctrOf s x.counter).value := by
  unfold watchFire
  extract_lets s1 s2
  refine ⟨{ rearm := x.rearm, core := x.target, kind := 1, status := .ok, tag := x.tag, id := w, count := 1,
            value := (ctrOf s2 x.counter).value, stLo := stLo s2 }, ?_, rfl, rfl, rfl, rfl, rfl, rfl⟩
  rw [msgPut_sync_of_coreTakes h, tget_tmod_eq]
  rfl

/-- `s` with what stands in the place of watch `w`. -/
def State.withWatch (s : State) (w : Nat) (x : Option Watch) : State :=
  s.modSync fun y => { y with watches := tset none y.watches w x }

theorem withWatch_self (s : State) (w : Nat) (x : Option Watch) : tget none (s.withWatch w x).tsu.sync.watches w = x := by
  unfold State.withWatch
  rw [State.modSync_sync, tget_tset_eq]

theorem withWatch_other (s : State) {w k : Nat} (x : Option Watch) (h : k ≠ w) :
    tget none (s.withWatch w x).tsu.sync.watches k = tget none s.tsu.sync.watches k := by
  unfold State.withWatch
  rw [State.modSync_sync, tget_tset_ne _ _ _ h]

/-! ### WATCH_REG (R226, R227) -/

section
variable {s : State} {core c target : Nat} {ctag tag : BitVec 16} {eq rearm : Bool} {th : W32} (hcore : coreInReset s core = false)
  (hrefuses : dieRefuses s = none)
include hcore hrefuses

theorem portWatchReg_bad (h : (ctrOf s c).alloc = false ∨ 575 < target) :
    portWatchReg core ctag c eq rearm target tag th s = answered s core ctag .badCommand 0 := by
  unfold portWatchReg
  rw [hrefuses]
  dsimp only
  rw [if_pos (by simpa using h)]
  exact complete_of_awake _ _ _ hcore

theorem portWatchReg_full (halloc : (ctrOf s c).alloc = true) (htarget : target ≤ 575)
    (hall : ∀ k, k < 2048 → tget none s.tsu.sync.watches k ≠ none) :
    portWatchReg core ctag c eq rearm target tag th s = answered s core ctag .full 0 := by
  unfold portWatchReg
  rw [hrefuses]
  dsimp only
  rw [if_neg (by simp [halloc, htarget]), lowestFree_eq_none fun k hk => by simpa [Option.isSome_iff_ne_none] using hall k hk]
  exact complete_of_awake _ _ _ hcore

/-- A registration takes the lowest free number `w`, completes with it, and fires if its condition holds. -/
theorem portWatchReg_free {w : Nat} (halloc : (ctrOf s c).alloc = true) (htarget : target ≤ 575) (hw : w < 2048)
    (hlow : ∀ k, k < w → tget none s.tsu.sync.watches k ≠ none) (hfree : tget none s.tsu.sync.watches w = none) :
    let x : Watch := { counter := c, eq, rearm, threshold := th, target, tag, held := false }
    let u := answered (s.withWatch w (some x)) core ctag .ok (BitVec.ofNat 32 w)
    portWatchReg core ctag c eq rearm target tag th s = if condCmp eq (ctrOf s c).value th then watchFire w x u else u := by
  intro x u
  have hanswer : complete (s.withWatch w (some x)) core ctag .ok (BitVec.ofNat 32 w) = u :=
    complete_of_awake _ _ _ hcore
  have hlowest : lowestFree 2048 (fun k => (tget none s.tsu.sync.watches k).isNone) = some w :=
    lowestFree_eq_some hw (by rw [hfree]; rfl) fun k hk => by simpa [Option.isSome_iff_ne_none] using hlow k hk
  unfold portWatchReg
  rw [hrefuses]
  dsimp only
  rw [if_neg (by simp [halloc, htarget]), hlowest]
  dsimp only
  exact congrArg (fun v => if condCmp eq (ctrOf v c).value th then watchFire w x v else v) hanswer

/-- What a registration leaves, whether the condition of its watch `x` holds already or not. -/
theorem portWatchReg_registers {w : Nat} (halloc : (ctrOf s c).alloc = true) (htarget : target ≤ 575) (hw : w < 2048)
    (hlow : ∀ k, k < w → tget none s.tsu.sync.watches k ≠ none) (hfree : tget none s.tsu.sync.watches w = none) :
    let x : Watch := { counter := c, eq, rearm, threshold := th, target, tag, held := false }
    let t := portWatchReg core ctag c eq rearm target tag th s
    CoreCompleted t core ctag .ok (BitVec.ofNat 32 w) ∧
    (condCmp eq (ctrOf s c).value th = false →
      tget none t.tsu.sync.watches w = some x ∧ t.tsu.sync.coreQ = s.tsu.sync.coreQ) ∧
    (condCmp eq (ctrOf s c).value th = true → tget none t.tsu.sync.watches w = x.afterFiring ∧
      (CoreTakes s target → ∃ m, tget [] t.tsu.sync.coreQ target = tget [] s.tsu.sync.coreQ target ++ [m] ∧ m.kind = 1 ∧
        m.status = .ok ∧ m.tag = tag ∧ m.id = w ∧ m.count = 1 ∧ m.value = (ctrOf s c).value)) ∧
    (∀ k, k ≠ w → tget none t.tsu.sync.watches k = tget none s.tsu.sync.watches k) ∧
    t.tsu.sync.ctrs = s.tsu.sync.ctrs ∧ TsuOnly s t := by
  intro x t
  have ht : t = _ := portWatchReg_free (core := core) (ctag := ctag) (tag := tag) (eq := eq) (rearm := rearm) (th := th) hcore hrefuses
    halloc htarget hw hlow hfree
  have hdone := coreCompleted_answered (s.withWatch w (some x)) core ctag .ok (BitVec.ofNat 32 w)
  cases hholds : condCmp eq (ctrOf s c).value th with
  | false =>
    rw [hholds, if_neg (by decide)] at ht
    rw [ht]
    exact ⟨hdone, fun _ => ⟨withWatch_self s w (some x), rfl⟩, fun h => absurd h (by decide),
      fun k hk => withWatch_other s (some x) hk, rfl, rfl, rfl, rfl⟩
  | true =>
    rw [hholds, if_pos rfl] at ht
    rw [ht]
    have hfire := watchFire_delivers w x (answered (s.withWatch w (some x)) core ctag .ok (BitVec.ofNat 32 w))
    refine ⟨hfire.coreCompleted hdone, fun h => absurd h (by decide), fun _ => ⟨?_, fun htakes => ?_⟩, fun k hk => ?_,
      hfire.ctrs_eq, hfire.only⟩
    · rw [watchFire_watches, tget_tset_eq]
    · exact watchFire_of_coreTakes w x (s := answered (s.withWatch w (some x)) core ctag .ok (BitVec.ofNat 32 w)) htakes
    · rw [watchFire_watches, tget_tset_ne _ _ _ hk]
      exact withWatch_other s (some x) hk

end

/-! ### WATCH_CANCEL (R226) -/

theorem portWatchCancel_registered {s : State} {core w : Nat} (ctag : BitVec 16) (hcore : coreInReset s core = false)
    (hrefuses : dieRefuses s = none) (h : tget none s.tsu.sync.watches w ≠ none) :
    portWatchCancel core ctag w s = answered (watchRemove s w) core ctag .ok 0 := by
  unfold portWatchCancel
  rw [hrefuses]
  dsimp only
  rw [if_neg (by simpa using h)]
  exact complete_of_awake _ _ _ hcore

theorem portWatchCancel_none {s : State} {core w : Nat} (ctag : BitVec 16) (hcore : coreInReset s core = false)
    (hrefuses : dieRefuses s = none) (h : tget none s.tsu.sync.watches w = none) :
    portWatchCancel core ctag w s = answered s core ctag .badCommand 0 := by
  unfold portWatchCancel
  rw [hrefuses]
  dsimp only
  rw [if_pos (by rw [h]; rfl)]
  exact complete_of_awake _ _ _ hcore

/-! ### A watch after an operation on its counter (R227) -/

section
variable {s : State} {c w : Nat} {x : Watch} (hx : tget none s.tsu.sync.watches w = some x) (hcounter : x.counter = c)
include hx hcounter

theorem watchEval_fires (hholds : condCmp x.eq (ctrOf s c).value x.threshold = true) (hheld : x.held = false) :
    watchEval c s w = watchFire w x s := by
  unfold watchEval
  rw [hx]
  simp [hcounter, hholds, hheld]

theorem watchEval_keeps (h : condCmp x.eq (ctrOf s c).value x.threshold = false ∨ x.held = true) : watchEval c s w =
    s.withWatch w (some { x with held := condCmp x.eq (ctrOf s c).value x.threshold }) := by
  unfold watchEval
  rw [hx]
  dsimp only
  rw [if_neg (not_not_intro hcounter), if_neg (by rcases h with h | h <;> simp [h])]
  rfl

end

/-- `s` with counter `k` changed to `v`, and nothing else. -/
def State.withCtr (s : State) (k : Nat) (v : SyncCtr) : State := s.modSync fun y => { y with ctrs := tset {} y.ctrs k v }

theorem withCtr_self (s : State) (k : Nat) (v : SyncCtr) : ctrOf (s.withCtr k v) k = v := by
  unfold ctrOf State.withCtr
  rw [State.modSync_sync, tget_tset_eq]

theorem withCtr_other (s : State) {k j : Nat} (v : SyncCtr) (h : j ≠ k) : ctrOf (s.withCtr k v) j = ctrOf s j := by
  unfold ctrOf State.withCtr
  rw [State.modSync_sync, tget_tset_ne _ _ _ h]

/-- `s` with a counter written, before its watches are evaluated. -/
def counterWritten (s : State) (c : Nat) (v : SyncCtr) : State := (s.withCtr c v).event .tsu 0x030 (dieFlt s) 1

theorem counterWritten_ctrOf (s : State) (c : Nat) (v : SyncCtr) : ctrOf (counterWritten s c v) c = v := by
  unfold counterWritten ctrOf
  rw [(event_counts ..).sync_eq]
  exact withCtr_self s c v

section
variable {s : State} {c w : Nat} {x : Watch} (v : SyncCtr) (hone : s.tsu.sync.watches = [(w, some x)])
include hone

theorem counterWritten_watch : tget none (counterWritten s c v).tsu.sync.watches w = some x := by
  change tget none s.tsu.sync.watches w = some x
  rw [hone]
  exact if_pos rfl

/-- An operation on a counter where one watch is registered evaluates that watch. -/
theorem ctrWrite_sync_of_one : (ctrWrite s c v).tsu.sync = (watchEval c (counterWritten s c v) w).tsu.sync := by
  have hkeys : tkeys (counterWritten s c v).tsu.sync.watches = [w] := congrArg tkeys hone
  change (watchesEval (counterWritten s c v) c).tsu.sync = _
  unfold watchesEval
  rw [hkeys]
  rfl

theorem ctrWrite_fires_one (hcounter : x.counter = c) (hholds : condCmp x.eq v.value x.threshold = true) (hheld : x.held = false) :
    (ctrWrite s c v).tsu.sync = (watchFire w x (counterWritten s c v)).tsu.sync := by
  rw [ctrWrite_sync_of_one v hone,
    watchEval_fires (counterWritten_watch v hone) hcounter (by rwa [counterWritten_ctrOf]) hheld]

theorem ctrWrite_keeps_one (hcounter : x.counter = c) (h : condCmp x.eq v.value x.threshold = false ∨ x.held = true) :
    (ctrWrite s c v).tsu.sync =
      ((counterWritten s c v).withWatch w (some { x with held := condCmp x.eq v.value x.threshold })).tsu.sync := by
  rw [ctrWrite_sync_of_one v hone,
    watchEval_keeps (counterWritten_watch v hone) hcounter (by rwa [counterWritten_ctrOf]), counterWritten_ctrOf]

end

/-- Settles O24: WATCH_REG by `portWatchReg_free` and what `watchFire` leaves, an ADD by the one watch that it evaluates. -/
theorem watchesFireWhenTheirConditionComes : Obligations.WatchesFireWhenTheirConditionComes := by
  unfold Obligations.WatchesFireWhenTheirConditionComes
  refine ⟨?registered, ?refused, ?fires, ?cancelled⟩
  case registered =>
    intro core c target w ctag tag eq rearm th s hopen hrefuses halloc htarget hw hlow hfree
    refine completes_of_portOpen hopen rfl ?_
    obtain ⟨hdone, hkept, hfired, hothers, hctrs, honly⟩ := portWatchReg_registers (s := requested core s) (core := core)
      (ctag := ctag) (tag := tag) (eq := eq) (rearm := rearm) (th := th) hopen.awake hrefuses halloc htarget hw hlow hfree
    refine ⟨hdone, hkept, fun h hrearm => (hfired h).1.trans ?_, fun h hrearm => (hfired h).1.trans ?_, fun h => (hfired h).2, hothers,
      hctrs, honly⟩
    · rw [hrearm]
      rfl
    · rw [hrearm]
      rfl
  case refused =>
    intro core c target ctag tag eq rearm th s hopen hrefuses
    refine completes_of_portOpen hopen rfl ⟨fun h => ?_, fun halloc htarget hall => ?_⟩
    · rw [portWatchReg_bad (s := requested core s) hopen.awake hrefuses h]
      exact ⟨coreCompleted_answered .., rfl⟩
    · rw [portWatchReg_full (s := requested core s) hopen.awake hrefuses halloc htarget hall]
      exact ⟨coreCompleted_answered .., rfl⟩
  case fires =>
    intro core c w ctag n x s hopen hrefuses halloc hfits hwatch hcounter
    refine completes_of_portOpen hopen rfl ?_
    rw [coreCtr_of_ctrOp (s := requested core s) hrefuses (ctrOp_add_of_le halloc hfits) (ctrWrite_awake _ hopen.awake)]
    generalize hv : ({ ctrOf (requested core s) c with value := (ctrOf (requested core s) c).value + n } : SyncCtr) = v
    refine ⟨fun hholds hheld => ?_, fun hkeeps => ?_⟩
    · have hsync := ctrWrite_fires_one (s := requested core s) v hwatch hcounter (by rw [← hv]; exact hholds) hheld
      refine ⟨fun hrearm => ?_, fun htakes => ?_⟩
      · change tget none (ctrWrite (requested core s) c v).tsu.sync.watches w = none
        rw [hsync, watchFire_watches, tget_tset_eq]
        unfold Watch.afterFiring
        rw [hrearm]
        rfl
      · obtain ⟨m, hput, hkind, -, htag, hid, hcount, hvalue⟩ :=
          watchFire_of_coreTakes w x (s := counterWritten (requested core s) c v) htakes
        rw [← hsync] at hput
        refine ⟨m, hput, hkind, htag, hid, hcount, hvalue.trans ?_⟩
        rw [hcounter, counterWritten_ctrOf, ← hv]
        rfl
    · have hsync := ctrWrite_keeps_one (s := requested core s) v hwatch hcounter (by rw [← hv]; exact hkeeps)
      change tget none (ctrWrite (requested core s) c v).tsu.sync.watches w = _ ∧ (ctrWrite (requested core s) c v).tsu.sync.coreQ = _
      rw [hsync, withWatch_self, ← hv]
      exact ⟨rfl, rfl⟩
  case cancelled =>
    intro core w ctag s hopen hrefuses
    refine completes_of_portOpen hopen rfl ?_
    by_cases hnone : tget none s.tsu.sync.watches w = none
    · rw [portWatchCancel_none (s := requested core s) ctag hopen.awake hrefuses hnone]
      exact ⟨fun h => absurd hnone h, fun _ => ⟨rfl, coreCompleted_answered ..⟩, rfl, rfl, requested_only core s⟩
    · rw [portWatchCancel_registered (s := requested core s) ctag hopen.awake hrefuses hnone]
      exact ⟨fun _ => ⟨withWatch_self (requested core s) w none, fun k hk => withWatch_other (requested core s) none hk,
        coreCompleted_answered ..⟩, fun h => absurd h hnone, rfl, rfl, requested_only core s⟩

end Sys2Proof.Machine

namespace Sys2Proof.Machine

open Sys2Proof

/-! ### The mask of a group's cores (R50, R238) -/

theorem maskBits_succ (n m : Nat) : maskBits (n + 1) m = maskBits n m ++ if tbit m n then [n] else [] := by
  unfold maskBits
  rw [List.range_succ, List.filter_append, List.filter_singleton, Bool.cond_eq_ite]

theorem mem_maskBits {n m k : Nat} : k ∈ maskBits n m ↔ k < n ∧ tbit m k = true := by
  unfold maskBits
  rw [List.mem_filter, List.mem_range]

theorem nodup_maskBits (n m : Nat) : (maskBits n m).Nodup := List.nodup_range.filter _

/-- The cores `cores` of each of the first `n` regions of a mask. -/
def coresBelow (n m : Nat) (cores : BitVec 4) : Nat := (maskBits n m).foldl (fun x r => x + cores.toNat * 2 ^ (4 * r)) 0

theorem coresBelow_succ (n m : Nat) (cores : BitVec 4) :
    coresBelow (n + 1) m cores = coresBelow n m cores + (if tbit m n then cores.toNat else 0) * 2 ^ (4 * n) := by
  unfold coresBelow
  rw [maskBits_succ, List.foldl_append]
  split
  · rfl
  · simp

theorem coresBelow_lt (n m : Nat) (cores : BitVec 4) : coresBelow n m cores < 2 ^ (4 * n) := by
  induction n with
  | zero => exact Nat.one_pos
  | succ n ih =>
    have hcores : (if tbit m n then cores.toNat else 0) ≤ 15 := by split <;> omega
    have hshift : (if tbit m n then cores.toNat else 0) * 2 ^ (4 * n) ≤ 15 * 2 ^ (4 * n) := Nat.mul_le_mul_right _ hcores
    rw [coresBelow_succ, show 4 * (n + 1) = 4 * n + 4 by rfl, Nat.pow_add]
    omega

/-- Core `j` of region `r` is in the mask where `r` is one of the regions and `j` one of the cores. -/
theorem testBit_coresBelow {n r j : Nat} (m : Nat) (cores : BitVec 4) (hr : r < n) (hj : j < 4) :
    (coresBelow n m cores).testBit (4 * r + j) = (tbit m r && cores.getLsbD j) := by
  induction n with
  | zero => omega
  | succ n ih =>
    rw [coresBelow_succ, Nat.add_comm, Nat.mul_comm, Nat.testBit_two_pow_mul_add _ (coresBelow_lt n m cores)]
    by_cases hlast : r = n
    · subst hlast
      rw [if_neg (by omega), Nat.add_sub_cancel_left]
      cases tbit m r with
      | true => rfl
      | false => simp
    · rw [if_pos (by omega)]
      exact ih (by omega)

theorem tbit_groupCores {mask : BitVec 144} {cores : BitVec 4} {r j : Nat} (hr : r < 144) (hj : j < 4) :
    tbit (groupCores mask cores) (4 * r + j) = (mask.getLsbD r && cores.getLsbD j) := by
  rw [tbit_eq_testBit]
  refine (testBit_coresBelow mask.toNat cores hr hj).trans ?_
  rw [tbit_eq_testBit]
  rfl

/-! ### Messages to several cores (R230, R239) -/

/-- Messages to cores that take theirs at once: each stands last in its core's queue, and no other queue changes. -/
theorem foldl_msgPut_of_coreTakes {g : State → Nat → Msg} (hg : ∀ s c, (g s c).core = c) : ∀ {l : List Nat} {s : State}, l.Nodup →
    (∀ c ∈ l, CoreTakes s c) → let t := l.foldl (fun s c => msgPut s (g s c)) s
    (∀ c, c ∉ l → tget [] t.tsu.sync.coreQ c = tget [] s.tsu.sync.coreQ c) ∧
    ∀ c ∈ l, ∃ u, tget [] t.tsu.sync.coreQ c = tget [] s.tsu.sync.coreQ c ++ [g u c]
  | [], _, _, _ => ⟨fun _ _ => rfl, fun _ h => absurd h List.not_mem_nil⟩
  | a :: l, s, hnodup, htakes => by
    obtain ⟨hnot, hnodup⟩ := List.nodup_cons.mp hnodup
    have hsync := msgPut_sync_of_coreTakes (m := g s a) ((hg s a).symm ▸ htakes a List.mem_cons_self)
    rw [hg] at hsync
    have hself : tget [] (msgPut s (g s a)).tsu.sync.coreQ a = tget [] s.tsu.sync.coreQ a ++ [g s a] := by
      rw [hsync, tget_tmod_eq]
    have hother : ∀ c, c ≠ a → tget [] (msgPut s (g s a)).tsu.sync.coreQ c = tget [] s.tsu.sync.coreQ c := fun c hc => by
      rw [hsync, tget_tmod_ne _ _ _ hc]
    obtain ⟨hkept, hput⟩ := foldl_msgPut_of_coreTakes hg (s := msgPut s (g s a)) hnodup fun c hc => by
      obtain ⟨-, -, -, hpend⟩ := htakes c (List.mem_cons_of_mem a hc)
      exact (htakes c (List.mem_cons_of_mem a hc)).of_sync (by rw [hsync]) (hother c fun h => hnot (h ▸ hc)) (by rw [hsync])
        (by rw [hsync]; exact hpend)
    refine ⟨fun c hc => ?_, fun c hc => ?_⟩
    · rw [List.mem_cons, not_or] at hc
      exact (hkept c hc.2).trans (hother c hc.1)
    · rcases List.mem_cons.mp hc with rfl | hc
      · exact ⟨s, (hkept c hnot).trans hself⟩
      · obtain ⟨u, hu⟩ := hput c hc
        exact ⟨u, hu.trans (by rw [hother c fun h => hnot (h ▸ hc)])⟩

/-! ### Local barriers (R238, R239) -/

theorem localOf_setLocal (s : State) (slot : Nat) (b : LocalBar) : localOf (setLocal s slot b) slot = b := by
  unfold localOf setLocal
  rw [State.modSync_sync, tget_tset_eq]

theorem localOf_setLocal_ne (s : State) {slot k : Nat} (b : LocalBar) (h : k ≠ slot) : localOf (setLocal s slot b) k = localOf s k := by
  unfold localOf setLocal
  rw [State.modSync_sync, tget_tset_ne _ _ _ h]

theorem DeliversOnly.localOf_eq {s t : State} (h : DeliversOnly s t) (k : Nat) : localOf t k = localOf s k := by
  rw [h.frame]
  rfl

/-- A barrier's record once its slot has closed. -/
def LocalBar.closed (b : LocalBar) : LocalBar := { b with open_ := false, arrived := 0, times := [] }

/-- LOCAL_DONE to one core of a slot's mask. -/
def localDoneMsg (slot : Nat) (status : Status) (n : Nat) (s : State) (core : Nat) : Msg :=
  { core, kind := 2, status, id := slot, count := n, stLo := stLo s }

theorem localDoneMsg_count (slot : Nat) (status : Status) (n : Nat) (s : State) (core : Nat) :
    (localDoneMsg slot status n s core).count = n := rfl

theorem localDone_eq (slot : Nat) (status : Status) (s : State) : localDone slot status s =
    (localOf s slot).times.foldl (fun s x => s.hist .tsu 2 (elapsed (s.now .tsu) x.2 : Nat) (dieFlt s))
      ((maskBits 576 (localOf s slot).mask).foldl
        (fun u c => msgPut u (localDoneMsg slot status (popcount 576 (localOf s slot).mask) u c))
        (setLocal s slot (localOf s slot).closed)) := rfl

/-- Closing a slot tells cores, and samples how long each waited. -/
theorem localDone_delivers (slot : Nat) (status : Status) (s : State) :
    DeliversOnly (setLocal s slot (localOf s slot).closed) (localDone slot status s) := by
  rw [localDone_eq]
  exact .trans (.foldl _ (fun _ _ => msgPut_delivers ..) _ _) (.foldl _ (fun _ _ => (hist_counts ..).delivers) _ _)

theorem localDone_of_coreTakes {s : State} {slot : Nat} (status : Status)
    (h : ∀ c ∈ maskBits 576 (localOf s slot).mask, CoreTakes s c) {c : Nat} (hc : c ∈ maskBits 576 (localOf s slot).mask) :
    ∃ m, tget [] (localDone slot status s).tsu.sync.coreQ c = tget [] s.tsu.sync.coreQ c ++ [m] ∧ m.kind = 2 ∧ m.status = status ∧
      m.id = slot ∧ m.count = popcount 576 (localOf s slot).mask := by
  obtain ⟨u, hu⟩ := (foldl_msgPut_of_coreTakes (g := localDoneMsg slot status (popcount 576 (localOf s slot).mask)) (fun _ _ => rfl)
    (l := maskBits 576 (localOf s slot).mask) (s := setLocal s slot (localOf s slot).closed) (nodup_maskBits ..) h).2 c hc
  refine ⟨localDoneMsg slot status (popcount 576 (localOf s slot).mask) u c, ?_, rfl, rfl, rfl, localDoneMsg_count ..⟩
  rw [localDone_eq, foldl_fixed (·.tsu.sync.coreQ) fun _ _ => congrArg Sync.coreQ (hist_counts ..).sync_eq]
  exact hu

section
variable {s : State} {core slot : Nat} {ctag : BitVec 16} (hcore : coreInReset s core = false) (hrefuses : dieRefuses s = none)
include hcore hrefuses

theorem portLocalDefine_open (g : Nat) (cores : BitVec 4) (h : (localOf s slot).open_ = true) :
    portLocalDefine core ctag slot g cores s = answered s core ctag .busy 0 := by
  unfold portLocalDefine
  rw [hrefuses]
  dsimp only
  rw [if_pos h]
  exact complete_of_awake _ _ _ hcore

theorem portLocalDefine_closed (g : Nat) (cores : BitVec 4) (h : (localOf s slot).open_ = false) :
    portLocalDefine core ctag slot g cores s = answered (setLocal s slot
      { localOf s slot with mask := groupCores (maskOf s.tsu.plate.groups g) cores }) core ctag .ok 0 := by
  unfold portLocalDefine
  rw [hrefuses]
  dsimp only
  rw [if_neg (by simp [h])]
  exact complete_of_awake _ _ _ hcore

theorem portLocalArrive_outside (h : tbit (localOf s slot).mask core = false) :
    portLocalArrive core ctag slot s = answered s core ctag .badCommand 0 := by
  unfold portLocalArrive
  rw [hrefuses]
  dsimp only
  rw [if_pos (by simp [h])]
  exact complete_of_awake _ _ _ hcore

theorem portLocalArrive_again (hmask : tbit (localOf s slot).mask core = true) (h : tbit (localOf s slot).arrived core = true) :
    portLocalArrive core ctag slot s = answered s core ctag .busy 0 := by
  unfold portLocalArrive
  rw [hrefuses]
  dsimp only
  rw [if_neg (by simp [hmask]), if_pos h]
  exact complete_of_awake _ _ _ hcore

end

/-- A barrier's record after a core has arrived. -/
def LocalBar.arrive (b : LocalBar) (core : Nat) (now : St) : LocalBar :=
  { b with open_ := true, arrived := b.arrived + 2 ^ core, times := b.times ++ [(core, now)] }

/-- `s` after a core has arrived at a local barrier, PENDING. -/
def localArrived (s : State) (core : Nat) (ctag : BitVec 16) (slot : Nat) : State :=
  answered (setLocal s slot ((localOf s slot).arrive core (s.now .tsu))) core ctag .pending 0

section
variable {s : State} {core slot : Nat} {ctag : BitVec 16} (hcore : coreInReset s core = false) (hrefuses : dieRefuses s = none)
  (hmask : tbit (localOf s slot).mask core = true) (harrived : tbit (localOf s slot).arrived core = false)
include hcore hrefuses hmask harrived

theorem portLocalArrive_first : portLocalArrive core ctag slot s =
    if (localOf s slot).arrived + 2 ^ core = (localOf s slot).mask then localDone slot .ok (localArrived s core ctag slot)
    else localArrived s core ctag slot := by
  have hanswer : complete (setLocal s slot ((localOf s slot).arrive core (s.now .tsu))) core ctag .pending 0 =
      localArrived s core ctag slot := complete_of_awake _ _ _ hcore
  unfold portLocalArrive
  rw [hrefuses]
  dsimp only
  rw [if_neg (by simp [hmask]), if_neg (by simp [harrived])]
  exact congrArg (fun u => if (localOf s slot).arrived + 2 ^ core = (localOf s slot).mask then localDone slot .ok u else u) hanswer

theorem portLocalArrive_last (h : (localOf s slot).arrived + 2 ^ core = (localOf s slot).mask) :
    portLocalArrive core ctag slot s = localDone slot .ok (localArrived s core ctag slot) :=
  (portLocalArrive_first hcore hrefuses hmask harrived).trans (if_pos h)

theorem portLocalArrive_waits (h : (localOf s slot).arrived + 2 ^ core ≠ (localOf s slot).mask) :
    portLocalArrive core ctag slot s = localArrived s core ctag slot :=
  (portLocalArrive_first hcore hrefuses hmask harrived).trans (if_neg h)

end

section
variable (s : State) (core : Nat) (ctag : BitVec 16) (slot : Nat)

theorem localArrived_completed : CoreCompleted (localArrived s core ctag slot) core ctag .pending 0 := coreCompleted_answered ..

theorem localOf_localArrived :
    localOf (localArrived s core ctag slot) slot = (localOf s slot).arrive core (s.now .tsu) := localOf_setLocal ..

theorem localOf_localArrived_ne {k : Nat} (h : k ≠ slot) : localOf (localArrived s core ctag slot) k = localOf s k :=
  localOf_setLocal_ne s _ h

theorem localArrived_only : TsuOnly s (localArrived s core ctag slot) := ⟨rfl, rfl, rfl⟩

/-- What the last arrival leaves: its own completion, the slot closed, and LOCAL_DONE at every core of the mask (R239). -/
theorem localDone_localArrived : let t := localDone slot .ok (localArrived s core ctag slot)
    CoreCompleted t core ctag .pending 0 ∧ localOf t slot = (localOf s slot).closed ∧
    ((∀ c ∈ maskBits 576 (localOf s slot).mask, CoreTakes s c) → ∀ c ∈ maskBits 576 (localOf s slot).mask,
      ∃ m, tget [] t.tsu.sync.coreQ c = tget [] s.tsu.sync.coreQ c ++ [m] ∧ m.kind = 2 ∧ m.status = .ok ∧ m.id = slot ∧
        m.count = popcount 576 (localOf s slot).mask) ∧
    (∀ k, k ≠ slot → localOf t k = localOf s k) ∧ t.tsu.sync.ctrs = s.tsu.sync.ctrs ∧ TsuOnly s t := by
  have hself := localOf_localArrived s core ctag slot
  have hmask : (localOf (localArrived s core ctag slot) slot).mask = (localOf s slot).mask := by rw [hself]; rfl
  have hdelivers := localDone_delivers slot .ok (localArrived s core ctag slot)
  have hput := fun h c hc => localDone_of_coreTakes (s := localArrived s core ctag slot) (slot := slot) .ok h (c := c) hc
  rw [hmask] at hput
  generalize localDone slot .ok (localArrived s core ctag slot) = t at *
  refine ⟨hdelivers.coreCompleted (localArrived_completed s core ctag slot), ?_, hput, fun k hk => ?_, hdelivers.ctrs_eq,
    partOnly_trans (p := .tsu) (localArrived_only s core ctag slot) (partOnly_trans (p := .tsu) (modSync_only ..) hdelivers.only)⟩
  · rw [hdelivers.localOf_eq, localOf_setLocal, hself]
    rfl
  · rw [hdelivers.localOf_eq, localOf_setLocal_ne _ _ hk, localOf_localArrived_ne s core ctag slot hk]

end

/-! ### What sending leaves of the counter port -/

theorem SendsOnly.sync_eq {p : Part} {s t : State} (h : SendsOnly p s t) : t.tsu.sync = s.tsu.sync := by rw [h.tsu]

theorem SendsOnly.hallOf_eq {p : Part} {s t : State} (h : SendsOnly p s t) (g : Nat) : hallOf t g = hallOf s g := by
  unfold hallOf
  rw [h.sync_eq]

theorem SendsOnly.coreCompleted {p : Part} {s t : State} {core : Nat} {ctag : BitVec 16} {st : Status} {v : W32} (h : SendsOnly p s t)
    (hs : CoreCompleted s core ctag st v) : CoreCompleted t core ctag st v := by
  unfold CoreCompleted
  rwa [h.sync_eq]

/-! ### HALL_ARRIVE (R241) -/

theorem hallOf_setHall (s : State) (g : Nat) (h : HallEntry) : hallOf (setHall s g h) g = h := by
  unfold hallOf setHall
  rw [State.modSync_sync, tget_tset_eq]

theorem hallOf_setHall_ne (s : State) {g k : Nat} (h : HallEntry) (hk : k ≠ g) : hallOf (setHall s g h) k = hallOf s k := by
  unfold hallOf setHall
  rw [State.modSync_sync, tget_tset_ne _ _ _ hk]

/-- A group's entry after a core of this die has arrived. -/
def HallEntry.arrive (h : HallEntry) (core : Nat) (now : St) : HallEntry :=
  { h with
    count := h.count + 1, waiters := h.waiters ++ [(core, now)]
    opened := if h.count = 0 then now else h.opened
    waitRaised := if h.count = 0 then false else h.waitRaised }

/-- `s` after a core has arrived at a hall barrier, PENDING. -/
def hallArrived (s : State) (core : Nat) (ctag : BitVec 16) (g : Nat) : State :=
  answered (setHall s g ((hallOf s g).arrive core (s.now .tsu))) core ctag .pending 0

theorem hallArrived_spec (s : State) (core : Nat) (ctag : BitVec 16) (g : Nat) : let t := hallArrived s core ctag g
    CoreCompleted t core ctag .pending 0 ∧ hallOf t g = (hallOf s g).arrive core (s.now .tsu) ∧
    (∀ k, k ≠ g → hallOf t k = hallOf s k) ∧ TsuOnly s t :=
  ⟨coreCompleted_answered .., hallOf_setHall .., fun _ hk => hallOf_setHall_ne s _ hk, rfl, rfl, rfl⟩

/-- The BARRIER_ARRIVE that a die sends with its last arrival (R241). -/
def arriveCell (s : State) (g : Nat) : OutCell :=
  cellNow s .tsu s.tsu.die.sliceId (.barrierArrive (barCell s .tsu g (hallOf s g).gen false false))

theorem arriveCell_waits {s : State} {i : Nat} (core : Nat) (ctag : BitVec 16) (g : Nat) (h : i ∈ planesOn s) :
    CellWaits (sendBoth (hallArrived s core ctag g) (arriveCell s g)) .tsu i (arriveCell s g) :=
  sendBoth_self (s := hallArrived s core ctag g) h

section
variable {s : State} {core g : Nat} {ctag : BitVec 16} (hcore : coreInReset s core = false) (hrefuses : dieRefusesNew s = none)
include hcore hrefuses

theorem portHallArrive_notMember (h : (hallOf s g).valid = false ∨ (hallOf s g).member = false) :
    portHallArrive core ctag g s = answered s core ctag .notMember 0 := by
  unfold portHallArrive
  rw [hrefuses]
  dsimp only
  rw [if_pos (by simpa using h)]
  exact complete_of_awake _ _ _ hcore

variable (hvalid : (hallOf s g).valid = true) (hmember : (hallOf s g).member = true)
include hvalid hmember

theorem portHallArrive_late (h : (hallOf s g).arrivals ≤ (hallOf s g).count) :
    portHallArrive core ctag g s = answered s core ctag .busy 0 := by
  unfold portHallArrive
  rw [hrefuses]
  dsimp only
  rw [if_neg (by simp [hvalid, hmember]), if_pos h]
  exact complete_of_awake _ _ _ hcore

theorem portHallArrive_counted (hearly : (hallOf s g).count < (hallOf s g).arrivals) : portHallArrive core ctag g s =
    if (hallOf s g).count + 1 < (hallOf s g).arrivals then hallArrived s core ctag g
    else sendBoth (hallArrived s core ctag g) (arriveCell s g) := by
  have hanswer : complete (setHall s g ((hallOf s g).arrive core (s.now .tsu))) core ctag .pending 0 = hallArrived s core ctag g :=
    complete_of_awake _ _ _ hcore
  unfold portHallArrive
  rw [hrefuses]
  dsimp only
  rw [if_neg (by simp [hvalid, hmember]), if_neg (Nat.not_le.mpr hearly)]
  exact congrArg (fun u => if (hallOf s g).count + 1 < (hallOf s g).arrivals then u else sendBoth u (cellNow u .tsu u.tsu.die.sliceId
    (.barrierArrive (barCell u .tsu g (hallOf s g).gen false false)))) hanswer

theorem portHallArrive_waits (h : (hallOf s g).count + 1 < (hallOf s g).arrivals) :
    portHallArrive core ctag g s = hallArrived s core ctag g :=
  (portHallArrive_counted hcore hrefuses hvalid hmember (by omega)).trans (if_pos h)

theorem portHallArrive_last (h : (hallOf s g).count + 1 = (hallOf s g).arrivals) :
    portHallArrive core ctag g s = sendBoth (hallArrived s core ctag g) (arriveCell s g) :=
  (portHallArrive_counted hcore hrefuses hvalid hmember (by omega)).trans (if_neg (by omega))

end

/-! ### SIGNAL at the issuing die (R231 to R233) -/

theorem signalOp_exists {op : Nat} (n : W32) (hlow : 1 ≤ op) (hhigh : op ≤ 3) : ∃ o, signalOp op n = some o := by
  obtain rfl | rfl | rfl : op = 1 ∨ op = 2 ∨ op = 3 := by omega
  · exact ⟨_, rfl⟩
  · exact ⟨_, rfl⟩
  · exact ⟨_, rfl⟩

/-- `s` once a SIGNAL `x` is out: the next OP_ID stands, a reply that it asks for is awaited, and its core is told PENDING. -/
def signalNotedOut (s : State) (core : Nat) (ctag : BitVec 16) (x : SignalCell) (reply : Bool) : State :=
  let v := s.modSync fun y => { y with
    opId := y.opId + 1
    sigOut := if reply then y.sigOut ++ [{ opId := x.opId, core, counter := x.counter, deadline := x.deadline }] else y.sigOut }
  answered (v.event .tsu 0x034 (dieFlt v) 1) core ctag .pending 0

theorem signalNotedOut_spec (s : State) (core : Nat) (ctag : BitVec 16) (x : SignalCell) (reply : Bool) :
    let t := signalNotedOut s core ctag x reply
    CoreCompleted t core ctag .pending 0 ∧ (∀ i o, CellWaits s .tsu i o → CellWaits t .tsu i o) ∧
    t.tsu.sync.opId = s.tsu.sync.opId + 1 ∧ t.tsu.sync.sigOut = (if reply then
      s.tsu.sync.sigOut ++ [{ opId := x.opId, core, counter := x.counter, deadline := x.deadline }] else s.tsu.sync.sigOut) ∧
    t.tsu.sync.ctrs = s.tsu.sync.ctrs ∧ TsuOnly s t :=
  ⟨coreCompleted_answered .., fun _ _ => id, rfl, rfl, rfl, rfl, rfl, rfl⟩

/-- `s` after a SIGNAL has gone out on both planes. -/
def signalSent (s : State) (core : Nat) (ctag : BitVec 16) (target c op : Nat) (n : W32) (reply : Bool) : State :=
  let x := signalCell s core target c op n reply
  signalNotedOut (sendBoth s (cellNow s .tsu s.tsu.die.sliceId (.signal x))) core ctag x reply

/-- Whether one more reply may be awaited: fewer than 512 are, and fewer than 8 of them by the core (R233). -/
def replyRoom (s : State) (core : Nat) : Prop :=
  s.tsu.sync.sigOut.length < 512 ∧ (s.tsu.sync.sigOut.filter (·.core == core)).length < 8

section
variable {s : State} {core target c op : Nat} {ctag : BitVec 16} {n : W32} {reply : Bool} (hcore : coreInReset s core = false)
  (hrefuses : dieRefusesNew s = none)
include hcore hrefuses

variable (hlow : 1 ≤ op) (hhigh : op ≤ 3) (haway : target ≠ ownIndex s)
include hlow hhigh haway

theorem portSignal_outside (h : inSliceTable s target = false) :
    portSignal core ctag target c op n reply s = answered s core ctag .notMember 0 := by
  obtain ⟨o, ho⟩ := signalOp_exists n hlow hhigh
  unfold portSignal
  rw [hrefuses, ho]
  dsimp only
  rw [if_neg haway, if_pos (by simp [h])]
  exact complete_of_awake _ _ _ hcore

theorem portSignal_busy (hslice : inSliceTable s target = true) (hreply : reply = true) (hroom : ¬ replyRoom s core) :
    portSignal core ctag target c op n reply s = answered (s.count .tsu .signalBusy 0 (dieFlt s) 1) core ctag .busy 0 := by
  obtain ⟨o, ho⟩ := signalOp_exists n hlow hhigh
  have hfull : (reply && (decide (512 ≤ s.tsu.sync.sigOut.length) || decide (8 ≤ (s.tsu.sync.sigOut.filter (·.core == core)).length)))
      = true := by
    unfold replyRoom at hroom
    simp only [hreply, Bool.true_and, Bool.or_eq_true, decide_eq_true_eq]
    omega
  unfold portSignal
  rw [hrefuses, ho]
  dsimp only
  rw [if_neg haway, if_neg (by simp [hslice]), if_pos hfull]
  refine complete_of_awake _ _ _ ?_
  unfold coreInReset
  rw [(count_counts ..).sync_eq]
  exact hcore

theorem portSignal_sent (hslice : inSliceTable s target = true) (hroom : reply = true → replyRoom s core) :
    portSignal core ctag target c op n reply s = signalSent s core ctag target c op n reply := by
  obtain ⟨o, ho⟩ := signalOp_exists n hlow hhigh
  have hfree : ¬ (reply && (decide (512 ≤ s.tsu.sync.sigOut.length) ||
      decide (8 ≤ (s.tsu.sync.sigOut.filter (·.core == core)).length))) = true := by
    unfold replyRoom at hroom
    simp only [Bool.and_eq_true, Bool.or_eq_true, decide_eq_true_eq]
    rintro ⟨hreply, hfull⟩
    have := hroom hreply
    omega
  unfold portSignal
  rw [hrefuses, ho]
  dsimp only
  rw [if_neg haway, if_neg (by simp [hslice]), if_neg hfree]
  refine complete_of_awake _ _ _ ?_
  unfold coreInReset
  rw [(event_counts ..).sync_eq, State.modSync_sync, (sendBoth_sends ..).sync_eq]
  exact hcore

end

theorem portSignal_own {s : State} {core c op : Nat} {ctag : BitVec 16} {n : W32} {reply : Bool} {o : CtrOp}
    (hrefuses : dieRefusesNew s = none) (ho : signalOp op n = some o) :
    portSignal core ctag (ownIndex s) c op n reply s = coreCtr s core ctag c o := by
  unfold portSignal
  rw [hrefuses, ho]
  exact if_pos rfl

/-- What a SIGNAL sent leaves: a cell on each plane in use, the next OP_ID, and an entry for a reply that it asks for. -/
theorem signalSent_spec (s : State) (core : Nat) (ctag : BitVec 16) (target c op : Nat) (n : W32) (reply : Bool) :
    let t := signalSent s core ctag target c op n reply
    let x := signalCell s core target c op n reply
    CoreCompleted t core ctag .pending 0 ∧
    (∀ i ∈ planesOn s, CellWaits t .tsu i (cellNow s .tsu s.tsu.die.sliceId (.signal x))) ∧
    t.tsu.sync.opId = s.tsu.sync.opId + 1 ∧
    t.tsu.sync.sigOut = (if reply then s.tsu.sync.sigOut ++ [{ opId := x.opId, core, counter := c, deadline := x.deadline }]
      else s.tsu.sync.sigOut) ∧ t.tsu.sync.ctrs = s.tsu.sync.ctrs ∧ TsuOnly s t := by
  intro t x
  have hsends := sendBoth_sends s (cellNow s .tsu s.tsu.die.sliceId (.signal x))
  obtain ⟨hdone, hwaits, hop, hout, hctrs, honly⟩ :=
    signalNotedOut_spec (sendBoth s (cellNow s .tsu s.tsu.die.sliceId (.signal x))) core ctag x reply
  rw [hsends.sync_eq] at hop hout hctrs
  exact ⟨hdone, fun i hi => hwaits i _ (sendBoth_self hi), hop, hout, hctrs, partOnly_trans (p := .tsu) hsends.part honly⟩

/-- Settles O25: local barriers by what `localDone` tells the cores, HALL_ARRIVE and SIGNAL by what `sendBoth` leaves waiting. -/
theorem barriersAndSignalsLeaveTheDie : Obligations.BarriersAndSignalsLeaveTheDie := by
  unfold Obligations.BarriersAndSignalsLeaveTheDie
  refine ⟨⟨?define, ?arrive⟩, ?hall, ?away, ?own⟩
  case define =>
    intro core slot g ctag cores s hopen hrefuses hslot hg
    refine completes_of_portOpen hopen rfl ?_
    rw [Nat.mod_eq_of_lt hslot, Nat.mod_eq_of_lt hg]
    cases hbusy : (localOf s slot).open_ with
    | true =>
      rw [portLocalDefine_open (s := requested core s) hopen.awake hrefuses g cores hbusy]
      exact ⟨fun _ => ⟨coreCompleted_answered .., rfl⟩, fun h => absurd h (by decide), requested_only core s⟩
    | false =>
      rw [portLocalDefine_closed (s := requested core s) hopen.awake hrefuses g cores hbusy]
      generalize hb : ({ localOf (requested core s) slot with
        mask := groupCores (maskOf (requested core s).tsu.plate.groups g) cores } : LocalBar) = b
      have hself : localOf (answered (setLocal (requested core s) slot b) core ctag .ok 0) slot = b := localOf_setLocal ..
      rw [hself]
      refine ⟨fun h => absurd h (by decide), fun _ => ⟨coreCompleted_answered .., ?_, fun r j hr hj => ?_, fun k hk => ?_⟩,
        requested_only core s⟩
      · rw [← hb]
        rfl
      · rw [← hb]
        exact tbit_groupCores hr hj
      · exact localOf_setLocal_ne (requested core s) b hk
  case arrive =>
    intro core slot ctag s hopen hrefuses hslot
    refine completes_of_portOpen hopen rfl ?_
    rw [Nat.mod_eq_of_lt hslot]
    cases hmask : tbit (localOf s slot).mask core with
    | false =>
      rw [portLocalArrive_outside (s := requested core s) hopen.awake hrefuses hmask]
      exact ⟨fun _ => ⟨coreCompleted_answered .., rfl⟩, fun h => absurd (hmask.symm.trans h) (by decide),
        fun h => absurd (hmask.symm.trans h) (by decide), fun h => absurd (hmask.symm.trans h) (by decide), fun _ _ => rfl, rfl,
        requested_only core s⟩
    | true =>
      cases harrived : tbit (localOf s slot).arrived core with
      | true =>
        rw [portLocalArrive_again (s := requested core s) hopen.awake hrefuses hmask harrived]
        exact ⟨fun h => absurd (hmask.symm.trans h) (by decide), fun _ _ => ⟨coreCompleted_answered .., rfl⟩,
          fun _ h => absurd (harrived.symm.trans h) (by decide), fun _ h => absurd (harrived.symm.trans h) (by decide),
          fun _ _ => rfl, rfl, requested_only core s⟩
      | false =>
        by_cases hlast : (localOf s slot).arrived + 2 ^ core = (localOf s slot).mask
        · rw [portLocalArrive_last (s := requested core s) hopen.awake hrefuses hmask harrived hlast]
          obtain ⟨hdone, hself, hput, hothers, hctrs, honly⟩ := localDone_localArrived (requested core s) core ctag slot
          rw [hself]
          exact ⟨fun h => absurd (hmask.symm.trans h) (by decide), fun _ h => absurd (harrived.symm.trans h) (by decide),
            fun _ _ h => absurd hlast h, fun _ _ _ => ⟨hdone, rfl, rfl, rfl, hput⟩, hothers, hctrs, honly⟩
        · rw [portLocalArrive_waits (s := requested core s) hopen.awake hrefuses hmask harrived hlast, localOf_localArrived]
          exact ⟨fun h => absurd (hmask.symm.trans h) (by decide), fun _ h => absurd (harrived.symm.trans h) (by decide),
            fun _ _ _ => ⟨localArrived_completed .., rfl, rfl, rfl⟩, fun _ _ h => absurd h hlast,
            fun k hk => localOf_localArrived_ne (requested core s) core ctag slot hk, rfl,
            partOnly_trans (p := .tsu) (requested_only core s) (localArrived_only ..)⟩
  case hall =>
    intro core g ctag s hopen hrefuses hg
    refine completes_of_portOpen hopen rfl ?_
    rw [Nat.mod_eq_of_lt hg]
    by_cases hout : (hallOf s g).valid = false ∨ (hallOf s g).member = false
    · rw [portHallArrive_notMember (s := requested core s) hopen.awake hrefuses hout]
      refine ⟨fun _ => ⟨coreCompleted_answered .., rfl⟩, fun hvalid hmember => ?_, fun hvalid hmember => ?_, requested_only core s⟩
      · simp [hvalid, hmember] at hout
      · simp [hvalid, hmember] at hout
    · obtain ⟨hvalid, hmember⟩ : (hallOf s g).valid = true ∧ (hallOf s g).member = true := by simpa using hout
      by_cases hlate : (hallOf s g).arrivals ≤ (hallOf s g).count
      · rw [portHallArrive_late (s := requested core s) hopen.awake hrefuses hvalid hmember hlate]
        exact ⟨fun h => absurd h hout, fun _ _ _ => ⟨coreCompleted_answered .., rfl⟩, fun _ _ h => absurd hlate (Nat.not_le.mpr h),
          requested_only core s⟩
      · obtain ⟨hdone, hself, hothers, honly⟩ := hallArrived_spec (requested core s) core ctag g
        by_cases hmore : (hallOf s g).count + 1 < (hallOf s g).arrivals
        · rw [portHallArrive_waits (s := requested core s) hopen.awake hrefuses hvalid hmember hmore, hself]
          exact ⟨fun h => absurd h hout, fun _ _ h => absurd h hlate, fun _ _ _ => ⟨hdone, rfl, rfl, rfl, hothers,
            fun h => absurd h hmore.ne, fun _ => rfl⟩, honly⟩
        · have hlast : (hallOf s g).count + 1 = (hallOf s g).arrivals := by omega
          have hsends := sendBoth_sends (hallArrived (requested core s) core ctag g) (arriveCell (requested core s) g)
          rw [portHallArrive_last (s := requested core s) hopen.awake hrefuses hvalid hmember hlast, hsends.hallOf_eq, hself]
          exact ⟨fun h => absurd h hout, fun _ _ h => absurd h hlate, fun _ _ _ => ⟨hsends.coreCompleted hdone, rfl, rfl, rfl,
            fun k hk => (hsends.hallOf_eq k).trans (hothers k hk), fun _ i hi => ⟨arriveCell (requested core s) g,
              barCell (requested core s) .tsu g (hallOf s g).gen false false, arriveCell_waits core ctag g hi, rfl, rfl, rfl, rfl⟩,
            fun h => absurd h hmore⟩, partOnly_trans (p := .tsu) honly hsends.part⟩
  case away =>
    intro core target c op ctag n reply s hopen hrefuses hlow hhigh haway
    refine completes_of_portOpen hopen rfl ?_
    cases hslice : inSliceTable s target with
    | false =>
      rw [portSignal_outside (s := requested core s) hopen.awake hrefuses hlow hhigh haway hslice]
      exact ⟨fun _ => ⟨coreCompleted_answered .., rfl⟩, fun h => absurd h (by decide), fun h => absurd h (by decide), rfl,
        requested_only core s⟩
    | true =>
      by_cases hroom : reply = true → replyRoom s core
      · rw [portSignal_sent (s := requested core s) hopen.awake hrefuses hlow hhigh haway hslice hroom]
        obtain ⟨hdone, hwaits, hop, hout, hctrs, honly⟩ := signalSent_spec (requested core s) core ctag target c op n reply
        refine ⟨fun h => absurd h (by decide), fun _ hreply h => absurd (hroom hreply) h, fun _ _ => ⟨hdone, hop, fun i hi => ?_,
          fun hreply => ⟨_, hout.trans (if_pos hreply), rfl, rfl, rfl⟩, fun hreply => hout.trans (if_neg (by simp [hreply]))⟩,
          hctrs, honly⟩
        exact ⟨_, signalCell (requested core s) core target c op n reply, hwaits i hi, rfl, rfl, rfl, rfl, rfl, rfl, rfl, rfl, rfl⟩
      · obtain ⟨hreply, hfull⟩ := Classical.not_imp.mp hroom
        rw [portSignal_busy (s := requested core s) hopen.awake hrefuses hlow hhigh haway hslice hreply hfull]
        have hcount := count_counts (requested core s) .tsu .signalBusy 0 (dieFlt (requested core s)) 1
        refine ⟨fun h => absurd h (by decide), fun _ _ _ => ⟨coreCompleted_answered .., ?_, ?_⟩, fun _ h => absurd h hroom, ?_,
          hcount.part⟩
        · exact (congrArg Base.ports hcount.base :)
        · exact (congrArg Sync.sigOut hcount.sync_eq :)
        · exact (congrArg Sync.ctrs hcount.sync_eq :)
  case own =>
    intro core c ctag n reply s hopen hrefuses
    have hown : ∀ op o i q, signalOp op n = some o →
        exec i s = onCore core s (portGate core q fun u => coreCtr u core ctag c o) →
        exec (.signal core ctag (ownIndex s) c op n reply) s = exec i s := by
      intro op o i q ho hi
      rw [exec_of_portOpen hopen hi]
      exact (exec_of_portOpen hopen rfl).trans (congrArg _ (portSignal_own (s := requested core s) hrefuses ho))
    exact ⟨hown _ _ _ _ rfl rfl, hown _ _ _ _ rfl rfl, hown _ _ _ _ rfl rfl⟩

end Sys2Proof.Machine

namespace Sys2Proof.Machine

open Sys2Proof

/-! ### What a completion leaves of the counter table (R386, R388) -/

/-- `t` differs from `s` in the die's common state, its mailboxes and its interrupts alone. -/
structure PostsOnly (s t : State) : Prop where
  tsu : t.tsu = { s.tsu with
    b := t.tsu.b, mbs := t.tsu.mbs, die := { s.tsu.die with pba := t.tsu.die.pba, msix := t.tsu.die.msix } }

theorem PostsOnly.trans {s t u : State} (h : PostsOnly s t) (k : PostsOnly t u) : PostsOnly s u := ⟨by rw [k.tsu, h.tsu]⟩

theorem CountsOnly.posts {p : Part} {s t : State} (h : CountsOnly p s t) : PostsOnly s t := ⟨by rw [h.tsu]⟩

theorem cplPost_posts (s : State) (m : Nat) (cp : Completion) : PostsOnly s (cplPost s m cp) := by
  obtain ⟨-, -, htsu⟩ := cplPost_frame s m cp
  exact ⟨by rw [htsu]⟩

theorem complete_posts (s : State) {c : Cmd} (cp : Completion) (h : c.part = .tsu) : PostsOnly s (complete_ s c cp) := by
  obtain ⟨p, m, tag, txn⟩ := c
  cases h
  unfold complete_
  extract_lets now found sched s1 s2 s3 s4 s5 s6
  have h1 : PostsOnly s s1 := by
    simp only [s1]
    split <;> exact ⟨rfl⟩
  have h4 : PostsOnly s s4 := h1.trans (cplPost_posts ..)
  have h5 : PostsOnly s s5 := h4.trans (event_counts ..).posts
  have h6 : PostsOnly s s6 := by
    simp only [s6]
    split
    · exact h5.trans (event_counts ..).posts
    · exact h5
  split
  · exact h6.trans (sample_counts ..).posts
  · exact h4

theorem complete_sync (s : State) {c : Cmd} (cp : Completion) (h : c.part = .tsu) : (complete_ s c cp).tsu.sync = s.tsu.sync := by
  rw [(complete_posts s cp h).tsu]

/-! ### A counter command that the die takes (R219, R391) -/

/-- A mailbox command that may be given runs on the state with its slot consumed. -/
theorem completes_of_onCmd {i : Instr} {c : Cmd} {op : Nat} {s : State} {f : State → State} {post : State → Prop}
    (hready : hsReady s c = true) (hmbx : c.mbx ≤ 3) (hpart : c.part = .tsu) (hexec : exec i s = onCmd c op true s f)
    (hpost : ∀ m, ((s.withMbs m).mbox c.mbx).held = [] → post (f (s.withMbs m))) : Completes i s post := by
  have htaken := cmdTake_taken s c op
  have hheld := htaken.held.trans (held_of_hsReady hready hpart)
  refine ⟨_, hexec.trans (onCmd_taken (fun _ => hmbx) hready), ?_⟩
  rw [htaken.frame] at hheld ⊢
  exact hpost _ hheld

section
variable {s : State} {c : Cmd} {op k : Nat} (hpart : c.part = .tsu)
include hpart

theorem ctrCmd_of_refuses {st : Status} (f : State → State) (h : dieRefuses s = some st) : ctrCmd c op k s f = done s c op st := by
  unfold ctrCmd
  rw [dieOnly_of_tsu _ _ _ hpart, h]

theorem ctrCmd_of_ge (f : State → State) (hrefuses : dieRefuses s = none) (h : 4096 ≤ k) :
    ctrCmd c op k s f = done s c op .badCommand := by
  unfold ctrCmd
  rw [dieOnly_of_tsu _ _ _ hpart, hrefuses]
  exact if_pos h

theorem ctrCmd_of_lt (f : State → State) (hrefuses : dieRefuses s = none) (h : k < 4096) : ctrCmd c op k s f = f s := by
  unfold ctrCmd
  rw [dieOnly_of_tsu _ _ _ hpart, hrefuses]
  exact if_neg (Nat.not_le.mpr h)

variable (hheld : (s.mbox c.mbx).held = [])
include hheld

/-- A counter command that ends with a status leaves the counters, the watches and the rest of the counter unit. -/
theorem done_counter {st : Status} (hst : st ≠ .pending) : let t := done s c op st
    Answers c op st t ∧ t.tsu.sync = s.tsu.sync ∧ TsuOnly s t := by
  obtain ⟨hanswers, -, -, honly⟩ := done_spec op (fun _ => hheld) hst
  rw [hpart] at honly
  exact ⟨hanswers, complete_sync _ _ hpart, honly⟩

/-- One that ends with the number and the VALUE of its counter. -/
theorem ctrDone_counter (v : W32) : let t := ctrDone c op k v s
    Answers c op .ok t ∧ (∃ x, lastCompletion t c = some x ∧ x.r0 = BitVec.ofNat 64 k ∧ x.r1 = v.setWidth 64) ∧
    t.tsu.sync = s.tsu.sync ∧ TsuOnly s t := by
  have honly := doneR_partOnly s c op .ok (BitVec.ofNat 64 k) (v.setWidth 64) 0
  rw [hpart] at honly
  exact ⟨doneR_answers fun _ => hheld, ⟨_, complete_last _ fun _ => hheld, rfl, rfl⟩, complete_sync _ _ hpart, honly⟩

end

/-- A die that refuses its operations never answers PENDING. -/
theorem dieRefuses_ne_pending {s : State} {st : Status} (h : dieRefuses s = some st) : st ≠ .pending := by
  unfold dieRefuses at h
  split at h
  · cases h
    decide
  · split at h
    · cases h
      decide
    · split at h
      · cases h
        decide
      · cases h

theorem ctrOf_of_sync {s t : State} (h : t.tsu.sync = s.tsu.sync) (k : Nat) : ctrOf t k = ctrOf s k := by
  unfold ctrOf
  rw [h]

/-! ### A counter allocated, freed, set and read (R219 to R221, R228) -/

theorem DeliversOnly.mbox_eq {s t : State} (h : DeliversOnly s t) (m : Nat) : t.mbox m = s.mbox m := by
  rw [h.frame]
  rfl

/-- `t` is `s` with counter `k` changed to `v`, and what follows from that at the watches and the conditions held on it. -/
structure CtrChanged (s : State) (k : Nat) (v : SyncCtr) (t : State) : Prop where
  delivers : DeliversOnly (s.withCtr k v) t

section
variable {s t : State} {k : Nat} {v : SyncCtr} (h : CtrChanged s k v t)
include h

theorem CtrChanged.self : ctrOf t k = v := by
  unfold ctrOf
  rw [h.delivers.ctrs_eq]
  exact withCtr_self s k v

theorem CtrChanged.other {j : Nat} (hj : j ≠ k) : ctrOf t j = ctrOf s j := by
  unfold ctrOf
  rw [h.delivers.ctrs_eq]
  exact withCtr_other s v hj

theorem CtrChanged.only : TsuOnly s t := h.delivers.only

theorem CtrChanged.held {m : Nat} (hs : (s.mbox m).held = []) : (t.mbox m).held = [] := by
  rw [h.delivers.mbox_eq]
  exact hs

end

theorem ctrAllocate_changed (s : State) (k : Nat) :
    CtrChanged s k { alloc := true, value := 0, limit := 0xFFFFFFFF } (ctrAllocate s k) := ⟨holdCheck_delivers ..⟩

theorem ctrWrite_changed (s : State) (k : Nat) (v : SyncCtr) : CtrChanged s k v (ctrWrite s k v) := ⟨ctrWrite_delivers ..⟩

/-- A counter written after something has been counted. -/
theorem CountsOnly.ctrWrite_changed {s t : State} (h : CountsOnly .tsu s t) (k : Nat) (v : SyncCtr) :
    CtrChanged s k v (ctrWrite t k v) := by
  obtain ⟨hframe, harmed⟩ := h.delivers
  have hcounted : DeliversOnly (s.withCtr k v) (t.withCtr k v) := ⟨congrArg (State.withCtr · k v) hframe, harmed⟩
  exact ⟨hcounted.trans (ctrWrite_delivers t k v)⟩

theorem ctrOp_set {s : State} {k : Nat} (v l : W32) {src : Src} (halloc : (ctrOf s k).alloc = true) : ctrOp s k (.set v l) src =
    (ctrWrite (s.clamped .tsu (decide (l.toNat < v.toNat))) k
      { ctrOf s k with value := if l.toNat < v.toNat then l else v, limit := l }, .ok, if l.toNat < v.toNat then l else v) := by
  unfold ctrOp
  simp [halloc]

/-- One watch of a counter that is freed: it is removed, and its target hears of it (R228). -/
def watchCancelled (s : State) (e : Nat × Option Watch) : State :=
  match e.2 with
  | none => s
  | some x => msgPut (watchRemove s e.1)
      { core := x.target, kind := 1, status := .cancelled, tag := x.tag, id := e.1, stLo := stLo s }

/-- The watches on a counter. -/
def watchesOn (s : State) (k : Nat) : List (Nat × Option Watch) :=
  s.tsu.sync.watches.filter fun e => (e.2.map (·.counter)) == some k

theorem ctrFree_eq (s : State) (k : Nat) : ctrFree s k = (watchesOn s k).foldl watchCancelled (s.withCtr k {}) := rfl

theorem watchCancelled_delivers (s : State) (e : Nat × Option Watch) : DeliversOnly s (watchCancelled s e) := by
  unfold watchCancelled
  split
  · exact .refl s
  · refine .trans ?_ (msgPut_delivers ..)
    exact ⟨rfl, id⟩

theorem ctrFree_changed (s : State) (k : Nat) : CtrChanged s k {} (ctrFree s k) := by
  rw [ctrFree_eq]
  exact ⟨.foldl _ watchCancelled_delivers _ _⟩

/-- A watch that is still registered was before, and is not one of those cancelled. -/
theorem watch_of_foldl_watchCancelled {w : Nat} {x : Watch} : ∀ {l : List (Nat × Option Watch)} {s : State},
    tget none (l.foldl watchCancelled s).tsu.sync.watches w = some x →
      tget none s.tsu.sync.watches w = some x ∧ ∀ y, (w, some y) ∉ l
  | [], _, h => ⟨h, fun _ => List.not_mem_nil⟩
  | (n, none) :: l, s, h => by
    obtain ⟨hs, hl⟩ := watch_of_foldl_watchCancelled (l := l) (s := s) h
    exact ⟨hs, fun y hy => (List.mem_cons.mp hy).elim (fun he => by simp at he) (hl y)⟩
  | (n, some z) :: l, s, h => by
    obtain ⟨hs, hl⟩ := watch_of_foldl_watchCancelled (l := l) h
    have hstep : (watchCancelled s (n, some z)).tsu.sync.watches = (s.withWatch n none).tsu.sync.watches := msgPut_watches ..
    rw [hstep] at hs
    by_cases hn : w = n
    · rw [hn, withWatch_self] at hs
      exact absurd hs (by simp)
    · rw [withWatch_other s none hn] at hs
      refine ⟨hs, fun y hy => (List.mem_cons.mp hy).elim (fun he => hn (congrArg Prod.fst he)) (hl y)⟩

theorem mem_of_tget_eq_some {α : Type} {t : Tab (Option α)} {k : Nat} {x : α} (h : tget none t k = some x) : (k, some x) ∈ t := by
  induction t with
  | nil => exact absurd h (by simp)
  | cons e t ih =>
    obtain ⟨n, y⟩ := e
    unfold tget at h
    split at h
    · rename_i hk
      rw [hk, h]
      exact List.mem_cons_self
    · exact List.mem_cons_of_mem _ (ih h)

/-- No watch is left on a counter that is freed (R228). -/
theorem ctrFree_watch {s : State} {k w : Nat} {x : Watch} (h : tget none (ctrFree s k).tsu.sync.watches w = some x) :
    x.counter ≠ k := by
  rw [ctrFree_eq] at h
  obtain ⟨hs, hnone⟩ := watch_of_foldl_watchCancelled h
  intro hk
  refine hnone x (List.mem_filter.mpr ⟨mem_of_tget_eq_some hs, ?_⟩)
  rw [Option.map_some, hk]
  exact beq_self_eq_true _

/-- A SET or READ that its counter takes. -/
theorem cmdCtrOp_ok {s u : State} {c : Cmd} {op k : Nat} {x : CtrOp} {v : W32} (hpart : c.part = .tsu) (hrefuses : dieRefuses s = none)
    (hk : k < 4096) (hop : ctrOp s k x {} = (u, .ok, v)) : cmdCtrOp c op k x s = ctrDone c op k v u := by
  unfold cmdCtrOp
  rw [ctrCmd_of_lt hpart _ hrefuses hk, hop]

/-- A SET or READ of a counter that is not there, or not allocated. -/
theorem cmdCtrOp_bad {s : State} {c : Cmd} {op k : Nat} (x : CtrOp) (hpart : c.part = .tsu) (hrefuses : dieRefuses s = none)
    (h : 4096 ≤ k ∨ (ctrOf s k).alloc = false) : cmdCtrOp c op k x s = done s c op .badCommand := by
  unfold cmdCtrOp
  by_cases hk : 4096 ≤ k
  · exact ctrCmd_of_ge hpart _ hrefuses hk
  · rw [ctrCmd_of_lt hpart _ hrefuses (Nat.not_le.mp hk), ctrOp_of_unallocated (h.resolve_left hk)]

theorem lowestFree_of_full {s : State} (h : ∀ k, k < 4096 → (ctrOf s k).alloc = true) :
    lowestFree 4096 (fun k => !(ctrOf s k).alloc) = none := lowestFree_eq_none fun k hk => by simp [h k hk]

theorem lowestFree_of_first {s : State} {k : Nat} (hk : k < 4096) (hfree : (ctrOf s k).alloc = false)
    (hlow : ∀ j, j < k → (ctrOf s j).alloc = true) : lowestFree 4096 (fun k => !(ctrOf s k).alloc) = some k :=
  lowestFree_eq_some hk (by simp [hfree]) fun j hj => by simp [hlow j hj]

/-- A command that ends with the number of the counter that it has changed. -/
theorem ctrDone_changed {s u : State} {c : Cmd} {op k : Nat} {x : SyncCtr} (v : W32) (hpart : c.part = .tsu)
    (hheld : (s.mbox c.mbx).held = []) (h : CtrChanged s k x u) : let t := ctrDone c op k v u
    Answers c op .ok t ∧ ctrOf t k = x ∧ (∀ j, j ≠ k → ctrOf t j = ctrOf s j) ∧
    (∃ y, lastCompletion t c = some y ∧ y.r0 = BitVec.ofNat 64 k ∧ y.r1 = v.setWidth 64) ∧ TsuOnly s t := by
  obtain ⟨hanswers, hresult, hsync, honly⟩ := ctrDone_counter (op := op) (k := k) hpart (h.held hheld) v
  exact ⟨hanswers, (ctrOf_of_sync hsync k).trans h.self, fun j hj => (ctrOf_of_sync hsync j).trans (h.other hj), hresult,
    partOnly_trans (p := .tsu) h.only honly⟩

/-- Settles O50: each command by what `ctrCmd` lets through, and by what it changes of the table (`CtrChanged`). -/
theorem counterCommandsManageTheTable : Obligations.CounterCommandsManageTheTable := by
  unfold Obligations.CounterCommandsManageTheTable
  refine ⟨?refused, ?alloc, ?allocAt, ?free, ?set, ?read⟩
  case refused =>
    intro i c op st s hready hmbx hpart hrefuses hi
    obtain ⟨f, hexec, hf⟩ : ∃ f, exec i s = onCmd c op true s f ∧ ∀ m, f (s.withMbs m) = done (s.withMbs m) c op st := by
      rcases hi with ⟨rfl, rfl⟩ | ⟨k, ⟨rfl, rfl⟩ | ⟨rfl, rfl⟩ | ⟨v, l, rfl, rfl, hm0⟩ | ⟨rfl, rfl⟩⟩
      case inr.inr.inr.inl => exact ⟨_, congrArg (onCmd c 0x33 · s _) hm0, fun m => ctrCmd_of_refuses (s := s.withMbs m) hpart _ hrefuses⟩
      all_goals exact ⟨_, rfl, fun m => ctrCmd_of_refuses (s := s.withMbs m) hpart _ hrefuses⟩
    refine completes_of_onCmd hready hmbx hpart hexec fun m hheld => ?_
    rw [hf]
    exact done_counter hpart hheld (dieRefuses_ne_pending hrefuses)
  case alloc =>
    intro c s hready hmbx hpart hrefuses
    refine completes_of_onCmd hready hmbx hpart rfl fun m hheld => ?_
    unfold cmdCtrAlloc
    rw [ctrCmd_of_lt (s := s.withMbs m) hpart _ hrefuses (by decide)]
    cases hlowest : lowestFree 4096 fun k => !(ctrOf (s.withMbs m) k).alloc with
    | none =>
      obtain ⟨hanswers, hsync, honly⟩ := done_counter (op := 0x30) (st := .full) hpart hheld (by decide)
      exact ⟨fun _ => ⟨hanswers, hsync⟩,
        fun k hk hfree hlow => absurd (hlowest.symm.trans (lowestFree_of_first (s := s) hk hfree hlow)) (by simp), honly⟩
    | some n =>
      obtain ⟨hanswers, hself, hothers, ⟨x, hx, hr0, -⟩, honly⟩ :=
        ctrDone_changed (op := 0x30) 0 hpart hheld (ctrAllocate_changed (s.withMbs m) n)
      refine ⟨fun hall => absurd (hlowest.symm.trans (lowestFree_of_full (s := s) hall)) (by simp), fun k hk hfree hlow => ?_, honly⟩
      obtain rfl : n = k := Option.some.inj (hlowest.symm.trans (lowestFree_of_first (s := s) hk hfree hlow))
      exact ⟨hanswers, hself, hothers, x, hx, hr0⟩
  case allocAt =>
    intro c k s hready hmbx hpart hrefuses
    refine completes_of_onCmd hready hmbx hpart rfl fun m hheld => ?_
    unfold cmdCtrAllocAt
    by_cases hhigh : 4096 ≤ k
    · rw [ctrCmd_of_ge (s := s.withMbs m) hpart _ hrefuses hhigh]
      obtain ⟨hanswers, hsync, honly⟩ := done_counter (op := 0x31) (st := .badCommand) hpart hheld (by decide)
      exact ⟨fun _ => ⟨hanswers, hsync⟩, fun h => absurd hhigh (Nat.not_le.mpr h), fun h => absurd hhigh (Nat.not_le.mpr h), honly⟩
    · rw [ctrCmd_of_lt (s := s.withMbs m) hpart _ hrefuses (Nat.not_le.mp hhigh)]
      cases halloc : (ctrOf (s.withMbs m) k).alloc with
      | true =>
        obtain ⟨hanswers, hsync, honly⟩ := done_counter (op := 0x31) (st := .busy) hpart hheld (by decide)
        exact ⟨fun h => absurd h hhigh, fun _ _ => ⟨hanswers, hsync⟩, fun _ h => absurd (halloc.symm.trans h) (by decide), honly⟩
      | false =>
        obtain ⟨hanswers, hself, hothers, -, honly⟩ :=
          ctrDone_changed (op := 0x31) 0 hpart hheld (ctrAllocate_changed (s.withMbs m) k)
        exact ⟨fun h => absurd h hhigh, fun _ h => absurd (halloc.symm.trans h) (by decide), fun _ _ => ⟨hanswers, hothers, hself⟩,
          honly⟩
  case free =>
    intro c k s hready hmbx hpart hrefuses hk
    refine completes_of_onCmd hready hmbx hpart rfl fun m hheld => ?_
    unfold cmdCtrFree
    rw [ctrCmd_of_lt (s := s.withMbs m) hpart _ hrefuses hk]
    cases halloc : (ctrOf (s.withMbs m) k).alloc with
    | false =>
      obtain ⟨hanswers, hsync, honly⟩ := done_counter (op := 0x32) (st := .badCommand) hpart hheld (by decide)
      exact ⟨fun _ => ⟨hanswers, hsync⟩, fun h => absurd (halloc.symm.trans h) (by decide), honly⟩
    | true =>
      have hfreed := ctrFree_changed (s.withMbs m) k
      obtain ⟨hanswers, hsync, honly⟩ := done_counter (op := 0x32) (st := .ok) hpart (hfreed.held hheld) (by decide)
      refine ⟨fun h => absurd (halloc.symm.trans h) (by decide), fun _ => ⟨hanswers, (ctrOf_of_sync hsync k).trans hfreed.self,
        fun j hj => (ctrOf_of_sync hsync j).trans (hfreed.other hj), fun w x hx => ?_⟩, partOnly_trans (p := .tsu) hfreed.only honly⟩
      exact ctrFree_watch ((congrArg (fun y : Sync => tget none y.watches w) hsync).symm.trans hx)
  case set =>
    intro c k v l s hready hmbx hpart hrefuses
    cases hm0 : isM0 c with
    | false =>
      have htaken := cmdTake_taken s c 0x33
      have hexec : exec (.ctrSet c k v l) s = .next (done (cmdTake s c 0x33) c 0x33 .denied) :=
        (congrArg (onCmd c 0x33 · s _) hm0).trans (onCmd_refused hmbx hready)
      obtain ⟨hanswers, hsync, honly⟩ := done_counter (op := 0x33) (st := .denied) hpart
        (htaken.held.trans (held_of_hsReady hready hpart)) (by decide)
      rw [htaken.frame] at hexec hanswers hsync honly
      exact ⟨_, hexec, fun _ => ⟨hanswers, hsync⟩, fun h => absurd h (by decide), fun h => absurd h (by decide), honly⟩
    | true =>
      refine completes_of_onCmd hready hmbx hpart (congrArg (onCmd c 0x33 · s _) hm0) fun m hheld => ?_
      by_cases hbad : 4096 ≤ k ∨ (ctrOf s k).alloc = false
      · rw [cmdCtrOp_bad (s := s.withMbs m) _ hpart hrefuses hbad]
        obtain ⟨hanswers, -, honly⟩ := done_counter (op := 0x33) (st := .badCommand) hpart hheld (by decide)
        refine ⟨fun h => absurd h (by decide), fun _ _ => hanswers, fun _ hk halloc => absurd hbad ?_, honly⟩
        simp [hk, halloc]
      · obtain ⟨hk, halloc⟩ : k < 4096 ∧ (ctrOf s k).alloc = true := by simpa using hbad
        rw [cmdCtrOp_ok (s := s.withMbs m) hpart hrefuses hk (ctrOp_set v l halloc)]
        obtain ⟨hanswers, hself, hothers, -, honly⟩ := ctrDone_changed (op := 0x33) (if l.toNat < v.toNat then l else v) hpart hheld
          ((clamped_counts (s.withMbs m) .tsu (decide (l.toNat < v.toNat))).ctrWrite_changed k
            { ctrOf s k with value := if l.toNat < v.toNat then l else v, limit := l })
        exact ⟨fun h => absurd h (by decide), fun _ h => absurd h hbad, fun _ _ _ => ⟨hanswers, hothers, hself⟩, honly⟩
  case read =>
    intro c k s hready hmbx hpart hrefuses
    refine completes_of_onCmd hready hmbx hpart rfl fun m hheld => ?_
    by_cases hbad : 4096 ≤ k ∨ (ctrOf s k).alloc = false
    · rw [cmdCtrOp_bad (s := s.withMbs m) _ hpart hrefuses hbad]
      obtain ⟨hanswers, hsync, honly⟩ := done_counter (op := 0x34) (st := .badCommand) hpart hheld (by decide)
      refine ⟨fun _ => hanswers, fun hk halloc => absurd hbad ?_, fun j => ctrOf_of_sync (s := s) hsync j, honly⟩
      simp [hk, halloc]
    · obtain ⟨hk, halloc⟩ : k < 4096 ∧ (ctrOf s k).alloc = true := by simpa using hbad
      rw [cmdCtrOp_ok (s := s.withMbs m) hpart hrefuses hk (ctrOp_read halloc)]
      obtain ⟨hanswers, hself, hothers, ⟨x, hx, -, hr1⟩, honly⟩ := ctrDone_changed (op := 0x34) (ctrOf s k).value hpart hheld
        (ctrWrite_changed (s.withMbs m) k (ctrOf s k))
      refine ⟨fun h => absurd h hbad, fun _ _ => ⟨hanswers, x, hx, hr1⟩, fun j => ?_, honly⟩
      by_cases hj : j = k
      · rw [hj]
        exact hself
      · exact hothers j hj

end Sys2Proof.Machine
